-- ==== Sys2Proof/Word.lean ====
section
/-! DEFINITION. The word types of the architecture and their plainest arithmetic (R3, R98, R101). -/

namespace Sys2Proof

/-- A byte of memory. -/
abbrev Byte := BitVec 8
/-- A scalar register, a special register, a slot word (R3, Table 4-6). -/
abbrev Word := BitVec 64
/-- A vector register (Table 4-6). -/
abbrev VWord := BitVec 512
/-- The number of a scalar register (R98). -/
abbrev XReg := BitVec 5
/-- The number of a vector register: only 0-15 can be written (R98). -/
abbrev VReg := BitVec 4
/-- The number of a predicate (R101). -/
abbrev PReg := BitVec 3
/-- The number of a lane mask (R101). -/
abbrev MReg := BitVec 3
/-- A finite map keyed by numbers: pairs in strictly rising key order; an unlisted key reads as the map's default. -/
abbrev SMap (α : Type) := List (Nat × α)

end Sys2Proof
end

