-- ==== Sys2Proof/Syntax.lean ====
section
/-! DEFINITION. The syntax of Zorga: one constructor of `Instr` per row of the opcode table (R94-R122 for the
instruction words; file 95 of the spec for the events, which have no encoding). -/

namespace Sys2Proof

/-- The guarding predicate PG and its sense PN (Table 4-3). -/
structure Guard where
  pg : PReg
  pn : Bool
  deriving DecidableEq, Repr

/-- SETP conditions (Table 4-13). -/
inductive Cond where
  | eq | ne | lt | le | gt | ge | ltu | leu | gtu | geu | tst
  deriving DecidableEq, Repr

/-- SETPI conditions of opcode 0x11 (Table 4-13). -/
inductive CondA where
  | eq | ne | lt | ge
  deriving DecidableEq, Repr

/-- SETPI conditions of opcode 0x12 (Table 4-13). -/
inductive CondB where
  | ltu | geu | le | gt
  deriving DecidableEq, Repr

/-- FSETP conditions (Table 4-13). -/
inductive FCond where
  | eq | ne | lt | le | gt | ge | un | ord
  deriving DecidableEq, Repr

/-- PLOG operations (Table 4-13). -/
inductive PlogOp where
  | and | or | xor | andn | orn | not
  deriving DecidableEq, Repr

/-- MLOG operations (Table 4-24). -/
inductive MlogOp where
  | and | or | xor | andn | not
  deriving DecidableEq, Repr

/-- Scalar precision P (R111). -/
inductive Prec where
  | s | d
  deriving DecidableEq, Repr

/-- Rounding field RND (Table 4-8). -/
inductive Rnd where
  | rne | rtz | rup | rdn | rna | rgn
  deriving DecidableEq, Repr

/-- FCVT conversion codes in code order (Table 4-15): destination first, source second. -/
inductive Cvt where
  | dS | sD | sH | hS | sBf | bfS | sE4 | e4S | sE5 | e5S
  | dI64 | i64D | dU64 | u64D | sI32 | i32S | sU32 | u32S | dI32 | i32D
  deriving DecidableEq, Repr

/-- Access size SZ of local and global scalar accesses (R115). -/
inductive Size where
  | b | h | w | d
  deriving DecidableEq, Repr

/-- Access size SZ of an atomic (R116). -/
inductive ASize where
  | w | d
  deriving DecidableEq, Repr

/-- Ordering qualifier ORD of an atomic (R116). -/
inductive Ord where
  | rlx | acq | rel | acqRel
  deriving DecidableEq, Repr

/-- Eviction hint EVP (Table 4-10). -/
inductive Evp where
  | normal | keep | evictFirst | noAlloc
  deriving DecidableEq, Repr

/-- Scope of a FENCE (Table 9-1). -/
inductive Scope where
  | l | m | s
  deriving DecidableEq, Repr

/-- Copy direction DIR (Table 4-21): source, then destination. -/
inductive CopyDir where
  | gl | lg | gg | ll
  deriving DecidableEq, Repr

/-- Index width of a GTHR (Table 4-21). -/
inductive IdxWidth where
  | i32 | i64
  deriving DecidableEq, Repr

/-- MMG value code (Table 4-23). -/
inductive MmgVal where
  | bf16 | e4m3
  deriving DecidableEq, Repr

/-- MMG activation format (Table 4-23). -/
inductive MmgAct where
  | bf16 | f32 | f16
  deriving DecidableEq, Repr

/-- Format tag (Table 5-3). -/
inductive Tag where
  | fp32 | bf16 | fp16 | e4m3 | e5m2 | e2m1 | int8 | int4
  deriving DecidableEq, Repr

/-- Element types of the vector arithmetic opcodes 0x58-0x5D and of VCMP (Table 4-24). -/
inductive VType where
  | f32 | f16 | bf16 | i32 | i16 | i8
  deriving DecidableEq, Repr

/-- Element type field ET (Table 4-9). -/
inductive Et where
  | f32 | f16 | bf16 | e4m3 | e5m2 | e2m1 | i32 | i16 | i8
  deriving DecidableEq, Repr

/-- Element types of VRCP, VRSQ, VEXP2 and VLOG2 (ET 0-2). -/
inductive EtF where
  | f32 | f16 | bf16
  deriving DecidableEq, Repr

/-- Element types of VIOTA (ET 6-8). -/
inductive EtI where
  | i32 | i16 | i8
  deriving DecidableEq, Repr

/-- VCMP conditions (Table 4-24). -/
inductive VCond where
  | eq | ne | lt | le | ltu | leu | un
  deriving DecidableEq, Repr

/-- Lane width of the permuting vector instructions (Table 4-24). -/
inductive LaneW where
  | w | h | b | d
  deriving DecidableEq, Repr

/-- The VOP of a VX: an arithmetic function of opcodes 0x58-0x5D at a type, or a function 0-3 of opcode 0x61
(Table 4-26). -/
inductive Vop where
  | add (t : VType) | sub (t : VType) | mul (t : VType) | fma (t : VType)
  | min (t : VType) | max (t : VType) | abs (t : VType) | neg (t : VType)
  | rcp (t : EtF) | rsq (t : EtF) | exp2 (t : EtF) | log2 (t : EtF)
  deriving DecidableEq, Repr

/-- The function field of CPY and CPY2 (Table 4-21). -/
structure CopyFn where
  lu  : Bool
  evp : Evp
  q   : BitVec 3
  r   : Bool
  dir : CopyDir
  byt : Bool
  n   : Bool
  deriving DecidableEq, Repr

/-- The function field of GTHR (Table 4-21 with DIR naming the index width). -/
structure GthrFn where
  lu  : Bool
  evp : Evp
  q   : BitVec 3
  r   : Bool
  iw  : IdxWidth
  byt : Bool
  n   : Bool
  deriving DecidableEq, Repr

/-- Lifecycle states (R322, Table 14-4). -/
inductive Lifecycle where
  | manufacturing | provisioned | deployed | authorisedDebug | decommissioned
  deriving DecidableEq, Repr

/-- What an uncorrectable ECC error strikes (R309-R311): data words, which become poisoned, and the structures that
cannot carry poison. -/
inductive EccTarget where
  /-- the aligned 8-byte word of global memory that holds this physical address -/
  | globalWord (pa : Nat)
  /-- the aligned 8-byte word of a core's local memory that holds this address -/
  | localWord (core : Nat) (addr : Nat)
  /-- the bin of (binding index, line) in an Eddy unit (R257) -/
  | eddyBin (unit bid line : Nat)
  /-- a run record of (binding index, line) in an Eddy unit (R257) -/
  | eddyRun (unit bid run line : Nat)
  /-- a ready-queue entry of a core (DETAIL 1) -/
  | readyQueue (core idx : Nat)
  /-- a refill-queue entry of a core (DETAIL 2) -/
  | refillQueue (core idx : Nat)
  /-- a symbol of a core (DETAIL 3) -/
  | symbolTable (core idx : Nat)
  /-- a dependant-pool entry of a core (DETAIL 4) -/
  | poolEntry (core idx : Nat)
  /-- a hold entry of a core (DETAIL 5) -/
  | holdEntry (core idx : Nat)
  /-- the service core's instruction memory -/
  | serviceCore
  /-- a queue-table entry -/
  | queueTable (q : Nat)
  deriving DecidableEq, Repr

/-- Kinds of housekeeping work, in the order a controller takes them (R293). -/
inductive HkKind where
  | refresh | fill | spill | pageZero | scrub | mergeApply
  deriving DecidableEq, Repr

/-- SPDM requests (R322). -/
inductive SpdmReq where
  | getVersion | getCapabilities | negotiateAlgorithms | getDigests | getCertificate | challenge | getMeasurements
  deriving DecidableEq, Repr

/-- One constructor per row of the opcode table. An instruction's first argument is its guard.
An event's arguments say which of the pending things it acts on: `pkt` is an index into the packets of the network. -/
inductive Instr where
  -- scalar integer (Table 4-12)
  | add (g : Guard) (d a b : XReg)
  | sub (g : Guard) (d a b : XReg)
  | and (g : Guard) (d a b : XReg)
  | or (g : Guard) (d a b : XReg)
  | xor (g : Guard) (d a b : XReg)
  | shl (g : Guard) (d a b : XReg)
  | shr (g : Guard) (d a b : XReg)
  | sar (g : Guard) (d a b : XReg)
  | min (g : Guard) (d a b : XReg)
  | max (g : Guard) (d a b : XReg)
  | minu (g : Guard) (d a b : XReg)
  | maxu (g : Guard) (d a b : XReg)
  | mul (g : Guard) (d a b : XReg)
  | mulh (g : Guard) (d a b : XReg)
  | mulhu (g : Guard) (d a b : XReg)
  | div (g : Guard) (d a b : XReg)
  | divu (g : Guard) (d a b : XReg)
  | rem (g : Guard) (d a b : XReg)
  | remu (g : Guard) (d a b : XReg)
  | clz (g : Guard) (d a : XReg)
  | ctz (g : Guard) (d a : XReg)
  | popc (g : Guard) (d a : XReg)
  | addi (g : Guard) (d a : XReg) (imm : BitVec 11)
  | andi (g : Guard) (d a : XReg) (imm : BitVec 11)
  | ori (g : Guard) (d a : XReg) (imm : BitVec 11)
  | xori (g : Guard) (d a : XReg) (imm : BitVec 11)
  | shli (g : Guard) (d a : XReg) (sh : BitVec 6)
  | shri (g : Guard) (d a : XReg) (sh : BitVec 6)
  | sari (g : Guard) (d a : XReg) (sh : BitVec 6)
  -- predicates (Table 4-13)
  | sel (g : Guard) (d a b : XReg) (k : PReg)
  | setp (g : Guard) (cond : Cond) (pd : PReg) (a b : XReg)
  | setpiA (g : Guard) (cond : CondA) (pd : PReg) (a : XReg) (imm : BitVec 11)
  | setpiB (g : Guard) (cond : CondB) (pd : PReg) (a : XReg) (imm : BitVec 11)
  | fsetp (g : Guard) (prec : Prec) (cond : FCond) (pd : PReg) (a b : XReg)
  | plog (g : Guard) (op : PlogOp) (pd pa pb : PReg)
  -- scalar floating point (Table 4-14)
  | fadd (g : Guard) (prec : Prec) (sat : Bool) (rnd : Rnd) (d a b : XReg)
  | fsub (g : Guard) (prec : Prec) (sat : Bool) (rnd : Rnd) (d a b : XReg)
  | fmul (g : Guard) (prec : Prec) (sat : Bool) (rnd : Rnd) (d a b : XReg)
  | ffma (g : Guard) (prec : Prec) (sat : Bool) (rnd : Rnd) (d a b : XReg)
  | fdiv (g : Guard) (prec : Prec) (sat : Bool) (rnd : Rnd) (d a b : XReg)
  | fsqrt (g : Guard) (prec : Prec) (sat : Bool) (rnd : Rnd) (d a : XReg)
  | fmin (g : Guard) (prec : Prec) (d a b : XReg)
  | fmax (g : Guard) (prec : Prec) (d a b : XReg)
  | fclass (g : Guard) (prec : Prec) (d a : XReg)
  | fcvt (g : Guard) (cv : Cvt) (sat : Bool) (rnd : Rnd) (d a : XReg)
  -- control (Table 4-16)
  | br (g : Guard) (off : BitVec 21)
  | call (g : Guard) (off : BitVec 21)
  | jr (g : Guard) (a : XReg)
  | ret (g : Guard)
  | rep (g : Guard) (a : XReg) (n : BitVec 7)
  | fin (g : Guard)
  | park (g : Guard) (a : XReg)
  | nop (g : Guard)
  | brk (g : Guard) (code : BitVec 15)
  | trap (g : Guard) (code : BitVec 15)
  | svc (g : Guard) (code : BitVec 15)
  -- frames and slots (Table 4-17)
  | falloc (g : Guard) (d : XReg) (cls : BitVec 3)
  | ffree (g : Guard) (a : XReg)
  | sloti (g : Guard) (a b : XReg)
  | slotr (g : Guard) (d a : XReg)
  | sig (g : Guard) (rel n : Bool) (a : XReg)
  | sigd (g : Guard) (rel n : Bool) (a b : XReg) (dw : BitVec 5)
  | sigv (g : Guard) (rel n : Bool) (a : XReg) (vb : VReg) (dw : BitVec 5)
  | sref (g : Guard) (d a : XReg) (imm : BitVec 11)
  | amsg (g : Guard) (xg : XReg)
  | arm (g : Guard) (xg : XReg)
  -- local memory (Table 4-18)
  | ld (g : Guard) (sz : Size) (u : Bool) (d a : XReg) (off : BitVec 8)
  | st (g : Guard) (sz : Size) (c a : XReg) (off : BitVec 8)
  | ldz (g : Guard) (vd : VReg) (a b : XReg)
  | stz (g : Guard) (vc : VReg) (a b : XReg)
  -- global memory (Table 4-19)
  | gld (g : Guard) (lu : Bool) (evp : Evp) (sz : Size) (byt n : Bool) (xg y : XReg)
  | ldl (g : Guard) (sz : Size) (u : Bool) (d a : XReg) (off : BitVec 8)
  | gst (g : Guard) (sz : Size) (t : Bool) (c a : XReg) (off : BitVec 8)
  | gstv (g : Guard) (vc : VReg) (a : XReg) (m : MReg) (off : BitVec 8)
  | pref (g : Guard) (evp : Evp) (a : XReg) (off : BitVec 11)
  | xchg (g : Guard) (ord : Ord) (sz : ASize) (d a b : XReg)
  | cas (g : Guard) (ord : Ord) (sz : ASize) (d a b : XReg)
  | cas2 (g : Guard) (ord : Ord) (d a b : XReg)
  | faa (g : Guard) (ord : Ord) (sz : ASize) (d a b : XReg)
  | amax (g : Guard) (ord : Ord) (sz : ASize) (d a b : XReg)
  | amin (g : Guard) (ord : Ord) (sz : ASize) (d a b : XReg)
  | amaxU (g : Guard) (ord : Ord) (sz : ASize) (d a b : XReg)
  | aminU (g : Guard) (ord : Ord) (sz : ASize) (d a b : XReg)
  -- ordering and update streams (Table 4-20)
  | fence (g : Guard) (w u e : Bool) (scope : Scope)
  | fenceqCt (g : Guard)
  | fenceqTc (g : Guard)
  | iflush (g : Guard) (a b : XReg)
  | iflushAll (g : Guard)
  | upd (g : Guard) (a b : XReg) (k : BitVec 3)
  | updv (g : Guard) (xd : XReg) (va vb : VReg) (m : MReg) (k : BitVec 3)
  | uapply (g : Guard) (a b : XReg)
  -- copy, gather and tile engines (Tables 4-21 to 4-23)
  | cpy (g : Guard) (fn : CopyFn) (xg y : XReg)
  | cpy2 (g : Guard) (fn : CopyFn) (xg y : XReg)
  | cpym (g : Guard) (byt n : Bool) (xg y : XReg)
  | gthr (g : Guard) (fn : GthrFn) (xg y : XReg)
  | rcfg (g : Guard) (q : BitVec 3) (xg : XReg)
  | radv (g : Guard) (q : BitVec 3) (xg : XReg)
  | mma (g : Guard) (n t : Bool) (qb qa : BitVec 3) (acc : BitVec 2) (xg y : XReg)
  | mmas (g : Guard) (ss : BitVec 2) (n : Bool) (qb qa : BitVec 3) (acc : BitVec 2) (xg y : XReg)
  | mmg (g : Guard) (val : MmgVal) (act : MmgAct) (n : Bool) (xg y : XReg)
  | accz (g : Guard) (acc : BitVec 2)
  | accld (g : Guard) (n : Bool) (acc : BitVec 2) (xg y : XReg)
  | accst (g : Guard) (n sc sat : Bool) (rnd : Rnd) (tag : Tag) (acc : BitVec 2) (xg y : XReg)
  | sscfg (g : Guard) (ss : BitVec 2) (xg : XReg)
  -- vector (Table 4-24)
  | vadd (g : Guard) (t : VType) (vd va vb : VReg) (m : MReg)
  | vsub (g : Guard) (t : VType) (vd va vb : VReg) (m : MReg)
  | vmul (g : Guard) (t : VType) (vd va vb : VReg) (m : MReg)
  | vfma (g : Guard) (t : VType) (vd va vb : VReg) (m : MReg)
  | vmin (g : Guard) (t : VType) (vd va vb : VReg) (m : MReg)
  | vmax (g : Guard) (t : VType) (vd va vb : VReg) (m : MReg)
  | vabs (g : Guard) (t : VType) (vd va : VReg) (m : MReg)
  | vneg (g : Guard) (t : VType) (vd va : VReg) (m : MReg)
  | vand (g : Guard) (vd va vb : VReg) (m : MReg)
  | vor (g : Guard) (vd va vb : VReg) (m : MReg)
  | vxor (g : Guard) (vd va vb : VReg) (m : MReg)
  | vselW (g : Guard) (vd va vb : VReg) (m : MReg)
  | vselH (g : Guard) (vd va vb : VReg) (m : MReg)
  | vselB (g : Guard) (vd va vb : VReg) (m : MReg)
  | vshlI32 (g : Guard) (vd va vb : VReg) (m : MReg)
  | vshrI32 (g : Guard) (vd va vb : VReg) (m : MReg)
  | vsarI32 (g : Guard) (vd va vb : VReg) (m : MReg)
  | vshlI16 (g : Guard) (vd va vb : VReg) (m : MReg)
  | vshrI16 (g : Guard) (vd va vb : VReg) (m : MReg)
  | vsarI16 (g : Guard) (vd va vb : VReg) (m : MReg)
  | vcmp (g : Guard) (t : VType) (cond : VCond) (md : MReg) (va vb : VReg)
  | vrcp (g : Guard) (t : EtF) (vd va : VReg) (m : MReg)
  | vrsq (g : Guard) (t : EtF) (vd va : VReg) (m : MReg)
  | vexp2 (g : Guard) (t : EtF) (vd va : VReg) (m : MReg)
  | vlog2 (g : Guard) (t : EtF) (vd va : VReg) (m : MReg)
  | viota (g : Guard) (t : EtI) (vd : VReg) (m : MReg)
  | vredAdd (g : Guard) (t : VType) (xd : XReg) (va : VReg) (m : MReg)
  | vredMin (g : Guard) (t : VType) (xd : XReg) (va : VReg) (m : MReg)
  | vredMax (g : Guard) (t : VType) (xd : XReg) (va : VReg) (m : MReg)
  | vdotF32 (g : Guard) (xd : XReg) (va vb : VReg) (m : MReg)
  | vdotBf16 (g : Guard) (xd : XReg) (va vb : VReg) (m : MReg)
  | vdotF16 (g : Guard) (xd : XReg) (va vb : VReg) (m : MReg)
  | vperm (g : Guard) (lw : LaneW) (vd va vb : VReg)
  | vbcast (g : Guard) (lw : LaneW) (vd : VReg) (xa : XReg)
  | vext (g : Guard) (lw : LaneW) (xd : XReg) (va : VReg) (xb : XReg)
  | vins (g : Guard) (lw : LaneW) (vd : VReg) (xa xb : XReg)
  | vcomp (g : Guard) (lw : LaneW) (vd va : VReg) (mb : MReg)
  | vexpd (g : Guard) (lw : LaneW) (vd va : VReg) (mb : MReg)
  | vld (g : Guard) (vd : VReg) (a : XReg) (imm : BitVec 11)
  | vst (g : Guard) (vc : VReg) (a : XReg) (imm : BitVec 11)
  | mlog (g : Guard) (op : MlogOp) (md ma mb : MReg)
  | mcnt (g : Guard) (xd : XReg) (ma : MReg)
  -- system (Table 4-25)
  | rdsr (g : Guard) (d : XReg) (num : BitVec 11)
  | wrsr (g : Guard) (a : XReg) (num : BitVec 11)
  | rgnctlAct (g : Guard) (xg y : XReg)
  | rgnctlCfg (g : Guard) (xg y : XReg)
  | rgnctlSusp (g : Guard) (xg y : XReg)
  | rgnctlRes (g : Guard) (xg y : XReg)
  | rgnctlDel (g : Guard) (xg y : XReg)
  | tlbinvPg (g : Guard) (a b : XReg)
  | tlbinvAs (g : Guard) (b : XReg)
  | tlbinvAll (g : Guard)
  | waycfg (g : Guard) (a b : XReg)
  | symq (g : Guard) (d a : XReg)
  | resume (g : Guard) (a : XReg)
  | resumeAbt (g : Guard) (a : XReg)
  | resumeRpl (g : Guard) (a : XReg)
  | resumeDrp (g : Guard) (a : XReg)
  -- long forms (Table 4-26)
  | limm (g : Guard) (d : XReg) (imm : BitVec 32)
  | lui (g : Guard) (d : XReg) (imm : BitVec 32)
  | bfx (g : Guard) (d a : XReg) (pos : BitVec 6) (len : BitVec 7)
  | bfi (g : Guard) (d a : XReg) (pos : BitVec 6) (len : BitVec 7)
  | vx (g : Guard) (op : Vop) (sat : Bool) (rnd : Rnd) (vd va vb : VReg) (m : MReg)
  | vcvt (g : Guard) (dst src : Et) (sat : Bool) (rnd : Rnd) (vd va : VReg) (m : MReg)
  -- events (file 95)
  | readyEntrySelect (core : Nat)
  | signalArrival (pkt : Nat)
  | overflowEntryTake (core region idx : Nat)
  | activeMessageDelivery (pkt : Nat)
  | spillWriteOutComplete (core fid : Nat)
  | refillComplete (core fid : Nat)
  | frameRelease (core fid : Nat)
  | runleftExpiry (core : Nat)
  | parkTimeExpiry (core fid : Nat)
  | symbolValueArrival (pkt : Nat)
  | deferredEffectPerform (core : Nat)
  | lateLoadFail (core sym : Nat)
  | writeAckArrival (pkt : Nat)
  | updateAcceptanceArrival (pkt : Nat)
  | gldLanding (pkt : Nat)
  | barrierConditionMet (core idx : Nat)
  | combinerTimeout (core chiplet : Nat)
  | homeSliceRead (pkt : Nat)
  | homeSliceWrite (pkt : Nat)
  | homeSliceAtomic (pkt : Nat)
  | homeSlicePref (pkt : Nat)
  | backInvalidationAck (line : Nat)
  | waycfgRequest (pkt : Nat)
  | wayConversionComplete (slice : Nat)
  | translationWalkComplete (core idx : Nat)
  | faultWaitPromote (core : Nat)
  | pageZeroingComplete (entry : Nat)
  | updatePacketAccept (pkt : Nat)
  | sortBatch (unit : Nat)
  | mergeApply (unit bid : Nat)
  | uapplyLineApply (core idx : Nat)
  | copyCommandStart (core : Nat)
  | copyPieceIssue (core : Nat)
  | copyPieceComplete (pkt : Nat)
  | multicastPieceArrival (pkt : Nat)
  | gatherRequestArrival (pkt : Nat)
  | gatherElementReturn (pkt : Nat)
  | tileCommandStart (core : Nat)
  | tilePairStart (core : Nat)
  | tilePairRetire (core : Nat)
  | mmgRowComplete (core : Nat)
  | accumulatorTransferDone (core : Nat)
  | faultRecordDelivery (pkt : Nat)
  | resumeAct (pkt : Nat)
  | tailNotification (q : Nat)
  | queueEntryFetch (q : Nat)
  | activeMessageEntry (fe idx : Nat)
  | triggerArmEntry (fe idx : Nat)
  | regionControlEntry (fe idx : Nat)
  | queueFence (fe idx : Nat)
  | triggerArming (pkt : Nat)
  | triggerSignal (pkt : Nat)
  | regionControlPerform
  | periodStart
  | entryAging (core : Nat)
  | monitorWindowEnd (region : Nat)
  | weirRateUpdate (port rate : Nat)
  | tileIntervalEval (basin : Nat)
  | housekeepingWork (ctl : Nat) (kind : HkKind) (busy : Nat)
  | traceRecordWrite (pkt : Nat)
  | traceRpRead
  | queueSet (q : Nat) (entry : BitVec 512)
  | queueState (q : Nat) (enable : Bool)
  | traceBuf (base size ctl : Word)
  | brieloSet (number : BitVec 8) (table : BitVec 2048)
  | powerState (retention : Bool)
  | lifecycle (target : Lifecycle) (tokenOk : Bool)
  | fwUpdate (version : Nat) (signatureOk : Bool)
  | mailboxUnsupported (code : BitVec 16)
  | routeChangeDrain (module : Nat)
  | brieloPortFailure (port : Nat)
  | moduleReset (failStep : Nat)
  | uncorrectableEcc (target : EccTarget)
  | scratchZeroingComplete (core : Nat)
  | spdmRequest (req : SpdmReq)
  | linkLevelConfirmation (port module : Nat)
  | eventLog
  | retentionExit
  | serviceCoreRestartComplete
  | modulePowerLoss
  deriving DecidableEq, Repr

end Sys2Proof
end

