-- ==== Sys2Proof/WellFormed.lean ====
section
/-! DEFINITION. Which instructions have an encoding: the checks of Table 4-27 that the types of the syntax do not make
already (R98, R99, R109-R123). An event has no encoding and is well formed. -/

namespace Sys2Proof

/-- Is the constructor an event (a row of the opcode table with no encoding)? -/
def Instr.isEvent : Instr → Bool
  | .readyEntrySelect .. | .signalArrival .. | .overflowEntryTake .. | .activeMessageDelivery ..
  | .spillWriteOutComplete .. | .refillComplete .. | .frameRelease .. | .runleftExpiry .. | .parkTimeExpiry ..
  | .symbolValueArrival .. | .deferredEffectPerform .. | .lateLoadFail .. | .writeAckArrival ..
  | .updateAcceptanceArrival .. | .gldLanding .. | .barrierConditionMet .. | .combinerTimeout ..
  | .homeSliceRead .. | .homeSliceWrite .. | .homeSliceAtomic .. | .homeSlicePref .. | .backInvalidationAck ..
  | .waycfgRequest .. | .wayConversionComplete .. | .translationWalkComplete .. | .faultWaitPromote ..
  | .pageZeroingComplete .. | .updatePacketAccept .. | .sortBatch .. | .mergeApply .. | .uapplyLineApply ..
  | .copyCommandStart .. | .copyPieceIssue .. | .copyPieceComplete .. | .multicastPieceArrival ..
  | .gatherRequestArrival .. | .gatherElementReturn .. | .tileCommandStart .. | .tilePairStart ..
  | .tilePairRetire .. | .mmgRowComplete .. | .accumulatorTransferDone .. | .faultRecordDelivery ..
  | .resumeAct .. | .tailNotification .. | .queueEntryFetch .. | .activeMessageEntry .. | .triggerArmEntry ..
  | .regionControlEntry .. | .queueFence .. | .triggerArming .. | .triggerSignal .. | .regionControlPerform
  | .periodStart | .entryAging .. | .monitorWindowEnd .. | .weirRateUpdate .. | .tileIntervalEval ..
  | .housekeepingWork .. | .traceRecordWrite .. | .traceRpRead | .queueSet .. | .queueState .. | .traceBuf ..
  | .brieloSet .. | .powerState .. | .lifecycle .. | .fwUpdate .. | .eventLog | .mailboxUnsupported ..
  | .routeChangeDrain .. | .brieloPortFailure .. | .moduleReset .. | .retentionExit | .uncorrectableEcc ..
  | .scratchZeroingComplete .. | .serviceCoreRestartComplete | .spdmRequest .. | .modulePowerLoss
  | .linkLevelConfirmation .. => true
  | .add .. | .sub .. | .and .. | .or .. | .xor .. | .shl .. | .shr .. | .sar .. | .min .. | .max .. | .minu ..
  | .maxu .. | .mul .. | .mulh .. | .mulhu .. | .div .. | .divu .. | .rem .. | .remu .. | .clz .. | .ctz ..
  | .popc .. | .addi .. | .andi .. | .ori .. | .xori .. | .shli .. | .shri .. | .sari .. | .sel .. | .setp ..
  | .setpiA .. | .setpiB .. | .fsetp .. | .plog .. | .fadd .. | .fsub .. | .fmul .. | .ffma .. | .fdiv ..
  | .fsqrt .. | .fmin .. | .fmax .. | .fclass .. | .fcvt .. | .br .. | .call .. | .jr .. | .ret .. | .rep ..
  | .fin .. | .park .. | .nop .. | .brk .. | .trap .. | .svc .. | .falloc .. | .ffree .. | .sloti ..
  | .slotr .. | .sig .. | .sigd .. | .sigv .. | .sref .. | .amsg .. | .arm .. | .ld .. | .st .. | .ldz ..
  | .stz .. | .gld .. | .ldl .. | .gst .. | .gstv .. | .pref .. | .xchg .. | .cas .. | .cas2 .. | .faa ..
  | .amax .. | .amin .. | .amaxU .. | .aminU .. | .fence .. | .fenceqCt .. | .fenceqTc .. | .iflush ..
  | .iflushAll .. | .upd .. | .updv .. | .uapply .. | .cpy .. | .cpy2 .. | .cpym .. | .gthr .. | .rcfg ..
  | .radv .. | .mma .. | .mmas .. | .mmg .. | .accz .. | .accld .. | .accst .. | .sscfg .. | .vadd ..
  | .vsub .. | .vmul .. | .vfma .. | .vmin .. | .vmax .. | .vabs .. | .vneg .. | .vand .. | .vor .. | .vxor ..
  | .vselW .. | .vselH .. | .vselB .. | .vshlI32 .. | .vshrI32 .. | .vsarI32 .. | .vshlI16 .. | .vshrI16 ..
  | .vsarI16 .. | .vcmp .. | .vrcp .. | .vrsq .. | .vexp2 .. | .vlog2 .. | .viota .. | .vredAdd ..
  | .vredMin .. | .vredMax .. | .vdotF32 .. | .vdotBf16 .. | .vdotF16 .. | .vperm .. | .vbcast .. | .vext ..
  | .vins .. | .vcomp .. | .vexpd .. | .vld .. | .vst .. | .mlog .. | .mcnt .. | .rdsr .. | .wrsr ..
  | .rgnctlAct .. | .rgnctlCfg .. | .rgnctlSusp .. | .rgnctlRes .. | .rgnctlDel .. | .tlbinvPg ..
  | .tlbinvAs .. | .tlbinvAll .. | .waycfg .. | .symq .. | .resume .. | .resumeAbt .. | .resumeRpl ..
  | .resumeDrp .. | .limm .. | .lui .. | .bfx .. | .bfi .. | .vx .. | .vcvt .. => false

/-- An operand group of `n` registers from `g` lies within x1-x31 (R99). -/
def groupOk (g : XReg) (n : Nat) : Bool := 1 ≤ g.toNat && g.toNat + n ≤ 32

/-- Is the rounding RNE, as an integer VOP requires (Table 4-26)? -/
def Vop.isInteger : Vop → Bool
  | .add t | .sub t | .mul t | .fma t | .min t | .max t | .abs t | .neg t =>
    match t with
    | .i32 | .i16 | .i8 => true
    | .f32 | .f16 | .bf16 => false
  | .rcp _ | .rsq _ | .exp2 _ | .log2 _ => false

/-- Has the VOP no second source vector, so that vb must be zero or holds the element type? -/
def Vop.isUnary : Vop → Bool
  | .abs _ | .neg _ | .rcp _ | .rsq _ | .exp2 _ | .log2 _ => true
  | .add _ | .sub _ | .mul _ | .fma _ | .min _ | .max _ => false

/-- Field limits of BFX and BFI: LEN 1-64 and POS + LEN at most 64 (R122). -/
def bitFieldOk (pos : BitVec 6) (len : BitVec 7) : Bool := 1 ≤ len.toNat && pos.toNat + len.toNat ≤ 64

/-- The condition fits the type: LTU and LEU need an integer type, UN a floating-point type (Table 4-24). -/
def vcmpOk : VType → VCond → Bool
  | .f32, .ltu | .f32, .leu | .f16, .ltu | .f16, .leu | .bf16, .ltu | .bf16, .leu => false
  | .i32, .un | .i16, .un | .i8, .un => false
  | _, _ => true

/-- The instruction has an encoding. -/
def Instr.wf : Instr → Bool
  | .add g d a b => !(g == ⟨0, false⟩ && d == 0 && a == 0 && b == 0)
  | .setp _ _ pd _ _ => pd != 0
  | .setpiA _ _ pd _ _ => pd != 0
  | .setpiB _ _ pd _ _ => pd != 0
  | .fsetp _ _ _ pd _ _ => pd != 0
  | .plog _ op pd _ pb => pd != 0 && (op != .not || pb == 0)
  | .rep _ _ n => n != 0
  | .falloc _ _ cls => cls.toNat ≤ 4
  | .amsg _ xg => groupOk xg 8
  | .arm _ xg => groupOk xg 3
  | .ld _ sz u _ _ _ => !(u && sz == .d)
  | .gld _ _ _ _ _ _ xg _ => groupOk xg 2
  | .ldl _ sz u _ _ _ => !(u && sz == .d)
  | .gst _ _ t c _ _ => !(t && c == 31)
  | .cas2 _ _ d _ b => 2 ≤ d.toNat && d.toNat % 2 == 0 && b.toNat % 2 == 0
  | .fence _ w u e _ => w || u || e
  | .cpy _ fn xg _ => groupOk xg 3 && (fn.r || fn.q == 0)
  | .cpy2 _ fn xg _ => groupOk xg 6 && (fn.r || fn.q == 0)
  | .cpym _ _ _ xg _ => groupOk xg 5
  | .gthr _ fn xg _ => groupOk xg 5 && (fn.r || fn.q == 0)
  | .rcfg _ _ xg => groupOk xg 3
  | .radv _ _ xg => groupOk xg 1
  | .mma _ _ _ _ _ _ xg _ => groupOk xg 1
  | .mmas _ _ _ _ _ _ xg _ => groupOk xg 1
  | .mmg _ _ _ _ xg _ => groupOk xg 5
  | .accld _ _ _ xg _ => groupOk xg 1
  | .accst _ _ _ _ _ _ _ xg _ => groupOk xg 2
  | .sscfg _ _ xg => groupOk xg 2
  | .vcmp _ t cond md _ _ => md != 0 && vcmpOk t cond
  | .mlog _ op md _ mb => md != 0 && (op != .not || mb == 0)
  | .rgnctlAct _ xg _ => groupOk xg 2
  | .rgnctlCfg _ xg _ => groupOk xg 2
  | .rgnctlSusp _ xg _ => groupOk xg 2
  | .rgnctlRes _ xg _ => groupOk xg 2
  | .rgnctlDel _ xg _ => groupOk xg 2
  | .bfx _ _ _ pos len => bitFieldOk pos len
  | .bfi _ _ _ pos len => bitFieldOk pos len
  | .vx _ op _ rnd _ _ vb _ => (!op.isInteger || rnd == .rne) && (!op.isUnary || vb == 0)
  | .vcvt _ dst src _ _ _ _ _ => dst != src
  | .sub .. | .and .. | .or .. | .xor .. | .shl .. | .shr .. | .sar .. | .min .. | .max .. | .minu ..
  | .maxu .. | .mul .. | .mulh .. | .mulhu .. | .div .. | .divu .. | .rem .. | .remu .. | .clz .. | .ctz ..
  | .popc .. | .addi .. | .andi .. | .ori .. | .xori .. | .shli .. | .shri .. | .sari .. | .sel .. | .fadd ..
  | .fsub .. | .fmul .. | .ffma .. | .fdiv .. | .fsqrt .. | .fmin .. | .fmax .. | .fclass .. | .fcvt .. | .br ..
  | .call .. | .jr .. | .ret .. | .fin .. | .park .. | .nop .. | .brk .. | .trap .. | .svc .. | .ffree ..
  | .sloti .. | .slotr .. | .sig .. | .sigd .. | .sigv .. | .sref .. | .st .. | .ldz .. | .stz .. | .gstv ..
  | .pref .. | .xchg .. | .cas .. | .faa .. | .amax .. | .amin .. | .amaxU .. | .aminU .. | .fenceqCt ..
  | .fenceqTc .. | .iflush .. | .iflushAll .. | .upd .. | .updv .. | .uapply .. | .accz .. | .vadd ..
  | .vsub .. | .vmul .. | .vfma .. | .vmin .. | .vmax .. | .vabs .. | .vneg .. | .vand .. | .vor .. | .vxor ..
  | .vselW .. | .vselH .. | .vselB .. | .vshlI32 .. | .vshrI32 .. | .vsarI32 .. | .vshlI16 .. | .vshrI16 ..
  | .vsarI16 .. | .vrcp .. | .vrsq .. | .vexp2 .. | .vlog2 .. | .viota .. | .vredAdd .. | .vredMin ..
  | .vredMax .. | .vdotF32 .. | .vdotBf16 .. | .vdotF16 .. | .vperm .. | .vbcast .. | .vext .. | .vins ..
  | .vcomp .. | .vexpd .. | .vld .. | .vst .. | .mcnt .. | .rdsr .. | .wrsr .. | .tlbinvPg .. | .tlbinvAs ..
  | .tlbinvAll .. | .waycfg .. | .symq .. | .resume .. | .resumeAbt .. | .resumeRpl .. | .resumeDrp ..
  | .limm .. | .lui .. | .readyEntrySelect .. | .signalArrival .. | .overflowEntryTake ..
  | .activeMessageDelivery .. | .spillWriteOutComplete .. | .refillComplete .. | .frameRelease ..
  | .runleftExpiry .. | .parkTimeExpiry .. | .symbolValueArrival .. | .deferredEffectPerform ..
  | .lateLoadFail .. | .writeAckArrival .. | .updateAcceptanceArrival .. | .gldLanding ..
  | .barrierConditionMet .. | .combinerTimeout .. | .homeSliceRead .. | .homeSliceWrite ..
  | .homeSliceAtomic .. | .homeSlicePref .. | .backInvalidationAck .. | .waycfgRequest ..
  | .wayConversionComplete .. | .translationWalkComplete .. | .faultWaitPromote .. | .pageZeroingComplete ..
  | .updatePacketAccept .. | .sortBatch .. | .mergeApply .. | .uapplyLineApply .. | .copyCommandStart ..
  | .copyPieceIssue .. | .copyPieceComplete .. | .multicastPieceArrival .. | .gatherRequestArrival ..
  | .gatherElementReturn .. | .tileCommandStart .. | .tilePairStart .. | .tilePairRetire ..
  | .mmgRowComplete .. | .accumulatorTransferDone .. | .faultRecordDelivery .. | .resumeAct ..
  | .tailNotification .. | .queueEntryFetch .. | .activeMessageEntry .. | .triggerArmEntry ..
  | .regionControlEntry .. | .queueFence .. | .triggerArming .. | .triggerSignal .. | .regionControlPerform
  | .periodStart | .entryAging .. | .monitorWindowEnd .. | .weirRateUpdate .. | .tileIntervalEval ..
  | .housekeepingWork .. | .traceRecordWrite .. | .traceRpRead | .queueSet .. | .queueState .. | .traceBuf ..
  | .brieloSet .. | .powerState .. | .lifecycle .. | .fwUpdate .. | .eventLog | .mailboxUnsupported ..
  | .routeChangeDrain .. | .brieloPortFailure .. | .moduleReset .. | .retentionExit | .uncorrectableEcc ..
  | .scratchZeroingComplete .. | .serviceCoreRestartComplete | .spdmRequest .. | .modulePowerLoss
  | .linkLevelConfirmation .. => true

end Sys2Proof
end

