-- ==== Sys2Proof/Decode.lean ====
section
/-! DEFINITION. Decoding, total on any bytes and rejecting by name, and the encoder, both written from the formats and
opcode tables of chapter 4 (R94-R123). -/

namespace Sys2Proof

/-- Why a bit pattern is no instruction (the rows of Table 4-27 that a word alone decides). Each is an
illegal-instruction fault of the machine. -/
inductive DecodeError where
  /-- fewer bytes than the format needs (R91) -/
  | truncated
  /-- an OP that Table 4-11 leaves unassigned -/
  | unassignedOpcode
  /-- an unassigned fn or other selector -/
  | unassignedSelector
  /-- a nonzero reserved bit -/
  | reservedBits
  /-- a vector-register field of 16-31 -/
  | badVectorRegister
  /-- a predicate destination of p0 -/
  | badPredicateDest
  /-- a mask destination of m0 -/
  | badMaskDest
  /-- RND 6-7 -/
  | badRounding
  /-- an element type not accepted -/
  | badElementType
  /-- CV 20-31 -/
  | badConversion
  /-- an operand group outside x1-x31 -/
  | badGroup
  /-- a combination marked illegal -/
  | illegalCombination
  /-- the all-zero word -/
  | allZeroWord
  /-- the all-ones word -/
  | allOnesWord
  deriving DecidableEq, Repr

/-- An instruction word split at the boundaries of format XR (Tables 4-3 and 4-4). -/
structure Fields where
  pg : BitVec 3
  pn : BitVec 1
  op : BitVec 7
  d  : BitVec 5
  a  : BitVec 5
  b  : BitVec 5
  fn : BitVec 6
  deriving DecidableEq, Repr

/-- The fields of a word. -/
def Fields.split (w : BitVec 32) : Fields :=
  { pg := w.extractLsb' 29 3, pn := w.extractLsb' 28 1, op := w.extractLsb' 21 7, d := w.extractLsb' 16 5,
    a := w.extractLsb' 11 5, b := w.extractLsb' 6 5, fn := w.extractLsb' 0 6 }

/-- The word of the fields. -/
def Fields.pack (f : Fields) : BitVec 32 :=
  f.pg ++ f.pn ++ f.op ++ f.d ++ f.a ++ f.b ++ f.fn

/-- The low 11 operand bits, imm11 (Table 4-4). -/
def Fields.imm11 (f : Fields) : BitVec 11 := f.b ++ f.fn

/-- The operand bits, off21 (Table 4-4). -/
def Fields.off21 (f : Fields) : BitVec 21 := f.d ++ f.a ++ f.b ++ f.fn

/-- The guard of a word (Table 4-3). -/
def Fields.guard (f : Fields) : Guard := ⟨f.pg, f.pn == 1⟩

/-- Code of the SETP condition, fn (Table 4-13). -/
def Cond.code : Cond → BitVec 6
  | .eq => 0 | .ne => 1 | .lt => 2 | .le => 3 | .gt => 4 | .ge => 5 | .ltu => 6 | .leu => 7 | .gtu => 8
  | .geu => 9 | .tst => 10

/-- The SETP condition, fn (Table 4-13) of a code, none where the code is unassigned. -/
def Cond.ofCode (c : BitVec 6) : Option Cond :=
  match c.toNat with
  | 0 => some .eq | 1 => some .ne | 2 => some .lt | 3 => some .le | 4 => some .gt | 5 => some .ge
  | 6 => some .ltu | 7 => some .leu | 8 => some .gtu | 9 => some .geu | 10 => some .tst
  | _ => none

/-- Code of the SETPI condition of opcode 0x11. -/
def CondA.code : CondA → BitVec 2
  | .eq => 0 | .ne => 1 | .lt => 2 | .ge => 3

/-- The SETPI condition of opcode 0x11 of a code, none where the code is unassigned. -/
def CondA.ofCode (c : BitVec 2) : Option CondA :=
  match c.toNat with
  | 0 => some .eq | 1 => some .ne | 2 => some .lt | 3 => some .ge
  | _ => none

/-- Code of the SETPI condition of opcode 0x12. -/
def CondB.code : CondB → BitVec 2
  | .ltu => 0 | .geu => 1 | .le => 2 | .gt => 3

/-- The SETPI condition of opcode 0x12 of a code, none where the code is unassigned. -/
def CondB.ofCode (c : BitVec 2) : Option CondB :=
  match c.toNat with
  | 0 => some .ltu | 1 => some .geu | 2 => some .le | 3 => some .gt
  | _ => none

/-- Code of the FSETP condition. -/
def FCond.code : FCond → BitVec 3
  | .eq => 0 | .ne => 1 | .lt => 2 | .le => 3 | .gt => 4 | .ge => 5 | .un => 6 | .ord => 7

/-- The FSETP condition of a code, none where the code is unassigned. -/
def FCond.ofCode (c : BitVec 3) : Option FCond :=
  match c.toNat with
  | 0 => some .eq | 1 => some .ne | 2 => some .lt | 3 => some .le | 4 => some .gt | 5 => some .ge
  | 6 => some .un | 7 => some .ord
  | _ => none

/-- Code of the PLOG operation, fn. -/
def PlogOp.code : PlogOp → BitVec 6
  | .and => 0 | .or => 1 | .xor => 2 | .andn => 3 | .orn => 4 | .not => 5

/-- The PLOG operation, fn of a code, none where the code is unassigned. -/
def PlogOp.ofCode (c : BitVec 6) : Option PlogOp :=
  match c.toNat with
  | 0 => some .and | 1 => some .or | 2 => some .xor | 3 => some .andn | 4 => some .orn | 5 => some .not
  | _ => none

/-- Code of the MLOG operation, fn. -/
def MlogOp.code : MlogOp → BitVec 3
  | .and => 0 | .or => 1 | .xor => 2 | .andn => 3 | .not => 4

/-- The MLOG operation, fn of a code, none where the code is unassigned. -/
def MlogOp.ofCode (c : BitVec 3) : Option MlogOp :=
  match c.toNat with
  | 0 => some .and | 1 => some .or | 2 => some .xor | 3 => some .andn | 4 => some .not
  | _ => none

/-- Code of the P (R111). -/
def Prec.code : Prec → BitVec 1
  | .s => 0 | .d => 1

/-- The P (R111) of a code, none where the code is unassigned. -/
def Prec.ofCode (c : BitVec 1) : Option Prec :=
  match c.toNat with
  | 0 => some .s | 1 => some .d
  | _ => none

/-- Code of the RND (Table 4-8). -/
def Rnd.code : Rnd → BitVec 3
  | .rne => 0 | .rtz => 1 | .rup => 2 | .rdn => 3 | .rna => 4 | .rgn => 5

/-- The RND (Table 4-8) of a code, none where the code is unassigned. -/
def Rnd.ofCode (c : BitVec 3) : Option Rnd :=
  match c.toNat with
  | 0 => some .rne | 1 => some .rtz | 2 => some .rup | 3 => some .rdn | 4 => some .rna | 5 => some .rgn
  | _ => none

/-- Code of the CV (Table 4-15). -/
def Cvt.code : Cvt → BitVec 5
  | .dS => 0 | .sD => 1 | .sH => 2 | .hS => 3 | .sBf => 4 | .bfS => 5 | .sE4 => 6 | .e4S => 7 | .sE5 => 8
  | .e5S => 9 | .dI64 => 10 | .i64D => 11 | .dU64 => 12 | .u64D => 13 | .sI32 => 14 | .i32S => 15 | .sU32 => 16
  | .u32S => 17 | .dI32 => 18 | .i32D => 19

/-- The CV (Table 4-15) of a code, none where the code is unassigned. -/
def Cvt.ofCode (c : BitVec 5) : Option Cvt :=
  match c.toNat with
  | 0 => some .dS | 1 => some .sD | 2 => some .sH | 3 => some .hS | 4 => some .sBf | 5 => some .bfS
  | 6 => some .sE4 | 7 => some .e4S | 8 => some .sE5 | 9 => some .e5S | 10 => some .dI64 | 11 => some .i64D
  | 12 => some .dU64 | 13 => some .u64D | 14 => some .sI32 | 15 => some .i32S | 16 => some .sU32
  | 17 => some .u32S | 18 => some .dI32 | 19 => some .i32D
  | _ => none

/-- Code of the SZ (R115). -/
def Size.code : Size → BitVec 2
  | .b => 0 | .h => 1 | .w => 2 | .d => 3

/-- The SZ (R115) of a code, none where the code is unassigned. -/
def Size.ofCode (c : BitVec 2) : Option Size :=
  match c.toNat with
  | 0 => some .b | 1 => some .h | 2 => some .w | 3 => some .d
  | _ => none

/-- Code of the SZ of an atomic (R116). -/
def ASize.code : ASize → BitVec 1
  | .w => 0 | .d => 1

/-- The SZ of an atomic (R116) of a code, none where the code is unassigned. -/
def ASize.ofCode (c : BitVec 1) : Option ASize :=
  match c.toNat with
  | 0 => some .w | 1 => some .d
  | _ => none

/-- Code of the ORD (R116). -/
def Ord.code : Ord → BitVec 2
  | .rlx => 0 | .acq => 1 | .rel => 2 | .acqRel => 3

/-- The ORD (R116) of a code, none where the code is unassigned. -/
def Ord.ofCode (c : BitVec 2) : Option Ord :=
  match c.toNat with
  | 0 => some .rlx | 1 => some .acq | 2 => some .rel | 3 => some .acqRel
  | _ => none

/-- Code of the EVP (Table 4-10). -/
def Evp.code : Evp → BitVec 2
  | .normal => 0 | .keep => 1 | .evictFirst => 2 | .noAlloc => 3

/-- The EVP (Table 4-10) of a code, none where the code is unassigned. -/
def Evp.ofCode (c : BitVec 2) : Option Evp :=
  match c.toNat with
  | 0 => some .normal | 1 => some .keep | 2 => some .evictFirst | 3 => some .noAlloc
  | _ => none

/-- Code of the fence scope (Table 4-20). -/
def Scope.code : Scope → BitVec 2
  | .l => 0 | .m => 1 | .s => 2

/-- The fence scope (Table 4-20) of a code, none where the code is unassigned. -/
def Scope.ofCode (c : BitVec 2) : Option Scope :=
  match c.toNat with
  | 0 => some .l | 1 => some .m | 2 => some .s
  | _ => none

/-- Code of the DIR (Table 4-21). -/
def CopyDir.code : CopyDir → BitVec 2
  | .gl => 0 | .lg => 1 | .gg => 2 | .ll => 3

/-- The DIR (Table 4-21) of a code, none where the code is unassigned. -/
def CopyDir.ofCode (c : BitVec 2) : Option CopyDir :=
  match c.toNat with
  | 0 => some .gl | 1 => some .lg | 2 => some .gg | 3 => some .ll
  | _ => none

/-- Code of the DIR of GTHR (Table 4-21). -/
def IdxWidth.code : IdxWidth → BitVec 2
  | .i32 => 0 | .i64 => 1

/-- The DIR of GTHR (Table 4-21) of a code, none where the code is unassigned. -/
def IdxWidth.ofCode (c : BitVec 2) : Option IdxWidth :=
  match c.toNat with
  | 0 => some .i32 | 1 => some .i64
  | _ => none

/-- Code of the MMG value code. -/
def MmgVal.code : MmgVal → BitVec 1
  | .bf16 => 0 | .e4m3 => 1

/-- The MMG value code of a code, none where the code is unassigned. -/
def MmgVal.ofCode (c : BitVec 1) : Option MmgVal :=
  match c.toNat with
  | 0 => some .bf16 | 1 => some .e4m3
  | _ => none

/-- Code of the MMG activation code. -/
def MmgAct.code : MmgAct → BitVec 2
  | .bf16 => 0 | .f32 => 1 | .f16 => 2

/-- The MMG activation code of a code, none where the code is unassigned. -/
def MmgAct.ofCode (c : BitVec 2) : Option MmgAct :=
  match c.toNat with
  | 0 => some .bf16 | 1 => some .f32 | 2 => some .f16
  | _ => none

/-- Code of the format tag (Table 5-3). -/
def Tag.code : Tag → BitVec 3
  | .fp32 => 0 | .bf16 => 1 | .fp16 => 2 | .e4m3 => 3 | .e5m2 => 4 | .e2m1 => 5 | .int8 => 6 | .int4 => 7

/-- The format tag (Table 5-3) of a code, none where the code is unassigned. -/
def Tag.ofCode (c : BitVec 3) : Option Tag :=
  match c.toNat with
  | 0 => some .fp32 | 1 => some .bf16 | 2 => some .fp16 | 3 => some .e4m3 | 4 => some .e5m2 | 5 => some .e2m1
  | 6 => some .int8 | 7 => some .int4
  | _ => none

/-- Code of the vector arithmetic type: opcode less 0x58, and the m field of VCMP. -/
def VType.code : VType → BitVec 3
  | .f32 => 0 | .f16 => 1 | .bf16 => 2 | .i32 => 3 | .i16 => 4 | .i8 => 5

/-- The vector arithmetic type: opcode less 0x58, and the m field of VCMP of a code, none where the code is unassigned. -/
def VType.ofCode (c : BitVec 3) : Option VType :=
  match c.toNat with
  | 0 => some .f32 | 1 => some .f16 | 2 => some .bf16 | 3 => some .i32 | 4 => some .i16 | 5 => some .i8
  | _ => none

/-- Code of the ET (Table 4-9). -/
def Et.code : Et → BitVec 4
  | .f32 => 0 | .f16 => 1 | .bf16 => 2 | .e4m3 => 3 | .e5m2 => 4 | .e2m1 => 5 | .i32 => 6 | .i16 => 7
  | .i8 => 8

/-- The ET (Table 4-9) of a code, none where the code is unassigned. -/
def Et.ofCode (c : BitVec 4) : Option Et :=
  match c.toNat with
  | 0 => some .f32 | 1 => some .f16 | 2 => some .bf16 | 3 => some .e4m3 | 4 => some .e5m2 | 5 => some .e2m1
  | 6 => some .i32 | 7 => some .i16 | 8 => some .i8
  | _ => none

/-- Code of the ET 0-2 in the vb field. -/
def EtF.code : EtF → BitVec 5
  | .f32 => 0 | .f16 => 1 | .bf16 => 2

/-- The ET 0-2 in the vb field of a code, none where the code is unassigned. -/
def EtF.ofCode (c : BitVec 5) : Option EtF :=
  match c.toNat with
  | 0 => some .f32 | 1 => some .f16 | 2 => some .bf16
  | _ => none

/-- Code of the VCMP condition. -/
def VCond.code : VCond → BitVec 3
  | .eq => 0 | .ne => 1 | .lt => 2 | .le => 3 | .ltu => 4 | .leu => 5 | .un => 6

/-- The VCMP condition of a code, none where the code is unassigned. -/
def VCond.ofCode (c : BitVec 3) : Option VCond :=
  match c.toNat with
  | 0 => some .eq | 1 => some .ne | 2 => some .lt | 3 => some .le | 4 => some .ltu | 5 => some .leu
  | 6 => some .un
  | _ => none

/-- Code of the lane width (Table 4-24). -/
def LaneW.code : LaneW → BitVec 3
  | .w => 0 | .h => 1 | .b => 2 | .d => 3

/-- The lane width (Table 4-24) of a code, none where the code is unassigned. -/
def LaneW.ofCode (c : BitVec 3) : Option LaneW :=
  match c.toNat with
  | 0 => some .w | 1 => some .h | 2 => some .b | 3 => some .d
  | _ => none

/-- A check of the decoder. -/
def check (c : Bool) (e : DecodeError) : Except DecodeError Unit := if c then .ok () else .error e

/-- A value that a code must name. -/
def named {α : Type} (o : Option α) (e : DecodeError) : Except DecodeError α :=
  match o with
  | some v => .ok v
  | none => .error e

/-- A field that names a vector register (R98). -/
def vreg (f : BitVec 5) : Except DecodeError VReg :=
  if f.toNat < 16 then .ok (f.setWidth 4) else .error .badVectorRegister

/-- A rounding field (Table 4-8). -/
def rndOf (c : BitVec 3) : Except DecodeError Rnd := named (Rnd.ofCode c) .badRounding

/-- An operand group (R99). -/
def groupOf (g : BitVec 5) (n : Nat) : Except DecodeError XReg := if groupOk g n then .ok g else .error .badGroup

/-- A predicate destination: d[18:16] with d[20:19] reserved (R110). -/
def pdOf (d : BitVec 5) : Except DecodeError PReg :=
  if d.extractLsb' 3 2 != 0 then .error .reservedBits
  else if d.extractLsb' 0 3 == 0 then .error .badPredicateDest
  else .ok (d.extractLsb' 0 3)

/-- A mask destination: vd[18:16] with vd[20:19] reserved (Table 4-24). -/
def mdOf (d : BitVec 5) : Except DecodeError MReg :=
  if d.extractLsb' 3 2 != 0 then .error .reservedBits
  else if d.extractLsb' 0 3 == 0 then .error .badMaskDest
  else .ok (d.extractLsb' 0 3)

/-- A three-bit register in the low bits of a field whose high bits are reserved. -/
def low3Of (a : BitVec 5) : Except DecodeError (BitVec 3) :=
  if a.extractLsb' 3 2 != 0 then .error .reservedBits else .ok (a.extractLsb' 0 3)

/-- OP 0x00 (Table 4-12). -/
def decInt (f : Fields) : Except DecodeError Instr :=
  let g := f.guard
  match f.fn.toNat with
  | 0 => if g == ⟨0, false⟩ && f.d == 0 && f.a == 0 && f.b == 0 then .error .allZeroWord else .ok (.add g f.d f.a f.b)
  | 1 => .ok (.sub g f.d f.a f.b)
  | 2 => .ok (.and g f.d f.a f.b)
  | 3 => .ok (.or g f.d f.a f.b)
  | 4 => .ok (.xor g f.d f.a f.b)
  | 5 => .ok (.shl g f.d f.a f.b)
  | 6 => .ok (.shr g f.d f.a f.b)
  | 7 => .ok (.sar g f.d f.a f.b)
  | 8 => .ok (.min g f.d f.a f.b)
  | 9 => .ok (.max g f.d f.a f.b)
  | 10 => .ok (.minu g f.d f.a f.b)
  | 11 => .ok (.maxu g f.d f.a f.b)
  | 12 => .ok (.mul g f.d f.a f.b)
  | 13 => .ok (.mulh g f.d f.a f.b)
  | 14 => .ok (.mulhu g f.d f.a f.b)
  | 15 => .ok (.div g f.d f.a f.b)
  | 16 => .ok (.divu g f.d f.a f.b)
  | 17 => .ok (.rem g f.d f.a f.b)
  | 18 => .ok (.remu g f.d f.a f.b)
  | 19 => do check (f.b == 0) .reservedBits; .ok (.clz g f.d f.a)
  | 20 => do check (f.b == 0) .reservedBits; .ok (.ctz g f.d f.a)
  | 21 => do check (f.b == 0) .reservedBits; .ok (.popc g f.d f.a)
  | _ => .error .unassignedSelector

/-- OP 0x05 (Table 4-12). -/
def decShiftImm (f : Fields) : Except DecodeError Instr :=
  let i := f.imm11
  let sh := i.extractLsb' 0 6
  match (i.extractLsb' 9 2).toNat with
  | 0 => do check (i.extractLsb' 6 3 == 0) .reservedBits; .ok (.shli f.guard f.d f.a sh)
  | 1 => do check (i.extractLsb' 6 3 == 0) .reservedBits; .ok (.shri f.guard f.d f.a sh)
  | 2 => do check (i.extractLsb' 6 3 == 0) .reservedBits; .ok (.sari f.guard f.d f.a sh)
  | _ => .error .unassignedSelector

/-- OP 0x07 (Table 4-12). -/
def decSel (f : Fields) : Except DecodeError Instr := do
  check (f.fn.extractLsb' 0 3 == 0) .reservedBits
  .ok (.sel f.guard f.d f.a f.b (f.fn.extractLsb' 3 3))

/-- OP 0x10 (Table 4-13). -/
def decSetp (f : Fields) : Except DecodeError Instr := do
  let c ← named (Cond.ofCode f.fn) .unassignedSelector
  let pd ← pdOf f.d
  .ok (.setp f.guard c pd f.a f.b)

/-- OP 0x11 (Table 4-13). -/
def decSetpiA (f : Fields) : Except DecodeError Instr := do
  let c ← named (CondA.ofCode (f.d.extractLsb' 3 2)) .unassignedSelector
  check (f.d.extractLsb' 0 3 != 0) .badPredicateDest
  .ok (.setpiA f.guard c (f.d.extractLsb' 0 3) f.a f.imm11)

/-- OP 0x12 (Table 4-13). -/
def decSetpiB (f : Fields) : Except DecodeError Instr := do
  let c ← named (CondB.ofCode (f.d.extractLsb' 3 2)) .unassignedSelector
  check (f.d.extractLsb' 0 3 != 0) .badPredicateDest
  .ok (.setpiB f.guard c (f.d.extractLsb' 0 3) f.a f.imm11)

/-- OP 0x13 (Table 4-13). -/
def decFsetp (f : Fields) : Except DecodeError Instr := do
  check (f.fn.extractLsb' 3 2 == 0) .reservedBits
  let p ← named (Prec.ofCode (f.fn.extractLsb' 5 1)) .unassignedSelector
  let c ← named (FCond.ofCode (f.fn.extractLsb' 0 3)) .unassignedSelector
  let pd ← pdOf f.d
  .ok (.fsetp f.guard p c pd f.a f.b)

/-- OP 0x14 (Table 4-13). -/
def decPlog (f : Fields) : Except DecodeError Instr := do
  let o ← named (PlogOp.ofCode f.fn) .unassignedSelector
  let pd ← pdOf f.d
  let pa ← low3Of f.a
  let pb ← low3Of f.b
  check (o != .not || pb == 0) .reservedBits
  .ok (.plog f.guard o pd pa pb)

/-- OP 0x18-0x1D (Table 4-14): the precision, SAT and rounding of fn. -/
def decFp (f : Fields) : Except DecodeError (Prec × Bool × Rnd) := do
  check (f.fn.extractLsb' 3 1 == 0) .reservedBits
  let p ← named (Prec.ofCode (f.fn.extractLsb' 5 1)) .unassignedSelector
  let r ← rndOf (f.fn.extractLsb' 0 3)
  .ok (p, f.fn.extractLsb' 4 1 == 1, r)

/-- OP 0x18. -/
def decFadd (f : Fields) : Except DecodeError Instr := do
  let k ← decFp f
  .ok (.fadd f.guard k.1 k.2.1 k.2.2 f.d f.a f.b)

/-- OP 0x19. -/
def decFsub (f : Fields) : Except DecodeError Instr := do
  let k ← decFp f
  .ok (.fsub f.guard k.1 k.2.1 k.2.2 f.d f.a f.b)

/-- OP 0x1A. -/
def decFmul (f : Fields) : Except DecodeError Instr := do
  let k ← decFp f
  .ok (.fmul f.guard k.1 k.2.1 k.2.2 f.d f.a f.b)

/-- OP 0x1B. -/
def decFfma (f : Fields) : Except DecodeError Instr := do
  let k ← decFp f
  .ok (.ffma f.guard k.1 k.2.1 k.2.2 f.d f.a f.b)

/-- OP 0x1C. -/
def decFdiv (f : Fields) : Except DecodeError Instr := do
  let k ← decFp f
  .ok (.fdiv f.guard k.1 k.2.1 k.2.2 f.d f.a f.b)

/-- OP 0x1D. -/
def decFsqrt (f : Fields) : Except DecodeError Instr := do
  let k ← decFp f
  check (f.b == 0) .reservedBits
  .ok (.fsqrt f.guard k.1 k.2.1 k.2.2 f.d f.a)

/-- OP 0x1E (Table 4-14). -/
def decFminmax (f : Fields) : Except DecodeError Instr := do
  let p ← named (Prec.ofCode (f.fn.extractLsb' 5 1)) .unassignedSelector
  match (f.fn.extractLsb' 3 2).toNat with
  | 0 => do check (f.fn.extractLsb' 0 3 == 0) .reservedBits; .ok (.fmin f.guard p f.d f.a f.b)
  | 1 => do check (f.fn.extractLsb' 0 3 == 0) .reservedBits; .ok (.fmax f.guard p f.d f.a f.b)
  | 2 => do
    check (f.fn.extractLsb' 0 3 == 0 && f.b == 0) .reservedBits
    .ok (.fclass f.guard p f.d f.a)
  | _ => .error .unassignedSelector

/-- OP 0x1F (Table 4-14). -/
def decFcvt (f : Fields) : Except DecodeError Instr := do
  check (f.fn.extractLsb' 5 1 == 0 && f.fn.extractLsb' 3 1 == 0) .reservedBits
  let cv ← named (Cvt.ofCode f.b) .badConversion
  let r ← rndOf (f.fn.extractLsb' 0 3)
  .ok (.fcvt f.guard cv (f.fn.extractLsb' 4 1 == 1) r f.d f.a)

/-- OP 0x22 (Table 4-16). -/
def decJump (f : Fields) : Except DecodeError Instr :=
  match f.fn.toNat with
  | 0 => do check (f.d == 0 && f.b == 0) .reservedBits; .ok (.jr f.guard f.a)
  | 1 => do check (f.d == 0 && f.a == 0 && f.b == 0) .reservedBits; .ok (.ret f.guard)
  | _ => .error .unassignedSelector

/-- OP 0x23 (Table 4-16). -/
def decRep (f : Fields) : Except DecodeError Instr := do
  check (f.d == 0 && f.imm11.extractLsb' 7 4 == 0) .reservedBits
  check (f.imm11.extractLsb' 0 7 != 0) .illegalCombination
  .ok (.rep f.guard f.a (f.imm11.extractLsb' 0 7))

/-- The 15-bit code of BRK, TRAP and SVC: bits [20:6]. -/
def Fields.code15 (f : Fields) : BitVec 15 := f.d ++ f.a ++ f.b

/-- OP 0x24 (Table 4-16). -/
def decControl (f : Fields) : Except DecodeError Instr :=
  match f.fn.toNat with
  | 0 => do check (f.code15 == 0) .reservedBits; .ok (.fin f.guard)
  | 1 => do check (f.d == 0 && f.b == 0) .reservedBits; .ok (.park f.guard f.a)
  | 2 => do check (f.code15 == 0) .reservedBits; .ok (.nop f.guard)
  | 3 => .ok (.brk f.guard f.code15)
  | 4 => .ok (.trap f.guard f.code15)
  | 5 => .ok (.svc f.guard f.code15)
  | _ => .error .unassignedSelector

/-- OP 0x28 (Table 4-17). -/
def decFrame (f : Fields) : Except DecodeError Instr :=
  match (f.fn.extractLsb' 3 3).toNat with
  | 0 => do
    check (f.a == 0 && f.b == 0) .reservedBits
    check ((f.fn.extractLsb' 0 3).toNat ≤ 4) .illegalCombination
    .ok (.falloc f.guard f.d (f.fn.extractLsb' 0 3))
  | 1 => do
    check (f.d == 0 && f.b == 0 && f.fn.extractLsb' 0 3 == 0) .reservedBits
    .ok (.ffree f.guard f.a)
  | _ => .error .unassignedSelector

/-- OP 0x29 (Table 4-17). -/
def decSlot (f : Fields) : Except DecodeError Instr :=
  match f.fn.toNat with
  | 0 => do check (f.d == 0) .reservedBits; .ok (.sloti f.guard f.a f.b)
  | 1 => do check (f.b == 0) .reservedBits; .ok (.slotr f.guard f.d f.a)
  | _ => .error .unassignedSelector

/-- OP 0x2A (Table 4-17). -/
def decSig (f : Fields) : Except DecodeError Instr :=
  let rel := f.fn.extractLsb' 1 1 == 1
  let n := f.fn.extractLsb' 0 1 == 1
  match (f.fn.extractLsb' 2 4).toNat with
  | 0 => do check (f.d == 0 && f.b == 0) .reservedBits; .ok (.sig f.guard rel n f.a)
  | 1 => .ok (.sigd f.guard rel n f.a f.b f.d)
  | 2 => do let vb ← vreg f.b; .ok (.sigv f.guard rel n f.a vb f.d)
  | _ => .error .unassignedSelector

/-- OP 0x2C (Table 4-17). -/
def decAmsg (f : Fields) : Except DecodeError Instr := do
  check (f.a == 0 && f.imm11 == 0) .reservedBits
  let xg ← groupOf f.d 8
  .ok (.amsg f.guard xg)

/-- OP 0x2D (Table 4-17). -/
def decArm (f : Fields) : Except DecodeError Instr := do
  check (f.a == 0 && f.imm11 == 0) .reservedBits
  let xg ← groupOf f.d 3
  .ok (.arm f.guard xg)

/-- OP 0x30 (Table 4-18). -/
def decLd (f : Fields) : Except DecodeError Instr := do
  let sz ← named (Size.ofCode (f.imm11.extractLsb' 9 2)) .unassignedSelector
  let u := f.imm11.extractLsb' 8 1 == 1
  check (!(u && sz == .d)) .illegalCombination
  .ok (.ld f.guard sz u f.d f.a (f.imm11.extractLsb' 0 8))

/-- OP 0x31 (Table 4-18). -/
def decSt (f : Fields) : Except DecodeError Instr := do
  let sz ← named (Size.ofCode (f.imm11.extractLsb' 9 2)) .unassignedSelector
  check (f.imm11.extractLsb' 8 1 == 0) .reservedBits
  .ok (.st f.guard sz f.d f.a (f.imm11.extractLsb' 0 8))

/-- OP 0x32 (Table 4-18). -/
def decLdz (f : Fields) : Except DecodeError Instr := do
  check (f.fn == 0) .unassignedSelector
  let vd ← vreg f.d
  .ok (.ldz f.guard vd f.a f.b)

/-- OP 0x33 (Table 4-18). -/
def decStz (f : Fields) : Except DecodeError Instr := do
  check (f.fn == 0) .unassignedSelector
  let vc ← vreg f.d
  .ok (.stz f.guard vc f.a f.b)

/-- OP 0x38 (Table 4-19). -/
def decGld (f : Fields) : Except DecodeError Instr := do
  let i := f.imm11
  check (i.extractLsb' 8 3 == 0 && i.extractLsb' 4 1 == 0) .reservedBits
  let e ← named (Evp.ofCode (i.extractLsb' 5 2)) .unassignedSelector
  let sz ← named (Size.ofCode (i.extractLsb' 2 2)) .unassignedSelector
  let xg ← groupOf f.d 2
  .ok (.gld f.guard (i.extractLsb' 7 1 == 1) e sz (i.extractLsb' 1 1 == 1) (i.extractLsb' 0 1 == 1) xg f.a)

/-- OP 0x39 (Table 4-19). -/
def decLdl (f : Fields) : Except DecodeError Instr := do
  let sz ← named (Size.ofCode (f.imm11.extractLsb' 9 2)) .unassignedSelector
  let u := f.imm11.extractLsb' 8 1 == 1
  check (!(u && sz == .d)) .illegalCombination
  .ok (.ldl f.guard sz u f.d f.a (f.imm11.extractLsb' 0 8))

/-- OP 0x3A (Table 4-19). -/
def decGst (f : Fields) : Except DecodeError Instr := do
  let sz ← named (Size.ofCode (f.imm11.extractLsb' 9 2)) .unassignedSelector
  let t := f.imm11.extractLsb' 8 1 == 1
  check (!(t && f.d == 31)) .illegalCombination
  .ok (.gst f.guard sz t f.d f.a (f.imm11.extractLsb' 0 8))

/-- OP 0x3B (Table 4-19). -/
def decGstv (f : Fields) : Except DecodeError Instr := do
  let vc ← vreg f.d
  .ok (.gstv f.guard vc f.a (f.imm11.extractLsb' 8 3) (f.imm11.extractLsb' 0 8))

/-- OP 0x3C (Table 4-19). -/
def decPref (f : Fields) : Except DecodeError Instr := do
  check (f.d.extractLsb' 2 3 == 0) .reservedBits
  let e ← named (Evp.ofCode (f.d.extractLsb' 0 2)) .unassignedSelector
  .ok (.pref f.guard e f.a f.imm11)

/-- OP 0x3D (Table 4-19): fn[5:3] K, fn[2:1] ORD, fn[0] SZ. -/
def decAtomic (f : Fields) : Except DecodeError Instr := do
  let o ← named (Ord.ofCode (f.fn.extractLsb' 1 2)) .unassignedSelector
  let sz ← named (ASize.ofCode (f.fn.extractLsb' 0 1)) .unassignedSelector
  match (f.fn.extractLsb' 3 3).toNat with
  | 0 => .ok (.xchg f.guard o sz f.d f.a f.b)
  | 1 => .ok (.cas f.guard o sz f.d f.a f.b)
  | 2 => do
    check (sz == .d && 2 ≤ f.d.toNat && f.d.toNat % 2 == 0 && f.b.toNat % 2 == 0) .illegalCombination
    .ok (.cas2 f.guard o f.d f.a f.b)
  | 3 => .ok (.faa f.guard o sz f.d f.a f.b)
  | 4 => .ok (.amax f.guard o sz f.d f.a f.b)
  | 5 => .ok (.amin f.guard o sz f.d f.a f.b)
  | 6 => .ok (.amaxU f.guard o sz f.d f.a f.b)
  | _ => .ok (.aminU f.guard o sz f.d f.a f.b)

/-- OP 0x40 (Table 4-20). -/
def decFence (f : Fields) : Except DecodeError Instr := do
  check (f.d == 0 && f.a == 0 && f.b == 0 && f.fn.extractLsb' 5 1 == 0) .reservedBits
  check (f.fn.extractLsb' 0 3 != 0) .unassignedSelector
  let sc ← named (Scope.ofCode (f.fn.extractLsb' 3 2)) .unassignedSelector
  .ok (.fence f.guard (f.fn.extractLsb' 0 1 == 1) (f.fn.extractLsb' 1 1 == 1) (f.fn.extractLsb' 2 1 == 1) sc)

/-- OP 0x41 (Table 4-20). -/
def decFenceq (f : Fields) : Except DecodeError Instr := do
  check (f.d == 0 && f.a == 0 && f.b == 0 && f.fn.extractLsb' 4 2 == 0) .reservedBits
  match (f.fn.extractLsb' 0 4).toNat with
  | 4 => .ok (.fenceqCt f.guard)
  | 1 => .ok (.fenceqTc f.guard)
  | _ => .error .unassignedSelector

/-- OP 0x42 (Table 4-20). -/
def decIflush (f : Fields) : Except DecodeError Instr :=
  match f.fn.toNat with
  | 0 => do check (f.d == 0) .reservedBits; .ok (.iflush f.guard f.a f.b)
  | 1 => do check (f.d == 0 && f.a == 0 && f.b == 0) .reservedBits; .ok (.iflushAll f.guard)
  | _ => .error .unassignedSelector

/-- OP 0x43 (Table 4-20). -/
def decUpd (f : Fields) : Except DecodeError Instr := do
  check (f.d == 0 && f.fn.extractLsb' 3 3 == 0) .reservedBits
  .ok (.upd f.guard f.a f.b (f.fn.extractLsb' 0 3))

/-- OP 0x44 (Table 4-20): the vd field holds an x register. -/
def decUpdv (f : Fields) : Except DecodeError Instr := do
  let va ← vreg f.a
  let vb ← vreg f.b
  .ok (.updv f.guard f.d va vb (f.fn.extractLsb' 3 3) (f.fn.extractLsb' 0 3))

/-- OP 0x45 (Table 4-20). -/
def decUapply (f : Fields) : Except DecodeError Instr := do
  check (f.fn == 0) .unassignedSelector
  check (f.d == 0) .reservedBits
  .ok (.uapply f.guard f.a f.b)

/-- The function field of a copy (Table 4-21). -/
def decCopyFn (i : BitVec 11) : Except DecodeError CopyFn := do
  let e ← named (Evp.ofCode (i.extractLsb' 8 2)) .unassignedSelector
  let dir ← named (CopyDir.ofCode (i.extractLsb' 2 2)) .unassignedSelector
  let r := i.extractLsb' 4 1 == 1
  check (r || i.extractLsb' 5 3 == 0) .reservedBits
  .ok { lu := i.extractLsb' 10 1 == 1, evp := e, q := i.extractLsb' 5 3, r := r, dir := dir,
        byt := i.extractLsb' 1 1 == 1, n := i.extractLsb' 0 1 == 1 }

/-- OP 0x48 (Table 4-22). -/
def decCpy (f : Fields) : Except DecodeError Instr := do
  let fn ← decCopyFn f.imm11
  let xg ← groupOf f.d 3
  .ok (.cpy f.guard fn xg f.a)

/-- OP 0x49 (Table 4-22). -/
def decCpy2 (f : Fields) : Except DecodeError Instr := do
  let fn ← decCopyFn f.imm11
  let xg ← groupOf f.d 6
  .ok (.cpy2 f.guard fn xg f.a)

/-- OP 0x4A (Table 4-22). -/
def decCpym (f : Fields) : Except DecodeError Instr := do
  check (f.imm11.extractLsb' 2 9 == 0) .reservedBits
  let xg ← groupOf f.d 5
  .ok (.cpym f.guard (f.imm11.extractLsb' 1 1 == 1) (f.imm11.extractLsb' 0 1 == 1) xg f.a)

/-- OP 0x4B (Table 4-22). -/
def decGthr (f : Fields) : Except DecodeError Instr := do
  let i := f.imm11
  let e ← named (Evp.ofCode (i.extractLsb' 8 2)) .unassignedSelector
  let iw ← named (IdxWidth.ofCode (i.extractLsb' 2 2)) .unassignedSelector
  let r := i.extractLsb' 4 1 == 1
  check (r || i.extractLsb' 5 3 == 0) .reservedBits
  let xg ← groupOf f.d 5
  .ok (.gthr f.guard { lu := i.extractLsb' 10 1 == 1, evp := e, q := i.extractLsb' 5 3, r := r, iw := iw,
                       byt := i.extractLsb' 1 1 == 1, n := i.extractLsb' 0 1 == 1 } xg f.a)

/-- OP 0x50 (Table 4-23). -/
def decRcfg (f : Fields) : Except DecodeError Instr := do
  check (f.a == 0 && f.imm11.extractLsb' 3 8 == 0) .reservedBits
  let xg ← groupOf f.d 3
  .ok (.rcfg f.guard (f.imm11.extractLsb' 0 3) xg)

/-- OP 0x51 (Table 4-23). -/
def decRadv (f : Fields) : Except DecodeError Instr := do
  check (f.a == 0 && f.imm11.extractLsb' 3 8 == 0) .reservedBits
  let xg ← groupOf f.d 1
  .ok (.radv f.guard (f.imm11.extractLsb' 0 3) xg)

/-- OP 0x52 (Table 4-23). -/
def decMma (f : Fields) : Except DecodeError Instr := do
  let i := f.imm11
  check (i.extractLsb' 10 1 == 0) .reservedBits
  let xg ← groupOf f.d 1
  .ok (.mma f.guard (i.extractLsb' 9 1 == 1) (i.extractLsb' 8 1 == 1) (i.extractLsb' 5 3) (i.extractLsb' 2 3)
        (i.extractLsb' 0 2) xg f.a)

/-- OP 0x53 (Table 4-23). -/
def decMmas (f : Fields) : Except DecodeError Instr := do
  let i := f.imm11
  let xg ← groupOf f.d 1
  .ok (.mmas f.guard (i.extractLsb' 9 2) (i.extractLsb' 8 1 == 1) (i.extractLsb' 5 3) (i.extractLsb' 2 3)
        (i.extractLsb' 0 2) xg f.a)

/-- OP 0x54 (Table 4-23). -/
def decMmg (f : Fields) : Except DecodeError Instr := do
  let i := f.imm11
  check (i.extractLsb' 4 7 == 0) .reservedBits
  let v ← named (MmgVal.ofCode (i.extractLsb' 3 1)) .unassignedSelector
  let t ← named (MmgAct.ofCode (i.extractLsb' 1 2)) .unassignedSelector
  let xg ← groupOf f.d 5
  .ok (.mmg f.guard v t (i.extractLsb' 0 1 == 1) xg f.a)

/-- OP 0x55 (Table 4-23). -/
def decAcc (f : Fields) : Except DecodeError Instr :=
  let i := f.imm11
  match (i.extractLsb' 8 3).toNat with
  | 0 => do
    check (i.extractLsb' 2 6 == 0 && f.a == 0) .reservedBits
    check (f.d == 0) .badGroup
    .ok (.accz f.guard (i.extractLsb' 0 2))
  | 1 => do
    check (i.extractLsb' 4 4 == 0 && i.extractLsb' 2 1 == 0) .reservedBits
    let xg ← groupOf f.d 1
    .ok (.accld f.guard (i.extractLsb' 3 1 == 1) (i.extractLsb' 0 2) xg f.a)
  | _ => .error .unassignedSelector

/-- OP 0x56 (Table 4-23). -/
def decAccst (f : Fields) : Except DecodeError Instr := do
  let i := f.imm11
  let r ← rndOf (i.extractLsb' 5 3)
  let t ← named (Tag.ofCode (i.extractLsb' 2 3)) .unassignedSelector
  let xg ← groupOf f.d 2
  .ok (.accst f.guard (i.extractLsb' 10 1 == 1) (i.extractLsb' 9 1 == 1) (i.extractLsb' 8 1 == 1) r t
        (i.extractLsb' 0 2) xg f.a)

/-- OP 0x57 (Table 4-23). -/
def decSscfg (f : Fields) : Except DecodeError Instr := do
  check (f.a == 0 && f.imm11.extractLsb' 2 9 == 0) .reservedBits
  let xg ← groupOf f.d 2
  .ok (.sscfg f.guard (f.imm11.extractLsb' 0 2) xg)

/-- The m field of an XV word (Table 4-4). -/
def Fields.m (f : Fields) : MReg := f.fn.extractLsb' 3 3

/-- The function of an XV word (Table 4-4). -/
def Fields.vfn (f : Fields) : BitVec 3 := f.fn.extractLsb' 0 3

/-- OP 0x58-0x5D (Table 4-24). -/
def decVarith (t : VType) (f : Fields) : Except DecodeError Instr := do
  let vd ← vreg f.d
  let va ← vreg f.a
  match f.vfn.toNat with
  | 0 => do let vb ← vreg f.b; .ok (.vadd f.guard t vd va vb f.m)
  | 1 => do let vb ← vreg f.b; .ok (.vsub f.guard t vd va vb f.m)
  | 2 => do let vb ← vreg f.b; .ok (.vmul f.guard t vd va vb f.m)
  | 3 => do let vb ← vreg f.b; .ok (.vfma f.guard t vd va vb f.m)
  | 4 => do let vb ← vreg f.b; .ok (.vmin f.guard t vd va vb f.m)
  | 5 => do let vb ← vreg f.b; .ok (.vmax f.guard t vd va vb f.m)
  | 6 => do check (f.b == 0) .reservedBits; .ok (.vabs f.guard t vd va f.m)
  | _ => do check (f.b == 0) .reservedBits; .ok (.vneg f.guard t vd va f.m)

/-- OP 0x5E (Table 4-24). -/
def decVlogic (f : Fields) : Except DecodeError Instr := do
  let vd ← vreg f.d
  let va ← vreg f.a
  let vb ← vreg f.b
  match f.vfn.toNat with
  | 0 => .ok (.vand f.guard vd va vb f.m)
  | 1 => .ok (.vor f.guard vd va vb f.m)
  | 2 => .ok (.vxor f.guard vd va vb f.m)
  | 3 => .ok (.vselW f.guard vd va vb f.m)
  | 4 => .ok (.vselH f.guard vd va vb f.m)
  | 5 => .ok (.vselB f.guard vd va vb f.m)
  | _ => .error .unassignedSelector

/-- OP 0x5F (Table 4-24). -/
def decVshift (f : Fields) : Except DecodeError Instr := do
  let vd ← vreg f.d
  let va ← vreg f.a
  let vb ← vreg f.b
  match f.vfn.toNat with
  | 0 => .ok (.vshlI32 f.guard vd va vb f.m)
  | 1 => .ok (.vshrI32 f.guard vd va vb f.m)
  | 2 => .ok (.vsarI32 f.guard vd va vb f.m)
  | 3 => .ok (.vshlI16 f.guard vd va vb f.m)
  | 4 => .ok (.vshrI16 f.guard vd va vb f.m)
  | 5 => .ok (.vsarI16 f.guard vd va vb f.m)
  | _ => .error .unassignedSelector

/-- OP 0x60 (Table 4-24): the m field holds the type. -/
def decVcmp (f : Fields) : Except DecodeError Instr := do
  let md ← mdOf f.d
  let va ← vreg f.a
  let vb ← vreg f.b
  let t ← named (VType.ofCode f.m) .unassignedSelector
  let c ← named (VCond.ofCode f.vfn) .unassignedSelector
  check (vcmpOk t c) .unassignedSelector
  .ok (.vcmp f.guard t c md va vb)

/-- The integer element types of VIOTA in the vb field (Table 4-24). -/
def EtI.ofField (c : BitVec 5) : Option EtI :=
  match c.toNat with
  | 6 => some .i32 | 7 => some .i16 | 8 => some .i8
  | _ => none

/-- The vb field of a VIOTA. -/
def EtI.field : EtI → BitVec 5
  | .i32 => 6 | .i16 => 7 | .i8 => 8

/-- OP 0x61 (Table 4-24): the vb field holds the element type. -/
def decVfunc (f : Fields) : Except DecodeError Instr := do
  let vd ← vreg f.d
  match f.vfn.toNat with
  | 0 => do
    let va ← vreg f.a; let t ← named (EtF.ofCode f.b) .badElementType
    .ok (.vrcp f.guard t vd va f.m)
  | 1 => do
    let va ← vreg f.a; let t ← named (EtF.ofCode f.b) .badElementType
    .ok (.vrsq f.guard t vd va f.m)
  | 2 => do
    let va ← vreg f.a; let t ← named (EtF.ofCode f.b) .badElementType
    .ok (.vexp2 f.guard t vd va f.m)
  | 3 => do
    let va ← vreg f.a; let t ← named (EtF.ofCode f.b) .badElementType
    .ok (.vlog2 f.guard t vd va f.m)
  | 4 => do
    check (f.a == 0) .reservedBits
    let t ← named (EtI.ofField f.b) .badElementType
    .ok (.viota f.guard t vd f.m)
  | _ => .error .unassignedSelector

/-- The element types of a VRED in the vb field (Table 4-24). -/
def redOfField (c : BitVec 5) : Option VType :=
  match c.toNat with
  | 0 => some .f32 | 1 => some .f16 | 2 => some .bf16 | 6 => some .i32 | 7 => some .i16 | 8 => some .i8
  | _ => none

/-- The vb field of a VRED. -/
def redField : VType → BitVec 5
  | .f32 => 0 | .f16 => 1 | .bf16 => 2 | .i32 => 6 | .i16 => 7 | .i8 => 8

/-- OP 0x62 (Table 4-24): the vd field names an x register. -/
def decVred (f : Fields) : Except DecodeError Instr := do
  let va ← vreg f.a
  match f.vfn.toNat with
  | 0 => do let t ← named (redOfField f.b) .badElementType; .ok (.vredAdd f.guard t f.d va f.m)
  | 1 => do let t ← named (redOfField f.b) .badElementType; .ok (.vredMin f.guard t f.d va f.m)
  | 2 => do let t ← named (redOfField f.b) .badElementType; .ok (.vredMax f.guard t f.d va f.m)
  | 3 => do let vb ← vreg f.b; .ok (.vdotF32 f.guard f.d va vb f.m)
  | 4 => do let vb ← vreg f.b; .ok (.vdotBf16 f.guard f.d va vb f.m)
  | 5 => do let vb ← vreg f.b; .ok (.vdotF16 f.guard f.d va vb f.m)
  | _ => .error .unassignedSelector

/-- OP 0x63 (Table 4-24): the m field holds the lane width. -/
def decVmove (f : Fields) : Except DecodeError Instr := do
  let lw ← named (LaneW.ofCode f.m) .unassignedSelector
  match f.vfn.toNat with
  | 0 => do let vd ← vreg f.d; let va ← vreg f.a; let vb ← vreg f.b; .ok (.vperm f.guard lw vd va vb)
  | 1 => do let vd ← vreg f.d; check (f.b == 0) .reservedBits; .ok (.vbcast f.guard lw vd f.a)
  | 2 => do let va ← vreg f.a; .ok (.vext f.guard lw f.d va f.b)
  | 3 => do let vd ← vreg f.d; .ok (.vins f.guard lw vd f.a f.b)
  | 4 => do let vd ← vreg f.d; let va ← vreg f.a; let mb ← low3Of f.b; .ok (.vcomp f.guard lw vd va mb)
  | 5 => do let vd ← vreg f.d; let va ← vreg f.a; let mb ← low3Of f.b; .ok (.vexpd f.guard lw vd va mb)
  | _ => .error .unassignedSelector

/-- OP 0x64 (Table 4-24). -/
def decVld (f : Fields) : Except DecodeError Instr := do
  let vd ← vreg f.d
  .ok (.vld f.guard vd f.a f.imm11)

/-- OP 0x65 (Table 4-24). -/
def decVst (f : Fields) : Except DecodeError Instr := do
  let vc ← vreg f.d
  .ok (.vst f.guard vc f.a f.imm11)

/-- OP 0x66 (Table 4-24). -/
def decMlog (f : Fields) : Except DecodeError Instr := do
  check (f.m == 0) .reservedBits
  let ma ← low3Of f.a
  let mb ← low3Of f.b
  if f.vfn == 5 then do
    check (mb == 0) .reservedBits
    .ok (.mcnt f.guard f.d ma)
  else do
    let o ← named (MlogOp.ofCode f.vfn) .unassignedSelector
    let md ← mdOf f.d
    check (o != .not || mb == 0) .reservedBits
    .ok (.mlog f.guard o md ma mb)

/-- OP 0x68 (Table 4-25). -/
def decRdsr (f : Fields) : Except DecodeError Instr := do
  check (f.a == 0) .reservedBits
  .ok (.rdsr f.guard f.d f.imm11)

/-- OP 0x69 (Table 4-25). -/
def decWrsr (f : Fields) : Except DecodeError Instr := do
  check (f.d == 0) .reservedBits
  .ok (.wrsr f.guard f.a f.imm11)

/-- OP 0x6A (Table 4-25). -/
def decRgnctl (f : Fields) : Except DecodeError Instr := do
  check (f.imm11.extractLsb' 3 8 == 0) .reservedBits
  let xg ← groupOf f.d 2
  match (f.imm11.extractLsb' 0 3).toNat with
  | 0 => .ok (.rgnctlAct f.guard xg f.a)
  | 1 => .ok (.rgnctlCfg f.guard xg f.a)
  | 2 => .ok (.rgnctlSusp f.guard xg f.a)
  | 3 => .ok (.rgnctlRes f.guard xg f.a)
  | 4 => .ok (.rgnctlDel f.guard xg f.a)
  | _ => .error .unassignedSelector

/-- OP 0x6B (Table 4-25). -/
def decTlbinv (f : Fields) : Except DecodeError Instr :=
  match f.fn.toNat with
  | 0 => do check (f.d == 0) .reservedBits; .ok (.tlbinvPg f.guard f.a f.b)
  | 1 => do check (f.d == 0 && f.a == 0) .reservedBits; .ok (.tlbinvAs f.guard f.b)
  | 2 => do check (f.d == 0 && f.a == 0 && f.b == 0) .reservedBits; .ok (.tlbinvAll f.guard)
  | _ => .error .unassignedSelector

/-- OP 0x6C (Table 4-25). -/
def decWaycfg (f : Fields) : Except DecodeError Instr := do
  check (f.fn == 0) .unassignedSelector
  check (f.d == 0) .reservedBits
  .ok (.waycfg f.guard f.a f.b)

/-- OP 0x6D (Table 4-25). -/
def decSymq (f : Fields) : Except DecodeError Instr := do
  check (f.fn == 0) .unassignedSelector
  check (f.b == 0) .reservedBits
  .ok (.symq f.guard f.d f.a)

/-- OP 0x6E (Table 4-25). -/
def decResume (f : Fields) : Except DecodeError Instr := do
  check (f.fn.toNat < 4) .unassignedSelector
  check (f.d == 0 && f.b == 0) .reservedBits
  match f.fn.toNat with
  | 0 => .ok (.resume f.guard f.a)
  | 1 => .ok (.resumeAbt f.guard f.a)
  | 2 => .ok (.resumeRpl f.guard f.a)
  | _ => .ok (.resumeDrp f.guard f.a)

/-- Is OP a long form of two words (Table 4-26)? -/
def isLongOp (op : BitVec 7) : Bool := 0x70 ≤ op.toNat && op.toNat ≤ 0x75

/-- A one-word instruction, by its OP (Table 4-11). -/
def decShort (f : Fields) : Except DecodeError Instr :=
  match f.op.toNat with
  | 0x00 => decInt f
  | 0x01 => .ok (.addi f.guard f.d f.a f.imm11)
  | 0x02 => .ok (.andi f.guard f.d f.a f.imm11)
  | 0x03 => .ok (.ori f.guard f.d f.a f.imm11)
  | 0x04 => .ok (.xori f.guard f.d f.a f.imm11)
  | 0x05 => decShiftImm f
  | 0x07 => decSel f
  | 0x10 => decSetp f
  | 0x11 => decSetpiA f
  | 0x12 => decSetpiB f
  | 0x13 => decFsetp f
  | 0x14 => decPlog f
  | 0x18 => decFadd f
  | 0x19 => decFsub f
  | 0x1A => decFmul f
  | 0x1B => decFfma f
  | 0x1C => decFdiv f
  | 0x1D => decFsqrt f
  | 0x1E => decFminmax f
  | 0x1F => decFcvt f
  | 0x20 => .ok (.br f.guard f.off21)
  | 0x21 => .ok (.call f.guard f.off21)
  | 0x22 => decJump f
  | 0x23 => decRep f
  | 0x24 => decControl f
  | 0x28 => decFrame f
  | 0x29 => decSlot f
  | 0x2A => decSig f
  | 0x2B => .ok (.sref f.guard f.d f.a f.imm11)
  | 0x2C => decAmsg f
  | 0x2D => decArm f
  | 0x30 => decLd f
  | 0x31 => decSt f
  | 0x32 => decLdz f
  | 0x33 => decStz f
  | 0x38 => decGld f
  | 0x39 => decLdl f
  | 0x3A => decGst f
  | 0x3B => decGstv f
  | 0x3C => decPref f
  | 0x3D => decAtomic f
  | 0x40 => decFence f
  | 0x41 => decFenceq f
  | 0x42 => decIflush f
  | 0x43 => decUpd f
  | 0x44 => decUpdv f
  | 0x45 => decUapply f
  | 0x48 => decCpy f
  | 0x49 => decCpy2 f
  | 0x4A => decCpym f
  | 0x4B => decGthr f
  | 0x50 => decRcfg f
  | 0x51 => decRadv f
  | 0x52 => decMma f
  | 0x53 => decMmas f
  | 0x54 => decMmg f
  | 0x55 => decAcc f
  | 0x56 => decAccst f
  | 0x57 => decSscfg f
  | 0x58 => decVarith .f32 f
  | 0x59 => decVarith .f16 f
  | 0x5A => decVarith .bf16 f
  | 0x5B => decVarith .i32 f
  | 0x5C => decVarith .i16 f
  | 0x5D => decVarith .i8 f
  | 0x5E => decVlogic f
  | 0x5F => decVshift f
  | 0x60 => decVcmp f
  | 0x61 => decVfunc f
  | 0x62 => decVred f
  | 0x63 => decVmove f
  | 0x64 => decVld f
  | 0x65 => decVst f
  | 0x66 => decMlog f
  | 0x68 => decRdsr f
  | 0x69 => decWrsr f
  | 0x6A => decRgnctl f
  | 0x6B => decTlbinv f
  | 0x6C => decWaycfg f
  | 0x6D => decSymq f
  | 0x6E => decResume f
  | _ => .error .unassignedOpcode

/-- The VOP of a VX word 0 under an arithmetic opcode 0x58-0x5D. -/
def vopArith (t : VType) (fn : BitVec 3) : Vop :=
  match fn.toNat with
  | 0 => .add t | 1 => .sub t | 2 => .mul t | 3 => .fma t | 4 => .min t | 5 => .max t | 6 => .abs t
  | _ => .neg t

/-- The VOP of a VX word 0 under opcode 0x61. -/
def vopFunc (t : EtF) (fn : BitVec 3) : Option Vop :=
  match fn.toNat with
  | 0 => some (.rcp t) | 1 => some (.rsq t) | 2 => some (.exp2 t) | 3 => some (.log2 t)
  | _ => none

/-- The vector arithmetic opcodes, less 0x58, as types. -/
def typeOfOp (op : BitVec 7) : Option VType :=
  match op.toNat with
  | 0x58 => some .f32 | 0x59 => some .f16 | 0x5A => some .bf16
  | 0x5B => some .i32 | 0x5C => some .i16 | 0x5D => some .i8
  | _ => none

/-- OP 0x74 (Table 4-26, R405). -/
def decVx (f : Fields) (w1 : BitVec 32) : Except DecodeError Instr := do
  check (w1.extractLsb' 11 21 == 0) .reservedBits
  let r ← rndOf (w1.extractLsb' 0 3)
  let sat := w1.extractLsb' 3 1 == 1
  let vd ← vreg f.d
  let va ← vreg f.a
  match typeOfOp (w1.extractLsb' 4 7) with
  | some t =>
    let op := vopArith t f.vfn
    if op.isUnary then do
      check (f.b == 0) .reservedBits
      check (!op.isInteger || r == .rne) .illegalCombination
      .ok (.vx f.guard op sat r vd va 0 f.m)
    else do
      let vb ← vreg f.b
      check (!op.isInteger || r == .rne) .illegalCombination
      .ok (.vx f.guard op sat r vd va vb f.m)
  | none => do
    check (w1.extractLsb' 4 7 == 0x61) .illegalCombination
    let t ← named (EtF.ofCode f.b) .badElementType
    let op ← named (vopFunc t f.vfn) .illegalCombination
    .ok (.vx f.guard op sat r vd va 0 f.m)

/-- OP 0x75 (Table 4-26, R414). -/
def decVcvt (f : Fields) (w1 : BitVec 32) : Except DecodeError Instr := do
  check (w1.extractLsb' 16 16 == 0 && w1.extractLsb' 4 4 == 0 && f.b == 0 && f.vfn == 0) .reservedBits
  let dst ← named (Et.ofCode (w1.extractLsb' 12 4)) .badElementType
  let src ← named (Et.ofCode (w1.extractLsb' 8 4)) .badElementType
  let r ← rndOf (w1.extractLsb' 0 3)
  check (dst != src) .illegalCombination
  let vd ← vreg f.d
  let va ← vreg f.a
  .ok (.vcvt f.guard dst src (w1.extractLsb' 3 1 == 1) r vd va f.m)

/-- The bit field of BFX and BFI in word 1 (Table 4-26). -/
def decBitField (w1 : BitVec 32) : Except DecodeError (BitVec 6 × BitVec 7) := do
  check (w1.extractLsb' 14 18 == 0 && w1.extractLsb' 7 1 == 0) .reservedBits
  check (bitFieldOk (w1.extractLsb' 8 6) (w1.extractLsb' 0 7)) .illegalCombination
  .ok (w1.extractLsb' 8 6, w1.extractLsb' 0 7)

/-- A two-word instruction (Table 4-26). -/
def decLong (f : Fields) (w1 : BitVec 32) : Except DecodeError Instr :=
  match f.op.toNat with
  | 0x70 => do check (f.a == 0 && f.imm11 == 0) .reservedBits; .ok (.limm f.guard f.d w1)
  | 0x71 => do check (f.a == 0 && f.imm11 == 0) .reservedBits; .ok (.lui f.guard f.d w1)
  | 0x72 => do
    check (f.imm11 == 0) .reservedBits
    let k ← decBitField w1
    .ok (.bfx f.guard f.d f.a k.1 k.2)
  | 0x73 => do
    check (f.imm11 == 0) .reservedBits
    let k ← decBitField w1
    .ok (.bfi f.guard f.d f.a k.1 k.2)
  | 0x74 => decVx f w1
  | 0x75 => decVcvt f w1
  | _ => .error .unassignedOpcode

/-- Decode the words from an instruction's first word on; `none` stands for a second word that is not there. The
all-ones word is refused under its own name (Table 4-27). -/
def decodeWords (w0 : BitVec 32) (w1 : Option (BitVec 32)) : Except DecodeError Instr :=
  if w0 == BitVec.allOnes 32 then .error .allOnesWord
  else
    let f := Fields.split w0
    if isLongOp f.op then
      match w1 with
      | some w => decLong f w
      | none => .error .truncated
    else decShort f

/-- The 32-bit little-endian word of four bytes (R3). -/
def wordOfBytes (b0 b1 b2 b3 : Byte) : BitVec 32 := b3 ++ b2 ++ b1 ++ b0

/-- The little-endian bytes of a word (R3). -/
def bytesOfWord (w : BitVec 32) : List Byte :=
  [w.extractLsb' 0 8, w.extractLsb' 8 8, w.extractLsb' 16 8, w.extractLsb' 24 8]

/-- Decode the bytes from an instruction's first byte on. -/
def decode : List Byte → Except DecodeError Instr
  | b0 :: b1 :: b2 :: b3 :: rest =>
    decodeWords (wordOfBytes b0 b1 b2 b3)
      (match rest with
       | c0 :: c1 :: c2 :: c3 :: _ => some (wordOfBytes c0 c1 c2 c3)
       | _ => none)
  | _ => .error .truncated

/-- The instruction words an instruction takes (R88). -/
def Instr.words : Instr → Nat
  | .limm .. | .lui .. | .bfx .. | .bfi .. | .vx .. | .vcvt .. => 2
  | _ => 1

/-- One bit. -/
def bit1 (x : Bool) : BitVec 1 := BitVec.ofBool x

/-- A word from its guard, OP and the fields of format XR. -/
def wordXR (g : Guard) (op : BitVec 7) (rd ra rb : BitVec 5) (fn : BitVec 6) : BitVec 32 :=
  Fields.pack { pg := g.pg, pn := bit1 g.pn, op := op, d := rd, a := ra, b := rb, fn := fn }

/-- A word from its guard, OP and the fields of formats XI, XS and XE. -/
def wordXI (g : Guard) (op : BitVec 7) (rd ra : BitVec 5) (i : BitVec 11) : BitVec 32 :=
  wordXR g op rd ra (i.extractLsb' 6 5) (i.extractLsb' 0 6)

/-- A word from its guard, OP and off21. -/
def wordXB (g : Guard) (op : BitVec 7) (o : BitVec 21) : BitVec 32 :=
  wordXR g op (o.extractLsb' 16 5) (o.extractLsb' 11 5) (o.extractLsb' 6 5) (o.extractLsb' 0 6)

/-- A word of the form whose bits [20:6] are a code. -/
def wordCode (g : Guard) (fn : BitVec 6) (c : BitVec 15) : BitVec 32 :=
  wordXR g 0x24 (c.extractLsb' 10 5) (c.extractLsb' 5 5) (c.extractLsb' 0 5) fn

/-- A field that holds a vector register. -/
def vfield (v : VReg) : BitVec 5 := (0#1) ++ v

/-- A field that holds three bits above zeros. -/
def field3 (m : BitVec 3) : BitVec 5 := (0#2) ++ m

/-- A word of format XV. -/
def wordXV (g : Guard) (op : BitVec 7) (rd ra rb : BitVec 5) (m : MReg) (fn : BitVec 3) : BitVec 32 :=
  wordXR g op rd ra rb (m ++ fn)

/-- fn of the scalar floating-point opcodes (R111). -/
def fpFn (p : Prec) (sat : Bool) (r : Rnd) : BitVec 6 := p.code ++ bit1 sat ++ (0#1) ++ r.code

/-- fn of an atomic (R116). -/
def atomicFn (k : BitVec 3) (o : Ord) (sz : BitVec 1) : BitVec 6 := k ++ o.code ++ sz

/-- The function field of a copy (Table 4-21). -/
def CopyFn.code (f : CopyFn) : BitVec 11 :=
  bit1 f.lu ++ f.evp.code ++ f.q ++ bit1 f.r ++ f.dir.code ++ bit1 f.byt ++ bit1 f.n

/-- The function field of a GTHR (Table 4-21). -/
def GthrFn.code (f : GthrFn) : BitVec 11 :=
  bit1 f.lu ++ f.evp.code ++ f.q ++ bit1 f.r ++ f.iw.code ++ bit1 f.byt ++ bit1 f.n

/-- imm11 of the scaled accesses (Tables 4-18 and 4-19). -/
def memImm (sz : Size) (x : Bool) (off : BitVec 8) : BitVec 11 := sz.code ++ bit1 x ++ off

/-- The opcode of a vector arithmetic type. -/
def VType.op : VType → BitVec 7
  | .f32 => 0x58 | .f16 => 0x59 | .bf16 => 0x5A | .i32 => 0x5B | .i16 => 0x5C | .i8 => 0x5D

/-- The VOP field of a VX, the fn of its word 0, and its vb field where the VOP gives it (R405). -/
def Vop.fields : Vop → BitVec 7 × BitVec 3 × Option (BitVec 5)
  | .add t => (t.op, 0, none) | .sub t => (t.op, 1, none) | .mul t => (t.op, 2, none) | .fma t => (t.op, 3, none)
  | .min t => (t.op, 4, none) | .max t => (t.op, 5, none)
  | .abs t => (t.op, 6, some 0) | .neg t => (t.op, 7, some 0)
  | .rcp t => (0x61, 0, some t.code) | .rsq t => (0x61, 1, some t.code)
  | .exp2 t => (0x61, 2, some t.code) | .log2 t => (0x61, 3, some t.code)

/-- The words of an instruction; an event has none. -/
def encode : Instr → List (BitVec 32)
  | .add g d a b => [wordXR g 0x00 d a b 0]
  | .sub g d a b => [wordXR g 0x00 d a b 1]
  | .and g d a b => [wordXR g 0x00 d a b 2]
  | .or g d a b => [wordXR g 0x00 d a b 3]
  | .xor g d a b => [wordXR g 0x00 d a b 4]
  | .shl g d a b => [wordXR g 0x00 d a b 5]
  | .shr g d a b => [wordXR g 0x00 d a b 6]
  | .sar g d a b => [wordXR g 0x00 d a b 7]
  | .min g d a b => [wordXR g 0x00 d a b 8]
  | .max g d a b => [wordXR g 0x00 d a b 9]
  | .minu g d a b => [wordXR g 0x00 d a b 10]
  | .maxu g d a b => [wordXR g 0x00 d a b 11]
  | .mul g d a b => [wordXR g 0x00 d a b 12]
  | .mulh g d a b => [wordXR g 0x00 d a b 13]
  | .mulhu g d a b => [wordXR g 0x00 d a b 14]
  | .div g d a b => [wordXR g 0x00 d a b 15]
  | .divu g d a b => [wordXR g 0x00 d a b 16]
  | .rem g d a b => [wordXR g 0x00 d a b 17]
  | .remu g d a b => [wordXR g 0x00 d a b 18]
  | .clz g d a => [wordXR g 0x00 d a 0 19]
  | .ctz g d a => [wordXR g 0x00 d a 0 20]
  | .popc g d a => [wordXR g 0x00 d a 0 21]
  | .addi g d a i => [wordXI g 0x01 d a i]
  | .andi g d a i => [wordXI g 0x02 d a i]
  | .ori g d a i => [wordXI g 0x03 d a i]
  | .xori g d a i => [wordXI g 0x04 d a i]
  | .shli g d a sh => [wordXI g 0x05 d a ((0#2) ++ (0#3) ++ sh)]
  | .shri g d a sh => [wordXI g 0x05 d a ((1#2) ++ (0#3) ++ sh)]
  | .sari g d a sh => [wordXI g 0x05 d a ((2#2) ++ (0#3) ++ sh)]
  | .sel g d a b k => [wordXR g 0x07 d a b (k ++ (0#3))]
  | .setp g c pd a b => [wordXR g 0x10 (field3 pd) a b c.code]
  | .setpiA g c pd a i => [wordXI g 0x11 (c.code ++ pd) a i]
  | .setpiB g c pd a i => [wordXI g 0x12 (c.code ++ pd) a i]
  | .fsetp g p c pd a b => [wordXR g 0x13 (field3 pd) a b (p.code ++ (0#2) ++ c.code)]
  | .plog g o pd pa pb => [wordXR g 0x14 (field3 pd) (field3 pa) (field3 pb) o.code]
  | .fadd g p s r d a b => [wordXR g 0x18 d a b (fpFn p s r)]
  | .fsub g p s r d a b => [wordXR g 0x19 d a b (fpFn p s r)]
  | .fmul g p s r d a b => [wordXR g 0x1A d a b (fpFn p s r)]
  | .ffma g p s r d a b => [wordXR g 0x1B d a b (fpFn p s r)]
  | .fdiv g p s r d a b => [wordXR g 0x1C d a b (fpFn p s r)]
  | .fsqrt g p s r d a => [wordXR g 0x1D d a 0 (fpFn p s r)]
  | .fmin g p d a b => [wordXR g 0x1E d a b (p.code ++ (0#2) ++ (0#3))]
  | .fmax g p d a b => [wordXR g 0x1E d a b (p.code ++ (1#2) ++ (0#3))]
  | .fclass g p d a => [wordXR g 0x1E d a 0 (p.code ++ (2#2) ++ (0#3))]
  | .fcvt g cv s r d a => [wordXR g 0x1F d a cv.code ((0#1) ++ bit1 s ++ (0#1) ++ r.code)]
  | .br g o => [wordXB g 0x20 o]
  | .call g o => [wordXB g 0x21 o]
  | .jr g a => [wordXR g 0x22 0 a 0 0]
  | .ret g => [wordXR g 0x22 0 0 0 1]
  | .rep g a n => [wordXI g 0x23 0 a ((0#4) ++ n)]
  | .fin g => [wordCode g 0 0]
  | .park g a => [wordXR g 0x24 0 a 0 1]
  | .nop g => [wordCode g 2 0]
  | .brk g c => [wordCode g 3 c]
  | .trap g c => [wordCode g 4 c]
  | .svc g c => [wordCode g 5 c]
  | .falloc g d c => [wordXR g 0x28 d 0 0 ((0#3) ++ c)]
  | .ffree g a => [wordXR g 0x28 0 a 0 ((1#3) ++ (0#3))]
  | .sloti g a b => [wordXR g 0x29 0 a b 0]
  | .slotr g d a => [wordXR g 0x29 d a 0 1]
  | .sig g l n a => [wordXR g 0x2A 0 a 0 ((0#4) ++ bit1 l ++ bit1 n)]
  | .sigd g l n a b w => [wordXR g 0x2A w a b ((1#4) ++ bit1 l ++ bit1 n)]
  | .sigv g l n a v w => [wordXR g 0x2A w a (vfield v) ((2#4) ++ bit1 l ++ bit1 n)]
  | .sref g d a i => [wordXI g 0x2B d a i]
  | .amsg g x => [wordXI g 0x2C x 0 0]
  | .arm g x => [wordXI g 0x2D x 0 0]
  | .ld g sz u d a o => [wordXI g 0x30 d a (memImm sz u o)]
  | .st g sz c a o => [wordXI g 0x31 c a (memImm sz false o)]
  | .ldz g v a b => [wordXR g 0x32 (vfield v) a b 0]
  | .stz g v a b => [wordXR g 0x33 (vfield v) a b 0]
  | .gld g lu e sz bt n x y =>
    [wordXI g 0x38 x y ((0#3) ++ bit1 lu ++ e.code ++ (0#1) ++ sz.code ++ bit1 bt ++ bit1 n)]
  | .ldl g sz u d a o => [wordXI g 0x39 d a (memImm sz u o)]
  | .gst g sz t c a o => [wordXI g 0x3A c a (memImm sz t o)]
  | .gstv g v a m o => [wordXI g 0x3B (vfield v) a (m ++ o)]
  | .pref g e a o => [wordXI g 0x3C ((0#3) ++ e.code) a o]
  | .xchg g o sz d a b => [wordXR g 0x3D d a b (atomicFn 0 o sz.code)]
  | .cas g o sz d a b => [wordXR g 0x3D d a b (atomicFn 1 o sz.code)]
  | .cas2 g o d a b => [wordXR g 0x3D d a b (atomicFn 2 o 1)]
  | .faa g o sz d a b => [wordXR g 0x3D d a b (atomicFn 3 o sz.code)]
  | .amax g o sz d a b => [wordXR g 0x3D d a b (atomicFn 4 o sz.code)]
  | .amin g o sz d a b => [wordXR g 0x3D d a b (atomicFn 5 o sz.code)]
  | .amaxU g o sz d a b => [wordXR g 0x3D d a b (atomicFn 6 o sz.code)]
  | .aminU g o sz d a b => [wordXR g 0x3D d a b (atomicFn 7 o sz.code)]
  | .fence g w u e sc => [wordXR g 0x40 0 0 0 ((0#1) ++ sc.code ++ bit1 e ++ bit1 u ++ bit1 w)]
  | .fenceqCt g => [wordXR g 0x41 0 0 0 4]
  | .fenceqTc g => [wordXR g 0x41 0 0 0 1]
  | .iflush g a b => [wordXR g 0x42 0 a b 0]
  | .iflushAll g => [wordXR g 0x42 0 0 0 1]
  | .upd g a b k => [wordXR g 0x43 0 a b ((0#3) ++ k)]
  | .updv g xd va vb m k => [wordXV g 0x44 xd (vfield va) (vfield vb) m k]
  | .uapply g a b => [wordXR g 0x45 0 a b 0]
  | .cpy g f x y => [wordXI g 0x48 x y f.code]
  | .cpy2 g f x y => [wordXI g 0x49 x y f.code]
  | .cpym g bt n x y => [wordXI g 0x4A x y ((0#9) ++ bit1 bt ++ bit1 n)]
  | .gthr g f x y => [wordXI g 0x4B x y f.code]
  | .rcfg g q x => [wordXI g 0x50 x 0 ((0#8) ++ q)]
  | .radv g q x => [wordXI g 0x51 x 0 ((0#8) ++ q)]
  | .mma g n t qb qa k x y => [wordXI g 0x52 x y ((0#1) ++ bit1 n ++ bit1 t ++ qb ++ qa ++ k)]
  | .mmas g ss n qb qa k x y => [wordXI g 0x53 x y (ss ++ bit1 n ++ qb ++ qa ++ k)]
  | .mmg g v t n x y => [wordXI g 0x54 x y ((0#7) ++ v.code ++ t.code ++ bit1 n)]
  | .accz g k => [wordXI g 0x55 0 0 ((0#9) ++ k)]
  | .accld g n k x y => [wordXI g 0x55 x y ((1#3) ++ (0#4) ++ bit1 n ++ (0#1) ++ k)]
  | .accst g n sc sat r t k x y => [wordXI g 0x56 x y (bit1 n ++ bit1 sc ++ bit1 sat ++ r.code ++ t.code ++ k)]
  | .sscfg g ss x => [wordXI g 0x57 x 0 ((0#9) ++ ss)]
  | .vadd g t vd va vb m => [wordXV g t.op (vfield vd) (vfield va) (vfield vb) m 0]
  | .vsub g t vd va vb m => [wordXV g t.op (vfield vd) (vfield va) (vfield vb) m 1]
  | .vmul g t vd va vb m => [wordXV g t.op (vfield vd) (vfield va) (vfield vb) m 2]
  | .vfma g t vd va vb m => [wordXV g t.op (vfield vd) (vfield va) (vfield vb) m 3]
  | .vmin g t vd va vb m => [wordXV g t.op (vfield vd) (vfield va) (vfield vb) m 4]
  | .vmax g t vd va vb m => [wordXV g t.op (vfield vd) (vfield va) (vfield vb) m 5]
  | .vabs g t vd va m => [wordXV g t.op (vfield vd) (vfield va) 0 m 6]
  | .vneg g t vd va m => [wordXV g t.op (vfield vd) (vfield va) 0 m 7]
  | .vand g vd va vb m => [wordXV g 0x5E (vfield vd) (vfield va) (vfield vb) m 0]
  | .vor g vd va vb m => [wordXV g 0x5E (vfield vd) (vfield va) (vfield vb) m 1]
  | .vxor g vd va vb m => [wordXV g 0x5E (vfield vd) (vfield va) (vfield vb) m 2]
  | .vselW g vd va vb m => [wordXV g 0x5E (vfield vd) (vfield va) (vfield vb) m 3]
  | .vselH g vd va vb m => [wordXV g 0x5E (vfield vd) (vfield va) (vfield vb) m 4]
  | .vselB g vd va vb m => [wordXV g 0x5E (vfield vd) (vfield va) (vfield vb) m 5]
  | .vshlI32 g vd va vb m => [wordXV g 0x5F (vfield vd) (vfield va) (vfield vb) m 0]
  | .vshrI32 g vd va vb m => [wordXV g 0x5F (vfield vd) (vfield va) (vfield vb) m 1]
  | .vsarI32 g vd va vb m => [wordXV g 0x5F (vfield vd) (vfield va) (vfield vb) m 2]
  | .vshlI16 g vd va vb m => [wordXV g 0x5F (vfield vd) (vfield va) (vfield vb) m 3]
  | .vshrI16 g vd va vb m => [wordXV g 0x5F (vfield vd) (vfield va) (vfield vb) m 4]
  | .vsarI16 g vd va vb m => [wordXV g 0x5F (vfield vd) (vfield va) (vfield vb) m 5]
  | .vcmp g t c md va vb => [wordXV g 0x60 (field3 md) (vfield va) (vfield vb) t.code c.code]
  | .vrcp g t vd va m => [wordXV g 0x61 (vfield vd) (vfield va) t.code m 0]
  | .vrsq g t vd va m => [wordXV g 0x61 (vfield vd) (vfield va) t.code m 1]
  | .vexp2 g t vd va m => [wordXV g 0x61 (vfield vd) (vfield va) t.code m 2]
  | .vlog2 g t vd va m => [wordXV g 0x61 (vfield vd) (vfield va) t.code m 3]
  | .viota g t vd m => [wordXV g 0x61 (vfield vd) 0 t.field m 4]
  | .vredAdd g t xd va m => [wordXV g 0x62 xd (vfield va) (redField t) m 0]
  | .vredMin g t xd va m => [wordXV g 0x62 xd (vfield va) (redField t) m 1]
  | .vredMax g t xd va m => [wordXV g 0x62 xd (vfield va) (redField t) m 2]
  | .vdotF32 g xd va vb m => [wordXV g 0x62 xd (vfield va) (vfield vb) m 3]
  | .vdotBf16 g xd va vb m => [wordXV g 0x62 xd (vfield va) (vfield vb) m 4]
  | .vdotF16 g xd va vb m => [wordXV g 0x62 xd (vfield va) (vfield vb) m 5]
  | .vperm g lw vd va vb => [wordXV g 0x63 (vfield vd) (vfield va) (vfield vb) lw.code 0]
  | .vbcast g lw vd xa => [wordXV g 0x63 (vfield vd) xa 0 lw.code 1]
  | .vext g lw xd va xb => [wordXV g 0x63 xd (vfield va) xb lw.code 2]
  | .vins g lw vd xa xb => [wordXV g 0x63 (vfield vd) xa xb lw.code 3]
  | .vcomp g lw vd va mb => [wordXV g 0x63 (vfield vd) (vfield va) (field3 mb) lw.code 4]
  | .vexpd g lw vd va mb => [wordXV g 0x63 (vfield vd) (vfield va) (field3 mb) lw.code 5]
  | .vld g vd a i => [wordXI g 0x64 (vfield vd) a i]
  | .vst g vc a i => [wordXI g 0x65 (vfield vc) a i]
  | .mlog g o md ma mb => [wordXV g 0x66 (field3 md) (field3 ma) (field3 mb) 0 o.code]
  | .mcnt g xd ma => [wordXV g 0x66 xd (field3 ma) 0 0 5]
  | .rdsr g d n => [wordXI g 0x68 d 0 n]
  | .wrsr g a n => [wordXI g 0x69 0 a n]
  | .rgnctlAct g x y => [wordXI g 0x6A x y 0]
  | .rgnctlCfg g x y => [wordXI g 0x6A x y 1]
  | .rgnctlSusp g x y => [wordXI g 0x6A x y 2]
  | .rgnctlRes g x y => [wordXI g 0x6A x y 3]
  | .rgnctlDel g x y => [wordXI g 0x6A x y 4]
  | .tlbinvPg g a b => [wordXR g 0x6B 0 a b 0]
  | .tlbinvAs g b => [wordXR g 0x6B 0 0 b 1]
  | .tlbinvAll g => [wordXR g 0x6B 0 0 0 2]
  | .waycfg g a b => [wordXR g 0x6C 0 a b 0]
  | .symq g d a => [wordXR g 0x6D d a 0 0]
  | .resume g a => [wordXR g 0x6E 0 a 0 0]
  | .resumeAbt g a => [wordXR g 0x6E 0 a 0 1]
  | .resumeRpl g a => [wordXR g 0x6E 0 a 0 2]
  | .resumeDrp g a => [wordXR g 0x6E 0 a 0 3]
  | .limm g d i => [wordXI g 0x70 d 0 0, i]
  | .lui g d i => [wordXI g 0x71 d 0 0, i]
  | .bfx g d a p l => [wordXI g 0x72 d a 0, (0#18) ++ p ++ (0#1) ++ l]
  | .bfi g d a p l => [wordXI g 0x73 d a 0, (0#18) ++ p ++ (0#1) ++ l]
  | .vx g op s r vd va vb m =>
    [wordXV g 0x74 (vfield vd) (vfield va)
        (match op.fields.2.2 with | some e => e | none => vfield vb) m op.fields.2.1,
     (0#21) ++ op.fields.1 ++ bit1 s ++ r.code]
  | .vcvt g dt sc s r vd va m =>
    [wordXV g 0x75 (vfield vd) (vfield va) 0 m 0, (0#16) ++ dt.code ++ sc.code ++ (0#4) ++ bit1 s ++ r.code]
  | .readyEntrySelect .. | .signalArrival .. | .overflowEntryTake .. | .activeMessageDelivery ..
  | .spillWriteOutComplete .. | .refillComplete .. | .frameRelease .. | .runleftExpiry .. | .parkTimeExpiry ..
  | .symbolValueArrival .. | .deferredEffectPerform .. | .lateLoadFail .. | .writeAckArrival ..
  | .updateAcceptanceArrival .. | .gldLanding .. | .barrierConditionMet .. | .combinerTimeout ..
  | .homeSliceRead .. | .homeSliceWrite .. | .homeSliceAtomic .. | .homeSlicePref .. | .backInvalidationAck ..
  | .waycfgRequest .. | .wayConversionComplete .. | .translationWalkComplete .. | .faultWaitPromote ..
  | .pageZeroingComplete .. | .updatePacketAccept .. | .sortBatch .. | .mergeApply .. | .uapplyLineApply ..
  | .copyCommandStart .. | .copyPieceIssue .. | .copyPieceComplete .. | .multicastPieceArrival ..
  | .gatherRequestArrival .. | .gatherElementReturn .. | .tileCommandStart .. | .tilePairStart ..
  | .tilePairRetire .. | .mmgRowComplete .. | .accumulatorTransferDone .. | .faultRecordDelivery ..
  | .resumeAct .. | .tailNotification .. | .queueEntryFetch .. | .activeMessageEntry .. | .triggerArmEntry ..
  | .regionControlEntry .. | .queueFence .. | .triggerArming .. | .triggerSignal .. | .regionControlPerform
  | .periodStart | .entryAging .. | .monitorWindowEnd .. | .weirRateUpdate .. | .tileIntervalEval ..
  | .housekeepingWork .. | .traceRecordWrite .. | .traceRpRead | .queueSet .. | .queueState .. | .traceBuf ..
  | .brieloSet .. | .powerState .. | .lifecycle .. | .fwUpdate .. | .eventLog | .mailboxUnsupported ..
  | .routeChangeDrain .. | .brieloPortFailure .. | .moduleReset .. | .retentionExit | .uncorrectableEcc ..
  | .scratchZeroingComplete .. | .serviceCoreRestartComplete | .spdmRequest .. | .modulePowerLoss
  | .linkLevelConfirmation .. => []

/-- The instruction that the decoder reads from an instruction whose bits are `w`, numbered as the opcode table numbers
them: `w`'s bytes stand in rising order, and the bytes above `nbits` are zero, up to the longest instruction of two
words. -/
def decodeTableWord (nbits w : Nat) : Option Instr :=
  let v := w % 2 ^ nbits
  match decode (bytesOfWord (BitVec.ofNat 32 v) ++ bytesOfWord (BitVec.ofNat 32 (v / 2 ^ 32))) with
  | .ok i => some i
  | .error _ => none

end Sys2Proof
end

