-- ==== Sys2Proof/Config.lean ====
section
/-! DEFINITION. The free values: what the spec leaves open, which no proof can see. Each is named in a log entry. -/

namespace Sys2Proof

/-- A byte the spec leaves open, by the number of the draw: a byte of a poisoned word, of a line that a last-use read
dropped, or of a peer module's memory (DESIGN CHOICE, log entry 3). -/
opaque Config.freeByte : Nat → BitVec 8

/-- A choice the spec leaves open among several outcomes, by the number of the draw (DESIGN CHOICE, log entry 4). -/
opaque Config.freeNat : Nat → Nat

/-- An element of a poisoned accumulator (R165, R181): unspecified, by the number of the draw (DESIGN CHOICE, log entry 3). -/
opaque Config.freeElem : Nat → BitVec 32

/-- The public key of the identity that boot derives from the module's PUF (R322; DESIGN CHOICE, log entry 77). -/
opaque Config.identity : Nat

end Sys2Proof
end

