-- ==== Sys2Proof/Machine/Bits.lean ====
section
/-! DEFINITION. Bits, byte strings and finite maps: the helpers every layer above uses. -/

namespace Sys2Proof.Machine

open Sys2Proof

/-! ## Bits of words -/

/-- Bits `[hi:lo]` of a word as a number. -/
def field (w : Word) (hi lo : Nat) : Nat := (w.toNat >>> lo) % 2 ^ (hi + 1 - lo)

/-- A number placed at bit `lo` of a word. -/
def place (v lo : Nat) : Word := BitVec.ofNat 64 (v <<< lo)

/-- One bit of a word. -/
def bitAt (w : Word) (i : Nat) : Bool := w.getLsbD i

/-- A truth value as a bit. -/
def bitOf (b : Bool) : Nat := if b then 1 else 0

/-- Sign-extension of the low `n` bits of a number to 64 bits. -/
def signExtend (n v : Nat) : Word :=
  let w := v % 2 ^ n
  if n != 0 && w ≥ 2 ^ (n - 1) then BitVec.ofInt 64 ((w : Int) - 2 ^ n) else BitVec.ofNat 64 w

/-- Bit `i` of a word replaced. -/
def setBit (w : Word) (i : Nat) (b : Bool) : Word :=
  if b then w ||| BitVec.ofNat 64 (2 ^ i) else w &&& ~~~ (BitVec.ofNat 64 (2 ^ i))

/-! ## Byte strings, little-endian (R3) -/

/-- The `n` low bytes of a number, lowest first. -/
def bytesOf : Nat → Nat → List Byte
  | 0, _ => []
  | n + 1, v => BitVec.ofNat 8 v :: bytesOf n (v / 256)

/-- The number a byte string holds, lowest byte first. -/
def natOf : List Byte → Nat
  | [] => 0
  | b :: bs => b.toNat + 256 * natOf bs

/-- The word a byte string holds. -/
def wordOf (bs : List Byte) : Word := BitVec.ofNat 64 (natOf bs)

/-- The bytes of a list of words. -/
def bytesOfWords (ws : List Word) : List Byte := ws.flatMap fun w => bytesOf 8 w.toNat

/-- A byte string cut into `n` words. -/
def wordsOfBytes : Nat → List Byte → List Word
  | 0, _ => []
  | n + 1, bs => wordOf (bs.take 8) :: wordsOfBytes n (bs.drop 8)

/-- The words of a list, padded or cut to `n`. -/
def padWords (n : Nat) (ws : List Word) : List Word := (ws ++ List.replicate n 0).take n

/-- Word `i` of a list, zero beyond its end. -/
def wordAt (ws : List Word) (i : Nat) : Word := ws.getD i 0

/-! ## Finite maps: strictly rising keys -/

/-- The value at a key. -/
def SMap.find {α : Type} : SMap α → Nat → Option α
  | [], _ => none
  | (k, v) :: m, i => if k = i then some v else if i < k then none else SMap.find m i

/-- The map with a key's value replaced. -/
def SMap.set {α : Type} : SMap α → Nat → α → SMap α
  | [], i, x => [(i, x)]
  | (k, v) :: m, i, x =>
    if i < k then (i, x) :: (k, v) :: m else if i = k then (i, x) :: m else (k, v) :: SMap.set m i x

/-- The map without a key. -/
def SMap.del {α : Type} : SMap α → Nat → SMap α
  | [], _ => []
  | (k, v) :: m, i => if i = k then m else if i < k then (k, v) :: m else (k, v) :: SMap.del m i

/-- The value at a key, or a default. -/
def SMap.get {α : Type} (m : SMap α) (i : Nat) (d : α) : α := (SMap.find m i).getD d

/-- Is the key listed? -/
def SMap.has {α : Type} (m : SMap α) (i : Nat) : Bool := (SMap.find m i).isSome

/-- The lowest number from `i` on, with `fuel` tries, that is not a key. -/
def SMap.firstFree {α : Type} (m : SMap α) : Nat → Nat → Option Nat
  | _, 0 => none
  | i, fuel + 1 => if SMap.has m i then SMap.firstFree m (i + 1) fuel else some i

/-- A set of numbers with one more, in rising order. -/
def insertNat : List Nat → Nat → List Nat
  | [], i => [i]
  | k :: l, i => if i < k then i :: k :: l else if i = k then k :: l else k :: insertNat l i

/-- A set of numbers without one. -/
def eraseNat (l : List Nat) (i : Nat) : List Nat := l.filter (· != i)

/-- An element of a list replaced. -/
def setAt {α : Type} (l : List α) (i : Nat) (x : α) : List α := l.set i x

/-- The list without the element at a place. -/
def dropAt {α : Type} (l : List α) (i : Nat) : List α := l.eraseIdx i

/-- An element put into a sorted list before the first that does not come before it. -/
def insertBy {α : Type} (le : α → α → Bool) (x : α) : List α → List α
  | [] => [x]
  | y :: l => if le x y then x :: y :: l else y :: insertBy le x l

/-- A list in stable order. -/
def sortBy {α : Type} (le : α → α → Bool) (l : List α) : List α := l.foldr (insertBy le) []

/-! ## Bytes by address: strictly rising addresses, no byte equal to zero -/

/-- A byte of memory; an unlisted address reads as zero (DESIGN CHOICE, log entry 1). -/
def Cells.get : List Host.Cell → Nat → Byte
  | [], _ => 0
  | (k, v) :: m, a => if k = a then v else if a < k then 0 else Cells.get m a

/-- A byte of memory replaced; writing zero removes the entry. -/
def Cells.set : List Host.Cell → Nat → Byte → List Host.Cell
  | [], a, b => if b = 0 then [] else [(a, b)]
  | (k, v) :: m, a, b =>
    if a < k then (if b = 0 then (k, v) :: m else (a, b) :: (k, v) :: m)
    else if a = k then (if b = 0 then m else (a, b) :: m)
    else (k, v) :: Cells.set m a b

/-- `n` bytes from an address up. -/
def Cells.read (m : List Host.Cell) (a : Nat) : Nat → List Byte
  | 0 => []
  | n + 1 => Cells.get m a :: Cells.read m (a + 1) n

/-- Bytes written from an address up. -/
def Cells.write (m : List Host.Cell) (a : Nat) : List Byte → List Host.Cell
  | [] => m
  | b :: bs => Cells.write (Cells.set m a b) (a + 1) bs

/-- Bytes written from an address up where the list holds one. -/
def Cells.writeSome (m : List Host.Cell) (a : Nat) : List (Option Byte) → List Host.Cell
  | [] => m
  | none :: bs => Cells.writeSome m (a + 1) bs
  | some b :: bs => Cells.writeSome (Cells.set m a b) (a + 1) bs

/-- Every listed address at or above `lo` and below `hi` reads as zero afterwards. -/
def Cells.clear (m : List Host.Cell) (lo hi : Nat) : List Host.Cell :=
  m.filter fun c => c.1 < lo || hi ≤ c.1

/-- The canonical form: addresses strictly rising from `lo`, and no byte zero. -/
def Cells.wfFrom : Nat → List Host.Cell → Bool
  | _, [] => true
  | lo, (k, v) :: m => decide (lo ≤ k) && (v != 0) && Cells.wfFrom (k + 1) m

/-- The canonical form of a memory. -/
def Memory.wf (m : List Host.Cell) : Bool := Cells.wfFrom 0 m

/-! ## Poisoned 8-byte words -/

/-- Does any 8-byte word of `n` bytes from an address stand in the set? -/
def touches (ps : List Nat) (a n : Nat) : Bool := ps.any fun p => decide (n ≠ 0 ∧ p * 8 < a + n ∧ a < p * 8 + 8)

/-- The poisoned words after `n` bytes from `a` were written with good data: a wholly written word is cleared (R310). -/
def heal (ps : List Nat) (a n : Nat) : List Nat := ps.filter fun p => !(decide (a ≤ p * 8 ∧ p * 8 + 8 ≤ a + n))

/-- The indexes of the 8-byte words that `n` bytes from an address touch. -/
def wordsOf (a n : Nat) : List Nat :=
  if n = 0 then [] else List.range' (a / 8) ((a + n - 1) / 8 + 1 - a / 8)

/-- Those words joined to the set. -/
def harm (ps : List Nat) (a n : Nat) : List Nat := (wordsOf a n).foldl insertNat ps

/-- The offsets, among `n` bytes from an address, that stand in poisoned words. -/
def badOffsets (ps : List Nat) (a n : Nat) : List Nat := (List.range n).filter fun i => ps.contains ((a + i) / 8)

/-- The words in which poisoned bytes of data written at an address come to stand, joined to the set (R310). -/
def carry (ps : List Nat) (a : Nat) (bad : List Nat) : List Nat := bad.foldl (fun l i => insertNat l ((a + i) / 8)) ps

end Sys2Proof.Machine
end

