-- ==== Sys2Proof/Machine/State.lean ====
section
/-! DEFINITION. The state of one Akzolin A960 module as plain data: 2,048 cores with their frames, queues, engines and
symbols, the network, the home slices, the Eddy and gather units, the front ends, the service core, and the module's own
registers. Finite maps are sorted lists with a default (`SMap`), so that equal states are equal data. -/

namespace Sys2Proof.Machine

open Sys2Proof

/-! ## Outcomes -/

/-- Why a step stops. A fault of the spec is never one of these: it is a next state with the threadlet Held and a
record sent (R303). -/
inductive Fault where
  /-- Raised by the meaning of an instruction on a core with no Running threadlet: the spec gives an instruction an
  effect only when a threadlet issues it (R53). Safe: nothing of the machine is claimed there. -/
  | noThreadlet (core : Nat)
  deriving DecidableEq, Repr

/-- Why an instruction has no meaning. -/
inductive Refusal where
  /-- Raised by the dispatcher for a row of the opcode table whose meaning is not written. Safe. -/
  | notModelled (mnemonic : String)
  deriving DecidableEq, Repr

/-! ## Values held in registers -/

/-- The five rounding modes (Table 5-5). -/
inductive RMode where
  | rne | rtz | rup | rdn | rna
  deriving DecidableEq, Repr

/-- The operations a replay chain records (Table 3-2). -/
inductive ChainOp where
  | add | sub | mul | fma
  deriving DecidableEq, Repr

/-- One recorded step (R69): `pos` is the position of the symbolic operand, 0 for the first; `k1` and `k2` are the known
operands in order (`k2` only for FFMA). SAT is part of the operation. `block`, `index` and `iter` say where the instruction
stands that recorded it, which a record of its flags names (R77). -/
structure ChainStep where
  op  : ChainOp
  dbl : Bool
  sat : Bool
  rm  : RMode
  pos : Nat
  k1  : Word
  k2  : Word
  block : Nat
  index : Nat
  iter  : Option Nat
  deriving DecidableEq, Repr

/-- The content of a scalar register (R68): a known value, an integer form a·σ + b, or a floating-point form. -/
inductive RVal where
  | known (v : Word)
  | form (sym : Nat) (a b : Word)
  | chain (sym : Nat) (steps : List ChainStep)
  deriving DecidableEq, Repr

/-- Where an instruction stands, for fault records (Table 13-2), with whom it acts for. -/
structure Origin where
  tid    : Nat
  fid    : Nat
  slot   : Nat
  region : Nat
  priv   : Bool
  /-- virtual address of the block -/
  block  : Nat
  index  : Nat
  /-- iteration of the innermost REP body, none outside one -/
  iter   : Option Nat
  deriving DecidableEq, Repr

/-! ## Threadlets and frames -/

/-- REPST while a REP is in progress (Table 16-2). -/
structure Rep where
  start : Nat
  nw    : Nat
  count : Nat
  iter  : Nat
  deriving DecidableEq, Repr

/-- The Running threadlet of a core (R53, R54). -/
structure Run where
  tid     : Nat
  fid     : Nat
  slot    : Nat
  region  : Nat
  /-- level at the original firing (R62) -/
  level   : Nat
  /-- level it was selected from, whose deficit its run is charged to (R289) -/
  sel     : Nat
  block   : Nat
  /-- LEN of the block's header -/
  len     : Nat
  parkw   : Nat
  vuse    : Bool
  priv    : Bool
  /-- index of the next instruction word -/
  idx     : Nat
  x       : SMap RVal
  p       : BitVec 8
  m       : SMap Word
  v       : SMap VWord
  fpst    : BitVec 8
  rep     : Option Rep
  runleft : Nat
  /-- Running cycles so far (R289) -/
  ran     : Nat
  /-- debug registers that made the threadlet Held and do not match again at this issue: bit i for BPi, bit 4 for the
  watchpoints (R303, R313) -/
  bpSkip  : Nat
  deriving DecidableEq, Repr

/-- What clears the cause of a parked threadlet (Table 2-7). -/
inductive Wait where
  | atOnce
  | syms (l : List Nat)
  /-- symbols of the deferred effects issued before this sequence number (R81) -/
  | deferred (seq : Nat)
  | copyQueue
  | tileQueue
  | stage
  /-- an SLOTR: the frame is Resident with its queue applied, or the refill queue has a free entry (R389) -/
  | refill (fid : Nat)
  /-- a SLOTI to a frame that is not Resident: the same (R389) -/
  | refillSpace (fid : Nat)
  /-- a SLOTI that would fire while intake is stopped: intake is not stopped, and an entry has room (R64) -/
  | intake (region : Nat)
  | time (t : Nat)
  | acks
  /-- symbols or pool entries were short (R74): the symbols and the entries in use when it parked, its own saved forms
  apart -/
  | supply (syms entries : Nat)
  | regionResume
  | faultDomain
  deriving DecidableEq, Repr

/-- A Parked or Held threadlet of a frame (R54). -/
structure Parked where
  tid   : Nat
  slot  : Nat
  level : Nat
  cause : Nat
  wait  : Wait
  priv  : Bool
  /-- the block it stands in, with its LEN (R358) -/
  block : Nat
  len   : Nat
  /-- the hold entry that keeps the state of a block with PARKW = 0 (R303) -/
  hold  : Option Nat
  /-- Ready: its cause has cleared and its resume entry has been pushed -/
  ready : Bool
  bpSkip : Nat
  /-- the core's place in the creation order when it parked: symbols taken later are not those it waits for -/
  since  : Nat
  deriving DecidableEq, Repr

/-- Frame states (Table 2-3). -/
inductive FState where
  | resident | spilled | refilling
  deriving DecidableEq, Repr

/-- A frame of a core (R39-R46). Its bytes stand in core-local memory while it is Resident, in `snap` while its
write-out runs, and in its arena slot after that. -/
structure Frame where
  cls     : Nat
  region  : Nat
  /-- local base of the run it occupies, waits for, or last occupied -/
  base    : Nat
  st      : FState
  /-- physical address of its arena slot (R43) -/
  arena   : Nat
  /-- created Spilled with a zero image: nothing in HBM4 (R42) -/
  zero    : Bool
  /-- the snapshot whose write-out has not completed (R44), with its poisoned word offsets -/
  snap    : Option (List Byte × List Nat)
  /-- stamp of the last use (R42) -/
  used    : Nat
  parked  : Option Parked
  /-- an FFREE waits for split-phase results (R46) -/
  freeing : Bool
  /-- threadlets that freed it as their own frame: released at such a threadlet's FIN (R46) -/
  ownFree : List Nat
  /-- Refilling, with FQUOTA's claim met: a frame of the region was spilled for it, or fewer are resident (R419) -/
  admitted : Bool
  /-- stamp of its latest request for a refill (R419) -/
  asked   : Nat
  /-- Refilling at `base`, in granules that a write-out still occupies (R419) -/
  placed  : Bool
  /-- slot words SLOTI armed and nothing else has changed since (R296) -/
  armed   : List Nat
  /-- handler block ÷ 16, relative to the code base, of the message or record that allocated the frame (R60, R301) -/
  handler : Nat
  deriving DecidableEq, Repr

/-- The saved state of a Held threadlet whose block has no park area (R303): the words of a park area with VUSE. -/
structure HoldEntry where
  fid   : Nat
  words : List Word
  deriving DecidableEq, Repr

/-- A ready-queue entry (R62, R288): `level` is the level at push, `lvl` the level its age has raised it to. -/
structure ReadyEntry where
  fid    : Nat
  slot   : Nat
  region : Nat
  level  : Nat
  lvl    : Nat
  pushed : Nat
  resume : Bool
  deriving DecidableEq, Repr

/-- The circular list of one level (R289): regions with their deficits, and cur. -/
structure Drr where
  list : List (Nat × Int)
  cur  : Option Nat
  deriving DecidableEq, Repr

/-- The data of a signal (R48, R385). -/
inductive SigData where
  | none
  | words (dw : Nat) (ws : List Word)
  deriving DecidableEq, Repr

/-- One arrival at a slot (R44, R48). -/
structure Arrival where
  fid    : Nat
  slot   : Nat
  dec    : Nat
  data   : SigData
  err    : Bool
  /-- region of the sender (R52) -/
  region : Nat
  /-- a SLOTI of a frame that is not Resident, with its new word (R389) -/
  sloti  : Option Word
  /-- the decrement of a multicast piece: its sender, command, position and whether it landed, to acknowledge (R267) -/
  ack    : Option (Nat × Nat × Nat × Bool) := none
  deriving DecidableEq, Repr

/-! ## Symbols and the dependant pool -/

/-- States of a symbol that is not Free (Table 3-1). -/
inductive SymState where
  | pending | awaiting
  | resolving (v : Word)
  | failed (code : Nat) (addr : Nat)
  deriving DecidableEq, Repr

/-- A symbol (R66). -/
structure Sym where
  st     : SymState
  tid    : Nat
  fid    : Nat
  region : Nat
  /-- taken by an atomic with .ACQ (R226) -/
  acq    : Bool
  /-- place in the core's creation order -/
  born   : Nat
  org    : Origin
  deriving DecidableEq, Repr

/-- The operation of a deferred effect (Table 3-2); its operands stand beside it as forms or values. -/
inductive Effect where
  /-- operands: address, value, and the tag address when `t` -/
  | gst (sz : Size) (t : Bool)
  /-- operands: address, value -/
  | upd (k : Nat)
  /-- operand: base -/
  | updv (k : Nat) (va vb : VWord) (m : Word)
  /-- operand: reference -/
  | sig (rel : Bool) (dec : Nat)
  /-- operands: reference, data -/
  | sigd (rel : Bool) (dw : Nat)
  /-- operands: local address, global address, and the completion reference unless it is x0 -/
  | gld (lu : Bool) (evp : Evp) (sz : Size) (byt : Bool)
  deriving DecidableEq, Repr

/-- What a pool entry holds (R71). -/
inductive PoolKind where
  | effect (e : Effect) (ops : List RVal)
  /-- the address form of an Awaiting-address symbol; no symbol for a nested late load whose destination is x0 -/
  | address (sym : Option Nat) (sz : Size) (u : Bool) (addr : RVal)
  /-- the saved form of register xi of a Parked or Held threadlet, or its result -/
  | saved (reg : Nat) (v : RVal)
  deriving DecidableEq, Repr

/-- A dependant-pool entry. -/
structure PoolEntry where
  /-- place in the creation order of the core's entries and operations -/
  seq  : Nat
  org  : Origin
  kind : PoolKind
  deriving DecidableEq, Repr

/-! ## Operations on their way to memory -/

/-- Atomic kinds (Table 15-4). -/
inductive AtomKind where
  | xchg | cas | cas2 | faa | amax | amin | amaxU | aminU
  /-- the OR of replay flags into a flag word (R77) -/
  | orr
  deriving DecidableEq, Repr

/-- A cached translation (R210). `size` is the page size in bytes. -/
structure Tlb where
  asid : Nat
  va   : Nat
  size : Nat
  pa   : Nat
  type : Nat
  w    : Bool
  sup  : Bool
  host : Bool
  deriving DecidableEq, Repr

/-- What a global or network operation of a core does. -/
inductive OpBody where
  | gld (va loc size : Nat) (lu : Bool) (evp : Evp) (y : Word) (byt : Bool)
  | ldl (va size : Nat) (u : Bool) (sym : Option Nat)
  | gst (va size : Nat) (data : Word) (tag : Option Nat)
  | gstv (va : Nat) (data : VWord) (mask : BitVec 16)
  | atom (k : AtomKind) (va size : Nat) (v c : BitVec 128) (sym sym2 : Option Nat)
  | pref (va : Nat) (evp : Evp)
  /-- one pair of an update instruction: `upd` numbers the instruction, `k` is its stream (R242, R243) -/
  | pair (upd va : Nat) (value : Word) (k : Nat)
  /-- `leaf` is the leaf that the walk of its present page found (R397) -/
  | uapply (va left : Nat) (leaf : Option Tlb)
  | waycfg (slice w : Nat)
  /-- the flag-word OR of a retired threadlet (R77) -/
  | flagOr (va : Nat) (bits : BitVec 8)
  | signal (ref : Word) (dec : Nat) (data : SigData) (rel err : Bool)
  | amsg (handler : Nat) (addr : Word) (payload : List Word)
  | arm (ref : Word) (thresh : Nat) (cmd : List Word)
  | resume (form : Nat) (token : Word)
  | rgnctl (op : Nat) (rcb arg ref : Word)
  /-- a piece of a copy command: a read of its global source -/
  | pieceRead (cmd pos len va : Nat) (lu : Bool) (evp : Evp)
  /-- a piece of a copy command: a write of its global destination, with the offsets of its poisoned bytes -/
  | pieceWrite (cmd pos va : Nat) (data : List Byte) (bad : List Nat) (evp : Evp)
  /-- element i of a gather -/
  | element (cmd i size va : Nat) (lu : Bool) (evp : Evp)
  deriving DecidableEq, Repr

/-- An operation of a core, with its place in the issue order and its origin. -/
structure Op where
  id   : Nat
  seq  : Nat
  org  : Origin
  /-- a deferred effect being performed (R85) -/
  deferred : Bool
  /-- injected toward host or peer memory (Table 9-4) -/
  far  : Bool
  /-- physical address it was translated to, once injected; host memory stands above 2^56, other modules above 2^57 -/
  pa   : Nat := 0
  /-- places and lengths of younger overlapping stores of its threadlet that are acknowledged (R220) -/
  shade : List (Nat × Nat) := []
  body : OpBody
  deriving DecidableEq, Repr

/-- What a barrier waits for (R221, R222, R223, R226, R358, R396). -/
inductive BarrierKind where
  | fence (w u e : Bool) (scope : Scope)
  /-- a release: the operation is injected when its condition holds -/
  | release (op : Op)
  /-- an atomic with .ACQ and d = 0: waits for the reply of this operation -/
  | acq (op : Nat)
  | iflush (asid va n : Nat)
  | iflushAll
  | tlbinvPg (asid va : Nat)
  | tlbinvAs (asid : Nat)
  | tlbinvAll
  deriving DecidableEq, Repr

/-- A pending barrier. `cmds` are the engine commands a FENCE.E waits for (Table 9-4). -/
structure Barrier where
  seq  : Nat
  org  : Origin
  kind : BarrierKind
  cmds : List Nat
  deriving DecidableEq, Repr

/-- An operation that a translation fault holds, in a replay-buffer entry with its sequence number or on the fault-wait
list (R211): the faulting address, KIND and LEVEL of Table 8-6, and TIME when the fault was detected (R299). -/
structure Replay where
  op    : Op
  seq   : Nat
  va    : Nat
  kind  : Nat
  level : Nat
  time  : Nat
  deriving DecidableEq, Repr

/-- A line of code that a chiplet's instruction caches hold: the line's number, its physical address, and its images: the
line as it was fetched, then as it was rewritten since under a threadlet in its block (R198, R358). -/
structure ICLine where
  asid   : Nat
  line   : Nat
  pa     : Nat
  images : List (BitVec 1024)
  deriving DecidableEq, Repr

/-! ## Engines -/

/-- A ring descriptor (Table 6-1); absent from the map while unconfigured. -/
structure Ring where
  base  : Nat
  depth : Nat
  bs    : Bool
  desc  : Nat
  head  : Nat
  count : Nat
  res   : Nat
  deriving DecidableEq, Repr

/-- A skip stream (Table 7-2); absent from the map while unconfigured. -/
structure Skip where
  addr : Nat
  hi   : Bool
  fin  : Nat
  deriving DecidableEq, Repr

/-- A fault of an engine command, to be reported with its completion (R306). -/
structure EngFault where
  code   : Nat
  addr   : Nat
  detail : Word
  deriving DecidableEq, Repr

/-- Copy-queue commands (R258). -/
inductive CopyKind where
  | cpy (fn : CopyFn)
  | cpy2 (fn : CopyFn)
  | cpym (byt : Bool)
  | gthr (fn : GthrFn)
  | fenceq
  deriving DecidableEq, Repr

/-- A piece that has been issued and is not complete: `left` counts the acknowledgements it still waits for. -/
structure Piece where
  pos  : Nat
  len  : Nat
  left : Nat
  deriving DecidableEq, Repr

/-- A command of the copy queue. -/
structure CopyCmd where
  id      : Nat
  seq     : Nat
  org     : Origin
  kind    : CopyKind
  grp     : List Word
  y       : Word
  started : Bool
  /-- bytes (elements for a gather) already issued -/
  pos     : Nat
  pieces  : List Piece
  /-- bytes already counted by byte-mode signals -/
  counted : Nat
  /-- receivers of a CPYM, from the mask read at start -/
  recv    : List Nat
  /-- receivers of a CPYM that have raised their fault for it (R267) -/
  reported : List Nat
  /-- slots reserved in its ring, with the first slot and the ring's base and depth at the start -/
  resv    : Option (Nat × Nat × Nat × Nat)
  fault   : Option EngFault
  /-- a failed piece or poisoned data: ERR without a record of its own -/
  err     : Bool
  /-- the fault's record has been sent -/
  told    : Bool
  /-- held at a page for replay (R211) -/
  held    : Bool
  /-- a ring copy's slots have been published (R157) -/
  published : Bool
  deriving DecidableEq, Repr

/-- Tile-queue commands (R169). -/
inductive TileKind where
  | rcfg (q : Nat)
  | mma (t : Bool) (qb qa acc : Nat)
  | mmas (ss qb qa acc : Nat)
  | mmg (val : MmgVal) (act : MmgAct)
  | accz (acc : Nat)
  | accld (acc : Nat)
  | accst (sc sat : Bool) (rm : RMode) (tag : Tag) (acc : Nat)
  | sscfg (ss : Nat)
  | fenceq
  deriving DecidableEq, Repr

/-- A tile pair between its start and its retirement (R159, R160): the descriptors the engine read. -/
structure Pair where
  da     : Word
  db     : Word
  /-- positions of the stored elements of an MMAS tile, none for MMA -/
  expA   : Option (List Nat)
  /-- its descriptors or its skip list are in error (R165, R181) -/
  poison : Bool
  /-- computed densely (R179) -/
  dense  : Bool
  /-- the cycle from which it may retire (R159, R178) -/
  due    : Nat
  /-- the stream position after the pair's nibbles -/
  skip   : Option Skip
  deriving DecidableEq, Repr

/-- A command of the tile queue. -/
structure TileCmd where
  id      : Nat
  seq     : Nat
  org     : Origin
  kind    : TileKind
  grp     : List Word
  y       : Word
  /-- signals its completion -/
  started : Bool
  /-- pairs or rows still to do -/
  left    : Nat
  pair    : Option Pair
  /-- rows done and the address of the next record, for MMG -/
  row     : Nat
  recAt   : Nat
  err     : Bool
  fault   : Option EngFault
  /-- a skip-list byte was in error: the remaining pairs are applied with unspecified values (R181) -/
  bad     : Bool
  /-- its effect is whole; it completes when the commands before it have (R169) -/
  done    : Bool
  deriving DecidableEq, Repr

/-- A unit of local memory that an engine has read ahead of the step that uses it (R160, R182, R192, R216): its command,
its address, its bytes with the offsets of those in error, and the use it is read for: 1 and 2 for the low and the high
nibble of a byte of a skip list, the address of a record's word for the activation that it names, 0 for anything else. -/
structure Seen where
  cmd   : Nat
  use   : Nat
  addr  : Nat
  bytes : List Byte
  bad   : List Nat
  deriving DecidableEq, Repr

/-- A unit that an engine has written ahead of the rest of its piece or image (R216): the core of the command, the command,
the piece's position, where the piece begins, the unit's address, and the slot reference of a multicast piece. -/
structure Laid where
  core : Nat
  cmd  : Nat
  pos  : Nat
  base : Nat
  addr : Nat
  ref  : Word
  deriving DecidableEq, Repr

/-- A breakpoint or watchpoint register with its writer (R312, R313). -/
structure DebugReg where
  val    : Word
  priv   : Bool
  region : Nat
  deriving DecidableEq, Repr

/-- A pair in a combiner buffer (Table 10-4): `upd` numbers its instruction on the core. -/
structure UPair where
  upd    : Nat
  region : Nat
  bid    : Nat
  pa     : Nat
  value  : Word
  deriving DecidableEq, Repr

/-- An update instruction whose pairs are not all accepted or discarded (R217). -/
structure UpdInst where
  seq  : Nat
  tid  : Nat
  left : Nat
  deriving DecidableEq, Repr

/-! ## The network -/

/-- Sources and destinations of packets (R30, Table 1-1). -/
inductive Agent where
  | core (n : Nat)
  | slice (n : Nat)
  | eddy (n : Nat)
  | gather (n : Nat)
  | frontEnd (n : Nat)
  /-- a Brielo port -/
  | port (n : Nat)
  | service
  | tracer
  | host
  | peer (module : Nat)
  deriving DecidableEq, Repr

/-- Traffic classes (Table 1-2). -/
inductive PClass where
  | req | rsp | sig | upd
  deriving DecidableEq, Repr

/-- How the page of a request is mapped (Table 8-5). -/
inductive Space where
  | wb | replicated | scratch
  deriving DecidableEq, Repr

/-- The content of a packet. `op` is the number of the operation at its source that a reply names; `bad` of data lists the
offsets of its poisoned bytes (R309, R310). -/
inductive PBody where
  | read (op pa size : Nat) (lu : Bool) (evp : Evp) (sp : Space)
  | write (op pa : Nat) (data : List (Option Byte)) (bad : List Nat) (evp : Evp) (sp : Space)
  | atomic (op : Nat) (k : AtomKind) (pa size : Nat) (v c : BitVec 128) (sp : Space)
  | pref (pa : Nat) (evp : Evp) (sp : Space)
  | waycfg (op w : Nat)
  /-- a logical write on its way to another replica (R231): the source, operation and tag of the acknowledgement, and
  an atomic's old value -/
  | replica (origin : Agent) (op pa : Nat) (data : List (Option Byte)) (bad : List Nat) (tag : BitVec 32)
      (old : Option (BitVec 128))
  | readRsp (op : Nat) (data : List Byte) (bad : List Nat) (fail : Nat)
  | ack (op : Nat) (tag : Option (BitVec 32)) (fail : Nat)
  | atomRsp (op : Nat) (old : BitVec 128) (bad : Bool) (tag : BitVec 32)
  | signal (ref : Word) (dec : Nat) (data : SigData) (rel err : Bool)
  /-- `queue` is the host queue whose entry launched it -/
  | amsg (handler : Nat) (addr : Word) (payload : List Word) (queue : Option Nat)
  | record (domain : Nat) (handler : Nat) (words : List Word)
  /-- `queue` is the host queue whose entry sent it -/
  | arm (ref : Word) (thresh : Nat) (cmd : List Word) (org : Origin) (queue : Option Nat)
  | resume (form : Nat) (token : Word) (org : Origin)
  | rgnctl (op : Nat) (rcb arg ref : Word) (org : Origin)
  | trace (w0 w1 : Word)
  | updates (pairs : List UPair)
  | accepted (upds : List Nat)
  | mcast (cmd pos off : Nat) (tag : Nat) (data : List Byte) (bad : List Nat)
  | mcastAck (cmd pos : Nat) (ok : Bool)
  /-- the decrement that a landed multicast piece makes of its receiver's slot, and whom it then acknowledges (R267) -/
  | count (ref : Word) (bytes : Nat) (err : Bool) (sender cmd pos : Nat)
  | gather (cmd i pa size : Nat) (lu : Bool) (evp : Evp) (core : Nat) (sp : Space)
  | element (cmd i : Nat) (data : List Byte) (bad : List Nat) (fail : Nat)
  deriving DecidableEq, Repr

/-- A packet: of packets with one class, source and destination, the earlier in the list is delivered first (R30).
`region` is the region on whose behalf it travels. -/
structure Packet where
  cls    : PClass
  src    : Agent
  dst    : Agent
  region : Nat
  body   : PBody
  deriving DecidableEq, Repr

/-! ## Cores and chiplets -/

/-- Budget counters of a region on a core (Table 12-6). -/
structure Budget where
  cyc  : Int
  tile : Int
  copy : Int
  deriving DecidableEq, Repr

/-- A core. -/
structure Core where
  run     : Option Run
  lmem    : List Host.Cell
  lpoison : List Nat
  frames  : SMap Frame
  fptr    : Nat
  refq    : List Arrival
  ready   : List ReadyEntry
  drr     : SMap Drr
  hold    : SMap HoldEntry
  syms    : SMap Sym
  pool    : SMap PoolEntry
  stage   : List Op
  barriers : List Barrier
  src     : List Op
  replay  : SMap Replay
  rseq    : SMap Nat
  fwait   : List Replay
  outst   : List Op
  taglast : SMap (BitVec 32)
  upds    : SMap UpdInst
  comb    : SMap (List UPair)
  /-- the cycle in which a buffer of the combiner last took a pair (R244) -/
  combAt  : SMap Nat
  tlb     : List Tlb
  copyq   : List CopyCmd
  tileq   : List TileCmd
  rings   : SMap Ring
  skips   : SMap Skip
  accs    : SMap (List (BitVec 32))
  accBad  : List Nat
  owner   : Nat
  /-- what the engines have read or written ahead (R160, R216) -/
  seen    : List Seen
  laid    : List Laid
  land    : SMap Word
  bp      : SMap DebugReg
  wp      : SMap DebugReg
  budgets : SMap Budget
  tenant  : Nat
  zeroing : Bool
  /-- the arrival that found the ready queue and its segment full: intake is stopped (R64) -/
  blocked : Option Arrival
  /-- the message or record that found no room on the core: intake is stopped (R64) -/
  blockedMsg : Option Packet
  /-- frames of a region released while messages or records wait for one in its segment (R61, R301) -/
  freed   : SMap Nat
  /-- messages and records waiting in segments for a frame, in their order: the region, and the host queue that sent one
  (R61, R279) -/
  waitq   : List (Nat × Option Nat)
  reported : Bool
  nextTid : Nat
  nextSeq : Nat
  nextUpd : Nat
  stamp   : Nat
  /-- cached affinity entries, newest first: region and index as 4,096·region + index, and the entry (R281) -/
  aff     : List (Nat × Nat)
  deriving DecidableEq, Repr

/-- A compute chiplet's shared tables (R210, R358). -/
structure Chip where
  tlb    : List Tlb
  icache : List ICLine
  deriving DecidableEq, Repr

/-! ## Home slices, Eddy units and gather units -/

/-- A line a home slice holds (R199): its way, whether it is dirty, its last hint and its last use. -/
structure CLine where
  line  : Nat
  way   : Nat
  dirty : Bool
  evp   : Evp
  used  : Nat
  deriving DecidableEq, Repr

/-- A conversion a slice has in hand (R202, R416): the scratch ways after it and the request to acknowledge. -/
structure Convert where
  w   : Nat
  src : Agent
  op  : Nat
  region : Nat
  deriving DecidableEq, Repr

/-- A home slice. -/
structure Slice where
  seq   : BitVec 32
  w     : Nat
  conv  : Option Convert
  lines : List CLine
  stamp : Nat
  deriving DecidableEq, Repr

/-- The state of an XA320 (R146). -/
inductive XState where
  | fin | pinf | ninf | nan
  deriving DecidableEq, Repr

/-- An XA320: its value in units of 2^-160, and its state. -/
structure XA where
  val : Int
  st  : XState
  deriving DecidableEq, Repr

/-- An accumulator of a bin (Table 10-2). -/
inductive EAcc where
  | word (v : Word)
  | xa (v : XA)
  deriving DecidableEq, Repr

/-- A bin, or a record of a run (Table 10-5): accumulators by element. -/
structure Bin where
  bid   : Nat
  line  : Nat
  accs  : SMap EAcc
  pairs : Nat
  used  : Nat
  /-- struck by an uncorrectable error: its elements are applied with poisoned ECC (R257) -/
  bad   : Bool
  deriving DecidableEq, Repr

/-- A run in the directory (R248): its records that are still live. -/
structure ERun where
  bid  : Nat
  num  : Nat
  addr : Nat
  recs : List Bin
  deriving DecidableEq, Repr

/-- The unit's place in a binding's log part: bytes used and the next run number (R248, R249). -/
structure ELog where
  used : Nat
  num  : Nat
  deriving DecidableEq, Repr

/-- An Eddy unit. `waiting` holds the accepted packets not yet sorted, oldest first. -/
structure Eddy where
  waiting : List (List UPair)
  bins    : List Bin
  runs    : List ERun
  logs    : SMap ELog
  stamp   : Nat
  /-- bindings whose merge-apply has started and not finished (R249) -/
  merging : List Nat
  deriving DecidableEq, Repr

/-- An active binding (Table 10-1). `holders` are the regions whose own RCB names it. -/
structure Binding where
  desc    : Nat
  base    : Nat
  length  : Nat
  logBase : Nat
  logMb   : Nat
  binLim  : Nat
  binW    : Nat
  oper    : Nat
  stream  : Nat
  deriving DecidableEq, Repr

/-! ## Regions -/

/-- An active region with its effective values (Table 2-1, R36). `parent` is 0 for the device region. -/
structure Region where
  rcb       : Nat
  parent    : Nat
  fstore    : Nat
  rmode     : RMode
  debug     : Nat
  prio      : Nat
  rqw       : Nat
  fquota    : Nat
  spillcap  : Nat
  spillbase : Nat
  cycbud    : Nat
  tilebud   : Nat
  copybud   : Nat
  faultrcb  : Nat
  faulth    : Word
  asid      : Nat
  codebase  : Nat
  coreset   : BitVec 2048
  afftab    : Nat
  affg      : Nat
  affm      : Nat
  rqovf     : Nat
  ovs       : Nat
  /-- the core set of the region that supplies RQOVF, by which its segments are numbered (R64) -/
  rqset     : BitVec 2048
  flagw     : Nat
  /-- effective binding indexes, by position; none = no binding -/
  ubind     : List (Option Nat)
  susp      : Bool
  win       : Nat
  winStart  : Nat
  /-- the window overlaps a suspension -/
  winSusp   : Bool
  /-- progress counted in the window (R296) -/
  progress  : Nat
  /-- CYCBUD, TILEBUD and COPYBUD from the next period on (R292) -/
  nextBud   : Option (Nat × Nat × Nat)
  deriving DecidableEq, Repr

/-! ## Front ends and the service core -/

/-- A trigger (Table 12-5). -/
structure Trigger where
  armed  : Bool
  region : Nat
  count  : Nat
  thresh : Nat
  cmd    : List Word
  deriving DecidableEq, Repr

/-- Where an entry that a front end performs came from. -/
inductive EntrySrc where
  | queue (q idx : Nat)
  | trigger (t : Nat)
  deriving DecidableEq, Repr

/-- An entry between its fetch and its delivery (R276, R281). -/
structure FeEntry where
  src    : EntrySrc
  region : Nat
  words  : List Word
  /-- a queue fence has injected its write and waits for the acknowledgement -/
  wrote  : Bool
  deriving DecidableEq, Repr

/-- A front end. -/
structure FrontEnd where
  trig : SMap Trigger
  pend : List FeEntry
  /-- the queue served last (R275) -/
  last : Nat
  aff  : List (Nat × Nat)
  deriving DecidableEq, Repr

/-- A host queue: the front end's copy of its table entry (Table 12-1) with HEAD and the tail last read. `busy` stops the
fetch while a region control or a fence is in hand (R278, R279). -/
structure Queue where
  entry  : List Word
  state  : Nat
  head   : Nat
  tail   : Nat
  unwritten : Nat
  errw   : Word
  busy   : Bool
  /-- its tail line has changed by a host's store, or has not been read yet: the tail is to be read (R274) -/
  noticed : Bool
  deriving DecidableEq, Repr

/-- A region-control operation at the service core (R378). `phase` is 0 before its checks and 1 while it waits to
complete; `drain` names the regions whose engine commands a CFG waits for (R142). -/
structure RgnOp where
  op     : Nat
  rcb    : Word
  arg    : Word
  ref    : Word
  /-- region with whose authority it acts -/
  issuer : Nat
  queue  : Option (Nat × Nat)
  phase  : Nat
  drain  : List Nat
  deriving DecidableEq, Repr

/-- Events of the log that EVENT_LOG reads (Table 14-1). -/
inductive LogEvent where
  | brokenQueue (q : Nat)
  | undeliverable (words : List Word)
  | restart
  | linkFailure (port : Nat)
  | bootReport (rcb : Nat) (skipped : List Nat)
  deriving DecidableEq, Repr

/-- The result of a mailbox command (R317). -/
inductive MailResult where
  | ok | refused | unsupported
  deriving DecidableEq, Repr

/-- The answer to a mailbox command: its code, its result, and what EVENT_LOG reads. -/
structure MailAnswer where
  code   : Nat
  result : MailResult
  events : List LogEvent
  deriving DecidableEq, Repr

/-- The signed configuration record (R321): HKBUD, the BASIN-mode groups of HBM4 and of the reservoir, the queue-table
addresses and FSTORE beside what identifies the module. -/
structure ConfigRecord where
  part   : String
  serial : Nat
  certificate : List Byte
  training : List Byte
  basinGroups : List Nat
  basinGroupsRes : List Nat
  hkbud  : Nat
  queueTables : List Nat
  fstore : Nat
  deriving DecidableEq, Repr

/-- What boot has measured (R320, R322): the ROM of step 1, the image of step 2 with its slot and version, the record of
step 3, which is the one in force until the next boot (R197, R272, R293), and the lifecycle state. -/
structure Measured where
  rom    : Bool
  image  : Option (Bool × Nat)
  record : Option ConfigRecord
  life   : Lifecycle
  deriving DecidableEq, Repr

/-- The answer to an SPDM request (R322): the identity's public key, its certificate, and the measurements. -/
structure SpdmAnswer where
  req    : SpdmReq
  key    : Option Nat
  certificate : List Byte
  measured : Measured
  deriving DecidableEq, Repr

/-- The service core (R282). -/
structure Service where
  ops     : List RgnOp
  down    : Bool
  log     : List LogEvent
  /-- fault records of the device region and undeliverable records received (R282, R302) -/
  records : List (List Word)
  /-- mailbox answers, newest last -/
  mailbox : List MailAnswer
  /-- mailbox commands that wait while the service core restarts, oldest first (R282, R317) -/
  waiting : List Instr
  /-- SPDM requests answered (R322) -/
  spdm    : List SpdmAnswer
  /-- the identity's public key, derived at boot, and what boot has measured (R320, R322) -/
  key     : Option Nat
  measured : Measured
  deriving DecidableEq, Repr

/-- The trace writer (R315). -/
structure Tracer where
  base : Nat
  size : Nat
  ctl  : Nat
  wp   : Nat
  rp   : Nat
  drop : Nat
  deriving DecidableEq, Repr

/-- Routing toward other modules (R319): the number, the valid ports by module, failed ports, packets sent and not
confirmed by (port, module) as 256·port + module, the ports' rate, and the modules whose packets wait for an old port. -/
structure Brielo where
  number : Nat
  routes : SMap Nat
  failed : List Nat
  half   : Bool
  unconfirmed : SMap Nat
  drain  : SMap Nat
  waiting : List Packet
  deriving DecidableEq, Repr

/-- Power states (R323, R320). -/
inductive PowerMode where
  | booting | active | retention | waking | off | halted
  deriving DecidableEq, Repr

/-- What module flash and the board controller's store hold (R320-R323), and the firmware's layout of HBM4. -/
structure Flash where
  lifecycle : Lifecycle
  /-- the transition that takes effect at the next boot -/
  pendingLife : Option Lifecycle
  /-- boot-attempt record: STEP and COUNT -/
  attempt : Option (Nat × Nat)
  /-- the firmware slot in use: false = A, true = B -/
  slotB : Bool
  /-- versions of the images in slots A and B, none = no valid image -/
  imageA : Option Nat
  imageB : Option Nat
  /-- image B has run: image A is not tried until FW_UPDATE (R320) -/
  triedB : Bool
  rollback : Nat
  /-- the signed configuration record, none once it is erased -/
  record : Option ConfigRecord
  /-- addresses firmware fixes: the device region's RCB, core set, arena, affinity table, overflow area, code and address
  space -/
  deviceRcb : Nat
  deviceCoreset : Nat
  deviceArena : Nat
  deviceAff : Nat
  deviceOverflow : Nat
  deviceCode : Nat
  deviceAsid : Nat
  deriving DecidableEq, Repr

/-- A page being zeroed (R205): the physical address of its entry, the page, its size and type, and the walks that it keeps
from completing, by address space and virtual address of the page (R396). -/
structure Zeroing where
  entry : Nat
  leaf  : Word
  pa    : Nat
  size  : Nat
  type  : Nat
  walks : List (Nat × Nat)
  deriving DecidableEq, Repr

/-- A request in a gather unit's window (R270). -/
structure GatherReq where
  cmd  : Nat
  i    : Nat
  core : Nat
  deriving DecidableEq, Repr

/-! ## The agenda: which of the module's agents acts next -/

/-- One turn of the module. The interleaving of the agents is the environment's; the agenda holds it as data.
DESIGN CHOICE, log entry 5. DESIGN CHOICE, log entry 33. -/
inductive Turn where
  /-- the Running threadlet of a core issues its next instruction -/
  | issue (core : Nat)
  /-- an event of the opcode table happens -/
  | event (e : Instr)
  /-- a packet arrives from the host or a peer module -/
  | arrive (p : Packet)
  /-- the host stores bytes in host memory -/
  | hostStore (addr : Nat) (bytes : List Byte)
  /-- an engine reads a unit of local memory for a command, ahead of the step that uses it (R160, R216) -/
  | engineRead (core cmd addr use : Nat)
  /-- a unit of a piece that has reached its core lands, ahead of the rest (R216) -/
  | landWord (pkt addr : Nat)
  /-- a tile engine writes a unit of an ACCST's image, ahead of the rest (R216) -/
  | storeWord (core addr : Nat)
  /-- a core, or a memory chiplet above 2,048, corrects an error and counts it (R309) -/
  | corrected (counter : Nat)
  /-- the manufacturer writes the configuration record (R321) -/
  | recordWrite (r : ConfigRecord)
  deriving DecidableEq, Repr

/-- The module. -/
structure State where
  cores    : SMap Core
  /-- the core whose threadlet an instruction's meaning acts for -/
  cur      : Nat
  mem      : List Host.Cell
  /-- poisoned 8-byte words of global memory (R309), and bytes of elements that an apply wrote with poisoned ECC (R257) -/
  poison   : List Nat
  struck   : List Nat
  /-- bytes of lines that a last-use read dropped (R200) -/
  lost     : List Nat
  /-- values that bytes of global memory have held, beside the present one, since their pages were last zeroed (R200) -/
  past     : SMap (List Byte)
  hostMem  : List Host.Cell
  /-- poisoned 8-byte words of host memory, which a write of poisoned data leaves there (R309, R310) -/
  hostPoison : List Nat
  /-- lines the host may hold in its caches (R234) -/
  hostLines : List Nat
  slices   : SMap Slice
  eddies   : SMap Eddy
  /-- bin allotment e of every slice (R240) -/
  allot    : Nat
  /-- active bindings by binding index (R239) -/
  bindings : SMap Binding
  regions  : SMap Region
  net      : List Packet
  chips    : SMap Chip
  zeroing  : List Zeroing
  gathers  : SMap (List GatherReq)
  fes      : SMap FrontEnd
  queues   : SMap Queue
  service  : Service
  tracer   : Tracer
  brielo   : Brielo
  power    : PowerMode
  flash    : Flash
  reservoir : Bool
  /-- weir rates in eighths of a flit per network cycle, by local port; none is a rate of 4, which limits nothing (R295;
  DESIGN CHOICE, log entry 76) -/
  weir     : SMap Nat
  /-- what the weirs' buckets hold, in eighths of a flit, and the core cycle of that count (R295) -/
  bucket   : SMap (Nat × Nat)
  /-- microseconds, the last two, in which a tile engine started a pair, and a basin's latest tile interval (R294) -/
  pairCores : SMap (List Nat)
  tileIv   : SMap Nat
  /-- housekeeping counters and banked refreshes of the HBM4 controllers (R292-R294) -/
  hkBud    : SMap Int
  banked   : SMap Nat
  /-- corrected errors counted, by core and by memory chiplet above 2,048 (R309) -/
  ecc      : SMap Nat
  /-- core cycles since module reset -/
  cycle    : Nat
  /-- budget periods begun (R291) -/
  period   : Nat
  agenda   : List Turn
  /-- core cycles the coming steps take; 1 where the list has run out -/
  pace     : List Nat
  /-- draws of free values made so far -/
  free     : Nat
  deriving DecidableEq, Repr

/-! ## Reset -/

/-- A core after module reset: no frame, no work, the allocation pointer at 1 (R40). -/
def Core.init : Core :=
  { run := none, lmem := [], lpoison := [], frames := [], fptr := 1, refq := [], ready := [], drr := [], hold := [],
    syms := [], pool := [], stage := [], barriers := [], src := [], replay := [], rseq := [], fwait := [], outst := [],
    taglast := [], upds := [], comb := [], combAt := [], tlb := [], copyq := [], tileq := [], rings := [], skips := [], accs := [],
    accBad := [], owner := 0, seen := [], laid := [], land := [], bp := [], wp := [], budgets := [], tenant := 0,
    zeroing := false, blocked := none, blockedMsg := none, freed := [], waitq := [], reported := false, nextTid := 1, nextSeq := 0, nextUpd := 0, stamp := 0, aff := [] }

/-- A chiplet's tables after module reset. -/
def Chip.init : Chip := { tlb := [], icache := [] }

/-- A home slice after module reset: the sequence counter is zero (R218), every way is cache. -/
def Slice.init : Slice := { seq := 0, w := 0, conv := none, lines := [], stamp := 0 }

/-- An Eddy unit after module reset. -/
def Eddy.init : Eddy := { waiting := [], bins := [], runs := [], logs := [], stamp := 0, merging := [] }

/-- A front end after module reset. -/
def FrontEnd.init : FrontEnd := { trig := [], pend := [], last := 0, aff := [] }

/-- An empty level of a ready queue (R289). -/
def Drr.init : Drr := { list := [], cur := none }

/-- A trigger after module reset. -/
def Trigger.init : Trigger := { armed := false, region := 0, count := 0, thresh := 0, cmd := [] }

/-- A disabled queue. -/
def Queue.init : Queue :=
  { entry := List.replicate 8 0, state := 0, head := 0, tail := 0, unwritten := 0, errw := 0, busy := false,
    noticed := false }

/-- Flash and firmware layout of a module as delivered (DESIGN CHOICE, log entry 6). -/
def Flash.init : Flash :=
  { lifecycle := .deployed, pendingLife := none, attempt := none, slotB := false, imageA := some 1, imageB := some 1,
    triedB := false, rollback := 1,
    record := some { part := "THX-A960-48", serial := 1, certificate := [], training := [], basinGroups := [],
                     basinGroupsRes := [], hkbud := 1250,
                     queueTables := [0x10000000, 0x10100000, 0x10200000, 0x10300000], fstore := 4 },
    deviceRcb := 0x10400000,
    deviceCoreset := 0x10400100, deviceArena := 0x20000000, deviceAff := 0x10402000, deviceOverflow := 0x10800000,
    deviceCode := 0x100000, deviceAsid := 1 }

/-- The module right after reset: the boot steps of R320 have not run. DESIGN CHOICE, log entry 2. -/
def State.reset : State :=
  { cores := [], cur := 0, mem := [], poison := [], struck := [], lost := [], past := [], hostMem := [], hostPoison := [], hostLines := [], slices := [],
    eddies := [], allot := 0, bindings := [], regions := [], net := [], chips := [], zeroing := [], gathers := [],
    fes := [], queues := [],
    service := { ops := [], down := false, log := [], records := [], mailbox := [], waiting := [], spdm := [],
                 key := none, measured := { rom := false, image := none, record := none, life := .deployed } },
    tracer := { base := 0, size := 0, ctl := 0, wp := 0, rp := 0, drop := 0 },
    brielo := { number := 0, routes := [], failed := [], half := false, unconfirmed := [], drain := [],
                waiting := [] },
    power := .booting, flash := Flash.init, reservoir := true, weir := [], bucket := [], pairCores := [], tileIv := [], hkBud := [],
    banked := [], ecc := [], cycle := 0, period := 0, agenda := [], pace := [], free := 0 }

end Sys2Proof.Machine
end

