-- ==== Sys2Proof/Machine/Flags.lean ====
section
/-! DEFINITION. Floating-point numbers, rounding, flags, conversions and the wide exact accumulator (R129-R149,
R344, R346, R352, R409). A finite value is an exact dyadic number; every format is rounded by one function. -/

namespace Sys2Proof.Machine

open Sys2Proof

/-! ## Flags (Table 5-4) -/

/-- IV. -/
def fIV : BitVec 8 := 0x01
/-- DZ. -/
def fDZ : BitVec 8 := 0x02
/-- OF. -/
def fOF : BitVec 8 := 0x04
/-- UF. -/
def fUF : BitVec 8 := 0x08
/-- IX. -/
def fIX : BitVec 8 := 0x10
/-- SA. -/
def fSA : BitVec 8 := 0x20

/-- A flag when a condition holds. -/
def flagIf (c : Bool) (f : BitVec 8) : BitVec 8 := if c then f else 0

/-! ## Formats (Tables 5-1, 5-2) -/

/-- The floating-point formats. -/
inductive Fmt where
  | f64 | f32 | f16 | bf16 | e4m3 | e5m2 | e2m1
  deriving DecidableEq, Repr

/-- Width in bits. -/
def Fmt.width : Fmt → Nat
  | .f64 => 64 | .f32 => 32 | .f16 => 16 | .bf16 => 16 | .e4m3 => 8 | .e5m2 => 8 | .e2m1 => 4

/-- Fraction bits. -/
def Fmt.frac : Fmt → Nat
  | .f64 => 52 | .f32 => 23 | .f16 => 10 | .bf16 => 7 | .e4m3 => 3 | .e5m2 => 2 | .e2m1 => 1

/-- Exponent bias. -/
def Fmt.bias : Fmt → Int
  | .f64 => 1023 | .f32 => 127 | .f16 => 15 | .bf16 => 127 | .e4m3 => 7 | .e5m2 => 15 | .e2m1 => 1

/-- The weight of the lowest bit of a subnormal. -/
def Fmt.emin (f : Fmt) : Int := 1 - f.bias - (f.frac : Int)

/-- The magnitude code of the largest finite value. -/
def Fmt.maxCode : Fmt → Nat
  | .f64 => 0x7FEFFFFFFFFFFFFF | .f32 => 0x7F7FFFFF | .f16 => 0x7BFF | .bf16 => 0x7F7F | .e4m3 => 0x7E
  | .e5m2 => 0x7B | .e2m1 => 0x7

/-- The magnitude code of infinity, where the format has one. -/
def Fmt.infCode : Fmt → Option Nat
  | .f64 => some 0x7FF0000000000000 | .f32 => some 0x7F800000 | .f16 => some 0x7C00 | .bf16 => some 0x7F80
  | .e5m2 => some 0x7C | .e4m3 => none | .e2m1 => none

/-- The default NaN; E2M1 has none and gives +0 (R132). -/
def Fmt.nanCode : Fmt → Nat
  | .f64 => 0x7FF8000000000000 | .f32 => 0x7FC00000 | .f16 => 0x7E00 | .bf16 => 0x7FC0 | .e4m3 => 0x7F
  | .e5m2 => 0x7E | .e2m1 => 0

/-- The sign bit as a number. -/
def Fmt.signBit (f : Fmt) : Nat := 2 ^ (f.width - 1)

/-! ## Exact values -/

/-- The exact number (−1)^neg · m · 2^e; a zero keeps its sign. -/
structure Dyadic where
  neg : Bool
  m   : Nat
  e   : Int
  deriving DecidableEq, Repr

/-- The value of an encoding. -/
inductive FVal where
  | nan (signalling : Bool)
  | inf (neg : Bool)
  | num (d : Dyadic)
  deriving DecidableEq, Repr

/-- The value an encoding stands for (R130-R132). -/
def Fmt.decode (f : Fmt) (bits : Nat) : FVal :=
  let neg := (bits / f.signBit) % 2 == 1
  let mag := bits % f.signBit
  let ex := mag / 2 ^ f.frac
  let fr := mag % 2 ^ f.frac
  if f.infCode == some mag then .inf neg
  else if mag > f.maxCode then
    match f with
    | .e4m3 => .nan false
    | _ => .nan (fr / 2 ^ (f.frac - 1) == 0)
  else if ex == 0 then .num ⟨neg, fr, f.emin⟩
  else .num ⟨neg, 2 ^ f.frac + fr, f.emin + (ex : Int) - 1⟩

/-- Is the value a NaN? -/
def FVal.isNan : FVal → Bool
  | .nan _ => true
  | .inf _ => false
  | .num _ => false

/-- Is the value a signalling NaN? -/
def FVal.isSnan : FVal → Bool
  | .nan s => s
  | .inf _ => false
  | .num _ => false

/-- Is the value infinite? -/
def FVal.isInf : FVal → Bool
  | .inf _ => true
  | .nan _ => false
  | .num _ => false

/-- Is the value zero? -/
def FVal.isZero : FVal → Bool
  | .num d => d.m == 0
  | .nan _ => false
  | .inf _ => false

/-- Is the value finite? -/
def FVal.isFinite : FVal → Bool
  | .num _ => true
  | .nan _ => false
  | .inf _ => false

/-- The sign of a value. -/
def FVal.neg : FVal → Bool
  | .nan _ => false
  | .inf n => n
  | .num d => d.neg

/-- Number of bits of a number. -/
def bitLen (n : Nat) : Nat := if n = 0 then 0 else Nat.log2 n + 1

/-- A number times a power of two with an integer exponent that is known not to cut it. -/
def shiftUp (m : Nat) (e : Int) : Nat := m <<< e.toNat

/-- The signed mantissa at the exponent `e`, which is at most the value's own. -/
def Dyadic.at (d : Dyadic) (e : Int) : Int :=
  let v : Int := shiftUp d.m (d.e - e)
  if d.neg then -v else v

/-- The dyadic number v · 2^e, with the sign `zneg` for a zero. -/
def Dyadic.ofInt (v : Int) (e : Int) (zneg : Bool) : Dyadic :=
  if v = 0 then ⟨zneg, 0, e⟩ else ⟨decide (v < 0), v.natAbs, e⟩

/-- The exact sum; an exact zero is −0 when both terms are −0, or under RDN unless both are +0 (R344). -/
def Dyadic.add (rm : RMode) (x y : Dyadic) : Dyadic :=
  let e := min x.e y.e
  let v := x.at e + y.at e
  let zneg := if x.m = 0 ∧ y.m = 0 ∧ x.neg = y.neg then x.neg else rm == .rdn
  Dyadic.ofInt v e zneg

/-- The exact product. -/
def Dyadic.mul (x y : Dyadic) : Dyadic := ⟨x.neg != y.neg, x.m * y.m, x.e + y.e⟩

/-- The negated number. -/
def Dyadic.negate (x : Dyadic) : Dyadic := { x with neg := !x.neg }

/-- Order of two exact numbers, −0 equal to +0. -/
def Dyadic.lt (x y : Dyadic) : Bool :=
  let e := min x.e y.e
  decide (x.at e < y.at e)

/-- Equality of two exact numbers, −0 equal to +0. -/
def Dyadic.eq (x y : Dyadic) : Bool :=
  let e := min x.e y.e
  decide (x.at e = y.at e)

/-! ## Rounding (R140-R144) -/

/-- Does the mode choose the neighbour of greater magnitude? `odd` is the lowest kept bit, `half` and `rest` the bits
cut off. -/
def roundAway (rm : RMode) (neg odd half rest : Bool) : Bool :=
  match rm with
  | .rne => half && (rest || odd)
  | .rtz => false
  | .rup => !neg && (half || rest)
  | .rdn => neg && (half || rest)
  | .rna => half

/-- A magnitude m · 2^e rounded to the format with its exponent unbounded above: the magnitude code, and whether the
result is inexact. `sticky` says that the true magnitude lies above m · 2^e by less than one unit of m. -/
def roundMag (f : Fmt) (rm : RMode) (neg : Bool) (m : Nat) (e : Int) (sticky : Bool) : Nat × Bool :=
  let m2 := 2 * m + bitOf sticky
  let e2 := e - 1
  let q := max (e2 + (bitLen m2 : Int) - ((f.frac : Int) + 1)) f.emin
  let base := (q - f.emin).toNat * 2 ^ f.frac
  if q ≤ e2 then (base + shiftUp m2 (e2 - q), false)
  else
    let s := (q - e2).toNat
    let kept := m2 >>> s
    let cut := m2 % 2 ^ s
    let half := decide (cut / 2 ^ (s - 1) = 1)
    let rest := decide (cut % 2 ^ (s - 1) ≠ 0)
    let kept' := if roundAway rm neg (kept % 2 == 1) half rest then kept + 1 else kept
    (base + kept', decide (cut ≠ 0))

/-- An encoding from its sign and magnitude code. -/
def Fmt.code (f : Fmt) (neg : Bool) (mag : Nat) : Nat := if neg then f.signBit + mag else mag

/-- Does the mode's choice on overflow go to infinity (R144)? -/
def overflowsToInf (rm : RMode) (neg : Bool) : Bool :=
  match rm with
  | .rne | .rna => true
  | .rtz => false
  | .rup => !neg
  | .rdn => neg

/-- The result of an overflow (Table 5-6). -/
def overflowCode (f : Fmt) (rm : RMode) (sat neg : Bool) : Nat × BitVec 8 :=
  match f with
  | .e2m1 => (f.code neg f.maxCode, fOF ||| fIX ||| fSA)
  | .e4m3 =>
    if overflowsToInf rm neg then
      if sat then (f.code neg f.maxCode, fOF ||| fIX ||| fSA) else (f.nanCode, fOF ||| fIX)
    else (f.code neg f.maxCode, fOF ||| fIX)
  | _ =>
    if overflowsToInf rm neg then
      if sat then (f.code neg f.maxCode, fOF ||| fIX ||| fSA)
      else (f.code neg (f.infCode.getD f.maxCode), fOF ||| fIX)
    else (f.code neg f.maxCode, fOF ||| fIX)

/-- An exact number, or one known to lie just above in magnitude, rounded once (R140, R141, R144). -/
def roundFp (f : Fmt) (rm : RMode) (sat : Bool) (d : Dyadic) (sticky : Bool) : Nat × BitVec 8 :=
  if d.m = 0 ∧ sticky = false then (f.code d.neg 0, 0)
  else
    let (mag, ix) := roundMag f rm d.neg d.m d.e sticky
    if mag > f.maxCode then overflowCode f rm sat d.neg
    else
      let tiny := decide (mag ≠ 0 ∧ mag < 2 ^ f.frac)
      (f.code d.neg mag, flagIf ix fIX ||| flagIf (ix && tiny) fUF)

/-- A value delivered in a format by Table 5-6: a conversion, or the rounding of an accumulator. -/
def deliver (f : Fmt) (rm : RMode) (sat : Bool) (v : FVal) : Nat × BitVec 8 :=
  match v with
  | .nan s => (f.nanCode, flagIf (s || f == .e2m1) fIV)
  | .inf n =>
    match f with
    | .e2m1 => (f.code n f.maxCode, fSA ||| fIV)
    | .e4m3 => if sat then (f.code n f.maxCode, fSA) else (f.nanCode, fIV)
    | _ => (f.code n (f.infCode.getD f.maxCode), 0)
  | .num d => roundFp f rm sat d false

/-! ## Arithmetic (R149, R344) -/

/-- The default NaN with the invalid flag when a condition holds. -/
def nanResult (f : Fmt) (iv : Bool) : Nat × BitVec 8 := (f.nanCode, flagIf iv fIV)

/-- SAT on an arithmetic result: an infinite result of finite operands becomes the largest finite value (R344). -/
def saturate (f : Fmt) (sat allFinite : Bool) (r : Nat × BitVec 8) : Nat × BitVec 8 :=
  if sat && allFinite && (f.decode r.1).isInf then (f.code (f.decode r.1).neg f.maxCode, r.2 ||| fSA) else r

/-- The sum of two values. -/
def addVal (f : Fmt) (rm : RMode) (x y : FVal) : Nat × BitVec 8 :=
  match x, y with
  | .nan s, y => nanResult f (s || y.isSnan)
  | _, .nan s => nanResult f s
  | .inf a, .inf b => if a = b then (f.code a (f.infCode.getD f.maxCode), 0) else nanResult f true
  | .inf a, .num _ => (f.code a (f.infCode.getD f.maxCode), 0)
  | .num _, .inf b => (f.code b (f.infCode.getD f.maxCode), 0)
  | .num a, .num b => roundFp f rm false (a.add rm b) false

/-- The negated value. -/
def FVal.negate : FVal → FVal
  | .nan s => .nan s
  | .inf n => .inf (!n)
  | .num d => .num d.negate

/-- FADD. -/
def fpAdd (f : Fmt) (rm : RMode) (sat : Bool) (a b : Nat) : Nat × BitVec 8 :=
  let x := f.decode a
  let y := f.decode b
  saturate f sat (x.isFinite && y.isFinite) (addVal f rm x y)

/-- FSUB: the sum of a and −b. -/
def fpSub (f : Fmt) (rm : RMode) (sat : Bool) (a b : Nat) : Nat × BitVec 8 :=
  let x := f.decode a
  let y := f.decode b
  saturate f sat (x.isFinite && y.isFinite) (addVal f rm x y.negate)

/-- The exact product of two values: NaN with its invalid condition, an infinity, or a number. -/
def mulVal (x y : FVal) : Except Bool FVal :=
  match x, y with
  | .nan s, y => .error (s || y.isSnan)
  | _, .nan s => .error s
  | .inf a, y => if y.isZero then .error true else .ok (.inf (a != y.neg))
  | x, .inf b => if x.isZero then .error true else .ok (.inf (x.neg != b))
  | .num a, .num b => .ok (.num (a.mul b))

/-- FMUL. -/
def fpMul (f : Fmt) (rm : RMode) (sat : Bool) (a b : Nat) : Nat × BitVec 8 :=
  let x := f.decode a
  let y := f.decode b
  saturate f sat (x.isFinite && y.isFinite)
    (match mulVal x y with
     | .error iv => nanResult f iv
     | .ok (.num d) => roundFp f rm false d false
     | .ok v => (f.code v.neg (f.infCode.getD f.maxCode), 0))

/-- FFMA: a·b + c with one rounding. DEDUCED, log entry 29. -/
def fpFma (f : Fmt) (rm : RMode) (sat : Bool) (a b c : Nat) : Nat × BitVec 8 :=
  let x := f.decode a
  let y := f.decode b
  let z := f.decode c
  saturate f sat (x.isFinite && y.isFinite && z.isFinite)
    (match mulVal x y with
     | .error iv => nanResult f (iv || z.isSnan)
     | .ok p => addVal f rm p z)

/-- FDIV. -/
def fpDiv (f : Fmt) (rm : RMode) (sat : Bool) (a b : Nat) : Nat × BitVec 8 :=
  let x := f.decode a
  let y := f.decode b
  let neg := x.neg != y.neg
  saturate f sat (x.isFinite && y.isFinite)
    (match x, y with
     | .nan s, y => nanResult f (s || y.isSnan)
     | _, .nan s => nanResult f s
     | .inf _, .inf _ => nanResult f true
     | .inf _, .num _ => (f.code neg (f.infCode.getD f.maxCode), 0)
     | .num _, .inf _ => (f.code neg 0, 0)
     | .num p, .num q =>
       if q.m = 0 then
         if p.m = 0 then nanResult f true else (f.code neg (f.infCode.getD f.maxCode), fDZ)
       else if p.m = 0 then (f.code neg 0, 0)
       else
         let s := 2 * f.width + bitLen q.m
         let n := p.m <<< s
         roundFp f rm false ⟨neg, n / q.m, p.e - q.e - (s : Int)⟩ (decide (n % q.m ≠ 0)))

/-- FSQRT; of ±0 it gives the zero and raises DZ (Table 5-4, R344). -/
def fpSqrt (f : Fmt) (rm : RMode) (sat : Bool) (a : Nat) : Nat × BitVec 8 :=
  let x := f.decode a
  saturate f sat x.isFinite
    (match x with
     | .nan s => nanResult f s
     | .inf n => if n then nanResult f true else (f.code false (f.infCode.getD f.maxCode), 0)
     | .num d =>
       if d.m = 0 then (f.code d.neg 0, fDZ)
       else if d.neg then nanResult f true
       else
         let s := 2 * f.width + (if d.e % 2 = 0 then 0 else 1)
         let n := d.m <<< s
         let r := Nat.sqrt n
         roundFp f rm false ⟨false, r, (d.e - (s : Int)) / 2⟩ (decide (r * r ≠ n)))

/-- FMIN and FMAX (R346): −0 below +0, a NaN loses, two NaNs give the default NaN. -/
def fpMinMax (f : Fmt) (isMax : Bool) (a b : Nat) : Nat × BitVec 8 :=
  let x := f.decode a
  let y := f.decode b
  let fl := flagIf (x.isSnan || y.isSnan) fIV
  let less : Bool :=
    match x, y with
    | .inf n, .inf k => n && !k
    | .inf n, _ => n
    | _, .inf k => !k
    | .num p, .num q => if p.eq q then p.neg && !q.neg else p.lt q
    | _, _ => false
  match x.isNan, y.isNan with
  | true, true => (f.nanCode, fl)
  | true, false => (b, fl)
  | false, true => (a, fl)
  | false, false => (if less != isMax then a else b, fl)

/-- Comparison of two values that are not NaN: less, equal. -/
def cmpVal (x y : FVal) : Bool × Bool :=
  match x, y with
  | .inf n, .inf k => (n && !k, n == k)
  | .inf n, _ => (n, false)
  | _, .inf k => (!k, false)
  | .num p, .num q => (p.lt q, p.eq q)
  | _, _ => (false, false)

/-- FSETP (Table 15-7). -/
def fpCompare (f : Fmt) (c : FCond) (a b : Nat) : Bool × BitVec 8 :=
  let x := f.decode a
  let y := f.decode b
  let nan := x.isNan || y.isNan
  let (lt, eq) := cmpVal x y
  let sn := flagIf (x.isSnan || y.isSnan) fIV
  let any := flagIf nan fIV
  match c with
  | .eq => (!nan && eq, sn)
  | .ne => (nan || !eq, sn)
  | .lt => (!nan && lt, any)
  | .le => (!nan && (lt || eq), any)
  | .gt => (!nan && !lt && !eq, any)
  | .ge => (!nan && !lt, any)
  | .un => (nan, sn)
  | .ord => (!nan, sn)

/-- FCLASS (Table 15-6). -/
def fpClass (f : Fmt) (a : Nat) : Word :=
  let neg := (a / f.signBit) % 2
  match f.decode a with
  | .nan s => place neg 8 ||| place (if s then 5 else 4) 0
  | .inf _ => place neg 8 ||| place 3 0
  | .num d =>
    if d.m = 0 then place 1 11 ||| place neg 8
    else
      let l := Nat.log2 d.m
      let ex := d.e + (l : Int)
      let isInt := decide (0 ≤ d.e ∨ d.m % 2 ^ (-d.e).toNat = 0)
      let odd := isInt && decide ((if 0 ≤ d.e then d.m <<< d.e.toNat else d.m >>> (-d.e).toNat) % 2 = 1)
      let pow := decide (d.m = 2 ^ l)
      let sub := decide (a % f.signBit < 2 ^ f.frac)
      place (BitVec.ofInt 32 ex).toNat 32 ||| place (bitOf isInt) 11 ||| place (bitOf odd) 10
        ||| place (bitOf pow) 9 ||| place neg 8 ||| place (if sub then 1 else 2) 0

/-! ## Integers (R145) -/

/-- An integer type: width and signedness. -/
structure IntTy where
  width  : Nat
  signed : Bool
  deriving DecidableEq, Repr

/-- Least value. -/
def IntTy.lo (t : IntTy) : Int := if t.signed then -(2 ^ (t.width - 1) : Int) else 0

/-- Greatest value. -/
def IntTy.hi (t : IntTy) : Int := if t.signed then 2 ^ (t.width - 1) - 1 else 2 ^ t.width - 1

/-- The value of the low bits of a number. -/
def IntTy.decode (t : IntTy) (v : Nat) : Int :=
  let w := v % 2 ^ t.width
  if t.signed && w ≥ 2 ^ (t.width - 1) then (w : Int) - 2 ^ t.width else w

/-- The low bits that hold an integer. -/
def IntTy.encode (t : IntTy) (v : Int) : Nat := (v % 2 ^ t.width).toNat

/-- An integer narrowed to the type, with SAT clamped (R145, R404). -/
def IntTy.narrow (t : IntTy) (sat : Bool) (v : Int) : Nat × BitVec 8 :=
  if sat then
    if v < t.lo then (t.encode t.lo, fSA) else if t.hi < v then (t.encode t.hi, fSA) else (t.encode v, 0)
  else (t.encode v, 0)

/-- An exact magnitude m · 2^e rounded to an integer, and whether it is inexact. -/
def roundInt (rm : RMode) (d : Dyadic) : Int × Bool :=
  let (mag, ix) : Nat × Bool :=
    if 0 ≤ d.e then (d.m <<< d.e.toNat, false)
    else
      let s := (-d.e).toNat
      let kept := d.m >>> s
      let cut := d.m % 2 ^ s
      let half := decide (cut / 2 ^ (s - 1) = 1)
      let rest := decide (cut % 2 ^ (s - 1) ≠ 0)
      (if roundAway rm d.neg (kept % 2 == 1) half rest then kept + 1 else kept, decide (cut ≠ 0))
  (if d.neg then -(mag : Int) else mag, ix)

/-- Floating point to integer (R145, Table 5-6). -/
def fpToInt (t : IntTy) (rm : RMode) (v : FVal) : Nat × BitVec 8 :=
  match v with
  | .nan _ => (0, fIV)
  | .inf n => (t.encode (if n then t.lo else t.hi), fIV)
  | .num d =>
    let (r, ix) := roundInt rm d
    if r < t.lo then (t.encode t.lo, fIV) else if t.hi < r then (t.encode t.hi, fIV)
    else (t.encode r, flagIf ix fIX)

/-- Integer to floating point. -/
def intToFp (f : Fmt) (rm : RMode) (sat : Bool) (v : Int) : Nat × BitVec 8 :=
  roundFp f rm sat (Dyadic.ofInt v 0 false) false

/-! ## FCVT (Table 4-15) -/

/-- Source or destination of a conversion. -/
inductive CvtTy where
  | fp (f : Fmt)
  | int (t : IntTy)
  deriving DecidableEq, Repr

end Sys2Proof.Machine

namespace Sys2Proof

open Machine

/-- Destination and source of a conversion code. -/
def Cvt.types : Cvt → CvtTy × CvtTy
  | .dS => (.fp .f64, .fp .f32) | .sD => (.fp .f32, .fp .f64)
  | .sH => (.fp .f32, .fp .f16) | .hS => (.fp .f16, .fp .f32)
  | .sBf => (.fp .f32, .fp .bf16) | .bfS => (.fp .bf16, .fp .f32)
  | .sE4 => (.fp .f32, .fp .e4m3) | .e4S => (.fp .e4m3, .fp .f32)
  | .sE5 => (.fp .f32, .fp .e5m2) | .e5S => (.fp .e5m2, .fp .f32)
  | .dI64 => (.fp .f64, .int ⟨64, true⟩) | .i64D => (.int ⟨64, true⟩, .fp .f64)
  | .dU64 => (.fp .f64, .int ⟨64, false⟩) | .u64D => (.int ⟨64, false⟩, .fp .f64)
  | .sI32 => (.fp .f32, .int ⟨32, true⟩) | .i32S => (.int ⟨32, true⟩, .fp .f32)
  | .sU32 => (.fp .f32, .int ⟨32, false⟩) | .u32S => (.int ⟨32, false⟩, .fp .f32)
  | .dI32 => (.fp .f64, .int ⟨32, true⟩) | .i32D => (.int ⟨32, true⟩, .fp .f64)

end Sys2Proof

namespace Sys2Proof.Machine

open Sys2Proof

/-- A value converted between two types (R143-R145): the destination's bits and the flags. -/
def convert (dst src : CvtTy) (rm : RMode) (sat : Bool) (v : Nat) : Nat × BitVec 8 :=
  match dst, src with
  | .fp f, .fp g => deliver f rm sat (g.decode (v % 2 ^ g.width))
  | .fp f, .int t => intToFp f rm sat (t.decode v)
  | .int t, .fp g => fpToInt t rm (g.decode (v % 2 ^ g.width))
  | .int t, .int u => t.narrow sat (u.decode v)

/-- Bits of a result in a 64-bit register: signed integers are sign-extended, everything else zero-extended (R347). -/
def CvtTy.toReg (t : CvtTy) (v : Nat) : Word :=
  match t with
  | .fp f => BitVec.ofNat 64 (v % 2 ^ f.width)
  | .int ⟨w, true⟩ => signExtend w v
  | .int ⟨w, false⟩ => BitVec.ofNat 64 (v % 2 ^ w)

/-! ## The vector functions (R409, Table 18-5)

The functions are evaluated on integers scaled by 2^prec; the truncated result lies below the exact value by less than
one unit, so one sticky bit rounds it correctly. An exact result is recognised first. -/

/-- Working precision. -/
def prec : Nat := 256

/-- 1/a. -/
def fpRcp (f : Fmt) (rm : RMode) (sat : Bool) (a : Nat) : Nat × BitVec 8 :=
  let x := f.decode a
  saturate f sat (x.isFinite)
    (match x with
     | .nan s => nanResult f s
     | .inf n => (f.code n 0, 0)
     | .num d =>
       if d.m = 0 then (f.code d.neg (f.infCode.getD f.maxCode), fDZ)
       else
         let n := 2 ^ prec
         roundFp f rm false ⟨d.neg, n / d.m, -d.e - (prec : Int)⟩ (decide (n % d.m ≠ 0)))

/-- 1/√a. -/
def fpRsq (f : Fmt) (rm : RMode) (sat : Bool) (a : Nat) : Nat × BitVec 8 :=
  let x := f.decode a
  saturate f sat (x.isFinite)
    (match x with
     | .nan s => nanResult f s
     | .inf n => if n then nanResult f true else (f.code false 0, 0)
     | .num d =>
       if d.m = 0 then (f.code d.neg (f.infCode.getD f.maxCode), fDZ)
       else if d.neg then nanResult f true
       else
         -- a = m·2^e with e even; 1/√a = √(2^(2·prec) / m) · 2^(−prec − e/2)
         let m := if d.e % 2 = 0 then d.m else 2 * d.m
         let e := if d.e % 2 = 0 then d.e else d.e - 1
         let n := 2 ^ (2 * prec)
         let r := Nat.sqrt (n / m)
         roundFp f rm false ⟨false, r, -(prec : Int) - e / 2⟩ (decide (r * r * m ≠ n)))

/-- One bit of log₂: squares y, scaled by 2^prec with 1 ≤ y < 2, and halves it when it reaches 2. -/
def logStep (y : Nat) : Bool × Nat :=
  let z := (y * y) >>> prec
  if z ≥ 2 ^ (prec + 1) then (true, z >>> 1) else (false, z)

/-- `n` fraction bits of log₂ of y, highest first, appended to `acc`. -/
def logBits : Nat → Nat → Nat → Nat
  | 0, _, acc => acc
  | n + 1, y, acc =>
    let (b, z) := logStep y
    logBits n z (2 * acc + bitOf b)

/-- log₂ a. -/
def fpLog2 (f : Fmt) (rm : RMode) (sat : Bool) (a : Nat) : Nat × BitVec 8 :=
  let x := f.decode a
  saturate f sat (x.isFinite)
    (match x with
     | .nan s => nanResult f s
     | .inf n => if n then nanResult f true else (f.code false (f.infCode.getD f.maxCode), 0)
     | .num d =>
       if d.m = 0 then (f.code true (f.infCode.getD f.maxCode), fDZ)
       else if d.neg then nanResult f true
       else
         let l := Nat.log2 d.m
         let ex := d.e + (l : Int)
         if d.m = 2 ^ l then roundFp f rm false (Dyadic.ofInt ex 0 false) false
         else
           let bits := 96
           let y := d.m <<< (prec - l)
           let fr := logBits bits y 0
           -- ex + fr/2^bits < log₂ a < ex + (fr + 1)/2^bits
           let v : Int := ex * 2 ^ bits + fr
           if 0 ≤ v then roundFp f rm false ⟨false, v.toNat, -(bits : Int)⟩ true
           else roundFp f rm false ⟨true, (-v - 1).toNat, -(bits : Int)⟩ true)

/-- ln 2 scaled by 2^prec: Σ 1/(k·2^k). -/
def ln2 : Nat := (List.range 300).foldl (fun acc k => acc + 2 ^ prec / ((k + 1) * 2 ^ (k + 1))) 0

/-- e^t scaled by 2^prec for t scaled by 2^prec: `n` terms from the k-th, with the k-th term given. -/
def expTerms : Nat → Nat → Nat → Nat → Nat
  | 0, _, _, _ => 0
  | n + 1, k, t, term => term + expTerms n (k + 1) t (((term * t) >>> prec) / (k + 1))

/-- 2^a. A magnitude beyond every exponent is cut first, since it only overflows or vanishes. -/
def fpExp2 (f : Fmt) (rm : RMode) (sat : Bool) (a : Nat) : Nat × BitVec 8 :=
  let x := f.decode a
  saturate f sat (x.isFinite)
    (match x with
     | .nan s => nanResult f s
     | .inf n => if n then (f.code false 0, 0) else (f.code false (f.infCode.getD f.maxCode), 0)
     | .num d =>
       if d.m = 0 then roundFp f rm false ⟨false, 1, 0⟩ false
       else if d.e + (Nat.log2 d.m : Int) ≥ 12 then
         if d.neg then roundFp f rm false ⟨false, 1, -4096⟩ true else roundFp f rm false ⟨false, 1, 4096⟩ true
       else if d.e + (Nat.log2 d.m : Int) < -60 then
         -- 1 < 2^|a| < 1 + 2^−60, or just below 1
         if d.neg then roundFp f rm false ⟨false, 2 ^ 60 - 1, -60⟩ true else roundFp f rm false ⟨false, 2 ^ 60, -60⟩ true
       else
         let v := d.at (d.e - 200)               -- a · 2^(200 − e)
         let den : Int := 2 ^ (200 + (-d.e).toNat)
         let num := if 0 ≤ d.e then v * 2 ^ d.e.toNat else v
         let den' : Int := if 0 ≤ d.e then 2 ^ 200 else den
         let n := num / den'                     -- ⌊a⌋
         let fr := num - n * den'                -- (a − n) · den'
         if fr = 0 then roundFp f rm false ⟨false, 1, n⟩ false
         else
           let t := (fr.toNat * ln2) / den'.toNat
           let y := expTerms 70 0 t (2 ^ prec)
           roundFp f rm false ⟨false, y >>> 100, n - (prec : Int) + 100⟩ true)

/-! ## The wide exact accumulator XA320 (R146-R148) -/

/-- The cleared accumulator. -/
def XA.zero : XA := ⟨0, .fin⟩

/-- An operand added (R147). -/
def XA.add (x : XA) (v : FVal) : XA :=
  match v with
  | .nan _ => { x with st := .nan }
  | .inf n =>
    match x.st, n with
    | .fin, false => { x with st := .pinf }
    | .fin, true => { x with st := .ninf }
    | .pinf, true | .ninf, false => { x with st := .nan }
    | _, _ => x
  | .num d =>
    match x.st with
    | .fin =>
      let y := x.val + d.at (-160)
      if y ≥ 2 ^ 319 then { x with st := .pinf } else if y < -(2 ^ 319) then { x with st := .ninf } else ⟨y, .fin⟩
    | _ => x

/-- The value an accumulator holds. -/
def XA.value (x : XA) : FVal :=
  match x.st with
  | .nan => .nan false
  | .pinf => .inf false
  | .ninf => .inf true
  | .fin => .num (Dyadic.ofInt x.val (-160) false)

/-- Two accumulators added: the second joined to the first. -/
def XA.join (x y : XA) : XA := x.add y.value

/-- Rounding to a format under RNE (R148). -/
def XA.round (x : XA) (f : Fmt) : Nat := (deliver f .rne false x.value).1

end Sys2Proof.Machine
end

