-- ==== Sys2Proof/Machine/Geometry.lean ====
section
/-! DEFINITION. Where things stand: the nodes of the network, the linear core number, the physical address map and the
home slice of a line (R7, R12-R16, R196, R197, R202, Tables 1-1, 8-2). -/

namespace Sys2Proof.Machine

open Sys2Proof

/-- Cores of the module. -/
def coreCount : Nat := 2048

/-- Is the column one of the four slice columns (R13)? -/
def isSliceColumn (x : Nat) : Bool := x == 0 || x == 9 || x == 10 || x == 19

/-- Column, row and index within the node of a linear core number (R7). -/
def coreNode (n : Nat) : Nat × Nat × Nat :=
  let c := n % 4
  let node := n / 4 % 32
  let chip := n / 128
  let basin := chip / 4
  let k := chip % 4
  (10 * (basin % 2) + node % 8 + 1, 16 * (basin / 2) + 4 * k + node / 8, c)

/-- The linear core number of a core node (R7). -/
def coreNumber (x y c : Nat) : Nat :=
  let bx := x / 10
  let by_ := y / 16
  let chip := (y - 16 * by_) / 4
  ((4 * (2 * by_ + bx) + chip) * 32 + 8 * (y - 16 * by_ - 4 * chip) + (x - 10 * bx - 1)) * 4 + c

/-- The compute chiplet of a core (R14). -/
def chipOf (core : Nat) : Nat := core / 128

/-- The basin of a core. -/
def basinOf (core : Nat) : Nat := core / 512

/-- The slice with memory chiplet m and row r has index 16·m + r (R202); its node. -/
def sliceNode (i : Nat) : Nat × Nat :=
  let m := i / 16
  let basin := m / 2
  (10 * (basin % 2) + 9 * (m % 2), 16 * (basin / 2) + i % 16)

/-- The index of the slice at a node. -/
def sliceAt (x y : Nat) : Nat := 16 * (2 * (2 * (y / 16) + x / 10) + (if x % 10 = 9 then 1 else 0)) + y % 16

/-- MODULE, X, Y and C at the positions of NODE (Table 4-7). -/
def nodeWord (module x y c : Nat) : Word := place module 55 ||| place x 50 ||| place y 45 ||| place c 43

/-- The node of a Brielo port: two ports in each basin (Table 1-1). -/
def portNode (p : Nat) : Nat × Nat :=
  (10 * (p / 2 % 2) + 9, 16 * (p / 2 / 2) + (if p % 2 = 0 then 4 else 12))

/-- LOC of an agent (Table 13-2, Table 1-1). -/
def locWord (module : Nat) : Agent → Word
  | .core n => let (x, y, c) := coreNode n; nodeWord module x y c
  | .slice i => let (x, y) := sliceNode i; nodeWord module x y 0
  | .eddy m => let (x, _) := sliceNode (16 * m); nodeWord module x (16 * (m / 4) + 8) 0
  | .gather g => let (x, _) := sliceNode (16 * (g / 4)); nodeWord module x (16 * (g / 4 / 4) + 4 * (g % 4) + 2) 0
  | .frontEnd b => nodeWord module (10 * (b % 2)) (16 * (b / 2)) 0
  | .port p => let (x, y) := portNode p; nodeWord module x y 0
  | .service => nodeWord module 0 0 0
  | .tracer => nodeWord module 0 0 0
  | .host => nodeWord module 0 8 0
  | .peer m => nodeWord m 0 0 0

/-- The local port at which an agent injects: those of the core nodes, of the slices, and the agent ports (R16, R21). -/
def localPort : Agent → Option Nat
  | .core n => some (n / 4)
  | .slice i => some (512 + i)
  | .eddy m => some (640 + 16 * m + 8)
  | .gather g => some (640 + 16 * (g / 4) + 4 * (g % 4) + 2)
  | .frontEnd b => some (640 + 32 * b)
  | .port p => some (640 + 16 * (p / 2 * 2 + 1) + (if p % 2 = 0 then 4 else 12))
  | .service => some 640
  | .tracer => some 640
  | .host => some 648
  | .peer _ => none

/-! ## The configuration record (R321) -/

/-- FSTORE of the record in flash, which boot gives the device region; a module whose record is erased does not boot. -/
def Flash.fstore (f : Flash) : Nat := (f.record.map (·.fstore)).getD 1
/-- The configuration record in force: the one the latest boot verified and measured. A later write of flash is in force
from the next boot on (R197, R272, R293, R321). -/
def State.config (s : State) : Option ConfigRecord := s.service.measured.record
/-- HKBUD in force. -/
def State.hkbud (s : State) : Nat := (s.config.map (·.hkbud)).getD 0
/-- BASIN-mode groups of HBM4. -/
def State.basinGroups (s : State) : List Nat := (s.config.map (·.basinGroups)).getD []
/-- BASIN-mode groups of the reservoir. -/
def State.basinGroupsRes (s : State) : List Nat := (s.config.map (·.basinGroupsRes)).getD []
/-- Queue-table addresses. -/
def State.queueTables (s : State) : List Nat := (s.config.map (·.queueTables)).getD []

/-! ## Physical addresses (Table 8-2) -/

/-- Bytes of a page of HBM4 that the address-space table begins at (R206). -/
def asTable : Nat := 0x00FFFFF80000
/-- First byte beyond HBM4. -/
def hbmEnd : Nat := 0x010000000000
/-- First byte beyond the reservoir. -/
def resEnd : Nat := 0x040000000000
/-- First byte of the slice-scratch windows. -/
def winBase : Nat := 0x040000000000
/-- First byte beyond the slice-scratch windows. -/
def winEnd : Nat := 0x040020000000
/-- First byte beyond core-local memory (Table 8-1). -/
def localEnd : Nat := 0x180000

/-- `n` bytes from an address lie wholly in HBM4. -/
def inHbm (a n : Nat) : Bool := decide (a + n ≤ hbmEnd)

/-- `n` bytes from an address lie wholly in HBM4 below the address-space table. -/
def inPlainHbm (a n : Nat) : Bool := decide (a + n ≤ asTable)

/-- `n` bytes from an address lie wholly in the reservoir, which a failed training leaves out (Table 14-3). -/
def State.inReservoir (s : State) (a n : Nat) : Bool := s.reservoir && decide (hbmEnd ≤ a ∧ a + n ≤ resEnd)

/-- `n` bytes from an address lie wholly in HBM4 or wholly in the reservoir. -/
def State.inDram (s : State) (a n : Nat) : Bool := inHbm a n || s.inReservoir a n

/-- The slice and window offset of a slice-scratch address. -/
def windowOf (a : Nat) : Nat × Nat := ((a - winBase) / 0x400000, (a - winBase) % 0x400000)

/-- Is the group of a DRAM address in BASIN mode (R197)? -/
def State.basinMode (s : State) (a : Nat) : Bool :=
  if a < hbmEnd then s.basinGroups.contains (a / 0x100000000)
  else s.basinGroupsRes.contains ((a - hbmEnd) / 0x100000000)

/-- The home slice of a physical address (R197, R202). -/
def State.homeSlice (s : State) (a : Nat) : Nat :=
  if a < hbmEnd then
    if s.basinMode a then 16 * (2 * (a / 2 ^ 30 % 4) + a / 1024 % 2) + a / 2048 % 16
    else 16 * (a / 1024 % 8) + a / 8192 % 16
  else if a < resEnd then
    let b := a - hbmEnd
    if s.basinMode a then 16 * (2 * (b / 2 ^ 30 % 4) + b / 512 % 2) + b / 1024 % 16
    else 16 * (b / 512 % 8) + b / 4096 % 16
  else (windowOf a).1 % 128

/-- The memory chiplet of a physical address. -/
def State.homeChiplet (s : State) (a : Nat) : Nat := s.homeSlice a / 16

/-- HBM4 stacks of the module, each with its controller: memory chiplet m carries those of stacks 2m and 2m + 1 (R15). -/
def stackCount : Nat := 16

/-- The memory chiplet that carries a stack's controller. -/
def chipletOfStack (stack : Nat) : Nat := stack / 2

/-- The stack of an address in HBM4 (R197). -/
def State.stackOf (s : State) (a : Nat) : Nat :=
  if s.basinMode a then 4 * (a / 2 ^ 30 % 4) + a / 512 % 4 else a / 512 % 16

/-- The replica of a replicated page's address in a basin (R203). -/
def replicaIn (pa basin : Nat) : Nat := pa / 2 ^ 32 * 2 ^ 32 + basin * 2 ^ 30 + pa % 2 ^ 30

/-- The line of an address. -/
def lineOf (a : Nat) : Nat := a / 128

/-! ## References (Tables 2-5, 4-5) -/

/-- The fields of a slot reference. -/
structure Ref where
  t      : Bool
  module : Nat
  x      : Nat
  y      : Nat
  c      : Nat
  fid    : Nat
  slot   : Nat
  low    : Nat
  deriving DecidableEq, Repr

/-- The fields of a reference word. -/
def Ref.of (w : Word) : Ref :=
  { t := bitAt w 63, module := field w 62 55, x := field w 54 50, y := field w 49 45, c := field w 44 43,
    fid := field w 42 27, slot := field w 26 15, low := field w 14 0 }

/-- The reference word of a slot of this module. -/
def refWord (module core fid slot : Nat) : Word :=
  let (x, y, c) := coreNode core
  nodeWord module x y c ||| place fid 27 ||| place slot 15

/-- Is the reference well formed apart from its route (R52, R284)? -/
def Ref.ok (r : Ref) : Bool :=
  r.low == 0 && decide (r.x < 20) &&
    (if r.t then (r.x == 0 || r.x == 10) && r.y % 16 == 0 && r.c == 0 && r.fid == 0
     else !isSliceColumn r.x)

/-- The front end a trigger reference names. -/
def Ref.frontEnd (r : Ref) : Nat := 2 * (r.y / 16) + r.x / 10

/-- Is there a valid route toward a module (R319)? -/
def State.routeOk (s : State) (module : Nat) : Bool :=
  module == s.brielo.number || SMap.has s.brielo.routes module

/-- The agent that receives a signal to a reference. -/
def State.refAgent (s : State) (r : Ref) : Agent :=
  if r.module = s.brielo.number then
    if r.t then .frontEnd r.frontEnd else .core (coreNumber r.x r.y r.c)
  else .peer r.module

/-- Checks of a reference at the source interface, at issue (R52, R284, R319). -/
def State.refOk (s : State) (w : Word) : Bool := (Ref.of w).ok && s.routeOk (Ref.of w).module

end Sys2Proof.Machine
end

