-- ==== Sys2Proof/Machine/Memory.lean ====
section
/-! DEFINITION. Global memory as it stands at the home slices: reads and writes of bytes with poison and dropped lines,
applies of update lines, the cache directory, replicas, and the table walk (R196-R211, R241, R248, R251-R253, R310). -/

namespace Sys2Proof.Machine

open Sys2Proof

/-! ## Access to parts of the module -/

/-- Core `n`; one that nothing has touched stands as after reset. -/
def State.core (s : State) (n : Nat) : Core := SMap.get s.cores n Core.init

/-- Core `n` replaced. -/
def State.setCore (s : State) (n : Nat) (c : Core) : State := { s with cores := SMap.set s.cores n c }

/-- Core `n` changed. -/
def State.onCore (s : State) (n : Nat) (f : Core → Core) : State := s.setCore n (f (s.core n))

/-- Home slice `i`. -/
def State.slice (s : State) (i : Nat) : Slice := SMap.get s.slices i Slice.init

/-- Home slice `i` replaced. -/
def State.setSlice (s : State) (i : Nat) (x : Slice) : State := { s with slices := SMap.set s.slices i x }

/-- Eddy unit `m`. -/
def State.eddy (s : State) (m : Nat) : Eddy := SMap.get s.eddies m Eddy.init

/-- Eddy unit `m` replaced. -/
def State.setEddy (s : State) (m : Nat) (x : Eddy) : State := { s with eddies := SMap.set s.eddies m x }

/-- Chiplet `k`'s shared tables. -/
def State.chip (s : State) (k : Nat) : Chip := SMap.get s.chips k Chip.init

/-- Chiplet `k`'s shared tables replaced. -/
def State.setChip (s : State) (k : Nat) (x : Chip) : State := { s with chips := SMap.set s.chips k x }

/-- TIME in nanoseconds: the cores run at 3.0 GHz (R20, Table 4-7). -/
def State.time (s : State) : Nat := s.cycle / 3

/-- A packet injected behind those already in the network (R30). Toward another module it is counted at its Brielo port,
or waits while an earlier port drains (R319). A reply or acknowledgement toward a module that has no valid route is sent
all the same, and counted at port 0 (DESIGN CHOICE, log entry 68). -/
def State.send (s : State) (p : Packet) : State :=
  match p.dst with
  | .peer m =>
    let b := s.brielo
    if SMap.has b.drain m then { s with brielo := { b with waiting := b.waiting ++ [p] } }
    else
      let k := 256 * SMap.get b.routes m 0 + m
      { s with
        net := s.net ++ [p]
        brielo := { b with unconfirmed := SMap.set b.unconfirmed k (SMap.get b.unconfirmed k 0 + 1) } }
  | _ => { s with net := s.net ++ [p] }

/-- A free choice among `n` outcomes (DESIGN CHOICE, log entry 4). -/
def State.choose (s : State) (n : Nat) : Nat × State :=
  (Config.freeNat s.free % n, { s with free := s.free + 1 })

/-- `n` free bytes (DESIGN CHOICE, log entry 3). -/
def State.freeBytes (s : State) (n : Nat) : List Byte × State :=
  ((List.range n).map fun i => Config.freeByte (s.free + i), { s with free := s.free + n })

/-! ## Bytes of global memory -/

/-- Some of the bytes from `a` up stand in a dropped line. -/
def State.anyLost (s : State) (a n : Nat) : Bool := s.lost.any fun x => decide (a ≤ x ∧ x < a + n)

/-- The values a byte has held since its page was last zeroed, the present one first (R200). -/
def State.held (s : State) (a : Nat) : List Byte := Cells.get s.mem a :: SMap.get s.past a []

/-- Bytes of memory; a byte of a dropped line is any value it has held, by a free choice (R200; DESIGN CHOICE, log
entry 4). -/
def State.readRaw (s : State) (a n : Nat) : List Byte × State :=
  if s.anyLost a n then
    ((List.range n).map fun i =>
       if s.lost.contains (a + i) then
         (s.held (a + i)).getD (Config.freeNat (s.free + i) % (s.held (a + i)).length) 0
       else Cells.get s.mem (a + i),
     { s with free := s.free + n })
  else (Cells.read s.mem a n, s)

/-- The past values of bytes about to be written: a present value that a write replaces joins them (R200). -/
def keepPast (mem : List Host.Cell) (past : SMap (List Byte)) (a : Nat) : List (Option Byte) → SMap (List Byte)
  | [] => past
  | none :: bs => keepPast mem past (a + 1) bs
  | some b :: bs =>
    let v := Cells.get mem a
    let l := SMap.get past a []
    keepPast mem (if v = b ∨ v ∈ l then past else SMap.set past a (v :: l)) (a + 1) bs

/-- Is any of `n` bytes of global memory poisoned? -/
def State.badAt (s : State) (a n : Nat) : List Nat :=
  (List.range n).filter fun i => s.poison.contains ((a + i) / 8) || s.struck.contains (a + i)

/-- The bytes of the line at a place as they stand: in this module, or in host memory, which stands above 2^56. -/
def State.lineImage (s : State) (place : Nat) : BitVec 1024 :=
  let a := place / 128 * 128
  BitVec.ofNat 1024 (natOf (if a < 2 ^ 56 then Cells.read s.mem a 128 else Cells.read s.hostMem (a - 2 ^ 56) 128))

/-- Is a threadlet of a chiplet Running, Parked or Held in a block that holds bytes of a line (R358)? -/
def State.inBlock (s : State) (chip asid line : Nat) : Bool :=
  let meets (region block len : Nat) : Bool :=
    ((SMap.find s.regions region).map (·.asid)) == some asid &&
      decide (block < (line + 1) * 128 ∧ line * 128 < block + 20 + 4 * len)
  s.cores.any fun e => chipOf e.1 == chip &&
    ((e.2.run.map fun r => meets r.region r.block r.len).getD false ||
      e.2.frames.any fun f => (f.2.parked.map fun p => meets f.2.region p.block p.len).getD false)

/-- Cached lines of code that were rewritten under a threadlet in their block: it may find either image from then on
(R358). Other stores to cached code stay invisible until an IFLUSH (R198). DEDUCED, log entry 31. -/
def State.recode (s : State) (a n : Nat) : State :=
  { s with chips := s.chips.map fun e =>
      (e.1, { e.2 with icache := e.2.icache.map fun l =>
        if l.pa < a + n ∧ a < l.pa + 128 ∧ s.inBlock e.1 l.asid l.line = true then
          { l with images := if l.images.contains (s.lineImage l.pa) then l.images else l.images ++ [s.lineImage l.pa] }
        else l }) }

/-- A write performed: an 8-byte word of which all bytes are written loses its poison, and the words that poisoned bytes
come to stand in are poisoned (R310); the bytes written are no longer those of a dropped line. -/
def State.writeMem (s : State) (a : Nat) (bs : List (Option Byte)) (bad : List Nat) : State :=
  let written (x : Nat) : Bool := decide (a ≤ x) && (bs.getD (x - a) none).isSome
  let whole (p : Nat) : Bool := (List.range 8).all fun i => written (p * 8 + i)
  let s' : State := { s with
    mem := Cells.writeSome s.mem a bs
    past := keepPast s.mem s.past a bs
    poison := carry (s.poison.filter fun p => !whole p) a (bad.filter fun i => (bs.getD i none).isSome)
    struck := s.struck.filter fun x => !whole (x / 8)
    lost := s.lost.filter fun x => !written x }
  s'.recode a bs.length

/-- A write performed in host memory, with the offsets of its poisoned bytes: words come to be poisoned and healed there as
in this module (R309, R310). -/
def State.writeHost (s : State) (a : Nat) (bs : List (Option Byte)) (bad : List Nat) : State :=
  let written (x : Nat) : Bool := decide (a ≤ x) && (bs.getD (x - a) none).isSome
  let whole (p : Nat) : Bool := (List.range 8).all fun i => written (p * 8 + i)
  let s' : State := { s with
    hostMem := Cells.writeSome s.hostMem a bs
    hostPoison := carry (s.hostPoison.filter fun p => !whole p) a (bad.filter fun i => (bs.getD i none).isSome) }
  s'.recode (2 ^ 56 + a) bs.length

/-- The offsets of the poisoned ones of `n` bytes of host memory. -/
def State.hostBad (s : State) (a n : Nat) : List Nat := badOffsets s.hostPoison a n

/-! ## The cache directory of a home slice (R199) -/

/-- Ways that hold cached lines: not the scratch ways, those that a conversion has in hand, or those of the bins (R202). -/
def State.cacheWays (s : State) (sl : Slice) : List Nat :=
  let w := max sl.w ((sl.conv.map (·.w)).getD 0)
  (List.range 16).filter fun i => decide (i < 4 ∨ (4 + w ≤ i ∧ i < 16 - s.allot))

/-- The set of a line (DESIGN CHOICE, log entry 9). -/
def setOf (line : Nat) : Nat := line % 2048

/-- Order in which lines are given up: evict-first, normal, keep, each least recently used first (Table 8-3). -/
def CLine.rank (c : CLine) : Nat := match c.evp with | .evictFirst => 0 | .normal => 1 | .noAlloc => 1 | .keep => 2

/-- The line given up in a set. -/
def victimLine (ls : List CLine) : Option CLine :=
  ls.foldl (fun b c => match b with
    | none => some c
    | some v => if c.rank < v.rank ∨ (c.rank = v.rank ∧ c.used < v.used) then some c else some v) none

/-- A line touched with a hint; it is allocated unless the hint forbids, and the victim of a full set goes back. -/
def State.touchLine (s : State) (i line : Nat) (evp : Evp) (write : Bool) : State :=
  let sl := s.slice i
  let st := sl.stamp + 1
  if sl.lines.any (·.line == line) then
    let up (c : CLine) : CLine :=
      if c.line = line then
        (if evp = .noAlloc then { c with dirty := c.dirty || write }
         else { c with dirty := c.dirty || write, evp := evp, used := st })
      else c
    s.setSlice i { sl with lines := sl.lines.map up, stamp := st }
  else if evp = .noAlloc then s
  else
    let set := sl.lines.filter fun c => setOf c.line == setOf line
    let free := (s.cacheWays sl).filter fun w => !(set.any (·.way == w))
    match free with
    | w :: _ => s.setSlice i { sl with lines := sl.lines ++ [⟨line, w, write, evp, st⟩], stamp := st }
    | [] =>
      match victimLine set with
      | none => s
      | some v =>
        s.setSlice i { sl with
          lines := sl.lines.filter (·.line != v.line) ++ [⟨line, v.way, write, evp, st⟩], stamp := st }

/-- Does the slice hold the line? -/
def State.holdsLine (s : State) (i line : Nat) : Bool := (s.slice i).lines.any (·.line == line)

/-- The lines of `n` bytes. -/
def linesOf (a n : Nat) : List Nat := List.range' (lineOf a) (if n = 0 then 0 else lineOf (a + n - 1) + 1 - lineOf a)

/-- The lines of `n` bytes touched at their home slices; slice-scratch has no cached lines (R199, R202). -/
def State.touchLines (s : State) (a n : Nat) (write : Bool) : State :=
  if winBase ≤ a then s
  else (linesOf a n).foldl (fun s l => s.touchLine (s.homeSlice (l * 128)) l .normal write) s

/-- The host acknowledges the back-invalidation of the lines of `n` bytes, before a device write is performed there
(R234). DEDUCED, log entry 61. -/
def State.invalidateHost (s : State) (a n : Nat) : State :=
  { s with hostLines := s.hostLines.filter fun l => !(linesOf a n).contains l }

/-- The next sequence tag of a slice (R218). -/
def State.nextTag (s : State) (i : Nat) : BitVec 32 × State :=
  let sl := s.slice i
  (sl.seq + 1, s.setSlice i { sl with seq := sl.seq + 1 })

/-- A last-use read drops the line without write-back: from then on a read of a byte of it returns any value the byte has
held (R200). -/
def State.dropLine (s : State) (i line : Nat) : State :=
  let sl := s.slice i
  if sl.lines.any (·.line == line) then
    let s1 := s.setSlice i { sl with lines := sl.lines.filter (·.line != line) }
    { s1 with lost := (List.range 128).foldl (fun l k => insertNat l (line * 128 + k)) s1.lost }
  else s

/-- The lines of a range leave every cache directory without write-back (R205). -/
def State.forgetLines (s : State) (lo hi : Nat) : State :=
  { s with slices := s.slices.map fun e =>
      (e.1, { e.2 with lines := e.2.lines.filter fun c => !(decide (lo ≤ c.line * 128 ∧ c.line * 128 < hi)) }) }

/-- A range of global memory zeroed: its poison and its dropped bytes go with its contents, and the host has acknowledged
the back-invalidation of its lines (R234). DEDUCED, log entry 61. Pairs that are pending for a bound line stay pending:
DESIGN CHOICE, log entry 90. -/
def State.zeroRange (s : State) (lo hi : Nat) : State :=
  { s.forgetLines lo hi with
    hostLines := s.hostLines.filter fun l => !(decide (lo < (l + 1) * 128 ∧ l * 128 < hi))
    mem := Cells.clear s.mem lo hi
    poison := s.poison.filter fun p => !(decide (lo ≤ p * 8 ∧ p * 8 < hi))
    struck := s.struck.filter fun x => !(decide (lo ≤ x ∧ x < hi))
    past := s.past.filter fun e => !(decide (lo ≤ e.1 ∧ e.1 < hi))
    lost := s.lost.filter fun x => !(decide (lo ≤ x ∧ x < hi)) }

/-! ## Update lines: bindings, parts and applies (R241, R253) -/

/-- Element size of an operator (Table 10-2). -/
def operSize (oper : Nat) : Nat := if oper = 1 ∨ oper = 10 ∨ oper = 11 ∨ oper = 12 then 8 else if oper = 4 then 2 else 4

/-- The exact operators. -/
def operExact (oper : Nat) : Bool := oper == 3 || oper == 4

/-- The format of an operator's elements. -/
def operFmt (oper : Nat) : Fmt := if oper = 4 then .bf16 else .f32

/-- One word folded into another by Table 10-2. -/
def operFold (oper : Nat) (m p : Word) : Word :=
  let i32 (v : Word) : Int := (IntTy.mk 32 true).decode v.toNat
  let w32 (v : Nat) : Word := BitVec.ofNat 64 (v % 2 ^ 32)
  match oper with
  | 0 | 13 => w32 (m.toNat + p.toNat)
  | 1 => m + p
  | 2 => BitVec.ofNat 64 (fpAdd .f32 .rne false (m.toNat % 2 ^ 32) (p.toNat % 2 ^ 32)).1
  | 5 => if i32 m < i32 p then w32 p.toNat else w32 m.toNat
  | 6 => if i32 p < i32 m then w32 p.toNat else w32 m.toNat
  | 7 => if m.toNat % 2 ^ 32 < p.toNat % 2 ^ 32 then w32 p.toNat else w32 m.toNat
  | 8 => BitVec.ofNat 64 (fpMinMax .f32 true (m.toNat % 2 ^ 32) (p.toNat % 2 ^ 32)).1
  | 9 => BitVec.ofNat 64 (fpMinMax .f32 false (m.toNat % 2 ^ 32) (p.toNat % 2 ^ 32)).1
  | 10 => m ||| p
  | 11 => m &&& p
  | 12 => m ^^^ p
  | _ => m

/-- The value of an element as an operand of the exact operators. -/
def operVal (oper : Nat) (v : Word) : FVal := (operFmt oper).decode (v.toNat % 2 ^ (operFmt oper).width)

/-- The first pair to an element sets its accumulator (R246). -/
def accFirst (oper : Nat) (v : Word) : EAcc :=
  if operExact oper then .xa (XA.zero.add (operVal oper v))
  else if oper = 13 then .word 1
  else .word (BitVec.ofNat 64 (v.toNat % 2 ^ (8 * operSize oper)))

/-- A further pair reduced into an accumulator. -/
def accAdd (oper : Nat) (a : EAcc) (v : Word) : EAcc :=
  match a with
  | .xa x => .xa (x.add (operVal oper v))
  | .word w => if oper = 13 then .word (BitVec.ofNat 64 ((w.toNat + 1) % 2 ^ 32)) else .word (operFold oper w v)

/-- The apply of one element with memory value m over its parts, oldest first (R253). -/
def applyElem (oper : Nat) (m : Word) (parts : List EAcc) : Word :=
  if operExact oper then
    let x := parts.foldl (fun x p => match p with | .xa y => x.join y | .word _ => x) (XA.zero.add (operVal oper m))
    BitVec.ofNat 64 (x.round (operFmt oper))
  else parts.foldl (fun m p => match p with | .word w => operFold oper m w | .xa _ => m) m

/-- The active binding that holds an address. -/
def State.bindingAt (s : State) (pa : Nat) : Option (Nat × Binding) :=
  s.bindings.find? fun b => decide (b.2.base ≤ pa ∧ pa < b.2.base + b.2.length)

/-- The parts of a line in a unit: live run records in run order, then the bin. -/
def Eddy.parts (e : Eddy) (bid line : Nat) : List Bin :=
  (e.runs.filter (·.bid == bid)).flatMap (fun r => r.recs.filter (·.line == line))
    ++ e.bins.filter fun b => b.bid == bid && b.line == line

/-- A pair reduced into a bin (R246). -/
def Bin.reduce (oper : Nat) (b : Bin) (pa : Nat) (v : Word) : Bin :=
  let i := pa % 128 / operSize oper
  { b with
    accs := SMap.set b.accs i (match SMap.find b.accs i with | none => accFirst oper v | some a => accAdd oper a v)
    pairs := b.pairs + 1 }

/-- The pairs of a line that are accepted and not yet sorted, oldest first, as one more part (R251, R252). -/
def Eddy.unsorted (e : Eddy) (bid line oper : Nat) : List Bin :=
  let ps := e.waiting.flatten.filter fun p => p.bid == bid && lineOf p.pa == line
  if ps.isEmpty then []
  else
    let b0 : Bin := (e.bins.find? fun b => b.bid == bid && b.line == line).getD ⟨bid, line, [], 0, 0, false⟩
    [ps.foldl (fun b p => b.reduce oper p.pa p.value) b0]

/-- The parts an apply of a line folds in: its live run records, then its bin with what is not yet sorted (R253). -/
def Eddy.partsOf (e : Eddy) (bid line oper : Nat) : List Bin :=
  match e.unsorted bid line oper with
  | [] => e.parts bid line
  | l => (e.runs.filter (·.bid == bid)).flatMap (fun r => r.recs.filter (·.line == line)) ++ l

/-- The unit without the run records and the bin of a line; a run with no live record leaves the directory. -/
def Eddy.cleared (e : Eddy) (bid line : Nat) : Eddy :=
  { e with
    bins := e.bins.filter fun b => !(b.bid == bid && b.line == line)
    runs := (e.runs.map fun r =>
      if r.bid == bid then { r with recs := r.recs.filter (·.line != line) } else r).filter fun r => !r.recs.isEmpty }

/-- The unit without any pair of a line, those not yet sorted among them. -/
def Eddy.without (e : Eddy) (bid line : Nat) : Eddy :=
  { e.cleared bid line with
    waiting := e.waiting.map fun l => l.filter fun p => !(p.bid == bid && lineOf p.pa == line) }

/-- One element of a line applied: its memory, and its own poison where a part of it was struck (R253, R257) or its word in
memory was poisoned already (DEDUCED, log entry 54). -/
def State.applyOne (s : State) (oper line i : Nat) (parts : List Bin) : State :=
  let es := operSize oper
  let a := line * 128 + i * es
  let accs := parts.filterMap fun b => SMap.find b.accs i
  if accs.isEmpty then s
  else
    let (bs, s1) := s.readRaw a es
    let r := applyElem oper (wordOf bs) accs
    let s2 := s1.writeMem a ((bytesOf es r.toNat).map some) []
    if (parts.any fun b => b.bad && SMap.has b.accs i) || !(s.badAt a es).isEmpty then
      { s2 with struck := (List.range es).foldl (fun l k => insertNat l (a + k)) s2.struck }
    else s2

/-- The parts of a line folded into its elements (R253). -/
def State.applyParts (s : State) (oper line : Nat) (parts : List Bin) : State :=
  (List.range (128 / operSize oper)).foldl (fun s i => s.applyOne oper line i parts)
    ((s.invalidateHost (line * 128) 128).touchLines (line * 128) 128 true)

/-- The line of a binding applied: one step in its performance order, which takes no tag (R218, R251, R253). -/
def State.applyLine (s : State) (line : Nat) : State :=
  match s.bindingAt (line * 128) with
  | none => s
  | some (bid, b) =>
    let m := s.homeChiplet (line * 128)
    let e := s.eddy m
    let parts := e.partsOf bid line b.oper
    if parts.isEmpty then s
    else
      let s1 := s.applyParts b.oper line parts
      s1.setEddy m ((s1.eddy m).without bid line)

/-- Every line that `n` bytes touch applied. -/
def State.applyLines (s : State) (a n : Nat) : State :=
  (linesOf a n).foldl State.applyLine s

/-- `n` bytes read at their home slice, pending updates applied first, with the offsets of the poisoned ones. -/
def State.readMem (s : State) (a n : Nat) : List Byte × List Nat × State :=
  let s1 := s.applyLines a n
  let (bs, s2) := s1.readRaw a n
  (bs, s2.badAt a n, s2)

/-- A read by an agent of the module at the home slices of its lines, which allocates (R199). -/
def State.fetch (s : State) (a n : Nat) : List Byte × List Nat × State :=
  let (bs, bad, s1) := s.readMem a n
  (bs, bad, s1.touchLines a n false)

/-- A write by an agent of the module at the home slices of its lines: pending updates applied first, the host's copies
gone, one sequence tag taken for each line (R199, R218, R234, R252). -/
def State.store (s : State) (a : Nat) (bs : List Byte) : State :=
  let n := bs.length
  let s1 := (((s.applyLines a n).invalidateHost a n).writeMem a (bs.map some) []).touchLines a n true
  (linesOf a n).foldl (fun s l => (s.nextTag (s.homeSlice (l * 128))).2) s1

/-- read_phys64 (Table 4-30). -/
def State.readPhys64 (s : State) (a : Nat) : Word × State :=
  let (bs, _, s1) := s.fetch a 8
  (wordOf bs, s1)

/-- `n` words from a physical address. -/
def State.readWords (s : State) (a n : Nat) : List Word × State :=
  let (bs, _, s1) := s.fetch a (8 * n)
  (wordsOfBytes n bs, s1)

/-- A word of memory as the tables hold it, with nothing applied: a byte of a line that a last-use read dropped reads with
its present value here (DESIGN CHOICE, log entry 3). -/
def State.peek64 (s : State) (a : Nat) : Word := wordOf (Cells.read s.mem a 8)

/-! ## The table walk (R206-R211) -/

/-- How a walk ends. -/
inductive Walk where
  | leaf (t : Tlb)
  /-- translation fault with KIND and LEVEL of Table 8-6 -/
  | fault (kind level : Nat)
  | perm
  /-- ZS = 1: the entry to be zeroed -/
  | zero (z : Zeroing)
  /-- ZS = 2 on an entry that a walker has in hand -/
  | wait (z : Zeroing)
  deriving DecidableEq, Repr

/-- Shift of the page at a level (Table 8-4). -/
def levelShift (level : Nat) : Nat := match level with | 1 => 39 | 2 => 30 | 3 => 21 | _ => 16

/-- Entries of a table at a level. -/
def levelEntries (level : Nat) : Nat := match level with | 1 => 8192 | 2 => 512 | 3 => 512 | _ => 32

/-- Size and alignment of a table at a level. -/
def levelBytes (level : Nat) : Nat := 8 * levelEntries level

/-- Does a page of a leaf meet the address-space-table area of a module: with TYPE 1 in any of its replicas, with TYPE 3 in
the module it names, but not in host memory (R196, Table 8-2)? -/
def inTableArea (type : Nat) (h : Bool) (pa size : Nat) : Bool :=
  let meets (a : Nat) : Bool := decide (a % 2 ^ 48 < hbmEnd ∧ asTable < a % 2 ^ 48 + size)
  if type = 3 ∧ h = true then false
  else if type = 1 then (List.range 4).any fun b => meets (replicaIn pa b)
  else meets pa

/-- The checks of a leaf (R209) in the order malformed, zero state, then the permissions of the table area, W and SUP, so
that a page is zeroed before an access that it does not permit. A page that meets the address-space-table area at all is
refused without SUP = 1 (Table 8-2). DEDUCED, log entry 62. -/
def State.walkLeaf (s : State) (asid va level entry : Nat) (w : Word) : Walk :=
  let size := 2 ^ levelShift level
  let type := field w 61 60
  let zs := field w 59 58
  let pa := field w 55 16 * 65536
  let h := bitAt w 15
  let hi := pa / 2 ^ 48
  let malformed :=
    decide (level = 1) || field w 14 0 != 0 || pa % size != 0 || zs == 3
      || (type == 3 && zs != 0) || (type != 3 && (h || hi != 0)) || (type == 3 && h && pa / 2 ^ 52 != 0)
      || (type == 1 && !(inHbm pa size && s.basinMode pa))
      || (type == 2 && !(decide (winBase ≤ pa ∧ pa + size ≤ winEnd)))
      || (zs == 2 && !(s.zeroing.any (·.entry == entry)))
  if malformed then .fault 1 (level - 1)
  else if zs == 2 then .wait ⟨entry, w, pa, size, type, [(asid, va / size * size)]⟩
  else if zs == 1 then .zero ⟨entry, w, pa, size, type, [(asid, va / size * size)]⟩
  else if !(bitAt w 56) && inTableArea type h pa size then .perm
  else .leaf ⟨asid, va / size * size, size, pa, type, bitAt w 57, bitAt w 56, h⟩

/-- The walk from a table at a level, with fuel for the levels left. -/
def State.walkFrom (s : State) (asid va : Nat) : Nat → Nat → Nat → Walk
  | 0, _, _ => .fault 1 3
  | fuel + 1, level, table =>
    let entry := table + 8 * (va / 2 ^ levelShift level % levelEntries level)
    let w := s.peek64 entry
    if !(bitAt w 63) then .fault 0 (level - 1)
    else if bitAt w 62 then s.walkLeaf asid va level entry w
    else
      let next := field w 47 8 * 256
      if level = 4 ∨ field w 61 48 ≠ 0 ∨ field w 7 0 ≠ 0 ∨ next % levelBytes (level + 1) ≠ 0
          ∨ s.inDram next (levelBytes (level + 1)) = false then .fault 1 (level - 1)
      else s.walkFrom asid va fuel (level + 1) next

/-- A walk of an address in an address space; an address beyond 52 bits raises the permission fault (R206). -/
def State.walk (s : State) (asid va : Nat) : Walk :=
  let w := s.peek64 (asTable + 8 * asid)
  let root := field w 47 16 * 65536
  if 2 ^ 52 ≤ va then .perm
  else if asid = 0 ∨ 65535 < asid ∨ bitAt w 63 = false then .fault 2 0
  else if field w 62 48 ≠ 0 ∨ field w 15 0 ≠ 0 ∨ s.inDram root 65536 = false then .fault 3 0
  else s.walkFrom asid va 4 1 root

/-- The entries that a walk reads from a table at a level. -/
def State.walkPath (s : State) (va : Nat) : Nat → Nat → Nat → List Nat
  | 0, _, _ => []
  | fuel + 1, level, table =>
    let entry := table + 8 * (va / 2 ^ levelShift level % levelEntries level)
    let w := s.peek64 entry
    if bitAt w 63 && !bitAt w 62 then entry :: s.walkPath va fuel (level + 1) (field w 47 8 * 256) else [entry]

/-- The lines of the entries that a walk reads are touched at their home slices (R199). -/
def State.touchWalk (s : State) (asid va : Nat) : State :=
  let at_ := asTable + 8 * asid
  let root := field (s.peek64 at_) 47 16 * 65536
  (at_ :: (if bitAt (s.peek64 at_) 63 then s.walkPath va 4 1 root else [])).foldl (fun s a => s.touchLines a 8 false) s

/-- The page's entry goes from ZS = 1 to ZS = 2 by an atomic at its home slice, and its zeroing begins (R205). -/
def State.beginZeroing (s : State) (z : Zeroing) : State :=
  let w := (z.leaf &&& ~~~ (place 3 58)) ||| place 2 58
  { s.store z.entry (bytesOf 8 w.toNat) with zeroing := s.zeroing ++ [{ z with leaf := w }] }

/-- A walk that found ZS = 2 on a recorded entry waits with those that wait for it already (R205, R396). -/
def State.joinWalk (s : State) (z : Zeroing) : State :=
  { s with zeroing := s.zeroing.map fun y =>
      if y.entry = z.entry then { y with walks := y.walks ++ z.walks.filter fun w => !y.walks.contains w } else y }

/-- A walk that reached a page to be zeroed begins its zeroing, or waits for the end of the one begun; the access waits
(R205). -/
def State.awaitPage (s : State) (z : Option Zeroing) : State :=
  match z with
  | some z => if field z.leaf 59 58 = 2 then s.joinWalk z else s.beginZeroing z
  | none => s

/-- Does a cached translation cover an address? -/
def Tlb.covers (t : Tlb) (asid va : Nat) : Bool := t.asid == asid && decide (t.va ≤ va ∧ va < t.va + t.size)

/-- The translation a core has cached, or its chiplet (R210). -/
def State.cached (s : State) (core asid va : Nat) : Option Tlb :=
  match (s.core core).tlb.find? (·.covers asid va) with
  | some t => some t
  | none => (s.chip (chipOf core)).tlb.find? (·.covers asid va)

/-- The translation a core uses: cached, or from a walk. -/
def State.lookup (s : State) (core asid va : Nat) : Walk :=
  match s.cached core asid va with
  | some t => .leaf t
  | none => s.walk asid va

/-- A translation put into a core's cache of 64 and its chiplet's table of 16,384; from a full one the oldest entered
leaves (DESIGN CHOICE, log entry 9). -/
def State.cacheTlb (s : State) (core : Nat) (t : Tlb) : State :=
  let keep (n : Nat) (l : List Tlb) : List Tlb := if l.contains t then l else (t :: l).take n
  let s1 := s.onCore core fun c => { c with tlb := keep 64 c.tlb }
  let k := s1.chip (chipOf core)
  s1.setChip (chipOf core) { k with tlb := keep 16384 k.tlb }

/-- The physical address of a translated address. -/
def Tlb.phys (t : Tlb) (va : Nat) : Nat := t.pa + (va - t.va)

/-- Does a leaf permit an access (R209)? -/
def Tlb.permits (t : Tlb) (write priv : Bool) : Bool := (!write || t.w) && (!t.sup || priv)

/-! ## Where an access goes (R196, R202, R203, R236, R319) -/

/-- Where a translated access goes: an agent, the physical address there, and how its page is mapped. -/
inductive Route where
  | to (dst : Agent) (pa : Nat) (sp : Space)
  | perm
  /-- no valid route toward the module (R319) -/
  | noRoute
  deriving DecidableEq, Repr

/-- A local physical address: a slice-scratch window, or memory; anything else raises the permission fault (R196). -/
def State.localRoute (s : State) (pa : Nat) (sp : Space) : Route :=
  if winBase ≤ pa ∧ pa < winEnd then .to (.slice (s.homeSlice pa)) pa .scratch
  else if s.inDram pa 1 then .to (.slice (s.homeSlice pa)) pa sp
  else .perm

/-- The route of an access by a core through a leaf (R196, R203, R236, R319). -/
def State.routeOf (s : State) (core : Nat) (t : Tlb) (va : Nat) (write : Bool) : Route :=
  let pa := t.phys va
  if t.type = 3 then
    if t.host then .to .host pa .wb
    else
      let m := pa / 2 ^ 48 % 256
      if m = s.brielo.number then s.localRoute (pa % 2 ^ 48) .wb
      else if SMap.has s.brielo.routes m then .to (.peer m) (pa % 2 ^ 48) .wb
      else .noRoute
  else if t.type = 1 then s.localRoute (if write then pa else replicaIn pa (basinOf core)) .replicated
  else s.localRoute pa .wb

/-- The address by which overlapping accesses of one threadlet are told, one for every name of a byte: its address in this
module, by whichever leaf, or an address of host memory above 2^56 or of another module above 2^57 (R196, R220, R230). A
logical access to a replicated page stands at its primary, whichever replica serves it; an access to another replica
through a leaf of its own does not overlap it. DESIGN CHOICE, log entry 83. -/
def State.placeAt (s : State) (t : Tlb) (va : Nat) : Nat :=
  let pa := t.phys va
  if t.type ≠ 3 then pa
  else if t.host then 2 ^ 56 + pa
  else if pa / 2 ^ 48 % 256 = s.brielo.number then pa % 2 ^ 48
  else 2 ^ 57 + pa

/-- May the bytes of a window be accessed: `some true`; beyond w ways: `some false`, the permission fault; in ways that a
conversion has in hand: none, the access waits (R202, R416). -/
def State.windowOk (s : State) (pa : Nat) : Option Bool :=
  let (i, o) := windowOf pa
  let sl := s.slice i
  if o < sl.w * 0x40000 then some true
  else
    match sl.conv with
    | some c => if o < c.w * 0x40000 then none else some false
    | none => some false

end Sys2Proof.Machine
end

