-- ==== Sys2Proof/Machine/Ops.lean ====
section
/-! DEFINITION. The named operations over a core: regions and fault domains, fault records, local memory, the ready
queue and its overflow segment, frames, the slot unit, and taking a fault (Held), parking, aborting and resuming
(R34-R64, R79-R86, R193-R195, R288, R289, R296-R303, R315, R419). -/

namespace Sys2Proof.Machine

open Sys2Proof

/-! ## Regions (R34-R38, R104, R195, R300, R307) -/

/-- An active region by its identifier. -/
def State.region (s : State) (r : Nat) : Option Region := SMap.find s.regions r

/-- A region changed, where it is active. -/
def State.onRegion (s : State) (r : Nat) (f : Region → Region) : State :=
  match s.region r with
  | none => s
  | some g => { s with regions := SMap.set s.regions r (f g) }

/-- The active region whose RCB stands at an address. -/
def State.regionOfRcb (s : State) (rcb : Nat) : Option Nat := (s.regions.find? fun e => e.2.rcb == rcb).map (·.1)

/-- The regions from one up to the device region, itself first (R34: at most eight levels). -/
def State.ancestry (s : State) : Nat → Nat → List Nat
  | 0, _ => []
  | fuel + 1, r =>
    match s.region r with
    | none => []
    | some g => r :: (if g.parent = 0 then [] else s.ancestry fuel g.parent)

/-- Is the region suspended: its own SUSP bit or an ancestor's (R307)? -/
def State.suspended (s : State) (r : Nat) : Bool :=
  (s.ancestry 8 r).any fun a => ((s.region a).map (·.susp)).getD false

/-- Are the region's engine commands set aside: it is suspended, and no CFG waits for them (R142, R169, R258)? -/
def State.setAside (s : State) (r : Nat) : Bool :=
  s.suspended r && !(s.service.ops.take 1).any (·.drain.contains r)

/-- The tenant: the level-2 ancestor, or the region itself at level 2; 0 for the device region (R195). -/
def State.tenantOf (s : State) (r : Nat) : Nat := ((s.ancestry 8 r).reverse.getD 1 0)

/-- The fault domain of a region, when its FAULTRCB names an active one (R300). -/
def State.domainOf (s : State) (r : Nat) : Option Nat := (s.region r).bind fun g => s.regionOfRcb g.faultrcb

/-- May a region run privileged blocks (R104)? -/
def State.mayBePriv (s : State) (r : Nat) : Bool :=
  r == 1 || ((s.region r).map fun g => s.regions.any fun e => e.2.faultrcb == g.rcb).getD false

/-- The bytes of the frame store: the device region's effective FSTORE (R37, Table 8-1). -/
def State.fstore (s : State) : Nat := ((s.region 1).map (·.fstore)).getD s.flash.fstore * 65536

/-- CODEBASE of a region. -/
def State.codebase (s : State) (r : Nat) : Nat := ((s.region r).map (·.codebase)).getD 0

/-- ASID of a region. -/
def State.asid (s : State) (r : Nat) : Nat := ((s.region r).map (·.asid)).getD 0

/-- Effective DEBUG of a region. -/
def State.debugOf (s : State) (r : Nat) : Nat := ((s.region r).map (·.debug)).getD 1

/-- Effective rounding mode of a region. -/
def State.rmodeOf (s : State) (r : Nat) : RMode := ((s.region r).map (·.rmode)).getD .rne

/-- 16 × RQW: the quantum of a region (R289). -/
def State.quantum (s : State) (r : Nat) : Int := 16 * ((s.region r).map fun g => (g.rqw : Int)).getD 0

/-- Progress of a region counted by its monitor (R296). -/
def State.progress (s : State) (r : Nat) : State := s.onRegion r fun g => { g with progress := g.progress + 1 }

/-- Every core that has been touched changed. -/
def State.onCores (s : State) (f : Nat → State → State) : State := (s.cores.map (·.1)).foldl (fun s n => f n s) s

/-- A region is suspended: its SUSP bit set, its window not judged (R296, R307). -/
def State.suspend (s : State) (r : Nat) : State := s.onRegion r fun g => { g with susp := true, winSusp := true }

/-- A packet that a core injects on a region's behalf: its flits are progress (R296). -/
def State.inject (s : State) (core region : Nat) (cls : PClass) (dst : Agent) (b : PBody) : State :=
  (s.send ⟨cls, .core core, dst, region, b⟩).progress region

/-! ## Fault records (R299-R302, Table 13-2) -/

/-- What a fault record says, beside the fields that every record takes from the state. -/
structure Rec where
  code   : Nat
  src    : Nat
  region : Nat
  fid    : Nat
  slot   : Nat
  loc    : Agent
  /-- block and index of the faulting instruction -/
  at_    : Option (Nat × Nat)
  addr   : Nat
  detail : Word
  token  : Word
  iter   : Option Nat
  /-- TIME when the fault was detected, where that is not now -/
  time   : Option Nat := none
  deriving DecidableEq, Repr

/-- A record that names no instruction. -/
def Rec.plain (code src region : Nat) (loc : Agent) : Rec :=
  { code := code, src := src, region := region, fid := 0, slot := 0, loc := loc, at_ := none, addr := 0, detail := 0,
    token := 0, iter := none }

/-- A record of the work of an origin. -/
def Rec.of (code src : Nat) (loc : Agent) (o : Origin) (addr : Nat) (detail : Word) : Rec :=
  { code := code, src := src, region := o.region, fid := o.fid, slot := 0, loc := loc, at_ := some (o.block, o.index),
    addr := addr, detail := detail, token := 0, iter := o.iter }

/-- BLOCK: block address ÷ 16 relative to the code base. -/
def State.blockField (s : State) (region block : Nat) : Nat :=
  ((block + (2 ^ 64 - s.codebase region)) % 2 ^ 64) / 16 % 2 ^ 28

/-- The eight words of a record. -/
def State.recordWords (s : State) (r : Rec) : List Word :=
  [ place r.code 56 ||| place r.src 52 ||| place (r.region % 65536) 32 ||| place (r.fid % 65536) 16
      ||| place (r.slot % 4096) 0,
    locWord s.brielo.number r.loc,
    (match r.at_ with
     | none => 0
     | some (b, i) => place (s.blockField r.region b) 32 ||| place (i % 256) 0),
    BitVec.ofNat 64 r.addr,
    r.detail,
    r.token,
    (match r.at_, r.iter with
     | some _, some i => BitVec.ofNat 64 i
     | some _, none => BitVec.allOnes 64
     | none, _ => 0),
    BitVec.ofNat 64 (r.time.getD s.time) ]

/-- SRC of a record replaced. -/
def withSrc (ws : List Word) (src : Nat) : List Word :=
  match ws with
  | [] => []
  | w :: ws => ((w &&& ~~~ (place 15 52)) ||| place src 52) :: ws

/-- An undeliverable record: to the service core with SRC = 7, and the faulting region is frozen (R302). -/
def State.undeliverable (s : State) (region : Nat) (loc : Agent) (ws : List Word) : State :=
  (s.send ⟨.sig, loc, .service, region, .record 1 0 (withSrc ws 7)⟩).suspend region

/-- A record on its way to the fault domain of a region (R300-R302). -/
def State.sendRecord (s : State) (domainOf : Nat) (r : Rec) : State :=
  let ws := s.recordWords r
  match s.domainOf domainOf with
  | none => s.undeliverable domainOf r.loc ws
  | some d =>
    if d = 1 then s.send ⟨.sig, r.loc, .service, d, .record d 0 ws⟩
    else
      match s.region d with
      | none => s.undeliverable domainOf r.loc ws
      | some g =>
        let core := field g.faulth 38 28
        if field g.faulth 63 39 ≠ 0 ∨ g.coreset.getLsbD core = false then s.undeliverable domainOf r.loc ws
        else s.send ⟨.sig, r.loc, .core core, domainOf, .record d (field g.faulth 27 0) ws⟩

/-- A trace record of a threadlet event, while the region's DEBUG is 2 or above (R315). -/
def State.trace (s : State) (core region fid ev : Nat) : State :=
  if s.debugOf region ≥ 2 then
    s.inject core region .sig .tracer (.trace (place ev 61 ||| place fid 16 ||| place core 0) (BitVec.ofNat 64 s.time))
  else s

/-! ## Symbols and forms (R66-R70) -/

/-- The symbol a register's content stands over. -/
def RVal.symbol : RVal → Option Nat
  | .known _ => none
  | .form i _ _ => some i
  | .chain i _ => some i

/-- The symbols of a list of contents, each once. -/
def symbolsOf (vs : List RVal) : List Nat := (vs.filterMap RVal.symbol).foldl insertNat []

/-- The symbols a pool entry depends on. -/
def PoolEntry.symbols (e : PoolEntry) : List Nat :=
  match e.kind with
  | .effect _ ops => symbolsOf ops
  | .address _ _ _ a => symbolsOf [a]
  | .saved _ v => symbolsOf [v]

/-- Is the entry a deferred effect or a late load still to be issued, and not a saved register? Table 3-2 lists LDL over
a form among the deferred effects, so it counts for the parks and conditions of R82, R222 and R223 (DEDUCED, log
entry 67). -/
def PoolEntry.isEffect (e : PoolEntry) : Bool :=
  match e.kind with
  | .effect .. => true
  | .address .. => true
  | .saved .. => false

/-- Resolved symbols whose last dependant has been handled become Free (Table 3-1). -/
def Core.freeSyms (c : Core) : Core :=
  let used (i : Nat) : Bool := c.pool.any fun e => e.2.symbols.contains i
  { c with syms := c.syms.filter fun e =>
      match e.2.st with
      | .pending | .awaiting | .failed .. => true
      | .resolving _ => used e.1 || (c.run.map fun r => r.x.any fun v => v.2.symbol == some e.1).getD false }

/-- The deferred effects and saved forms of a threadlet discarded (R84). -/
def Core.discard (c : Core) (tid : Nat) : Core :=
  let gone (e : PoolEntry) : Bool := e.org.tid == tid
  let await := c.pool.filterMap fun e => match e.2.kind with
    | .address i _ _ _ => if gone e.2 then i else none
    | _ => none
  Core.freeSyms { c with
    pool := c.pool.filter fun e => !gone e.2
    syms := c.syms.filter fun e => !(await.contains e.1) }

/-- A recorded step replayed on the value of its symbolic operand: the result, and the flags it raises (R69, R77). -/
def ChainStep.replay (st : ChainStep) (r : Word) : Nat × BitVec 8 :=
  let f : Fmt := if st.dbl then .f64 else .f32
  let arg (w : Word) : Nat := w.toNat % 2 ^ f.width
  let ops : Word × Word × Word :=
    match st.pos with | 0 => (r, st.k1, st.k2) | 1 => (st.k1, r, st.k2) | _ => (st.k1, st.k2, r)
  match st.op with
  | .add => fpAdd f st.rm st.sat (arg ops.1) (arg ops.2.1)
  | .sub => fpSub f st.rm st.sat (arg ops.1) (arg ops.2.1)
  | .mul => fpMul f st.rm st.sat (arg ops.1) (arg ops.2.1)
  | .fma => fpFma f st.rm st.sat (arg ops.1) (arg ops.2.1) (arg ops.2.2)

/-- A form with its symbol given a value (R75). Flags of a replay are returned with it. -/
def RVal.resolve (v : RVal) (sym : Nat) (x : Word) : Word × BitVec 8 :=
  match v with
  | .known w => (w, 0)
  | .form _ a b => (a * x + b, 0)
  | .chain i steps =>
    if i = sym then
      steps.foldl (fun (acc : Word × BitVec 8) st =>
        (BitVec.ofNat 64 (st.replay acc.1).1, acc.2 ||| (st.replay acc.1).2)) (x, 0)
    else (x, 0)

/-- The steps of a replay that raise flags, in their order, with the flags of each (R77). -/
def RVal.raised (v : RVal) (x : Word) : List (ChainStep × BitVec 8) :=
  match v with
  | .known _ => []
  | .form .. => []
  | .chain _ steps =>
    (steps.foldl (fun (acc : Word × List (ChainStep × BitVec 8)) st =>
      let res := st.replay acc.1
      (BitVec.ofNat 64 res.1, if res.2 = 0 then acc.2 else acc.2 ++ [(st, res.2)])) (x, [])).2

/-! ## Local memory (R193-R195, Table 8-1) -/

/-- Words of a frame of a class (R39). -/
def frameWords (cls : Nat) : Nat := 32 * 2 ^ cls

/-- Bytes of a frame. -/
def Frame.bytes (f : Frame) : Nat := 256 * 2 ^ f.cls

/-- Does a frame's store cover an address? -/
def Frame.holds (f : Frame) (a n : Nat) : Bool := decide (f.base ≤ a ∧ a + n ≤ f.base + f.bytes)

/-- Frame `fid` of a core. -/
def Core.frame (c : Core) (fid : Nat) : Option Frame := SMap.find c.frames fid

/-- A frame changed. -/
def Core.onFrame (c : Core) (fid : Nat) (f : Frame → Frame) : Core :=
  match c.frame fid with
  | none => c
  | some x => { c with frames := SMap.set c.frames fid (f x) }

/-- An access of `n` bytes is permitted: wholly in local memory; in the frame store, wholly in the named frame; and a
write below no header (R41, R194). -/
def State.localOk (s : State) (core fid a n : Nat) (write : Bool) : Bool :=
  if n = 0 then true
  else if localEnd < a + n then false
  else if s.fstore ≤ a then true
  else
    match (s.core core).frame fid with
    | none => false
    | some f => f.st == .resident && f.holds a n && (!write || decide (f.base + 32 ≤ a))

/-- Slot words that a write covers are no longer as SLOTI armed them (R296). DEDUCED, log entry 30. -/
def Core.disarm (c : Core) (a n : Nat) : Core :=
  { c with frames := c.frames.map fun e =>
      if e.2.st = .resident ∧ e.2.base < a + n ∧ a < e.2.base + e.2.bytes then
        (e.1, { e.2 with armed := e.2.armed.filter fun i =>
          !(decide (e.2.base + 8 * i < a + n ∧ a < e.2.base + 8 * i + 8)) })
      else e }

/-- Bytes written to local memory: poison is cleared from whole words, and the words that poisoned bytes come to stand in,
by their offsets, are poisoned (R310). -/
def Core.put (c : Core) (a : Nat) (bs : List Byte) (bad : List Nat) : Core :=
  { c.disarm a bs.length with
    lmem := Cells.write c.lmem a bs
    lpoison := carry (heal c.lpoison a bs.length) a bad }

/-- A word of local memory. -/
def Core.word (c : Core) (a : Nat) : Word := wordOf (Cells.read c.lmem a 8)

/-- A word written by the core itself: headers, slot words, park areas. -/
def Core.putWord (c : Core) (a : Nat) (w : Word) : Core :=
  { c with lmem := Cells.write c.lmem a (bytesOf 8 w.toNat), lpoison := heal c.lpoison a 8 }

/-- Words written one after the other. -/
def Core.putWords (c : Core) (a : Nat) : List Word → Core
  | [] => c
  | w :: ws => Core.putWords (c.putWord a w) (a + 8) ws

/-- A frame marked used (R42). -/
def Core.touch (c : Core) (fid : Nat) : Core :=
  { c.onFrame fid (fun f => { f with used := c.stamp + 1 }) with stamp := c.stamp + 1 }

/-! ## The ready queue (R62-R64, R288, R289) -/

/-- A region joins a level's list at its tail with a full deficit (R289). -/
def Drr.join (d : Drr) (r : Nat) (q : Int) : Drr :=
  if d.list.any (·.1 == r) then d
  else { list := d.list ++ [(r, q)], cur := match d.cur with | some c => some c | none => some r }

/-- A region of a list raised by its quantum, no further than the quantum. -/
def Drr.raise (d : Drr) (r : Nat) (q : Int) : Drr :=
  { d with list := d.list.map fun e => if e.1 = r then (r, min (e.2 + q) q) else e }

/-- The region after another in the circular list. -/
def Drr.next (d : Drr) (r : Nat) : Option Nat :=
  let i := d.list.findIdx (·.1 == r)
  (d.list[(i + 1) % d.list.length]?).map (·.1)

/-- A region leaves a level's list; if it was current, the next one is, raised when it is eligible. -/
def Drr.leave (d : Drr) (r : Nat) (eligible : Nat → Bool) (q : Nat → Int) : Drr :=
  if d.list.any (·.1 == r) then
    let rest := d.list.filter (·.1 != r)
    if d.cur = some r then
      match d.next r with
      | some g =>
        if g = r then { list := rest, cur := none }
        else
          let d' : Drr := { list := rest, cur := some g }
          if eligible g then d'.raise g (q g) else d'
      | none => { list := rest, cur := none }
    else { d with list := rest }
  else d

/-- The grants of a region's budgets on a core for a period (Table 12-6). -/
def Region.grants (g : Region) : Budget := ⟨16 * g.cycbud, 16 * g.tilebud, g.copybud⟩

/-- The cycle counter of a region on a core is positive, or its budget unlimited (R292). -/
def State.hasCycles (s : State) (core r : Nat) : Bool :=
  match s.region r with
  | none => false
  | some g => g.cycbud == 0xFFFF || decide (0 < (SMap.get (s.core core).budgets r g.grants).cyc)

/-- Is a region eligible on a core (R289)? -/
def State.eligible (s : State) (core r : Nat) : Bool := !s.suspended r && s.hasCycles core r

/-- The lists of the levels brought in step with the entries: regions without an entry leave, others join. -/
def State.syncDrr (s : State) (core : Nat) : State :=
  let c := s.core core
  let level (l : Nat) : Drr :=
    let d := SMap.get c.drr l Drr.init
    let d1 := d.list.foldl (fun d e =>
      if c.ready.any fun x => x.lvl == l && x.region == e.1 then d
      else d.leave e.1 (s.eligible core) s.quantum) d
    c.ready.foldl (fun d x => if x.lvl = l then d.join x.region (s.quantum x.region) else d) d1
  s.setCore core { c with drr := (List.range 4).map fun l => (l, level l) }

/-- Levels raised by one for every 2,000 ns of waiting (R288). -/
def State.ageEntries (s : State) (core : Nat) : State :=
  (s.onCore core fun c => { c with ready := c.ready.map fun e =>
    { e with lvl := min 3 (e.level + (s.time - e.pushed) / 2000) } }).syncDrr core

/-- Entries of an overflow segment (R64). -/
def Region.segEntries (g : Region) : Nat := 2 ^ (g.ovs + 4)

/-- Number of cores of a set below core `n`. -/
def coresBelow (set : BitVec 2048) (n : Nat) : Nat := ((List.range n).filter fun i => set.getLsbD i).length

/-- The address of a core's overflow segment: regions that share RQOVF share it, so its place follows from the core set
of the region that supplies RQOVF. DEDUCED, log entry 63. -/
def Region.segment (g : Region) (core : Nat) : Nat := g.rqovf + coresBelow g.rqset core * 128 * (g.segEntries + 1)

/-- An overflow entry of 16 words (Table 2-11). -/
def overflowWords (kind level region fid slot time handler : Nat) (data : Word) (body : List Word) : List Word :=
  [place kind 60 ||| place level 58 ||| place region 32 ||| place fid 16 ||| place slot 0, BitVec.ofNat 64 time,
   BitVec.ofNat 64 handler, data] ++ padWords 8 body ++ List.replicate 4 0

/-- Are the reserved fields of a segment's header zero (Table 2-10)? -/
def State.segmentOk (s : State) (g : Region) (core : Nat) : Bool :=
  let a := g.segment core
  field (s.peek64 a) 63 32 == 0 && field (s.peek64 (a + 8)) 63 32 == 0
    && (Cells.read s.mem (a + 16) 112).all (· == 0)

/-- Is a region's segment on a core full? One whose header has a nonzero reserved field takes no entry (R6; DEDUCED, log
entry 78). -/
def State.segmentFull (s : State) (g : Region) (core : Nat) : Bool :=
  let a := g.segment core
  !s.segmentOk g core || decide ((field (s.peek64 (a + 8)) 31 0 + (2 ^ 32 - field (s.peek64 a) 31 0)) % 2 ^ 32 = g.segEntries)

/-- An entry appended to a region's segment on a core. -/
def State.segmentAppend (s : State) (g : Region) (core : Nat) (ws : List Word) : State :=
  let a := g.segment core
  let tail := field (s.peek64 (a + 8)) 31 0
  let s1 := s.store (a + 128 * (1 + tail % g.segEntries)) (bytesOfWords ws)
  s1.store (a + 8) (bytesOf 8 ((tail + 1) % 2 ^ 32))

/-- Has the ready queue or the region's segment room for one more entry? -/
def State.canPush (s : State) (core region : Nat) : Bool :=
  decide ((s.core core).ready.length < 1024) ||
    ((s.region region).map fun g => !s.segmentFull g core).getD false

/-- push_ready: an entry at its level, or at the end of the overflow segment when the queue is full (R62, R63). -/
def State.pushReady (s : State) (core region fid slot level : Nat) (resume : Bool) : State :=
  let c := s.core core
  if c.ready.length < 1024 then
    (s.setCore core { c with ready := c.ready ++ [⟨fid, slot, region, level, level, s.time, resume⟩] }).syncDrr core
  else
    match s.region region with
    | none => s
    | some g => s.segmentAppend g core (overflowWords (bitOf resume) level region fid slot s.time 0 0 [])

/-- The level of an entry (R62). -/
def State.levelOf (s : State) (region pcls : Nat) : Nat := min 3 (((s.region region).map (·.prio)).getD 0 / 4 + pcls)

/-! ## Frames (R39-R46, R419) -/

/-- Granules a frame of a class takes. -/
def granules (cls : Nat) : Nat := 2 ^ cls

/-- Does the frame occupy granules: Resident, being written out, or placed for its refill? -/
def Frame.occupies (f : Frame) : Bool := f.st == .resident || f.snap.isSome || f.placed

/-- Do two runs of granules meet? -/
def runsMeet (a b : Nat) (n m : Nat) : Bool := decide (a < b + m ∧ b < a + n)

/-- Does the frame occupy a granule of a run of bytes? -/
def Frame.inRun (f : Frame) (base bytes : Nat) : Bool := f.occupies && runsMeet f.base base f.bytes bytes

/-- The lowest free aligned run of a size. -/
def State.freeRun (s : State) (core cls : Nat) : Option Nat :=
  let bytes := 256 * granules cls
  let c := s.core core
  ((List.range (s.fstore / bytes)).map (· * bytes)).find? fun b => !(c.frames.any fun e => e.2.inRun b bytes)

/-- Operand `i` of a copy command's group. -/
def CopyCmd.arg (k : CopyCmd) (i : Nat) : Nat := (wordAt k.grp i).toNat

/-- The whole byte length of a command. -/
def CopyCmd.byteLen (k : CopyCmd) : Nat :=
  match k.kind with
  | .cpy _ => k.arg 2
  | .cpy2 _ => k.arg 2 * k.arg 3
  | .cpym _ => k.arg 2
  | .gthr _ => k.arg 1 * k.arg 3
  | .fenceq => 0

/-- What a command has to issue: bytes, or elements for a gather. -/
def CopyCmd.total (k : CopyCmd) : Nat := match k.kind with | .gthr _ => k.arg 1 | _ => k.byteLen

/-- Has a started command nothing more to wait for? -/
def CopyCmd.ended (k : CopyCmd) : Bool :=
  k.started && k.pieces.isEmpty && !k.held && (k.fault.isSome || decide (k.total ≤ k.pos))

/-- Is split-phase data still to be written into the frame of the entry's threadlet: a deferred GLD aimed into the frame
store of `fs` bytes, or a nested late load (R42, R83)? -/
def PoolEntry.aims (fs : Nat) (e : PoolEntry) : Bool :=
  match e.kind with
  | .effect (.gld ..) (.known loc :: _) => decide (loc.toNat < fs)
  | .effect (.gld ..) _ => true
  | .address .. => true
  | .effect .. => false
  | .saved .. => false

/-- Is an operation a split-phase result still to be written into its threadlet's frame: GLD data or a tag landing in the
frame store of `fs` bytes, an atomic's result, or a late load's value (R42, R83)? -/
def Op.aims (fs : Nat) (o : Op) : Bool :=
  match o.body with
  | .gld _ loc .. => decide (loc < fs)
  | .ldl .. => true
  | .gst _ _ _ (some a) => decide (a < fs)
  | .atom _ _ _ _ _ (some _) _ => true
  | _ => false

/-- Is an engine's landing data still to be written into the frame of its command (R42, R259)? -/
def CopyCmd.aims (fs : Nat) (k : CopyCmd) : Bool :=
  !k.ended &&
  match k.kind with
  | .cpy f => !f.r && (f.dir == .gl || f.dir == .ll) && decide (k.arg 0 < fs)
  | .cpy2 f => !f.r && (f.dir == .gl || f.dir == .ll) &&
      (List.range (min (k.arg 3) 65535)).any fun i => decide ((k.arg 0 + i * k.arg 4) % 2 ^ 64 < fs)
  | .gthr f => !f.r && decide (k.arg 4 < fs)
  | .cpym _ => false
  | .fenceq => false

/-- The operations of a core wherever they wait. -/
def Core.ops (c : Core) : List Op :=
  c.stage ++ c.src ++ (c.replay.map (·.2.op)) ++ (c.fwait.map (·.op)) ++ c.outst
    ++ c.barriers.filterMap fun b => match b.kind with | .release o => some o | _ => none

/-- Is a split-phase result still to be written into a frame? -/
def Core.splitPhase (c : Core) (fs fid : Nat) : Bool :=
  c.ops.any (fun o => o.org.fid == fid && o.aims fs) || c.pool.any (fun e => e.2.org.fid == fid && e.2.aims fs)
    || c.copyq.any (fun k => k.org.fid == fid && k.aims fs)

/-- Is a Resident frame eligible to be spilled (R42)? -/
def Core.spillable (c : Core) (fs fid : Nat) (f : Frame) : Bool :=
  f.st == .resident && !((c.run.map fun r => r.fid == fid).getD false) && !c.splitPhase fs fid

/-- Frames of a region that count as resident for FQUOTA (R42, R419). DEDUCED, log entry 34. -/
def Core.residentOf (c : Core) (region : Nat) : Nat :=
  (c.frames.filter fun e => e.2.region == region && (e.2.st == .resident || e.2.st == .refilling)).length

/-- A frame's spill starts: the snapshot taken, its granules kept until the write-out completes (R44). -/
def Core.spill (c : Core) (fid : Nat) : Core :=
  match c.frame fid with
  | none => c
  | some f =>
    if f.st = .resident then
      c.onFrame fid fun f =>
        { f with st := .spilled
                 snap := some (Cells.read c.lmem f.base f.bytes,
                   (c.lpoison.filter fun p => decide (f.base ≤ p * 8 ∧ p * 8 < f.base + f.bytes)).map (· - f.base / 8)) }
    else c

/-- The run a candidate would give: the aligned run of the new size that holds its first granule. -/
def runFor (base cls : Nat) : Nat := base / (256 * granules cls) * (256 * granules cls)

/-- The least recently used candidate whose run holds no ineligible frame (R42 step 2); with `own`, the candidates are
the region's own frames. -/
def State.victim (s : State) (core region cls : Nat) (own : Bool) : Option Nat :=
  let c := s.core core
  let ok (e : Nat × Frame) : Bool :=
    c.spillable s.fstore e.1 e.2 && (!own || e.2.region == region) &&
      c.frames.all fun g => !(g.2.inRun (runFor e.2.base cls) (256 * granules cls)) || c.spillable s.fstore g.1 g.2
        || (g.2.st != .resident && g.2.snap.isSome)
  ((c.frames.filter ok).foldl (fun (b : Option (Nat × Nat)) e => match b with
    | none => some (e.1, e.2.used)
    | some (_, u) => if e.2.used < u then some (e.1, e.2.used) else b) none).map (·.1)

/-- Every spillable frame of a run starts its spill. -/
def Core.spillRun (c : Core) (base bytes : Nat) : Core :=
  c.frames.foldl (fun c' e => if e.2.inRun base bytes then c'.spill e.1 else c') c

/-- The header of a frame (Table 2-2). -/
def headerWords (fid cls region parkoff : Nat) : List Word :=
  [place cls 16 ||| place fid 0, BitVec.ofNat 64 region, BitVec.ofNat 64 parkoff, 0]

/-- A frame's bytes zeroed and its header written. -/
def Core.zeroFrame (c : Core) (base bytes : Nat) (fid cls region : Nat) : Core :=
  Core.putWords { c with
    lmem := Cells.clear c.lmem base (base + bytes)
    lpoison := c.lpoison.filter fun p => !(decide (base ≤ p * 8 ∧ p * 8 < base + bytes)) } base
    (headerWords fid cls region 0)

/-- Frames of a core that hold a slot of an arena: those of every region that shares it (R36, R43). -/
def State.arenaFrames (s : State) (core base : Nat) : List (Nat × Frame) :=
  (s.core core).frames.filter fun e => ((s.region e.2.region).map (·.spillbase)) == some base

/-- The lowest free arena slot of a region on a core, as a physical address, none when the arena holds SPILLCAP frames
there (R36, R43). Which free slot is taken is the model's choice (DESIGN CHOICE, log entry 65). -/
def State.arenaSlot (s : State) (core : Nat) (g : Region) : Option Nat :=
  let c := s.core core
  let base := g.spillbase + core * g.spillcap * 4096
  if g.spillcap ≤ (s.arenaFrames core g.spillbase).length then none
  else ((List.range g.spillcap).map fun j => base + 4096 * j).find? fun a => !(c.frames.any fun e => e.2.arena == a)

/-- The first free frame identifier from the allocation pointer on, modulo 65,536 (R40). -/
def Core.freeFid (c : Core) : Option Nat :=
  match SMap.firstFree c.frames c.fptr (65536 - c.fptr) with
  | some i => some i
  | none => SMap.firstFree c.frames 0 c.fptr

/-- A frame allocated for a region on a core: its identifier, or none when R43's quota conditions apply. -/
def State.allocFrame (s : State) (core region cls : Nat) : Option (Nat × State) :=
  match s.region region with
  | none => none
  | some g =>
    let c := s.core core
    match s.arenaSlot core g, c.freeFid with
    | some arena, some fid =>
      let c := { c with fptr := (fid + 1) % 65536, stamp := c.stamp + 1 }
      let f : Frame :=
        { cls := cls, region := region, base := 0, st := .spilled, arena := arena, zero := true, snap := none,
          used := c.stamp, parked := none, freeing := false, ownFree := [], admitted := false, asked := 0, placed := false,
          armed := [], handler := 0 }
      let bytes := 256 * granules cls
      let run := if c.residentOf region < g.fquota then s.freeRun core cls else none
      match run with
      | some b =>
        let c := { c with frames := SMap.set c.frames fid { f with base := b, st := .resident, zero := false } }
        some (fid, s.setCore core (c.zeroFrame b bytes fid cls region))
      | none =>
        match s.victim core region cls (decide (g.fquota ≤ c.residentOf region)) with
        | some v =>
          let b := runFor (((c.frame v).map (·.base)).getD 0) cls
          let c := c.spillRun b bytes
          let c := { c with frames := SMap.set c.frames fid { f with base := b, st := .refilling, admitted := true, placed := true } }
          some (fid, s.setCore core c)
        | none => some (fid, s.setCore core { c with frames := SMap.set c.frames fid f })
    | _, _ => none

/-- Frames of a region that count as Resident for the refill of one of them: its other Resident and Refilling frames
(R419). -/
def Core.placedOf (c : Core) (region fid : Nat) : Nat :=
  (c.frames.filter fun e => e.1 != fid && e.2.region == region && (e.2.st == .resident || e.2.st == .refilling)).length

/-- Do only refills that wait too, all requested later, keep a refill waiting? None of them would ever go on: the first
requested does. DEDUCED, log entry 34. -/
def Core.firstWaiting (c : Core) (region fid asked : Nat) : Bool :=
  c.frames.all fun e => e.1 == fid || e.2.region != region ||
    (e.2.st != .resident && (e.2.st != .refilling || (!e.2.admitted && decide (asked < e.2.asked))))

/-- The claim of a Refilling frame on FQUOTA: met while its region holds fewer frames, or by spilling one eligible frame
of the region, chosen as R42 chooses for a frame of its class; otherwise it stays unmet, and the refill waits (R419).
DEDUCED, log entry 34. -/
def State.claimPlace (s : State) (core fid : Nat) (f : Frame) : State :=
  let quota := ((s.region f.region).map (·.fquota)).getD 0
  let yes (c : Core) : Core := c.onFrame fid fun f => { f with admitted := true }
  if (s.core core).placedOf f.region fid < quota then s.onCore core yes
  else
    match s.victim core f.region f.cls true with
    | some v => s.onCore core fun c => yes (c.spill v)
    | none => if (s.core core).firstWaiting f.region fid f.asked then s.onCore core yes else s

/-- A refill requested for a Spilled frame (Table 2-3, R419). -/
def State.requestRefill (s : State) (core fid : Nat) : State :=
  match (s.core core).frame fid with
  | none => s
  | some f =>
    if f.st = .spilled then
      let q := (s.core core).stamp + 1
      let ask (f : Frame) : Frame := { f with st := .refilling, admitted := false, asked := q, placed := false }
      (s.onCore core fun c => { c.onFrame fid ask with stamp := q }).claimPlace core fid (ask f)
    else s

/-- The words of the entry `k` places behind HEAD of a segment, none beyond TAIL. -/
def State.segmentEntry (s : State) (g : Region) (core k : Nat) : Option (List Word) :=
  let a := g.segment core
  let head := field (s.peek64 a) 31 0
  let tail := field (s.peek64 (a + 8)) 31 0
  if k < (tail + (2 ^ 32 - head)) % 2 ^ 32 then
    some (wordsOfBytes 16 (Cells.read s.mem (a + 128 * (1 + (head + k) % g.segEntries)) 128))
  else none

/-- KIND of a segment's entry. -/
def entryKind (ws : List Word) : Nat := field (wordAt ws 0) 63 60

/-- REGION of a segment's entry. -/
def entryRegion (ws : List Word) : Nat := field (wordAt ws 0) 47 32

/-- Messages and records of a region that wait for a frame in its segment on a core (R61, R301). -/
def State.waitingMessages (s : State) (core region : Nat) : Nat :=
  match s.region region with
  | none => 0
  | some g => ((List.range g.segEntries).filter fun k =>
      (s.segmentEntry g core k).any fun ws => (entryKind ws == 2 || entryKind ws == 3) && entryRegion ws == region).length

/-! ## Housekeeping of the HBM4 controllers (R292, R293, Table 12-6) -/

/-- The stacks in which `n` bytes of HBM4 lie (R197); the reservoir has none. -/
def State.stacksOf (s : State) (a n : Nat) : List Nat :=
  if hbmEnd ≤ a ∨ n = 0 then []
  else (List.range (min stackCount ((a + n - 1) / 512 + 1 - a / 512))).foldl (fun l i => insertNat l (s.stackOf (a + 512 * i))) []

/-- The stacks in which the bytes to be zeroed for a page lie: those of every replica for TYPE 1 (R205). -/
def State.zeroStacks (s : State) (z : Zeroing) : List Nat :=
  if z.type = 1 then
    (List.range 4).foldl (fun l b => (s.stacksOf (replicaIn z.pa b) z.size).foldl insertNat l) []
  else s.stacksOf z.pa z.size

/-- The address in HBM4 that a request on its way to a home slice accesses. -/
def PBody.demand : PBody → Option Nat
  | .read _ pa _ _ _ _ => some pa
  | .write _ pa _ _ _ _ => some pa
  | .atomic _ _ pa _ _ _ _ => some pa
  | .gather _ _ pa _ _ _ _ _ => some pa
  | _ => none

/-- Does a demand request wait for a controller (R293)? -/
def State.demandWaits (s : State) (ctl : Nat) : Bool :=
  s.net.any fun p => match p.dst, p.body.demand with
    | .slice _, some pa => decide (pa < hbmEnd) && s.stackOf pa == ctl
    | _, _ => false

/-- A Refilling frame whose place is clear: its image can be written (R45, R419). -/
def Core.refillReady (c : Core) (fid : Nat) (f : Frame) : Bool :=
  f.st == .refilling && f.placed && f.snap.isNone &&
    c.frames.all fun e => e.1 == fid || !(e.2.inRun f.base f.bytes)

/-- Has a controller work in hand that R293 puts before work of a rank: frame fill is 1, frame spill 2, page zeroing 3,
scrubbing 4 and merge-apply 5? Scrubbing is the environment's, and refresh is never kept waiting. -/
def State.hkBefore (s : State) (rank ctl : Nat) : Bool :=
  let frames (f : Core → Nat × Frame → Bool) : Bool :=
    s.cores.any fun c => c.2.frames.any fun e => f c.2 e && (s.stacksOf e.2.arena e.2.bytes).contains ctl
  (decide (1 < rank) && frames fun c e => c.refillReady e.1 e.2 && !e.2.zero)
    || (decide (2 < rank) && frames fun _ e => e.2.snap.isSome)
    || (decide (3 < rank) && s.zeroing.any fun z => (s.zeroStacks z).contains ctl)

/-- What is left of a controller's housekeeping counter. -/
def State.hkLeft (s : State) (ctl : Nat) : Int := SMap.get s.hkBud ctl (s.hkbud : Int)

/-- May controllers do housekeeping work of a rank now: none has work before it, and one whose counter is exhausted has
no demand request waiting (R293)? DEDUCED, log entry 69. -/
def State.hkMay (s : State) (rank : Nat) (ctls : List Nat) : Bool :=
  ctls.all fun c => (decide (0 < s.hkLeft c) || !s.demandWaits c) && !s.hkBefore rank c

/-- Housekeeping work charged to its controllers: its DRAM busy time is a free value (DESIGN CHOICE, log entry 69). -/
def State.hkCharge (s : State) (ctls : List Nat) : State :=
  ctls.foldl (fun s c =>
    { s with hkBud := SMap.set s.hkBud c (s.hkLeft c - (Config.freeNat s.free : Nat)), free := s.free + 1 }) s

/-! ## Releasing frames and their words -/

/-- The acknowledgement of a multicast piece whose decrement has been performed or discarded (R267). -/
def State.acknowledge (s : State) (core : Nat) (a : Arrival) : State :=
  match a.ack with
  | none => s
  | some (m, cmd, pos, ok) => s.inject core a.region .rsp (.core m) (.mcastAck cmd pos ok)

/-- A frame released: its identifier and arena slot freed; arrivals still queued for it are discarded with the
bad-reference fault to their senders' domains, and its ready entries go with it (R46, R350). A message or record of its
region that waits for a frame has a claim on it (R61).
DEDUCED, log entry 32. -/
def State.releaseFrame (s : State) (core fid : Nat) : State :=
  let c := s.core core
  let region := ((c.frame fid).map (·.region)).getD 0
  let claims := SMap.get c.freed region 0
  let gone := c.refq.filter (·.fid == fid)
  let s1 := (s.setCore core { c with
    frames := SMap.del c.frames fid, refq := c.refq.filter (·.fid != fid), ready := c.ready.filter (·.fid != fid)
    freed := if claims < s.waitingMessages core region then SMap.set c.freed region (claims + 1) else c.freed }).syncDrr core
  gone.foldl (fun s a => (s.sendRecord a.region
    { Rec.plain 0x09 3 a.region (.core core) with fid := a.fid, slot := a.slot }).acknowledge core a) s1

/-- A word of a frame changed where the frame stands: in local memory, in the snapshot of a spill, or in its arena
slot. -/
def State.changeWord (s : State) (core fid off : Nat) (f : Word → Word) : State :=
  match (s.core core).frame fid with
  | none => s
  | some fr =>
    if fr.st = .resident then
      s.onCore core fun c =>
        { c with lmem := Cells.write c.lmem (fr.base + 8 * off) (bytesOf 8 (f (c.word (fr.base + 8 * off))).toNat) }
    else
      match fr.snap with
      | some (bs, bad) =>
        let w := wordOf ((bs.drop (8 * off)).take 8)
        s.onCore core fun c => c.onFrame fid fun fr =>
          { fr with snap := some (bs.take (8 * off) ++ bytesOf 8 (f w).toNat ++ bs.drop (8 * off + 8), bad) }
      | none => s.store (fr.arena + 8 * off) (bytesOf 8 (f (s.peek64 (fr.arena + 8 * off))).toNat)

/-- A word of a frame wherever it stands. -/
def State.frameWord (s : State) (core fid off : Nat) : Word :=
  match (s.core core).frame fid with
  | none => 0
  | some fr =>
    if fr.st = .resident then (s.core core).word (fr.base + 8 * off)
    else
      match fr.snap with
      | some (bs, _) => wordOf ((bs.drop (8 * off)).take 8)
      | none => s.peek64 (fr.arena + 8 * off)

/-! ## The slot unit (R47-R52, R114) -/

/-- The parts of a slot word (Table 2-4). -/
structure Slot where
  entry : Nat
  pcls  : Nat
  err   : Bool
  armed : Bool
  count : Nat
  deriving DecidableEq, Repr

/-- A slot word's parts. -/
def Slot.of (w : Word) : Slot :=
  { entry := field w 59 32, pcls := field w 27 26, err := bitAt w 25, armed := bitAt w 24, count := field w 23 0 }

/-- Are the reserved bits of a slot word zero (Table 2-4)? -/
def slotWordOk (w : Word) : Bool := field w 63 60 == 0 && field w 31 28 == 0

/-- The word of a slot. -/
def Slot.word (x : Slot) : Word :=
  place x.entry 32 ||| place x.pcls 26 ||| place (bitOf x.err) 25 ||| place (bitOf x.armed) 24 ||| place x.count 0

/-- A slot word brought to zero fires: a ready entry is pushed (R48, R62). -/
def State.fireSlot (s : State) (core fid slot : Nat) (f : Frame) (x : Slot) : State :=
  let s1 := s.onCore core fun c =>
    ((c.touch fid).putWord (f.base + 8 * slot) { x with armed := false, count := 0 }.word).onFrame fid fun f =>
      { f with armed := eraseNat f.armed slot }
  (s1.pushReady core f.region fid slot (s1.levelOf f.region x.pcls) false).progress f.region

/-- The data words of a signal fit in the frame (R385). -/
def SigData.fits (d : SigData) (slot words : Nat) : Bool :=
  match d with
  | .none => true
  | .words dw ws => decide (slot + 1 + dw + ws.length ≤ words)

/-- The data words of a signal written, as a store writes them (R385). -/
def Core.putData (c : Core) (f : Frame) (slot : Nat) (d : SigData) : Core :=
  match d with
  | .none => c
  | .words dw ws => c.put (f.base + 8 * (slot + 1 + dw)) (bytesOfWords ws) []

/-- One signal's step on a slot word of a Resident frame (R48); an arrival at slot 0 is the payload of a message (R60). The
format fault of the slot word comes before R385's check of the data words (DEDUCED, log entry 66). -/
def State.slotStep (s : State) (core : Nat) (f : Frame) (a : Arrival) : State :=
  let c := s.core core
  let at_ := f.base + 8 * a.slot
  let rec_ (code : Nat) : Rec := { Rec.plain code 3 f.region (.core core) with fid := a.fid, slot := a.slot }
  if a.slot = 0 then s.setCore core (c.putData f 0 a.data)
  else
  match a.sloti with
  | some w =>
    let x := { Slot.of w with armed := true, err := false }
    let s1 := s.setCore core ((c.putWord at_ x.word).onFrame a.fid fun f =>
      { f with armed := if x.count = 0 then eraseNat f.armed a.slot else insertNat f.armed a.slot })
    if x.count = 0 then s1.fireSlot core a.fid a.slot f x else s1
  | none =>
    let x := Slot.of (c.word at_)
    if touches c.lpoison at_ 8 then s.sendRecord f.region (rec_ 0x14)
    -- Table 2-4 states no other fate of a nonzero reserved bit (R6), and it is found before the place of the data is
    -- looked at (R385). DEDUCED, log entry 66.
    else if !slotWordOk (c.word at_) then s.sendRecord f.region (rec_ 0x07)
    else if !a.data.fits a.slot (frameWords f.cls) then
      s.sendRecord a.region { rec_ 0x09 with region := a.region }
    else if !x.armed || decide (x.count < a.dec) then s.sendRecord f.region (rec_ 0x08)
    else
      let x' := { x with count := x.count - a.dec, err := x.err || a.err }
      let c1 := c.putData f a.slot a.data
      let c2 := { c1 with
        lmem := Cells.write c1.lmem at_ (bytesOf 8 x'.word.toNat) }
      let s1 := s.setCore core (c2.touch a.fid)
      if x'.count = 0 then s1.fireSlot core a.fid a.slot f x' else s1

/-- One signal performed on a slot word of a Resident frame, and acknowledged where it counts a multicast piece (R48,
R267). -/
def State.applySignal (s : State) (core : Nat) (f : Frame) (a : Arrival) : State := (s.slotStep core f a).acknowledge core a

/-- Would the arrival fire its slot? -/
def State.wouldFire (s : State) (core : Nat) (f : Frame) (a : Arrival) : Bool :=
  match a.sloti with
  | some w => decide ((Slot.of w).count = 0)
  | none =>
    let at_ := f.base + 8 * a.slot
    let x := Slot.of ((s.core core).word at_)
    a.slot != 0 && x.armed && decide (x.count = a.dec) && slotWordOk ((s.core core).word at_)
      && a.data.fits a.slot (frameWords f.cls) && !(touches (s.core core).lpoison at_ 8)

/-- The one report of a stop of intake for want of room in a region's segment (R64). -/
def State.report (s : State) (core : Nat) (region fid slot : Nat) : State :=
  if (s.core core).reported then s
  else (s.onCore core fun c => { c with reported := true }).sendRecord region
    { Rec.plain 0x0A 3 region (.core core) with fid := fid, slot := slot, detail := 2 }

/-- An arrival that cannot be performed is held by the slot unit: the core's intake stops, and the stop is reported
(R64). -/
def State.block (s : State) (core region : Nat) (a : Arrival) : State :=
  (s.onCore core fun c => { c with blocked := some a }).report core region a.fid a.slot

/-- An arrival at a slot (R44, R48, R52); a core takes one only while its refill queue has a free entry. -/
def State.arrive (s : State) (core : Nat) (a : Arrival) : State :=
  let c := s.core core
  let bad := (s.sendRecord a.region
    { Rec.plain 0x09 3 a.region (.core core) with fid := a.fid, slot := a.slot }).acknowledge core a
  match c.frame a.fid with
  | none => bad
  | some f =>
    if a.slot < 4 ∨ frameWords f.cls ≤ a.slot then bad
    else if f.st ≠ .resident ∨ c.refq.any (·.fid == a.fid) then
      (s.setCore core { c with refq := c.refq ++ [a] }).requestRefill core a.fid
    else if s.wouldFire core f a && !s.canPush core f.region then s.block core f.region a
    else s.applySignal core f a

/-- send_signal: a signal on its way to a slot or trigger (Table 4-30). -/
def State.sendSignal (s : State) (core region : Nat) (ref : Word) (dec : Nat) (data : SigData) (rel err : Bool) : State :=
  s.inject core region .sig (s.refAgent (Ref.of ref)) (.signal ref dec data rel err)

/-! ## The Running threadlet: advancing, parking, being Held, ending (R54-R58, R79, R302, R303, R376) -/

/-- The Running threadlet of a core replaced. -/
def State.setRun (s : State) (core : Nat) (r : Run) : State := s.onCore core fun c => { c with run := some r }

/-- The instruction index after `n` words, with the REP in progress stepped at the end of its body (R376). -/
def Run.advance (r : Run) (n : Nat) : Run :=
  let i := r.idx + n
  match r.rep with
  | none => { r with idx := i }
  | some p =>
    if i = p.start + p.nw then
      if p.iter + 1 < p.count then { r with idx := p.start, rep := some { p with iter := p.iter + 1 } }
      else { r with idx := p.start + p.nw, rep := none }
    else { r with idx := i }

/-- The Running threadlet moved past `n` words; with none running, nothing happens. -/
def State.next (s : State) (n : Nat) : State :=
  match (s.core s.cur).run with
  | none => s
  | some r => s.setRun s.cur { r.advance n with bpSkip := 0 }

/-- Where an instruction stands (Table 13-2). -/
def Run.origin (r : Run) : Origin :=
  { tid := r.tid, fid := r.fid, slot := r.slot, region := r.region, priv := r.priv, block := r.block, index := r.idx,
    iter := r.rep.map (·.iter) }

/-- Core cycles that the present step takes. -/
def State.stepCycles (s : State) : Nat := s.pace.headD 1

/-- Cycles charged to the Running threadlet of a core and to its region's budget (R289, R292). -/
def State.chargeRun (s : State) (n : Nat) (c : Core) : Core :=
  match c.run with
  | none => c
  | some r =>
    let c1 : Core := { c with run := some { r with ran := r.ran + n, runleft := r.runleft - n } }
    match s.region r.region with
    | none => c1
    | some g =>
      if g.cycbud = 0xFFFF then c1
      else
        let b := SMap.get c.budgets r.region g.grants
        { c1 with budgets := SMap.set c.budgets r.region { b with cyc := b.cyc - n } }

/-- The core has no Running threadlet: the deficit of its region at the level it was taken from is charged (R289). -/
def Core.endRun (c : Core) (r : Run) : Core :=
  { c with
    run := none
    drr := c.drr.map fun e =>
      if e.1 = r.sel then
        (e.1, { e.2 with list := e.2.list.map fun x =>
          if x.1 = r.region then (x.1, x.2 - (((c.run.map (·.ran)).getD 0 : Nat) : Int)) else x })
      else e }

/-- The Running threadlet retires, parks or is Held: the cycles of this step are its last Running cycles (R289). -/
def State.endRun (s : State) (core : Nat) (r : Run) : State :=
  s.onCore core fun c => (s.chargeRun s.stepCycles c).endRun r

/-- Content of a scalar register; x0 reads zero. -/
def Run.reg (r : Run) (i : Nat) : RVal := if i = 0 then .known 0 else SMap.get r.x i (.known 0)

/-- REPST (Table 16-2). -/
def repWord : Option Rep → Word
  | none => 0
  | some p => place 1 63 ||| place p.start 56 ||| place p.nw 49 ||| place p.count 24 ||| place p.iter 0

/-- The symbolic registers of a threadlet. -/
def Run.symbolic (r : Run) : List Nat := (List.range' 1 31).filter fun i => (r.reg i).symbol.isSome

/-- The symbolic registers saved to the pool, each in the lowest free entry (DESIGN CHOICE, log entry 65): the core, and
each register's handle (R79, Table 3-3). -/
def Core.saveForms (c : Core) (r : Run) : Core × SMap Word :=
  r.symbolic.foldl (fun (p : Core × SMap Word) i =>
    let v := r.reg i
    match SMap.firstFree p.1.pool 0 256, v.symbol with
    | some k, some sy =>
      ({ p.1 with pool := SMap.set p.1.pool k ⟨p.1.nextSeq, r.origin, .saved i v⟩, nextSeq := p.1.nextSeq + 1 },
       SMap.set p.2 i (place sy 8 ||| place k 0))
    | _, _ => p) (c, [])

/-- The words of a park area (Table 2-8); with `vectors`, m1-m7 and v0-v15 as well. -/
def parkWords (r : Run) (cause blockField : Nat) (handles : SMap Word) (vectors : Bool) : List Word :=
  let mask : Word := (List.range' 1 31).foldl (fun w i => if SMap.has handles i then w ||| place 1 (32 + i) else w) 0
  let x (i : Nat) : Word :=
    match SMap.find handles i with
    | some h => h
    | none => match r.reg i with | .known v => v | _ => 0
  [place cause 60 ||| place blockField 32 ||| place (r.idx % 256) 0,
   mask ||| place r.fpst.toNat 8 ||| place (r.p.toNat / 2 * 2) 0, repWord r.rep]
    ++ (List.range' 1 31).map x
    ++ (if vectors then
          (List.range' 1 7).map (fun i => SMap.get r.m i 0)
            ++ (List.range 16).flatMap fun i => wordsOfBytes 8 (bytesOf 64 (SMap.get r.v i 0).toNat)
        else [])

/-- A threadlet is Retired: its frame is left as FIN leaves it, released where this threadlet freed it; a threadlet that
never ran, `none`, has freed nothing (R46, R54, R303). -/
def State.retire (s : State) (core : Nat) (fid region : Nat) (tid : Option Nat) : State :=
  let s1 := (s.trace core region fid 4).progress region
  match (s1.core core).frame fid with
  | none => s1
  | some f => if tid.any f.ownFree.contains then s1.releaseFrame core fid else s1

/-- The Running threadlet aborted. -/
def State.abortRun (s : State) (core : Nat) (r : Run) : State :=
  ((s.endRun core r).onCore core (·.discard r.tid)).retire core r.fid r.region (some r.tid)

/-- The state of the Running threadlet saved for a park or a hold, in the park area of its frame or in hold entry
`hold`; the core is left without a Running threadlet (R56, R303). A second threadlet of one frame that parks or is Held
replaces what the frame's header names of the first. DESIGN CHOICE, log entry 82. -/
def State.saveRun (s : State) (core : Nat) (r : Run) (cause : Nat) (wait : Wait) (hold : Option Nat) : State :=
  let (c2, handles) := ((s.endRun core r).core core).saveForms r
  let ws := parkWords r cause (s.blockField r.region r.block) handles r.vuse
  let c3 : Core := match hold with
    | some h => { c2 with hold := SMap.set c2.hold h ⟨r.fid, padWords 169 ws⟩ }
    | none =>
      let base := ((c2.frame r.fid).map (·.base)).getD 0
      (c2.disarm (base + 8 * r.parkw) (8 * ws.length)).putWords (base + 8 * r.parkw) ws |>.putWord (base + 16)
        (BitVec.ofNat 64 r.parkw)
  let p : Parked :=
    { tid := r.tid, slot := r.slot, level := r.level, cause := cause, wait := wait, priv := r.priv, block := r.block,
      len := r.len, hold := hold, ready := false, bpSkip := r.bpSkip, since := (s.core core).nextSeq }
  s.setCore core (c3.onFrame r.fid fun f => { f with parked := some p })

/-- A resume token of a Held threadlet (Table 13-4). -/
def heldToken (core fid : Nat) : Word := place 1 62 ||| place core 32 ||| place fid 16

/-- Taking a precise fault: the threadlet becomes Held in its park area or in a hold entry, or is aborted when none is
free, and one record goes to its fault domain (R303, R299). `r` stands at the instruction at which it will resume, and
`o` at the one that faulted. -/
def State.takeFault (s : State) (core : Nat) (r : Run) (o : Origin) (src code addr : Nat) (detail : Word) : State :=
  let c := s.core core
  let hold := if r.parkw ≠ 0 then none else (List.range 4).find? fun i => !(SMap.has c.hold i)
  let rec_ : Rec := Rec.of code src (.core core) o addr detail
  if r.parkw ≠ 0 ∨ hold.isSome then
    let s1 := (s.saveRun core r 6 .faultDomain hold).trace core r.region r.fid 3
    s1.sendRecord r.region { rec_ with token := heldToken core r.fid }
  else
    (s.abortRun core r).sendRecord r.region rec_

/-- Parking (R55, R58), to resume `n` words further on; in a block with PARKW = 0, causes 0 to 4 raise the park-area
fault at the instruction. A park between instructions (causes 3 and 5) leaves the issue that no breakpoint matches at
still to come (R303). A SLOTI or SLOTR that waits for a refill requests it (R389). DEDUCED, log entry 58. -/
def State.park (s : State) (core : Nat) (r : Run) (n cause : Nat) (wait : Wait) : State :=
  if r.parkw = 0 then s.takeFault core { r with bpSkip := 0 } r.origin 0 0x0B 0 0
  else
    let r' := if n = 0 then r else r.advance n
    let skip := if cause = 3 ∨ cause = 5 then r.bpSkip else 0
    let s1 := (s.saveRun core { r' with bpSkip := skip } cause wait none).trace core r.region r.fid 1
    match wait with
    | .refill fid => s1.requestRefill core fid
    | .refillSpace fid => s1.requestRefill core fid
    | _ => s1

/-- A Parked or Held threadlet aborted: its hold entry freed, PARKOFF cleared wherever its frame stands (Table 2-2), its
effects discarded, its frame as FIN leaves it. -/
def State.abortParked (s : State) (core fid : Nat) : State :=
  match (s.core core).frame fid with
  | none => s
  | some f =>
    match f.parked with
    | none => s
    | some p =>
      let s1 := s.changeWord core fid 2 fun _ => 0
      let s2 := s1.onCore core fun c =>
        ({ c.discard p.tid with
          hold := (match p.hold with | some h => SMap.del c.hold h | none => c.hold)
          ready := c.ready.filter fun e => !(e.fid == fid && e.resume) }).onFrame fid fun f => { f with parked := none }
      (s2.retire core fid f.region (some p.tid)).syncDrr core

/-! ## Stops and guards (R95, R298, R324) -/

/-- Why an instruction does not take its effect. -/
inductive Stop where
  /-- a precise fault: Held at the instruction -/
  | fault (code addr : Nat) (detail : Word)
  /-- BRK, TRAP and SVC: Held after the instruction (R303) -/
  | trap (code : Nat) (detail : Word)
  /-- a park at the instruction -/
  | park (cause : Nat) (wait : Wait)
  /-- the code it enters stands in a page that is being zeroed: it issues again (R205) -/
  | page (z : Option Zeroing)
  deriving DecidableEq, Repr

/-- A meaning over the Running threadlet: the state with its effect, or why there is none. -/
abbrev Meaning := State → Run → Except Stop State

/-- The outcome of an instruction of `n` words: its effect, or the fault or park it takes. -/
def State.settle (s : State) (r : Run) (n : Nat) (x : Except Stop State) : State :=
  match x with
  | .ok t => t
  | .error (.fault code addr detail) =>
    s.takeFault s.cur { r with bpSkip := if code = 0x12 then r.bpSkip ||| 16 else 0 } r.origin 0 code addr detail
  | .error (.trap code detail) => s.takeFault s.cur { r.advance n with bpSkip := 0 } r.origin 0 code 0 detail
  | .error (.park cause wait) => s.park s.cur r 0 cause wait
  | .error (.page z) => s.awaitPage z

/-- Does the guard hold: PG with sense PN, p0 reading true (Table 4-3)? -/
def Run.holds (r : Run) (g : Guard) : Bool := (g.pg == 0 || r.p.getLsbD g.pg.toNat) != g.pn

/-- The Running threadlet of the current core, or the model's fault when there is none.
DESIGN CHOICE, log entry 57. -/
def State.running (s : State) (f : Run → State) : Host.Outcome State Fault Refusal :=
  match (s.core s.cur).run with
  | none => .fault (.noThreadlet s.cur)
  | some r => .next (f r)

/-- An instruction of `n` words that moves to the next one after its effect. -/
def guarded (g : Guard) (n : Nat) (f : Meaning) (s : State) : Host.Outcome State Fault Refusal :=
  s.running fun r =>
    if r.holds g then s.settle r n ((f s r).map (·.next n)) else s.next n

/-- An instruction that sets the instruction index itself. -/
def guardedJump (g : Guard) (f : Meaning) (s : State) : Host.Outcome State Fault Refusal :=
  s.running fun r => if r.holds g then s.settle r 1 (f s r) else s.next 1

/-- An instruction with an N bit: under a false guard it sends its null signal (R96). -/
def guardedN (g : Guard) (n : Bool) (f nul : Meaning) (s : State) : Host.Outcome State Fault Refusal :=
  s.running fun r =>
    if r.holds g then s.settle r 1 ((f s r).map (·.next 1))
    else if n then s.settle r 1 ((nul s r).map (·.next 1)) else s.next 1

/-- An instruction whose word is checked before its guard (R95, R104). -/
def guardedAfter (g : Guard) (check : State → Run → Except Stop Unit) (f : Meaning) (s : State) :
    Host.Outcome State Fault Refusal :=
  s.running fun r =>
    match check s r with
    | .error e => s.settle r 1 (.error e)
    | .ok _ => if r.holds g then s.settle r 1 ((f s r).map (·.next 1)) else s.next 1

/-- The privileged fault unless the block has PRIV = 1 (R104). -/
def needPriv (_ : State) (r : Run) : Except Stop Unit := if r.priv then .ok () else .error (.fault 0x02 0 0)

/-- A fault unless a condition holds. -/
def need (c : Bool) (code addr : Nat) : Except Stop Unit := if c then .ok () else .error (.fault code addr 0)

end Sys2Proof.Machine
end

