-- ==== Sys2Proof/Machine/Blocks.lean ====
section
/-! DEFINITION. Blocks: fetching code through the instruction caches, the header checks at an entry, code pointers and
branch targets (R88-R93, R198, R358, R359). -/

namespace Sys2Proof.Machine

open Sys2Proof

/-! ## Fetching words -/

/-- Word `k` of a line image. -/
def imageWord (im : BitVec 1024) (k : Nat) : BitVec 32 := im.extractLsb' (32 * k) 32

/-- Where a line of code stands that a leaf maps: as a read of it by the core goes, the replica of the core's own basin among
them (R196, R203, R319). -/
def State.codeRoute (s : State) (core : Nat) (t : Tlb) (va : Nat) : Route := s.routeOf core t (va / 128 * 128) false

/-- The place of a line of code: its address in this module, or an address of host memory above 2^56 or of another module
above 2^57. -/
def codePlace (dst : Agent) (pa : Nat) : Nat :=
  match dst with
  | .host => 2 ^ 56 + pa
  | .peer m => 2 ^ 57 + m * 2 ^ 48 + pa
  | _ => pa

/-- A line of code read where it stands: a read at its home slice, which applies pending updates and allocates (R198, R199,
R252); the host's bytes as they stand; of another module any bytes (DESIGN CHOICE, log entry 84). -/
def State.codeLine (s : State) (dst : Agent) (pa : Nat) : BitVec 1024 × State :=
  match dst with
  | .slice _ =>
    let (bs, _, s1) := s.fetch pa 128
    (BitVec.ofNat 1024 (natOf bs), s1)
  | .host => (s.lineImage (codePlace dst pa), s)
  | _ =>
    let (bs, s1) := s.freeBytes 128
    (BitVec.ofNat 1024 (natOf bs), s1)

/-- The images a fetch may find of a line: those its chiplet holds, or the line as it is read where it stands (R198,
R358). -/
def State.images (s : State) (core asid va : Nat) (dst : Agent) (pa : Nat) : List (BitVec 1024) :=
  match (s.chip (chipOf core)).icache.find? fun l => l.asid == asid && l.line == va / 128 with
  | some l => l.images
  | none => [(s.codeLine dst pa).1]

/-- What a fetch finds at a virtual address. -/
inductive CodeAt where
  /-- the words it may be, and whether its page has SUP = 1 -/
  | words (l : List (BitVec 32)) (sup : Bool)
  /-- the page does not translate -/
  | absent
  /-- the permission fault: an address beyond 52 bits (R206), a leaf of the table area without SUP = 1 (R209), or a physical
  address that Table 8-2 does not list or that lies beyond a window's ways (R196, R202); or the bad-reference fault of a
  module without a valid route (R319). DEDUCED, log entry 31 -/
  | refused (code : Nat)
  /-- the page is being zeroed, or is to be (R205), or the window's ways are being converted (R416): the fetch waits -/
  | page (z : Option Zeroing)
  deriving DecidableEq, Repr

/-- The instruction word at a virtual address: any word that a cached image holds, or the word where it stands. A cached
translation is used where there is one, though the tables may have changed since (R210; DESIGN CHOICE, log entry 84).
DEDUCED, log entry 31. -/
def State.codeAt (s : State) (core asid va : Nat) : CodeAt :=
  if 2 ^ 52 ≤ va then .refused 0x05
  else
    match s.lookup core asid va with
    | .leaf t =>
      match s.codeRoute core t va with
      | .to dst pa sp =>
        match (if sp = .scratch then s.windowOk pa else some true) with
        | some true =>
          .words (((s.images core asid va dst pa).map fun im => imageWord im (va / 4 % 32)).eraseDups) t.sup
        | some false => .refused 0x05
        | none => .page none
      | .perm => .refused 0x05
      | .noRoute => .refused 0x09
    | .zero z => .page (some z)
    | .wait z => .page (some z)
    | .perm => .refused 0x05
    | .fault .. => .absent

/-- The word at a virtual address without a choice being drawn: the first a fetch may find. -/
def State.codePeek (s : State) (core asid va : Nat) : Option (BitVec 32) :=
  match s.codeAt core asid va with
  | .words l _ => l.head?
  | .absent => none
  | .refused _ => none
  | .page _ => none

/-- Why code cannot be entered or fetched now: a fault's code, or a page that is being zeroed. -/
inductive CodeStop where
  | fault (code : Nat)
  | page (z : Option Zeroing)
  deriving DecidableEq, Repr

/-- A precise stop of the instruction that transfers to a target. -/
def CodeStop.stop (x : CodeStop) (target : Nat) : Stop :=
  match x with
  | .fault code => .fault code target 0
  | .page z => .page z

/-- The line of code at a virtual address, once read, stays in its chiplet's cache: later stores to it are not seen until an
IFLUSH covers it (R198). The walk of a page that no cache translates, and the read of the line, touch their home slices
(R199). -/
def State.cacheCode (s : State) (core asid va : Nat) : State :=
  if (s.chip (chipOf core)).icache.any fun l => l.asid == asid && l.line == va / 128 then s
  else if 2 ^ 52 ≤ va then s
  else
    match s.lookup core asid va with
    | .leaf t =>
      match s.codeRoute core t va with
      | .to dst pa sp =>
        if sp = .scratch ∧ s.windowOk pa ≠ some true then s
        else
          let (im, s1) := s.codeLine dst pa
          let s2 := if (s.cached core asid va).isNone then s1.touchWalk asid va else s1
          let k := s2.chip (chipOf core)
          s2.setChip (chipOf core) { k with icache := ⟨asid, va / 128, codePlace dst pa, [im]⟩ :: k.icache }
      | .perm => s
      | .noRoute => s
    | .zero _ => s
    | .wait _ => s
    | .perm => s
    | .fault .. => s

/-- A word fetched: where cached images differ, a free choice (DESIGN CHOICE, log entry 4); the line is then cached. -/
def State.fetchWord (s : State) (core asid va : Nat) : Except CodeStop (BitVec 32) × State :=
  match s.codeAt core asid va with
  | .absent => (.error (.fault 0x15), s)
  | .refused code => (.error (.fault code), s)
  | .page z => (.error (.page z), s)
  | .words ws _ =>
    let s1 := s.cacheCode core asid va
    if ws.length ≤ 1 then (.ok (ws.headD 0), s1)
    else
      let (i, s2) := s1.choose ws.length
      (.ok (ws.getD i 0), s2)

/-! ## Headers (Table 4-1, R90) -/

/-- A block header's fields. -/
structure Header where
  fcls  : Nat
  loff  : Nat
  live  : Nat
  len   : Nat
  parkw : Nat
  priv  : Bool
  vuse  : Bool
  deriving DecidableEq, Repr

/-- The fields of a header's words, none for a bad block. -/
def Header.of (w0 w1 w3 : BitVec 32) : Option Header :=
  let f (w : BitVec 32) (hi lo : Nat) : Nat := (w.toNat >>> lo) % 2 ^ (hi + 1 - lo)
  let h : Header :=
    { fcls := f w0 23 21, loff := f w0 20 12, live := f w0 11 8, len := f w0 6 0, parkw := f w1 15 0,
      priv := w1.getLsbD 17, vuse := w1.getLsbD 16 }
  if f w0 31 24 = 0xB5 ∧ w0.getLsbD 7 = false ∧ f w1 31 18 = 0 ∧ w3 = 0 ∧ h.live ≤ 8 ∧ h.fcls ≤ 4 then some h else none

/-- Words of a park area (R56). -/
def parkLen (vuse : Bool) : Nat := if vuse then 169 else 34

/-- The header of a block as an entry reads it: a bad block where the header or the words lie in a page that does not
translate, or in a supervisor page without PRIV = 1, or where the header is malformed (R90, R359). -/
def State.header (s : State) (core asid va : Nat) : Except CodeStop Header :=
  match s.codeAt core asid va with
  | .absent => .error (.fault 0x15)
  | .refused code => .error (.fault code)
  | .page z => .error (.page z)
  | .words l sup =>
    match Header.of (l.headD 0) ((s.codePeek core asid (va + 4)).getD 0) ((s.codePeek core asid (va + 12)).getD 0) with
    | none => .error (.fault 0x15)
    | some h =>
      match s.codeAt core asid (va + 16 + 4 * h.len) with
      | .absent => .error (.fault 0x15)
      | .refused code => .error (.fault code)
      | .page z => .error (.page z)
      | .words _ sup' => if (sup || sup') && !h.priv then .error (.fault 0x15) else .ok h

/-- The lines that an entry to a block at index `i` reads stay cached: those of its header, of its words up to the index, and
of its last word (R90, R198). -/
def State.readEntry (s : State) (core asid va i : Nat) : State :=
  let s1 := s.cacheCode core asid va
  match s.header core asid va with
  | .ok h => ((linesOf (va + 16) (4 * min i h.len + 4)).foldl (fun s l => s.cacheCode core asid (l * 128)) s1).cacheCode core asid
      (va + 16 + 4 * h.len)
  | .error _ => s1

/-- The checks of a header against a frame of `words` words and a region: the park area, then the privilege (R57, R90).
DEDUCED, log entry 35. -/
def State.headerFits (s : State) (region words : Nat) (h : Header) : Except CodeStop Header :=
  if (1 ≤ h.parkw ∧ h.parkw ≤ 3) ∨ (h.parkw ≠ 0 ∧ words < h.parkw + parkLen h.vuse) then .error (.fault 0x0B)
  else if h.priv && !s.mayBePriv region then .error (.fault 0x02)
  else .ok h

/-- The checks of an entry by a threadlet of a region in a frame of `words` words (R57, R90). -/
def State.checkEntry (s : State) (core region words va : Nat) : Except CodeStop Header :=
  if va % 16 ≠ 0 then .error (.fault 0x15)
  else (s.header core (s.asid region) va).bind (s.headerFits region words)

/-- The checks of the handler of a message or record, in the frame of its class that it will be given (R90, R302). -/
def State.checkHandler (s : State) (core region va : Nat) : Except CodeStop Header :=
  (s.header core (s.asid region) va).bind fun h =>
    if frameWords h.fcls < h.loff + h.live then .error (.fault 0x15) else s.headerFits region (frameWords h.fcls) h

/-- Does the word at index `i` of a block end an instruction begun before it (R91)? `n` words are scanned from index
`k`. -/
def State.isSecond (s : State) (core asid block : Nat) : Nat → Nat → Nat → Bool
  | 0, _, _ => false
  | n + 1, k, i =>
    match s.codePeek core asid (block + 16 + 4 * k) with
    | none => false
    | some w =>
      if isLongOp (w.extractLsb' 21 7) && w != 0 && w != BitVec.allOnes 32 then
        k + 1 == i || s.isSecond core asid block n (k + 2) i
      else s.isSecond core asid block n (k + 1) i

/-- Does an index name the second word of a long form? -/
def State.secondWord (s : State) (r : Run) (block i : Nat) : Bool :=
  s.isSecond s.cur (s.asid r.region) block i 0 i

/-! ## Transfers (R92, R93) -/

/-- Words of the frame a threadlet runs in. -/
def State.runWords (s : State) (r : Run) : Nat := (((s.core s.cur).frame r.fid).map fun f => frameWords f.cls).getD 0

/-- The threadlet enters another block at an index: its PARKW, VUSE and PRIV govern it from there. -/
def Run.enter (r : Run) (h : Header) (block idx : Nat) : Run :=
  { r with block := block, len := h.len, parkw := h.parkw, vuse := h.vuse, priv := h.priv, idx := idx, rep := none,
           bpSkip := 0 }

/-- A transfer to an index of the current block. -/
def Run.jump (r : Run) (idx : Nat) : Run := { r with idx := idx, rep := none, bpSkip := 0 }

/-- An address as a 64-bit virtual address. -/
def vaOf (n : Int) : Nat := (n % 2 ^ 64).toNat

/-- The address `off` words from the instruction. -/
def Run.branchVa (r : Run) (off : Int) : Nat := vaOf ((r.block : Int) + 16 + 4 * r.idx + 4 * off)

/-- The block that a branch reads, with the index there: its own, or the one it leads to. -/
def Run.branchReads (r : Run) (off : Int) : Nat × Nat :=
  let rel := (r.branchVa off : Int) - ((r.block : Int) + 16)
  if 0 ≤ rel ∧ rel % 4 = 0 ∧ rel / 4 ≤ r.len then (r.block, (rel / 4).toNat) else (r.branchVa off, 0)

/-- The block that a code pointer leads to, with its index. -/
def pointerReads (ptr : Word) : Nat × Nat := (field ptr 59 12 * 16, field ptr 7 0)

/-- B and CALL: where `off` words from the branch lead (R92). -/
def State.branch (s : State) (r : Run) (off : Int) : Except Stop Run :=
  let target := r.branchVa off
  let rel := (target : Int) - ((r.block : Int) + 16)
  if 0 ≤ rel ∧ rel % 4 = 0 ∧ rel / 4 ≤ r.len then
    if s.secondWord r r.block (rel / 4).toNat then .error (.fault 0x01 0 0) else .ok (r.jump (rel / 4).toNat)
  else
    match s.checkEntry s.cur r.region (s.runWords r) target with
    | .error x => .error (x.stop target)
    | .ok h => .ok (r.enter h target 0)

/-- JR and RET: where a code pointer leads (R93). -/
def State.jumpTo (s : State) (r : Run) (ptr : Word) : Except Stop Run :=
  let block := field ptr 59 12 * 16
  let i := field ptr 7 0
  if field ptr 63 60 ≠ 0 ∨ field ptr 11 8 ≠ 0 then .error (.fault 0x01 0 0)
  else if block = r.block then
    if r.len < i ∨ s.secondWord r r.block i = true then .error (.fault 0x01 0 0) else .ok (r.jump i)
  else
    match s.checkEntry s.cur r.region (s.runWords r) block with
    | .error x => .error (x.stop block)
    | .ok h =>
      if h.len < i ∨ s.secondWord r block i = true then .error (.fault 0x01 block 0) else .ok (r.enter h block i)

/-- The code pointer of an index of a block (Table 4-2). -/
def codePointer (block idx : Nat) : Word := place (block / 16 % 2 ^ 48) 12 ||| place idx 0

end Sys2Proof.Machine
end

