-- ==== Sys2Proof/Machine/Operands.lean ====
section
/-! DEFINITION. Operands: reading and writing registers with late values, the supplies a form or an effect needs, folding
and recording (R68-R74, R98, Table 3-2), access sizes and addresses. -/

namespace Sys2Proof.Machine

open Sys2Proof

/-! ## Registers -/

/-- Content of register `i`. -/
def Run.get (r : Run) (i : XReg) : RVal := r.reg i.toNat

/-- Register `i` replaced; a write to x0 is discarded (R98). -/
def Run.write (r : Run) (i : XReg) (v : RVal) : Run := if i = 0 then r else { r with x := SMap.set r.x i.toNat v }

/-- The Running threadlet of the current core changed. -/
def State.onRun (s : State) (f : Run → Run) : State := s.onCore s.cur fun c => { c with run := c.run.map f }

/-- write_x with any content. -/
def State.writeR (s : State) (d : XReg) (v : RVal) : State := s.onRun (·.write d v)

/-- write_x with a known value (R70). -/
def State.writeX (s : State) (d : XReg) (v : Word) : State := s.writeR d (.known v)

/-- Sticky flags raised (R138). -/
def State.raise (s : State) (f : BitVec 8) : State := s.onRun fun r => { r with fpst := r.fpst ||| f }

/-- A park with cause 0 for the symbols of some contents (R68, R81). -/
def waitFor (vs : List RVal) : Stop := .park 0 (.syms (symbolsOf vs))

/-- The known value of a register; a form parks with cause 0. -/
def Run.known (r : Run) (i : XReg) : Except Stop Word :=
  match r.get i with
  | .known v => .ok v
  | v => .error (waitFor [v])

/-- The known values of two registers; forms park for all their symbols. -/
def Run.known2 (r : Run) (a b : XReg) : Except Stop (Word × Word) :=
  match r.get a, r.get b with
  | .known x, .known y => .ok (x, y)
  | x, y => .error (waitFor [x, y])

/-- The known values of a list of contents; forms park for all their symbols. -/
def allKnown (vs : List RVal) : Except Stop (List Word) :=
  if (symbolsOf vs).isEmpty then .ok (vs.filterMap fun v => match v with | .known w => some w | _ => none)
  else .error (waitFor vs)

/-- The contents of `n` registers from `g`. -/
def Run.group (r : Run) (g : XReg) (n : Nat) : List RVal := (List.range' g.toNat n).map r.reg

/-- Mask `m` (m0 reads all ones). -/
def Run.mask (r : Run) (m : MReg) : Word := if m = 0 then BitVec.allOnes 64 else SMap.get r.m m.toNat 0

/-- Vector `v`. -/
def Run.vec (r : Run) (v : VReg) : VWord := SMap.get r.v v.toNat 0

/-- A vector replaced. -/
def State.writeV (s : State) (d : VReg) (w : VWord) : State := s.onRun fun r => { r with v := SMap.set r.v d.toNat w }

/-- A mask replaced. -/
def State.writeM (s : State) (d : MReg) (w : Word) : State :=
  s.onRun fun r => if d = 0 then r else { r with m := SMap.set r.m d.toNat w }

/-- Predicate `k` (p0 reads true). -/
def Run.pred (r : Run) (k : PReg) : Bool := k == 0 || r.p.getLsbD k.toNat

/-- A predicate replaced; p0 is never a destination (R101). -/
def State.writeP (s : State) (k : PReg) (b : Bool) : State :=
  s.onRun fun r => if k = 0 then r else
    { r with p := if b then r.p ||| BitVec.ofNat 8 (2 ^ k.toNat) else r.p &&& ~~~ (BitVec.ofNat 8 (2 ^ k.toNat)) }

/-- The rounding mode of a field (Table 4-8); .RGN takes the region's at issue. -/
def State.rounding (s : State) (r : Run) : Rnd → RMode
  | .rne => .rne | .rtz => .rtz | .rup => .rup | .rdn => .rdn | .rna => .rna
  | .rgn => s.rmodeOf r.region

/-! ## Supplies (R74) -/

/-- Free symbols of a core. -/
def Core.symsFree (c : Core) : Nat := 64 - c.syms.length

/-- Free dependant-pool entries of a core. -/
def Core.poolFree (c : Core) : Nat := 256 - c.pool.length

/-- What a threadlet waits for that finds too few symbols or pool entries. -/
def Core.short (c : Core) : Wait := .supply c.syms.length c.pool.length

/-- `syms` symbols and `entries` pool entries are there, with an entry left for every symbolic register of `r`;
otherwise the threadlet parks with cause 4. -/
def State.supply (s : State) (r : Run) (syms entries : Nat) : Except Stop Unit :=
  let c := s.core s.cur
  if syms ≤ c.symsFree ∧ entries + r.symbolic.length ≤ c.poolFree then .ok ()
  else .error (.park 4 c.short)

/-- A register made symbolic, or given any other content, with the check of R74. -/
def State.writeForm (s : State) (r : Run) (d : XReg) (v : RVal) : Except Stop State :=
  match v with
  | .known w => .ok (s.writeX d w)
  | v => (s.supply (r.write d v) 0 0).map fun _ => s.writeR d v

/-! ## Folding (Table 3-2) -/

/-- An integer form, known when its coefficient is zero. -/
def formOf (sym : Nat) (a b : Word) : RVal := if a = 0 then .known b else .form sym a b

/-- The sum of two contents, none where they do not fold. -/
def foldAdd : RVal → RVal → Option RVal
  | .known x, .known y => some (.known (x + y))
  | .form i a b, .known y => some (.form i a (b + y))
  | .known x, .form i a b => some (.form i a (x + b))
  | .form i a b, .form j c d => if i = j then some (formOf i (a + c) (b + d)) else none
  | .chain .., _ => none
  | _, .chain .. => none

/-- The difference of two contents. -/
def foldSub : RVal → RVal → Option RVal
  | .known x, .known y => some (.known (x - y))
  | .form i a b, .known y => some (.form i a (b - y))
  | .known x, .form i a b => some (formOf i (-a) (x - b))
  | .form i a b, .form j c d => if i = j then some (formOf i (a - c) (b - d)) else none
  | .chain .., _ => none
  | _, .chain .. => none

/-- The product of two contents. -/
def foldMul : RVal → RVal → Option RVal
  | .known x, .known y => some (.known (x * y))
  | .form i a b, .known y => some (formOf i (a * y) (b * y))
  | .known x, .form i a b => some (formOf i (a * x) (b * x))
  | .form .., .form .. => none
  | .chain .., _ => none
  | _, .chain .. => none

/-- The fold's result, or a park for both operands. -/
def folded (x y : RVal) (o : Option RVal) : Except Stop RVal :=
  match o with
  | some v => .ok v
  | none => .error (waitFor [x, y])

/-- A content as a floating-point form: the symbol and the steps so far. -/
def RVal.asChain : RVal → Option (Nat × List ChainStep)
  | .known _ => none
  | .form i a b => if a = 1 ∧ b = 0 then some (i, []) else none
  | .chain i st => some (i, st)

/-- A step recorded on a chain of fewer than four, by the instruction that stands at `o` (R69, R77). -/
def record (o : Origin) (op : ChainOp) (p : Prec) (sat : Bool) (rm : RMode) (pos : Nat) (v : RVal) (k1 k2 : Word) :
    Except Stop RVal :=
  match v.asChain with
  | none => .error (waitFor [v])
  | some (i, st) =>
    if st.length < 4 then .ok (.chain i (st ++ [⟨op, p == .d, sat, rm, pos, k1, k2, o.block, o.index, o.iter⟩]))
    else .error (waitFor [v])

/-! ## Sizes and addresses -/

end Sys2Proof.Machine

namespace Sys2Proof

open Machine

/-- Bytes of an access size. -/
def Size.bytes : Size → Nat
  | .b => 1 | .h => 2 | .w => 4 | .d => 8

/-- Bytes of an atomic's size. -/
def ASize.bytes : ASize → Nat
  | .w => 4 | .d => 8

end Sys2Proof

namespace Sys2Proof.Machine

open Sys2Proof

/-- wrap64 of a base and a scaled signed offset (R353). -/
def scaled (base : Word) (off : BitVec 8) (scale : Nat) : Word := base + BitVec.ofInt 64 (off.toInt * scale)

/-- A loaded value extended to 64 bits. -/
def extend (u : Bool) (bytes v : Nat) : Word := if u then BitVec.ofNat 64 v else signExtend (8 * bytes) v

/-- Is the address outside the 52 implemented bits (R206)? -/
def highVa (a : Word) : Bool := field a 63 52 != 0

end Sys2Proof.Machine
end

