-- ==== Sys2Proof/Machine/Control.lean ====
section
/-! DEFINITION. Control flow: branches, REP, FIN, PARK and the software traps (R91-R93, R314, R337, R339, R351, R359,
R370, R371, R376). -/

namespace Sys2Proof.Machine

open Sys2Proof

/-- An instruction that transfers the threadlet, after reading the block it may enter at an index there: the lines it reads
stay in the instruction caches (R198). -/
def guardedEntry (g : Guard) (reads : Run → Option (Nat × Nat)) (f : State → Run → Except Stop Run) (s : State) :
    Host.Outcome State Fault Refusal :=
  s.running fun r =>
    if r.holds g then
      let t := match reads r with
        | some b => s.readEntry s.cur (s.asid r.region) b.1 b.2
        | none => s
      t.settle r 1 ((f t r).map (t.setRun s.cur))
    else s.next 1

/-- B (R337). -/
def execB (g : Guard) (off : BitVec 21) (s : State) :=
  guardedEntry g (fun r => some (r.branchReads off.toInt)) (fun s r => s.branch r off.toInt) s

/-- CALL: x29 takes the pointer to the next word, unless the entry faults (R337). -/
def execCall (g : Guard) (off : BitVec 21) (s : State) :=
  guardedEntry g (fun r => some (r.branchReads off.toInt)) (fun s r =>
    (s.branch r off.toInt).map fun t => t.write 29 (.known (codePointer r.block (r.idx + 1)))) s

/-- The block that a pointer in a register leads to, where it is known and its reserved bits are zero. -/
def Run.pointerIn (r : Run) (a : XReg) : Option (Nat × Nat) :=
  match r.get a with
  | .known p => if field p 63 60 ≠ 0 ∨ field p 11 8 ≠ 0 then none else some (pointerReads p)
  | _ => none

/-- JR (R359). -/
def execJr (g : Guard) (a : XReg) (s : State) :=
  guardedEntry g (fun r => r.pointerIn a) (fun s r => (r.known a).bind (s.jumpTo r)) s

/-- RET (R359). -/
def execRet (g : Guard) (s : State) :=
  guardedEntry g (fun r => r.pointerIn 29) (fun s r => (r.known 29).bind (s.jumpTo r)) s

/-- A REP body lies in its block and does not end in the first word of a long form (R376, Table 4-27).
DEDUCED, log entry 59. -/
def repBodyOk (n : BitVec 7) (s : State) (r : Run) : Except Stop Unit :=
  let last := r.idx + n.toNat
  let ends := (((s.codePeek s.cur (s.asid r.region) (r.block + 16 + 4 * last)).map fun w =>
    isLongOp (w.extractLsb' 21 7)).getD false) && !s.secondWord r r.block last
  if r.len < last ∨ ends = true then .error (.fault 0x01 0 0) else .ok ()

/-- REP (R376). -/
def execRep (g : Guard) (a : XReg) (n : BitVec 7) (s : State) :=
  s.running fun r =>
    match repBodyOk n s r with
    | .error e => s.settle r 1 (.error e)
    | .ok _ =>
      if r.holds g then
        s.settle r 1 (do
          if r.rep.isSome then .error (.fault 0x01 0 0)
          let c ← r.known a
          if 2 ^ 24 ≤ c.toNat then .error (.fault 0x07 0 0)
          .ok (s.setRun s.cur
            (if c = 0 then { r with idx := r.idx + 1 + n.toNat, bpSkip := 0 }
             else { r with idx := r.idx + 1, rep := some ⟨r.idx + 1, n.toNat, c.toNat, 0⟩, bpSkip := 0 })))
      else s.next 1

/-- FIN: the threadlet is Retired (R351). -/
def execFin (g : Guard) (s : State) :=
  guardedJump g (fun s r => .ok ((s.endRun s.cur r).retire s.cur r.fid r.region (some r.tid))) s

/-- The condition of a PARK (Table 16-1). -/
def parkWait (w : Word) : Option Wait :=
  if field w 61 48 ≠ 0 then none
  else
    match field w 63 62 with
    | 0 => if field w 47 0 = 0 then some .atOnce else none
    | 1 => some (.time (field w 47 0))
    | 2 => if field w 47 0 = 0 then some .acks else none
    | _ => none

/-- PARK (R371). -/
def execPark (g : Guard) (a : XReg) (s : State) :=
  guardedJump g (fun s r => do
    let w ← r.known a
    match parkWait w with
    | none => .error (.fault 0x07 0 0)
    | some wait => .ok (s.park s.cur r 1 2 wait)) s

/-- NOP (R370). -/
def execNop (g : Guard) (s : State) := guarded g 1 (fun s _ => .ok s) s

/-- BRK: Held while DEBUG is 3 or 4, otherwise a NOP (R314). -/
def execBrk (g : Guard) (code : BitVec 15) (s : State) :=
  guarded g 1 (fun s r =>
    if s.debugOf r.region = 3 ∨ s.debugOf r.region = 4 then .error (.trap 0x12 (code.zeroExtend 64)) else .ok s) s

/-- TRAP (R314). -/
def execTrap (g : Guard) (code : BitVec 15) (s : State) :=
  guarded g 1 (fun _ _ => .error (.trap 0x13 (code.zeroExtend 64))) s

/-- SVC (R314). -/
def execSvc (g : Guard) (code : BitVec 15) (s : State) :=
  guarded g 1 (fun _ _ => .error (.trap 0x16 (code.zeroExtend 64))) s

end Sys2Proof.Machine
end

