-- ==== Sys2Proof/Machine/Integer.lean ====
section
/-! DEFINITION. Scalar integer instructions and the long scalar forms (R328, R329, R334, R335, R338, R340, R343, R363,
R364, R369, R381). -/

namespace Sys2Proof.Machine

open Sys2Proof

/-- A two-operand instruction that does not fold. -/
def alu2 (op : Word → Word → Word) (d a b : XReg) : Meaning := fun s r => do
  let (x, y) ← r.known2 a b
  .ok (s.writeX d (op x y))

/-- A one-operand instruction. -/
def alu1 (op : Word → Word) (d a : XReg) : Meaning := fun s r => do
  let x ← r.known a
  .ok (s.writeX d (op x))

/-- A two-operand instruction that folds late values. -/
def aluFold (fold : RVal → RVal → Option RVal) (d a b : XReg) : Meaning := fun s r => do
  let v ← folded (r.get a) (r.get b) (fold (r.get a) (r.get b))
  s.writeForm r d v

/-- ADD (R328). -/
def execAdd (g : Guard) (d a b : XReg) (s : State) := guarded g 1 (aluFold foldAdd d a b) s

/-- SUB (R328). -/
def execSub (g : Guard) (d a b : XReg) (s : State) := guarded g 1 (aluFold foldSub d a b) s

/-- AND (R334). -/
def execAnd (g : Guard) (d a b : XReg) (s : State) := guarded g 1 (alu2 (· &&& ·) d a b) s

/-- OR (R334). -/
def execOr (g : Guard) (d a b : XReg) (s : State) := guarded g 1 (alu2 (· ||| ·) d a b) s

/-- XOR (R334). -/
def execXor (g : Guard) (d a b : XReg) (s : State) := guarded g 1 (alu2 (· ^^^ ·) d a b) s

/-- A left shift: a form in xa folds as a product by 2^s; a form in the amount parks (R381). -/
def shiftLeft (d a : XReg) (amount : RVal) : Meaning := fun s r =>
  match amount with
  | .known k => do
    let v ← folded (r.get a) (.known 0) (foldMul (r.get a) (.known (BitVec.ofNat 64 (2 ^ (k.toNat % 64)))))
    s.writeForm r d v
  | k => .error (waitFor [r.get a, k])

/-- SHL (R381). -/
def execShl (g : Guard) (d a b : XReg) (s : State) := guarded g 1 (fun s r => shiftLeft d a (r.get b) s r) s

/-- SHR (R381). -/
def execShr (g : Guard) (d a b : XReg) (s : State) := guarded g 1 (alu2 (fun x y => x >>> (y.toNat % 64)) d a b) s

/-- SAR (R381). -/
def execSar (g : Guard) (d a b : XReg) (s : State) :=
  guarded g 1 (alu2 (fun x y => x.sshiftRight (y.toNat % 64)) d a b) s

/-- MIN (R364). -/
def execMin (g : Guard) (d a b : XReg) (s : State) := guarded g 1 (alu2 (fun x y => if y.slt x then y else x) d a b) s

/-- MAX (R364). -/
def execMax (g : Guard) (d a b : XReg) (s : State) := guarded g 1 (alu2 (fun x y => if x.slt y then y else x) d a b) s

/-- MINU (R364). -/
def execMinu (g : Guard) (d a b : XReg) (s : State) := guarded g 1 (alu2 (fun x y => if y < x then y else x) d a b) s

/-- MAXU (R364). -/
def execMaxu (g : Guard) (d a b : XReg) (s : State) := guarded g 1 (alu2 (fun x y => if x < y then y else x) d a b) s

/-- MUL (R369). -/
def execMul (g : Guard) (d a b : XReg) (s : State) := guarded g 1 (aluFold foldMul d a b) s

/-- Bits [127:64] of the signed product. -/
def mulHigh (x y : Word) : Word := BitVec.ofInt 64 (x.toInt * y.toInt / 2 ^ 64)

/-- MULH (R369). -/
def execMulh (g : Guard) (d a b : XReg) (s : State) := guarded g 1 (alu2 mulHigh d a b) s

/-- MULHU (R369). -/
def execMulhu (g : Guard) (d a b : XReg) (s : State) :=
  guarded g 1 (alu2 (fun x y => BitVec.ofNat 64 (x.toNat * y.toNat / 2 ^ 64)) d a b) s

/-- The signed quotient: truncated, all ones for a zero divisor, 2^63 − 1 for −2^63 by −1 (R343). -/
def divSigned (x y : Word) : Word :=
  if y = 0 then BitVec.allOnes 64
  else if x = BitVec.intMin 64 ∧ y = BitVec.allOnes 64 then BitVec.ofNat 64 (2 ^ 63 - 1)
  else BitVec.ofInt 64 (x.toInt.tdiv y.toInt)

/-- The signed remainder: the dividend for a zero divisor, −1 for −2^63 by −1 (R343). -/
def remSigned (x y : Word) : Word :=
  if y = 0 then x
  else if x = BitVec.intMin 64 ∧ y = BitVec.allOnes 64 then BitVec.allOnes 64
  else BitVec.ofInt 64 (x.toInt.tmod y.toInt)

/-- DIV (R343). -/
def execDiv (g : Guard) (d a b : XReg) (s : State) := guarded g 1 (alu2 divSigned d a b) s

/-- DIVU (R343). -/
def execDivu (g : Guard) (d a b : XReg) (s : State) :=
  guarded g 1 (alu2 (fun x y => if y = 0 then BitVec.allOnes 64 else x / y) d a b) s

/-- REM (R343). -/
def execRem (g : Guard) (d a b : XReg) (s : State) := guarded g 1 (alu2 remSigned d a b) s

/-- REMU (R343). -/
def execRemu (g : Guard) (d a b : XReg) (s : State) :=
  guarded g 1 (alu2 (fun x y => if y = 0 then x else x % y) d a b) s

/-- Leading zero bits. -/
def leadingZeros (x : Word) : Word := BitVec.ofNat 64 (64 - bitLen x.toNat)

/-- Trailing zero bits: of the `n` lowest bits, those below the first set one. -/
def trailingZeros (x : Word) : Nat → Nat
  | 0 => 0
  | n + 1 => if x.getLsbD (63 - n) then 0 else 1 + trailingZeros x n

/-- Set bits. -/
def popCount (x : Word) : Nat := ((List.range 64).filter fun i => x.getLsbD i).length

/-- CLZ (R340). -/
def execClz (g : Guard) (d a : XReg) (s : State) := guarded g 1 (alu1 leadingZeros d a) s

/-- CTZ (R340). -/
def execCtz (g : Guard) (d a : XReg) (s : State) := guarded g 1 (alu1 (fun x => BitVec.ofNat 64 (trailingZeros x 64)) d a) s

/-- POPC (R340). -/
def execPopc (g : Guard) (d a : XReg) (s : State) := guarded g 1 (alu1 (fun x => BitVec.ofNat 64 (popCount x)) d a) s

/-- ADDI (R329). -/
def execAddi (g : Guard) (d a : XReg) (imm : BitVec 11) (s : State) :=
  guarded g 1 (fun s r => do
    let k := RVal.known (imm.signExtend 64)
    let v ← folded (r.get a) k (foldAdd (r.get a) k)
    s.writeForm r d v) s

/-- ANDI (R335). -/
def execAndi (g : Guard) (d a : XReg) (imm : BitVec 11) (s : State) := guarded g 1 (alu1 (· &&& imm.signExtend 64) d a) s

/-- ORI (R335). -/
def execOri (g : Guard) (d a : XReg) (imm : BitVec 11) (s : State) := guarded g 1 (alu1 (· ||| imm.signExtend 64) d a) s

/-- XORI (R335). -/
def execXori (g : Guard) (d a : XReg) (imm : BitVec 11) (s : State) := guarded g 1 (alu1 (· ^^^ imm.signExtend 64) d a) s

/-- SHLI (R381). -/
def execShli (g : Guard) (d a : XReg) (sh : BitVec 6) (s : State) :=
  guarded g 1 (shiftLeft d a (.known (sh.zeroExtend 64))) s

/-- SHRI (R381). -/
def execShri (g : Guard) (d a : XReg) (sh : BitVec 6) (s : State) := guarded g 1 (alu1 (· >>> sh.toNat) d a) s

/-- SARI (R381). -/
def execSari (g : Guard) (d a : XReg) (sh : BitVec 6) (s : State) := guarded g 1 (alu1 (·.sshiftRight sh.toNat) d a) s

/-- LIMM (R363). -/
def execLimm (g : Guard) (d : XReg) (imm : BitVec 32) (s : State) :=
  guarded g 2 (fun s _ => .ok (s.writeX d (imm.signExtend 64))) s

/-- LUI (R363). -/
def execLui (g : Guard) (d : XReg) (imm : BitVec 32) (s : State) :=
  guarded g 2 (alu1 (fun x => imm ++ x.extractLsb' 0 32) d d) s

/-- The bits `pos` … `pos + len − 1` of a word, zero-extended. -/
def bitExtract (x : Word) (pos len : Nat) : Word := BitVec.ofNat 64 ((x.toNat >>> pos) % 2 ^ len)

/-- The low `len` bits of `x` put at `pos` of `d`. -/
def bitInsert (d x : Word) (pos len : Nat) : Word :=
  let m := BitVec.ofNat 64 ((2 ^ len - 1) <<< pos)
  (d &&& ~~~ m) ||| ((x <<< pos) &&& m)

/-- BFX (R338). -/
def execBfx (g : Guard) (d a : XReg) (pos : BitVec 6) (len : BitVec 7) (s : State) :=
  guarded g 2 (alu1 (fun x => bitExtract x pos.toNat len.toNat) d a) s

/-- BFI (R338). -/
def execBfi (g : Guard) (d a : XReg) (pos : BitVec 6) (len : BitVec 7) (s : State) :=
  guarded g 2 (alu2 (fun x y => bitInsert x y pos.toNat len.toNat) d d a) s

end Sys2Proof.Machine
end

