-- ==== Sys2Proof/Machine/Order.lean ====
section
/-! DEFINITION. Handing operations to the source interface: the order stage, barriers and their conditions, the
acknowledgement counts, deferred effects, watchpoints, and the checks of the operations that may be deferred (R52, R59,
R71-R76, R82, R217, R219-R226, R242-R244, R313, R319). -/

namespace Sys2Proof.Machine

open Sys2Proof

/-! ## Kinds of operations -/

/-- A write or atomic that counts in WACK (R217, R397, R416). -/
def OpBody.isWrite : OpBody → Bool
  | .gst .. | .gstv .. | .atom .. | .uapply .. | .waycfg .. => true
  | .gld .. | .ldl .. | .pref .. | .pair .. | .flagOr .. | .signal .. | .amsg .. | .arm .. | .resume .. | .rgnctl ..
  | .pieceRead .. | .pieceWrite .. | .element .. => false

/-- A GLD or a late load (R223). -/
def OpBody.isLoad : OpBody → Bool
  | .gld .. | .ldl .. => true
  | .gst .. | .gstv .. | .atom .. | .uapply .. | .waycfg .. | .pref .. | .pair .. | .flagOr .. | .signal .. | .amsg ..
  | .arm .. | .resume .. | .rgnctl .. | .pieceRead .. | .pieceWrite .. | .element .. => false

/-- An operation of the pipeline's threadlets, and not of an engine or of a retired threadlet's flags. -/
def OpBody.isPipe : OpBody → Bool
  | .pieceRead .. | .pieceWrite .. | .element .. | .flagOr .. => false
  | .gld .. | .ldl .. | .gst .. | .gstv .. | .atom .. | .uapply .. | .waycfg .. | .pref .. | .pair .. | .signal ..
  | .amsg .. | .arm .. | .resume .. | .rgnctl .. => true

/-- Is the operation translated and performed in global memory, rather than sent as a packet at once? -/
def OpBody.isGlobal : OpBody → Bool
  | .signal .. | .amsg .. | .arm .. | .resume .. | .rgnctl .. | .waycfg .. => false
  | .gld .. | .ldl .. | .gst .. | .gstv .. | .atom .. | .uapply .. | .pref .. | .pair .. | .flagOr .. | .pieceRead ..
  | .pieceWrite .. | .element .. => true

/-- Injected operations that have not completed: at the source interface, held, or outstanding. -/
def Core.injected (c : Core) : List Op := c.src ++ c.replay.map (·.2.op) ++ c.fwait.map (·.op) ++ c.outst

/-- WACK of a threadlet (R217). DEDUCED, log entry 16. -/
def Core.wack (c : Core) (tid : Nat) : Nat :=
  (c.injected.filter fun o => o.org.tid == tid && o.body.isWrite).length

/-- UACK of a threadlet (R217). -/
def Core.uack (c : Core) (tid : Nat) : Nat := (c.upds.filter fun e => e.2.tid == tid && e.2.left != 0).length

/-- Writes and atomics that a threadlet has issued and that are not acknowledged, those that wait in the order stage or
behind a barrier too (R371). -/
def Core.writesLeft (c : Core) (tid : Nat) : Nat :=
  (c.ops.filter fun o => o.org.tid == tid && o.body.isWrite).length

/-! ## Barriers (R221-R226, Table 9-4) -/

/-- Is a barrier of a threadlet that was issued before `seq` pending? -/
def Core.mustWait (c : Core) (tid seq : Nat) : Bool := c.barriers.any fun b => b.org.tid == tid && decide (b.seq < seq)

/-- No earlier operation of a threadlet that satisfies a test is still on its way. -/
def Core.doneBefore (c : Core) (tid seq : Nat) (f : Op → Bool) : Bool :=
  !((c.injected ++ c.stage).any fun o => o.org.tid == tid && decide (o.seq < seq) && o.body.isPipe && f o)

/-- No earlier deferred effect of a threadlet waits in the pool. -/
def Core.effectsDone (c : Core) (tid seq : Nat) : Bool :=
  !(c.pool.any fun e => e.2.org.tid == tid && e.2.isEffect && decide (e.2.seq < seq))

/-- Every earlier update of a threadlet is accepted. -/
def Core.updatesDone (c : Core) (tid seq : Nat) : Bool :=
  !(c.upds.any fun e => e.2.tid == tid && decide (e.2.seq < seq) && e.2.left != 0)

/-- The condition of a pending barrier: no earlier barrier of its threadlet is pending, and the kind's own. -/
def Core.barrierMet (c : Core) (b : Barrier) : Bool :=
  let t := b.org.tid
  let q := b.seq
  let module_ := c.effectsDone t q && c.doneBefore t q fun o => o.body.isWrite && !o.far
  !c.mustWait t q &&
  match b.kind with
  | .fence w u e scope =>
    (!w || (c.effectsDone t q && (scope == .l || c.doneBefore t q fun o => o.body.isWrite && (scope == .s || !o.far))))
      && (!u || scope == .l || c.updatesDone t q)
      && (!e || !(b.cmds.any fun i => c.copyq.any (·.id == i) || c.tileq.any (·.id == i)))
  | .release _ =>
    c.effectsDone t q && c.updatesDone t q && c.doneBefore t q fun o => o.body.isWrite || o.body.isLoad
  | .acq op => !((c.injected ++ c.stage).any (·.id == op))
  | .iflush .. | .iflushAll | .tlbinvPg .. | .tlbinvAs _ | .tlbinvAll => module_

/-- Does a TLBINV cover a page of an address space, which a walk waits for (R395, R396)? -/
def BarrierKind.coversWalk (k : BarrierKind) (asid va size : Nat) : Bool :=
  match k with
  | .tlbinvPg a v => a == asid && decide (va ≤ v ∧ v < va + size)
  | .tlbinvAs a => a == asid
  | .tlbinvAll => true
  | .fence .. | .release _ | .acq _ | .iflush .. | .iflushAll => false

/-- Has every walk of an address that a TLBINV covers completed (R396)? One that waits for its page to be zeroed has not. -/
def State.walksDone (s : State) (b : Barrier) : Bool :=
  !(s.zeroing.any fun z => z.walks.any fun w => b.kind.coversWalk w.1 w.2 z.size)

/-- Does a pending barrier make the combiner send (R244)? -/
def Barrier.flushes (b : Barrier) : Bool :=
  match b.kind with
  | .fence _ u _ _ => u
  | .release _ => true
  | .acq _ | .iflush .. | .iflushAll | .tlbinvPg .. | .tlbinvAs _ | .tlbinvAll => false

/-- Every combiner buffer of a core injected (R244); a packet is progress of every region with a pair in it. -/
def State.flushCombiner (s : State) (core : Nat) : State :=
  let c := s.core core
  let s1 := s.setCore core { c with comb := [] }
  c.comb.foldl (fun s e =>
    let s' := s.send ⟨.upd, .core core, .eddy e.1, ((e.2.head?).map (·.region)).getD 0, .updates e.2⟩
    ((e.2.map (·.region)).foldl insertNat []).foldl State.progress s') s1

/-- A barrier made pending. -/
def State.addBarrier (s : State) (core : Nat) (b : Barrier) : State :=
  let s1 := s.onCore core fun c => { c with barriers := c.barriers ++ [b] }
  if b.flushes then s1.flushCombiner core else s1

/-! ## Leaving the order stage -/

/-- The affinity entries a core or front end has cached (R281). -/
def State.affCache (s : State) : Agent → List (Nat × Nat)
  | .core n => (s.core n).aff
  | .frontEnd b => (SMap.get s.fes b FrontEnd.init).aff
  | _ => []

/-- They are replaced. -/
def State.setAffCache (s : State) (a : Agent) (l : List (Nat × Nat)) : State :=
  match a with
  | .core n => s.onCore n fun c => { c with aff := l }
  | .frontEnd b => { s with fes := SMap.set s.fes b { SMap.get s.fes b FrontEnd.init with aff := l } }
  | _ => s

/-- An affinity entry: where the cached one differs from the table, either (R281; DESIGN CHOICE, log entry 4). The cache keeps 256. -/
def State.affEntry (s : State) (a : Agent) (g : Region) (region i : Nat) : Nat × State :=
  let (bs, _, s1) := s.fetch (g.afftab + 2 * i) 2
  let now := natOf bs
  let key := 4096 * region + i
  let l := s.affCache a
  let rest := l.filter (·.1 != key)
  match l.find? (·.1 == key) with
  | none => (now, s1.setAffCache a (((key, now) :: rest).take 256))
  | some (_, old) =>
    if old = now then (now, s1)
    else
      let (k, s2) := s1.choose 2
      let e := if k = 0 then old else now
      (e, s2.setAffCache a ((key, e) :: rest))

/-- The owning core of a data address in a region's affinity table (R59), none for a bad entry; `a` does the hashing. -/
def State.ownerOf (s : State) (a : Agent) (region : Nat) (addr : Word) : Option Nat × State :=
  match s.region region with
  | none => (none, s)
  | some g =>
    let (e, s1) := s.affEntry a g region ((field addr 51 0 / 2 ^ g.affg) % g.affm)
    if e < 2048 ∧ g.coreset.getLsbD e = true then (some e, s1) else (none, s1)

/-- The record of an operation that has no valid route when it is injected: SRC 8 (R319), or that of a deferred effect
(R77, R85). -/
def State.routeFault (s : State) (core : Nat) (o : Origin) (deferred : Bool) (addr : Nat) : State :=
  s.sendRecord o.region
    (if deferred then Rec.of 0x09 2 (.core core) o addr (place 1 0) else Rec.of 0x09 8 (.core core) o addr 0)

/-- A signal injected: where its route has become invalid it is discarded with a record (R319). -/
def State.launchSignal (s : State) (core : Nat) (o : Op) (ref : Word) (dec : Nat) (data : SigData) (rel err : Bool) :
    State :=
  if s.routeOk (Ref.of ref).module then s.sendSignal core o.org.region ref dec data rel err
  else s.routeFault core o.org o.deferred 0

/-- The completion of an engine's work: of class RSP to a slot of the issuing core, of class SIG elsewhere (Table 1-2);
where its route has become invalid it is discarded with a record (R319). -/
def State.sendCompletion (s : State) (core : Nat) (o : Origin) (ref : Word) (dec : Nat) (err : Bool) : State :=
  let a := s.refAgent (Ref.of ref)
  if s.routeOk (Ref.of ref).module then
    s.inject core o.region (if a = .core core then .rsp else .sig) a (.signal ref dec .none false err)
  else s.routeFault core o false 0

/-- An operation leaves the order stage: a packet is sent, or the operation enters the source interface in order. Table 1-2
gives no class to the packets of RESUME and RGNCTL. DESIGN CHOICE, log entry 81: they travel in REQ. -/
def State.launch (s : State) (core : Nat) (o : Op) : State :=
  match o.body with
  | .signal ref dec data rel err => s.launchSignal core o ref dec data rel err
  | .amsg handler addr payload =>
    match s.ownerOf (.core core) o.org.region addr with
    | (some n, s1) => s1.inject core o.org.region .sig (.core n) (.amsg handler addr payload none)
    | (none, s1) => s1.sendRecord o.org.region (Rec.of 0x09 8 (.core core) o.org 0 0)
  | .arm ref thresh cmd =>
    if s.routeOk (Ref.of ref).module then
      s.inject core o.org.region .sig (s.refAgent (Ref.of ref)) (.arm ref thresh cmd o.org none)
    else s.routeFault core o.org o.deferred 0
  | .resume form token =>
    s.inject core o.org.region .req (.core (field token 42 32)) (.resume form token o.org)
  | .rgnctl op rcb arg ref => s.inject core o.org.region .req .service (.rgnctl op rcb arg ref o.org)
  | .waycfg sl w =>
    (s.onCore core fun c => { c with outst := c.outst ++ [o] }).inject core o.org.region .req (.slice sl) (.waycfg o.id w)
  | _ => s.onCore core fun c => { c with src := c.src ++ [o] }

/-- The operations of the order stage that no barrier holds any longer, in their order. -/
def State.drainStage (s : State) (core : Nat) : State :=
  let c := s.core core
  let go := c.stage.filter fun o => !c.mustWait o.org.tid o.seq
  let s1 := s.setCore core { c with stage := c.stage.filter fun o => c.mustWait o.org.tid o.seq }
  go.foldl (fun s o => s.launch core o) s1

/-- An operation issued: it waits in the order stage behind a pending barrier of its threadlet, or leaves at once. A store that
waits there keeps back no later store of another threadlet to its slice (R219, R221; DESIGN CHOICE, log entry 89). -/
def State.submit (s : State) (core : Nat) (o : Op) : State :=
  if (s.core core).mustWait o.org.tid o.seq then s.onCore core fun c => { c with stage := c.stage ++ [o] }
  else s.launch core o

/-- A number for the next operation or entry of a core. -/
def State.newSeq (s : State) (core : Nat) : Nat × State :=
  ((s.core core).nextSeq, s.onCore core fun c => { c with nextSeq := c.nextSeq + 1 })

/-! ## Issue (R221, R226) -/

/-- The symbols of a threadlet's .ACQ atomics that have not resolved. -/
def Core.acqPending (c : Core) (tid : Nat) : List Nat :=
  (c.syms.filter fun e => e.2.tid == tid && e.2.acq && (e.2.st == .pending || e.2.st == .awaiting)).map (·.1)

/-- After an .ACQ atomic, a global operation, signal or engine command parks until its symbol resolves (R226). -/
def State.acquired (s : State) (r : Run) : Except Stop Unit :=
  let l := (s.core s.cur).acqPending r.tid
  if l.isEmpty then .ok () else .error (.park 0 (.syms l))

/-- Is a barrier a release that waits behind an earlier barrier of its threadlet? It stands in the order stage (R221). -/
def Core.waitingRelease (c : Core) (b : Barrier) : Bool :=
  match b.kind with
  | .release _ => c.mustWait b.org.tid b.seq
  | .fence .. | .acq _ | .iflush .. | .iflushAll | .tlbinvPg .. | .tlbinvAs _ | .tlbinvAll => false

/-- Entries of the order stage in use: the pairs of one update instruction take one. -/
def Core.stageUsed (c : Core) : Nat :=
  let upds := c.stage.foldl (fun l o => match o.body with | .pair u _ _ _ => insertNat l u | _ => l) []
  (c.stage.filter fun o => match o.body with | .pair .. => false | _ => true).length + upds.length
    + (c.barriers.filter c.waitingRelease).length

/-- The value a symbol holds for its dependants. -/
def Core.symValue (c : Core) (sym : Nat) : Option Word :=
  (SMap.find c.syms sym).bind fun x => match x.st with | .resolving v => some v | _ => none

/-- Is a symbol resolved with a value? -/
def Core.symReady (c : Core) (sym : Nat) : Bool := (c.symValue sym).isSome

/-- Has a symbol still to resolve (Table 3-1)? -/
def Core.symOpen (c : Core) (sym : Nat) : Bool :=
  ((SMap.find c.syms sym).map fun x => x.st == .pending || x.st == .awaiting).getD false

/-- Deferred effects whose symbols have resolved and that need an entry of the order stage: they take the next entries
that free, ahead of instructions (R76). -/
def Core.waitingEffects (c : Core) : Nat :=
  (c.pool.filter fun e => e.2.isEffect && !e.2.symbols.isEmpty && e.2.symbols.all c.symReady
    && c.mustWait e.2.org.tid e.2.seq).length

/-- Has the order stage an entry for an instruction? -/
def Core.stageOpen (c : Core) : Bool := decide (c.stageUsed + c.waitingEffects < 32)

/-- Room in the order stage for an operation that must wait there (R76, R221). -/
def State.stageRoom (s : State) (r : Run) : Except Stop Unit :=
  let c := s.core s.cur
  if c.mustWait r.tid c.nextSeq && !c.stageOpen then .error (.park 1 .stage) else .ok ()

/-- Does an address lie in a page of another module toward which there is no valid route (R319)? -/
def State.unrouted (s : State) (core asid va : Nat) : Bool :=
  match s.lookup core asid va with
  | .leaf t => t.type == 3 && !t.host && !s.routeOk (t.pa / 2 ^ 48 % 256)
  | _ => false

/-- An access toward a module that has no valid route raises the bad-reference fault at issue (R319). -/
def State.routed (s : State) (r : Run) (vas : List Nat) : Except Stop Unit :=
  match vas.find? fun va => s.unrouted s.cur (s.asid r.region) va with
  | some va => .error (.fault 0x09 va 0)
  | none => .ok ()

/-- An operation of the Running threadlet handed over, every check made. -/
def State.enter (s : State) (r : Run) (body : OpBody) : State :=
  let (q, s1) := s.newSeq s.cur
  s1.submit s.cur { id := q, seq := q, org := r.origin, deferred := false, far := false, body := body }

/-- An operation of the Running threadlet issued. -/
def State.issueOp (s : State) (r : Run) (body : OpBody) : Except Stop State := do
  s.acquired r
  s.stageRoom r
  .ok (s.enter r body)

/-- Does a deferred effect of a threadlet, created before `seq`, depend on an unresolved symbol (R81, R82)? -/
def Core.effectsOpen (c : Core) (tid seq : Nat) : Bool :=
  c.pool.any fun e => e.2.org.tid == tid && e.2.isEffect && decide (e.2.seq < seq) && e.2.symbols.any c.symOpen

/-- FENCE.W and releases park with cause 0 while an earlier deferred effect is unresolved (R82). -/
def State.effectsResolved (s : State) (r : Run) : Except Stop Unit :=
  let c := s.core s.cur
  if c.effectsOpen r.tid c.nextSeq then .error (.park 0 (.deferred c.nextSeq)) else .ok ()

/-- A release as a barrier: injected at once when its condition already holds (R223). -/
def State.release (s : State) (core : Nat) (o : Op) : State :=
  let b : Barrier := { seq := o.seq, org := o.org, kind := .release o, cmds := [] }
  if (s.core core).barrierMet b then s.launch core o else s.addBarrier core b

/-- A release of the Running threadlet handed over, every check made. -/
def State.enterRelease (s : State) (r : Run) (body : OpBody) : State :=
  let (q, s1) := s.newSeq s.cur
  s1.release s.cur { id := q, seq := q, org := r.origin, deferred := false, far := false, body := body }

/-- A release issued (R82, R221, R223, R226). -/
def State.issueRelease (s : State) (r : Run) (body : OpBody) : Except Stop State := do
  s.acquired r
  s.effectsResolved r
  s.stageRoom r
  .ok (s.enterRelease r body)

/-- A fence issued. A FENCE or an .ACQ whose condition already holds leaves no barrier. -/
def State.issueFence (s : State) (r : Run) (kind : BarrierKind) (cmds : List Nat) : State :=
  let (q, s1) := s.newSeq s.cur
  let b : Barrier := { seq := q, org := r.origin, kind := kind, cmds := cmds }
  let passes : Bool := match kind with | .fence .. | .acq _ => (s1.core s.cur).barrierMet b | _ => false
  if passes then s1 else s1.addBarrier s.cur b

/-! ## Deferring (R72) -/

/-- A form that may stand as an integer operand of a deferred effect. -/
def RVal.isInt : RVal → Bool
  | .known _ => true
  | .form .. => true
  | .chain .. => false

/-- A form that may stand as a stored value: an integer or a floating-point form. -/
def RVal.isData : RVal → Bool
  | .known _ => true
  | .form .. => true
  | .chain .. => true

/-- Is any content a form? -/
def anyForm (vs : List RVal) : Bool := !(symbolsOf vs).isEmpty

/-- Can a late instruction become a deferred effect: integer forms where an integer is needed, over at most two symbols
(R72, Table 3-2)? -/
def deferrable (ops ints : List RVal) : Bool := ints.all RVal.isInt && decide ((symbolsOf ops).length ≤ 2)

/-- A deferred effect put into the pool: of its operands `ops`, `ints` may not be floating-point forms. The lowest free
entry is taken (DESIGN CHOICE, log entry 65). DEDUCED, log entry 15. -/
def State.defer (s : State) (r : Run) (e : Effect) (ops ints : List RVal) : Except Stop State := do
  s.acquired r
  if !deferrable ops ints then .error (waitFor ops)
  s.supply r 0 1
  let c := s.core s.cur
  match SMap.firstFree c.pool 0 256 with
  | none => .error (.park 4 c.short)
  | some k =>
    .ok (s.setCore s.cur { c with
      pool := SMap.set c.pool k ⟨c.nextSeq, r.origin, .effect e ops⟩, nextSeq := c.nextSeq + 1 })

/-! ## Watchpoints (R313) -/

/-- Does a debug register of a writer match threadlets of a region (R312)? -/
def State.debugMatches (s : State) (d : DebugReg) (region : Nat) : Bool :=
  if d.priv then s.debugOf region == 4
  else d.region == region && (s.debugOf region == 3 || s.debugOf region == 4)

/-- Does a watchpoint cover an access? -/
def State.watchHit (s : State) (d : DebugReg) (region va n : Nat) (write : Bool) : Bool :=
  let size := field d.val 57 52
  let rw := field d.val 62 61
  let lo := field d.val 51 0 / 2 ^ size * 2 ^ size
  bitAt d.val 63 && s.debugMatches d region && decide (3 ≤ size ∧ size ≤ 51)
    && (rw == 3 || (rw == 1 && !write) || (rw == 2 && write)) && decide (va < lo + 2 ^ size ∧ lo < va + n)

/-- DETAIL of a watchpoint match: the registers that match an access, none where no register does. -/
def State.watchDetail (s : State) (core region va n : Nat) (write : Bool) : Option Word :=
  let hit := (List.range 2).filter fun i =>
    ((SMap.find (s.core core).wp i).map fun d => s.watchHit d region va n write).getD false
  if hit.isEmpty then none else some (hit.foldl (fun w i => w ||| place 1 (4 + i)) (place 1 6))

/-- The match of a list of accesses: the first address that matches, with every register that one of them matches. -/
def State.watchAll (s : State) (core region : Nat) (write : Bool) (accesses : List (Nat × Nat)) : Option (Nat × Word) :=
  match accesses.filterMap fun a => (s.watchDetail core region a.1 a.2 write).map fun d => (a.1, d) with
  | [] => none
  | m :: ms => some (m.1, ms.foldl (fun d x => d ||| x.2) m.2)

/-- The watchpoint check of an instruction's accesses. -/
def State.watch (s : State) (r : Run) (write : Bool) (accesses : List (Nat × Nat)) : Except Stop Unit :=
  if r.bpSkip.testBit 4 then .ok ()
  else
    match s.watchAll s.cur r.region write accesses with
    | none => .ok ()
    | some (va, d) => .error (.fault 0x12 va d)

/-! ## Checks of the operations that may be deferred -/

/-- A check's fault: the code and the address. -/
abbrev Check := Except (Nat × Nat)

/-- A check as a precise fault. -/
def Check.stop {α : Type} (x : Check α) : Except Stop α := x.mapError fun e => .fault e.1 e.2 0

/-- The reference of a completion or signal at the source interface (R52, R319). -/
def State.checkRef (s : State) (ref : Word) : Check Unit := if s.refOk ref then .ok () else .error (0x09, 0)

/-- GST (R355). -/
def gstBody (sz : Size) (addr val : Word) (tag : Option Word) : Check OpBody :=
  if highVa addr then .error (0x05, addr.toNat)
  else if addr.toNat % sz.bytes ≠ 0 then .error (0x03, addr.toNat)
  else
    match tag with
    | none => .ok (.gst addr.toNat sz.bytes val none)
    | some t => if t.toNat % 4 ≠ 0 then .error (0x03, t.toNat) else .ok (.gst addr.toNat sz.bytes val (some t.toNat))

/-- GLD in its order of checks (R354). -/
def State.gldBody (s : State) (core fid : Nat) (lu : Bool) (evp : Evp) (sz : Size) (byt : Bool) (loc addr y : Word) :
    Check OpBody :=
  if highVa addr then .error (0x05, addr.toNat)
  else if addr.toNat % sz.bytes ≠ 0 then .error (0x03, addr.toNat)
  else if loc.toNat % sz.bytes ≠ 0 then .error (0x03, loc.toNat)
  else if s.localOk core fid loc.toNat sz.bytes true = false then .error (0x05, loc.toNat)
  else .ok (.gld addr.toNat loc.toNat sz.bytes lu evp y byt)

/-- LDL (R361). -/
def ldlBody (sz : Size) (u : Bool) (addr : Word) (sym : Option Nat) : Check OpBody :=
  if highVa addr then .error (0x05, addr.toNat)
  else if addr.toNat % sz.bytes ≠ 0 then .error (0x03, addr.toNat)
  else .ok (.ldl addr.toNat sz.bytes u sym)

/-- The binding of a region's stream (R243). -/
def State.streamOf (s : State) (region k : Nat) : Option (Nat × Binding) :=
  ((s.region region).map (·.ubind)).getD [] |>.findSome? fun b =>
    b.bind fun i => (SMap.find s.bindings i).bind fun x => if x.stream = k then some (i, x) else none

/-- The pairs of a UPD or UPDV as addresses and values (Table 10-3). A sum that passes 2^64 wraps: DESIGN CHOICE, log entry
91. -/
def updPairs (es : Nat) (base : Word) (va vb : VWord) (m : Word) : List (Word × Word) :=
  ((List.range (if es = 8 then 8 else 16)).filter fun i => m.getLsbD i).map fun i =>
    (base + BitVec.ofNat 64 ((va.toNat >>> (32 * i)) % 2 ^ 32 * es),
     BitVec.ofNat 64 (if es = 8 then (vb.toNat >>> (64 * i)) % 2 ^ 64 else (vb.toNat >>> (32 * i)) % 2 ^ (8 * es)))

/-- The checks of an update's pairs (R243); an update that selects no lane has no effect (R242). -/
def State.checkPairs (s : State) (region k : Nat) (pairs : Nat → List (Word × Word)) : Check (Nat × List (Word × Word)) :=
  if (pairs 4).isEmpty then .ok (0, [])
  else
  match s.streamOf region k with
  | none => .error (0x10, 0)
  | some (bid, b) =>
    let es := operSize b.oper
    let ps := pairs es
    match ps.find? fun p => p.1.toNat % es != 0 || highVa p.1 with
    | some p => if p.1.toNat % es ≠ 0 then .error (0x03, p.1.toNat) else .error (0x05, p.1.toNat)
    | none => .ok (bid, ps)

/-- The pairs of an update handed over: one count in UACK, one operation for each pair, in lane order (R217, R244). A
deferred update keeps the place `at_` of its pool entry. -/
def State.submitPairs (s : State) (core : Nat) (org : Origin) (at_ : Option Nat) (k : Nat) (ps : List (Word × Word)) :
    State :=
  if ps.isEmpty then s
  else
    let c := s.core core
    let u := c.nextUpd
    let s1 := s.setCore core { c with
      nextUpd := u + 1, upds := SMap.set c.upds u ⟨at_.getD c.nextSeq, org.tid, ps.length⟩ }
    ps.foldl (fun s p =>
      let (q, s2) := s.newSeq core
      s2.submit core { id := q, seq := at_.getD q, org := org, deferred := at_.isSome, far := false,
                       body := .pair u p.1.toNat p.2 k }) s1

end Sys2Proof.Machine
end

