-- ==== Sys2Proof/Machine/Slots.lean ====
section
/-! DEFINITION. Frames, slots, signals and messages: FALLOC, FFREE, SLOTI, SLOTR, SIG, SIGD, SIGV, SREF, AMSG and ARM
(R42, R43, R46, R59, R96, R284, R333, R336, R345, R350, R384-R390, R418). -/

namespace Sys2Proof.Machine

open Sys2Proof

/-! ## Checks on operands that may be late (R298) -/

/-- A check made where the operand holds a known value; a late operand parks after the checks.
DEDUCED, log entry 11. -/
def onKnown (v : RVal) (check : Word → Except Stop Unit) : Except Stop Unit :=
  match v with
  | .known w => check w
  | _ => .ok ()

/-- A handle's reserved bits, frame and region (R100, R350, R387). -/
def State.handleFrame (s : State) (r : Run) (h : Word) (anyRegion : Bool) : Except Stop Frame :=
  match (s.core s.cur).frame (field h 27 12) with
  | none => .error (.fault 0x09 0 0)
  | some f =>
    if field h 63 28 ≠ 0 ∨ (f.region ≠ r.region ∧ anyRegion = false) then .error (.fault 0x09 0 0) else .ok f

/-- A handle with its slot index (R387). -/
def State.handleSlot (s : State) (r : Run) (h : Word) (anyRegion : Bool) : Except Stop (Nat × Nat × Frame) := do
  let f ← s.handleFrame r h anyRegion
  let slot := field h 11 0
  if slot < 4 ∨ frameWords f.cls ≤ slot then .error (.fault 0x09 0 0) else .ok (field h 27 12, slot, f)

/-! ## Frames -/

/-- FALLOC (R345). -/
def execFalloc (g : Guard) (d : XReg) (cls : BitVec 3) (s : State) :=
  guarded g 1 (fun s r =>
    match s.allocFrame s.cur r.region cls.toNat with
    | none => .error (.fault 0x0A 0 0)
    | some (fid, s1) => .ok (s1.writeX d (place fid 12))) s

/-- Has the frame a Ready entry, in the queue or in an overflow segment, or a Parked or Held threadlet (R46)? -/
def State.frameBusy (s : State) (core fid : Nat) (f : Frame) : Bool :=
  let a := ((s.region f.region).map fun g => g.segment core).getD 0
  let n := ((s.region f.region).map (·.segEntries)).getD 1
  let head := field (s.peek64 a) 31 0
  let tail := field (s.peek64 (a + 8)) 31 0
  f.parked.isSome || (s.core core).ready.any (·.fid == fid) ||
    (List.range ((tail + (2 ^ 32 - head)) % 2 ^ 32)).any fun i =>
      let w := s.peek64 (a + 128 * (1 + (head + i) % n))
      decide (field w 63 60 ≤ 1) && field w 31 16 == fid

/-- FFREE (R46, R350). DEDUCED, log entry 60. -/
def execFfree (g : Guard) (a : XReg) (s : State) :=
  guarded g 1 (fun s r => do
    let h ← r.known a
    let f ← s.handleFrame r h false
    let fid := field h 27 12
    if s.frameBusy s.cur fid f then .error (.fault 0x09 0 0)
    else if fid = r.fid then .ok (s.onCore s.cur fun c => c.onFrame fid fun f => { f with ownFree := insertNat f.ownFree r.tid })
    else if (s.core s.cur).splitPhase s.fstore fid then
      .ok (s.onCore s.cur fun c => c.onFrame fid fun f => { f with freeing := true })
    else .ok (s.releaseFrame s.cur fid)) s

/-! ## Slots -/

/-- Does the resume entry of a frame's threadlet wait for room in the ready queue and its segment (R64)? -/
def State.resumeWaits (s : State) (core : Nat) (f : Frame) : Bool :=
  f.st == .resident && f.parked.any (fun p => !p.ready && p.wait == .atOnce) && !s.canPush core f.region

/-- Is the core's intake stopped by a resume entry, an arrival, a message or a record that could not be performed
(R64)? -/
def State.intakeStopped (s : State) (core : Nat) : Bool :=
  let c := s.core core
  c.blocked.isSome || c.blockedMsg.isSome || (c.frames.any fun e => s.resumeWaits core e.2) ||
    c.refq.any fun a => ((c.frame a.fid).map fun f => f.st == .resident).getD false

/-- SLOTI (R387, R389, R418). -/
def execSloti (g : Guard) (a b : XReg) (s : State) :=
  guarded g 1 (fun s r => do
    onKnown (r.get a) fun h => (s.handleSlot r h false).map fun _ => ()
    onKnown (r.get b) fun w => if field w 63 60 ≠ 0 ∨ field w 31 28 ≠ 0 then .error (.fault 0x07 0 0) else .ok ()
    let (h, w) ← r.known2 a b
    let (fid, slot, f) ← s.handleSlot r h false
    let x : Arrival := { fid := fid, slot := slot, dec := 0, data := .none, err := false, region := r.region, sloti := some w }
    if f.st ≠ .resident then
      if (s.core s.cur).refq.length < 32 then
        .ok ((s.onCore s.cur fun c => { c with refq := c.refq ++ [x] }).requestRefill s.cur fid)
      else .error (.park 1 (.refillSpace fid))
    else if field w 23 0 = 0 ∧ (s.intakeStopped s.cur = true ∨ s.canPush s.cur f.region = false) then
      .error (.park 1 (.intake f.region))
    else .ok (s.applySignal s.cur f x)) s

/-- SLOTR (R388, R389): of a frame that is not Resident, or with arrivals queued, it requests the refill and parks. -/
def execSlotr (g : Guard) (d a : XReg) (s : State) :=
  guarded g 1 (fun s r => do
    let h ← r.known a
    let (fid, slot, f) ← s.handleSlot r h r.priv
    if f.st ≠ .resident ∨ (s.core s.cur).refq.any (·.fid == fid) then .error (.park 1 (.refill fid))
    else .ok (s.writeX d (Slot.word (Slot.of ((s.core s.cur).word (f.base + 8 * slot)))))) s

/-! ## Signals -/

/-- A signal of the Running threadlet to a known reference, relaxed or a release (R385, R386). -/
def State.issueSignal (s : State) (r : Run) (ref : Word) (dec : Nat) (data : SigData) (rel : Bool) : Except Stop State := do
  (s.checkRef ref).stop
  if rel then s.issueRelease r (.signal ref dec data true false) else s.issueOp r (.signal ref dec data false false)

/-- A signal with a late operand deferred: a known reference is checked at issue (R52, R385), and a release parks while an
earlier deferred effect is unresolved (R386). -/
def State.deferSignal (s : State) (r : Run) (rel : Bool) (e : Effect) (ref : RVal) (ops : List RVal) : Except Stop State := do
  onKnown ref fun w => (s.checkRef w).stop
  if rel then s.effectsResolved r
  s.defer r e ops [ref]

/-- A null signal: none to x0; a reference that is late defers it (R73, R96). DEDUCED, log entry 12. -/
def nullSignal (a : XReg) (rel : Bool) (dec : Nat) : Meaning := fun s r =>
  if a = 0 then .ok s
  else
    match r.get a with
    | .known ref => s.issueSignal r ref dec .none rel
    | v => s.deferSignal r rel (.sig rel dec) v [v]

/-- SIG (R384-R386). -/
def execSig (g : Guard) (rel n : Bool) (a : XReg) (s : State) :=
  guardedN g n (fun s r =>
    match r.get a with
    | .known ref => s.issueSignal r ref 1 .none rel
    | v => s.deferSignal r rel (.sig rel 1) v [v]) (nullSignal a rel 1) s

/-- SIGD (R384-R386). -/
def execSigd (g : Guard) (rel n : Bool) (a b : XReg) (dw : BitVec 5) (s : State) :=
  guardedN g n (fun s r =>
    match r.get a, r.get b with
    | .known ref, .known w => s.issueSignal r ref 1 (.words dw.toNat [w]) rel
    | v, w => s.deferSignal r rel (.sigd rel dw.toNat) v [v, w]) (nullSignal a rel 1) s

/-- SIGV (R384-R386). -/
def execSigv (g : Guard) (rel n : Bool) (a : XReg) (vb : VReg) (dw : BitVec 5) (s : State) :=
  guardedN g n (fun s r => do
    let ref ← r.known a
    s.issueSignal r ref 1 (.words dw.toNat (wordsOfBytes 8 (bytesOf 64 (r.vec vb).toNat))) rel) (nullSignal a rel 1) s

/-- SREF (R390). -/
def execSref (g : Guard) (d a : XReg) (imm : BitVec 11) (s : State) :=
  guarded g 1 (fun s r => do
    let h ← r.known a
    if field h 63 28 ≠ 0 then .error (.fault 0x09 0 0)
    else
      .ok (s.writeX d (refWord s.brielo.number s.cur (field h 27 12) (((field h 11 0 : Int) + imm.toInt) % 4096).toNat))) s

/-! ## Messages and triggers -/

/-- AMSG (R59, R333). -/
def execAmsg (g : Guard) (xg : XReg) (s : State) :=
  guarded g 1 (fun s r => do
    let vs := r.group xg 8
    onKnown (r.get xg) fun h => need (field h 63 28 == 0) 0x09 0
    let ws ← allKnown vs
    s.issueOp r (.amsg (field (wordAt ws 0) 27 0) (wordAt ws 1) (ws.drop 2))) s

/-- ARM (R284, R336). -/
def execArm (g : Guard) (xg : XReg) (s : State) :=
  guarded g 1 (fun s r => do
    let c := s.core s.cur
    let at_ (i : Nat) : RVal := r.reg (xg.toNat + i)
    onKnown (at_ 0) fun ref => need (s.refOk ref && (Ref.of ref).t) 0x09 0
    onKnown (at_ 1) fun th => need (field th 63 24 == 0) 0x07 0
    onKnown (at_ 2) fun p => do
      need (p.toNat % 64 == 0) 0x03 p.toNat
      need (s.localOk s.cur r.fid p.toNat 64 false) 0x05 p.toNat
      need (!touches c.lpoison p.toNat 64) 0x06 p.toNat
    let ws ← allKnown (r.group xg 3)
    s.issueOp r (.arm (wordAt ws 0) (wordAt ws 1).toNat (wordsOfBytes 8 (Cells.read c.lmem (wordAt ws 2).toNat 64)))) s

end Sys2Proof.Machine
end

