-- ==== Sys2Proof/Machine/Local.lean ====
section
/-! DEFINITION. Core-local memory instructions: LD, ST, LDZ, STZ, VLD and VST (R41, R183-R185, R193, R194, R216, R310,
R360, R392, R413, R420). -/

namespace Sys2Proof.Machine

open Sys2Proof

/-- A local address and its checks: aligned, then permitted (R193, R194). -/
def State.localAddr (s : State) (r : Run) (a : Word) (n : Nat) (write : Bool) : Except Stop Unit := do
  need (a.toNat % n == 0) 0x03 a.toNat
  need (s.localOk s.cur r.fid a.toNat n write) 0x05 a.toNat

/-- Bytes a local read finds; poisoned words raise the poison fault (Table 13-6). -/
def State.localRead (s : State) (a n : Nat) : Except Stop (List Byte) :=
  let c := s.core s.cur
  if touches c.lpoison a n then .error (.fault 0x06 a 0) else .ok (Cells.read c.lmem a n)

/-- Bytes stored by the Running threadlet. -/
def State.localWrite (s : State) (a : Nat) (bs : List Byte) : State := s.onCore s.cur fun c => c.put a bs []

/-- LD (R360). -/
def execLd (g : Guard) (sz : Size) (u : Bool) (d a : XReg) (off : BitVec 8) (s : State) :=
  guarded g 1 (fun s r => do
    let base ← r.known a
    let p := scaled base off sz.bytes
    s.localAddr r p sz.bytes false
    let bs ← s.localRead p.toNat sz.bytes
    .ok (s.writeX d (extend u sz.bytes (natOf bs)))) s

/-- ST (R392): the address is checked before a late value parks. -/
def execSt (g : Guard) (sz : Size) (c a : XReg) (off : BitVec 8) (s : State) :=
  guarded g 1 (fun s r => do
    onKnown (r.get a) fun base => s.localAddr r (scaled base off sz.bytes) sz.bytes true
    let (base, v) ← r.known2 a c
    .ok (s.localWrite (scaled base off sz.bytes).toNat (bytesOf sz.bytes v.toNat))) s

/-! ## Compressed chunks -/

/-- The 16-bit lanes of a vector. -/
def lanes16 (v : VWord) : List Nat := (List.range 32).map fun i => (v.toNat >>> (16 * i)) % 65536

/-- Bytes of a chunk with `n` stored lanes (R183). -/
def chunkLen (n : Nat) : Nat := 4 + 2 * n + 2 * (n % 2)

/-- The bytes of a chunk (Table 7-3). -/
def chunkBytes (v : VWord) : List Byte :=
  let ls := lanes16 v
  let mask := (List.range 32).foldl (fun m i => if ls.getD i 0 ≠ 0 then m + 2 ^ i else m) 0
  let vals := ls.filter (· != 0)
  bytesOf 4 mask ++ vals.flatMap (bytesOf 2) ++ (if vals.length % 2 = 1 then [0, 0] else [])

/-- STZ (R184, R420). -/
def execStz (g : Guard) (vc : VReg) (a b : XReg) (s : State) :=
  guarded g 1 (fun s r => do
    let bs := chunkBytes (r.vec vc)
    onKnown (r.get a) fun p => if p.toNat % 4 ≠ 0 then .error (.fault 0x03 p.toNat (place bs.length 16)) else .ok ()
    let (p, lim) ← r.known2 a b
    if lim.toNat < p.toNat + bs.length then .error (.fault 0x0F p.toNat (place bs.length 16))
    need (s.localOk s.cur r.fid p.toNat bs.length true) 0x05 p.toNat
    .ok ((s.localWrite p.toNat bs).writeX a (p + BitVec.ofNat 64 bs.length))) s

/-- The lanes of a chunk whose mask and value words are given. -/
def chunkLanes (mask : Nat) (vals : List Nat) : VWord :=
  BitVec.ofNat 512 (((List.range 32).foldl (fun (p : Nat × List Nat) i =>
    if mask / 2 ^ i % 2 = 1 then (p.1 + p.2.headD 0 * 2 ^ (16 * i), p.2.tail) else p) (0, vals)).1)

/-- The 16-bit words of a byte string. -/
def halves (n : Nat) (bs : List Byte) : List Nat := (List.range n).map fun i => natOf ((bs.drop (2 * i)).take 2)

/-- LDZ (R185, R420). -/
def execLdz (g : Guard) (vd : VReg) (a b : XReg) (s : State) :=
  guarded g 1 (fun s r => do
    onKnown (r.get a) fun p => if p.toNat % 4 ≠ 0 then .error (.fault 0x03 p.toNat (place 4 16)) else .ok ()
    let (p, lim) ← r.known2 a b
    if lim.toNat < p.toNat + 4 then .error (.fault 0x0F p.toNat (place 4 16))
    need (s.localOk s.cur r.fid p.toNat 4 false) 0x05 p.toNat
    let m ← s.localRead p.toNat 4
    let mask := natOf m
    let n := ((List.range 32).filter fun i => mask / 2 ^ i % 2 == 1).length
    let len := chunkLen n
    if lim.toNat < p.toNat + len then .error (.fault 0x0F p.toNat (place len 16))
    need (s.localOk s.cur r.fid p.toNat len false) 0x05 p.toNat
    let bs ← s.localRead p.toNat len
    if n % 2 = 1 ∧ natOf ((bs.drop (4 + 2 * n)).take 2) ≠ 0 then .error (.fault 0x07 p.toNat 0)
    .ok ((s.writeV vd (chunkLanes mask (halves n (bs.drop 4)))).writeX a (p + BitVec.ofNat 64 len))) s

/-! ## Vectors -/

/-- VLD (R413). -/
def execVld (g : Guard) (vd : VReg) (a : XReg) (imm : BitVec 11) (s : State) :=
  guarded g 1 (fun s r => do
    let base ← r.known a
    let p := base + BitVec.ofInt 64 (imm.toInt * 64)
    s.localAddr r p 64 false
    let bs ← s.localRead p.toNat 64
    .ok (s.writeV vd (BitVec.ofNat 512 (natOf bs)))) s

/-- VST (R413). -/
def execVst (g : Guard) (vc : VReg) (a : XReg) (imm : BitVec 11) (s : State) :=
  guarded g 1 (fun s r => do
    let base ← r.known a
    let p := base + BitVec.ofInt 64 (imm.toInt * 64)
    s.localAddr r p 64 true
    .ok (s.localWrite p.toNat (bytesOf 64 (r.vec vc).toNat))) s

end Sys2Proof.Machine
end

