-- ==== Sys2Proof/Machine/Global.lean ====
section
/-! DEFINITION. Global memory instructions: GLD, LDL, GST, GSTV, PREF and the atomics, as they issue (R66, R72, R74,
R96, R218, R223, R226, R298, R313, R330, R331, R354-R356, R361, R373). Their performance at the home slices stands with
the events. -/

namespace Sys2Proof.Machine

open Sys2Proof

/-! ## Addresses and symbols -/

/-- A base register's content and a byte offset as an address. -/
def addrOf (v : RVal) (off : Word) : RVal := (foldAdd v (.known off)).getD v

/-- A symbol taken by the Running threadlet (R66); none where all 64 are in use. The lowest free number is taken (DESIGN
CHOICE, log entry 65). -/
def State.takeSym (s : State) (r : Run) (st : SymState) (acq : Bool) : Option (Nat × State) :=
  let c := s.core s.cur
  (SMap.firstFree c.syms 0 64).map fun i =>
    (i, s.setCore s.cur { c with syms := SMap.set c.syms i ⟨st, r.tid, r.fid, r.region, acq, c.nextSeq, r.origin⟩ })

/-- A symbol taken for register `d`, which then holds its identity form; with d = 0 none is taken. The caller has
checked the supply. -/
def State.symFor (s : State) (r : Run) (d : Nat) (st : SymState) (acq : Bool) : Option Nat × State :=
  if d = 0 then (none, s)
  else
    match s.takeSym r st acq with
    | none => (none, s)
    | some (i, s1) => (some i, s1.writeR (BitVec.ofNat 5 d) (.form i 1 0))

/-- The watchpoint and route checks of an access at a known address, which come before the parks of a late operand that
cannot be deferred; a deferred effect has them when it is performed (R298, R313, R319). -/
def State.checkAccess (s : State) (r : Run) (write : Bool) (n : Nat) (addr : Word) : Except Stop Unit := do
  s.routed r [addr.toNat]
  s.watch r write [(addr.toNat, n)]

/-! ## Loads -/

/-- The checks of GLD on those of its operands that are known (R298, R354): global address, local address, reference. -/
def State.gldKnown (s : State) (r : Run) (sz : Size) (loc addr : RVal) (y : Option RVal) : Except Stop Unit := do
  onKnown addr fun a => do
    need (!highVa a) 0x05 a.toNat
    need (a.toNat % sz.bytes == 0) 0x03 a.toNat
  onKnown loc fun a => do
    need (a.toNat % sz.bytes == 0) 0x03 a.toNat
    need (s.localOk s.cur r.fid a.toNat sz.bytes true) 0x05 a.toNat
  onKnown (y.getD (.known 0)) fun w => if y.isSome then (s.checkRef w).stop else .ok ()

/-- GLD (R99, R354). -/
def execGld (g : Guard) (lu : Bool) (evp : Evp) (sz : Size) (byt n : Bool) (xg y : XReg) (s : State) :=
  guardedN g n (fun s r =>
    let ops := r.group xg 2 ++ (if y = 0 then [] else [r.get y])
    if anyForm ops then do
      let addr := r.reg (xg.toNat + 1)
      s.gldKnown r sz (r.get xg) addr (if y = 0 then none else some (r.get y))
      if !deferrable ops ops then onKnown addr (s.checkAccess r false sz.bytes)
      s.defer r (.gld lu evp sz byt) ops ops
    else do
      let ws ← allKnown ops
      let body ← (s.gldBody s.cur r.fid lu evp sz byt (wordAt ws 0) (wordAt ws 1) (wordAt ws 2)).stop
      if y ≠ 0 then (s.checkRef (wordAt ws 2)).stop
      s.checkAccess r false sz.bytes (wordAt ws 1)
      s.issueOp r body) (nullSignal y false (if byt then sz.bytes else 1)) s

/-- LDL (R66, R72, R361). -/
def execLdl (g : Guard) (sz : Size) (u : Bool) (d a : XReg) (off : BitVec 8) (s : State) :=
  guarded g 1 (fun s r =>
    let r' := r.write d (.form 64 1 0)
    let syms := if d = 0 then 0 else 1
    match addrOf (r.get a) (scaled 0 off sz.bytes) with
    | .known p => do
      let _ ← (ldlBody sz u p none).stop
      s.checkAccess r false sz.bytes p
      s.acquired r
      s.supply r' syms 0
      s.stageRoom r
      let (i, s1) := s.symFor r d.toNat .pending false
      .ok (s1.enter r (.ldl p.toNat sz.bytes u i))
    | v => do
      s.acquired r
      let c := s.core s.cur
      if !v.isInt || (v.symbol.bind fun i => SMap.find c.syms i).any (fun x => x.st == .awaiting) then .error (waitFor [v])
      s.supply r' syms 1
      let (i, s1) := s.symFor r d.toNat .awaiting false
      let c := s1.core s.cur
      match SMap.firstFree c.pool 0 256 with
      | none => .error (.park 4 c.short)
      | some k => .ok (s1.setCore s.cur { c with
          pool := SMap.set c.pool k ⟨c.nextSeq, r.origin, .address i sz u v⟩, nextSeq := c.nextSeq + 1 })) s

/-! ## Stores -/

/-- GST (R355). -/
def execGst (g : Guard) (sz : Size) (t : Bool) (c a : XReg) (off : BitVec 8) (s : State) :=
  guarded g 1 (fun s r =>
    let addr := addrOf (r.get a) (scaled 0 off sz.bytes)
    let tag := if t then [r.reg (c.toNat + 1)] else []
    let ops := [addr, r.get c] ++ tag
    if anyForm ops then do
      onKnown addr fun p => (gstBody sz p 0 none).stop.map fun _ => ()
      onKnown (tag.headD (.known 0)) fun w => need (w.toNat % 4 == 0) 0x03 w.toNat
      if !deferrable ops (addr :: tag) then onKnown addr (s.checkAccess r true sz.bytes)
      s.defer r (.gst sz t) ops (addr :: tag)
    else do
      let ws ← allKnown ops
      let body ← (gstBody sz (wordAt ws 0) (wordAt ws 1) (if t then some (wordAt ws 2) else none)).stop
      s.checkAccess r true sz.bytes (wordAt ws 0)
      s.issueOp r body) s

/-- GSTV (R356). -/
def execGstv (g : Guard) (vc : VReg) (a : XReg) (m : MReg) (off : BitVec 8) (s : State) :=
  guarded g 1 (fun s r => do
    let base ← r.known a
    let p := scaled base off 64
    need (p.toNat % 64 == 0) 0x03 p.toNat
    need (!highVa p) 0x05 p.toNat
    let mask := (r.mask m).setWidth 16
    if mask ≠ 0 then s.routed r [p.toNat]
    s.watch r true (((List.range 16).filter fun i => mask.getLsbD i).map fun i => (p.toNat + 4 * i, 4))
    if mask = 0 then .ok s else s.issueOp r (.gstv p.toNat (r.vec vc) mask)) s

/-- PREF: an address beyond the implemented bits drops it (R373). DESIGN CHOICE, log entry 14. -/
def execPref (g : Guard) (evp : Evp) (a : XReg) (off : BitVec 11) (s : State) :=
  guarded g 1 (fun s r => do
    let base ← r.known a
    let p := base + off.signExtend 64
    if highVa p then .ok s
    else do
      s.watch r false [(p.toNat, 1)]
      s.issueOp r (.pref p.toNat evp)) s

/-! ## Atomics -/

/-- Does the ordering qualifier acquire? -/
def acquires (o : Ord) : Bool := o == .acq || o == .acqRel

/-- Does the ordering qualifier release? -/
def releases (o : Ord) : Bool := o == .rel || o == .acqRel

/-- An atomic of `n` bytes at issue, with the registers of its comparand (R330, R331). -/
def atomic (k : AtomKind) (n : Nat) (ord : Ord) (d a b : XReg) : Meaning := fun s r => do
  let pairs (x : XReg) : List RVal := if n = 16 then [r.get x, r.reg (x.toNat + 1)] else [r.get x]
  let cmp := if k = .cas ∨ k = .cas2 then pairs d else []
  onKnown (r.get a) fun p => do
    need (!highVa p) 0x05 p.toNat
    need (p.toNat % n == 0) 0x03 p.toNat
    s.checkAccess r true n p
  let ws ← allKnown ([r.get a] ++ pairs b ++ cmp)
  let p := wordAt ws 0
  let m := (pairs b).length
  let v := natOf ((bytesOfWords ((ws.drop 1).take m)).take n)
  let c := natOf ((bytesOfWords (ws.drop (1 + m))).take n)
  let r1 := r.write d (.form 64 1 0)
  let r2 := if n = 16 then r1.write (d + 1) (.form 65 1 0) else r1
  s.supply r2 (if d = 0 then 0 else if n = 16 then 2 else 1) 0
  let (i, s1) := s.symFor r d.toNat .pending (acquires ord)
  let (j, s2) := if n = 16 then s1.symFor r (d.toNat + 1) .pending (acquires ord) else (none, s1)
  let body : OpBody := .atom k p.toNat n (BitVec.ofNat 128 v) (BitVec.ofNat 128 c) i j
  let id := (s2.core s.cur).nextSeq
  s.acquired r
  if releases ord then s.effectsResolved r
  s.stageRoom r
  let s3 := if releases ord then s2.enterRelease r body else s2.enter r body
  .ok (if acquires ord && d == 0 then s3.issueFence r (.acq id) [] else s3)

/-- XCHG (R330). -/
def execXchg (g : Guard) (ord : Ord) (sz : ASize) (d a b : XReg) (s : State) :=
  guarded g 1 (atomic .xchg sz.bytes ord d a b) s

/-- CAS (R330). -/
def execCas (g : Guard) (ord : Ord) (sz : ASize) (d a b : XReg) (s : State) :=
  guarded g 1 (atomic .cas sz.bytes ord d a b) s

/-- CAS2 (R330). -/
def execCas2 (g : Guard) (ord : Ord) (d a b : XReg) (s : State) := guarded g 1 (atomic .cas2 16 ord d a b) s

/-- FAA (R330). -/
def execFaa (g : Guard) (ord : Ord) (sz : ASize) (d a b : XReg) (s : State) :=
  guarded g 1 (atomic .faa sz.bytes ord d a b) s

/-- AMAX (R330). -/
def execAmax (g : Guard) (ord : Ord) (sz : ASize) (d a b : XReg) (s : State) :=
  guarded g 1 (atomic .amax sz.bytes ord d a b) s

/-- AMIN (R330). -/
def execAmin (g : Guard) (ord : Ord) (sz : ASize) (d a b : XReg) (s : State) :=
  guarded g 1 (atomic .amin sz.bytes ord d a b) s

/-- AMAX.U (R330). -/
def execAmaxU (g : Guard) (ord : Ord) (sz : ASize) (d a b : XReg) (s : State) :=
  guarded g 1 (atomic .amaxU sz.bytes ord d a b) s

/-- AMIN.U (R330). -/
def execAminU (g : Guard) (ord : Ord) (sz : ASize) (d a b : XReg) (s : State) :=
  guarded g 1 (atomic .aminU sz.bytes ord d a b) s

end Sys2Proof.Machine
end

