-- ==== Sys2Proof/Machine/Ordering.lean ====
section
/-! DEFINITION. Fences and update streams as they issue: FENCE, IFLUSH, UPD, UPDV and UAPPLY (R82, R221, R222, R242,
R243, R348, R358, R397-R400). -/

namespace Sys2Proof.Machine

open Sys2Proof

/-- The commands of a region in a core's copy and tile queues. -/
def Core.regionCmds (c : Core) (region : Nat) : List Nat :=
  (c.copyq.filter fun k => k.org.region == region).map (·.id) ++ (c.tileq.filter fun k => k.org.region == region).map (·.id)

/-- FENCE (R222, R348). -/
def execFence (g : Guard) (w u e : Bool) (scope : Scope) (s : State) :=
  guarded g 1 (fun s r => do
    if w then s.effectsResolved r
    .ok (s.issueFence r (.fence w u e scope) (if e then (s.core s.cur).regionCmds r.region else []))) s

/-- IFLUSH (R358). -/
def execIflush (g : Guard) (a b : XReg) (s : State) :=
  guarded g 1 (fun s r => do
    let (va, n) ← r.known2 a b
    if 2 ^ 52 < va.toNat + n.toNat then .error (.fault 0x05 va.toNat 0)
    .ok (s.issueFence r (.iflush (s.asid r.region) va.toNat n.toNat) [])) s

/-- IFLUSH.ALL (R358). -/
def execIflushAll (g : Guard) (s : State) := guarded g 1 (fun s r => .ok (s.issueFence r .iflushAll [])) s

/-- The pairs of an update instruction issued, every operand known (R243, R313, R398, R399). -/
def State.issuePairs (s : State) (r : Run) (k : Nat) (pairs : Nat → List (Word × Word)) : Except Stop State := do
  let (bid, ps) ← (s.checkPairs r.region k pairs).stop
  if ps.isEmpty then return s
  let es := ((SMap.find s.bindings bid).map fun b => operSize b.oper).getD 4
  s.watch r true (ps.map fun p => (p.1.toNat, es))
  s.acquired r
  s.stageRoom r
  .ok (s.submitPairs s.cur r.origin none k ps)

/-- The pair of a UPD (Table 10-3). -/
def updPair (addr value : Word) (es : Nat) : List (Word × Word) := [(addr, BitVec.ofNat 64 (value.toNat % 2 ^ (8 * es)))]

/-- UPD (R398). -/
def execUpd (g : Guard) (a b : XReg) (k : BitVec 3) (s : State) :=
  guarded g 1 (fun s r =>
    match r.get a, r.get b with
    | .known p, .known v => s.issuePairs r k.toNat (updPair p v)
    | p, v => do
      onKnown p fun a => (s.checkPairs r.region k.toNat (updPair a 0)).stop.map fun _ => ()
      s.defer r (.upd k.toNat) [p, v] [p]) s

/-- UPDV (R399). -/
def execUpdv (g : Guard) (xd : XReg) (va vb : VReg) (m : MReg) (k : BitVec 3) (s : State) :=
  guarded g 1 (fun s r =>
    match r.get xd with
    | .known p => s.issuePairs r k.toNat fun es => updPairs es p (r.vec va) (r.vec vb) (r.mask m)
    | p => s.defer r (.updv k.toNat (r.vec va) (r.vec vb) (r.mask m)) [p] [p]) s

/-- UAPPLY (R397). -/
def execUapply (g : Guard) (a b : XReg) (s : State) :=
  guarded g 1 (fun s r => do
    let (va, n) ← r.known2 a b
    if n = 0 then .ok s
    else if highVa (va + n - 1) || decide (2 ^ 64 < va.toNat + n.toNat) then .error (.fault 0x05 va.toNat 0)
    else s.issueOp r (.uapply va.toNat n.toNat none)) s

end Sys2Proof.Machine
end

