-- ==== Sys2Proof/Machine/Engines.lean ====
section
/-! DEFINITION. Engine commands as they issue: the copy and tile queues, FENCEQ, the issue checks of RCFG, RADV and
SSCFG, and the null signals of the engines' instructions (R52, R96, R99, R155, R158, R169, R176, R229, R258, R324, R341,
R342, R349, R357, R366-R368, R374, R391). What the engines then do stands with the events. -/

namespace Sys2Proof.Machine

open Sys2Proof

/-! ## Entering a queue -/

/-- The operands of a command: its completion reference is checked where known (R52), and every late operand parks. -/
def State.cmdOperands (s : State) (r : Run) (grp : List RVal) (y : XReg) : Except Stop (List Word × Word) := do
  if y ≠ 0 then onKnown (r.get y) fun w => (s.checkRef w).stop
  let ws ← allKnown (grp ++ [r.get y])
  s.acquired r
  .ok (ws.take grp.length, wordAt ws grp.length)

/-- A copy command as it enters its queue. -/
def copyCmd (id : Nat) (org : Origin) (kind : CopyKind) (grp : List Word) (y : Word) : CopyCmd :=
  { id := id, seq := id, org := org, kind := kind, grp := grp, y := y, started := false, pos := 0, pieces := [],
    counted := 0, recv := [], reported := [], resv := none, fault := none, err := false, told := false, held := false,
    published := false }

/-- A tile command as it enters its queue. -/
def tileCmd (id : Nat) (org : Origin) (kind : TileKind) (grp : List Word) (y : Word) : TileCmd :=
  { id := id, seq := id, org := org, kind := kind, grp := grp, y := y, started := false, left := 0, pair := none,
    row := 0, recAt := 0, err := false, fault := none, bad := false, done := false }

/-- A command put into the copy queue, or a park with cause 1 while it holds 32 (R258). -/
def State.issueCopy (s : State) (r : Run) (kind : CopyKind) (grp : List RVal) (y : XReg) : Except Stop State := do
  let (ws, ref) ← s.cmdOperands r grp y
  if 32 ≤ (s.core s.cur).copyq.length then .error (.park 1 .copyQueue)
  let (q, s1) := s.newSeq s.cur
  .ok (s1.onCore s.cur fun c => { c with copyq := c.copyq ++ [copyCmd q r.origin kind ws ref] })

/-- A command put into the tile queue, or a park with cause 1 while it holds 32 (R169). -/
def State.issueTile (s : State) (r : Run) (kind : TileKind) (grp : List RVal) (y : XReg) : Except Stop State := do
  let (ws, ref) ← s.cmdOperands r grp y
  if 32 ≤ (s.core s.cur).tileq.length then .error (.park 1 .tileQueue)
  let (q, s1) := s.newSeq s.cur
  .ok (s1.onCore s.cur fun c => { c with tileq := c.tileq ++ [tileCmd q r.origin kind ws ref] })

/-- The null signal of a command in byte mode: the registers of the length are read, unless there is no reference; a known
reference is checked before a late length parks (R298). -/
def nullBytes (y : XReg) (byt : Bool) (len : List RVal) : Meaning := fun s r =>
  if y = 0 then .ok s
  else if byt then do
    onKnown (r.get y) fun w => (s.checkRef w).stop
    let ws ← allKnown len
    nullSignal y false ((ws.map (·.toNat)).foldl (· * ·) 1) s r
  else nullSignal y false 1 s r

/-! ## Copy queue -/

/-- CPY (R341). -/
def execCpy (g : Guard) (fn : CopyFn) (xg y : XReg) (s : State) :=
  guardedN g fn.n (fun s r => s.issueCopy r (.cpy fn) (r.group xg 3) y)
    (fun s r => nullBytes y fn.byt [r.reg (xg.toNat + 2)] s r) s

/-- CPY2 (R341). -/
def execCpy2 (g : Guard) (fn : CopyFn) (xg y : XReg) (s : State) :=
  guardedN g fn.n (fun s r => s.issueCopy r (.cpy2 fn) (r.group xg 6) y)
    (fun s r => nullBytes y fn.byt [r.reg (xg.toNat + 2), r.reg (xg.toNat + 3)] s r) s

/-- CPYM (R268, R342). -/
def execCpym (g : Guard) (byt n : Bool) (xg y : XReg) (s : State) :=
  guardedN g n (fun s r => s.issueCopy r (.cpym byt) (r.group xg 5) y)
    (fun s r => nullBytes y byt [r.reg (xg.toNat + 2)] s r) s

/-- GTHR (R357). -/
def execGthr (g : Guard) (fn : GthrFn) (xg y : XReg) (s : State) :=
  guardedN g fn.n (fun s r => s.issueCopy r (.gthr fn) (r.group xg 5) y)
    (fun s r => nullBytes y fn.byt [r.reg (xg.toNat + 1), r.reg (xg.toNat + 3)] s r) s

/-- FENCEQ.CT (R229, R349). -/
def execFenceqCt (g : Guard) (s : State) := guarded g 1 (fun s r => s.issueCopy r .fenceq [] 0) s

/-- FENCEQ.TC (R229, R349). -/
def execFenceqTc (g : Guard) (s : State) := guarded g 1 (fun s r => s.issueTile r .fenceq [] 0) s

/-! ## Rings and skip streams -/

/-- A range of scratch: between the effective FSTORE size and the end of local memory. -/
def State.inScratch (s : State) (a n : Nat) : Bool := decide (s.fstore ≤ a ∧ a + n ≤ localEnd)

/-- RCFG (R155, R374): each check is made on the values it needs as soon as they are known (R298). -/
def execRcfg (g : Guard) (q : BitVec 3) (xg : XReg) (s : State) :=
  guarded g 1 (fun s r => do
    onKnown (r.reg xg.toNat) fun w => need (w.toNat % 512 == 0 && s.inScratch w.toNat 1024) 0x0C 0
    onKnown (r.reg (xg.toNat + 1)) fun w =>
      need (field w 63 9 == 0 && field w 7 7 == 0 && decide (2 ≤ field w 6 0 ∧ field w 6 0 ≤ 64)) 0x0C 0
    onKnown (r.reg (xg.toNat + 2)) fun w => need (w.toNat % 8 == 0 && s.inScratch w.toNat 16) 0x0C 0
    onKnown (r.reg (xg.toNat + 1)) fun d => do
      onKnown (r.reg xg.toNat) fun w => need (s.inScratch w.toNat (512 * field d 6 0)) 0x0C 0
      onKnown (r.reg (xg.toNat + 2)) fun w => need (s.inScratch w.toNat (8 * field d 6 0)) 0x0C 0
    let ws ← allKnown (r.group xg 3)
    let base := (wordAt ws 0).toNat
    let depth := field (wordAt ws 1) 6 0
    let desc := (wordAt ws 2).toNat
    need (s.inScratch base (512 * depth) && s.inScratch desc (8 * depth)
      && (decide (base + 512 * depth ≤ desc) || decide (desc + 8 * depth ≤ base))) 0x0C 0
    s.issueTile r (.rcfg q.toNat) (r.group xg 3) 0) s

/-- RADV (R158, R374). -/
def execRadv (g : Guard) (q : BitVec 3) (xg : XReg) (s : State) :=
  guarded g 1 (fun s r =>
    match SMap.find (s.core s.cur).rings q.toNat with
    | none => .error (.fault 0x0C 0 0)
    | some x => do
      need (x.res == 0) 0x0C 0
      let n ← r.known xg
      need (decide (1 ≤ n.toNat ∧ n.toNat ≤ x.depth - x.count)) 0x0C 0
      .ok (s.onCore s.cur fun c =>
        { c with rings := SMap.set c.rings q.toNat { x with count := x.count + n.toNat } })) s

/-- SSCFG (R176, R391). -/
def execSscfg (g : Guard) (ss : BitVec 2) (xg : XReg) (s : State) :=
  guarded g 1 (fun s r => do
    onKnown (r.reg xg.toNat) fun w => need (s.inScratch w.toNat 1) 0x0C 0
    onKnown (r.reg (xg.toNat + 1)) fun w => need (w != 0) 0x0C 0
    let ws ← allKnown (r.group xg 2)
    need (s.inScratch (wordAt ws 0).toNat (wordAt ws 1).toNat) 0x0C 0
    s.issueTile r (.sscfg ss.toNat) (r.group xg 2) 0) s

/-! ## Tile queue -/

/-- MMA (R366). -/
def execMma (g : Guard) (n t : Bool) (qb qa : BitVec 3) (acc : BitVec 2) (xg y : XReg) (s : State) :=
  guardedN g n (fun s r => s.issueTile r (.mma t qb.toNat qa.toNat acc.toNat) (r.group xg 1) y) (nullSignal y false 1) s

/-- MMAS (R367). -/
def execMmas (g : Guard) (ss : BitVec 2) (n : Bool) (qb qa : BitVec 3) (acc : BitVec 2) (xg y : XReg) (s : State) :=
  guardedN g n (fun s r => s.issueTile r (.mmas ss.toNat qb.toNat qa.toNat acc.toNat) (r.group xg 1) y)
    (nullSignal y false 1) s

/-- MMG (R368). -/
def execMmg (g : Guard) (val : MmgVal) (act : MmgAct) (n : Bool) (xg y : XReg) (s : State) :=
  guardedN g n (fun s r => s.issueTile r (.mmg val act) (r.group xg 5) y) (nullSignal y false 1) s

/-- ACCZ (R326). -/
def execAccz (g : Guard) (acc : BitVec 2) (s : State) := guarded g 1 (fun s r => s.issueTile r (.accz acc.toNat) [] 0) s

/-- ACCLD (R326). -/
def execAccld (g : Guard) (n : Bool) (acc : BitVec 2) (xg y : XReg) (s : State) :=
  guardedN g n (fun s r => s.issueTile r (.accld acc.toNat) (r.group xg 1) y) (nullSignal y false 1) s

/-- ACCST: .RGN takes the region's mode at issue (R168, R327). -/
def execAccst (g : Guard) (n sc sat : Bool) (rnd : Rnd) (tag : Tag) (acc : BitVec 2) (xg y : XReg) (s : State) :=
  guardedN g n (fun s r => s.issueTile r (.accst sc sat (s.rounding r rnd) tag acc.toNat) (r.group xg 2) y)
    (nullSignal y false 1) s

end Sys2Proof.Machine
end

