-- ==== Sys2Proof/Machine/Vector.lean ====
section
/-! DEFINITION. Vector instructions: lanes and masks, arithmetic, comparisons, reductions, the vector functions, lane
moves, conversions and the mask registers (R98, R106, R149, R153, R365, R401-R412, R414). -/

namespace Sys2Proof.Machine

open Sys2Proof

/-! ## Lanes (R401) -/

/-- Lane `i` of `w` bits. -/
def laneOf (w : Nat) (v : VWord) (i : Nat) : Nat := (v.toNat >>> (w * i)) % 2 ^ w

/-- The lanes of a vector. -/
def lanesOf (w : Nat) (v : VWord) : List Nat := (List.range (512 / w)).map (laneOf w v)

/-- The vector of some lanes. -/
def ofLanes (w : Nat) (ls : List Nat) : VWord := BitVec.ofNat 512 (ls.foldr (fun x acc => x % 2 ^ w + 2 ^ w * acc) 0)

/-- Does a mask select lane `i` of `w` bits: bit i, and bit ⌊i/2⌋ for 4-bit lanes (R106)? -/
def selects (w : Nat) (m : Word) (i : Nat) : Bool := m.getLsbD (if w = 4 then i / 2 else i)

/-- The selected lanes of a vector replaced by a function's results, whose flags are collected; the others kept. -/
def maskedLanes (w : Nat) (m : Word) (old : VWord) (f : Nat → Nat × BitVec 8) : VWord × BitVec 8 :=
  let rs := (List.range (512 / w)).map fun i => if selects w m i then f i else (laneOf w old i, 0)
  (ofLanes w (rs.map (·.1)), rs.foldl (fun a r => a ||| r.2) 0)

/-- A vector result written with its flags. -/
def State.writeLanes (s : State) (d : VReg) (res : VWord × BitVec 8) : State := (s.writeV d res.1).raise res.2

end Sys2Proof.Machine

namespace Sys2Proof

open Machine

/-- The type of the arithmetic opcodes' lanes (Table 4-24). -/
def VType.ty : VType → CvtTy
  | .f32 => .fp .f32 | .f16 => .fp .f16 | .bf16 => .fp .bf16
  | .i32 => .int ⟨32, true⟩ | .i16 => .int ⟨16, true⟩ | .i8 => .int ⟨8, true⟩

/-- The type of an ET field (Table 4-9). -/
def Et.ty : Et → CvtTy
  | .f32 => .fp .f32 | .f16 => .fp .f16 | .bf16 => .fp .bf16
  | .e4m3 => .fp .e4m3 | .e5m2 => .fp .e5m2 | .e2m1 => .fp .e2m1
  | .i32 => .int ⟨32, true⟩ | .i16 => .int ⟨16, true⟩ | .i8 => .int ⟨8, true⟩

/-- The format of a vector function. -/
def EtF.fmt : EtF → Fmt
  | .f32 => .f32 | .f16 => .f16 | .bf16 => .bf16

/-- The lane width of VIOTA. -/
def EtI.width : EtI → Nat
  | .i32 => 32 | .i16 => 16 | .i8 => 8

/-- The lane width of a lane move (Table 4-24). -/
def LaneW.width : LaneW → Nat
  | .w => 32 | .h => 16 | .b => 8 | .d => 64

end Sys2Proof

namespace Sys2Proof.Machine

open Sys2Proof

/-- Bits of an element. -/
def CvtTy.width : CvtTy → Nat
  | .fp f => f.width
  | .int t => t.width

/-! ## Arithmetic (R404, R405) -/

/-- The functions of Table 18-3. -/
inductive VFun where
  | add | sub | mul | fma | min | max | abs | neg
  deriving DecidableEq, Repr

/-- One lane of Table 18-3. -/
def vlane (k : VFun) (t : CvtTy) (rm : RMode) (sat : Bool) (a b d : Nat) : Nat × BitVec 8 :=
  match t with
  | .fp f =>
    match k with
    | .add => fpAdd f rm sat a b
    | .sub => fpSub f rm sat a b
    | .mul => fpMul f rm sat a b
    | .fma => fpFma f rm sat a b d
    | .min => fpMinMax f false a b
    | .max => fpMinMax f true a b
    | .abs => (a % f.signBit, 0)
    | .neg => (if a < f.signBit then a + f.signBit else a - f.signBit, 0)
  | .int t =>
    let x := t.decode a
    let y := t.decode b
    match k with
    | .add => t.narrow sat (x + y)
    | .sub => t.narrow sat (x - y)
    | .mul => t.narrow sat (x * y)
    | .fma => t.narrow sat (x * y + t.decode d)
    | .min => (if y < x then b else a, 0)
    | .max => (if x < y then b else a, 0)
    | .abs => t.narrow sat (if x < 0 then -x else x)
    | .neg => t.narrow sat (-x)

/-- A vector arithmetic instruction with a rounding mode and SAT. -/
def varith (k : VFun) (t : CvtTy) (rm : RMode) (sat : Bool) (vd va vb : VReg) (m : MReg) : Meaning := fun s r =>
  let w := t.width
  .ok (s.writeLanes vd (maskedLanes w (r.mask m) (r.vec vd) fun i =>
    vlane k t rm sat (laneOf w (r.vec va) i) (laneOf w (r.vec vb) i) (laneOf w (r.vec vd) i)))

/-- VADD (R404). -/
def execVadd (g : Guard) (t : VType) (vd va vb : VReg) (m : MReg) (s : State) :=
  guarded g 1 (varith .add t.ty .rne false vd va vb m) s

/-- VSUB (R404). -/
def execVsub (g : Guard) (t : VType) (vd va vb : VReg) (m : MReg) (s : State) :=
  guarded g 1 (varith .sub t.ty .rne false vd va vb m) s

/-- VMUL (R404). -/
def execVmul (g : Guard) (t : VType) (vd va vb : VReg) (m : MReg) (s : State) :=
  guarded g 1 (varith .mul t.ty .rne false vd va vb m) s

/-- VFMA (R404). -/
def execVfma (g : Guard) (t : VType) (vd va vb : VReg) (m : MReg) (s : State) :=
  guarded g 1 (varith .fma t.ty .rne false vd va vb m) s

/-- VMIN (R404). -/
def execVmin (g : Guard) (t : VType) (vd va vb : VReg) (m : MReg) (s : State) :=
  guarded g 1 (varith .min t.ty .rne false vd va vb m) s

/-- VMAX (R404). -/
def execVmax (g : Guard) (t : VType) (vd va vb : VReg) (m : MReg) (s : State) :=
  guarded g 1 (varith .max t.ty .rne false vd va vb m) s

/-- VABS (R404). -/
def execVabs (g : Guard) (t : VType) (vd va : VReg) (m : MReg) (s : State) :=
  guarded g 1 (varith .abs t.ty .rne false vd va 0 m) s

/-- VNEG (R404). -/
def execVneg (g : Guard) (t : VType) (vd va : VReg) (m : MReg) (s : State) :=
  guarded g 1 (varith .neg t.ty .rne false vd va 0 m) s

/-! ## Bitwise, select and shift (R406, R407) -/

/-- A bitwise instruction on 32-bit lanes. -/
def vbits (op : Nat → Nat → Nat) (vd va vb : VReg) (m : MReg) : Meaning := fun s r =>
  .ok (s.writeLanes vd (maskedLanes 32 (r.mask m) (r.vec vd) fun i =>
    (op (laneOf 32 (r.vec va) i) (laneOf 32 (r.vec vb) i), 0)))

/-- VAND (R406). -/
def execVand (g : Guard) (vd va vb : VReg) (m : MReg) (s : State) := guarded g 1 (vbits Nat.land vd va vb m) s

/-- VOR (R406). -/
def execVor (g : Guard) (vd va vb : VReg) (m : MReg) (s : State) := guarded g 1 (vbits Nat.lor vd va vb m) s

/-- VXOR (R406). -/
def execVxor (g : Guard) (vd va vb : VReg) (m : MReg) (s : State) := guarded g 1 (vbits Nat.xor vd va vb m) s

/-- VSEL at a lane width: every lane is written. -/
def vselect (w : Nat) (vd va vb : VReg) (m : MReg) : Meaning := fun s r =>
  .ok (s.writeLanes vd (maskedLanes w (r.mask m) (r.vec vb) fun i => (laneOf w (r.vec va) i, 0)))

/-- VSEL.W (R406). -/
def execVselW (g : Guard) (vd va vb : VReg) (m : MReg) (s : State) := guarded g 1 (vselect 32 vd va vb m) s

/-- VSEL.H (R406). -/
def execVselH (g : Guard) (vd va vb : VReg) (m : MReg) (s : State) := guarded g 1 (vselect 16 vd va vb m) s

/-- VSEL.B (R406). -/
def execVselB (g : Guard) (vd va vb : VReg) (m : MReg) (s : State) := guarded g 1 (vselect 8 vd va vb m) s

/-- The shifts of one lane by an amount below its width. -/
inductive VShift where
  | left | logical | arith
  deriving DecidableEq, Repr

/-- One lane shifted (R407). -/
def vshiftLane (k : VShift) (w a n : Nat) : Nat :=
  match k with
  | .left => (a * 2 ^ n) % 2 ^ w
  | .logical => a / 2 ^ n
  | .arith => (IntTy.mk w true).encode ((IntTy.mk w true).decode a / 2 ^ n)

/-- A vector shift: the amount is vb's lane modulo the width. -/
def vshift (k : VShift) (w : Nat) (vd va vb : VReg) (m : MReg) : Meaning := fun s r =>
  .ok (s.writeLanes vd (maskedLanes w (r.mask m) (r.vec vd) fun i =>
    (vshiftLane k w (laneOf w (r.vec va) i) (laneOf w (r.vec vb) i % w), 0)))

/-- VSHL.I32 (R407). -/
def execVshlI32 (g : Guard) (vd va vb : VReg) (m : MReg) (s : State) := guarded g 1 (vshift .left 32 vd va vb m) s

/-- VSHR.I32 (R407). -/
def execVshrI32 (g : Guard) (vd va vb : VReg) (m : MReg) (s : State) := guarded g 1 (vshift .logical 32 vd va vb m) s

/-- VSAR.I32 (R407). -/
def execVsarI32 (g : Guard) (vd va vb : VReg) (m : MReg) (s : State) := guarded g 1 (vshift .arith 32 vd va vb m) s

/-- VSHL.I16 (R407). -/
def execVshlI16 (g : Guard) (vd va vb : VReg) (m : MReg) (s : State) := guarded g 1 (vshift .left 16 vd va vb m) s

/-- VSHR.I16 (R407). -/
def execVshrI16 (g : Guard) (vd va vb : VReg) (m : MReg) (s : State) := guarded g 1 (vshift .logical 16 vd va vb m) s

/-- VSAR.I16 (R407). -/
def execVsarI16 (g : Guard) (vd va vb : VReg) (m : MReg) (s : State) := guarded g 1 (vshift .arith 16 vd va vb m) s

/-! ## Comparison (R408) -/

/-- One lane of VCMP (Table 18-4). -/
def vcmpLane (t : CvtTy) (c : VCond) (a b : Nat) : Bool × BitVec 8 :=
  match t with
  | .fp f =>
    match c with
    | .eq => fpCompare f .eq a b
    | .ne => fpCompare f .ne a b
    | .lt => fpCompare f .lt a b
    | .le => fpCompare f .le a b
    | .un => fpCompare f .un a b
    | .ltu | .leu => (false, 0)
  | .int t =>
    match c with
    | .eq => (a == b, 0)
    | .ne => (a != b, 0)
    | .lt => (decide (t.decode a < t.decode b), 0)
    | .le => (decide (t.decode a ≤ t.decode b), 0)
    | .ltu => (decide (a < b), 0)
    | .leu => (decide (a ≤ b), 0)
    | .un => (false, 0)

/-- VCMP (R408). -/
def execVcmp (g : Guard) (t : VType) (cond : VCond) (md : MReg) (va vb : VReg) (s : State) :=
  guarded g 1 (fun s r =>
    let w := t.ty.width
    let rs := (List.range (512 / w)).map fun i => vcmpLane t.ty cond (laneOf w (r.vec va) i) (laneOf w (r.vec vb) i)
    .ok ((s.writeM md (BitVec.ofNat 64 ((rs.map (·.1)).foldr (fun b acc => bitOf b + 2 * acc) 0))).raise
      (rs.foldl (fun a r => a ||| r.2) 0))) s

/-! ## Vector functions and VIOTA (R409, R410) -/

/-- The functions of opcode 0x61. -/
inductive VMath where
  | rcp | rsq | exp2 | log2
  deriving DecidableEq, Repr

/-- One lane of a vector function (Table 18-5). -/
def vmathLane (k : VMath) (f : Fmt) (rm : RMode) (sat : Bool) (a : Nat) : Nat × BitVec 8 :=
  match k with
  | .rcp => fpRcp f rm sat a
  | .rsq => fpRsq f rm sat a
  | .exp2 => fpExp2 f rm sat a
  | .log2 => fpLog2 f rm sat a

/-- A vector function with a rounding mode and SAT. -/
def vmath (k : VMath) (f : Fmt) (rm : RMode) (sat : Bool) (vd va : VReg) (m : MReg) : Meaning := fun s r =>
  .ok (s.writeLanes vd (maskedLanes f.width (r.mask m) (r.vec vd) fun i =>
    vmathLane k f rm sat (laneOf f.width (r.vec va) i)))

/-- VRCP (R409). -/
def execVrcp (g : Guard) (t : EtF) (vd va : VReg) (m : MReg) (s : State) :=
  guarded g 1 (vmath .rcp t.fmt .rne false vd va m) s

/-- VRSQ (R409). -/
def execVrsq (g : Guard) (t : EtF) (vd va : VReg) (m : MReg) (s : State) :=
  guarded g 1 (vmath .rsq t.fmt .rne false vd va m) s

/-- VEXP2 (R409). -/
def execVexp2 (g : Guard) (t : EtF) (vd va : VReg) (m : MReg) (s : State) :=
  guarded g 1 (vmath .exp2 t.fmt .rne false vd va m) s

/-- VLOG2 (R409). -/
def execVlog2 (g : Guard) (t : EtF) (vd va : VReg) (m : MReg) (s : State) :=
  guarded g 1 (vmath .log2 t.fmt .rne false vd va m) s

/-- Set bits of a mask below bit `i`. -/
def bitsBelow (m : Word) (i : Nat) : Nat := ((List.range i).filter fun k => m.getLsbD k).length

/-- VIOTA (R410). -/
def execViota (g : Guard) (t : EtI) (vd : VReg) (m : MReg) (s : State) :=
  guarded g 1 (fun s r =>
    .ok (s.writeLanes vd (maskedLanes t.width (r.mask m) (r.vec vd) fun i => (bitsBelow (r.mask m) i, 0)))) s

/-- VX: an arithmetic function or a vector function with any rounding mode and SAT (R405). -/
def execVx (g : Guard) (op : Vop) (sat : Bool) (rnd : Rnd) (vd va vb : VReg) (m : MReg) (s : State) :=
  guarded g 2 (fun s r =>
    let rm := s.rounding r rnd
    match op with
    | .add t => varith .add t.ty rm sat vd va vb m s r
    | .sub t => varith .sub t.ty rm sat vd va vb m s r
    | .mul t => varith .mul t.ty rm sat vd va vb m s r
    | .fma t => varith .fma t.ty rm sat vd va vb m s r
    | .min t => varith .min t.ty rm sat vd va vb m s r
    | .max t => varith .max t.ty rm sat vd va vb m s r
    | .abs t => varith .abs t.ty rm sat vd va vb m s r
    | .neg t => varith .neg t.ty rm sat vd va vb m s r
    | .rcp t => vmath .rcp t.fmt rm sat vd va m s r
    | .rsq t => vmath .rsq t.fmt rm sat vd va m s r
    | .exp2 t => vmath .exp2 t.fmt rm sat vd va m s r
    | .log2 t => vmath .log2 t.fmt rm sat vd va m s r) s

/-! ## Reductions (R153, R411) -/

/-- One level of the pairwise tree, with the flags of its nodes. -/
def treeLevel (f : Nat → Nat → Nat × BitVec 8) : List Nat → List Nat × BitVec 8
  | a :: b :: l =>
    let r := f a b
    let rs := treeLevel f l
    (r.1 :: rs.1, r.2 ||| rs.2)
  | l => (l, 0)

/-- The tree of `n` levels. -/
def tree (f : Nat → Nat → Nat × BitVec 8) : Nat → List Nat → Nat × BitVec 8
  | 0, l => (l.headD 0, 0)
  | n + 1, l =>
    let l1 := treeLevel f l
    let r := tree f n l1.1
    (r.1, l1.2 ||| r.2)

/-- The identity of a masked-off lane. -/
def redIdentity (k : VFun) (t : CvtTy) : Nat :=
  match t with
  | .fp f =>
    match k with
    | .min => f.code false (f.infCode.getD f.maxCode)
    | .max => f.code true (f.infCode.getD f.maxCode)
    | _ => f.signBit
  | .int t =>
    match k with
    | .min => t.encode t.hi
    | .max => t.encode t.lo
    | _ => 0

/-- VRED over a type. -/
def vreduce (k : VFun) (t : CvtTy) (xd : XReg) (va : VReg) (m : MReg) : Meaning := fun s r =>
  let w := t.width
  let ls := (List.range (512 / w)).map fun i =>
    if selects w (r.mask m) i then laneOf w (r.vec va) i else redIdentity k t
  let res := tree (fun a b => vlane k t .rne false a b 0) 6 ls
  .ok ((s.writeX xd (t.toReg res.1)).raise res.2)

/-- VRED.ADD (R411). -/
def execVredAdd (g : Guard) (t : VType) (xd : XReg) (va : VReg) (m : MReg) (s : State) :=
  guarded g 1 (vreduce .add t.ty xd va m) s

/-- VRED.MIN (R411). -/
def execVredMin (g : Guard) (t : VType) (xd : XReg) (va : VReg) (m : MReg) (s : State) :=
  guarded g 1 (vreduce .min t.ty xd va m) s

/-- VRED.MAX (R411). -/
def execVredMax (g : Guard) (t : VType) (xd : XReg) (va : VReg) (m : MReg) (s : State) :=
  guarded g 1 (vreduce .max t.ty xd va m) s

/-- A product of two values of a format rounded to FP32 under RNE. -/
def dotProduct (f : Fmt) (a b : Nat) : Nat × BitVec 8 :=
  match mulVal (f.decode a) (f.decode b) with
  | .error iv => nanResult .f32 iv
  | .ok v => deliver .f32 .rne false v

/-- VDOT over a format. -/
def vdot (f : Fmt) (xd : XReg) (va vb : VReg) (m : MReg) : Meaning := fun s r =>
  let w := f.width
  let ps := (List.range (512 / w)).map fun i =>
    if selects w (r.mask m) i then dotProduct f (laneOf w (r.vec va) i) (laneOf w (r.vec vb) i) else (Fmt.signBit .f32, 0)
  let res := tree (fun a b => fpAdd .f32 .rne false a b) 6 (ps.map (·.1))
  .ok ((s.writeX xd (BitVec.ofNat 64 res.1)).raise (ps.foldl (fun a p => a ||| p.2) res.2))

/-- VDOT.F32 (R411). -/
def execVdotF32 (g : Guard) (xd : XReg) (va vb : VReg) (m : MReg) (s : State) := guarded g 1 (vdot .f32 xd va vb m) s

/-- VDOT.BF16 (R411). -/
def execVdotBf16 (g : Guard) (xd : XReg) (va vb : VReg) (m : MReg) (s : State) := guarded g 1 (vdot .bf16 xd va vb m) s

/-- VDOT.F16 (R411). -/
def execVdotF16 (g : Guard) (xd : XReg) (va vb : VReg) (m : MReg) (s : State) := guarded g 1 (vdot .f16 xd va vb m) s

/-! ## Lane moves (R412) -/

/-- VPERM (R412). -/
def execVperm (g : Guard) (lw : LaneW) (vd va vb : VReg) (s : State) :=
  guarded g 1 (fun s r =>
    let w := lw.width
    .ok (s.writeV vd (ofLanes w ((lanesOf w (r.vec vb)).map fun k => laneOf w (r.vec va) (k % (512 / w)))))) s

/-- VBCAST (R412). -/
def execVbcast (g : Guard) (lw : LaneW) (vd : VReg) (xa : XReg) (s : State) :=
  guarded g 1 (fun s r => do
    let x ← r.known xa
    .ok (s.writeV vd (ofLanes lw.width (List.replicate (512 / lw.width) (x.toNat % 2 ^ lw.width))))) s

/-- VEXT (R412). -/
def execVext (g : Guard) (lw : LaneW) (xd : XReg) (va : VReg) (xb : XReg) (s : State) :=
  guarded g 1 (fun s r => do
    let x ← r.known xb
    .ok (s.writeX xd (BitVec.ofNat 64 (laneOf lw.width (r.vec va) (x.toNat % (512 / lw.width)))))) s

/-- VINS (R412). -/
def execVins (g : Guard) (lw : LaneW) (vd : VReg) (xa xb : XReg) (s : State) :=
  guarded g 1 (fun s r => do
    let (x, k) ← r.known2 xa xb
    let w := lw.width
    .ok (s.writeV vd (ofLanes w (setAt (lanesOf w (r.vec vd)) (k.toNat % (512 / w)) (x.toNat % 2 ^ w))))) s

/-- VCOMP (R412). -/
def execVcomp (g : Guard) (lw : LaneW) (vd va : VReg) (mb : MReg) (s : State) :=
  guarded g 1 (fun s r =>
    let w := lw.width
    let is := (List.range (512 / w)).filter fun i => (r.mask mb).getLsbD i
    .ok (s.writeV vd (ofLanes w (is.map (laneOf w (r.vec va)))))) s

/-- VEXPD (R412). -/
def execVexpd (g : Guard) (lw : LaneW) (vd va : VReg) (mb : MReg) (s : State) :=
  guarded g 1 (fun s r =>
    let w := lw.width
    .ok (s.writeV vd (ofLanes w ((List.range (512 / w)).map fun i =>
      if (r.mask mb).getLsbD i then laneOf w (r.vec va) (bitsBelow (r.mask mb) i) else 0)))) s

/-! ## Conversion (R414) -/

/-- VCVT (R414). -/
def execVcvt (g : Guard) (dst src : Et) (sat : Bool) (rnd : Rnd) (vd va : VReg) (m : MReg) (s : State) :=
  guarded g 2 (fun s r =>
    let wd := dst.ty.width
    let ws := src.ty.width
    let n := min (512 / wd) (512 / ws)
    let rm := s.rounding r rnd
    .ok (s.writeLanes vd (maskedLanes wd (r.mask m) (r.vec vd) fun i =>
      if i < n then
        let res := convert dst.ty src.ty rm sat (laneOf ws (r.vec va) i)
        (res.1 % 2 ^ wd, res.2)
      else (0, 0)))) s

/-! ## Mask registers (R365) -/

/-- MLOG (R365). -/
def execMlog (g : Guard) (op : MlogOp) (md ma mb : MReg) (s : State) :=
  guarded g 1 (fun s r =>
    let x := r.mask ma
    let y := r.mask mb
    .ok (s.writeM md (match op with
      | .and => x &&& y | .or => x ||| y | .xor => x ^^^ y | .andn => x &&& ~~~ y | .not => ~~~ x))) s

/-- MCNT (R365). -/
def execMcnt (g : Guard) (xd : XReg) (ma : MReg) (s : State) :=
  guarded g 1 (fun s r => .ok (s.writeX xd (BitVec.ofNat 64 (bitsBelow (r.mask ma) 64)))) s

end Sys2Proof.Machine
end

