-- ==== Sys2Proof/Machine/System.lean ====
section
/-! DEFINITION. System instructions: special registers, region control, translation and way control, SYMQ and RESUME, as
they issue (R87, R102-R104, R267, R298, R305, R312, R313, R375, R377, R378, R394-R396, R415-R417). -/

namespace Sys2Proof.Machine

open Sys2Proof

/-! ## Special registers (Table 4-7) -/

/-- The code of a rounding mode (Table 4-8). -/
def rmodeCode : RMode → Nat
  | .rne => 0 | .rtz => 1 | .rup => 2 | .rdn => 3 | .rna => 4

/-- The value of a special register, none for an unassigned number. -/
def State.special (s : State) (r : Run) (n : Nat) : Option Word :=
  let c := s.core s.cur
  let node := coreNode s.cur
  match n with
  | 0x000 => some (BitVec.ofNat 64 s.cur)
  | 0x001 => some (nodeWord s.brielo.number node.1 node.2.1 node.2.2)
  | 0x002 => some (BitVec.ofNat 64 r.region)
  | 0x003 => some (place r.fid 12)
  | 0x008 => some (BitVec.ofNat 64 s.cycle)
  | 0x009 => some (BitVec.ofNat 64 s.time)
  | 0x010 => some (r.fpst.setWidth 64)
  | 0x011 => some (BitVec.ofNat 64 (rmodeCode (s.rmodeOf r.region)))
  | 0x018 => some (BitVec.ofNat 64 (c.wack r.tid))
  | 0x019 => some (BitVec.ofNat 64 (c.uack r.tid))
  | 0x01A => some (place c.symsFree 16 ||| place c.poolFree 0)
  | 0x01B => some ((SMap.get c.taglast r.tid 0).setWidth 64)
  | 0x01C => some (BitVec.ofNat 64 r.runleft)
  | n =>
    if 0x040 ≤ n ∧ n ≤ 0x05F then some (SMap.get c.land (n - 0x040) 0)
    else if 0x060 ≤ n ∧ n ≤ 0x063 then some (((SMap.find c.bp (n - 0x060)).map (·.val)).getD 0)
    else if 0x068 ≤ n ∧ n ≤ 0x069 then some (((SMap.find c.wp (n - 0x068)).map (·.val)).getD 0)
    else none

/-- RDSR (R375): an unassigned number is illegal whatever the guard (R95, R103). -/
def execRdsr (g : Guard) (d : XReg) (num : BitVec 11) (s : State) :=
  guardedAfter g (fun s r => if (s.special r num.toNat).isSome then .ok () else .error (.fault 0x01 0 0))
    (fun s r => .ok (s.writeX d ((s.special r num.toNat).getD 0))) s

/-- The access checks of WRSR (R103). -/
def State.mayWrite (s : State) (r : Run) (n : Nat) : Except Stop Unit :=
  if (s.special r n).isNone then .error (.fault 0x01 0 0)
  else if n = 0x010 ∨ (0x040 ≤ n ∧ n ≤ 0x05F) then .ok ()
  else if 0x060 ≤ n then
    if s.debugOf r.region = 3 ∨ s.debugOf r.region = 4 ∨ r.priv = true then .ok () else .error (.fault 0x02 0 0)
  else .error (.fault 0x02 0 0)

/-- A special register written (Table 18-7). -/
def State.writeSpecial (s : State) (r : Run) (n : Nat) (w : Word) : State :=
  if n = 0x010 then s.onRun fun r => { r with fpst := w.setWidth 8 &&& 0x3F }
  else s.onCore s.cur fun c =>
    if n ≤ 0x05F then { c with land := SMap.set c.land (n - 0x040) w }
    else if n ≤ 0x063 then { c with bp := SMap.set c.bp (n - 0x060) ⟨w &&& ~~~ (place 3 60), r.priv, r.region⟩ }
    else { c with wp := SMap.set c.wp (n - 0x068) ⟨w &&& ~~~ (place 7 58), r.priv, r.region⟩ }

/-- WRSR (R417). -/
def execWrsr (g : Guard) (a : XReg) (num : BitVec 11) (s : State) :=
  guardedAfter g (fun s r => s.mayWrite r num.toNat)
    (fun s r => do
      let w ← r.known a
      .ok (s.writeSpecial r num.toNat w)) s

/-! ## Region control (R378) -/

/-- RGNCTL at issue: a release to the service core. -/
def rgnctl (op : Nat) (g : Guard) (xg y : XReg) (s : State) : Host.Outcome State Fault Refusal :=
  guardedAfter g needPriv (fun s r => do
    let (ws, ref) ← s.cmdOperands r (r.group xg 2) y
    s.issueRelease r (.rgnctl op (wordAt ws 0) (wordAt ws 1) ref)) s

/-- RGNCTL.ACT (R378). -/
def execRgnctlAct (g : Guard) (xg y : XReg) (s : State) := rgnctl 0 g xg y s

/-- RGNCTL.CFG (R378). -/
def execRgnctlCfg (g : Guard) (xg y : XReg) (s : State) := rgnctl 1 g xg y s

/-- RGNCTL.SUSP (R378). -/
def execRgnctlSusp (g : Guard) (xg y : XReg) (s : State) := rgnctl 2 g xg y s

/-- RGNCTL.RES (R378). -/
def execRgnctlRes (g : Guard) (xg y : XReg) (s : State) := rgnctl 3 g xg y s

/-- RGNCTL.DEL (R378). -/
def execRgnctlDel (g : Guard) (xg y : XReg) (s : State) := rgnctl 4 g xg y s

/-! ## Translation and way control -/

/-- May a region name an address space in a TLBINV: its own fault domain's, or any for the device region (R395)? -/
def State.mayInvalidate (s : State) (region asid : Nat) : Bool :=
  region == 1 || s.regions.any fun e => e.2.asid == asid && s.domainOf e.1 == some region

/-- The check of an ASID operand (R395). -/
def asidOk (w : Word) : Except Stop Unit := need (field w 63 16 == 0 && field w 15 0 != 0) 0x07 0

/-- TLBINV.PG (R395). -/
def execTlbinvPg (g : Guard) (a b : XReg) (s : State) :=
  guardedAfter g needPriv (fun s r => do
    onKnown (r.get b) asidOk
    onKnown (r.get a) fun va => need (!highVa va) 0x05 va.toNat
    onKnown (r.get b) fun w => need (s.mayInvalidate r.region (field w 15 0)) 0x05 0
    let (va, w) ← r.known2 a b
    .ok (s.issueFence r (.tlbinvPg (field w 15 0) va.toNat) [])) s

/-- TLBINV.AS (R395). -/
def execTlbinvAs (g : Guard) (b : XReg) (s : State) :=
  guardedAfter g needPriv (fun s r => do
    let w ← r.known b
    asidOk w
    need (s.mayInvalidate r.region (field w 15 0)) 0x05 0
    .ok (s.issueFence r (.tlbinvAs (field w 15 0)) [])) s

/-- TLBINV.ALL (R395). -/
def execTlbinvAll (g : Guard) (s : State) :=
  guardedAfter g needPriv (fun s r => do
    need (r.region == 1) 0x05 0
    .ok (s.issueFence r .tlbinvAll [])) s

/-- WAYCFG (R415, R416). DEDUCED, log entry 13. -/
def execWaycfg (g : Guard) (a b : XReg) (s : State) :=
  guardedAfter g needPriv (fun s r => do
    need (r.region == 1) 0x05 0
    onKnown (r.get a) fun w => need (field w 63 10 == 0) 0x07 0
    onKnown (r.get b) fun w => need (field w 63 4 == 0) 0x07 0
    onKnown (r.get a) fun w => need (isSliceColumn (field w 4 0)) 0x09 0
    onKnown (r.get b) fun w => need (decide (w.toNat ≤ 12)) 0x07 0
    let (n, w) ← r.known2 a b
    s.issueOp r (.waycfg (sliceAt (field n 4 0) (field n 9 5)) w.toNat)) s

/-! ## SYMQ (R394) -/

/-- The descriptor of a register's content (Table 17-3). -/
def Core.descriptor (c : Core) (v : RVal) : Word :=
  let st (i : Nat) : Nat := bitOf ((SMap.find c.syms i).any fun x => x.st == .awaiting)
  match v with
  | .known _ => 0
  | .form i a b => place 1 62 ||| place (bitOf (a == 1 && b == 0)) 15 ||| place (st i) 10 ||| place i 0
  | .chain i steps => place 2 62 ||| place steps.length 12 ||| place (st i) 10 ||| place i 0

/-- SYMQ (R394). -/
def execSymq (g : Guard) (d a : XReg) (s : State) :=
  guarded g 1 (fun s r => .ok (s.writeX d ((s.core s.cur).descriptor (r.get a)))) s

/-! ## RESUME (R304, R305, R377) -/

/-- RESUME of a form: the token's own bits are checked at issue, and it is injected as a release. -/
def resumeForm (form : Nat) (g : Guard) (a : XReg) (s : State) : Host.Outcome State Fault Refusal :=
  guardedAfter g needPriv (fun s r => do
    let t ← r.known a
    need (field t 61 43 == 0 && field t 7 5 == 0 && field t 63 62 == (if form ≤ 1 then 1 else 2)) 0x09 0
    s.issueRelease r (.resume form t)) s

/-- RESUME (R305). -/
def execResume (g : Guard) (a : XReg) (s : State) := resumeForm 0 g a s

/-- RESUME.ABT (R305). -/
def execResumeAbt (g : Guard) (a : XReg) (s : State) := resumeForm 1 g a s

/-- RESUME.RPL (R305). -/
def execResumeRpl (g : Guard) (a : XReg) (s : State) := resumeForm 2 g a s

/-- RESUME.DRP (R305). -/
def execResumeDrp (g : Guard) (a : XReg) (s : State) := resumeForm 3 g a s

end Sys2Proof.Machine
end

