-- ==== Sys2Proof/Machine/Threadlets.lean ====
section
/-! DEFINITION. Events of threadlets and frames: starting and resuming entries, the run budget, parks that end, spills and
refills, and the ageing of the ready queue (R42-R46, R53-R58, R62-R64, R79, R80, R90, R288, R289, R303, R311, R371,
R376, R402, R419). -/

namespace Sys2Proof.Machine

open Sys2Proof

/-! ## Selecting an entry (R288, R289) -/

/-- The loop of R289 from region `g`: `ok` says whether a region can be taken, `elig` whether it is eligible. -/
def Drr.pick (ok elig : Nat → Bool) (q : Nat → Int) : Nat → Drr → Nat → Option (Nat × Drr)
  | 0, _, _ => none
  | n + 1, d, g =>
    if ok g && d.list.any (fun e => e.1 == g && decide (0 < e.2)) then some (g, { d with cur := some g })
    else
      match d.next g with
      | none => none
      | some h => Drr.pick ok elig q n (if elig h then d.raise h (q h) else d) h

/-- Can an entry be taken: its frame is Resident, or Spilled so that its refill is to be requested, or gone? -/
def Core.takeable (c : Core) (e : ReadyEntry) : Bool := ((c.frame e.fid).map fun f => f.st != .refilling).getD true

/-- The oldest of some entries. -/
def oldest (es : List ReadyEntry) : Option ReadyEntry :=
  es.foldl (fun b e => match b with | none => some e | some x => if e.pushed < x.pushed then some e else some x) none

/-- The entry a core selects, with the lists as the selection leaves them. -/
def State.select (s : State) (core : Nat) : Option (ReadyEntry × State) :=
  let c := s.core core
  let es := c.ready.filter fun e => s.eligible core e.region && c.takeable e
  match [3, 2, 1, 0].find? fun l => es.any (·.lvl == l) with
  | none => none
  | some l =>
    let at_ := es.filter (·.lvl == l)
    let d := SMap.get c.drr l Drr.init
    let ok (g : Nat) : Bool := at_.any (·.region == g)
    match d.cur.bind fun g => d.pick ok (s.eligible core) s.quantum (2 ^ 20) g with
    | none => none
    | some (g, d') =>
      (oldest (at_.filter (·.region == g))).map fun e => (e, s.setCore core { c with drr := SMap.set c.drr l d' })

/-! ## Starting and resuming (R53, R54, R90) -/

/-- A start or resume that fails is consumed: the threadlet is Retired without an instruction, a resume as an abort, and
a record names the block, the index and the iteration (R90, R299, R311). -/
def State.consume (s : State) (core : Nat) (e : ReadyEntry) (code block idx addr : Nat) (iter : Option Nat) : State :=
  let s1 := if e.resume then s.abortParked core e.fid else s.retire core e.fid e.region none
  s1.sendRecord e.region { Rec.plain code 3 e.region (.core core) with
    fid := e.fid, at_ := some (block, idx), addr := addr, iter := iter }

/-- What a saved form's handle restores: the entry's form, or its result where it has one or where its symbol has resolved
and the entry is still to be handled, with the flags of that replay (R77, R80); none for a bad handle (R79). -/
def Core.restore (c : Core) (tid : Nat) (h : Word) : Option (RVal × BitVec 8) :=
  if field h 63 14 ≠ 0 then none
  else
    match SMap.find c.pool (field h 7 0) with
    | some e => match e.kind with
      | .saved _ v =>
        if e.org.tid = tid then
          some (match v.symbol with
            | none => (v, 0)
            | some i => match c.symValue i with
              | none => (v, 0)
              | some w => (.known (v.resolve i w).1, (v.resolve i w).2))
        else none
      | _ => none
    | none => none

/-- REPST restored: reserved bits, ITER ≥ COUNT or a body beyond LEN restore as zero (R376). -/
def repOf (w : Word) (len : Nat) : Option Rep :=
  let p : Rep := { start := field w 62 56, nw := field w 55 49, count := field w 47 24, iter := field w 23 0 }
  if bitAt w 63 = false ∨ bitAt w 48 = true ∨ p.count ≤ p.iter ∨ len + 1 < p.start + p.nw then none else some p

/-- PARKOFF of a Resident frame (Table 2-2). -/
def Core.parkOff (c : Core) (f : Frame) : Nat := field (c.word (f.base + 16)) 15 0

/-- The saved state of a Parked or Held threadlet of a Resident frame: the words of its park area, no further than its
frame, or of its hold entry. -/
def Core.savedWords (c : Core) (f : Frame) (p : Parked) : List Word :=
  match p.hold.bind fun h => SMap.find c.hold h with
  | some h => h.words
  | none =>
    let n := min 169 (frameWords f.cls - c.parkOff f)
    padWords 169 (wordsOfBytes n (Cells.read c.lmem (f.base + 8 * c.parkOff f) (8 * n)))

/-- Are the reserved bits of a Resident frame's header zero (Table 2-2)? -/
def Core.frameHeaderOk (c : Core) (f : Frame) : Bool :=
  field (c.word f.base) 63 19 == 0 && field (c.word (f.base + 8)) 63 16 == 0 && field (c.word (f.base + 16)) 63 16 == 0
    && c.word (f.base + 24) == 0

/-- Does a park area of a block with this VUSE lie in the frame, or the saved state stand in a hold entry (R57)? -/
def Core.parkFits (c : Core) (f : Frame) (p : Parked) (vuse : Bool) : Bool :=
  p.hold.isSome || decide (c.parkOff f + parkLen vuse ≤ frameWords f.cls)

/-- The block that an entry of a Resident frame enters: a message's handler, its slot's ENTRY, or the block saved in its
park area, relative to the code base (R53, R56). -/
def State.entryVa (s : State) (core : Nat) (e : ReadyEntry) (f : Frame) : Nat :=
  let c := s.core core
  let entry := match e.resume, f.parked with
    | true, some p => field (wordAt (c.savedWords f p) 0) 59 32
    | _, _ => if e.slot = 0 then f.handler else (Slot.of (c.word (f.base + 8 * e.slot))).entry
  vaOf ((s.codebase e.region : Int) + 16 * entry)

/-- A start entry of a Resident frame taken (R53), the entry checks of whose block answered `chk`. A slot word with nonzero
reserved bits raises the format fault (R6; DEDUCED, log entry 66), and so does a frame header, which the host can write in
the arena (DEDUCED, log entry 78). -/
def State.startRun (s : State) (core : Nat) (e : ReadyEntry) (f : Frame) (chk : Except CodeStop Header) : State :=
  let c := s.core core
  let words := frameWords f.cls
  let block := s.entryVa core e f
  if touches c.lpoison f.base 32 || (e.slot != 0 && touches c.lpoison (f.base + 8 * e.slot) 8) then
    s.consume core e 0x14 block 0 0 none
  else if !c.frameHeaderOk f || (e.slot != 0 && !slotWordOk (c.word (f.base + 8 * e.slot))) then
    s.consume core e 0x07 block 0 block none
  else
    match chk with
    | .error (.page z) => s.awaitPage z
    | .error (.fault code) => s.consume core e code block 0 block none
    | .ok h =>
      if words < h.loff + h.live then s.consume core e 0x15 block 0 block none
      else if touches c.lpoison (f.base + 8 * h.loff) (8 * h.live) then
        s.consume core e 0x06 block 0 (f.base + 8 * h.loff) none
      else
        let pre : SMap RVal := (List.range h.live).map fun i => (i + 1, .known (c.word (f.base + 8 * (h.loff + i))))
        let x := SMap.set (SMap.set pre 30 (.known (place e.fid 12 ||| place e.slot 0))) 31 (.known (BitVec.ofNat 64 f.base))
        let r : Run :=
          { tid := c.nextTid, fid := e.fid, slot := e.slot, region := e.region, level := e.level, sel := e.lvl,
            block := block, len := h.len, parkw := h.parkw, vuse := h.vuse, priv := h.priv, idx := 0, x := x, p := 0,
            m := [], v := [], fpst := 0, rep := none, runleft := 65536, ran := 0, bpSkip := 0 }
        (s.setCore core { c with run := some r, nextTid := c.nextTid + 1 }).trace core e.region e.fid 0

/-- The iteration in which an instruction index stands, none outside the REP body (Table 13-2). -/
def iterAt (p : Option Rep) (idx : Nat) : Option Nat :=
  p.bind fun p => if p.start ≤ idx ∧ idx < p.start + p.nw then some p.iter else none

/-- Are the reserved bits of a park area zero (Table 2-8)? -/
def parkWordsOk (ws : List Word) : Bool :=
  field (wordAt ws 0) 31 8 == 0 && field (wordAt ws 1) 32 16 == 0 && !(bitAt (wordAt ws 1) 0)

/-- A register that a park area or hold entry restores, with the flags of its replay; none for a bad handle (R79, R80). -/
def Core.restoreX (c : Core) (tid : Nat) (ws : List Word) (i : Nat) : Option (RVal × BitVec 8) :=
  if bitAt (wordAt ws 1) (32 + i) then c.restore tid (wordAt ws (2 + i)) else some (.known (wordAt ws (2 + i)), 0)

/-- SYMMASK with the bits of the registers cleared whose saved form has its result (R80). -/
def clearedMask (w1 : Word) (x : Nat → Option (RVal × BitVec 8)) : Word :=
  (List.range' 1 31).foldl (fun w i =>
    match x i with | some (.known _, _) => w &&& ~~~ (place 1 (32 + i)) | _ => w) w1

/-- A resume entry of a Resident frame taken, the entry checks of whose block answered `chk`: registers restored, the SYMMASK
bits of results cleared, PARKOFF cleared (R54, R56, R79, R80, R402). A frame header with nonzero reserved bits takes the
format fault (R6; DEDUCED, log entry 78); a park area that does not lie in its frame, since a signal or a store has changed
the block it names, the park-area fault (R2, R57; DEDUCED, log entry 86). The record of a bad handle has SRC 0 and names the
resume point (R79 gives it neither; DESIGN CHOICE, log entry 87). -/
def State.resumeRun (s : State) (core : Nat) (e : ReadyEntry) (f : Frame) (p : Parked) (chk : Except CodeStop Header) :
    State :=
  let c := s.core core
  let off := c.parkOff f
  let ws := c.savedWords f p
  let w1 := wordAt ws 1
  let block := s.entryVa core e f
  let idx := field (wordAt ws 0) 7 0
  let iter := iterAt (repOf (wordAt ws 2) p.len) idx
  match chk with
  | .error (.page z) => s.awaitPage z
  | .error (.fault code) =>
    if touches c.lpoison f.base 32 then s.consume core e 0x14 block idx 0 iter
    else if !c.frameHeaderOk f then s.consume core e 0x07 block idx 0 iter
    else if !c.parkFits f p false then s.consume core e 0x0B block idx 0 iter
    else s.consume core e code block idx block iter
  | .ok h =>
    if touches c.lpoison f.base 32
        || (p.hold.isNone && touches c.lpoison (f.base + 8 * off) (8 * parkLen h.vuse)) then
      s.consume core e 0x14 block idx 0 iter
    -- Table 2-8 states no fate of a nonzero reserved bit, which a store can set (R6). DEDUCED, log entry 78.
    else if !c.frameHeaderOk f || !parkWordsOk ws then s.consume core e 0x07 block idx 0 iter
    else if !c.parkFits f p h.vuse then s.consume core e 0x0B block idx 0 iter
    else
      let reg := c.restoreX p.tid ws
      let is := List.range' 1 30
      let x : SMap RVal := is.map fun i => (i, ((reg i).map (·.1)).getD (.known 0))
      let flags : BitVec 8 := is.foldl (fun w i => w ||| ((reg i).map (·.2)).getD 0) 0
      let bad := (List.range' 1 31).filter fun i => (reg i).isNone
      let r : Run :=
        { tid := p.tid, fid := e.fid, slot := p.slot, region := e.region, level := p.level, sel := e.lvl, block := block,
          len := h.len, parkw := h.parkw, vuse := h.vuse, priv := h.priv, idx := idx,
          x := SMap.set x 31 (.known (BitVec.ofNat 64 f.base)),
          p := BitVec.ofNat 8 (field w1 7 1 * 2),
          m := if h.vuse then (List.range' 1 7).map fun i => (i, wordAt ws (33 + i)) else [],
          v := if h.vuse then (List.range 16).map fun i =>
            (i, BitVec.ofNat 512 (natOf (bytesOfWords ((ws.drop (41 + 8 * i)).take 8)))) else [],
          fpst := BitVec.ofNat 8 (field w1 13 8) ||| flags, rep := repOf (wordAt ws 2) h.len, runleft := 65536, ran := 0,
          bpSkip := p.bpSkip }
      let c0 : Core := if p.hold.isNone then c.putWord (f.base + 8 * (off + 1)) (clearedMask w1 reg) else c
      let c1 : Core := (c0.putWord (f.base + 16) 0).onFrame e.fid fun f => { f with parked := none }
      let s1 := (s.setCore core (Core.freeSyms { c1 with
        run := some r
        hold := (match p.hold with | some h => SMap.del c1.hold h | none => c1.hold)
        pool := c1.pool.filter fun q => !(q.2.org.tid == p.tid && !q.2.isEffect) })).trace core e.region e.fid 2
      bad.foldl (fun s _ => s.sendRecord e.region
        { Rec.plain 0x09 0 e.region (.core core) with fid := e.fid, at_ := some (block, idx), iter := iter }) s1

/-- An entry taken from the queue: set aside while its frame is not Resident or the page of its block is being zeroed
(R205), dropped where its frame is gone. -/
def State.take (s : State) (core : Nat) (e : ReadyEntry) : State :=
  match (s.core core).frame e.fid with
  | none => (s.onCore core fun c => { c with ready := c.ready.erase e }).syncDrr core
  | some f =>
    if f.st ≠ .resident then s.requestRefill core e.fid
    else
      match s.checkEntry core e.region (frameWords f.cls) (s.entryVa core e f) with
      | .error (.page z) => s.awaitPage z
      | chk =>
        let s0 := s.readEntry core (s.asid e.region) (s.entryVa core e f) 0
        let s1 := { (s0.onCore core fun c => { c with ready := c.ready.erase e }) with cur := core }
        match e.resume, f.parked with
        | true, some p => if p.ready then s1.resumeRun core e f p chk else s1
        | true, none => s1
        | false, _ => s1.startRun core e f chk

/-- READY_ENTRY_SELECT: entries are selected until one starts or none can be taken. -/
def State.selectEntry (s : State) (core : Nat) : Nat → State
  | 0 => s
  | n + 1 =>
    if (s.core core).run.isSome then s
    else
      match s.select core with
      | none => s
      | some (e, s1) => (s1.take core e).selectEntry core n

/-- READY_ENTRY_SELECT (R288, R289): a core without a Running threadlet takes an entry. -/
def execReadyEntrySelect (core : Nat) (s : State) : Host.Outcome State Fault Refusal :=
  .next (if 2048 ≤ core ∨ (s.core core).zeroing = true then s else
    let s1 := s.ageEntries core
    (s1.selectEntry core ((s1.core core).ready.length + 1)).syncDrr core)

/-- ENTRY_AGING (R288). -/
def execEntryAging (core : Nat) (s : State) : Host.Outcome State Fault Refusal := .next (s.ageEntries core)

/-! ## Parks that begin and end by themselves (R55, R371) -/

/-- RUNLEFT_EXPIRY: the run budget is used up at an instruction boundary (cause 3). -/
def execRunleftExpiry (core : Nat) (s : State) : Host.Outcome State Fault Refusal :=
  .next (match (s.core core).run with
    | some r => if r.runleft = 0 then s.park core r 0 3 .atOnce else s
    | none => s)

/-- A threadlet whose cause has cleared becomes Ready: its resume entry is pushed, or its frame's refill requested. One
whose entry finds no room waits for it: intake is stopped, and the stop is reported (R64). -/
def State.unpark (s : State) (core fid : Nat) : State :=
  match (s.core core).frame fid with
  | none => s
  | some f =>
    match f.parked with
    | none => s
    | some p =>
      if p.ready then s
      else if f.st = .resident ∧ s.canPush core f.region = true then
        (s.onCore core fun c => c.onFrame fid fun f => { f with parked := some { p with ready := true } }).pushReady
          core f.region fid p.slot p.level true
      else
        let s1 := s.onCore core fun c => c.onFrame fid fun f => { f with parked := some { p with wait := .atOnce } }
        if f.st = .resident then s1.report core f.region fid p.slot else s1.requestRefill core fid

/-- PARK_TIME_EXPIRY: a PARK until a TIME that has come. -/
def execParkTimeExpiry (core fid : Nat) (s : State) : Host.Outcome State Fault Refusal :=
  .next (match ((s.core core).frame fid).bind (·.parked) with
    | some p => match p.wait with
      | .time t => if t ≤ s.time then s.unpark core fid else s
      | _ => s
    | none => s)

/-! ## Spill and refill (R42-R45, R419) -/

/-- Does the frame refill at its previous base: a threadlet Parked or Held in it, or a resume entry (R45)? -/
def Core.pinned (c : Core) (fid : Nat) (f : Frame) : Bool :=
  f.parked.isSome || c.ready.any fun e => e.fid == fid && e.resume

/-- Other frames of the core in a run of bytes. -/
def Core.othersIn (c : Core) (fid base bytes : Nat) : List (Nat × Frame) :=
  c.frames.filter fun e => e.1 != fid && e.2.inRun base bytes

/-- A Refilling frame whose claim is met is given its place: its previous base, the lowest free run, or a run cleared by
spilling; where none can be had yet, eligible frames start their spill and it waits (R45, R419). -/
def State.placeAdmitted (s : State) (core fid : Nat) (f : Frame) : State :=
  let c := s.core core
  let bytes := f.bytes
  let settleAt (c : Core) (b : Nat) : Core := c.onFrame fid fun f => { f with base := b, placed := true }
  if c.pinned fid f then
    let others := c.othersIn fid f.base bytes
    let c1 := others.foldl (fun c e => if c.spillable s.fstore e.1 e.2 then c.spill e.1 else c) c
    if (c1.othersIn fid f.base bytes).all fun e => e.2.st == .spilled then s.setCore core (settleAt c1 f.base)
    else s.setCore core c1
  else
    match s.freeRun core f.cls with
    | some b => s.setCore core (settleAt c b)
    | none =>
      match s.victim core f.region f.cls false with
      | some v =>
        let b := runFor (((c.frame v).map (·.base)).getD 0) f.cls
        s.setCore core (settleAt (c.spillRun b bytes) b)
      | none => s

/-- A Refilling frame goes on toward its place: first its region's claim (R419), then its run (R45). -/
def State.placeRefill (s : State) (core fid : Nat) (f : Frame) : State :=
  let s1 := if f.admitted then s else s.claimPlace core fid f
  match (s1.core core).frame fid with
  | some f => if f.admitted then s1.placeAdmitted core fid f else s1
  | none => s1

/-- Arrivals queued for a Resident frame applied in order, until one cannot be taken (R44, R64). -/
def State.applyQueue (s : State) (core fid : Nat) : Nat → State
  | 0 => s
  | n + 1 =>
    let c := s.core core
    match c.frame fid, c.refq.find? (·.fid == fid) with
    | some f, some a =>
      if f.st ≠ .resident then s
      else if s.wouldFire core f a && !s.canPush core f.region then
        s.report core f.region a.fid a.slot
      else ((s.setCore core { c with refq := c.refq.erase a }).applySignal core f a).applyQueue core fid n
    | _, _ => s

/-- The image a refill writes: zeros and the header, or the arena slot's bytes with their poison. -/
def State.loadFrame (s : State) (core fid : Nat) (f : Frame) : State :=
  if f.zero then s.onCore core fun c => c.zeroFrame f.base f.bytes fid f.cls f.region
  else
    let (bs, bad, s1) := s.fetch f.arena f.bytes
    s1.onCore core fun c =>
      { c with
        lmem := Cells.write c.lmem f.base bs
        lpoison := carry (heal c.lpoison f.base f.bytes) f.base bad }

/-- A refill completes: the image written, the frame Resident, its queued arrivals applied in order and its deferred
resume made Ready (Table 2-3). -/
def State.finishRefill (s : State) (core fid : Nat) (f : Frame) : State :=
  let s1 := (s.loadFrame core fid f).onCore core fun c =>
    c.onFrame fid fun f => { f with st := .resident, placed := false, zero := false }
  let s2 := s1.applyQueue core fid ((s1.core core).refq.length + 1)
  if f.parked.any fun p => p.wait == .atOnce then s2.unpark core fid else s2

/-- SPILL_WRITE_OUT_COMPLETE: the snapshot is in the arena slot and the granules are free; with it the refill of a new
frame placed there completes, which writes zeros (R44, R419). The controllers take it in their order (R293). -/
def execSpillWriteOutComplete (core fid : Nat) (s : State) : Host.Outcome State Fault Refusal :=
  .next (match (s.core core).frame fid with
    | some f => match f.snap with
      | some (bs, bad) =>
        let ctls := s.stacksOf f.arena f.bytes
        if !s.hkMay 2 ctls then s
        else
          let s1 := (s.store f.arena bs).hkCharge ctls
          let s2 := { s1 with poison := bad.foldl (fun l k => insertNat l (f.arena / 8 + k)) s1.poison }.onCore core fun c =>
            c.onFrame fid fun f => { f with snap := none }
          let done := (s2.core core).frames.filter fun e => e.2.zero && (s2.core core).refillReady e.1 e.2
          done.foldl (fun s e => s.finishRefill core e.1 e.2) s2
      | none => s
    | none => s)

/-- REFILL_COMPLETE: a Refilling frame that has no place yet is given one, and one whose place is clear becomes Resident;
an image in HBM4 is read when the controllers come to it (R45, R293, R389, R419). -/
def execRefillComplete (core fid : Nat) (s : State) : Host.Outcome State Fault Refusal :=
  .next (match (s.core core).frame fid with
    | some f0 =>
      if f0.st ≠ .refilling ∨ f0.snap.isSome = true then s
      else
        let s1 := if f0.placed then s else s.placeRefill core fid f0
        match (s1.core core).frame fid with
        | some f =>
          let ctls := if f.zero then [] else s1.stacksOf f.arena f.bytes
          if (s1.core core).refillReady fid f && s1.hkMay 1 ctls then (s1.finishRefill core fid f).hkCharge ctls else s1
        | none => s1
    | none => s)

/-- FRAME_RELEASE: an FFREE takes effect once every split-phase result aimed into the frame has been written (R46). -/
def execFrameRelease (core fid : Nat) (s : State) : Host.Outcome State Fault Refusal :=
  .next (match (s.core core).frame fid with
    | some f => if f.freeing && !(s.core core).splitPhase s.fstore fid then s.releaseFrame core fid else s
    | none => s)

end Sys2Proof.Machine
end

