-- ==== Sys2Proof/Machine/Arrivals.lean ====
section
/-! DEFINITION. Events of arriving packets at a core's slot unit: which packet may be delivered, signals, active messages,
fault records, and the entries of an overflow segment (R30, R44, R48, R52, R60-R64, R301, R302). -/

namespace Sys2Proof.Machine

open Sys2Proof

/-! ## Delivery (R30, R44) -/

/-- A core takes no arrival: its refill queue is full (R44), or an arrival could not be performed (R64). -/
def State.stopped (s : State) (core : Nat) : Bool := s.intakeStopped core || decide (32 ≤ (s.core core).refq.length)

/-- The node's SIG intake is stopped by one of its cores (R44, R64). -/
def State.intakeHeld (s : State) (core : Nat) : Bool := (List.range' (core / 4 * 4) 4).any s.stopped

/-- Is the packet a signal? -/
def PBody.isSignal : PBody → Bool
  | .signal .. => true
  | _ => false

/-- Do two packets share class, source and destination, so that they are delivered in order (R30)? A completion that waits
in its engine keeps no other reply waiting (R64). -/
def Packet.inLine (q p : Packet) : Bool :=
  q.cls == p.cls && q.src == p.src && q.dst == p.dst && (p.cls != .rsp || q.body.isSignal == p.body.isSignal)

/-- Flits of a metered packet (Table 1-2). -/
def PBody.flits : PBody → Nat
  | .write _ _ data _ _ _ => 1 + (data.length + 31) / 32
  | .replica _ _ _ data _ _ _ => 1 + (data.length + 31) / 32
  | .atomic _ _ _ size _ _ _ => 1 + (size + 31) / 32
  | .mcast _ _ _ _ data _ => 1 + (data.length + 31) / 32
  | .updates ps => 1 + (16 * ps.length + 31) / 32
  | _ => 1

/-- The weir that meters a packet, with its rate: REQ and UPD packets at a local port whose rate is below 4 (R295). -/
def State.weirOf (s : State) (p : Packet) : Option (Nat × Nat) :=
  if p.cls = .req ∨ p.cls = .upd then
    (localPort p.src).bind fun i => (SMap.find s.weir i).bind fun r => if r < 32 then some (i, r) else none
  else none

/-- What a weir's bucket of 64 flits holds now, in eighths of a flit: it fills at the rate in each network cycle, of which
there are two in three core cycles (R17, R20, R295). -/
def State.tokens (s : State) (port rate : Nat) : Nat :=
  let (n, t) := SMap.get s.bucket port (512, 0)
  min 512 (n + rate * (2 * s.cycle / 3 - 2 * t / 3))

/-- Does its weir let a packet go (R295)? -/
def State.weirOpen (s : State) (p : Packet) : Bool :=
  match s.weirOf p with
  | none => true
  | some (i, r) => decide (8 * p.body.flits ≤ s.tokens i r)

/-- The buckets after a packet has gone. -/
def State.spend (s : State) (p : Packet) : SMap (Nat × Nat) :=
  match s.weirOf p with
  | none => s.bucket
  | some (i, r) => SMap.set s.bucket i (s.tokens i r - 8 * p.body.flits, s.cycle)

/-- May a gather unit present request `p` before `q`, which came earlier: two that miss at their home slice and lie in
different lines, so that `p`'s DRAM row may be the open one (R270)? Slice-scratch has no DRAM behind it (R202). -/
def State.rowFirst (s : State) (q p : Packet) : Bool :=
  match p.dst, q.body, p.body with
  | .slice i, .gather _ _ a _ _ _ _ _, .gather _ _ b _ _ _ _ sp =>
    sp != .scratch && lineOf a != lineOf b && !s.holdsLine i (lineOf a) && !s.holdsLine i (lineOf b)
  | _, _, _ => false

/-- Does an earlier packet keep `p` back: one of its class between the same source and destination (R30), but for what a gather
unit presents out of order, and for elements, which return in any order (R270, R271)? -/
def State.keepsBack (s : State) (q p : Packet) : Bool :=
  q.inLine p &&
  match p.src, p.dst with
  | .gather _, .core _ => false
  | .gather _, _ => !s.rowFirst q p
  | _, _ => true

/-- May a packet be delivered next: no earlier one keeps it back, its destination is in this module or is host memory, its
port's weir lets it go, and a SIG packet finds its node's intake open, an engine's completion its core's? -/
def State.deliverable (s : State) (i : Nat) (p : Packet) : Bool :=
  !((s.net.take i).any (s.keepsBack · p)) && s.weirOpen p &&
  match p.dst with
  | .core n => !(p.cls == .sig && s.intakeHeld n) && !(p.cls == .rsp && p.body.isSignal && s.stopped n)
  | .peer _ => false
  | .service => !s.service.down
  | .slice _ | .eddy _ | .gather _ | .frontEnd _ | .port _ | .tracer | .host => true

/-- The packet at a place of the network, when it may be delivered. -/
def State.packet (s : State) (i : Nat) : Option Packet :=
  match s.net[i]? with
  | none => none
  | some p => if s.deliverable i p then some p else none

/-- The network without a packet, which its weir has let go. -/
def State.drop (s : State) (i : Nat) : State :=
  { s with net := dropAt s.net i, bucket := ((s.net[i]?).map s.spend).getD s.bucket }

/-! ## Signals -/

/-- SIGNAL_ARRIVAL: a signal, or the decrement of a multicast piece that has landed (R48, R52, R267). -/
def execSignalArrival (pkt : Nat) (s : State) : Host.Outcome State Fault Refusal :=
  .next (match s.packet pkt with
    | some p =>
      match p.dst, p.body with
      | .core n, .signal ref dec data _ err =>
        (s.drop pkt).arrive n { fid := (Ref.of ref).fid, slot := (Ref.of ref).slot, dec := dec, data := data, err := err,
                                region := p.region, sloti := none }
      | .core n, .count ref bytes err m cmd pos =>
        (s.drop pkt).arrive n { fid := (Ref.of ref).fid, slot := (Ref.of ref).slot, dec := bytes, data := .none, err := err,
                                region := p.region, sloti := none, ack := some (m, cmd, pos, !err) }
      | _, _ => s
    | none => s)

/-! ## Messages (R60, R61, R301, R302) -/

/-- What a core delivers into a new frame. -/
structure Delivery where
  region  : Nat
  handler : Nat
  /-- words from frame word 4 -/
  body    : List Word
  deriving DecidableEq, Repr

/-- A delivered frame: its words written, or queued for its refill, and its ready entry pushed; none when no frame, no
room in the refill queue or no room for the entry can be had. -/
def State.deliver (s : State) (core : Nat) (d : Delivery) (h : Header) : Option State :=
  if !s.canPush core d.region then none
  else
    match s.allocFrame core d.region h.fcls with
    | none => none
    | some (fid, s1) =>
      let s2 := s1.onCore core fun c => c.onFrame fid fun f => { f with handler := d.handler }
      let c := s2.core core
      match c.frame fid with
      | none => none
      | some f =>
        let a : Arrival := { fid := fid, slot := 0, dec := 0, data := .words 3 d.body, err := false, region := d.region,
                             sloti := none }
        let push (s : State) : State :=
          (s.pushReady core d.region fid 0 (s.levelOf d.region 0) false).progress d.region
        if f.st = .resident then some (push (s2.setCore core (c.putData f 0 a.data)))
        else if c.refq.length < 32 then
          some (push ((s2.setCore core { c with refq := c.refq ++ [a] }).requestRefill core fid))
        else none

/-- Can the region hold another frame on the core (R43)? -/
def State.frameFree (s : State) (core region cls : Nat) : Bool := (s.allocFrame core region cls).isSome

/-- The handler block of a message. -/
def State.handlerVa (s : State) (region handler : Nat) : Nat := vaOf ((s.codebase region : Int) + 16 * handler)

/-- Frames released that messages and records waiting in the segment have a claim on (R61). -/
def Core.claims (c : Core) (region : Nat) : Nat := SMap.get c.freed region 0

/-- The queue of a message packet, for the fence of that queue (R279). -/
def Packet.queue (p : Packet) : Option Nat := match p.body with | .amsg _ _ _ q => q | _ => none

/-- Frames that can still be allocated for a region on a core: R43's two limits. -/
def State.framesLeft (s : State) (core : Nat) (g : Region) : Nat :=
  min (g.spillcap - (s.arenaFrames core g.spillbase).length) (65536 - (s.core core).frames.length)

/-- Has a region a frame free for a message that arrives now: more than those that waiting ones have a claim on (R61)? -/
def State.frameToSpare (s : State) (core region : Nat) : Bool :=
  ((s.region region).map fun g => decide ((s.core core).claims region < s.framesLeft core g)).getD false

/-- A message of a region reaches its core: delivered, appended to the overflow segment when no frame can be allocated or
every free one is for those that wait there, or, with no room anywhere, not accepted (none). `entry` and `report` are
those of the segment's entry, and `queue` is the host queue of the message (R61, R279, R301). -/
def State.receive (s : State) (core : Nat) (d : Delivery) (h : Header) (entry : List Word) (report : Bool)
    (queue : Option Nat) : Option State :=
  if s.frameFree core d.region h.fcls && s.frameToSpare core d.region then s.deliver core d h
  else
    match s.region d.region with
    | none => none
    | some g =>
      if s.segmentFull g core then none
      else
        let s1 := (s.segmentAppend g core entry).onCore core fun c => { c with waitq := c.waitq ++ [(d.region, queue)] }
        some (if report then s1.sendRecord d.region (Rec.plain 0x0A 3 d.region (.core core)) else s1)

/-- A message whose header fails R90: the message is discarded with the bad-block fault (DEDUCED, log entry 21). -/
def State.badHandler (s : State) (core region handler : Nat) : State :=
  s.sendRecord region { Rec.plain 0x15 3 region (.core core) with
    at_ := some (s.handlerVa region handler, 0), addr := s.handlerVa region handler }

/-- Checks of the handler of a message or record packet at its core, none for another packet: that of a record also needs
an active fault domain (R90, R302). -/
def State.handlerOf (s : State) (core : Nat) (p : Packet) : Except CodeStop Header :=
  match p.body with
  | .amsg handler .. => s.checkHandler core p.region (s.handlerVa p.region handler)
  | .record domain handler _ =>
    if (s.region domain).isSome then s.checkHandler core domain (s.handlerVa domain handler) else .error (.fault 0x15)
  | _ => .error (.fault 0x15)

/-- A message or record at its core, its packet taken from the network and its handler checked: discarded or undeliverable
where the header fails a check, or received; none where it finds no room. An entry of KIND 2 or 3 carries no TIME (Table 2-11;
DESIGN CHOICE, log entry 70). -/
def State.takeMessage (s : State) (core : Nat) (p : Packet) (chk : Except CodeStop Header) : Option State :=
  match p.body, chk with
  | .amsg handler _ _ _, .error _ => some (s.badHandler core p.region handler)
  | .amsg handler addr payload q, .ok h =>
    s.receive core ⟨p.region, handler, addr :: payload⟩ h
      (overflowWords 2 (s.levelOf p.region 0) p.region 0 0 0 handler addr payload) true q
  | .record _ _ ws, .error _ => some (s.undeliverable p.region p.src ws)
  | .record domain handler ws, .ok h =>
    s.receive core ⟨domain, handler, ws⟩ h (overflowWords 3 (s.levelOf domain 0) domain 0 0 0 0 0 ws) false none
  | _, _ => some s

/-- The region in which a message or record packet is delivered. -/
def Packet.domain (p : Packet) : Nat := match p.body with | .record domain _ _ => domain | _ => p.region

/-- The page that a message's handler waits for, when it is being zeroed (R205). -/
def State.handlerPage (s : State) (core : Nat) (p : Packet) : Option (Option Zeroing) :=
  match s.handlerOf core p with
  | .error (.page z) => some z
  | _ => none

/-- The lines of a handler's header that a core reads stay cached (R198). -/
def State.readHandler (s : State) (core : Nat) (p : Packet) : State :=
  match p.body with
  | .amsg handler .. => s.readEntry core (s.asid p.region) (s.handlerVa p.region handler) 0
  | .record domain handler _ => s.readEntry core (s.asid domain) (s.handlerVa domain handler) 0
  | _ => s

/-- A message or record delivered to a core. One that finds no room is held there: intake stops, and the stop is reported
(R64; DEDUCED, log entry 64). One whose handler's page is being zeroed stays in the network. -/
def State.deliverMessage (s : State) (pkt core : Nat) (p : Packet) : State :=
  match s.handlerPage core p with
  | some z => s.awaitPage z
  | none =>
    let s1 := (s.drop pkt).readHandler core p
    match s1.takeMessage core p (s.handlerOf core p) with
    | some t => t
    | none => (s1.onCore core fun c => { c with blockedMsg := some p }).report core p.domain 0 0

/-- ACTIVE_MESSAGE_DELIVERY (R60, R61, R90). -/
def execActiveMessageDelivery (pkt : Nat) (s : State) : Host.Outcome State Fault Refusal :=
  .next (match s.packet pkt with
    | some p =>
      match p.dst, p.body with
      | .core n, .amsg .. => s.deliverMessage pkt n p
      | _, _ => s
    | none => s)

/-- FAULT_RECORD_DELIVERY (R301, R302): at the handler core as a message of the fault domain; at the service core the
record is kept, as an active-message delivery of the device region unless it is undeliverable (R296). -/
def execFaultRecordDelivery (pkt : Nat) (s : State) : Host.Outcome State Fault Refusal :=
  .next (match s.packet pkt with
    | some p =>
      match p.dst, p.body with
      | .service, .record _ _ ws =>
        let x := s.service
        let lost := field (wordAt ws 0) 55 52 == 7
        let log := if lost then x.log ++ [.undeliverable ws] else x.log
        let s1 : State := { s.drop pkt with service := { x with records := x.records ++ [ws], log := log } }
        if lost then s1 else s1.progress 1
      | .core n, .record .. => s.deliverMessage pkt n p
      | _, _ => s
    | none => s)

/-! ## Overflow segments (R63, R64, Table 2-11) -/

/-- HEAD of a segment moved on by one entry. -/
def State.bumpHead (s : State) (g : Region) (core : Nat) : State :=
  let a := g.segment core
  s.store a (bytesOf 8 ((field (s.peek64 a) 31 0 + 1) % 2 ^ 32))

/-- Is the entry at HEAD marked as taken? -/
def State.headTaken (s : State) (g : Region) (core : Nat) : Bool := (s.segmentEntry g core 0).any fun ws => entryKind ws == 15

/-- HEAD moved past every taken entry that stands at it, at most `n`. -/
def State.advanceHead (s : State) (g : Region) (core n : Nat) : State :=
  (List.range n).foldl (fun s _ => if s.headTaken g core then s.bumpHead g core else s) s

/-- The entry `k` places behind HEAD taken: one at HEAD moves HEAD on, another is marked with KIND 15; HEAD then passes
every taken entry that stands at it. -/
def State.takeEntry (s : State) (g : Region) (core k : Nat) : State :=
  let a := g.segment core
  let at_ := a + 128 * (1 + (field (s.peek64 a) 31 0 + k) % g.segEntries)
  let w := s.peek64 at_
  let s1 := if k = 0 then s.bumpHead g core
    else s.store at_ (bytesOf 8 ((w &&& ~~~ (place 15 60)) ||| place 15 60).toNat)
  s1.advanceHead g core g.segEntries

/-- Has an entry a defined KIND, with its reserved fields zero (Table 2-11)? -/
def entryOk (ws : List Word) : Bool :=
  decide (entryKind ws ≤ 3) && field (wordAt ws 0) 57 48 == 0 && field (wordAt ws 0) 15 12 == 0
    && field (wordAt ws 2) 63 28 == 0 && (ws.drop 12).all (· == 0)

/-- Does an entry of the same sort stand untaken before place `k`: starts and resumes, or messages of one region? -/
def State.earlierEntry (s : State) (g : Region) (core k : Nat) (ws : List Word) : Bool :=
  (List.range k).any fun j =>
    match s.segmentEntry g core j with
    | some v =>
      if entryKind ws ≤ 1 then decide (entryKind v ≤ 1)
      else (entryKind v == 2 || entryKind v == 3) && entryRegion v == entryRegion ws
    | none => false

/-- The oldest waiting message of a region leaves the core's list. -/
def dropWaiting (region : Nat) : List (Nat × Option Nat) → List (Nat × Option Nat)
  | [] => []
  | w :: ws => if w.1 = region then ws else w :: dropWaiting region ws

/-- The packet that a KIND 2 or KIND 3 entry stands for: what would be delivered had it just arrived. -/
def State.entryPacket (s : State) (core : Nat) (ws : List Word) : Packet :=
  let rgn := entryRegion ws
  if entryKind ws = 2 then
    ⟨.sig, .core core, .core core, rgn, .amsg (field (wordAt ws 2) 27 0) (wordAt ws 3) ((ws.drop 4).take 6) none⟩
  else
    let words := (ws.drop 4).take 8
    ⟨.sig, .core core, .core core, field (wordAt words 0) 47 32,
      .record rgn (field (((s.region rgn).map (·.faulth)).getD 0) 27 0) words⟩

/-- A waiting message or record delivered: the claim it had on a released frame is used (R61). -/
def State.deliverEntry (s : State) (core : Nat) (p : Packet) (t : State) : Option State :=
  match p.body, s.handlerOf core p with
  | .amsg handler addr payload _, .ok h => t.deliver core ⟨p.region, handler, addr :: payload⟩ h
  | .record domain handler ws, .ok h => t.deliver core ⟨domain, handler, ws⟩ h
  | _, chk => t.takeMessage core p chk

/-- The format fault of a segment or an entry with a nonzero reserved field (R6; DEDUCED, log entry 78). -/
def State.segmentFault (s : State) (core region : Nat) : State :=
  s.sendRecord region (Rec.plain 0x07 3 region (.core core))

/-- OVERFLOW_ENTRY_TAKE (R61, R63, R64): a start or resume entry returns to the ready queue while it has room; a message or
record is delivered when its region has released a frame on the core. An entry with a nonzero reserved field is taken and
discarded with the format fault, and a header with one gives no entry (R6). -/
def execOverflowEntryTake (core region idx : Nat) (s : State) : Host.Outcome State Fault Refusal :=
  .next (match s.region region with
    | none => s
    | some g =>
      match s.segmentEntry g core idx with
      | none => s
      | some ws =>
        if s.earlierEntry g core idx ws ∨ entryKind ws = 15 then s
        else if !s.segmentOk g core then s.segmentFault core region
        else if !entryOk ws then
          ((s.takeEntry g core idx).onCore core fun c =>
            { c with waitq := if entryKind ws = 2 ∨ entryKind ws = 3 then dropWaiting (entryRegion ws) c.waitq else c.waitq }
              ).segmentFault core region
        else
          let w0 := wordAt ws 0
          let rgn := entryRegion ws
          if entryKind ws ≤ 1 then
            if (s.core core).ready.length < 1024 then
              let e : ReadyEntry :=
                { fid := field w0 31 16, slot := field w0 11 0, region := rgn, level := field w0 59 58,
                  lvl := field w0 59 58, pushed := (wordAt ws 1).toNat, resume := entryKind ws == 1 }
              ((s.takeEntry g core idx).onCore core fun c => { c with ready := c.ready ++ [e] }).ageEntries core
            else s
          else if (entryKind ws = 2 ∨ entryKind ws = 3) ∧ 0 < (s.core core).claims rgn then
            let p := s.entryPacket core ws
            match s.handlerPage core p with
            | some z => s.awaitPage z
            | none =>
              match s.deliverEntry core p ((s.takeEntry g core idx).readHandler core p) with
              | some t => t.onCore core fun c =>
                { c with freed := SMap.set c.freed rgn (c.claims rgn - 1), waitq := dropWaiting rgn c.waitq }
              | none => s
          else s)

/-! ## Intake tried again -/

/-- The message or record that a core holds tried again (R64). -/
def State.retryMessage (s : State) (core : Nat) : State :=
  match (s.core core).blockedMsg with
  | none => s
  | some p =>
    match s.handlerPage core p with
    | some z => s.awaitPage z
    | none =>
      match ((s.onCore core fun c => { c with blockedMsg := none }).readHandler core p).takeMessage core p
          (s.handlerOf core p) with
      | some t => t
      | none => s

/-- The refill of a Spilled frame that has arrivals in the queue is requested (Table 2-3). -/
def State.requestQueued (s : State) (core fid : Nat) : State :=
  if (s.core core).refq.any (·.fid == fid) then s.requestRefill core fid else s

/-- The arrival that a core holds tried again (R64). -/
def State.retryBlocked (s : State) (core : Nat) : State :=
  match (s.core core).blocked with
  | some a =>
    if 32 ≤ (s.core core).refq.length then s
    else
      let t := (s.onCore core fun c => { c with blocked := none }).arrive core a
      if (t.core core).blocked.isSome then s else t
  | none => s

/-- What stopped a core's intake tried again: arrivals of Resident frames, the refill of frames that were spilled with
arrivals in the queue, then the arrival or message held (R44, R64, R65). -/
def State.retryIntake (s : State) (core : Nat) : State :=
  let c := s.core core
  if c.blocked.isNone && c.blockedMsg.isNone && c.refq.isEmpty && !c.reported then s
  else
    let s1 := (c.refq.map (·.fid)).eraseDups.foldl (fun s fid =>
      (s.applyQueue core fid (c.refq.length + 1)).requestQueued core fid) s
    let s2 := (s1.retryBlocked core).retryMessage core
    s2.onCore core fun c => { c with reported := c.reported && s2.intakeStopped core }

end Sys2Proof.Machine
end

