-- ==== Sys2Proof/Machine/Symbols.lean ====
section
/-! DEFINITION. Events of late values: a value's arrival, deferred effects performed one at a time, failed late loads, and
RESUME at the holding core (R75-R86, R211, R304, R305, R313, R331, R377). -/

namespace Sys2Proof.Machine

open Sys2Proof

/-! ## Operations that end -/

/-- The bytes of an operation. -/
def OpBody.size : OpBody → Nat
  | .gld _ _ size .. | .ldl _ size .. | .gst _ size .. => size
  | .atom _ _ size .. => size
  | .gstv .. => 64
  | .pieceRead _ _ len .. => len
  | .pieceWrite _ _ _ data .. => data.length
  | .element _ _ size .. => size
  | .flagOr .. => 8
  | .pref .. | .pair .. | .uapply .. | .waycfg .. | .signal .. | .amsg .. | .arm .. | .resume .. | .rgnctl .. => 1

/-- Is the operation a write or atomic in Table 9-3? -/
def OpBody.stores : OpBody → Bool
  | .gst .. | .gstv .. | .atom .. => true
  | .gld .. | .ldl .. | .pref .. | .pair .. | .uapply .. | .waycfg .. | .flagOr .. | .signal .. | .amsg .. | .arm ..
  | .resume .. | .rgnctl .. | .pieceRead .. | .pieceWrite .. | .element .. => false

/-- The bytes a store of a threadlet writes at its place, none for an atomic (R220). -/
def OpBody.stored : OpBody → List (Option Byte)
  | .gst _ size data _ => (bytesOf size data.toNat).map some
  | .gstv _ data mask =>
    ((bytesOf 64 data.toNat).zipIdx).map fun p => if mask.getLsbD (p.2 / 4) then some p.1 else none
  | .atom _ _ size .. => List.replicate size none
  | .gld .. | .ldl .. | .pref .. | .pair .. | .uapply .. | .waycfg .. | .flagOr .. | .signal .. | .amsg .. | .arm ..
  | .resume .. | .rgnctl .. | .pieceRead .. | .pieceWrite .. | .element .. => []

/-- Does a store of a threadlet overlap `n` bytes from a place: a byte it writes, or any byte of an atomic? -/
def Op.overlaps (o : Op) (a n : Nat) : Bool :=
  let bs := o.body.stored
  let atomic_ : Bool := match o.body with | .atom .. => true | _ => false
  (bs.zipIdx).any fun p => (atomic_ || p.1.isSome) && decide (a ≤ o.pa + p.2 ∧ o.pa + p.2 < a + n)

/-- An outstanding operation beside one that has ended: an older store of its threadlet that a store overlaps is no
longer the youngest there (R220). -/
def Op.shadedBy (x o : Op) : Op :=
  if o.body.stores ∧ x.org.tid = o.org.tid ∧ x.seq < o.seq ∧ x.overlaps o.pa o.body.size = true then
    { x with shade := (o.pa, o.body.size) :: x.shade } else x

/-- The outstanding operation of a core with an identifier. -/
def Core.outstanding (c : Core) (id : Nat) : Option Op := c.outst.find? (·.id == id)

/-- An operation that has ended leaves the core; a tag becomes its threadlet's TAGLAST (R217, R218). -/
def State.endOp (s : State) (core : Nat) (o : Op) (tag : Option (BitVec 32)) : State :=
  s.onCore core fun c =>
    { c with
      outst := (c.outst.filter (·.id != o.id)).map (·.shadedBy o)
      taglast := (match tag with | some t => SMap.set c.taglast o.org.tid t | none => c.taglast) }

/-- DETAIL with DEF for a deferred effect, and the record's SRC (R85, Table 13-2). -/
def Op.src (o : Op) : Nat := if o.deferred then 2 else 0

/-- The record of a fault of an operation after its issue. -/
def State.opFault (s : State) (core : Nat) (o : Op) (code addr : Nat) : State :=
  s.sendRecord o.org.region (Rec.of code o.src (.core core) o.org addr (place (bitOf o.deferred) 0))

/-! ## Flags of a replay (R77) -/

/-- A word of the saved state of a Parked or Held threadlet changed: in its park area or its hold entry. -/
def State.changeSaved (s : State) (core fid off : Nat) (f : Word → Word) : State :=
  match ((s.core core).frame fid).bind (·.parked) with
  | none => s
  | some p =>
    match p.hold with
    | some h => s.onCore core fun c =>
        match SMap.find c.hold h with
        | some e => { c with hold := SMap.set c.hold h { e with words := setAt e.words off (f (wordAt e.words off)) } }
        | none => c
    | none => s.changeWord core fid (field (s.frameWord core fid 2) 15 0 + off) f

/-- Where a threadlet stands. -/
inductive Standing where
  | running | saved | retired
  deriving DecidableEq, Repr

/-- Where the threadlet of an origin stands. -/
def Core.standing (c : Core) (tid fid : Nat) : Standing :=
  if c.run.any (·.tid == tid) then .running
  else if ((c.frame fid).bind (·.parked)).any (·.tid == tid) then .saved
  else .retired

/-- The atomic OR of flags into a region's flag word, for the instruction at an origin; nothing where FLAGW is 0 (R77). -/
def State.orFlags (s : State) (core : Nat) (o : Origin) (flags : BitVec 8) : State :=
  let flagw := ((s.region o.region).map (·.flagw)).getD 0
  if flagw = 0 then s
  else
    let (q, s1) := s.newSeq core
    let op : Op := { id := q, seq := q, org := o, deferred := true, far := false, body := .flagOr flagw flags }
    if flagw % 8 ≠ 0 then s1.opFault core op 0x03 flagw
    else if flagw / 2 ^ 52 ≠ 0 then s1.opFault core op 0x05 flagw
    else s1.onCore core fun c => { c with src := c.src ++ [op] }

/-- The flags of some steps together. -/
def allFlags (l : List (ChainStep × BitVec 8)) : BitVec 8 := l.foldl (fun x p => x ||| p.2) 0

/-- The flags that the steps of a replay raised, for a threadlet of `o`: into FPSTAT, into the saved FPST, or into the
region's flag word by an atomic OR for each instruction that raised some, whose block and index its record names (R77;
DEDUCED, log entry 71). -/
def State.replayFlags (s : State) (core : Nat) (o : Origin) (raised : List (ChainStep × BitVec 8)) : State :=
  if raised.isEmpty then s
  else
    match (s.core core).standing o.tid o.fid with
    | .running => s.onCore core fun c => { c with run := c.run.map fun r => { r with fpst := r.fpst ||| allFlags raised } }
    | .saved => s.changeSaved core o.fid 1 fun w => w ||| place (allFlags raised).toNat 8
    | .retired => raised.foldl (fun s p =>
        s.orFlags core { o with block := p.1.block, index := p.1.index, iter := p.1.iter } p.2) s

/-! ## Resolution (R75, R80, R84) -/

/-- The Running threadlet's registers over a symbol take their values. -/
def Core.resolveRun (c : Core) (sym : Nat) (v : Word) : Core :=
  { c with run := c.run.map fun r =>
      r.x.foldl (fun r e =>
        if e.2.symbol = some sym then
          let (w, fl) := e.2.resolve sym v
          { r with x := SMap.set r.x e.1 (.known w), fpst := r.fpst ||| fl }
        else r) r }

/-- A symbol's value arrives: the symbol is Resolving, the Running threadlet's registers take their values, and the
symbol is freed when nothing depends on it. -/
def State.resolveSym (s : State) (core sym : Nat) (v : Word) : State :=
  s.onCore core fun c =>
    match SMap.find c.syms sym with
    | none => c
    | some x => Core.freeSyms (({ c with syms := SMap.set c.syms sym { x with st := .resolving v } }).resolveRun sym v)

/-- A symbol resolves as failed; LATE_LOAD_FAIL acts on it (R86). DEDUCED, log entry 18. -/
def State.failSym (s : State) (core sym code addr : Nat) : State :=
  s.onCore core fun c =>
    match SMap.find c.syms sym with
    | none => c
    | some x => { c with syms := SMap.set c.syms sym { x with st := .failed code addr } }

/-- A late load or atomic fails: its symbols fail, or, where it has none, its record is sent at once (R86, R332).
DEDUCED, log entry 19. -/
def State.failLate (s : State) (core : Nat) (o : Op) (syms : List Nat) (code addr : Nat) : State :=
  match syms with
  | [] => s.opFault core o code addr
  | i :: is => is.foldl (fun s j => s.failSym core j 0 0) (s.failSym core i code addr)

/-- SYMBOL_VALUE_ARRIVAL: the reply of a late load, or of an atomic with destination registers (R75, R331). -/
def execSymbolValueArrival (pkt : Nat) (s : State) : Host.Outcome State Fault Refusal :=
  .next (match s.packet pkt with
    | some p =>
      match p.dst, p.body with
      | .core n, .readRsp id data bad fail =>
        match (s.core n).outstanding id with
        | some o =>
          match o.body with
          | .ldl va size u sym =>
            let s1 := (s.drop pkt).endOp n o none
            let syms := sym.toList
            if fail ≠ 0 then s1.failLate n o syms fail va
            else if !bad.isEmpty then s1.failLate n o syms 0x06 va
            else syms.foldl (fun s i => s.resolveSym n i (extend u size (natOf data))) s1
          | _ => s
        | none => s
      | .core n, .atomRsp id old bad tag =>
        match (s.core n).outstanding id with
        | some o =>
          match o.body with
          | .atom _ va size _ _ (some i) j =>
            let s1 := (s.drop pkt).endOp n o (some tag)
            if bad then s1.failLate n o (i :: j.toList) 0x06 va
            else
              let s2 := s1.resolveSym n i (if size = 4 then (old.setWidth 32).setWidth 64 else old.setWidth 64)
              j.toList.foldl (fun s k => s.resolveSym n k (old.extractLsb' 64 64)) s2
          | _ => s
        | none => s
      | _, _ => s
    | none => s)

/-! ## Deferred effects (R75, R76, R85, R313) -/

/-- A content with its symbol's value, and the flags of its replay. -/
def Core.valueOf (c : Core) (v : RVal) : Word × BitVec 8 :=
  match v.symbol with
  | none => v.resolve 0 0
  | some i => v.resolve i ((c.symValue i).getD 0)

/-- The steps of its replay that raise flags. -/
def Core.raisedBy (c : Core) (v : RVal) : List (ChainStep × BitVec 8) :=
  v.raised ((v.symbol.bind c.symValue).getD 0)

/-- Can an entry be handled now: a saved form whose symbol has its value, or an effect all of whose symbols have theirs
and for which the order stage has room (R76)? -/
def Core.handleable (c : Core) (e : PoolEntry) : Bool :=
  !e.symbols.isEmpty && e.symbols.all c.symReady &&
    (!e.isEffect || !c.mustWait e.org.tid e.seq || decide (c.stageUsed < 32))

/-- The oldest entry that can be handled. -/
def Core.nextEntry (c : Core) : Option (Nat × PoolEntry) :=
  (c.pool.filter fun e => c.handleable e.2).foldl (fun b e => match b with
    | none => some e
    | some x => if e.2.seq < x.2.seq then some e else some x) none

/-- The watchpoint check of a deferred effect: reported, and performed anyway (R313). -/
def State.watchDeferred (s : State) (core : Nat) (o : Origin) (write : Bool) (accesses : List (Nat × Nat)) : State :=
  match s.watchAll core o.region write accesses with
  | none => s
  | some (va, d) => s.sendRecord o.region (Rec.of 0x12 2 (.core core) o va (d ||| place 1 0))

/-- A fault of a deferred effect: discarded, with a record (R85). -/
def State.deferFault (s : State) (core : Nat) (o : Origin) (code addr : Nat) : State :=
  s.sendRecord o.region (Rec.of code 2 (.core core) o addr (place 1 0))

/-- A performed operation handed over at the place of its pool entry. -/
def State.perform (s : State) (core : Nat) (e : PoolEntry) (body : OpBody) (rel : Bool) : State :=
  let (q, s1) := s.newSeq core
  let late : Bool := match e.kind with | .address .. => true | _ => false
  let o : Op := { id := q, seq := e.seq, org := e.org, deferred := !late, far := false, body := body }
  if rel then s1.release core o else s1.submit core o

/-- The update of a deferred UPD or UPDV. -/
def State.performPairs (s : State) (core : Nat) (e : PoolEntry) (k : Nat) (pairs : Nat → List (Word × Word)) : State :=
  match s.checkPairs e.org.region k pairs with
  | .error x => s.deferFault core e.org x.1 x.2
  | .ok (bid, ps) =>
    let es := ((SMap.find s.bindings bid).map fun b => operSize b.oper).getD 4
    (s.watchDeferred core e.org true (ps.map fun p => (p.1.toNat, es))).submitPairs core e.org (some e.seq) k ps

/-- A deferred effect performed with the values of its operands. -/
def State.performEffect (s : State) (core : Nat) (e : PoolEntry) (f : Effect) (ws : List Word) : State :=
  let o := e.org
  let w := wordAt ws
  let signal (rel : Bool) (dec : Nat) (data : SigData) : State :=
    match s.checkRef (w 0) with
    | .error x => s.deferFault core o x.1 x.2
    | .ok _ => s.perform core e (.signal (w 0) dec data rel false) rel
  match f with
  | .gst sz t =>
    match gstBody sz (w 0) (w 1) (if t then some (w 2) else none) with
    | .error x => s.deferFault core o x.1 x.2
    | .ok b => (s.watchDeferred core o true [((w 0).toNat, sz.bytes)]).perform core e b false
  | .upd k => s.performPairs core e k fun es => [(w 0, BitVec.ofNat 64 ((w 1).toNat % 2 ^ (8 * es)))]
  | .updv k va vb m => s.performPairs core e k fun es => updPairs es (w 0) va vb m
  | .sig rel dec => signal rel dec .none
  | .sigd rel dw => signal rel 1 (.words dw [w 1])
  | .gld lu evp sz byt =>
    match s.gldBody core o.fid lu evp sz byt (w 0) (w 1) (w 2) with
    | .error x => s.deferFault core o x.1 x.2
    | .ok b =>
      if ws.length = 3 ∧ (s.refOk (w 2)) = false then s.deferFault core o 0x09 0
      else (s.watchDeferred core o false [((w 1).toNat, sz.bytes)]).perform core e b false

/-- One pool entry handled (R76). DEDUCED, log entry 20. -/
def State.handleEntry (s : State) (core k : Nat) (e : PoolEntry) : State :=
  let c := s.core core
  let gone : State := s.onCore core fun c => { c with pool := SMap.del c.pool k }
  match e.kind with
  | .saved reg v =>
    let w := (c.valueOf v).1
    (s.onCore core fun c => { c with pool := SMap.set c.pool k { e with kind := .saved reg (.known w) } }).replayFlags
      core e.org (c.raisedBy v)
  | .address sym sz u a =>
    let (w, _) := c.valueOf a
    match ldlBody sz u w sym with
    | .error x =>
      match sym with
      | some i => gone.failSym core i x.1 x.2
      | none => gone.deferFault core e.org x.1 x.2
    | .ok b =>
      let issue (y : Nat × Sym) : Nat × Sym := if sym = some y.1 then (y.1, { y.2 with st := .pending }) else y
      let s1 := gone.onCore core fun c => { c with syms := c.syms.map issue }
      (s1.watchDeferred core e.org false [(w.toNat, sz.bytes)]).perform core e b false
  | .effect f ops =>
    (gone.performEffect core e f (ops.map fun v => (c.valueOf v).1)).replayFlags core e.org (ops.flatMap c.raisedBy)

/-- DEFERRED_EFFECT_PERFORM: one entry over a resolved symbol is handled, oldest first (R75, R76). -/
def execDeferredEffectPerform (core : Nat) (s : State) : Host.Outcome State Fault Refusal :=
  .next (match (s.core core).nextEntry with
    | some (k, e) => (s.handleEntry core k e).onCore core Core.freeSyms
    | none => s)

/-! ## Failed late loads (R86) -/

/-- Everything over a failed symbol loses it: deferred effects discarded, nested late loads failed without a record of
their own, registers and saved forms reading zero; the symbol is freed. -/
def Core.dropSym (c : Core) (sym : Nat) : Core :=
  let over_ (e : PoolEntry) : Bool := e.symbols.contains sym
  let nested := c.pool.filterMap fun e => match e.2.kind with
    | .address (some i) _ _ _ => if over_ e.2 then some i else none
    | _ => none
  { c with
    pool := (c.pool.filter fun e => !(over_ e.2 && e.2.isEffect)).map fun e => match e.2.kind with
      | .saved reg v => if v.symbol = some sym then (e.1, { e.2 with kind := .saved reg (.known 0) }) else e
      | _ => e
    run := c.run.map fun r => { r with x := r.x.map fun e => if e.2.symbol = some sym then (e.1, .known 0) else e }
    syms := (SMap.del c.syms sym).map fun y => if nested.contains y.1 then (y.1, { y.2 with st := .failed 0 0 }) else y }

/-- LATE_LOAD_FAIL: the owner becomes Held or is aborted, and one record names the load (R86). -/
def execLateLoadFail (core sym : Nat) (s : State) : Host.Outcome State Fault Refusal :=
  .next (match SMap.find (s.core core).syms sym with
    | some x =>
      match x.st with
      | .failed code addr =>
        let s1 := s.onCore core fun c => Core.freeSyms (c.dropSym sym)
        if code = 0 then s1
        else
          -- A load that found no route was discarded by the source interface, and a failed port has SRC 5 (R319).
          let src := if code = 0x09 then 8 else if code = 0x14 then 5 else 0
          let rec_ : Rec := Rec.of code src (.core core) x.org addr 0
          match (s1.core core).standing x.tid x.fid, (s1.core core).run, ((s1.core core).frame x.fid).bind (·.parked) with
          | .running, some r, _ =>
            if r.parkw ≠ 0 then s1.takeFault core r x.org src code addr 0
            else (s1.abortRun core r).sendRecord x.region rec_
          | .saved, _, some p =>
            let s2 := s1.onCore core fun c => { c with ready := c.ready.filter fun e => !(e.fid == x.fid && e.resume) }
            let s3 := s2.onCore core fun c => c.onFrame x.fid fun f =>
              { f with parked := some { p with cause := 6, wait := .faultDomain, ready := false } }
            let s4 := (s3.changeSaved core x.fid 0 fun w => (w &&& ~~~ (place 15 60)) ||| place 6 60).syncDrr core
            (if p.wait == .faultDomain then s4 else s4.trace core x.region x.fid 3).sendRecord
              x.region { rec_ with token := heldToken core x.fid }
          | _, _, _ => s1.sendRecord x.region rec_
      | _ => s
    | none => s)

/-! ## Discarded operations (R209) -/

/-- The completion of a GLD (R354). -/
def State.gldDone (s : State) (core : Nat) (o : Op) (size : Nat) (y : Word) (byt err : Bool) : State :=
  if y = 0 then s else s.sendCompletion core o.org y (if byt then size else 1) err

/-- A pair is accepted or discarded: its update counts it (R217). -/
def Core.pairDone (c : Core) (upd : Nat) : Core :=
  match SMap.find c.upds upd with
  | none => c
  | some u =>
    { c with upds := if u.left ≤ 1 then SMap.del c.upds upd else SMap.set c.upds upd { u with left := u.left - 1 } }

/-- A copy command of a core changed. -/
def Core.onCopy (c : Core) (id : Nat) (f : CopyCmd → CopyCmd) : Core :=
  { c with copyq := c.copyq.map fun k => if k.id = id then f k else k }

/-- A command takes an error: the first fault stays for its record (R260, R306). -/
def CopyCmd.fail (k : CopyCmd) (code addr : Nat) (detail : Word) : CopyCmd :=
  { k with err := true, held := false, fault := match k.fault with | some f => some f | none => some ⟨code, addr, detail⟩ }

/-- The command, position and count of the piece an engine operation belongs to. -/
def OpBody.piece : OpBody → Option (Nat × Nat × Nat)
  | .pieceRead cmd pos _ va _ _ => some (cmd, pos, va)
  | .pieceWrite cmd pos va _ _ _ => some (cmd, pos, va)
  | .element cmd i _ va _ _ => some (cmd, i, va)
  | .gld .. | .ldl .. | .gst .. | .gstv .. | .atom .. | .pref .. | .pair .. | .uapply .. | .waycfg .. | .flagOr ..
  | .signal .. | .amsg .. | .arm .. | .resume .. | .rgnctl .. => none

/-- An operation discarded after issue, with the effects of R209: a write leaves its count, a read completes with an
error, a late load fails, an engine command fails. With `told` its record has been sent before.
DEDUCED, log entry 17. -/
def State.discardOp (s : State) (core : Nat) (o : Op) (code addr : Nat) (told : Bool) : State :=
  let rec_ (s : State) : State := if told then s else s.opFault core o code addr
  match o.body with
  | .gld _ _ size _ _ y byt => (rec_ s).gldDone core o size y byt true
  | .ldl _ _ _ sym => if told && sym.isNone then s else s.failLate core o sym.toList code addr
  | .atom _ _ _ _ _ sym sym2 =>
    if sym.isNone then rec_ s else s.failLate core o (sym.toList ++ sym2.toList) code addr
  | .pair upd _ _ _ => rec_ (s.onCore core (·.pairDone upd))
  | .pref .. => s
  | .pieceRead cmd pos _ va _ _ =>
    s.onCore core fun c => c.onCopy cmd fun k =>
      { k.fail code va 0 with pieces := k.pieces.filter (·.pos != pos), told := k.told || told }
  | .pieceWrite cmd pos va _ _ _ =>
    s.onCore core fun c => c.onCopy cmd fun k =>
      { k.fail code va 0 with pieces := k.pieces.filter (·.pos != pos), told := k.told || told }
  | .element cmd i _ va _ _ =>
    s.onCore core fun c => c.onCopy cmd fun k =>
      { k.fail code va 0 with pieces := k.pieces.filter (·.pos != i), told := k.told || told }
  | .gst .. | .gstv .. | .uapply .. | .flagOr .. => rec_ s
  | .waycfg .. | .signal .. | .amsg .. | .arm .. | .resume .. | .rgnctl .. => rec_ s

/-! ## RESUME at the holding core (R305, R377) -/

/-- May an issuer act on the held work of a region? -/
def State.mayResume (s : State) (issuer region : Nat) : Bool := issuer == 1 || s.domainOf region == some issuer

/-- A replayed operation walks afresh: cached translations of its address are dropped (R211). -/
def State.dropCached (s : State) (core asid va : Nat) : State :=
  let keep (l : List Tlb) : List Tlb := l.filter fun t => !t.covers asid va
  let s1 := s.onCore core fun c => { c with tlb := keep c.tlb }
  let k := s1.chip (chipOf core)
  s1.setChip (chipOf core) { k with tlb := keep k.tlb }

/-- RESUME_ACT: the checks at the holding core, then the form's effect (R305). -/
def execResumeAct (pkt : Nat) (s : State) : Host.Outcome State Fault Refusal :=
  .next (match s.packet pkt with
    | some p =>
      match p.dst, p.body with
      | .core n, .resume form token org =>
        let s1 := s.drop pkt
        let c := s1.core n
        let fail (code : Nat) : State := s1.sendRecord org.region (Rec.of code 9 (.core n) org 0 token)
        if form ≤ 1 then
          let fid := field token 31 16
          match c.frame fid with
          | some f =>
            if f.parked.any (fun p => p.wait == .faultDomain && !p.ready) then
              if s.mayResume org.region f.region = false then fail 0x05
              else if form = 0 then s1.unpark n fid
              else s1.abortParked n fid
            else fail 0x09
          | none => fail 0x09
        else
          let e := field token 4 0
          match SMap.find c.replay e with
          | some x =>
            if x.seq ≠ field token 15 8 then fail 0x09
            else if s.mayResume org.region x.op.org.region = false then fail 0x05
            else
              let s2 := s1.onCore n fun c => { c with replay := SMap.del c.replay e }
              let s3 := match x.op.body.piece with
                | some (cmd, _, _) => s2.onCore n fun c => c.onCopy cmd fun k => { k with held := false }
                | none => s2
              if form = 2 then
                (s3.dropCached n (s.asid x.op.org.region) x.va).onCore n fun c => { c with src := x.op :: c.src }
              else s3.discardOp n x.op 0x05 x.va true
          | none => fail 0x09
      | _, _ => s
    | none => s)

end Sys2Proof.Machine
end

