-- ==== Sys2Proof/Machine/Network.lean ====
section
/-! DEFINITION. Events of global memory: translation at the issuing core, the performance of reads, writes, atomics and
prefetches at home slices, and what comes back to the core (R197-R220, R226, R231-R236, R243, R244, R270, R316, R331,
R332, R354-R358, R373, R396, R416). -/

namespace Sys2Proof.Machine

open Sys2Proof

/-! ## What an operation translates -/

/-- The address of an operation. -/
def OpBody.va : OpBody → Nat
  | .gld va .. | .ldl va .. | .gst va .. | .gstv va .. | .pref va _ | .pair _ va .. | .uapply va .. | .flagOr va _ => va
  | .atom _ va .. => va
  | .pieceRead _ _ _ va .. => va
  | .pieceWrite _ _ va .. => va
  | .element _ _ _ va .. => va
  | .waycfg .. | .signal .. | .amsg .. | .arm .. | .resume .. | .rgnctl .. => 0

/-- Is the operation a write, atomic or update for the leaf's W and for WR of Table 8-6? -/
def OpBody.needsW : OpBody → Bool
  | .gst .. | .gstv .. | .atom .. | .pair .. | .flagOr .. | .pieceWrite .. => true
  | .gld .. | .ldl .. | .pref .. | .uapply .. | .waycfg .. | .signal .. | .amsg .. | .arm .. | .resume .. | .rgnctl ..
  | .pieceRead .. | .element .. => false

/-- Does Table 9-3 order the operation with others of its threadlet at one home slice? PREF has no order. -/
def OpBody.ordered : OpBody → Bool
  | .gst .. | .gstv .. | .atom .. | .gld .. | .ldl .. => true
  | .pref .. | .pair .. | .uapply .. | .waycfg .. | .flagOr .. | .signal .. | .amsg .. | .arm .. | .resume .. | .rgnctl ..
  | .pieceRead .. | .pieceWrite .. | .element .. => false

/-- Is the operation a copy engine's piece or gather element? -/
def OpBody.isPiece : OpBody → Bool
  | .pieceRead .. | .pieceWrite .. | .element .. => true
  | .gld .. | .ldl .. | .gst .. | .gstv .. | .atom .. | .pref .. | .pair .. | .uapply .. | .waycfg .. | .flagOr ..
  | .signal .. | .amsg .. | .arm .. | .resume .. | .rgnctl .. => false

/-- Is the operation one pair of an update? -/
def OpBody.isPair : OpBody → Bool
  | .pair .. => true
  | .gld .. | .ldl .. | .gst .. | .gstv .. | .atom .. | .pref .. | .uapply .. | .waycfg .. | .flagOr .. | .signal ..
  | .amsg .. | .arm .. | .resume .. | .rgnctl .. | .pieceRead .. | .pieceWrite .. | .element .. => false

/-- The bytes a store gives a read that it covers wholly. -/
def Op.covers (o : Op) (a n : Nat) : Option (List Byte) :=
  (List.range n).mapM fun i => if a + i < o.pa then none else (o.body.stored.getD (a + i - o.pa) none)

/-! ## Order before injection (R211, R219, R220) -/

/-- The leaf of a page that is being zeroed, or is to be. -/
def Zeroing.tlb (z : Zeroing) (asid va : Nat) : Tlb :=
  ⟨asid, va / z.size * z.size, z.size, z.pa, z.type, bitAt z.leaf 57, bitAt z.leaf 56, bitAt z.leaf 15⟩

/-- The agent an operation will reach and its place there, where its translation is known; it is so while its page is being
zeroed. -/
def State.homeOf (s : State) (core : Nat) (o : Op) : Option (Agent × Nat) :=
  let asid := s.asid o.org.region
  let va := o.body.va
  let at_ (t : Tlb) : Option (Agent × Nat) :=
    match s.routeOf core t va o.body.needsW with
    | .to dst _ _ => some (dst, s.placeAt t va)
    | _ => none
  match s.lookup core asid va with
  | .leaf t => at_ t
  | .zero z => at_ (z.tlb asid va)
  | .wait z => at_ (z.tlb asid va)
  | .fault .. => none
  | .perm => none

/-- Operations of a core that wait for a replay (R211). -/
def Core.heldOps (c : Core) : List Op := c.replay.map (·.2.op) ++ c.fwait.map (·.op)

/-- Place of a copy command in its queue. -/
def Core.copyPlace (c : Core) (cmd : Nat) : Nat := c.copyq.findIdx (·.id == cmd)

/-- Is an operation kept behind a held one: a later operation of its threadlet, a later piece or element of its copy
command, or any piece of a command behind that one in the queue (R211, R270)? -/
def Core.behindHeld (c : Core) (o : Op) : Bool :=
  c.heldOps.any fun x =>
    match x.body.piece, o.body.piece with
    | some (a, i, _), some (b, j, _) => if a = b then decide (i < j) else decide (c.copyPlace a < c.copyPlace b)
    | none, none => x.body.isPipe && o.body.isPipe && x.org.tid == o.org.tid && decide (x.seq < o.seq)
    | _, _ => false

/-- Does an operation miss its core's translation cache, from a block without PRIV = 1 (R211)? -/
def State.misses (s : State) (core : Nat) (o : Op) : Bool :=
  !o.org.priv && !((s.core core).tlb.any (·.covers (s.asid o.org.region) o.body.va))

/-- Does a full fault-wait list keep the operation at the translation stage (R211)? -/
def State.stalled (s : State) (core : Nat) (o : Op) : Bool :=
  decide (32 ≤ (s.core core).replay.length ∧ 32 ≤ (s.core core).fwait.length) && s.misses core o

/-- Must operation `o` wait behind `x`, earlier at the source interface: one of its threadlet for the same home, a store of
the core for the same home, an earlier pair, or an earlier piece of its command (R219, R220, R243, R259)? A read waits
behind an earlier store of its threadlet only where they overlap. Behind one whose translation will fault, it waits until
that one is held or discarded (R211); one that will fault itself waits for none. -/
def State.follows (s : State) (core : Nat) (x o : Op) : Bool :=
  if o.body.isPair then x.body.isPair
  else if o.body.ordered && x.body.ordered then
    let own := x.org.tid == o.org.tid
    match s.homeOf core x, s.homeOf core o with
    | some h, some g =>
      if own && x.body.stores && !o.body.stores then ({ x with pa := h.2 } : Op).overlaps g.2 o.body.size
      else (own || (x.body.stores && o.body.stores)) && h.1 == g.1
    | none, _ => own || (x.body.stores && o.body.stores && !s.stalled core x)
    | some _, none => false
  else
    match x.body.piece, o.body.piece with
    | some (a, _, _), some (b, _, _) =>
      let h := (s.homeOf core x).map (·.1)
      a == b && (h.isNone || h == (s.homeOf core o).map (·.1))
    | _, _ => false

/-- Does a write of a copy command wait for the read of an earlier piece of the command (R259)? -/
def Core.awaitsRead (c : Core) (o : Op) : Bool :=
  match o.body with
  | .pieceWrite cmd pos .. => c.injected.any fun x => match x.body with
    | .pieceRead cmd' pos' .. => cmd' == cmd && decide (pos' < pos)
    | _ => false
  | _ => false

/-- Must operation `o`, at place `k` of a core's source interface, wait: behind a held one, behind an earlier one there, or,
while operations wait on the fault-wait list, behind an earlier one that misses the translation cache too (R211, R219)? One
that waits behind a held operation of its own threadlet keeps none of another threadlet. -/
def State.mustFollow (s : State) (core k : Nat) (o : Op) : Bool :=
  let c := s.core core
  c.behindHeld o || c.awaitsRead o ||
  (c.src.take k).any fun x =>
    (s.follows core x o && !(x.org.tid != o.org.tid && c.behindHeld x)) || (!c.fwait.isEmpty && s.misses core o && s.misses core x && !c.behindHeld x)

/-- The youngest unacknowledged store of an operation's threadlet, issued before it, that overlaps a read (R220). -/
def Core.youngest (c : Core) (tid seq a n : Nat) : Option Op :=
  (c.outst.filter fun x => x.org.tid == tid && decide (x.seq < seq) && x.body.stores && x.overlaps a n).getLast?

/-- The bytes that an older store gives a read that it covers, unless a younger acknowledged one overlaps them (R220). -/
def Op.forwards (o : Op) (a n : Nat) : Option (List Byte) :=
  if o.shade.any fun p => decide (p.1 < a + n ∧ a < p.1 + p.2) then none else o.covers a n

/-! ## Translation (R205-R211) -/

/-- The translation of an access: where a cached translation differs from the tables as they stand, either (R210). -/
def State.translate (s : State) (core asid va : Nat) : Walk × State :=
  match s.cached core asid va with
  | none => (s.walk asid va, s)
  | some t =>
    if s.walk asid va = .leaf t then (.leaf t, s)
    else
      let (i, s1) := s.choose 2
      (if i = 0 then .leaf t else s.walk asid va, s1)

/-- Table 8-6 with SRC and token: an operation takes a replay entry and its record is sent (R211, R304).
PRESUMED, log entry 28. -/
def State.holdAt (s : State) (core e : Nat) (o : Op) (va kind level time : Nat) : State :=
  let c := s.core core
  let seq := match SMap.find c.rseq e with | some q => (q + 1) % 256 | none => 0
  let s1 := s.setCore core { c with
    replay := SMap.set c.replay e ⟨o, seq, va, kind, level, time⟩
    rseq := SMap.set c.rseq e seq }
  let detail := place e 11 ||| place level 9 ||| place (bitOf o.body.needsW) 8 ||| place kind 1
    ||| place (bitOf o.deferred) 0
  s1.sendRecord o.org.region { Rec.of 0x04 (if o.body.isPiece then 1 else o.src) (.core core) o.org va detail with
    token := place 2 62 ||| place core 32 ||| place seq 8 ||| place e 0, time := some time }

/-- Is the operation one that a core may hold: for PREF a fault drops it (R373)? -/
def OpBody.isPref : OpBody → Bool
  | .pref .. => true
  | .gld .. | .ldl .. | .gst .. | .gstv .. | .atom .. | .pair .. | .uapply .. | .waycfg .. | .flagOr .. | .signal ..
  | .amsg .. | .arm .. | .resume .. | .rgnctl .. | .pieceRead .. | .pieceWrite .. | .element .. => false

/-- A translation fault: the operation is held in a free replay entry, or waits on the fault-wait list; with both full
it stays at the translation stage (R211). A copy command is held with its piece. -/
def State.holdOp (s : State) (core k : Nat) (o : Op) (va kind level : Nat) : State :=
  let out : State := s.onCore core fun c => { c with src := dropAt c.src k }
  let mark (s : State) : State := match o.body.piece with
    | some (cmd, _, _) => s.onCore core fun c => c.onCopy cmd fun x => { x with held := true }
    | none => s
  if o.body.isPref then out
  else
    let c := s.core core
    match SMap.firstFree c.replay 0 32 with
    | some e =>
      if c.fwait.isEmpty then mark (out.holdAt core e o va kind level s.time)
      else if c.fwait.length < 32 then mark (out.onCore core fun c => { c with fwait := c.fwait ++ [⟨o, 0, va, kind, level, s.time⟩] })
      else s
    | none =>
      if c.fwait.length < 32 then mark (out.onCore core fun c => { c with fwait := c.fwait ++ [⟨o, 0, va, kind, level, s.time⟩] })
      else s

/-! ## Injection -/

/-- A pair enters the combiner's buffer of its home chiplet; a full buffer, or a pending FENCE.U or release, injects it
(R244). -/
def State.combine (s : State) (core : Nat) (p : UPair) : State :=
  let m := s.homeChiplet p.pa
  let buf := SMap.get (s.core core).comb m [] ++ [p]
  let s1 := s.onCore core fun c => { c with comb := SMap.set c.comb m buf, combAt := SMap.set c.combAt m s.cycle }
  if 8 ≤ buf.length then
    let s2 := (s1.onCore core fun c => { c with comb := SMap.del c.comb m }).send
      ⟨.upd, .core core, .eddy m, ((buf.head?).map (·.region)).getD 0, .updates buf⟩
    ((buf.map (·.region)).foldl insertNat []).foldl State.progress s2
  else if (s.core core).barriers.any Barrier.flushes then s1.flushCombiner core
  else s1

/-- The gather unit that serves a core's elements of a memory chiplet (R270). -/
def gatherUnit (core chiplet : Nat) : Nat := 4 * chiplet + core % 4

/-- A translated operation injected; reads of a threadlet are first forwarded or held by R220. -/
def State.injectOp (s : State) (core k : Nat) (o : Op) (t : Tlb) (dst : Agent) (pa : Nat) (sp : Space) : State :=
  let far_ : Bool := match dst with | .host => true | .peer _ => true | _ => false
  let o' : Op := { o with pa := s.placeAt t o.body.va, far := far_ }
  let gone : State := s.onCore core fun c => { c with src := dropAt c.src k }
  let out (b : PBody) : State :=
    (gone.onCore core fun c => { c with outst := c.outst ++ [o'] }).inject core o.org.region .req dst b
  let read (size : Nat) (lu : Bool) (evp : Evp) : State :=
    match (s.core core).youngest o.org.tid o.seq o'.pa size with
    | none => out (.read o.id pa size lu evp sp)
    | some w =>
      match w.forwards o'.pa size with
      | some bs =>
        (gone.onCore core fun c => { c with outst := c.outst ++ [o'] }).send
          ⟨.rsp, .core core, .core core, o.org.region, .readRsp o.id bs [] 0⟩
      | none => s
  match o.body with
  | .gld _ _ size lu evp _ _ => read size lu evp
  | .ldl _ size _ _ => read size false .normal
  | .gst _ size data _ => out (.write o.id pa ((bytesOf size data.toNat).map some) [] .normal sp)
  | .gstv .. => out (.write o.id pa o.body.stored [] .normal sp)
  | .atom kind _ size v c _ _ =>
    if dst = .host then gone.discardOp core o 0x05 o.body.va false else out (.atomic o.id kind pa size v c sp)
  | .flagOr _ bits =>
    if dst = .host then gone.discardOp core o 0x05 o.body.va false
    else out (.atomic o.id .orr pa 8 (bits.setWidth 128) 0 sp)
  | .pref _ evp => gone.inject core o.org.region .req dst (.pref pa evp sp)
  | .pair upd va value k =>
    match s.streamOf o.org.region k with
    | some (bid, b) =>
      if t.type = 0 ∧ b.base ≤ pa ∧ pa < b.base + b.length then gone.combine core ⟨upd, o.org.region, bid, pa, value⟩
      else gone.discardOp core o 0x10 va false
    | none => gone.discardOp core o 0x10 va false
  | .pieceRead _ _ len _ lu evp => out (.read o.id pa len lu evp sp)
  | .pieceWrite _ _ _ data bad evp => out (.write o.id pa (data.map some) bad evp sp)
  | .element cmd i size _ lu evp =>
    match dst with
    | .slice sl =>
      (gone.onCore core fun c => { c with outst := c.outst ++ [o'] }).inject core o.org.region .req
        (.gather (gatherUnit core (sl / 16))) (.gather cmd i pa size lu evp core sp)
    | _ => out (.read o.id pa size lu evp sp)
  | .uapply .. | .waycfg .. | .signal .. | .amsg .. | .arm .. | .resume .. | .rgnctl .. => s

/-- Does a symbol wait for the operation's value? Its failure sends the record (R86). -/
def OpBody.awaited : OpBody → Bool
  | .ldl _ _ _ sym => sym.isSome
  | .atom _ _ _ _ _ sym _ => sym.isSome
  | .gld .. | .gst .. | .gstv .. | .pref .. | .pair .. | .uapply .. | .waycfg .. | .flagOr .. | .signal .. | .amsg ..
  | .arm .. | .resume .. | .rgnctl .. | .pieceRead .. | .pieceWrite .. | .element .. => false

/-- TRANSLATION_WALK_COMPLETE: an operation at the source interface is translated, and goes on, faults, or waits for its
page to be zeroed (R205, R209-R211). UAPPLY walks at UAPPLY_LINE_APPLY. -/
def execTranslationWalkComplete (core idx : Nat) (s : State) : Host.Outcome State Fault Refusal :=
  .next (match (s.core core).src[idx]? with
    | none => s
    | some o =>
      let walks : Bool := match o.body with | .uapply .. => false | _ => true
      if !walks || s.mustFollow core idx o || s.stalled core o then s
      else
        let va := o.body.va
        let asid := s.asid o.org.region
        let (w, s0) := s.translate core asid va
        let s1 := if (s.cached core asid va).isNone then s0.touchWalk asid va else s0
        let gone : State := s1.onCore core fun c => { c with src := dropAt c.src idx }
        match w with
        | .zero z => s1.awaitPage (some z)
        | .wait z => s1.awaitPage (some z)
        | .perm => gone.discardOp core o 0x05 va false
        | .fault kind level => s1.holdOp core idx o va kind level
        | .leaf t =>
          let s2 := s1.cacheTlb core t
          let gone2 : State := s2.onCore core fun c => { c with src := dropAt c.src idx }
          if !t.permits o.body.needsW o.org.priv then gone2.discardOp core o 0x05 va false
          else if o.body.isPair && t.type != 0 then gone2.discardOp core o 0x10 va false
          else
            match s2.routeOf core t va o.body.needsW with
            | .to dst pa sp => s2.injectOp core idx o t dst pa sp
            | .perm => gone2.discardOp core o (if o.body.isPair then 0x10 else 0x05) va false
            | .noRoute =>
              if o.body.isPref then gone2
              else if o.body.awaited then gone2.discardOp core o 0x09 va false
              else (gone2.routeFault core o.org o.deferred va).discardOp core o 0x09 va true)

/-- FAULT_WAIT_PROMOTE: the oldest operation of the fault-wait list takes a freed replay entry (R211). -/
def execFaultWaitPromote (core : Nat) (s : State) : Host.Outcome State Fault Refusal :=
  let c := s.core core
  .next (match c.fwait, SMap.firstFree c.replay 0 32 with
    | x :: rest, some e => (s.setCore core { c with fwait := rest }).holdAt core e x.op x.va x.kind x.level x.time
    | _, _ => s)

/-- PAGE_ZEROING_COMPLETE: the page reads as zero, in every replica, and ZS = 0 is written into its entry as it stands
(R205). The controllers take it in their order (R293). -/
def execPageZeroingComplete (entry : Nat) (s : State) : Host.Outcome State Fault Refusal :=
  .next (match s.zeroing.find? (·.entry == entry) with
    | none => s
    | some z =>
      let ctls := s.zeroStacks z
      if !s.hkMay 3 ctls then s
      else
        let s1 := if z.type = 1 then
            (List.range 4).foldl (fun s b => s.zeroRange (replicaIn z.pa b) (replicaIn z.pa b + z.size)) s
          else s.zeroRange z.pa (z.pa + z.size)
        let s2 := (s1.store entry (bytesOf 8 (s1.peek64 entry &&& ~~~ (place 3 58)).toNat)).hkCharge ctls
        { s2 with zeroing := s2.zeroing.filter (·.entry != entry) })

/-! ## Performance at a home slice (R199-R203, R214, R231, R234, R252) -/

/-- A reply from the agent that performed a request. -/
def State.reply (s : State) (p : Packet) (b : PBody) : State := s.send ⟨.rsp, p.dst, p.src, p.region, b⟩

/-- May the host or a peer reach a local address: the host's decoder exposes HBM4 below the address-space table, and a
peer reaches memory and windows (R196, R316)? -/
def State.remoteOk (s : State) (src : Agent) (pa n : Nat) : Bool :=
  match src with
  | .host => inPlainHbm pa n
  | .peer _ => s.inDram pa n || decide (winBase ≤ pa ∧ pa + n ≤ winEnd)
  | _ => true

/-- A read of a line performed: pending updates applied, the directory touched, an LU line dropped (R199, R200, R252). -/
def State.readLine (s : State) (pa size : Nat) (lu : Bool) (evp : Evp) (sp : Space) (src : Agent) :
    List Byte × List Nat × State :=
  if sp = .scratch then (Cells.read s.mem pa size, s.badAt pa size, s)
  else
    let home := s.homeSlice pa
    let last := lu && sp == .wb && (s.bindingAt pa).isNone && s.holdsLine home (lineOf pa)
    let (bs, bad, s1) := s.readMem pa size
    let s2 := if last then s1.dropLine home (lineOf pa) else s1.touchLine home (lineOf pa) evp false
    (bs, bad, if src = .host then { s2 with hostLines := insertNat s2.hostLines (lineOf pa) } else s2)

/-- HOME_SLICE_READ: a read, or a gather unit's read, performed at a slice or in host memory (R214, R234, R270). -/
def execHomeSliceRead (pkt : Nat) (s : State) : Host.Outcome State Fault Refusal :=
  .next (match s.packet pkt with
    | none => s
    | some p =>
      let s1 := s.drop pkt
      match p.dst, p.body with
      | .host, .read op pa size _ _ _ => s1.reply p (.readRsp op (Cells.read s.hostMem pa size) (s.hostBad pa size) 0)
      | .slice _, .read op pa size lu evp sp =>
        let sp' : Space := if winBase ≤ pa ∧ pa < winEnd then .scratch else sp
        if s.remoteOk p.src pa size = false then s1.reply p (.readRsp op [] [] 0x05)
        else if sp' = .scratch ∧ s.windowOk pa ≠ some true then
          (if (s.windowOk pa).isNone then s else s1.reply p (.readRsp op [] [] 0x05))
        else
          let (bs, bad, s2) := s1.readLine pa size lu evp sp' p.src
          s2.reply p (.readRsp op bs bad 0)
      | .slice _, .gather cmd i pa size lu evp core sp =>
        let g : Nat := match p.src with | .gather g => g | _ => 0
        let left := (SMap.get s1.gathers g []).filter fun q => !(q.cmd == cmd && q.i == i && q.core == core)
        let s1' : State := { s1 with gathers := SMap.set s1.gathers g left }
        let back (s : State) (b : PBody) : State := s.send ⟨.rsp, .gather g, .core core, p.region, b⟩
        if sp = .scratch ∧ s.windowOk pa ≠ some true then
          (if (s.windowOk pa).isNone then s else back s1' (.element cmd i [] [] 0x05))
        else
          let (bs, bad, s2) := s1'.readLine pa size lu evp sp p.src
          back s2 (.element cmd i bs bad 0)
      | _, _ => s)

/-- Must a write wait for the host to acknowledge a back-invalidation of its line (R234)? -/
def State.awaitsHost (s : State) (src : Agent) (pa : Nat) : Bool := src != .host && s.hostLines.contains (lineOf pa)

/-- Bytes written at a slice: pending updates of the line applied first, the directory touched (R199, R252). -/
def State.writeLine (s : State) (pa : Nat) (bs : List (Option Byte)) (bad : List Nat) (evp : Evp) (sp : Space) : State :=
  if sp = .scratch then s.writeMem pa bs bad
  else ((s.applyLines pa bs.length).writeMem pa bs bad).touchLine (s.homeSlice pa) (lineOf pa) evp true

/-- The values of a logical write sent on to the other three replicas (R231). DEDUCED, log entry 23. -/
def State.propagate (s : State) (p : Packet) (op pa : Nat) (bs : List (Option Byte)) (bad : List Nat) (tag : BitVec 32)
    (old : Option (BitVec 128)) : State :=
  ((List.range 4).filter fun b => replicaIn pa b != pa).foldl (fun s b =>
    let r := replicaIn pa b
    s.send ⟨.req, p.dst, .slice (s.homeSlice r), p.region, .replica p.src op r bs bad tag old⟩) s

/-- The acknowledgement of a write or the result of an atomic. -/
def ackBody (op : Nat) (bad : Bool) (tag : BitVec 32) (old : Option (BitVec 128)) : PBody :=
  match old with
  | some v => .atomRsp op v bad tag
  | none => .ack op (some tag) 0

/-- H of an address word of a queue table or entry: does it name host memory? -/
def isHost (w : Word) : Bool := bitAt w 63

/-- The address of such a word. -/
def placeOf (w : Word) : Nat := field w 55 0

/-- A host's store of `n` bytes, in host memory or on the device, notifies the front ends of the enabled queues whose tail
line it touches (R274). -/
def State.noticeTail (s : State) (host : Bool) (a n : Nat) : State :=
  let hit (w : Word) : Bool := isHost w == host && (linesOf a n).contains (lineOf (placeOf w))
  { s with queues := s.queues.map fun q =>
      if q.2.state = 1 ∧ hit (wordAt q.2.entry 1) = true then (q.1, { q.2 with noticed := true }) else q }

/-- HOME_SLICE_WRITE: a write performed, tagged and acknowledged; a logical write to a replicated page goes on to the
other replicas, and the last of them to be written acknowledges it (R214, R217, R218, R231, R234). -/
def execHomeSliceWrite (pkt : Nat) (s : State) : Host.Outcome State Fault Refusal :=
  .next (match s.packet pkt with
    | none => s
    | some p =>
      let s1 := s.drop pkt
      match p.dst, p.body with
      | .host, .write op pa data bad _ _ => (s1.writeHost pa data bad).reply p (.ack op none 0)
      | .slice i, .write op pa data bad evp sp =>
        let sp' : Space := if winBase ≤ pa ∧ pa < winEnd then .scratch else sp
        if s.awaitsHost p.src pa then s
        else if s.remoteOk p.src pa data.length = false then s1.reply p (.ack op none 0x05)
        else if sp' = .scratch ∧ s.windowOk pa ≠ some true then
          (if (s.windowOk pa).isNone then s else s1.reply p (.ack op none 0x05))
        else
          let (tag, s2') := (s1.writeLine pa data bad evp sp').nextTag i
          let s2 := if p.src = .host then s2'.noticeTail false pa data.length else s2'
          if sp' = .replicated then s2.propagate p op pa data bad tag none else s2.reply p (.ack op (some tag) 0)
      | .slice i, .replica origin op pa data bad tag old =>
        if s.awaitsHost p.src pa then s
        else
          let (_, s2) := (s1.writeLine pa data bad .normal .replicated).nextTag i
          -- The last replica to be written acknowledges (R231).
          let more := s2.net.any fun q => match q.body with
            | .replica org' op' .. => org' == origin && op' == op
            | _ => false
          if more then s2 else s2.send ⟨.rsp, p.dst, origin, p.region, ackBody op false tag old⟩
      | _, _ => s)

/-- The value of Table 15-4 that an atomic writes, none where it writes nothing; OR for a flag word (R77). -/
def atomValue (k : AtomKind) (size : Nat) (old v c : Nat) : Option Nat :=
  let m := 2 ^ (8 * size)
  let signed (x : Nat) : Int := if x % m < m / 2 then (x % m : Nat) else (x % m : Nat) - (m : Int)
  match k with
  | .xchg => some (v % m)
  | .cas | .cas2 => if old = c % m then some (v % m) else none
  | .faa => some ((old + v) % m)
  | .amax => some (if signed old < signed v then v % m else old)
  | .amin => some (if signed v < signed old then v % m else old)
  | .amaxU => some (max old (v % m))
  | .aminU => some (min old (v % m))
  | .orr => some (old ||| (v % m))

/-- HOME_SLICE_ATOMIC: read and write as one step, tagged whether or not it writes; a poisoned operand leaves the word
unchanged and fails (R215, R218, R310, R331). -/
def execHomeSliceAtomic (pkt : Nat) (s : State) : Host.Outcome State Fault Refusal :=
  .next (match s.packet pkt with
    | none => s
    | some p =>
      let s1 := s.drop pkt
      match p.dst, p.body with
      | .slice i, .atomic op k pa size v c sp =>
        let sp' : Space := if winBase ≤ pa ∧ pa < winEnd then .scratch else sp
        if s.awaitsHost p.src pa then s
        else if s.remoteOk p.src pa size = false then s1.reply p (.ack op none 0x05)
        else if sp' = .scratch ∧ s.windowOk pa ≠ some true then
          (if (s.windowOk pa).isNone then s else s1.reply p (.ack op none 0x05))
        else
          let (bs, bad, s2) := s1.readLine pa size false .normal sp' (.slice i)
          let (tag, s3) := s2.nextTag i
          let old : BitVec 128 := BitVec.ofNat 128 (natOf bs)
          if !bad.isEmpty then s3.reply p (.atomRsp op old true tag)
          else
            match atomValue k size (natOf bs) v.toNat c.toNat with
            | none => s3.reply p (.atomRsp op old false tag)
            | some w =>
              let data := (bytesOf size w).map some
              let s4 := s3.writeLine pa data [] .normal sp'
              if sp' = .replicated then s4.propagate p op pa data [] tag (some old)
              else s4.reply p (.atomRsp op old false tag)
      | _, _ => s)

/-- HOME_SLICE_PREF: the line is read and allocated with its hint; nothing returns (R199, R252, R373). -/
def execHomeSlicePref (pkt : Nat) (s : State) : Host.Outcome State Fault Refusal :=
  .next (match s.packet pkt with
    | none => s
    | some p =>
      match p.dst, p.body with
      | .slice i, .pref pa evp sp =>
        if sp = .scratch then s.drop pkt else ((s.drop pkt).applyLines pa 1).touchLine i (lineOf pa) evp false
      | .host, .pref .. => s.drop pkt
      | _, _ => s)

/-- BACK_INVALIDATION_ACK: the host no longer holds the line (R234). -/
def execBackInvalidationAck (line : Nat) (s : State) : Host.Outcome State Fault Refusal :=
  .next { s with hostLines := eraseNat s.hostLines line }

/-! ## Ways (R202, R240, R416) -/

/-- The window bytes of ways `lo` to `hi` of a slice. -/
def wayBytes (slice lo hi : Nat) : Nat × Nat :=
  (winBase + slice * 0x400000 + lo * 0x40000, winBase + slice * 0x400000 + hi * 0x40000)

/-- The record of a refused WAYCFG, which names the instruction that issued it (R299, R416). -/
def State.waycfgRecord (s : State) (p : Packet) (slice op : Nat) : Rec :=
  match p.src with
  | .core n =>
    match (s.core n).outstanding op with
    | some o => Rec.of 0x07 5 (.slice slice) o.org 0 0
    | none => Rec.plain 0x07 5 p.region (.slice slice)
  | _ => Rec.plain 0x07 5 p.region (.slice slice)

/-- WAYCFG_REQUEST: checked against w + e ≤ 12; a raise begins the conversion, a lowering discards at once (R416). -/
def execWaycfgRequest (pkt : Nat) (s : State) : Host.Outcome State Fault Refusal :=
  .next (match s.packet pkt with
    | none => s
    | some p =>
      match p.dst, p.body with
      | .slice i, .waycfg op w =>
        let sl := s.slice i
        let s1 := s.drop pkt
        if sl.conv.isSome then s
        else if 12 < w + s.allot then
          (s1.reply p (.ack op none 0)).sendRecord 1 (s.waycfgRecord p i op)
        else if sl.w < w then
          s1.setSlice i { sl with
            conv := some ⟨w, p.src, op, p.region⟩
            lines := sl.lines.filter fun c => !(decide (4 + sl.w ≤ c.way ∧ c.way < 4 + w)) }
        else
          let (lo, hi) := wayBytes i w sl.w
          (s1.setSlice i { sl with w := w }).zeroRange lo hi |>.reply p (.ack op none 0)
      | _, _ => s)

/-- WAY_CONVERSION_COMPLETE: the added ways are zero and belong to the window; the acknowledgement is sent (R202). -/
def execWayConversionComplete (slice : Nat) (s : State) : Host.Outcome State Fault Refusal :=
  .next (match (s.slice slice).conv with
    | none => s
    | some c =>
      let sl := s.slice slice
      let (lo, hi) := wayBytes slice sl.w c.w
      ((s.setSlice slice { sl with w := c.w, conv := none }).zeroRange lo hi).send
        ⟨.rsp, .slice slice, c.src, c.region, .ack c.op none 0⟩)

/-! ## Back at the core -/

/-- The record of a fault that a home slice found, or of a port that failed, whose SRC is always 5 (R319). DEDUCED, log
entry 22. -/
def State.sliceFault (s : State) (o : Op) (slice : Agent) (code : Nat) : State :=
  let port : Bool := match slice with | .port _ => true | _ => false
  s.sendRecord o.org.region
    { Rec.of code (if port then 5 else if o.body.isPiece then 1 else if o.deferred then 2 else 5) slice o.org o.body.va
        (place (bitOf o.deferred) 0) with fid := o.org.fid }

/-- A sequence tag lands before WACK decrements (R218, R194). -/
def State.landTag (s : State) (core : Nat) (o : Op) (tag : BitVec 32) : State :=
  match o.body with
  | .gst _ _ _ (some a) =>
    if s.localOk core o.org.fid a 4 true then s.onCore core fun c => c.put a (bytesOf 4 tag.toNat) []
    else s.opFault core o 0x05 a
  | _ => s

/-- WRITE_ACK_ARRIVAL: the acknowledgement of a write, or the result of an atomic without destination (R217, R218). Host
memory has no home slice: its write is acknowledged without a tag, so that GST.T lands nothing and TAGLAST keeps its value
(DESIGN CHOICE, log entry 88). -/
def execWriteAckArrival (pkt : Nat) (s : State) : Host.Outcome State Fault Refusal :=
  .next (match s.packet pkt with
    | none => s
    | some p =>
      match p.dst, p.body with
      | .core n, .ack id tag fail =>
        match (s.core n).outstanding id with
        | none => s
        | some o =>
          if o.body.isPiece then s
          else if fail ≠ 0 then
            let s1 := (s.drop pkt).endOp n o none
            match o.body with
            | .atom _ va _ _ _ sym sym2 =>
              if sym.isSome then s1.failLate n o (sym.toList ++ sym2.toList) fail va else s1.sliceFault o p.src fail
            | _ => s1.sliceFault o p.src fail
          else
            match tag with
            | some t => ((s.drop pkt).landTag n o t).endOp n o (if o.body.isWrite then some t else none)
            | none => (s.drop pkt).endOp n o none
      | .core n, .atomRsp id _ bad tag =>
        match (s.core n).outstanding id with
        | none => s
        | some o =>
          match o.body with
          | .atom _ va _ _ _ none _ =>
            let s1 := (s.drop pkt).endOp n o (some tag)
            if bad then s1.opFault n o 0x06 va else s1
          | .flagOr va _ =>
            let s1 := (s.drop pkt).endOp n o none
            if bad then s1.opFault n o 0x06 va else s1
          | _ => s
      | _, _ => s)

/-- UPDATE_ACCEPTANCE_ARRIVAL (R217, R245). -/
def execUpdateAcceptanceArrival (pkt : Nat) (s : State) : Host.Outcome State Fault Refusal :=
  .next (match s.packet pkt with
    | none => s
    | some p =>
      match p.dst, p.body with
      | .core n, .accepted upds => (s.drop pkt).onCore n fun c => upds.foldl Core.pairDone c
      | _, _ => s)

/-- GLD_LANDING: the data lands, poisoned data poisoning the destination, and the completion is sent (R310, R354). -/
def execGldLanding (pkt : Nat) (s : State) : Host.Outcome State Fault Refusal :=
  .next (match s.packet pkt with
    | none => s
    | some p =>
      match p.dst, p.body with
      | .core n, .readRsp id data bad fail =>
        match (s.core n).outstanding id with
        | none => s
        | some o =>
          match o.body with
          | .gld va loc size _ _ y byt =>
            let s1 := (s.drop pkt).endOp n o none
            if fail ≠ 0 then (s1.sliceFault o p.src fail).gldDone n o size y byt true
            else if s1.localOk n o.org.fid loc size true = false then
              (s1.opFault n o 0x05 loc).gldDone n o size y byt true
            else
              let s2 := s1.onCore n fun c => c.put loc data bad
              if !bad.isEmpty then (s2.opFault n o 0x06 va).gldDone n o size y byt true else s2.gldDone n o size y byt false
          | _ => s
      | _, _ => s)

/-! ## Barriers and the combiner -/

/-- Lines of code dropped from every instruction cache (R358). -/
def State.dropCode (s : State) (f : ICLine → Bool) : State :=
  { s with chips := s.chips.map fun e => (e.1, { e.2 with icache := e.2.icache.filter fun l => !f l }) }

/-- Translations dropped from every core and every chiplet (R395). -/
def State.dropTlb (s : State) (f : Tlb → Bool) : State :=
  { s with
    cores := s.cores.map fun e => (e.1, { e.2 with tlb := e.2.tlb.filter fun t => !f t })
    chips := s.chips.map fun e => (e.1, { e.2 with tlb := e.2.tlb.filter fun t => !f t }) }

/-- What a barrier does when its condition holds (R221-R223, R358, R396). -/
def State.passBarrier (s : State) (core : Nat) (b : Barrier) : State :=
  match b.kind with
  | .fence .. | .acq _ => s
  | .release o => s.launch core o
  | .iflush asid va n =>
    if n = 0 then s
    else s.dropCode fun l => l.asid == asid && decide (va / 128 ≤ l.line ∧ l.line ≤ (va + n - 1) / 128)
  | .iflushAll => s.dropCode fun _ => true
  | .tlbinvPg asid va => s.dropTlb (·.covers asid va)
  | .tlbinvAs asid => s.dropTlb (·.asid == asid)
  | .tlbinvAll => s.dropTlb fun _ => true

/-- BARRIER_CONDITION_MET: the barrier is no longer pending, and what waited behind it goes on (R221). -/
def execBarrierConditionMet (core idx : Nat) (s : State) : Host.Outcome State Fault Refusal :=
  .next (match (s.core core).barriers[idx]? with
    | none => s
    | some b =>
      if (s.core core).barrierMet b && s.walksDone b then
        ((s.onCore core fun c => { c with barriers := dropAt c.barriers idx }).passBarrier core b).drainStage core
      else s)

/-- Has a buffer of the combiner taken no new pair for 16 core cycles (R244)? -/
def State.combinerIdle (s : State) (core chiplet : Nat) : Bool :=
  decide (SMap.get (s.core core).combAt chiplet 0 + 16 ≤ s.cycle)

/-- COMBINER_TIMEOUT: a buffer that took no new pair for 16 core cycles is injected (R244). -/
def execCombinerTimeout (core chiplet : Nat) (s : State) : Host.Outcome State Fault Refusal :=
  .next (match SMap.find (s.core core).comb chiplet with
    | none => s
    | some buf =>
      if !s.combinerIdle core chiplet then s
      else
      let s1 := (s.onCore core fun c => { c with comb := SMap.del c.comb chiplet }).send
        ⟨.upd, .core core, .eddy chiplet, ((buf.head?).map (·.region)).getD 0, .updates buf⟩
      ((buf.map (·.region)).foldl insertNat []).foldl State.progress s1)

end Sys2Proof.Machine
end

