-- ==== Sys2Proof/Machine/Updates.lean ====
section
/-! DEFINITION. Events of the Eddy units: acceptance, the sorting network and its bins, evictions down the spill ladder,
merge-apply, and UAPPLY line by line (R240, R245-R250, R252-R254, R397). -/

namespace Sys2Proof.Machine

open Sys2Proof

/-! ## Acceptance (R245) -/

/-- UPDATE_PACKET_ACCEPT: the pairs are accepted in packet order, and the issuing core is told. -/
def execUpdatePacketAccept (pkt : Nat) (s : State) : Host.Outcome State Fault Refusal :=
  .next (match s.packet pkt with
    | none => s
    | some p =>
      match p.dst, p.body with
      | .eddy m, .updates ps =>
        let e := s.eddy m
        ((s.drop pkt).setEddy m { e with waiting := e.waiting ++ [ps] }).send
          ⟨.rsp, .eddy m, p.src, p.region, .accepted (ps.map (·.upd))⟩
      | _, _ => s)

/-! ## Bins (R246, R247) -/

/-- Cells a bin of an operator takes. -/
def binCells (oper : Nat) : Nat := if oper = 3 then 7 else if oper = 4 then 13 else 1

/-- Bytes of a run record of an operator (R246). -/
def recordBytes (oper : Nat) : Nat := if oper = 3 then 1664 else if oper = 4 then 3200 else 256

/-- The operator of a binding. -/
def State.operOf (s : State) (bid : Nat) : Nat := ((SMap.find s.bindings bid).map (·.oper)).getD 0

/-- Cells in use in a unit. -/
def State.usedCells (s : State) (m : Nat) : Nat := ((s.eddy m).bins.map fun b => binCells (s.operOf b.bid)).foldl (· + ·) 0

/-- Can a binding take one more bin in a unit? -/
def State.binFree (s : State) (m bid : Nat) : Bool :=
  decide (s.usedCells m + binCells (s.operOf bid) ≤ s.allot * 16384)

/-- Does BINLIM keep a binding from one more bin in a unit? -/
def State.binLimited (s : State) (m bid : Nat) : Bool :=
  let lim := ((SMap.find s.bindings bid).map (·.binLim)).getD 0
  lim != 0 && decide (lim ≤ ((s.eddy m).bins.filter (·.bid == bid)).length)

/-! ## The spill ladder (R248-R250) -/

/-- Bins in order of use, the least recent first. -/
def byUse (bs : List Bin) : List Bin := sortBy (fun a b => decide (a.used ≤ b.used)) bs

/-- The bins an eviction takes: half of the binding's, at least one and at most 64. -/
def Eddy.evicted (e : Eddy) (bid : Nat) : List Bin :=
  let mine := byUse (e.bins.filter (·.bid == bid))
  mine.take (min 64 (max 1 (mine.length / 2)))

/-- The bytes of an accumulator in a record (Table 10-5). -/
def EAcc.bytes (es : Nat) : EAcc → List Byte
  | .word w => bytesOf es w.toNat
  | .xa x =>
    bytesOf 40 (x.val % 2 ^ 320).toNat
      ++ bytesOf 8 (match x.st with | .fin => 0 | .pinf => 1 | .ninf => 2 | .nan => 3)

/-- The image of a record (Table 10-5). -/
def Bin.image (oper : Nat) (b : Bin) : List Byte :=
  let es := operSize oper
  let as := if operExact oper then 48 else es
  let touched := b.accs.foldl (fun t e => t + 2 ^ e.1) 0
  bytesOf 8 (b.bid * 2 ^ 48 + b.line * 128) ++ bytesOf 8 touched ++ bytesOf 8 b.pairs ++ List.replicate 104 (0 : Byte)
    ++ (List.range (128 / es)).flatMap fun i =>
      match SMap.find b.accs i with
      | some a => a.bytes es
      | none => List.replicate as (0 : Byte)

/-- The header line of a run (R248). -/
def runHeader (count bid num : Nat) : List Byte :=
  bytesOf 2 count ++ bytesOf 2 bid ++ bytesOf 4 num ++ List.replicate 120 (0 : Byte)

/-- A direct apply of an evicted bin's line: its run records and the bin, in one step; pairs that the unit has not sorted
stay for a later apply, behind those of the batch in hand (R250, R253, R256). -/
def State.directApply (s : State) (m bid oper line : Nat) : State :=
  let parts := (s.eddy m).parts bid line
  if parts.isEmpty then s
  else
    let s1 := s.applyParts oper line parts
    s1.setEddy m ((s1.eddy m).cleared bid line)

/-- Some bins of a binding leave the bin store as one run, or line by line as a direct apply (R248-R250).
DEDUCED, log entry 26. -/
def State.evictBins (s : State) (m bid : Nat) (bs : List Bin) : State :=
  let e := s.eddy m
  match SMap.find s.bindings bid with
  | none => s
  | some b =>
    let live := e.runs.filter (·.bid == bid)
    let log := SMap.get e.logs bid ⟨0, 0⟩
    let used := if live.isEmpty then 0 else log.used
    let bytes := 128 + bs.length * recordBytes b.oper
    let base := b.logBase + m * b.logMb * 131072
    let rest (e : Eddy) : List Bin := e.bins.filter fun x => !(bs.any fun y => y.bid == x.bid && y.line == x.line)
    if live.length < 64 ∧ used + bytes ≤ b.logMb * 131072 ∧ e.runs.length < 1024 then
      let recs := sortBy (fun x y => decide (x.line ≤ y.line)) bs
      let run : ERun := { bid := bid, num := log.num, addr := base + used, recs := recs }
      let merging := if live.length + 1 = 64 then insertNat e.merging bid else e.merging
      (s.setEddy m { e with
        bins := rest e, runs := e.runs ++ [run], merging := merging
        logs := SMap.set e.logs bid ⟨used + bytes, (log.num + 1) % 2 ^ 32⟩ }).store (base + used)
          (runHeader bs.length bid log.num ++ recs.flatMap (Bin.image b.oper))
    else bs.foldl (fun s x => s.directApply m bid b.oper x.line) s

/-- An eviction from a binding. -/
def State.evict (s : State) (m bid : Nat) : State := s.evictBins m bid ((s.eddy m).evicted bid)

/-- Evictions until a binding can take one more bin (R247). -/
def State.makeRoom (s : State) (m bid : Nat) : Nat → State
  | 0 => s
  | n + 1 =>
    if s.binLimited m bid then (s.evict m bid).makeRoom m bid n
    else if s.binFree m bid then s
    else
      match (byUse (s.eddy m).bins).head? with
      | none => s
      | some b => (s.evict m b.bid).makeRoom m bid n

/-- One pair of a batch reduced into the bin of its line, taken where there is none (R246). A bin that reaches 2^31 pairs
is evicted by itself, as a run of one record (DESIGN CHOICE, log entry 72). -/
def State.sortPair (s : State) (m : Nat) (p : UPair) : State :=
  let oper := s.operOf p.bid
  let line := lineOf p.pa
  let mine (b : Bin) : Bool := b.bid == p.bid && b.line == line
  let s1 := if (s.eddy m).bins.any mine then s
    else
      let t := s.makeRoom m p.bid ((s.eddy m).bins.length + 1)
      let e := t.eddy m
      t.setEddy m { e with bins := e.bins ++ [⟨p.bid, line, [], 0, e.stamp, false⟩] }
  let e := s1.eddy m
  let up (b : Bin) : Bin := if mine b then { b.reduce oper p.pa p.value with used := e.stamp + 1 } else b
  let s2 := s1.setEddy m { e with bins := e.bins.map up, stamp := e.stamp + 1 }
  match (s2.eddy m).bins.find? mine with
  | some b => if 2 ^ 31 ≤ b.pairs then s2.evictBins m p.bid [b] else s2
  | none => s2

/-- SORT_BATCH: up to eight accepted packets, in the stable order of (BID, line, element) (R246). -/
def execSortBatch (unit : Nat) (s : State) : Host.Outcome State Fault Refusal :=
  let e := s.eddy unit
  let batch := (e.waiting.take 8).flatten
  let key (p : UPair) : Nat := p.bid * 2 ^ 48 + p.pa / operSize (s.operOf p.bid) * operSize (s.operOf p.bid)
  let sorted := sortBy (fun a b => decide (key a ≤ key b)) batch
  .next (sorted.foldl (fun s p => s.sortPair unit p) (s.setEddy unit { e with waiting := e.waiting.drop 8 }))

/-- The lowest line of a binding with a live run record in a unit. -/
def Eddy.mergeLine (e : Eddy) (bid : Nat) : Option Nat :=
  ((e.runs.filter (·.bid == bid)).flatMap fun r => r.recs.map (·.line)).min?

/-- The controllers of a memory chiplet's stacks (R15). -/
def chipletCtls (chiplet : Nat) : List Nat := (List.range stackCount).filter fun c => chipletOfStack c == chiplet

/-- May a unit's merge-apply go on: the chiplet's housekeeping budget is not exhausted, and no work comes before it (R249,
R293)? -/
def State.mergeMay (s : State) (unit : Nat) : Bool :=
  (chipletCtls unit).all fun c => decide (0 < s.hkLeft c) && !s.hkBefore 5 c

/-- MERGE_APPLY: the next line of a binding whose merge-apply has started, charged to the chiplet's housekeeping budget;
with none left the log part is empty (R249). -/
def execMergeApply (unit bid : Nat) (s : State) : Host.Outcome State Fault Refusal :=
  let e := s.eddy unit
  .next (if e.merging.contains bid then
      match e.mergeLine bid with
      | some line => if s.mergeMay unit then (s.applyLine line).hkCharge (chipletCtls unit) else s
      | none =>
        let log := SMap.get e.logs bid ⟨0, 0⟩
        s.setEddy unit { e with merging := eraseNat e.merging bid, logs := SMap.set e.logs bid ⟨0, log.num⟩ }
    else s)

/-! ## UAPPLY (R397) -/

/-- A UAPPLY moved on past bytes of the page that `t` maps, or ended. -/
def State.uapplyOn (s : State) (core k : Nat) (o : Op) (va left n : Nat) (t : Tlb) : State :=
  s.onCore core fun c =>
    if left ≤ n then { c with src := dropAt c.src k }
    else
      let leaf := if va + n < t.va + t.size then some t else none
      { c with src := setAt c.src k { o with body := .uapply (va + n) (left - n) leaf } }

/-- The active bindings of a region, as they stand (R254). -/
def State.boundIn (s : State) (region : Nat) : List Nat := (((s.region region).map (·.ubind)).getD []).filterMap fun x => x

/-- A UAPPLY at an address of the page that `t` maps: a line of an active binding of its region is applied, in this
module's memory by whichever leaf; other lines, replicated pages and slice-scratch are passed over (R196, R254, R397). -/
def State.uapplyAt (s : State) (core k : Nat) (o : Op) (va left : Nat) (t : Tlb) : State :=
  match s.routeOf core t va false with
  | .to (.slice _) pa .wb =>
    if (s.bindingAt pa).any fun b => (s.boundIn o.org.region).contains b.1 then
      (s.applyLine (lineOf pa)).uapplyOn core k o va left (128 - va % 128) t
    else s.uapplyOn core k o va left (65536 - va % 65536) t
  | _ => s.uapplyOn core k o va left (t.va + t.size - va) t

/-- UAPPLY_LINE_APPLY: the command walks once for each page it comes to, and goes on line by line (R397). -/
def execUapplyLineApply (core idx : Nat) (s : State) : Host.Outcome State Fault Refusal :=
  .next (match (s.core core).src[idx]? with
    | none => s
    | some o =>
      match o.body with
      | .uapply va left (some t) => if s.mustFollow core idx o then s else s.uapplyAt core idx o va left t
      | .uapply va left none =>
        if s.mustFollow core idx o || s.stalled core o then s
        else
          let asid := s.asid o.org.region
          let (w, s0) := s.translate core asid va
          let s1 := if (s.cached core asid va).isNone then s0.touchWalk asid va else s0
          let gone : State := s1.onCore core fun c => { c with src := dropAt c.src idx }
          (match w with
           | .zero z => s1.awaitPage (some z)
           | .wait z => s1.awaitPage (some z)
           | .perm => gone.opFault core o 0x05 va
           | .fault kind level => s1.holdOp core idx o va kind level
           | .leaf t =>
             let s2 := s1.cacheTlb core t
             if t.sup && !o.org.priv then
               (s2.onCore core fun c => { c with src := dropAt c.src idx }).opFault core o 0x05 va
             else s2.uapplyAt core idx o va left t)
      | _ => s)

end Sys2Proof.Machine
end

