-- ==== Sys2Proof/Machine/Copying.lean ====
section
/-! DEFINITION. Events of the copy engines: commands that start, pieces issued and complete, multicast landings and
gathers (R96, R157, R194, R227-R229, R258-R271, R306, R310). -/

namespace Sys2Proof.Machine

open Sys2Proof

/-! ## Reading and writing local memory ahead of a step (R160, R216)

An engine's accesses race with stores that nothing orders against them: the agenda may let it read or write a unit of local
memory before the step that uses the unit, and not again in that step. -/

/-- Does a unit read ahead hold a byte? -/
def Seen.holds (x : Seen) (a : Nat) : Bool := decide (x.addr ≤ a ∧ a < x.addr + x.bytes.length)

/-- What an engine has read ahead for a use of a command. -/
def Core.seenFor (c : Core) (cmd use : Nat) : List Seen := c.seen.filter fun x => x.cmd == cmd && x.use == use

/-- Bytes of local memory as an engine reads them for a command: a unit read ahead as it was then, any other as it is. -/
def Core.engineBytes (c : Core) (cmd use a n : Nat) : List Byte :=
  match c.seenFor cmd use with
  | [] => Cells.read c.lmem a n
  | l => (List.range n).map fun i => match l.find? (·.holds (a + i)) with
    | some x => x.bytes.getD (a + i - x.addr) 0
    | none => Cells.get c.lmem (a + i)

/-- The offsets of those in error. -/
def Core.engineBad (c : Core) (cmd use a n : Nat) : List Nat :=
  match c.seenFor cmd use with
  | [] => badOffsets c.lpoison a n
  | l => (List.range n).filter fun i => match l.find? (·.holds (a + i)) with
    | some x => x.bad.contains (a + i - x.addr)
    | none => touches c.lpoison (a + i) 1

/-- A unit read ahead for a use of a command, unless it has been. -/
def Core.readAhead (c : Core) (cmd use addr unit : Nat) : Core :=
  if (c.seenFor cmd use).any (·.holds addr) then c
  else { c with seen := c.seen ++ [⟨cmd, use, addr, Cells.read c.lmem addr unit, badOffsets c.lpoison addr unit⟩] }

/-- What was read ahead for a command has been used, as far as `p` says. -/
def Core.forgetUse (c : Core) (cmd : Nat) (p : Seen → Bool) : Core :=
  { c with seen := c.seen.filter fun x => !(x.cmd == cmd && p x) }

/-- What was read ahead for a command has been used. -/
def Core.forget (c : Core) (cmd : Nat) : Core := c.forgetUse cmd fun _ => true

/-- The parts of a range that lie in one aligned unit each: address and length. -/
def unitsOf (unit a n : Nat) : List (Nat × Nat) :=
  (List.range ((a + n + unit - 1) / unit - a / unit)).map fun i =>
    let lo := max a ((a / unit + i) * unit)
    (lo, min (a + n) ((a / unit + i + 1) * unit) - lo)

/-- One part of bytes that are written at an address. -/
def Core.putPart (c : Core) (a : Nat) (bs : List Byte) (bad : List Nat) (u : Nat × Nat) : Core :=
  c.put u.1 ((bs.drop (u.1 - a)).take u.2)
    ((bad.filter fun i => decide (u.1 ≤ a + i ∧ a + i < u.1 + u.2)).map fun i => a + i - u.1)

/-- What has been written ahead of a piece or image. -/
def Core.laidFor (c : Core) (core cmd pos : Nat) : List Laid :=
  c.laid.filter fun x => x.core == core && x.cmd == cmd && x.pos == pos

/-- One part of a piece or image written ahead, unless it has been. -/
def Core.layAhead (c : Core) (x : Laid) (unit : Nat) (bs : List Byte) (bad : List Nat) : Core :=
  match (unitsOf unit x.base bs.length).find? (·.1 == x.addr) with
  | none => c
  | some u =>
    if (c.laidFor x.core x.cmd x.pos).any (·.addr == x.addr) then c
    else { c.putPart x.base bs bad u with laid := c.laid ++ [x] }

/-- A piece or image written, but for the parts written ahead; with them all its bytes are written, so that the poison of the
words it covers is what its own bytes bring (R310). -/
def Core.layRest (c : Core) (core cmd pos unit a : Nat) (bs : List Byte) (bad : List Nat) : Core :=
  match c.laidFor core cmd pos with
  | [] => c.put a bs bad
  | l =>
    let c1 := ((unitsOf unit a bs.length).filter fun u => !(l.any (·.addr == u.1))).foldl
      (fun c u => c.putPart a bs bad u) c
    { c1 with
      lpoison := carry (heal c1.lpoison a bs.length) a bad
      laid := c1.laid.filter fun x => !(x.core == core && x.cmd == cmd && x.pos == pos) }

/-! ## What a command moves (R96, R263, R266, R269) -/

/-- Does the command report in byte mode? -/
def CopyCmd.byt (k : CopyCmd) : Bool :=
  match k.kind with
  | .cpy f => f.byt
  | .cpy2 f => f.byt
  | .cpym b => b
  | .gthr f => f.byt
  | .fenceq => false

/-- The ring a command fills. -/
def CopyCmd.ring (k : CopyCmd) : Option Nat :=
  match k.kind with
  | .cpy f => if f.r then some f.q.toNat else none
  | .cpy2 f => if f.r then some f.q.toNat else none
  | .gthr f => if f.r then some f.q.toNat else none
  | .cpym _ => none
  | .fenceq => none

/-- The direction of a CPY or CPY2. -/
def CopyCmd.dir (k : CopyCmd) : CopyDir :=
  match k.kind with
  | .cpy f => f.dir
  | .cpy2 f => f.dir
  | .cpym _ => .ll
  | .gthr _ => .gl
  | .fenceq => .ll

/-- Bytes of a row, rows, destination stride and source stride. -/
def CopyCmd.rows (k : CopyCmd) : Nat × Nat × Nat × Nat :=
  match k.kind with
  | .cpy2 _ => (k.arg 2, k.arg 3, k.arg 4, k.arg 5)
  | _ => (k.arg 2, 1, 0, 0)

/-- The local address of byte `pos` in the reserved slots of a ring (R157). -/
def ringAddr (resv : Nat × Nat × Nat × Nat) (pos : Nat) : Nat :=
  let (_, first, base, depth) := resv
  base + (512 * first + pos) % (512 * depth)

/-- Source and destination addresses of byte `pos` of a CPY or CPY2. -/
def CopyCmd.addrs (k : CopyCmd) (pos : Nat) : Nat × Nat :=
  let (n, _, ds, ss) := k.rows
  let row := pos / n
  let off := pos % n
  let src := (k.arg 1 + row * ss + off) % 2 ^ 64
  match k.resv with
  | some r => (src, ringAddr r pos)
  | none => (src, (k.arg 0 + row * ds + off) % 2 ^ 64)

/-- The length of the piece at a position: within its row, and within 128-byte lines of both sides (R259). R259 bounds a piece
from above only; it is the longest that the bounds allow: DESIGN CHOICE, log entry 92. -/
def CopyCmd.pieceLen (k : CopyCmd) (pos : Nat) : Nat :=
  match k.kind with
  | .gthr _ => 1
  | .cpym _ =>
    min (k.total - pos) (min (128 - (k.arg 0 + pos) % 128) (128 - (k.arg 1 + pos) % 128))
  | _ =>
    let (n, _, _, _) := k.rows
    let (s, d) := k.addrs pos
    min (n - pos % n) (min (128 - s % 128) (128 - d % 128))

/-! ## The checks at start (R157, R260, R263, R266, R269) -/

/-- A range of local memory. -/
def localRange (a n : Nat) : Bool := decide (a + n ≤ localEnd)

/-- A range of implemented virtual addresses. -/
def globalRange (a n : Nat) : Bool := decide (a + n ≤ 2 ^ 52)

/-- The ring a copy fills: its state, or the ring fault (R157). -/
def Core.ringCheck (c : Core) (k : CopyCmd) : Except (Nat × Nat) Unit :=
  match k.ring with
  | none => .ok ()
  | some q =>
    match SMap.find c.rings q with
    | none => .error (0x0C, 0)
    | some r =>
      if k.dir = .lg ∨ k.dir = .gg ∨ k.byteLen % 512 ≠ 0 ∨ 512 * r.depth < k.byteLen then .error (0x0C, 0) else .ok ()

/-- A CPY or CPY2 at start: its length, its ring, its rows' addresses. A length that breaks both limits is the format fault
(DESIGN CHOICE, log entry 79). -/
def Core.checkCopy (c : Core) (k : CopyCmd) : Except (Nat × Nat) Unit := do
  let (n, rows, ds, ss) := k.rows
  let max_ := if k.byt then 2 ^ 24 - 1 else 2 ^ 24
  let two : Bool := match k.kind with | .cpy2 _ => true | _ => false
  if max_ < k.byteLen ∨ (two = true ∧ (n = 0 ∨ 2 ^ 24 < n ∨ rows = 0 ∨ 65535 < rows)) then .error (0x07, 0)
  c.ringCheck k
  let ok (global : Bool) (a : Nat) : Bool :=
    if global then decide (a < 2 ^ 52) && globalRange a n else n == 0 || localRange a n
  let each (a stride : Nat) (global : Bool) : Option Nat :=
    ((List.range rows).map fun i => (a + i * stride) % 2 ^ 64).find? fun x => !ok global x
  let srcGlobal : Bool := k.dir == .gl || k.dir == .gg
  let dstGlobal : Bool := k.dir == .lg || k.dir == .gg
  match each (k.arg 1) ss srcGlobal with
  | some a => .error (0x05, a)
  | none =>
    if k.ring.isSome then .ok ()
    else
      match each (k.arg 0) ds dstGlobal with
      | some a => .error (0x05, a)
      | none => .ok ()

/-- The cores a mask selects. -/
def maskCores (bs : List Byte) : List Nat :=
  let n := natOf bs
  (List.range 2048).filter fun i => n.testBit i

/-- A CPYM at start: its values, its mask and its receivers (R266). -/
def State.checkMulticast (s : State) (core : Nat) (k : CopyCmd) : Except (Nat × Nat) (List Nat) := do
  let c := s.core core
  if 2 ^ 24 - 1 < k.arg 2 ∨ localEnd ≤ k.arg 1 ∨ 15 < k.arg 4 ∨ localRange (k.arg 0) (k.arg 2) = false
      ∨ localRange (k.arg 3) 256 = false then .error (0x07, 0)
  if k.arg 3 % 8 ≠ 0 then .error (0x03, k.arg 3)
  if !(c.engineBad k.id 0 (k.arg 3) 256).isEmpty then .error (0x06, k.arg 3)
  let cores := maskCores (c.engineBytes k.id 0 (k.arg 3) 256)
  if cores.isEmpty then .error (0x07, 0)
  let set := ((s.region k.org.region).map (·.coreset)).getD 0
  if cores.all fun n => set.getLsbD n then .ok cores else .error (0x09, 0)

/-- Bytes of an index of a gather. -/
def CopyCmd.indexBytes (k : CopyCmd) : Nat :=
  match k.kind with
  | .gthr f => (match f.iw with | .i32 => 4 | .i64 => 8)
  | _ => 4

/-- A GTHR at start (R269). -/
def Core.checkGather (c : Core) (k : CopyCmd) : Except (Nat × Nat) Unit := do
  let w := k.indexBytes
  let e := k.arg 3
  if k.arg 1 = 0 ∨ 1024 < k.arg 1 ∨ [1, 2, 4, 8, 16, 32, 64, 128].contains e = false
      ∨ localRange (k.arg 0) (k.arg 1 * w) = false
      ∨ (k.ring.isNone = true ∧ localRange (k.arg 4) (k.arg 1 * e) = false) then .error (0x07, 0)
  if k.arg 0 % w ≠ 0 then .error (0x03, k.arg 0)
  if k.arg 2 % e ≠ 0 then .error (0x03, k.arg 2)
  if k.ring.isNone ∧ k.arg 4 % e ≠ 0 then .error (0x03, k.arg 4)
  c.ringCheck k

/-! ## Completion (R157, R228, R260, R306) -/

/-- A ring copy publishes its slots (R157). -/
def Core.publish (c : Core) (k : CopyCmd) : Core :=
  match k.resv, k.ring with
  | some (n, _, _, _), some q =>
    match SMap.find c.rings q with
    | some r => { c with rings := SMap.set c.rings q { r with res := r.res - n, count := r.count + n } }
    | none => c
  | _, _ => c

/-- Has a command slots of its ring reserved that it has not published? -/
def CopyCmd.holdsSlots (k : CopyCmd) : Bool := (k.resv.any fun r => r.1 != 0) && !k.published

/-- A ring copy whose bytes have all landed publishes its slots, in queue order among the copies of its ring (R157). -/
def Core.publishEnded (c : Core) (k : CopyCmd) : Core :=
  if k.holdsSlots && !((c.copyq.takeWhile (·.id != k.id)).any fun x => x.holdsSlots && x.ring == k.ring) then
    (c.publish k).onCopy k.id fun k => { k with published := true }
  else c

/-- The signal and the record with which a command leaves the queue. -/
def State.endCopy (s : State) (core : Nat) (k : CopyCmd) : State :=
  let s1 := s.onCore core fun c => { c.forget k.id with copyq := c.copyq.filter (·.id != k.id) }
  let s2 := match k.fault with
    | some f => if k.told then s1
      else s1.sendRecord k.org.region (Rec.of f.code 1 (.core core) k.org f.addr f.detail)
    | none => s1
  if k.y = 0 then s2
  else if k.err then
    s2.sendCompletion core k.org k.y (if k.byt then k.byteLen - k.counted else 1) true
  else if k.byt then
    (if k.total = 0 then s2.sendCompletion core k.org k.y 0 false else s2)
  else s2.sendCompletion core k.org k.y 1 false

/-- A command that has ended publishes its slots, and leaves the queue; one that owes an event-mode or error completion waits
for the earlier ones of its region (R228, R258), one in byte mode for none (R260). -/
def State.settleCopy (s : State) (core id : Nat) : State :=
  match (s.core core).copyq.find? (·.id == id) with
  | none => s
  | some k =>
    if !k.ended then s
    else
      let s1 := s.onCore core fun c => c.publishEnded k
      match (s1.core core).copyq.find? (·.id == id) with
      | none => s1
      | some k =>
        let owes : Bool := k.err || !k.byt
        let first : Bool := !(((s1.core core).copyq.takeWhile (·.id != id)).any fun x => x.org.region == k.org.region)
        if !k.holdsSlots && (!owes || first) then s1.endCopy core k else s1

/-- Commands that have ended, in queue order. -/
def State.settleCopies (s : State) (core : Nat) : State :=
  ((s.core core).copyq.map (·.id)).foldl (fun s id => s.settleCopy core id) s

/-- A piece is complete: it leaves the command, and in byte mode it is signalled (R260). -/
def State.pieceDone (s : State) (core cmd pos bytes : Nat) : State :=
  match (s.core core).copyq.find? (·.id == cmd) with
  | none => s
  | some k =>
    let s1 := s.onCore core fun c => c.onCopy cmd fun k =>
      { k with pieces := k.pieces.filter (·.pos != pos), counted := k.counted + (if k.byt then bytes else 0) }
    if k.byt && bytes != 0 && k.y != 0 then s1.sendCompletion core k.org k.y bytes false else s1

/-- A piece that failed leaves the command, which takes the fault. -/
def State.pieceFail (s : State) (core cmd pos code addr : Nat) : State :=
  s.onCore core fun c => c.onCopy cmd fun k =>
    { k.fail code addr 0 with pieces := k.pieces.filter (·.pos != pos) }

/-! ## Start (R258) -/

/-- The first command that may start: none of its region's or of an active region's stands before it unstarted, the one
before it has issued its last piece, none is held for replay, fewer than eight are in hand, and no barrier or FENCEQ holds
it (R211, R221, R229). -/
def State.nextCopy (s : State) (core : Nat) : Option CopyCmd :=
  let c := s.core core
  if c.copyq.any (fun k => k.started && k.fault.isNone && decide (k.pos < k.total))
      || c.copyq.any (·.held) || decide (8 ≤ (c.copyq.filter fun k => k.started && !k.ended).length) || c.zeroing then none
  else
    match c.copyq.find? fun k => !k.started && !s.setAside k.org.region with
    | none => none
    | some k =>
      let tiles : Bool := match k.kind with
        | .fenceq => c.tileq.any fun t => t.org.region == k.org.region && decide (t.seq < k.seq)
        | _ => false
      if c.mustWait k.org.tid k.seq || tiles then none else some k

/-- COPY_COMMAND_START: the operands are checked; a ring copy reserves its slots when the ring has space (R157, R258). -/
def execCopyCommandStart (core : Nat) (s : State) : Host.Outcome State Fault Refusal :=
  .next (match s.nextCopy core with
    | none => s
    | some k =>
      let c := s.core core
      let checked : Except (Nat × Nat) (List Nat) := match k.kind with
        | .cpym _ => s.checkMulticast core k
        | .gthr _ => (c.checkGather k).map fun _ => []
        | .fenceq => .ok []
        | _ => (c.checkCopy k).map fun _ => []
      let start (f : CopyCmd → CopyCmd) : State :=
        (s.onCore core fun c => (c.forget k.id).onCopy k.id fun k => f { k with started := true }).settleCopies core
      match checked with
      | .error (code, addr) => start fun k => k.fail code addr 0
      | .ok recv =>
        match k.ring with
        | none => start fun k => { k with recv := recv }
        | some q =>
          match SMap.find c.rings q with
          | none => s
          | some r =>
            let n := k.byteLen / 512
            if r.depth < r.count + r.res + n then s
            else
              let first := (r.head + r.count + r.res) % r.depth
              let s1 := s.onCore core fun c =>
                ({ c with rings := SMap.set c.rings q { r with res := r.res + n } }).onCopy k.id fun k =>
                  { k with started := true, resv := some (n, first, r.base, r.depth) }
              s1.settleCopies core)

/-! ## Pieces (R259, R261) -/

/-- Has the region copy bytes left in this period (R261)? -/
def State.hasCopy (s : State) (core r : Nat) : Bool :=
  match s.region r with
  | none => true
  | some g => g.copybud == 0xFFFFFFFF
      || decide (0 < (SMap.get (s.core core).budgets r g.grants).copy)

/-- Copy bytes charged to a region. -/
def State.chargeCopy (s : State) (core r n : Nat) : State :=
  match s.region r with
  | none => s
  | some g =>
    if g.copybud = 0xFFFFFFFF then s
    else s.onCore core fun c =>
      let b := SMap.get c.budgets r g.grants
      { c with budgets := SMap.set c.budgets r { b with copy := b.copy - n } }

/-- Has a started command pieces left to issue? -/
def CopyCmd.issues (k : CopyCmd) : Bool := k.started && k.fault.isNone && decide (k.pos < k.total)

/-- The command that issues pieces: the one started that has some left; a command held for replay keeps itself and those
behind it waiting (R211). -/
def State.issuing (s : State) (core : Nat) : Option CopyCmd :=
  match (s.core core).copyq.find? fun k => k.held || k.issues with
  | some k => if k.held then none else some k
  | none => none

/-- An engine's operation put at the source interface. -/
def State.engineOp (s : State) (core : Nat) (k : CopyCmd) (body : OpBody) : State :=
  let (q, s1) := s.newSeq core
  s1.onCore core fun c => { c with
    src := c.src ++ [{ id := q, seq := k.seq, org := k.org, deferred := false, far := false, body := body }] }

/-- A piece counted as issued. -/
def State.addPiece (s : State) (core : Nat) (k : CopyCmd) (len bytes left : Nat) : State :=
  (s.onCore core fun c => (c.forget k.id).onCopy k.id fun x =>
    { x with pos := x.pos + len, pieces := x.pieces ++ [⟨k.pos, bytes, left⟩] }).chargeCopy core k.org.region (bytes * left)

/-- The hints of a command. -/
def CopyCmd.hints (k : CopyCmd) : Bool × Evp :=
  match k.kind with
  | .cpy f => (f.lu, f.evp)
  | .cpy2 f => (f.lu, f.evp)
  | .gthr f => (f.lu, f.evp)
  | .cpym _ => (false, .normal)
  | .fenceq => (false, .normal)

/-- A local source that is read at issue: its bytes, with their poison. DEDUCED, log entry 24.
DEDUCED, log entry 25. -/
def Core.localSource (c : Core) (cmd a n : Nat) : List Byte × List Nat := (c.engineBytes cmd 0 a n, c.engineBad cmd 0 a n)

/-- One element of a gather issued. -/
def State.issueElement (s : State) (core : Nat) (k : CopyCmd) : State :=
  let c := s.core core
  let w := k.indexBytes
  let e := k.arg 3
  let at_ := k.arg 0 + k.pos * w
  let fail (code addr : Nat) : State := s.onCore core fun c => c.onCopy k.id fun k => k.fail code addr 0
  let (ix, bad) := c.localSource k.id at_ w
  if !bad.isEmpty then fail 0x06 at_
  else
    let a := (k.arg 2 + natOf ix * e) % 2 ^ 64
    if 2 ^ 52 ≤ a then fail 0x05 a
    else
      let (lu, evp) := k.hints
      (s.addPiece core k 1 e 1).engineOp core k (.element k.id k.pos e a lu evp)

/-- One piece of a CPYM sent to every receiver (R266). -/
def State.issueMulticast (s : State) (core : Nat) (k : CopyCmd) : State :=
  let len := k.pieceLen k.pos
  let (bs, bad) := (s.core core).localSource k.id (k.arg 0 + k.pos) len
  let s1 := k.recv.foldl (fun s n =>
    s.inject core k.org.region .req (.core n) (.mcast k.id k.pos (k.arg 1) (k.arg 4) bs bad))
      (s.addPiece core k len len k.recv.length)
  if !bad.isEmpty then s1.onCore core fun c => c.onCopy k.id fun x => x.fail 0x06 (k.arg 0 + k.pos) 0 else s1

/-- COPY_PIECE_ISSUE: the next piece, in increasing position (R259). -/
def execCopyPieceIssue (core : Nat) (s : State) : Host.Outcome State Fault Refusal :=
  .next (match s.issuing core with
    | none => s
    | some k =>
      if s.hasCopy core k.org.region = false then s
      else
        match k.kind with
        | .gthr _ => (s.issueElement core k).settleCopies core
        | .cpym _ => (s.issueMulticast core k).settleCopies core
        | .fenceq => s
        | _ =>
          let len := k.pieceLen k.pos
          let (src, dst) := k.addrs k.pos
          let (lu, evp) := k.hints
          let s1 := s.addPiece core k len len 1
          match k.dir with
          | .gl | .gg => s1.engineOp core k (.pieceRead k.id k.pos len src lu evp)
          | .lg =>
            let (bs, bad) := (s.core core).localSource k.id src len
            s1.engineOp core k (.pieceWrite k.id k.pos dst bs bad evp)
          | .ll =>
            let (bs, bad) := (s.core core).localSource k.id src len
            let (q, s2) := s1.newSeq core
            let o : Op := { id := q, seq := k.seq, org := k.org, deferred := false, far := false,
                            body := .pieceRead k.id k.pos len src false .normal }
            (s2.onCore core fun c => { c with outst := c.outst ++ [o] }).send
              ⟨.rsp, .core core, .core core, k.org.region, .readRsp q bs bad 0⟩)

/-! ## Pieces that come back (R259, R260, R310) -/

/-- Bytes of a command land in local memory (R194, R310). -/
def State.landPiece (s : State) (core : Nat) (k : CopyCmd) (pos at_ src : Nat) (bs : List Byte) (bad : List Nat) : State :=
  if s.localOk core k.org.fid at_ bs.length true = false then s.pieceFail core k.id pos 0x05 at_
  else
    let s1 := s.onCore core fun c => c.layRest core k.id pos 4 at_ bs bad
    if bad.isEmpty then s1.pieceDone core k.id pos bs.length else s1.pieceFail core k.id pos 0x06 src

/-- A write of a command put among the operations of a core's source interface, before the writes of its later pieces
(R259). -/
def placeWrite (o : Op) (cmd pos : Nat) : List Op → List Op
  | [] => [o]
  | x :: xs =>
    match x.body with
    | .pieceWrite cmd' pos' .. => if cmd' = cmd ∧ pos < pos' then o :: x :: xs else x :: placeWrite o cmd pos xs
    | _ => x :: placeWrite o cmd pos xs

/-- A read of a command's source returns: from global to global, the piece's write takes its place in issue order. -/
def State.pieceRead (s : State) (core : Nat) (k : CopyCmd) (pos : Nat) (bs : List Byte) (bad : List Nat) : State :=
  let (src, dst) := k.addrs pos
  if k.dir = .gg then
    let (q, s1) := s.newSeq core
    let o : Op := { id := q, seq := k.seq, org := k.org, deferred := false, far := false,
                    body := .pieceWrite k.id pos dst bs bad k.hints.2 }
    s1.onCore core fun c => { c with src := placeWrite o k.id pos c.src }
  else s.landPiece core k pos dst src bs bad

/-- A global destination's acknowledgement: a piece of poisoned data has poisoned its destination, and the command takes the
poison fault at the piece's source (R309, R310, Table 13-6). -/
def State.pieceWritten (s : State) (core cmd pos n : Nat) (bad : List Nat) : State :=
  if bad.isEmpty then s.pieceDone core cmd pos n
  else
    match (s.core core).copyq.find? (·.id == cmd) with
    | none => s
    | some k => s.pieceFail core cmd pos 0x06 (k.addrs pos).1

/-- COPY_PIECE_COMPLETE: a piece's data, its acknowledgement, or a receiver's (R259, R260, R267). -/
def execCopyPieceComplete (pkt : Nat) (s : State) : Host.Outcome State Fault Refusal :=
  .next (match s.packet pkt with
    | none => s
    | some p =>
      match p.dst, p.body with
      | .core n, .readRsp id bs bad fail =>
        match (s.core n).outstanding id with
        | some o =>
          match o.body with
          | .pieceRead cmd pos _ va _ _ =>
            let s1 := (s.drop pkt).endOp n o none
            match (s1.core n).copyq.find? (·.id == cmd) with
            | none => s1
            | some k =>
              (if fail ≠ 0 then s1.pieceFail n cmd pos fail va else s1.pieceRead n k pos bs bad).settleCopies n
          | _ => s
        | none => s
      | .core n, .ack id _ fail =>
        match (s.core n).outstanding id with
        | some o =>
          match o.body with
          | .pieceWrite cmd pos va data bad _ =>
            let s1 := (s.drop pkt).endOp n o none
            (if fail ≠ 0 then s1.pieceFail n cmd pos fail va else s1.pieceWritten n cmd pos data.length bad).settleCopies n
          | _ => s
        | none => s
      | .core n, .mcastAck cmd pos ok =>
        let s1 := s.drop pkt
        let mark (x : Piece) : Piece :=
          if x.pos = pos then { x with left := x.left - 1, len := if ok then x.len else 0 } else x
        let s2 := s1.onCore n fun c => c.onCopy cmd fun k =>
          { k with pieces := k.pieces.map mark, err := k.err || !ok }
        match ((s2.core n).copyq.find? (·.id == cmd)).bind fun k => k.pieces.find? (·.pos == pos) with
        | some x => if x.left = 0 then (s2.pieceDone n cmd pos x.len).settleCopies n else s2
        | none => s2
      | _, _ => s)

/-! ## Multicast at a receiver (R267) -/

/-- A slot reference names a slot on this core, of a frame that is allocated there. -/
def State.onCoreRef (s : State) (core : Nat) (w : Word) : Bool :=
  let r := Ref.of w
  w != 0 && r.ok && !r.t && r.module == s.brielo.number && coreNumber r.x r.y r.c == core
    && ((s.core core).frame r.fid).any fun f => decide (4 ≤ r.slot ∧ r.slot < frameWords f.cls)

/-- The landing entry of a tag: its slot reference and its buffer (R265). -/
def Core.landing (c : Core) (tag : Nat) : Word × Word := (SMap.get c.land (2 * tag) 0, SMap.get c.land (2 * tag + 1) 0)

/-- Where a multicast piece lands by the entry it finds: the first byte, and the slot to decrement (R267). -/
def State.mcastPlace (s : State) (core sender cmd pos off tag n : Nat) : Option (Nat × Word) :=
  match (s.core core).laidFor sender cmd pos with
  | x :: _ => some (x.base, x.ref)
  | [] =>
    let (ref, buf) := (s.core core).landing tag
    let at_ := buf.toNat + off + pos
    if s.onCoreRef core ref && field buf 63 21 == 0 && s.inScratch at_ n then some (at_, ref) else none

/-- A receiver's fault for a command, sent once (R267). -/
def State.receiverFault (s : State) (core sender cmd region code addr : Nat) : State :=
  match (s.core sender).copyq.find? (·.id == cmd) with
  | some k =>
    if k.reported.contains core then s
    else
      (s.onCore sender fun c => c.onCopy cmd fun k => { k with reported := core :: k.reported }).sendRecord region
        { Rec.plain code 3 region (.core core) with addr := addr }
  | none => s.sendRecord region { Rec.plain code 3 region (.core core) with addr := addr }

/-- MULTICAST_PIECE_ARRIVAL: the bytes land by the landing entry; the slot's decrement is a later slot-unit step, and the
piece is acknowledged after it (R267). -/
def execMulticastPieceArrival (pkt : Nat) (s : State) : Host.Outcome State Fault Refusal :=
  .next (match s.packet pkt with
    | none => s
    | some p =>
      match p.dst, p.src, p.body with
      | .core n, .core m, .mcast cmd pos off tag bs bad =>
        let s1 := s.drop pkt
        let count (s : State) (ref : Word) (err : Bool) : State :=
          s.send ⟨.sig, .core n, .core n, p.region, .count ref bs.length err m cmd pos⟩
        match s.mcastPlace n m cmd pos off tag bs.length with
        | some (at_, ref) => count (s1.onCore n fun c => c.layRest m cmd pos 4 at_ bs bad) ref false
        | none =>
          let (ref, buf) := (s.core n).landing tag
          if s.onCoreRef n ref = false ∨ field buf 63 21 ≠ 0 then
            (s1.receiverFault n m cmd p.region 0x09 0).inject n p.region .rsp (.core m) (.mcastAck cmd pos false)
          else count (s1.receiverFault n m cmd p.region 0x05 (buf.toNat + off + pos)) ref true
      | _, _, _ => s)

/-! ## Gathers (R270, R271) -/

/-- GATHER_REQUEST_ARRIVAL: the request enters its gather unit's window of 64 and goes on to its home slice. -/
def execGatherRequestArrival (pkt : Nat) (s : State) : Host.Outcome State Fault Refusal :=
  .next (match s.packet pkt with
    | none => s
    | some p =>
      match p.dst, p.body with
      | .gather g, .gather cmd i pa _ _ _ core _ =>
        let win := SMap.get s.gathers g []
        if 64 ≤ win.length then s
        else
          let req : GatherReq := { cmd := cmd, i := i, core := core }
          let s1 := s.drop pkt
          let s2 := { s1 with gathers := SMap.set s1.gathers g (win ++ [req]) }
          s2.send { p with src := .gather g, dst := .slice (s.homeSlice pa) }
      | _, _ => s)

/-- The local address of byte `pos` of a gather. -/
def CopyCmd.elementAt (k : CopyCmd) (pos : Nat) : Nat :=
  match k.resv with
  | some r => ringAddr r pos
  | none => k.arg 4 + pos

/-- An element of a gather lands, or fails. -/
def State.landElement (s : State) (core : Nat) (o : Op) (bs : List Byte) (bad : List Nat) (fail : Nat) : State :=
  match o.body with
  | .element cmd i size va _ _ =>
    match (s.core core).copyq.find? (·.id == cmd) with
    | none => s
    | some k =>
      (if fail ≠ 0 then s.pieceFail core cmd i fail va
       else s.landPiece core k i (k.elementAt (i * size)) va bs bad).settleCopies core
  | _ => s

/-- GATHER_ELEMENT_RETURN: from a gather unit, or from the host or a peer module (R270, R271). -/
def execGatherElementReturn (pkt : Nat) (s : State) : Host.Outcome State Fault Refusal :=
  .next (match s.packet pkt with
    | none => s
    | some p =>
      match p.dst, p.body with
      | .core n, .element cmd i bs bad fail =>
        match (s.core n).outst.find? (fun o => match o.body with
          | .element cmd' i' .. => cmd' == cmd && i' == i
          | _ => false) with
        | some o => ((s.drop pkt).endOp n o none).landElement n o bs bad fail
        | none => s
      | .core n, .readRsp id bs bad fail =>
        match (s.core n).outstanding id with
        | some o => if o.body.isPiece && (match o.body with | .element .. => true | _ => false) then
            ((s.drop pkt).endOp n o none).landElement n o bs bad fail
          else s
        | none => s
      | _, _ => s)

/-! ## Units read and landed ahead (R216, R259) -/

/-- What the next step of a command reads of local memory: the mask of the CPYM that starts next, the local source of a
piece, the index of an element. -/
def State.copyReads (s : State) (core : Nat) (k : CopyCmd) : Option (Nat × Nat) :=
  match k.kind with
  | .fenceq => none
  | .cpym _ =>
    if k.issues then some (k.arg 0 + k.pos, k.pieceLen k.pos)
    else if (s.nextCopy core).any (·.id == k.id) then some (k.arg 3, 256) else none
  | .gthr _ => if k.issues then some (k.arg 0 + k.pos * k.indexBytes, k.indexBytes) else none
  | _ => if k.issues && (k.dir == .lg || k.dir == .ll) then some ((k.addrs k.pos).1, k.pieceLen k.pos) else none

/-- A copy engine reads an aligned 4-byte word for a command ahead of the step that uses it. -/
def State.copyAhead (s : State) (core cmd addr : Nat) : State :=
  match (s.core core).copyq.find? (·.id == cmd) with
  | none => s
  | some k =>
    match s.copyReads core k with
    | none => s
    | some (a, n) =>
      if addr % 4 = 0 ∧ addr < a + n ∧ a < addr + 4 then s.onCore core fun c => c.readAhead cmd 0 addr 4 else s

/-- What a packet that may be delivered will land on its core: the command's core, the command, the piece's position, where
it begins, its bytes, and the slot of a multicast piece. -/
def State.landsAt (s : State) (p : Packet) : Option (Nat × Laid × List Byte × List Nat) :=
  let own (n : Nat) (o : Op) (bs : List Byte) (bad : List Nat) : Option (Nat × Laid × List Byte × List Nat) :=
    match o.body with
    | .pieceRead cmd pos .. => ((s.core n).copyq.find? (·.id == cmd)).bind fun k =>
        let a := (k.addrs pos).2
        if k.dir ≠ .gg ∧ s.localOk n k.org.fid a bs.length true = true then some (n, ⟨n, cmd, pos, a, 0, 0⟩, bs, bad) else none
    | .element cmd i size .. => ((s.core n).copyq.find? (·.id == cmd)).bind fun k =>
        let a := k.elementAt (i * size)
        if s.localOk n k.org.fid a bs.length true then some (n, ⟨n, cmd, i, a, 0, 0⟩, bs, bad) else none
    | _ => none
  match p.dst, p.src, p.body with
  | .core n, _, .readRsp id bs bad 0 => ((s.core n).outstanding id).bind fun o => own n o bs bad
  | .core n, _, .element cmd i bs bad 0 =>
    ((s.core n).outst.find? fun o => match o.body with
      | .element cmd' i' .. => cmd' == cmd && i' == i
      | _ => false).bind fun o => own n o bs bad
  | .core n, .core m, .mcast cmd pos off tag bs bad =>
    (s.mcastPlace n m cmd pos off tag bs.length).map fun x => (n, ⟨m, cmd, pos, x.1, 0, x.2⟩, bs, bad)
  | _, _, _ => none

/-- An aligned 4-byte word of a piece, or the part of one that the piece has, lands ahead of the rest. -/
def State.landAhead (s : State) (pkt addr : Nat) : State :=
  match (s.packet pkt).bind s.landsAt with
  | none => s
  | some (n, x, bs, bad) => s.onCore n fun c => c.layAhead { x with addr := addr } 4 bs bad

end Sys2Proof.Machine
end

