-- ==== Sys2Proof/Machine/Tiles.lean ====
section
/-! DEFINITION. Events of the tile engine: commands that start, tile pairs, grouped rows, and accumulator transfers
(R134-R137, R150-R192, R229, R306, R326, R327, R366-R368, R391). -/

namespace Sys2Proof.Machine

open Sys2Proof

/-! ## The engine's state (R154, R163, R166) -/

/-- Operand `i` of a command's group. -/
def TileCmd.arg (k : TileCmd) (i : Nat) : Nat := (wordAt k.grp i).toNat

/-- An accumulator; one never written reads as zero (R166). -/
def Core.acc (c : Core) (a : Nat) : List (BitVec 32) := SMap.get c.accs a (List.replicate 256 0)

/-- The clearing of R166: ring copies that hold slots end with the ring fault and change no ring any more; what they have
issued still lands in the slots they were given (R157). -/
def Core.clearEngine (c : Core) (owner : Nat) : Core :=
  { c with
    accs := [], accBad := [], rings := [], skips := [], owner := owner
    copyq := c.copyq.map fun k =>
      if k.holdsSlots then { k.fail 0x0C 0 0 with published := true } else k }

/-- Has a started command of the queue still to do its effect? -/
def TileCmd.busy (k : TileCmd) : Bool := k.started && !k.done

/-- A command of the tile queue changed. -/
def Core.onTile (c : Core) (id : Nat) (f : TileCmd → TileCmd) : Core :=
  { c with tileq := c.tileq.map fun k => if k.id = id then f k else k }

/-- Tile cycles charged to a region (R170). -/
def State.chargeTile (s : State) (core r n : Nat) : State :=
  match s.region r with
  | none => s
  | some g =>
    if g.tilebud = 0xFFFF then s
    else s.onCore core fun c =>
      let b := SMap.get c.budgets r g.grants
      { c with budgets := SMap.set c.budgets r { b with tile := b.tile - n } }

/-- May a pair of a region start within its budget (R170)? -/
def State.hasTile (s : State) (core r : Nat) : Bool :=
  match s.region r with
  | none => true
  | some g => g.tilebud == 0xFFFF || decide (0 < (SMap.get (s.core core).budgets r g.grants).tile)

/-- A command leaves the queue: its record where it faulted, its completion in event mode (R164, R306); a skip stream
with an error is unconfigured (R181). -/
def State.leaveTile (s : State) (core : Nat) (k : TileCmd) : State :=
  let s1 := s.onCore core fun c =>
    { c.forget k.id with
      tileq := c.tileq.filter (·.id != k.id)
      skips := (match k.kind with
        | .mmas ss _ _ _ => if k.bad then SMap.del c.skips ss else c.skips
        | _ => c.skips) }
  let s2 := match k.fault with
    | some f => s1.sendRecord k.org.region (Rec.of f.code 1 (.core core) k.org f.addr f.detail)
    | none => s1
  if k.y = 0 then s2 else s2.sendCompletion core k.org k.y 1 (k.err || k.fault.isSome)

/-- A command whose effect is whole completes when none before it is still in the queue, but for those of another region that
are set aside: unstarted, or whole behind one that is (R169, R171). -/
def State.settleTile (s : State) (core id : Nat) : State :=
  let q := (s.core core).tileq
  match q.find? (·.id == id) with
  | none => s
  | some k =>
    if k.done && !((q.takeWhile (·.id != id)).any fun x =>
        x.org.region == k.org.region || x.busy || (x.done && !s.setAside x.org.region)) then s.leaveTile core k
    else s

/-- Every command that may complete does, in issue order. -/
def State.settleTiles (s : State) (core : Nat) : State :=
  ((s.core core).tileq.map (·.id)).foldl (fun s id => s.settleTile core id) s

/-- A command's effect is whole: it completes, and with it those behind it that had to wait, in issue order (R169). -/
def State.endTile (s : State) (core : Nat) (k : TileCmd) : State :=
  (s.onCore core fun c => c.onTile k.id fun _ => { k with done := true }).settleTiles core

/-- A command that ends in a fault (R162); one that faults at its start, and a pair that is not applied, are not charged
(DESIGN CHOICE, log entry 80). -/
def State.failTile (s : State) (core : Nat) (k : TileCmd) (code addr : Nat) : State :=
  s.endTile core { k with err := true, fault := some ⟨code, addr, 0⟩ }

/-! ## Starting (R155, R164, R166-R169, R176, R188, R229) -/

/-- Tags by their code (Table 5-3). -/
def Tag.ofCode (n : Nat) : Tag :=
  match n with
  | 0 => .fp32 | 1 => .bf16 | 2 => .fp16 | 3 => .e4m3 | 4 => .e5m2 | 5 => .e2m1 | 6 => .int8 | _ => .int4

/-- Bits of an element of a tag. -/
def tagBits : Tag → Nat
  | .fp32 => 32 | .bf16 | .fp16 => 16 | .e4m3 | .e5m2 | .int8 => 8 | .e2m1 | .int4 => 4

/-- The floating-point format of a tag, none for the integer tags. -/
def tagFmt : Tag → Option Fmt
  | .fp32 => some .f32 | .bf16 => some .bf16 | .fp16 => some .f16 | .e4m3 => some .e4m3 | .e5m2 => some .e5m2
  | .e2m1 => some .e2m1 | .int8 => none | .int4 => none

/-- The accumulator a command reads or writes. -/
def TileKind.acc : TileKind → Option Nat
  | .mma _ _ _ a | .mmas _ _ _ a | .accz a | .accld a | .accst _ _ _ _ a => some a
  | .rcfg _ | .mmg .. | .sscfg _ | .fenceq => none

/-- Rings and accumulator of a pair command, with the stream of an MMAS. -/
def TileKind.pairs : TileKind → Option (Nat × Nat × Nat × Option Nat)
  | .mma _ qb qa a => some (qa, qb, a, none)
  | .mmas ss qb qa a => some (qa, qb, a, some ss)
  | .rcfg _ | .mmg .. | .accz _ | .accld _ | .accst .. | .sscfg _ | .fenceq => none

/-- Are the two tiles of the next pair present? -/
def Core.pairPresent (c : Core) (qa qb : Nat) : Bool :=
  match SMap.find c.rings qa, SMap.find c.rings qb with
  | some a, some b => if qa = qb then decide (2 ≤ a.count) else decide (1 ≤ a.count ∧ 1 ≤ b.count)
  | _, _ => false

/-- The MMA or MMAS in hand. -/
def Core.pairCmd (c : Core) : Option TileCmd := c.tileq.find? fun k => k.busy && k.kind.pairs.isSome

/-- Pair commands of a suspended region stop at a pair boundary where the next tiles are absent: each is an unstarted command
again, with the pair commands behind it (R171). -/
def State.stopPairs (s : State) (core : Nat) : State :=
  match (s.core core).pairCmd with
  | none => s
  | some k =>
    match k.kind.pairs with
    | none => s
    | some (qa, qb, _, _) =>
      if s.setAside k.org.region && k.pair.isNone && !(s.core core).pairPresent qa qb then
        s.onCore core fun c => { c with tileq := c.tileq.map fun x =>
          if x.org.region = k.org.region ∧ x.busy = true ∧ x.kind.pairs.isSome = true then { x with started := false } else x }
      else s

/-- The slots of a ring's head tile and of the tile `i` after it. -/
def Ring.slot (r : Ring) (i : Nat) : Nat := (r.head + i) % r.depth

/-- Does a started command go on: an MMA or MMAS has a pair in hand, or its next tiles are there? One that waits for tiles
holds the queue (R169). -/
def Core.goesOn (c : Core) (x : TileCmd) : Bool :=
  match x.kind.pairs with
  | some (qa, qb, _, _) => x.pair.isSome || c.pairPresent qa qb
  | none => true

/-- Do two commands use one accumulator? -/
def TileCmd.shares (x k : TileCmd) : Bool := x.kind.acc.isSome && x.kind.acc == k.kind.acc

/-- May `k` start while `x`, before it, has started and is not whole: `x` goes on and is of the same region, and `k` needs
no accumulator that `x` is to write or read, unless both are pair commands, whose pairs follow one another? RCFG and SSCFG
wait for the head of the queue (R155, R164, R166, R169, R176). -/
def Core.letsPass (c : Core) (x k : TileCmd) : Bool :=
  x.org.region == k.org.region && c.goesOn x &&
    match k.kind with
    | .rcfg _ | .sscfg _ => false
    | .fenceq => true
    | .mma .. | .mmas .. => x.kind.pairs.isSome || !x.shares k
    | .mmg .. | .accz _ | .accld _ | .accst .. => !x.shares k

/-- The first command that may start: those started before it let it pass, none before it that has stopped on a fault is
still in the queue, and commands of suspended regions are set aside (R169). DEDUCED, log entry 36. -/
def State.nextTile (s : State) (core : Nat) : Option TileCmd :=
  let c := s.core core
  if c.zeroing then none
  else
    match c.tileq.find? fun k => !k.started && !k.done && !s.setAside k.org.region with
    | none => none
    | some k =>
      let stopped := (c.tileq.takeWhile (·.id != k.id)).any fun x => x.done && x.fault.isSome && !s.setAside x.org.region
      if !stopped && (c.tileq.filter TileCmd.busy).all fun x => c.letsPass x k then some k else none

/-- The first ACCLD or ACCST in hand. -/
def Core.transferCmd (c : Core) : Option TileCmd :=
  c.tileq.find? fun k => k.busy && (match k.kind with | .accld _ | .accst .. => true | _ => false)

/-- The first MMG in hand. -/
def Core.mmgCmd (c : Core) : Option TileCmd :=
  c.tileq.find? fun k => k.busy && (match k.kind with | .mmg .. => true | _ => false)

/-- Does the command still wait to start: for a fence, for the copies a FENCEQ or an RCFG waits on (R155, R221, R229)? -/
def Core.tileWaits (c : Core) (k : TileCmd) : Bool :=
  c.mustWait k.org.tid k.seq ||
  match k.kind with
  | .fenceq => c.copyq.any fun x => x.org.region == k.org.region && decide (x.seq < k.seq)
  | .rcfg q => c.copyq.any fun x => x.started && x.ring == some q
  | .mma .. | .mmas .. | .mmg .. | .accz _ | .accld _ | .accst .. | .sscfg _ => false

/-- The checks of an MMA or MMAS at the head of the queue: its count and its rings (R164, R177). -/
def Core.checkPairs (c : Core) (k : TileCmd) (qa qb : Nat) (ss : Option Nat) : Bool :=
  decide (1 ≤ k.arg 0 ∧ k.arg 0 ≤ 65535) && SMap.has c.rings qa && SMap.has c.rings qb
    && (match ss with | some i => SMap.has c.skips i | none => true)

/-- The operands of an ACCST: the fault they raise (R168). -/
def State.checkAccst (s : State) (k : TileCmd) (sc : Bool) (tag : Tag) : Option (Nat × Nat) :=
  let a := k.arg 0
  let e := k.arg 1
  if sc = true ∧ (e % 256 = 255 ∨ (tagFmt tag).isNone = true) then some (0x07, 0)
  else if sc = true ∧ 256 ≤ e then some (0x07, 0)
  else if a % 64 ≠ 0 then some (0x03, a)
  else if s.inScratch a (32 * tagBits tag) = false then some (0x05, a)
  else none

/-- Bytes of an activation of an MMG. -/
def actBytes : MmgAct → Nat
  | .f32 => 4 | .bf16 | .f16 => 2

/-- Format of an activation of an MMG. -/
def actFmt : MmgAct → Fmt
  | .f32 => .f32 | .bf16 => .bf16 | .f16 => .f16

/-- The operands of an MMG in their order of checking (R188). -/
def State.checkMmg (s : State) (k : TileCmd) (act : MmgAct) : Option (Nat × Nat) :=
  if k.arg 1 = 0 ∨ 65535 < k.arg 1 ∨ k.arg 3 = 0 ∨ 8192 < k.arg 3 then some (0x07, 0)
  else if k.arg 0 % 2 ≠ 0 then some (0x03, k.arg 0)
  else if k.arg 2 % 4 ≠ 0 then some (0x03, k.arg 2)
  else if k.arg 4 % 4 ≠ 0 then some (0x03, k.arg 4)
  else if s.inScratch (k.arg 2) (k.arg 3 * actBytes act) = false then some (0x05, k.arg 2)
  else if s.inScratch (k.arg 4) (4 * k.arg 1) = false then some (0x05, k.arg 4)
  else none

/-- The engine taken over by the region of a command (R166). -/
def State.takeEngine (s : State) (core r : Nat) : State :=
  if (s.core core).owner = r then s else (s.onCore core fun c => c.clearEngine r).settleCopies core

/-- TILE_COMMAND_START. -/
def execTileCommandStart (core : Nat) (s : State) : Host.Outcome State Fault Refusal :=
  .next (match s.nextTile core with
    | none => s
    | some k =>
      if (s.core core).tileWaits k then s
      else
        let s1 := s.takeEngine core k.org.region
        let c := s1.core core
        let go (n : Nat) (f : TileCmd → TileCmd) : State :=
          (s1.chargeTile core k.org.region n).onCore core fun c => c.onTile k.id fun k => { f k with started := true }
        let once (n : Nat) (f : Core → Core) : State := ((s1.chargeTile core k.org.region n).onCore core f).endTile core k
        let pairs (qa qb : Nat) (ss : Option Nat) : State :=
          if c.checkPairs k qa qb ss then go 0 fun k => { k with left := if k.left = 0 then k.arg 0 else k.left }
          else s1.failTile core k 0x0C 0
        match k.kind with
        | .fenceq => once 1 fun c => c
        | .rcfg q =>
          let ring : Ring :=
            { base := k.arg 0, depth := k.arg 1 % 128, bs := bitAt (wordAt k.grp 1) 8, desc := k.arg 2, head := 0,
              count := 0, res := 0 }
          once 1 fun c => { c with rings := SMap.set c.rings q ring }
        | .sscfg ss =>
          once 1 fun c => { c with skips := SMap.set c.skips ss ⟨k.arg 0, false, k.arg 0 + k.arg 1⟩ }
        | .accz a => once 1 fun c => { c with accs := SMap.del c.accs a, accBad := eraseNat c.accBad a }
        | .accld _ =>
          let a := k.arg 0
          if a % 64 ≠ 0 then s1.failTile core k 0x03 a
          else if localEnd < a + 1024 then s1.failTile core k 0x05 a
          else go 16 fun k => k
        | .accst sc _ _ tag _ =>
          match s1.checkAccst k sc tag with
          | some (code, addr) => s1.failTile core k code addr
          | none => go 16 fun k => k
        | .mma _ qb qa _ => pairs qa qb none
        | .mmas ss qb qa _ => pairs qa qb (some ss)
        | .mmg _ act =>
          match s1.checkMmg k act with
          | some (code, addr) => s1.failTile core k code addr
          | none => go (if k.left = 0 then 1 else 0) fun k =>
            if k.left = 0 then { k with left := k.arg 1, row := 0, recAt := k.arg 0 } else k)

/-! ## Accumulator transfers (R167, R168) -/

/-- A value scaled by 2^e. -/
def FVal.scale (v : FVal) (e : Int) : FVal :=
  match v with
  | .num d => .num { d with e := d.e + e }
  | v => v

/-- One element of an ACCST (Table 6-5). -/
def accElem (tag : Tag) (sc sat : Bool) (rm : RMode) (e : Nat) (v : Nat) : Nat :=
  match tagFmt tag with
  | some f =>
    if tag = .fp32 ∧ sc = false then v
    else (deliver f rm sat (if sc then (Fmt.f32.decode v).scale (127 - (e : Int)) else Fmt.f32.decode v)).1
  | none => ((IntTy.mk (tagBits tag) true).narrow sat ((IntTy.mk 32 true).decode v)).1

/-- Elements packed into bytes, the lower of two 4-bit elements first (R129). -/
def packElems (bits : Nat) : List Nat → List Byte
  | [] => []
  | [v] => bytesOf ((bits + 7) / 8) (v % 2 ^ bits)
  | v :: w :: vs => bytesOf (bits / 4) (v % 2 ^ bits + (w % 2 ^ bits) * 2 ^ bits) ++ packElems bits vs

/-- The image an ACCST writes, with the offsets of its poisoned bytes: a poisoned accumulator's is free and poisoned (R168,
R310). -/
def State.accImage (s : State) (core : Nat) (k : TileCmd) (sc sat : Bool) (rm : RMode) (tag : Tag) (a : Nat) :
    List Byte × List Nat × State :=
  if (s.core core).accBad.contains a then
    let (bs, s1) := s.freeBytes (32 * tagBits tag)
    (bs, List.range bs.length, s1)
  else
    (packElems (tagBits tag) (((s.core core).acc a).map fun v => accElem tag sc sat rm (k.arg 1 % 256) v.toNat), [], s)

/-- ACCUMULATOR_TRANSFER_DONE: an ACCLD has loaded its accumulator, or an ACCST has written its image.
DEDUCED, log entry 37. -/
def execAccumulatorTransferDone (core : Nat) (s : State) : Host.Outcome State Fault Refusal :=
  .next (match (s.core core).transferCmd with
    | none => s
    | some k =>
      let c := s.core core
      match k.kind with
      | .accld a =>
        let bs := c.engineBytes k.id 0 (k.arg 0) 1024
        let words := (List.range 256).map fun i => BitVec.ofNat 32 (natOf ((bs.drop (4 * i)).take 4))
        let free := (List.range 256).map fun i => Config.freeElem (s.free + i)
        let bad := !(c.engineBad k.id 0 (k.arg 0) 1024).isEmpty
        let s1 := if bad then { s with free := s.free + 256 } else s
        (s1.onCore core fun c =>
          { c with accs := SMap.set c.accs a (if bad then free else words)
                   accBad := if bad then insertNat c.accBad a else eraseNat c.accBad a }).endTile core k
      | .accst sc sat rm tag a =>
        let (bs, bad, s1) := s.accImage core k sc sat rm tag a
        (s1.onCore core fun c => c.layRest core k.id 0 4 (k.arg 0) bs bad).endTile core { k with err := k.err || !bad.isEmpty }
      | _ => s)

/-! ## Skip lists (R174) -/

/-- What was read ahead of a skip list for a command up to nibble `n` has been used. -/
def Core.forgetNibbles (c : Core) (cmd n : Nat) : Core :=
  c.forgetUse cmd fun x => (x.use == 1 || x.use == 2) && decide (2 * x.addr + (x.use - 1) < n)

/-- How a tile's tokens decode. -/
inductive SkipResult where
  /-- positions of the stored elements, in order, and the next nibble -/
  | ok (stored : List Nat) (next : Nat)
  | format
  | poison
  deriving DecidableEq, Repr

/-- Nibble `n` of local memory as the engine reads it for a command: none where its byte is in error (R181, R182). -/
def Core.nibble (c : Core) (cmd n : Nat) : Option Nat :=
  if (c.engineBad cmd (n % 2 + 1) (n / 2) 1).isEmpty then
    some (natOf (c.engineBytes cmd (n % 2 + 1) (n / 2) 1) / (if n % 2 = 1 then 16 else 1) % 16)
  else none

/-- The tokens of a tile of `t` elements from nibble `n` on; `p` elements are placed and `run` is added so far. -/
def Core.skipDecode (c : Core) (cmd fin t : Nat) : Nat → Nat → Nat → Nat → List Nat → SkipResult
  | 0, _, _, _, _ => .format
  | fuel + 1, n, p, run, acc =>
    if t ≤ p then .ok acc.reverse n
    else if fin ≤ n then .format
    else
      match c.nibble cmd n with
      | none => .poison
      | some v =>
        if v = 15 then c.skipDecode cmd fin t fuel (n + 1) p (run + 15) acc
        else if t < p + run + v then .format
        else if p + run + v = t then .ok acc.reverse (n + 1)
        else c.skipDecode cmd fin t fuel (n + 1) (p + run + v + 1) 0 ((p + run + v) :: acc)

/-! ## Tile pairs: start (R156, R159, R160, R162, R164, R165, R177-R182) -/

/-- K of a tag (R161). -/
def tileK (t : Tag) : Nat := 256 / tagBits t

/-- The tag pairs of Table 6-4. -/
def tagPairOk (a b : Tag) : Bool :=
  match a, b with
  | .bf16, .bf16 | .fp16, .fp16 | .e2m1, .e2m1 | .int8, .int8 | .int4, .int4 => true
  | .e4m3, .e4m3 | .e4m3, .e5m2 | .e5m2, .e4m3 | .e5m2, .e5m2 => true
  | _, _ => false

/-- TAG of a descriptor (Table 6-2). -/
def descTag (d : Word) : Tag := Tag.ofCode (field d 2 0)

/-- Addresses of a pair's tiles and descriptors: A tile, B tile, A descriptor, B descriptor. -/
def Core.pairAt (c : Core) (qa qb : Nat) : Nat × Nat × Nat × Nat :=
  let none_ : Ring := ⟨0, 1, false, 0, 0, 0, 0⟩
  let a := SMap.get c.rings qa none_
  let b := SMap.get c.rings qb none_
  let j := if qa = qb then b.slot 1 else b.slot 0
  (a.base + 512 * a.slot 0, b.base + 512 * j, a.desc + 8 * a.slot 0, b.desc + 8 * j)

/-- Cycles of an MMAS pair (R178). DEDUCED, log entry 39. -/
def pairCycles (k : Nat) (stored : List Nat) : Nat :=
  let row (i : Nat) : Nat := (stored.filter fun p => p / k == i).length
  let w := 2 * (k / 4)
  (List.range 8).foldl (fun m p => max m ((row (2 * p) + row (2 * p + 1) + w - 1) / w)) 1

/-- The tile engine of a core has started a pair in this microsecond (R294). -/
def State.pairStarted (s : State) (core : Nat) : State :=
  let now := s.time / 1000
  { s with pairCores := SMap.set s.pairCores core (now :: ((SMap.get s.pairCores core []).filter (· != now)).take 1) }

/-- Does an MMAS wait for an earlier one on its stream that met an error and is still in the queue: its completion
unconfigures the stream (R181)? -/
def Core.skipAwaits (c : Core) (k : TileCmd) (ss : Option Nat) : Bool :=
  ss.isSome && (c.tileq.takeWhile (·.id != k.id)).any fun x => x.bad && (x.kind.pairs.bind (·.2.2.2)) == ss

/-- TILE_PAIR_START: the descriptors are read and checked, an MMAS decodes its tokens, and the engine begins to read the
tiles. An MMAS whose stream an earlier one's completion has unconfigured takes the ring fault (R177, R181). With a
descriptor in error the pair is popped and poisons (R165), whatever the other one holds (R162), but tokens that do not fit
the tile stop the command (R180): DEDUCED, log entry 74. ADDR of a format fault of descriptors is that of B's, or of A's
where A's reserved bits are not zero, and of a format fault of tokens (R180) the stream's ADDR: DESIGN CHOICE, log entry
75. -/
def execTilePairStart (core : Nat) (s : State) : Host.Outcome State Fault Refusal :=
  .next (match (s.core core).pairCmd with
    | none => s
    | some k =>
      match k.kind.pairs with
      | none => s
      | some (qa, qb, _, ss) =>
        let c := s.core core
        if k.pair.isSome ∨ c.skipAwaits k ss = true then s
        else if (ss.any fun i => !SMap.has c.skips i) = true then s.failTile core k 0x0C 0
        else if c.pairPresent qa qb = false ∨ s.hasTile core k.org.region = false then s
        else
          let (_, _, pa, pb) := c.pairAt qa qb
          let da := c.word pa
          let db := c.word pb
          let badA := touches c.lpoison pa 8
          let badB := touches c.lpoison pb 8
          let whole (d : Word) : Bool := field d 31 4 == 0
          if !(badA || badB || k.bad) && !(tagPairOk (descTag da) (descTag db) && whole da && whole db) then
            s.failTile core k 0x07 (if whole da then pb else pa)
          else
            let (pick, s0) := if badA && badB then s.choose 3 else (0, s)
            let kLen := if !badA then tileK (descTag da) else if !badB then tileK (descTag db) else 16 * 2 ^ pick
            let dense := (tagFmt (descTag da)).isSome && (bitAt da 3 || bitAt db 3)
            let p : Pair :=
              { da := da, db := db, expA := none, poison := badA || badB || k.bad, dense := dense, due := s.cycle + 4,
                skip := none }
            let begin_ (p : Pair) (bad : Bool) : State :=
              let done := (p.skip.map fun st => 2 * st.addr + bitOf st.hi).getD 0
              ((s0.chargeTile core k.org.region 4).onCore core fun c => (c.forgetNibbles k.id done).onTile k.id fun k =>
                { k with pair := some p, bad := k.bad || bad }).pairStarted core
            match ss.bind fun i => SMap.find c.skips i with
            | none => begin_ p false
            | some st =>
              if k.bad then begin_ { p with expA := some [], skip := some st } false
              else
                let at_ := 2 * st.addr + bitOf st.hi
                match c.skipDecode k.id (2 * st.fin) (16 * kLen) (2 * st.fin - at_ + 1) at_ 0 0 [] with
                | .format => s.failTile core k 0x07 st.addr
                | .poison => begin_ { p with expA := some [], poison := true, skip := some st } true
                | .ok stored n =>
                  let cycles := if dense then 4 else pairCycles kLen stored
                  begin_ { p with
                    expA := some stored, due := s.cycle + cycles
                    skip := some { st with addr := n / 2, hi := n % 2 == 1 } } false)

/-! ## Tile pairs: retirement (R136, R150-R152, R160, R164, R165, R179) -/

/-- Element `e` of packed elements (R129). -/
def elemAt (bits : Nat) (bs : Array Byte) (e : Nat) : Nat :=
  if bits = 16 then (bs.getD (2 * e) 0).toNat + 256 * (bs.getD (2 * e + 1) 0).toNat
  else if bits = 8 then (bs.getD e 0).toNat
  else (bs.getD (e / 2) 0).toNat / (if e % 2 = 1 then 16 else 1) % 16

/-- The value of a tile element at inner index `k` under a descriptor's scales (R136, Table 6-2). -/
def tileVal (d : Word) (bs : Bool) (k code : Nat) : FVal :=
  let t := descTag d
  let j := k / (if bs then 32 else 16)
  let e := field d (39 + 8 * j) (32 + 8 * j)
  match t with
  | .e4m3 | .e5m2 | .e2m1 =>
    if e = 255 then .nan false else (((tagFmt t).getD .f32).decode code).scale ((e : Int) - 127)
  | _ => ((tagFmt t).getD .f32).decode code

/-- The exact sum of numbers: −0 only when every term is −0 (R150). -/
def exactSum (ds : List Dyadic) : Dyadic :=
  let e := ds.foldl (fun e d => min e d.e) 0
  Dyadic.ofInt (ds.foldl (fun v d => v + d.at e) 0) e (!ds.isEmpty && ds.all fun d => d.neg && d.m == 0)

/-- The products of a k-step added to an accumulator element with one rounding (R150). -/
def kStep (acc : Nat) (ps : List FVal) : Nat :=
  let vs := Fmt.f32.decode acc :: ps
  if vs.any FVal.isNan then Fmt.f32.nanCode
  else
    let pos := vs.any fun v => v.isInf && !v.neg
    let neg := vs.any fun v => v.isInf && v.neg
    if pos && neg then Fmt.f32.nanCode
    else if pos || neg then Fmt.f32.code neg (Fmt.f32.infCode.getD Fmt.f32.maxCode)
    else
      (addVal .f32 .rne (Fmt.f32.decode acc)
        (.num (exactSum (ps.filterMap fun v => match v with | .num d => some d | _ => none)))).1

/-- A product of a k-step, NaN where R150 says so. -/
def prodVal (x y : FVal) : FVal := match mulVal x y with | .ok v => v | .error _ => .nan false

/-- The products of an element: those that are certain, and whether a decoded +0 element meets a value that is not
finite or a NaN block, so that its product may be NaN or dropped (R179). -/
def elemProducts (row : List (Option FVal × FVal)) (col : List FVal) : List FVal × Bool :=
  (row.zip col).foldr (fun p acc =>
    match p.1.1 with
    | some v => (prodVal v p.2 :: acc.1, acc.2)
    | none =>
      let q := prodVal p.1.2 p.2
      if q.isFinite then (q :: acc.1, acc.2) else (acc.1, true)) ([], false)

/-- The A operand's elements by row, each with its value, none where it was decoded as +0: the code read, and the value
of +0 in its block. -/
def aRows (p : Pair) (bs : Bool) (bytes : Array Byte) : List (List (Option FVal × FVal)) :=
  let t := descTag p.da
  let k := tileK t
  let codes : Array (Option Nat) := match p.expA with
    | none => ((List.range (16 * k)).map fun e => some (elemAt (tagBits t) bytes e)).toArray
    | some stored => (stored.zipIdx).foldl (fun (a : Array (Option Nat)) x =>
        a.setIfInBounds x.1 (some (elemAt (tagBits t) bytes x.2))) (Array.replicate (16 * k) none)
  (List.range 16).map fun i => (List.range k).map fun j =>
    match codes.getD (k * i + j) none with
    | some v => (some (tileVal p.da bs j v), tileVal p.da bs j 0)
    | none => if p.dense then (some (tileVal p.da bs j 0), tileVal p.da bs j 0) else (none, tileVal p.da bs j 0)

/-- The B operand's columns (Table 6-3). -/
def bCols (p : Pair) (bs tr : Bool) (bytes : Array Byte) : List (List FVal) :=
  let t := descTag p.db
  let k := tileK t
  (List.range 16).map fun j => (List.range k).map fun i =>
    tileVal p.db bs i (elemAt (tagBits t) bytes (if tr then k * j + i else 16 * i + j))

/-- The integer elements of both operands. -/
def intElem (t : Tag) (code : Nat) : Int := (IntTy.mk (tagBits t) true).decode code

/-- A k-step of the integer tags, modulo 2^32 (R151). -/
def intStep (p : Pair) (tr : Bool) (a b : Array Byte) (i j acc : Nat) : Nat :=
  let t := descTag p.da
  let k := tileK t
  let codeA (e : Nat) : Nat := match p.expA with
    | none => elemAt (tagBits t) a e
    | some stored => match stored.findIdx? (· == e) with | some c => elemAt (tagBits t) a c | none => 0
  let sum := (List.range k).foldl (fun v x =>
    v + intElem t (codeA (k * i + x)) * intElem t (elemAt (tagBits t) b (if tr then k * j + x else 16 * x + j))) (0 : Int)
  ((acc : Int) + sum) % 2 ^ 32 |>.toNat

/-- A pair's contribution to an accumulator, element by element in rising index. -/
def State.contribute (s : State) (p : Pair) (bsA bsB tr : Bool) (a b : List Byte) (acc : List (BitVec 32)) :
    List (BitVec 32) × State :=
  let aa := a.toArray
  let ba := b.toArray
  if (tagFmt (descTag p.da)).isNone then
    (acc.zipIdx.map fun x => BitVec.ofNat 32 (intStep p tr aa ba (x.2 / 16) (x.2 % 16) x.1.toNat), s)
  else
    let rows := (aRows p bsA aa).toArray
    let cols := (bCols p bsB tr ba).toArray
    let r := acc.zipIdx.foldl (fun (r : List (BitVec 32) × State) x =>
      let (ps, open_) := elemProducts (rows.getD (x.2 / 16) []) (cols.getD (x.2 % 16) [])
      let (i, s1) := if open_ then r.2.choose 2 else (1, r.2)
      (BitVec.ofNat 32 (if i = 0 then Fmt.f32.nanCode else kStep x.1.toNat ps) :: r.1, s1)) ([], s)
    (r.1.reverse, r.2)

/-- The tiles of a pair popped (R159). -/
def Core.popPair (c : Core) (qa qb : Nat) : Core :=
  let pop (c : Core) (q : Nat) : Core :=
    match SMap.find c.rings q with
    | some r => { c with rings := SMap.set c.rings q { r with head := (r.head + 1) % r.depth, count := r.count - 1 } }
    | none => c
  pop (pop c qa) qb

/-- Bytes of the A slot that a pair reads: all of it, or those of the stored elements of a compressed tile (R173). -/
def Pair.bytesA (p : Pair) : Nat :=
  match p.expA with
  | none => 512
  | some l => (l.length * tagBits (descTag p.da) + 7) / 8

/-- TILE_PAIR_RETIRE: the contribution is added and the tiles are popped; each word of a tile was read between the pair's
start and now (R160). An error in a tile, a descriptor or a skip list poisons the accumulator, whose elements are then free
(R165, R181; DESIGN CHOICE, log entry 3). -/
def execTilePairRetire (core : Nat) (s : State) : Host.Outcome State Fault Refusal :=
  .next (match (s.core core).pairCmd with
    | none => s
    | some k =>
      match k.kind.pairs, k.pair with
      | some (qa, qb, acc, ss), some p =>
        if s.cycle < p.due then s
        else
          let c := s.core core
          let (ta, tb, _, _) := c.pairAt qa qb
          let bad := p.poison || !(c.engineBad k.id 0 ta p.bytesA).isEmpty || !(c.engineBad k.id 0 tb 512).isEmpty
          let bsOf (q : Nat) : Bool := ((SMap.find c.rings q).map (·.bs)).getD false
          let tr : Bool := match k.kind with | .mma t .. => t | _ => false
          let (elems, s1) : List (BitVec 32) × State :=
            if bad || c.accBad.contains acc then
              ((List.range 256).map fun i => Config.freeElem (s.free + i), { s with free := s.free + 256 })
            else
              s.contribute p (bsOf qa) (bsOf qb) tr (c.engineBytes k.id 0 ta 512) (c.engineBytes k.id 0 tb 512) (c.acc acc)
          let s2 := s1.onCore core fun c =>
            let c1 := (c.popPair qa qb).forgetUse k.id fun x => x.use == 0
            { c1 with
              accs := SMap.set c1.accs acc elems
              accBad := if bad then insertNat c1.accBad acc else c1.accBad
              skips := (match ss, p.skip with | some i, some st => SMap.set c1.skips i st | _, _ => c1.skips) }
          let k' : TileCmd := { k with pair := none, left := k.left - 1, err := k.err || bad }
          if k'.left = 0 then s2.endTile core k' else s2.onCore core fun c => c.onTile k.id fun _ => k'
      | _, _ => s)

/-! ## Grouped rows (R187-R192) -/

/-- How a row ends. -/
inductive Row where
  | done (result words : Nat)
  | poison
  | fault (code : Nat)
  deriving DecidableEq, Repr

/-- The groups of a row of an MMG: the exact sums of their activations (XA320) with their values, from word `i` on, with
`d` groups still to close; `cur` is the open group. A group without positions is not listed: it contributes nothing. -/
def Core.rowGroups (c : Core) (cmd rec_ words l act : Nat) (af : Fmt) (ab : Nat) (vf : Fmt) :
    Nat → Nat → Nat → Option (Nat × XA × Bool) → List (Nat × XA) → Except Row (List (Nat × XA))
  | 0, _, _, _, _ => .error (.fault 0x07)
  | fuel + 1, i, d, cur, out =>
    if words ≤ i then .error (.fault 0x07)
    else if !(c.engineBad cmd 0 (rec_ + 2 * i) 2).isEmpty then .error .poison
    else
      let w := natOf (c.engineBytes cmd 0 (rec_ + 2 * i) 2)
      match cur with
      | none =>
        if vf = .e4m3 ∧ 256 ≤ w then .error (.fault 0x07)
        else c.rowGroups cmd rec_ words l act af ab vf fuel (i + 1) d (some (w, XA.zero, false)) out
      | some (v, x, any_) =>
        if w = 0xFFFF then
          let out' := if any_ then out ++ [(v, x)] else out
          if d = 1 then (if i + 1 = words then .ok out' else .error (.fault 0x07))
          else c.rowGroups cmd rec_ words l act af ab vf fuel (i + 1) (d - 1) none out'
        else if l ≤ w then .error (.fault 0x0E)
        else if !(c.engineBad cmd (rec_ + 2 * i) (act + w * ab) ab).isEmpty then .error .poison
        else
          let a := af.decode (natOf (c.engineBytes cmd (rec_ + 2 * i) (act + w * ab) ab))
          c.rowGroups cmd rec_ words l act af ab vf fuel (i + 1) d (some (v, x.add a, true)) out

/-- The rounded total of a row (R189). -/
def rowTotal (val : Nat → FVal) (gs : List (Nat × XA)) : Nat :=
  let ts := gs.map fun g => (val g.1, g.2.value)
  let inf (p : FVal × FVal) : Bool := p.1.isInf || p.2.isInf
  if ts.any fun p => p.1.isNan || p.2.isNan || (p.2.isInf && p.1.isZero) then Fmt.f32.nanCode
  else
    let pos := ts.any fun p => inf p && (p.1.neg == p.2.neg)
    let neg := ts.any fun p => inf p && (p.1.neg != p.2.neg)
    if pos && neg then Fmt.f32.nanCode
    else if pos || neg then Fmt.f32.code neg (Fmt.f32.infCode.getD Fmt.f32.maxCode)
    else
      let sum := exactSum (ts.filterMap fun p => match p with | (.num x, .num y) => some (x.mul y) | _ => none)
      (deliver .f32 .rne false (.num (if sum.m = 0 then ⟨false, 0, 0⟩ else sum))).1

/-- A row parsed and computed (R189, R190). DEDUCED, log entry 38. -/
def State.mmgRow (s : State) (core : Nat) (k : TileCmd) (val : MmgVal) (act : MmgAct) : Row :=
  let c := s.core core
  let a := k.recAt
  if s.inScratch a 4 = false then .fault 0x05
  else if !(c.engineBad k.id 0 a 4).isEmpty then .poison
  else
    let words := natOf (c.engineBytes k.id 0 a 2)
    let w1 := natOf (c.engineBytes k.id 0 (a + 2) 2)
    let d := w1 % 256
    let scale := w1 / 256
    if d = 0 ∨ words < 2 then .fault 0x07
    else if 64 < d then .fault 0x0D
    else if s.inScratch a (2 * words) = false then .fault 0x05
    else
      let vf : Fmt := match val with | .bf16 => .bf16 | .e4m3 => .e4m3
      let value (w : Nat) : FVal :=
        match val with
        | .bf16 => Fmt.bf16.decode w
        | .e4m3 => if scale = 255 then .nan false else (Fmt.e4m3.decode w).scale ((scale : Int) - 127)
      match c.rowGroups k.id a words (k.arg 3) (k.arg 2) (actFmt act) (actBytes act) vf (words + 1) 2 d none [] with
      | .error r => r
      | .ok gs => .done (rowTotal value gs) words

/-- What was read ahead of a row for a command has been used: the words of its record below `next`, which the record after
it does not share, and the activations that they name (R191, R192). -/
def Core.forgetRow (c : Core) (cmd next : Nat) : Core :=
  c.forgetUse cmd fun x => if x.use = 0 then decide (x.addr + x.bytes.length ≤ next) else decide (x.use < next)

/-- MMG_ROW_COMPLETE: a row's result is written, or the row stops the command; a started MMG of a suspended region finishes
its current row and is an unstarted command again (R189-R192). -/
def execMmgRowComplete (core : Nat) (s : State) : Host.Outcome State Fault Refusal :=
  .next (match (s.core core).mmgCmd with
    | none => s
    | some k =>
      match k.kind with
      | .mmg val act =>
        let at_ := k.arg 4 + 4 * k.row
        match s.mmgRow core k val act with
        | .fault code => s.failTile core k code k.recAt
        | .poison =>
          let (bs, s1) := s.freeBytes 4
          (s1.onCore core fun c => c.put at_ bs (List.range 4)).endTile core { k with err := true }
        | .done r words =>
          let s1 := s.onCore core fun c => (c.put at_ (bytesOf 4 r) []).forgetRow k.id (k.recAt + 2 * words)
          let k' : TileCmd :=
            { k with left := k.left - 1, row := k.row + 1, recAt := k.recAt + 2 * words
                     started := !s.setAside k.org.region || k.left == 1 }
          if k'.left = 0 then s1.endTile core k' else s1.onCore core fun c => c.onTile k.id fun _ => k'
      | _ => s)

/-! ## Units read and written ahead (R160, R168, R182, R192) -/

/-- The unit that a tile command may read for a use at an address ahead of the step that uses it: a word of a tile of the
pair in hand, a word of a started ACCLD's image, and, from the time it is queued, a nibble of an MMAS's skip list that is not
yet decoded, or a word of an MMG's records and activations. -/
def Core.tileUnit (c : Core) (k : TileCmd) (use addr : Nat) : Option Nat :=
  let word (a n : Nat) : Option Nat := if use = 0 ∧ addr % 4 = 0 ∧ a ≤ addr ∧ addr < a + n then some 4 else none
  let free (unit : Nat) : Option Nat := if addr % unit = 0 ∧ addr < localEnd then some unit else none
  let tile (qa qb : Nat) : Option Nat :=
    if k.pair.isNone then none
    else
      let (ta, tb, _, _) := c.pairAt qa qb
      match word ta 512 with
      | some u => some u
      | none => word tb 512
  match k.kind with
  | .mma _ qb qa _ => tile qa qb
  | .mmas _ qb qa _ => if use = 1 ∨ use = 2 then free 1 else tile qa qb
  | .accld _ => if k.busy then word (k.arg 0) 1024 else none
  | .mmg .. => free 4
  | .rcfg _ | .accz _ | .accst .. | .sscfg _ | .fenceq => none

/-- May the operands of a queued command be read: it has started, or neither a barrier of its threadlet (R221) nor a FENCEQ.TC
before it that is not set aside (R229) keeps it waiting? -/
def State.mayRead (s : State) (core : Nat) (k : TileCmd) : Bool :=
  let c := s.core core
  k.started || !(c.mustWait k.org.tid k.seq ||
    (c.tileq.takeWhile (·.id != k.id)).any fun x =>
      x.kind == .fenceq && !x.done && (x.org.region == k.org.region || !s.setAside x.org.region))

/-- A tile engine reads a unit for a command of its queue ahead of the step that uses it. -/
def State.tileAhead (s : State) (core cmd addr use : Nat) : State :=
  match (s.core core).tileq.find? fun k => k.id == cmd && !k.done with
  | none => s
  | some k =>
    match (s.core core).tileUnit k use addr with
    | none => s
    | some u => if s.mayRead core k then s.onCore core fun c => c.readAhead cmd use addr u else s

/-- A tile engine writes an aligned 4-byte word of an ACCST's image ahead of the rest. -/
def State.storeAhead (s : State) (core addr : Nat) : State :=
  match (s.core core).transferCmd with
  | none => s
  | some k =>
    match k.kind with
    | .accst sc sat rm tag a =>
      let (bs, bad, s1) := s.accImage core k sc sat rm tag a
      s1.onCore core fun c => c.layAhead ⟨core, k.id, 0, k.arg 0, addr, 0⟩ 4 bs bad
    | _ => s

/-- An engine reads a unit of local memory for a command of its queue ahead (R160, R216). -/
def State.readAhead (s : State) (core cmd addr use : Nat) : State :=
  if (s.core core).copyq.any (·.id == cmd) then s.copyAhead core cmd addr else s.tileAhead core cmd addr use

end Sys2Proof.Machine
end

