-- ==== Sys2Proof/Machine/Launch.lean ====
section
/-! DEFINITION. Events of the front ends: host queues, their entries, and triggers (R59, R60, R224, R272-R287). -/

namespace Sys2Proof.Machine

open Sys2Proof

/-! ## Places a front end reaches (R273, R279) -/

/-- A front end. -/
def State.fe (s : State) (b : Nat) : FrontEnd := SMap.get s.fes b FrontEnd.init

/-- A front end changed. -/
def State.onFe (s : State) (b : Nat) (f : FrontEnd → FrontEnd) : State := { s with fes := SMap.set s.fes b (f (s.fe b)) }

/-- A queue. -/
def State.queue (s : State) (q : Nat) : Queue := SMap.get s.queues q Queue.init

/-- A queue changed. -/
def State.onQueue (s : State) (q : Nat) (f : Queue → Queue) : State :=
  { s with queues := SMap.set s.queues q (f (s.queue q)) }

/-- Bytes read by a front end, with their poison: host memory, or a device read at its home slice.
DEDUCED, log entry 27. -/
def State.feRead (s : State) (host : Bool) (a n : Nat) : List Byte × Bool × State :=
  if host then (Cells.read s.hostMem a n, !(s.hostBad a n).isEmpty, s)
  else
    let (bs, bad, s1) := s.fetch a n
    (bs, !bad.isEmpty, s1)

/-- Bytes written by a front end: to host memory, or a device write at their home slice. -/
def State.feWrite (s : State) (host : Bool) (a : Nat) (bs : List Byte) : State :=
  if host then s.writeHost a (bs.map some) [] else s.store a bs

/-! ## Queue tables (Tables 12-1 and 12-3) -/

/-- The front end that serves a queue (R272). -/
def queueFe (q : Nat) : Nat := q / 16384

/-- The address of a queue's table entry (R272). -/
def State.tableAt (s : State) (q : Nat) : Nat := s.queueTables.getD (queueFe q) 0 + 64 * (q % 16384)

/-- REGION of a queue. -/
def Queue.region (x : Queue) : Nat := field (wordAt x.entry 3) 63 48

/-- 2^S: entries of a queue's ring. -/
def Queue.size (x : Queue) : Nat := 2 ^ field (wordAt x.entry 3) 28 24

/-- Entries between HEAD and TAIL. -/
def Queue.pending (x : Queue) : Nat := (x.tail + (2 ^ 32 - x.head)) % 2 ^ 32

/-- Is there an entry to fetch (R275, R278, R279)? -/
def Queue.waiting (x : Queue) : Bool := x.state == 1 && !x.busy && x.pending != 0

/-- The error word written, where the queue has one (Table 12-3). -/
def State.writeErrw (s : State) (q : Nat) : State :=
  let x := s.queue q
  let w := wordAt x.entry 5
  if placeOf w = 0 then s else s.feWrite (isHost w) (placeOf w) (bytesOf 8 x.errw.toNat)

/-- A queue marked broken: its table entry, its error word, and the event of the log (R275). -/
def State.breakQueue (s : State) (q : Nat) : State :=
  let s1 := s.onQueue q fun x => { x with state := 2, errw := x.errw ||| 1 }
  let at_ := s.tableAt q + 24
  let w := s1.peek64 at_
  let s2 := (s1.store at_ (bytesOf 8 ((w &&& ~~~ (place 3 0)) ||| place 2 0).toNat)).writeErrw q
  { s2 with service := { s2.service with log := s2.service.log ++ [.brokenQueue q] } }

/-- TAIL_NOTIFICATION: after a host's store to the tail line the tail word is read again; a tail too far ahead breaks the
queue (R274, R275). -/
def execTailNotification (q : Nat) (s : State) : Host.Outcome State Fault Refusal :=
  let x := s.queue q
  .next (if x.state ≠ 1 ∨ x.noticed = false then s
    else
      let w := wordAt x.entry 1
      let (bs, _, s1) := (s.onQueue q fun x => { x with noticed := false }).feRead (isHost w) (placeOf w) 4
      let tail := natOf bs
      if x.size < (tail + (2 ^ 32 - x.head)) % 2 ^ 32 then s1.breakQueue q else s1.onQueue q fun x => { x with tail := tail })

/-! ## Faulted entries (R280, Table 12-3) -/

/-- An entry is faulted: the error word, where it came from a queue, and the record of its region's domain. -/
def State.entryFault (s : State) (fe : Nat) (src : EntrySrc) (region code addr : Nat) (detail : Word) : State :=
  let s1 := match src with
    | .queue q idx => (s.onQueue q fun x =>
        { x with errw := place idx 32 ||| place code 8 ||| place (bitOf (x.state == 2)) 0 }).writeErrw q
    | .trigger _ => s
  s1.sendRecord region { Rec.plain code 4 region (.frontEnd fe) with addr := addr, detail := detail }

/-- KIND of an entry. -/
def kindOf (ws : List Word) : Nat := field (wordAt ws 0) 7 0

/-- Is some reserved field of an entry nonzero, or its KIND reserved (Table 12-2)? -/
def badEntry (ws : List Word) : Bool :=
  let w := wordAt ws
  let w0 := field (w 0) 63 16
  let zero (l : List Nat) : Bool := l.all fun i => w i == 0
  let place_ (x : Word) : Bool := field x 62 56 == 0
  field (w 0) 15 8 != 0 ||
  match kindOf ws with
  | 0 => decide (2 ^ 28 ≤ w0)
  | 1 => w0 != 0 || !(place_ (w 3)) || field (w 3) 5 0 != 0 || !(zero [4, 5, 6, 7])
  | 2 => decide (5 ≤ w0) || !(zero [3, 4, 5, 6, 7])
  | 3 => w0 != 0 || !(place_ (w 2)) || field (w 2) 2 0 != 0 || !(zero [4, 5, 6, 7])
  | _ => true

/-- A device address of an entry lies in HBM4 or the reservoir, or names host memory. -/
def State.entryPlaceOk (s : State) (w : Word) (n : Nat) : Bool := isHost w || s.inDram (placeOf w) n

/-- The fault of an entry as it is parsed and authorised, if any; `perm` is its PERM bit (R276, R277, R279, R280). -/
def State.entryCheck (s : State) (ws : List Word) (region : Nat) (perm : Bool) : Option Nat :=
  if badEntry ws then some 0x15
  else if !perm then some 0x02
  else if (s.region region).isNone then some 0x09
  else
    match kindOf ws with
    | 1 =>
      if !((Ref.of (wordAt ws 1)).t) || !(s.refOk (wordAt ws 1)) then some 0x09
      else if field (wordAt ws 2) 63 24 ≠ 0 then some 0x07
      else if s.entryPlaceOk (wordAt ws 3) 64 then none else some 0x05
    | 3 =>
      if wordAt ws 2 ≠ 0 ∧ s.entryPlaceOk (wordAt ws 2) 8 = false then some 0x05
      else if wordAt ws 1 ≠ 0 ∧ s.refOk (wordAt ws 1) = false then some 0x09
      else none
    | _ => none

/-! ## Fetching (R275, R281) -/

/-- The queue of a front end that is served next, round-robin. -/
def State.nextQueue (s : State) (fe : Nat) : Option Nat :=
  let ready := (s.queues.filter fun e => queueFe e.1 == fe && e.2.waiting).map (·.1)
  match ready.find? fun q => decide ((s.fe fe).last < q) with
  | some q => some q
  | none => ready.head?

/-- HEAD written back when it reaches TAIL and at least every 64 fetches (R275). DEDUCED, log entry 41. -/
def State.headBack (s : State) (q : Nat) : State :=
  let x := s.queue q
  let w := wordAt x.entry 2
  if x.pending = 0 ∨ 64 ≤ x.unwritten then
    let s1 := s.onQueue q fun x => { x with unwritten := 0 }
    if placeOf w = 0 then s1 else s1.feWrite (isHost w) (placeOf w) (bytesOf 8 x.head)
  else s

/-- QUEUE_ENTRY_FETCH: the next entry is read, HEAD advances, and the entry is parsed and authorised. -/
def execQueueEntryFetch (q : Nat) (s : State) : Host.Outcome State Fault Refusal :=
  let fe := queueFe q
  let x := s.queue q
  .next (if s.nextQueue fe ≠ some q then s
    else
      let w := wordAt x.entry 0
      let at_ := placeOf w + x.head % x.size * 64
      let (bs, bad, s1) := s.feRead (isHost w) at_ 64
      let ws := wordsOfBytes 8 bs
      let kind := kindOf ws
      let head := (x.head + 1) % 2 ^ 32
      let s2 := (s1.onQueue q fun x => { x with head := head, unwritten := x.unwritten + 1 }).onFe fe fun f =>
        { f with last := q }
      let s3 := (s2.store (s.tableAt q + 32) (bytesOf 8 head)).headBack q
      if bad then s3.entryFault fe (.queue q x.head) x.region 0x14 at_ 0
      else
        match s3.entryCheck ws x.region (bitAt (wordAt x.entry 3) (32 + kind)) with
        | some code => s3.entryFault fe (.queue q x.head) x.region code at_ 0
        | none =>
          let s4 := s3.onFe fe fun f => { f with pend := f.pend ++ [⟨.queue q x.head, x.region, ws, false⟩] }
          if kind = 2 ∨ kind = 3 then s4.onQueue q fun x => { x with busy := true } else s4)

/-! ## Entries in hand -/

/-- The host queue of an entry. -/
def FeEntry.queue (e : FeEntry) : Option Nat := match e.src with | .queue q _ => some q | .trigger _ => none

/-- An entry in hand at a place, when no earlier one of its queue stands before it. -/
def State.entry (s : State) (fe i : Nat) : Option FeEntry :=
  match (s.fe fe).pend[i]? with
  | none => none
  | some e =>
    if e.queue.isSome && ((s.fe fe).pend.take i).any (fun x => x.queue == e.queue) then none else some e

/-- An entry that has been dealt with. -/
def State.dropEntry (s : State) (fe i : Nat) : State := s.onFe fe fun f => { f with pend := dropAt f.pend i }

/-- An active-message entry performed: hashed and sent to the owning core (R59, R277). -/
def State.messageEntry (s : State) (fe : Nat) (e : FeEntry) : State :=
  match s.ownerOf (.frontEnd fe) e.region (wordAt e.words 1) with
  | (some n, s1) =>
    s1.send ⟨.sig, .frontEnd fe, .core n, e.region,
      .amsg (field (wordAt e.words 0) 43 16) (wordAt e.words 1) ((e.words.drop 2).take 6) e.queue⟩
  | (none, s1) => s1.entryFault fe e.src e.region 0x09 0 0

/-- ACTIVE_MESSAGE_ENTRY. -/
def execActiveMessageEntry (fe idx : Nat) (s : State) : Host.Outcome State Fault Refusal :=
  .next (match s.entry fe idx with
    | none => s
    | some e => if kindOf e.words ≠ 0 then s else (s.dropEntry fe idx).messageEntry fe e)

/-! ## Triggers (R284-R287) -/

/-- A trigger of a front end. -/
def State.trigger (s : State) (fe t : Nat) : Trigger := SMap.get (s.fe fe).trig t Trigger.init

/-- A trigger replaced. -/
def State.setTrigger (s : State) (fe t : Nat) (x : Trigger) : State :=
  s.onFe fe fun f => { f with trig := SMap.set f.trig t x }

/-- A trigger disarmed because it fires, and counted as progress (R287, R296). -/
def State.disarmTrigger (s : State) (fe t : Nat) : State :=
  let x := s.trigger fe t
  (s.setTrigger fe t { x with armed := false, count := 0 }).progress x.region

/-- The entry that a firing trigger's command is (R287). -/
def Trigger.entry (x : Trigger) (t : Nat) : FeEntry := ⟨.trigger t, x.region, x.cmd, false⟩

/-- The fault of a firing trigger's command, if any: kinds 2 and 3 are faulted (R280, R287). -/
def State.commandFault (s : State) (x : Trigger) : Option Nat := s.entryCheck x.cmd x.region (decide (kindOf x.cmd < 2))

/-- A trigger that the command of another fires at its arming: its own command waits for a turn of its own, since such
firings could go on without end. DEDUCED, log entry 40. -/
def State.fireNested (s : State) (fe t : Nat) : State :=
  let x := s.trigger fe t
  let s1 := s.disarmTrigger fe t
  match s1.commandFault x with
  | some code => s1.entryFault fe (.trigger t) x.region code 0 (place x.thresh 0)
  | none => s1.onFe fe fun f => { f with pend := f.pend ++ [x.entry t] }

/-- Arming, or the fault that refuses it; a threshold of 0 fires the trigger, by `fire` (R286). -/
def State.armWith (fire : State → Nat → Nat → State) (s : State) (fe t region thresh : Nat) (cmd : List Word) :
    Except Nat State :=
  let x := s.trigger fe t
  if 2 ^ 24 ≤ thresh then .error 0x07
  else if x.armed && s.tenantOf x.region != s.tenantOf region then .error 0x09
  else
    let s1 := s.setTrigger fe t
      { armed := true, region := region, count := thresh, thresh := thresh, cmd := padWords 8 cmd }
    .ok (if thresh = 0 then fire s1 fe t else s1)

/-- A trigger-arm entry performed: the 64-byte command is read and the trigger armed, in this module or by a packet to
another. -/
def State.armEntry (fire : State → Nat → Nat → State) (s : State) (fe : Nat) (e : FeEntry) : State :=
  let ref := Ref.of (wordAt e.words 1)
  let thresh := (wordAt e.words 2).toNat
  let w := wordAt e.words 3
  let (bs, bad, s1) := s.feRead (isHost w) (placeOf w) 64
  if bad then s1.entryFault fe e.src e.region 0x14 (placeOf w) 0
  else if ref.module = s.brielo.number then
    match s1.armWith fire ref.frontEnd ref.slot e.region thresh (wordsOfBytes 8 bs) with
    | .ok s2 => s2
    | .error code => s1.entryFault fe e.src e.region code 0 0
  else
    let org : Origin :=
      { tid := 0, fid := 0, slot := 0, region := e.region, priv := false, block := 0, index := 0, iter := none }
    s1.send ⟨.sig, .frontEnd fe, .peer ref.module, e.region, .arm (wordAt e.words 1) thresh (wordsOfBytes 8 bs) org
      e.queue⟩

/-- TRIGGER_FIRE: the trigger is disarmed and its command performed in the same step, as an entry of its region (R287). -/
def State.fireTrigger (s : State) (fe t : Nat) : State :=
  let x := s.trigger fe t
  let s1 := s.disarmTrigger fe t
  match s1.commandFault x with
  | some code => s1.entryFault fe (.trigger t) x.region code 0 (place x.thresh 0)
  | none => if kindOf x.cmd = 0 then s1.messageEntry fe (x.entry t) else s1.armEntry State.fireNested fe (x.entry t)

/-- Arming of a trigger, or the fault that refuses it (R286). -/
def State.armTrigger (s : State) (fe t region thresh : Nat) (cmd : List Word) : Except Nat State :=
  s.armWith State.fireTrigger fe t region thresh cmd

/-- TRIGGER_ARM_ENTRY. -/
def execTriggerArmEntry (fe idx : Nat) (s : State) : Host.Outcome State Fault Refusal :=
  .next (match s.entry fe idx with
    | none => s
    | some e => if kindOf e.words ≠ 1 then s else (s.dropEntry fe idx).armEntry State.fireTrigger fe e)

/-- TRIGGER_ARMING: an ARM arrives at its front end; a refusal is reported to the issuer's domain (R286, R336). -/
def execTriggerArming (pkt : Nat) (s : State) : Host.Outcome State Fault Refusal :=
  .next (match s.packet pkt with
    | none => s
    | some p =>
      match p.dst, p.body with
      | .frontEnd b, .arm ref thresh cmd org _ =>
        match (s.drop pkt).armTrigger b (Ref.of ref).slot p.region thresh cmd with
        | .ok t => t
        | .error code => (s.drop pkt).sendRecord org.region (Rec.of code 4 (.frontEnd b) org 0 0)
      | _, _ => s)

/-- TRIGGER_SIGNAL (R287); a fault's DETAIL reports THRESH (Table 12-5). -/
def execTriggerSignal (pkt : Nat) (s : State) : Host.Outcome State Fault Refusal :=
  .next (match s.packet pkt with
    | none => s
    | some p =>
      match p.dst, p.body with
      | .frontEnd b, .signal ref dec _ _ _ =>
        let t := (Ref.of ref).slot
        let x := s.trigger b t
        let s1 := s.drop pkt
        let fail (code : Nat) : State :=
          s1.sendRecord p.region { Rec.plain code 4 p.region (.frontEnd b) with slot := t, detail := place x.thresh 0 }
        if x.region ≠ 0 ∧ s.tenantOf p.region ≠ s.tenantOf x.region then fail 0x09
        else if x.armed = false ∨ x.count < dec then fail 0x08
        else
          let s2 := s1.setTrigger b t { x with count := x.count - dec }
          if x.count = dec then s2.fireTrigger b t else s2
      | _, _ => s)

/-! ## Region control and fences (R278, R279) -/

/-- Does a region lie at or below another? -/
def State.within (s : State) (r top : Nat) : Bool := (s.ancestry 8 r).contains top

/-- REGION_CONTROL_ENTRY: the target, or for ACT its PARENT, is the queue's region or one of its descendants, and the
operation goes to the service core, with the authority of the queue's region (R379; DEDUCED, log entry 43); any other target
is refused as privileged (R278, R280). -/
def execRegionControlEntry (fe idx : Nat) (s : State) : Host.Outcome State Fault Refusal :=
  .next (match s.entry fe idx with
    | none => s
    | some e =>
      match kindOf e.words, e.src with
      | 2, .queue q i =>
        let op := field (wordAt e.words 0) 18 16
        let rcb := wordAt e.words 1
        let s1 := s.dropEntry fe idx
        let named := if op = 0 then (s.peek64 rcb.toNat).toNat else rcb.toNat
        if (s.regionOfRcb named).any fun r => s.within r e.region then
          { s1 with service := { s1.service with ops :=
              s1.service.ops ++ [⟨op, rcb, wordAt e.words 2, 0, e.region, some (q, i), 0, []⟩] } }
        else (s1.onQueue q fun x => { x with busy := false }).entryFault fe e.src e.region 0x02 0 0
      | _, _ => s)

/-- Does a packet carry a message or an arming of a queue? -/
def Packet.ofQueue (p : Packet) (q : Nat) : Bool :=
  match p.body with
  | .amsg _ _ _ (some x) => x == q
  | .arm _ _ _ _ (some x) => x == q
  | _ => false

/-- Is some earlier entry of a queue not delivered: a message on its way, held by its core, or waiting in a segment for a
frame, its ready entry not pushed; or an arming that has not reached its module (R279)? DEDUCED, log entry 42. -/
def State.undelivered (s : State) (q : Nat) : Bool :=
  (s.net ++ s.brielo.waiting).any (·.ofQueue q)
    || s.cores.any fun c => c.2.waitq.any (·.2 == some q) || c.2.blockedMsg.any (·.ofQueue q)

/-- QUEUE_FENCE: once every earlier entry of the queue is delivered, the write and, after it, the release signal. Whether
the host refuses a write to its memory is the host's (DESIGN CHOICE, log entry 4). -/
def execQueueFence (fe idx : Nat) (s : State) : Host.Outcome State Fault Refusal :=
  .next (match s.entry fe idx with
    | none => s
    | some e =>
      match kindOf e.words, e.src with
      | 3, .queue q _ =>
        let w := wordAt e.words 2
        let ref := wordAt e.words 1
        let done (s : State) : State := (s.dropEntry fe idx).onQueue q fun x => { x with busy := false }
        if s.undelivered q then s
        else if w ≠ 0 ∧ e.wrote = false then
          let (i, s1) := if isHost w then s.choose 2 else (0, s)
          if i = 0 then
            let s2 := s1.feWrite (isHost w) (placeOf w) (bytesOf 8 (wordAt e.words 3).toNat)
            s2.onFe fe fun f => { f with pend := setAt f.pend idx { e with wrote := true } }
          else (done s1).entryFault fe e.src e.region 0x05 (placeOf w) 0
        else if ref = 0 then done s
        else if s.routeOk (Ref.of ref).module then
          (done s).send ⟨.sig, .frontEnd fe, s.refAgent (Ref.of ref), e.region, .signal ref 1 .none true false⟩
        else (done s).entryFault fe e.src e.region 0x09 0 0
      | _, _ => s)

end Sys2Proof.Machine
end

