-- ==== Sys2Proof/Machine/Regions.lean ====
section
/-! DEFINITION. Region control at the service core, budgets, the progress monitor, and the housekeeping of the memory
controllers (R34-R38, R58, R64, R84, R142, R166, R195, R238-R240, R255, R261, R262, R278, R281, R291-R296, R307, R308,
R323, R378-R380). -/

namespace Sys2Proof

/-- Does R322 name a transition? -/
def Lifecycle.mayBecome : Lifecycle → Lifecycle → Bool
  | .manufacturing, .provisioned => true
  | .provisioned, .deployed => true
  | .deployed, .authorisedDebug => true
  | .authorisedDebug, .deployed => true
  | .decommissioned, _ => false
  | _, .decommissioned => true
  | _, _ => false

/-- The highest debug level a lifecycle state permits, as a value of DEBUG. -/
def Lifecycle.debug : Lifecycle → Nat
  | .manufacturing => 4
  | .provisioned => 2
  | .deployed => 3
  | .authorisedDebug => 4
  | .decommissioned => 1

end Sys2Proof

namespace Sys2Proof.Machine

open Sys2Proof

/-! ## Region control blocks (Tables 2-1 and 10-1) -/

/-- What RGNCTL reads of a region: its RCB, its core set, and the descriptors its bindings name. -/
structure RcbImage where
  ws    : List Word
  cores : BitVec 2048
  descs : List (List Word)
  deriving DecidableEq, Repr

/-- Word `i` of the block as a number. -/
def RcbImage.n (m : RcbImage) (i : Nat) : Nat := (wordAt m.ws i).toNat

/-- Bits of a word of the block. -/
def RcbImage.f (m : RcbImage) (i hi lo : Nat) : Nat := field (wordAt m.ws i) hi lo

/-- Does a range lie wholly in one kind of memory of Table 8-2, slice-scratch among them? -/
def State.inMap (s : State) (a n : Nat) : Bool := s.inDram a n || decide (winBase ≤ a ∧ a + n ≤ winEnd)

/-- May an RCB stand at an address: a multiple of 256 within Table 8-2 (R380)? -/
def State.rcbOk (s : State) (a : Nat) : Bool :=
  a % 256 == 0 && s.inMap a 256

/-- Words read at their home slice, none of them where the range is no memory. -/
def State.readTable (s : State) (a n : Nat) : List Word × State :=
  if s.inMap a (8 * n) then s.readWords a n else ([], s)

/-- An RCB read with what it names. -/
def State.readRcb (s : State) (a : Nat) : RcbImage × State :=
  let (ws, s1) := s.readWords a 32
  let set := (wordAt ws 9).toNat
  let (cs, s2) := if set = 0 then ([], s1) else s1.readTable set 32
  let r := (List.range 8).foldl (fun (acc : List (List Word) × State) i =>
    let d := (wordAt ws (14 + i)).toNat
    if d ≤ 1 then (acc.1 ++ [[]], acc.2)
    else
      let (x, t) := acc.2.readTable d 8
      (acc.1 ++ [x], t)) ([], s2)
  ({ ws := ws, cores := BitVec.ofNat 2048 (natOf (bytesOfWords cs)), descs := r.1 }, r.2)

/-- The binding a descriptor describes. -/
def bindingOf (addr : Nat) (d : List Word) : Binding :=
  let w3 := wordAt d 3
  { desc := addr, base := field (wordAt d 0) 47 0, length := field (wordAt d 1) 47 0, logBase := field (wordAt d 2) 47 0,
    logMb := field w3 63 48, binLim := field w3 47 32, binW := field w3 11 8, oper := field w3 7 4, stream := field w3 2 0 }

/-- Reserved fields and values of a descriptor (STATUS 2). -/
def descReserved (d : List Word) : Bool :=
  let w := wordAt d
  field (w 0) 63 48 != 0 || field (w 1) 63 48 != 0 || field (w 2) 63 48 != 0 || field (w 3) 31 12 != 0 || bitAt (w 3) 3
    || [4, 5, 6, 7].any (fun i => w i != 0) || decide (8 < field (w 3) 11 8) || field (w 3) 63 48 == 0

/-- A binding that R239 refuses by itself (STATUS 9). -/
def State.bindingBad (s : State) (b : Binding) : Bool :=
  decide (14 ≤ b.oper) || b.base % 65536 != 0 || b.logBase % 65536 != 0 || b.length == 0 || b.length % 65536 != 0
    || !(s.inDram b.base b.length) || !(inHbm b.logBase (b.logMb * 1048576))

/-- Do two ranges meet? -/
def rangesMeet (a n b m : Nat) : Bool := decide (a < b + m ∧ b < a + n)

/-- Two active bindings that may not stand together (R239). -/
def bindingsClash (x y : Binding) : Bool :=
  let lx := x.logMb * 1048576
  let ly := y.logMb * 1048576
  rangesMeet x.base x.length y.base y.length || rangesMeet x.base x.length y.logBase ly
    || rangesMeet y.base y.length x.logBase lx || rangesMeet x.logBase lx y.logBase ly

/-- The allotment of a set of bindings (R240). -/
def allotOf (bs : SMap Binding) : Nat := if bs.isEmpty then 0 else bs.foldl (fun m b => max m b.2.binW) 1

/-- Is a set of bindings refused as a whole (R239)? -/
def State.bindingsBad (s : State) (bs : SMap Binding) : Bool :=
  let pairs := bs.flatMap fun x => bs.filterMap fun y => if x.1 < y.1 then some (x.2, y.2) else none
  decide (256 < bs.length) || bs.any (fun b => s.bindingBad b.2 || rangesMeet b.2.base b.2.length b.2.logBase
      (b.2.logMb * 1048576))
    || pairs.any (fun p => bindingsClash p.1 p.2)
    || s.slices.any fun e => decide (12 < max e.2.w ((e.2.conv.map (·.w)).getD 0) + allotOf bs)

/-! ## Effective values (R36) -/

/-- A field that takes its parent's effective value where it holds its inherit encoding. -/
def inherit (own inh parent : Nat) : Nat := if own = inh then parent else own

/-- RMODE's codes (Table 2-1). -/
def rmodeOfCode (n : Nat) : RMode :=
  match n with
  | 2 => .rtz | 3 => .rup | 4 => .rdn | 5 => .rna | _ => .rne

/-- A region without values. -/
def Region.blank : Region :=
  { rcb := 0, parent := 0, fstore := 0, rmode := .rne, debug := 0, prio := 0, rqw := 0, fquota := 0, spillcap := 0,
    spillbase := 0, cycbud := 0, tilebud := 0, copybud := 0, faultrcb := 0, faulth := 0, asid := 0, codebase := 0,
    coreset := 0, afftab := 0, affg := 0, affm := 1, rqovf := 0, ovs := 0, rqset := 0, flagw := 0, ubind := List.replicate 8 none,
    susp := false, win := 0, winStart := 0, winSusp := false, progress := 0, nextBud := none }

/-- The effective values of a region under its parent, bindings apart. -/
def RcbImage.effective (m : RcbImage) (rcb pid : Nat) (p : Region) : Region :=
  let n := m.n
  let f := m.f
  { Region.blank with
    rcb := rcb, parent := pid
    fstore := inherit (f 1 39 36) 0 p.fstore
    rmode := if f 1 35 32 = 0 then p.rmode else rmodeOfCode (f 1 35 32)
    debug := inherit (f 1 31 29) 0 p.debug
    prio := inherit (f 1 24 20) 31 p.prio
    rqw := inherit (f 1 15 0) 0 p.rqw
    fquota := inherit (f 2 63 48) 0 p.fquota
    spillcap := inherit (f 2 47 32) 0 p.spillcap
    spillbase := inherit (n 3) 0 p.spillbase
    cycbud := inherit (f 4 63 48) 0 p.cycbud
    tilebud := inherit (f 4 47 32) 0 p.tilebud
    copybud := inherit (f 4 31 0) 0 p.copybud
    faultrcb := inherit (n 5) 0 p.faultrcb
    faulth := if n 6 = 0 then p.faulth else wordAt m.ws 6
    asid := inherit (f 7 63 48) 0 p.asid
    codebase := inherit (n 8) 0 p.codebase
    coreset := if n 9 = 0 then p.coreset else m.cores
    afftab := inherit (n 10) 0 p.afftab
    affg := if n 10 = 0 then p.affg else f 11 20 16
    affm := if n 10 = 0 then p.affm else f 11 12 0
    rqovf := inherit (n 12) 0 p.rqovf
    ovs := if n 12 = 0 then p.ovs else f 11 27 24
    rqset := if n 12 = 0 then p.rqset else if n 9 = 0 then p.coreset else m.cores
    flagw := inherit (n 13) 0 p.flagw }

/-- Reserved fields and values of an RCB and of what it supplies itself, those that R36 ignores apart; `root` for the
device region, which holds no inherit encoding (STATUS 2). So is a CODEBASE or a SPILLBASE that is not aligned as Table 2-1
says. DEDUCED, log entry 43. -/
def State.rcbReserved (s : State) (m : RcbImage) (root : Bool) (g : Region) : Bool :=
  let n := m.n
  let f := m.f
  let bind (i : Nat) : Bool :=
    let d := n (14 + i)
    decide (1 < d) && (d % 64 != 0 || !(s.inMap d 64) || descReserved (m.descs.getD i []))
  f 1 47 40 != 0 || f 1 28 25 != 0 || f 1 19 16 != 0 || f 2 31 0 != 0 || f 7 47 0 != 0 || f 11 63 28 != 0
    || f 11 23 21 != 0 || f 11 15 13 != 0 || (List.range' 22 10).any (fun i => n i != 0)
    || f 1 63 48 == 0 || decide (12 < f 1 39 36) || decide (5 < f 1 35 32) || decide (4 < f 1 31 29)
    || decide (16 ≤ f 1 24 20 ∧ f 1 24 20 ≤ 30)
    || (n 12 != 0 && decide (11 < f 11 27 24))
    || (n 10 != 0 && (decide (f 11 20 16 < 7) || f 11 20 16 == 31 || f 11 12 0 == 0 || decide (4096 < f 11 12 0)))
    || (n 9 != 0 && !(s.inMap (n 9) 256)) || n 8 % 16 != 0 || n 3 % 4096 != 0
    || (List.range 8).any bind
    || (root && (f 1 39 36 == 0 || f 1 35 32 == 0 || f 1 31 29 == 0 || f 1 24 20 == 31 || f 1 15 0 == 0
        || f 2 63 48 == 0 || f 2 47 32 == 0 || n 3 == 0 || f 4 63 48 == 0 || f 4 47 32 == 0 || f 4 31 0 == 0
        || n 5 == 0 || f 7 63 48 == 0 || n 9 == 0 || n 10 == 0 || n 12 == 0
        || (List.range 8).any fun i => n (14 + i) == 0))
    || !(inHbm g.spillbase (coreCount * g.spillcap * 4096)) || !(s.inDram g.afftab (2 * g.affm))
    || g.rqovf % 4096 != 0
    || !(inHbm g.rqovf (coresBelow g.rqset coreCount * 128 * (g.segEntries + 1)))

/-! ## A change of regions planned, and what refuses it (R37, R195, R239, R291, R379, R380) -/

/-- The regions and bindings as they would stand. -/
structure Plan where
  regions  : SMap Region
  bindings : SMap Binding
  /-- statuses of the conditions that fail -/
  fails    : List Nat
  deriving DecidableEq, Repr

/-- The binding that position `i` of a block names itself. -/
def RcbImage.own (m : RcbImage) (i : Nat) : Option Binding :=
  if m.n (14 + i) ≤ 1 then none else some (bindingOf (m.n (14 + i)) (m.descs.getD i []))

/-- Own bindings of a region: those that its parent does not share. -/
def State.ownBindings (s : State) (r : Nat) : List Nat :=
  match s.region r with
  | none => []
  | some g =>
    let par := ((s.region g.parent).map (·.ubind)).getD (List.replicate 8 none)
    (g.ubind.zip par).filterMap fun x => if x.1 = x.2 then none else x.1

/-- A region's own bindings, `mine`, that its block no longer names leave the plan; their indexes are free again (R239,
R255). -/
def Plan.unbind (p : Plan) (m : RcbImage) (mine : List Nat) : Plan :=
  let keep (b : Nat) : Bool := (List.range 8).any fun i => (m.own i).isSome && m.own i == SMap.find p.bindings b
  { p with bindings := mine.foldl (fun bs b => if keep b then bs else SMap.del bs b) p.bindings }

/-- The effective bindings of a region: inherited, none, one of its own kept, or new ones with the lowest free index,
which is a BID of 8 bits unless the plan holds more than 256 (R239; which free index is taken is the model's choice, DESIGN
CHOICE, log entry 65). -/
def Plan.bind (p : Plan) (m : RcbImage) (mine : List Nat) (par : List (Option Nat)) :
    List (Option Nat) × SMap Binding :=
  (List.range 8).foldl (fun (acc : List (Option Nat) × SMap Binding) i =>
    match m.n (14 + i), m.own i with
    | 0, _ => (acc.1 ++ [par.getD i none], acc.2)
    | _, none => (acc.1 ++ [none], acc.2)
    | _, some x =>
      match mine.find? fun b => SMap.find acc.2 b == some x && !acc.1.contains (some b) with
      | some b => (acc.1 ++ [some b], acc.2)
      | none =>
        let b := (SMap.firstFree acc.2 0 (acc.2.length + 1)).getD 0
        (acc.1 ++ [some b], SMap.set acc.2 b x)) ([], p.bindings)

/-- The tenant a region has under a parent. -/
def State.tenantUnder (s : State) (id pid : Nat) : Nat :=
  if pid = 0 then 0 else if pid = 1 then id else s.tenantOf pid

/-- A region with the budgets that it has from the next period on (R292). -/
def Region.ahead (g : Region) : Region :=
  match g.nextBud with
  | some (a, b, c) => { g with cycbud := a, tilebud := b, copybud := c, nextBud := none }
  | none => g

/-- A region whose budgets are those of `now` until the next period starts (R292). -/
def Region.until_ (g now : Region) : Region :=
  { g with
    cycbud := now.cycbud, tilebud := now.tilebud, copybud := now.copybud
    nextBud := if (g.cycbud, g.tilebud, g.copybud) = (now.cycbud, now.tilebud, now.copybud) then none
      else some (g.cycbud, g.tilebud, g.copybud) }

/-- The highest DEBUG that a region may have: its parent's, or, for the device region, the lifecycle's (R37, R323). -/
def State.debugLimit (s : State) (pid : Nat) (par : Region) : Nat :=
  if pid = 0 then s.flash.lifecycle.debug else par.debug

/-- One region planned: its effective values and bindings under its parent as planned. `keep` is the region as it stands,
none at an activation. Budgets of an active region change at the next period, those that it inherits with them. -/
def State.planRegion (s : State) (p : Plan) (m : RcbImage) (id rcb pid : Nat) (keep : Option Region) : Plan :=
  let par := (SMap.find p.regions pid).getD Region.blank
  let g0 := m.effective rcb pid par.ahead
  let (ub, bs) := p.bind m (s.ownBindings id) par.ubind
  let g : Region := match keep with
    | none => { g0.until_ (m.effective rcb pid par) with ubind := ub }
    | some k =>
      { g0.until_ k with
        ubind := ub, susp := k.susp, win := k.win, winStart := k.winStart, winSusp := k.winSusp, progress := k.progress }
  let streams := (ub.filterMap id').filterMap fun b => (SMap.find bs b).map (·.stream)
  let frames := s.cores.any fun c => c.2.frames.any fun f => f.2.region == id
  let moved := match keep with
    | some k => (k.fstore, k.asid, k.codebase, k.spillbase) != (g.fstore, g.asid, g.codebase, g.spillbase)
        || k.coreset != g.coreset
    | none => false
  let fails :=
    (if s.rcbReserved m (pid == 0) g then [2] else [])
      ++ (if pid ≠ 0 ∧ g.coreset &&& ~~~ par.coreset ≠ 0 then [3] else [])
      ++ (if s.debugLimit pid par < g.debug then [4] else [])
      ++ (if streams.length ≠ streams.eraseDups.length then [9] else [])
      ++ (if frames && moved then [12] else [])
  { regions := SMap.set p.regions id g, bindings := bs, fails := p.fails ++ fails }
where
  /-- an index, as it is -/
  id' (x : Option Nat) : Option Nat := x

/-- The conditions between regions, for the regions of a plan that change. -/
def State.planFails (s : State) (p : Plan) (changed : List Nat) : List Nat :=
  let get (i : Nat) : Region := (SMap.find p.regions i).getD Region.blank
  let tenant (i : Nat) : Nat := s.tenantUnder i (get i).parent
  let share (a b : Region) : Bool := a.coreset &&& b.coreset != 0
  (if changed.any fun i => p.regions.any fun q => q.1 != i && share (get i) q.2 && (get i).fstore != q.2.fstore
    then [5] else [])
  ++ (if changed.any fun i => i != 1 && p.regions.any fun q =>
      q.1 != i && q.1 != 1 && share (get i) q.2 && tenant q.1 != tenant i then [7] else [])
  ++ (if changed.any fun i => (List.range coreCount).any fun n =>
      (get i).coreset.getLsbD n && decide (16 < (p.regions.filter fun q => q.2.coreset.getLsbD n).length) then [8] else [])
  ++ (if s.bindingsBad p.bindings then [9] else [])

/-- The first failure in the order of R380, 0 for none. -/
def firstStatus (fails : List Nat) : Nat := ([2, 1, 3, 4, 6, 5, 7, 8, 9, 12].find? fun x => fails.contains x).getD 0

/-- The regions at or below one, each after its parent. -/
def State.subtree (s : State) (r : Nat) : List Nat :=
  sortBy (fun a b => decide ((s.ancestry 8 a).length ≤ (s.ancestry 8 b).length))
    ((s.regions.map (·.1)).filter fun i => s.within i r)

/-- An activation planned (Table 16-3). -/
def State.planAct (s : State) (rcb pid : Nat) (win : Word) : Plan × State :=
  let (m, s1) := s.readRcb rcb
  let id := m.f 1 63 48
  let p0 : Plan := { regions := s.regions, bindings := s.bindings, fails := [] }
  let p := s1.planRegion p0 m id rcb pid none
  let fails := p.fails ++ (if field win 63 8 ≠ 0 then [2] else [])
    ++ (if 8 ≤ (s.ancestry 8 pid).length then [1] else [])
    ++ (if SMap.has s.regions id then [6] else s1.planFails p [id])
  ({ p with fails := fails }, s1)

/-- A reconfiguration planned: the region and every descendant (R36). A block that now names another active region's
identifier is refused as one in use (R37); a region keeps its own. -/
def State.planCfg (s : State) (r : Nat) (win : Word) : Plan × State :=
  let p0 : Plan := { regions := s.regions, bindings := s.bindings, fails := [] }
  let ids := s.subtree r
  let (read, s1) := ids.foldl (fun (acc : List (Nat × Region × RcbImage) × State) i =>
    match s.region i with
    | none => acc
    | some g =>
      let (m, t) := acc.2.readRcb g.rcb
      (acc.1 ++ [(i, g, m)], t)) ([], s)
  let p1 := read.foldl (fun (p : Plan) x => p.unbind x.2.2 (s.ownBindings x.1)) p0
  let p := read.foldl (fun (p : Plan) x => s1.planRegion p x.2.2 x.1 x.2.1.rcb x.2.1.parent (some x.2.1)) p1
  let taken := read.any fun x => x.2.2.f 1 63 48 != x.1 && SMap.has s.regions (x.2.2.f 1 63 48)
  ({ p with fails := p.fails ++ (if field win 63 8 ≠ 0 then [2] else []) ++ (if taken then [6] else [])
      ++ s1.planFails p ids }, s1)

/-! ## Bindings released and registered (R239, R240, R255) -/

/-- Every line of a binding with something pending in a unit. -/
def Eddy.linesOf (e : Eddy) (bid : Nat) : List Nat :=
  ((e.bins.filter (·.bid == bid)).map (·.line)
    ++ ((e.runs.filter (·.bid == bid)).flatMap fun r => r.recs.map (·.line))
    ++ ((e.waiting.flatten.filter (·.bid == bid)).map fun p => lineOf p.pa)).foldl insertNat []

/-- Every line of a binding applied in every unit. -/
def State.applyBinding (s : State) (bid : Nat) : State :=
  (List.range 8).foldl (fun s m => ((s.eddy m).linesOf bid).foldl State.applyLine s) s

/-- A binding applied and released; its log parts are abandoned. -/
def State.releaseBinding (s : State) (bid : Nat) : State :=
  let s1 := s.applyBinding bid
  { s1 with
    bindings := SMap.del s1.bindings bid
    eddies := s1.eddies.map fun e =>
      (e.1, { e.2 with
        bins := e.2.bins.filter (·.bid != bid), runs := e.2.runs.filter (·.bid != bid), logs := SMap.del e.2.logs bid
        merging := eraseNat e.2.merging bid }) }

/-- Is a pair of some binding still on its way to its unit (R255)? -/
def State.pairsOut (s : State) (bids : List Nat) : Bool :=
  s.cores.any (fun c => c.2.comb.any (fun b => b.2.any fun p => bids.contains p.bid)
    || c.2.src.any fun o => match o.body with
      | .pair _ _ _ k => (s.streamOf o.org.region k).any fun b => bids.contains b.1
      | _ => false)
  || s.net.any fun p => match p.body with | .updates ps => ps.any (fun x => bids.contains x.bid) | _ => false

/-- Bins evicted from a unit until those left fit in the ways it keeps (R240). Which bins the released ways hold is the
model's choice: those of the binding whose bin was used longest ago (DESIGN CHOICE, log entry 73). -/
def State.shrinkBins (s : State) (m cells : Nat) : Nat → State
  | 0 => s
  | n + 1 =>
    if s.usedCells m ≤ cells then s
    else
      match (byUse (s.eddy m).bins).head? with
      | none => s
      | some b => (s.evict m b.bid).shrinkBins m cells n

/-- BIN_ALLOTMENT_CHANGE (R202, R240). -/
def State.setAllot (s : State) (e : Nat) : State :=
  if s.allot < e then
    { s with
      allot := e
      slices := s.slices.map fun x => (x.1, { x.2 with lines := x.2.lines.filter fun c => decide (c.way < 16 - e) }) }
  else
    { (List.range 8).foldl (fun s m => s.shrinkBins m (e * 16384) ((s.eddy m).bins.length + 1)) s with allot := e }

/-- The bindings changed to those of a plan. -/
def State.setBindings (s : State) (bs : SMap Binding) : State :=
  let gone := s.bindings.filter fun b => SMap.find bs b.1 != some b.2
  let s1 := gone.foldl (fun s b => s.releaseBinding b.1) s
  { s1.setAllot (allotOf bs) with bindings := bs }

/-! ## Work of a region on the cores -/

/-- Does a core have a Running threadlet or a started engine command of a region or its descendants (R307)? -/
def State.busyIn (s : State) (r : Nat) : Bool :=
  s.cores.any fun c =>
    c.2.run.any (fun x => s.within x.region r) || c.2.copyq.any (fun k => k.started && s.within k.org.region r)
      || c.2.tileq.any fun k => k.busy && s.within k.org.region r

/-- Has a region engine commands queued or running (R142)? -/
def State.engineWork (s : State) (r : Nat) : Bool :=
  s.cores.any fun c => c.2.copyq.any (·.org.region == r) || c.2.tileq.any (·.org.region == r)

/-- Threadlets of a region in its frames aborted, those that satisfy a test. -/
def State.abortIn (s : State) (r : Nat) (f : Parked → Bool) : State :=
  s.onCores fun n s =>
    (((s.core n).frames.filter fun e => e.2.region == r && e.2.parked.any f).map (·.1)).foldl
      (fun s fid => s.abortParked n fid) s

/-- A region's monitor starts a window (R296). -/
def State.startWindow (s : State) (r : Nat) : State :=
  s.onRegion r fun g => { g with winStart := s.time, winSusp := false, progress := 0 }

/-- A queue's commands that go on, and the rest: those that have not started, and what of a region stands behind one of its
own that has not (R169, R171). -/
def splitStarted {α : Type} (region : α → Nat) (started : α → Bool) : List Nat → List α → List α × List α
  | _, [] => ([], [])
  | held, k :: ks =>
    if started k && !held.contains (region k) then
      let r := splitStarted region started held ks
      (k :: r.1, r.2)
    else
      let r := splitStarted region started (region k :: held) ks
      (r.1, k :: r.2)

/-- The commands of regions that come back, in their own order, ahead of every other that has not started (R169, R258). -/
def ahead {α : Type} (region : α → Nat) (started : α → Bool) (back : Nat → Bool) (q : List α) : List α :=
  let (a, b) := splitStarted region started [] q
  a ++ (b.filter fun k => back (region k)) ++ b.filter fun k => !back (region k)

/-- A region's SUSP bit cleared: its commands go ahead of every one that has not started, and the windows of what runs
again restart (R169, R258, R296, R308). -/
def State.resumeRegion (s : State) (r : Nat) : State :=
  let s1 := s.onRegion r fun g => { g with susp := false }
  let back (i : Nat) : Bool := s.suspended i && !s1.suspended i
  let s2 := s1.onCores fun n s => s.onCore n fun c =>
    { c with
      copyq := ahead (·.org.region) (·.started) back c.copyq
      tileq := ahead (·.org.region) (fun k => k.started || k.done) back c.tileq }
  (s2.subtree r).foldl (fun s i => if s.suspended i then s else s.startWindow i) s2

/-- Eligible frames of a region and its descendants spilled (R307). -/
def State.spillRegion (s : State) (r : Nat) : State :=
  s.onCores fun n s =>
    s.onCore n fun c =>
      (c.frames.filter fun e => s.within e.2.region r && c.spillable s.fstore e.1 e.2).foldl (fun c e => c.spill e.1) c

/-! ## Activation and reconfiguration -/

/-- What a core remembers of a tenant whose level-2 region has been deleted: a number that no region has, so that a later
tenant with the same number is another (R195). -/
def goneTenant : Nat := 65536

/-- The scratch of a new tenant's cores is to be zeroed where another tenant used it last: at an activation, and where a
reconfiguration gives a region more cores (R195, R204). -/
def State.claimCores (s : State) (g : Region) (tenant : Nat) : State :=
  (List.range coreCount).foldl (fun s n =>
    let c := s.core n
    if tenant = 0 ∨ g.coreset.getLsbD n = false ∨ c.tenant = tenant then s
    else s.setCore n (if c.tenant = 0 then { c with tenant := tenant } else { c with zeroing := true })) s

/-- Entries that the affinity caches hold of regions forgotten: at CFG, and where an identifier comes to name another
region (R281). -/
def State.forgetAff (s : State) (ids : List Nat) : State :=
  let fresh (l : List (Nat × Nat)) : List (Nat × Nat) := l.filter fun e => !ids.contains (e.1 / 4096)
  let cores : SMap Core := s.cores.map fun c => (c.1, { c.2 with aff := fresh c.2.aff })
  let fes : SMap FrontEnd := s.fes.map fun f => (f.1, { f.2 with aff := fresh f.2.aff })
  { s with cores := cores, fes := fes }

/-- An activation takes effect. -/
def State.activate (s : State) (p : Plan) (id : Nat) (win : Nat) : State :=
  let s1 : State := { (s.setBindings p.bindings).forgetAff [id] with regions := p.regions }
  let s2 := (s1.onRegion id fun g => { g with win := win }).startWindow id
  match s2.region id with
  | some g => s2.claimCores g (s2.tenantOf id)
  | none => s2

/-- A reconfiguration takes effect (R36, R255, R281, R296). -/
def State.reconfigure (s : State) (p : Plan) (r : Nat) (win : Nat) : State :=
  let ids := s.subtree r
  let s1 : State := { (s.setBindings p.bindings).forgetAff ids with regions := p.regions }
  let s2 := ids.foldl (fun s i => match s.region i with
    | some g => s.claimCores g (s.tenantOf i)
    | none => s) s1
  (s2.onRegion r fun g => { g with win := win }).startWindow r

/-- A local address that a new tenant keeps: in a frame that is Resident, or whose write-out runs. -/
def Core.inFrame (c : Core) (a : Nat) : Bool := c.frames.any fun e => e.2.inRun a 1

/-- SCRATCH_ZEROING_COMPLETE: the scratch and the LAND registers read zero and the engine is cleared (R166, R195, R265); so
does what released frames have left in the frame store, which a copy could read (R204; DEDUCED, log entry 24). -/
def execScratchZeroingComplete (core : Nat) (s : State) : Host.Outcome State Fault Refusal :=
  .next (let c := s.core core
    if c.zeroing = false then s
    else
      let tenant := ((s.regions.find? fun e => e.1 != 1 && e.2.coreset.getLsbD core).map fun e => s.tenantOf e.1).getD 0
      let c1 := c.clearEngine 0
      (s.setCore core { c1 with
        lmem := (Cells.clear c1.lmem s.fstore localEnd).filter fun x => c1.inFrame x.1
        lpoison := c1.lpoison.filter fun p => decide (p * 8 < s.fstore) && c1.inFrame (p * 8)
        land := [], zeroing := false, tenant := tenant }).settleCopies core)

/-! ## Deletion (R379) -/

/-- Overflow entries of a region marked as taken on every core of its set. -/
def State.dropOverflow (s : State) (r : Nat) : State :=
  match s.region r with
  | none => s
  | some g =>
    (List.range coreCount).foldl (fun s n =>
      if g.coreset.getLsbD n = false then s
      else
        let ks := (List.range g.segEntries).filter fun k =>
          match s.segmentEntry g n k with
          | some ws => entryRegion ws == r && entryKind ws != 15
          | none => false
        -- from the last back, so that places behind HEAD stay
        ks.reverse.foldl (fun s k => s.takeEntry g n k) s) s

/-- Steps 3 and 4: Parked threadlets, ready and overflow entries and unstarted commands discarded. -/
def State.discardWork (s : State) (r : Nat) : State :=
  let s1 := (s.abortIn r fun _ => true).dropOverflow r
  s1.onCores fun n s =>
    let s2 := (s.onCore n fun c =>
      { c with
        ready := c.ready.filter (·.region != r), waitq := c.waitq.filter (·.1 != r), freed := SMap.del c.freed r
        copyq := c.copyq.filter fun k => k.started || k.org.region != r
        tileq := c.tileq.filter fun k => k.started || k.done || k.org.region != r }).syncDrr n
    (s2.settleTiles n).settleCopies n

/-- Are results of a region still to come: Pending symbols, or split-phase results on their way to its frames? -/
def State.resultsOut (s : State) (r : Nat) : Bool :=
  s.cores.any fun c =>
    c.2.syms.any (fun y => y.2.region == r && (match y.2.st with | .pending | .failed .. => true | _ => false))
      || c.2.ops.any fun o => o.org.region == r && o.aims s.fstore

/-- A queue disabled, in the front end's copy and in its table entry. An operation or fence of it that is in hand still keeps
it from fetching should it be enabled again (R278, R279). -/
def State.disableQueue (s : State) (q : Nat) : State :=
  let at_ := s.tableAt q + 24
  (s.onQueue q fun x => { x with state := 0 }).store at_
    (bytesOf 8 (s.peek64 at_ &&& ~~~ (place 3 0)).toNat)

/-- Steps 5 to 11. -/
def State.destroy (s : State) (r : Nat) : State :=
  let s1 := s.onCores fun n s => s.onCore n fun c =>
    let gone (e : PoolEntry) : Bool := e.org.region == r
    Core.freeSyms { c with pool := c.pool.filter (fun e => !gone e.2), syms := c.syms.filter (·.2.region != r) }
  let own := s1.ownBindings r
  let s2 := s1.setBindings (s1.bindings.filter fun b => !own.contains b.1)
  let s3 : State := s2.onCores fun n s =>
    (((s.core n).frames.filter (·.2.region == r)).map (·.1)).foldl (fun s fid => s.releaseFrame n fid) s
  let fes : SMap FrontEnd := s3.fes.map fun f =>
    (f.1, { f.2 with
      trig := f.2.trig.map fun t => if t.2.region = r then (t.1, { t.2 with armed := false }) else t })
  let s4 : State := { s3 with fes := fes }
  let s5 := ((s4.queues.filter fun q => q.2.state != 0 && q.2.region == r).map (·.1)).foldl State.disableQueue s4
  let s6 := s5.onCores fun n s =>
    let s' := s.onCore n fun c =>
      let c1 := if c.owner = r then c.clearEngine 0 else c
      { c1 with
        budgets := SMap.del c1.budgets r, freed := SMap.del c1.freed r
        tenant := if c1.tenant = r then goneTenant else c1.tenant }
    s'.settleCopies n
  { s6.forgetAff [r] with regions := SMap.del s6.regions r }

/-! ## Retention (R323) -/

/-- The device region suspended: may the module enter Retention? -/
def State.retentionOk (s : State) : Bool :=
  s.cores.all fun c =>
    c.2.copyq.isEmpty && c.2.tileq.isEmpty && c.2.refq.isEmpty && c.2.replay.isEmpty && c.2.fwait.isEmpty
      && c.2.hold.isEmpty && c.2.syms.all fun y => match y.2.st with | .pending => false | _ => true

/-- Retention is entered: every binding applied, the slices written back. DEDUCED, log entry 45. -/
def State.enterRetention (s : State) : State :=
  let s1 := (s.bindings.map (·.1)).foldl State.applyBinding s
  { s1 with
    power := .retention
    slices := s1.slices.map fun e => (e.1, { e.2 with lines := [] })
    chips := [] , cores := s1.cores.map fun c => (c.1, { c.2 with tlb := [], aff := [] }) }

/-- A mailbox command answered. -/
def State.answer (s : State) (code : Nat) (result : MailResult) (events : List LogEvent) : State :=
  { s with service := { s.service with mailbox := s.service.mailbox ++ [⟨code, result, events⟩] } }

/-! ## REGION_CONTROL_PERFORM (R378-R380) -/

/-- The fault domain of the region that an RCB names or would make (R36, R379). -/
def State.wouldDomain (s : State) : Nat → Nat → Option Nat
  | 0, _ => none
  | fuel + 1, rcb =>
    match s.regionOfRcb rcb with
    | some r => s.domainOf r
    | none =>
      if s.rcbOk rcb = false then none
      else
        let f := (s.peek64 (rcb + 40)).toNat
        if f ≠ 0 then s.regionOfRcb f else s.wouldDomain fuel (s.peek64 rcb).toNat

/-- The operation at the head is over: its status goes to its issuer, or to its queue (R278, R380). A status whose module
has no route any more is discarded with its record (R319). -/
def State.finishOp (s : State) (o : RgnOp) (status : Nat) : State :=
  let rgn := if s.rcbOk o.rcb.toNat then field (s.peek64 (o.rcb.toNat + 8)) 63 48 else 0
  let w := place status 56 ||| place rgn 0
  let s1 := { s with service := { s.service with ops := s.service.ops.drop 1 } }
  match o.queue with
  | some (q, i) =>
    let s2 := s1.onQueue q fun x => { x with busy := false }
    if status = 0 then s2
    else s2.entryFault (queueFe q) (.queue q i) (s2.queue q).region (if status = 10 then 0x02 else 0x07) 0 w
  | none =>
    if o.ref = 0 then s1
    else if s1.routeOk (Ref.of o.ref).module = false then
      s1.sendRecord o.issuer (Rec.plain 0x09 8 o.issuer .service)
    else s1.send ⟨.sig, .service, s1.refAgent (Ref.of o.ref), o.issuer, .signal o.ref 1 (.words 0 [w]) true false⟩

/-- The operation at the head waits on, in a phase. -/
def State.setPhase (s : State) (o : RgnOp) (n : Nat) : State :=
  { s with service := { s.service with ops := { o with phase := n } :: s.service.ops.drop 1 } }

/-- The operation at the head waits for engine commands of some regions, which run though their regions are suspended
(R142). -/
def State.drainFor (s : State) (o : RgnOp) (rs : List Nat) : State :=
  { s with service := { s.service with ops := { o with drain := rs } :: s.service.ops.drop 1 } }

/-- The checks that come before an operation's own: the RCB's address, authority, and the state it requires. The region
is named, or the parent for ACT (R379, R380). DEDUCED, log entry 43. -/
def State.opCheck (s : State) (o : RgnOp) : Except Nat Nat :=
  let rcb := o.rcb.toNat
  if s.rcbOk rcb = false then .error 2
  else if o.issuer ≠ 1 ∧ s.wouldDomain 9 (if o.op = 0 then (s.peek64 rcb).toNat else rcb) ≠ some o.issuer then .error 10
  else
    match o.op, s.regionOfRcb rcb with
    | 0, some _ => .error 11
    | 0, none => match s.regionOfRcb (s.peek64 rcb).toNat with | some p => .ok p | none => .error 11
    | _, none => .error 11
    | op, some r =>
      if op = 4 ∧ s.regions.any (fun e => e.2.parent == r) = true then .error 13
      else if (op = 2 ∧ field o.arg 63 1 ≠ 0) ∨ (3 ≤ op ∧ o.arg ≠ 0) then .error 2
      else .ok r

/-- Regions whose RMODE a plan changes while their engines still have commands, set aside or not: those complete first
(R142). -/
def State.planDrains (s : State) (p : Plan) : List Nat :=
  (s.regions.filter fun e => ((SMap.find p.regions e.1).any fun g => g.rmode != e.2.rmode) && s.engineWork e.1).map (·.1)

/-- A plan waits for the engines of the regions whose RMODE it changes (R142), and for the pairs of bindings that go
(R255). -/
def State.planWaits (s : State) (p : Plan) : Bool :=
  !(s.planDrains p).isEmpty
    || s.pairsOut ((s.bindings.filter fun b => SMap.find p.bindings b.1 != some b.2).map (·.1))

/-- The operation at the head is performed as far as it can be. -/
def State.performOp (s : State) (o : RgnOp) : State :=
  if o.op = 5 then
    -- the suspension that POWER_STATE asks for, then Retention or its refusal (R323)
    if o.phase = 0 then (s.suspend 1).setPhase o 1
    else if s.busyIn 1 then s
    else
      let s1 := { s with service := { s.service with ops := s.service.ops.drop 1 } }
      if s1.retentionOk then s1.enterRetention.answer 0xC030 .ok []
      else (s1.resumeRegion 1).answer 0xC030 .refused []
  else
    match o.phase with
    | 0 =>
      match s.opCheck o with
      | .error st => s.finishOp o st
      | .ok r =>
        match o.op with
        | 0 =>
          let (p, s1) := s.planAct o.rcb.toNat r o.arg
          let id := field (s1.peek64 (o.rcb.toNat + 8)) 63 48
          if firstStatus p.fails ≠ 0 then s1.finishOp o (firstStatus p.fails)
          else if s1.flash.lifecycle = .decommissioned then s1.finishOp o 10
          else
            let s2 := s1.activate p id (field o.arg 7 0)
            if s2.cores.any fun c => c.2.zeroing then s2.setPhase o 1 else s2.finishOp o 0
        | 1 =>
          let (p, s1) := s.planCfg r o.arg
          if firstStatus p.fails ≠ 0 then s1.finishOp o (firstStatus p.fails)
          else if s1.planWaits p then s.drainFor o (s1.planDrains p)
          else
            let s2 := s1.reconfigure p r (field o.arg 7 0)
            if s2.cores.any fun c => c.2.zeroing then s2.setPhase o 1 else s2.finishOp o 0
        | 2 => if s.suspended r then s.finishOp o 0 else (s.suspend r).setPhase o 1
        | 3 => (if ((s.region r).map (·.susp)).getD false then s.resumeRegion r else s).finishOp o 0
        | _ => ((s.suspend r).abortIn r fun p => p.wait == .faultDomain && !p.ready).setPhase o 1
    | 1 =>
      match o.op, s.regionOfRcb o.rcb.toNat with
      | 0, _ => if s.cores.any fun c => c.2.zeroing then s else s.finishOp o 0
      | 1, _ => if s.cores.any fun c => c.2.zeroing then s else s.finishOp o 0
      | 2, some r =>
        if s.busyIn r then s else (if bitAt o.arg 0 then s.spillRegion r else s).finishOp o 0
      | _, some r => if s.busyIn r then s else (s.discardWork r).setPhase o 2
      | _, none => s.finishOp o 11
    | _ =>
      match s.regionOfRcb o.rcb.toNat with
      | some r => if s.resultsOut r || s.pairsOut (s.ownBindings r) then s else (s.destroy r).finishOp o 0
      | none => s.finishOp o 11

/-- REGION_CONTROL_PERFORM: the operation in hand goes on; with none in hand, the next request is taken (R282, R378). -/
def execRegionControlPerform (s : State) : Host.Outcome State Fault Refusal :=
  .next (if s.service.down then s
    else
      match s.service.ops with
      | o :: _ => s.performOp o
      | [] =>
        match (List.range s.net.length).findSome? fun i => (s.packet i).bind fun p => match p.dst, p.body with
            | .service, .rgnctl op rcb arg ref org => some (i, op, rcb, arg, ref, org)
            | _, _ => none with
        | none => s
        | some (i, op, rcb, arg, ref, org) =>
          let s1 := s.drop i
          { s1 with service := { s1.service with ops := [⟨op, rcb, arg, ref, org.region, none, 0, []⟩] } })

/-! ## Periods (R261, R291, R292) -/

/-- The counter a period starts with. -/
def refill (grant : Nat) (left : Int) : Int := grant + min 0 left

/-- PERIOD_START: every counter of every core is granted afresh, debt carried over; changed budgets take effect. -/
def execPeriodStart (s : State) : Host.Outcome State Fault Refusal :=
  .next (if s.time / 10000 ≤ s.period then s
    else
      let regions := s.regions.map fun e => (e.1, e.2.ahead)
      let cores := s.cores.map fun c =>
        (c.1, { c.2 with
          budgets := c.2.budgets.map fun b => match SMap.find regions b.1 with
            | some g => (b.1, ⟨refill (16 * g.cycbud) b.2.cyc, refill (16 * g.tilebud) b.2.tile, refill g.copybud b.2.copy⟩)
            | none => b })
      { s with
        regions := regions, cores := cores, hkBud := s.hkBud.map fun e => (e.1, refill s.hkbud e.2)
        period := s.period + 1 })

/-! ## The progress monitor (R296, Table 12-7) -/

/-- The length of a window in nanoseconds. -/
def Region.window (g : Region) : Nat := if g.win = 0 then 1000000 else g.win * 100000

/-- Engine commands of a region waiting on an empty ring or for ring space. -/
def State.ringWaits (s : State) (r : Nat) : Nat :=
  (s.cores.map fun c =>
    let tile := c.2.tileq.any fun k => k.org.region == r && k.busy && k.pair.isNone
      && (match k.kind.pairs with | some (qa, qb, _, _) => !c.2.pairPresent qa qb | none => false)
    let copy : Bool := match s.nextCopy c.1 with
      | some k => k.org.region == r && (match k.ring.bind fun q => SMap.find c.2.rings q with
          | some x => decide (x.depth < x.count + x.res + k.byteLen / 512)
          | none => false)
      | none => false
    bitOf tile + bitOf copy).foldl (· + ·) 0

/-- Armed slots of a region on a core. -/
def Core.armedSlots (c : Core) (r : Nat) : Nat :=
  ((c.frames.filter (·.2.region == r)).map fun e => e.2.armed.length).foldl (· + ·) 0

/-- Armed triggers of a region. -/
def State.armedTriggers (s : State) (r : Nat) : Nat :=
  (s.fes.map fun f => (f.2.trig.filter fun t => t.2.armed && t.2.region == r).length).foldl (· + ·) 0

/-- MONITOR_WINDOW_END: a window without progress, while the region holds something that waits, freezes the region.
DEDUCED, log entry 44. -/
def execMonitorWindowEnd (region : Nat) (s : State) : Host.Outcome State Fault Refusal :=
  .next (match s.region region with
    | none => s
    | some g =>
      if s.time < g.winStart + g.window then s
      else
        let slots := (s.cores.map fun c => c.2.armedSlots region).foldl (· + ·) 0
        let waits := s.ringWaits region
        let trigs := s.armedTriggers region
        let next := s.onRegion region fun g =>
          { g with winStart := g.winStart + g.window, winSusp := s.suspended region, progress := 0 }
        if g.winSusp || s.suspended region || g.progress != 0 || slots + waits + trigs == 0 then next
        else
          let core := ((s.cores.find? fun c => c.2.armedSlots region != 0).map (·.1)).getD 0
          (next.suspend region).sendRecord region { Rec.plain 0x11 6 region .service with
            detail := place (min slots 65535) 48 ||| place (min waits 65535) 32 ||| place (min trigs 4095) 20
              ||| place core 0 })

/-! ## Power and memory controllers (R293-R295) -/

/-- WEIR_RATE_UPDATE: a local port's rate, 1 to 32 eighths of a flit per network cycle. What its bucket has gathered until
now it gathered at the rate before. -/
def execWeirRateUpdate (port rate : Nat) (s : State) : Host.Outcome State Fault Refusal :=
  .next (if 1 ≤ rate ∧ rate ≤ 32 then
    { s with
      weir := SMap.set s.weir port rate
      bucket := SMap.set s.bucket port (s.tokens port (SMap.get s.weir port 32), s.cycle) }
    else s)

/-- A basin's tile engines that started a pair in a microsecond (R294). -/
def State.pairStarts (s : State) (basin us : Nat) : Nat :=
  (s.pairCores.filter fun c => basinOf c.1 == basin && c.2.contains us).length

/-- A basin's present microsecond is a tile interval where 256 or more of its tile engines started a pair in the one
before (R294). -/
def State.evalInterval (s : State) (basin : Nat) : State :=
  let now := s.time / 1000
  if 1 ≤ now ∧ 256 ≤ s.pairStarts basin (now - 1) then { s with tileIv := SMap.set s.tileIv basin now } else s

/-- Is a basin's present microsecond a tile interval? -/
def State.inInterval (s : State) (basin : Nat) : Bool := SMap.find s.tileIv basin == some (s.time / 1000)

/-- TILE_INTERVAL_EVAL. -/
def execTileIntervalEval (basin : Nat) (s : State) : Host.Outcome State Fault Refusal := .next (s.evalInterval basin)

/-- The place of a kind of work in R293's order of choice: refresh, frame fill, frame spill, page zeroing, scrubbing,
merge-apply. -/
def hkRank : HkKind → Nat
  | .refresh => 0 | .fill => 1 | .spill => 2 | .pageZero => 3 | .scrub => 4 | .mergeApply => 5

/-- HOUSEKEEPING_WORK: the controller of stack `ctl` charges `busy` nanoseconds of work, which no work before it and no
exhausted counter keeps back (R293). In a tile interval a refresh is issued ahead, up to eight; outside one, a banked
refresh is spent first and costs nothing (R294). DEDUCED, log entry 69. -/
def execHousekeepingWork (ctl : Nat) (kind : HkKind) (busy : Nat) (s : State) : Host.Outcome State Fault Refusal :=
  .next (if stackCount ≤ ctl then s
    else
      let basin := chipletOfStack ctl / 2
      let s1 := s.evalInterval basin
      let banked := SMap.get s1.banked ctl 0
      let charged : State := { s1 with hkBud := SMap.set s1.hkBud ctl (s1.hkLeft ctl - busy) }
      if kind = .refresh then
        if s1.inInterval basin then
          (if banked < 8 then { charged with banked := SMap.set s1.banked ctl (banked + 1) } else charged)
        else if 0 < banked then { s1 with banked := SMap.set s1.banked ctl (banked - 1) }
        else charged
      else if s1.hkMay (hkRank kind) [ctl] then charged
      else s1)

end Sys2Proof.Machine
end

