-- ==== Sys2Proof/Machine/Module.lean ====
section
/-! DEFINITION. Events of the module as a whole: the trace writer, the mailbox, routing toward other modules, boot,
lifecycle, power, and uncorrectable errors (R38, R166, R202, R257, R272-R275, R282, R302, R309-R311, R315-R323). -/

namespace Sys2Proof.Machine

open Sys2Proof

/-! ## The trace writer (R315, Tables 13-9 and 13-10) -/

/-- The writer's copy of RP read again from the control line. -/
def State.readRp (s : State) : State :=
  let (bs, _, s1) := s.feRead false (s.tracer.ctl + 16) 8
  { s1 with tracer := { s1.tracer with rp := natOf bs } }

/-- Is the trace buffer full by the writer's copy of RP? -/
def Tracer.full (t : Tracer) : Bool := decide (t.size - 16 < (t.wp + (2 ^ 64 - t.rp)) % 2 ^ 64)

/-- A record handled by the writer's algorithm. -/
def State.writeTrace (s : State) (w0 w1 : Word) : State :=
  let s1 := if s.tracer.full then s.readRp else s
  let t := s1.tracer
  if t.full then
    let n := (t.drop + 1) % 2 ^ 64
    { s1 with tracer := { t with drop := n } }.feWrite false t.ctl (bytesOf 8 n)
  else
    let wp := (t.wp + 16) % 2 ^ 64
    let s2 := s1.feWrite false (t.base + t.wp % t.size) (bytesOfWords [w0, w1])
    { s2 with tracer := { t with wp := wp } }.feWrite false (t.ctl + 8) (bytesOf 8 wp)

/-- TRACE_RECORD_WRITE: an arriving record is appended or dropped; a stopped writer writes and counts nothing. -/
def execTraceRecordWrite (pkt : Nat) (s : State) : Host.Outcome State Fault Refusal :=
  .next (match s.packet pkt with
    | none => s
    | some p =>
      match p.dst, p.body with
      | .tracer, .trace w0 w1 => if s.tracer.size = 0 then s.drop pkt else (s.drop pkt).writeTrace w0 w1
      | _, _ => s)

/-- TRACE_RP_READ. -/
def execTraceRpRead (s : State) : Host.Outcome State Fault Refusal :=
  .next (if s.tracer.size = 0 then s else s.readRp)

/-! ## The mailbox (R317, Table 14-1) -/

/-- Does a mailbox command wait: the service core restarts, or still serves a POWER_STATE? DEDUCED, log entry 47. -/
def State.mailboxBusy (s : State) : Bool := s.service.down || s.service.ops.any (·.op == 5)

/-- Does the module answer mailbox commands? -/
def State.mailboxUp (s : State) : Bool := s.power == .active || s.power == .retention

/-- A mailbox command: it runs, or it waits for the service core; one command runs at a time, and none is lost. -/
def State.mailbox (s : State) (i : Instr) (f : State → State) : State :=
  if s.mailboxUp = false then s
  else if s.mailboxBusy then { s with service := { s.service with waiting := s.service.waiting ++ [i] } }
  else f s

/-- An address word of a table entry: reserved bits zero, aligned, and, on the device, wholly in memory (R273). -/
def State.tablePlaceOk (s : State) (w : Word) (align n : Nat) : Bool :=
  field w 62 56 == 0 && placeOf w % align == 0 && (isHost w || s.inDram (placeOf w) n)

/-- May an entry stand in a queue table (R273, Table 12-1)? -/
def State.tableEntryOk (s : State) (ws : List Word) : Bool :=
  let w := wordAt ws
  let n := 2 ^ field (w 3) 28 24 * 64
  decide (1 ≤ field (w 3) 28 24 ∧ field (w 3) 28 24 ≤ 20)
    && field (w 3) 47 36 == 0 && field (w 3) 31 29 == 0 && field (w 3) 23 2 == 0 && field (w 3) 1 0 != 3
    && field (w 4) 63 32 == 0 && w 6 == 0 && w 7 == 0
    && s.tablePlaceOk (w 0) n n && s.tablePlaceOk (w 1) 64 64
    && s.tablePlaceOk (w 2) 8 (if placeOf (w 2) = 0 then 0 else 8)
    && s.tablePlaceOk (w 5) 8 (if placeOf (w 5) = 0 then 0 else 8)
    && (s.region (field (w 3) 63 48)).isSome

/-- The front end takes a copy of a queue's table entry, and reads its tail afresh (R272, R274). DEDUCED, log entry 46. -/
def State.loadQueue (s : State) (q : Nat) (ws : List Word) : State :=
  s.onQueue q fun x =>
    { x with entry := ws, state := field (wordAt ws 3) 1 0, head := field (wordAt ws 4) 31 0,
             tail := field (wordAt ws 4) 31 0, unwritten := 0, noticed := true
             errw := (x.errw &&& ~~~ 1) ||| place (bitOf (field (wordAt ws 3) 1 0 == 2)) 0 }

/-- QUEUE_SET: an entry is refused, or written, and the front end's copy with it. -/
def execQueueSet (q : Nat) (entry : BitVec 512) (s : State) : Host.Outcome State Fault Refusal :=
  .next (s.mailbox (.queueSet q entry) fun s =>
    let ws := wordsOfBytes 8 (bytesOf 64 entry.toNat)
    if q < 65536 ∧ s.tableEntryOk ws = true then
      ((s.store (s.tableAt q) (bytesOfWords ws)).loadQueue q ws).answer 0xC001 .ok []
    else s.answer 0xC001 .refused [])

/-- QUEUE_STATE: the queue is enabled with the entry in its table, BROKEN cleared, or disabled. -/
def execQueueState (q : Nat) (enable : Bool) (s : State) : Host.Outcome State Fault Refusal :=
  .next (s.mailbox (.queueState q enable) fun s =>
    if 65536 ≤ q then s.answer 0xC002 .refused []
    else if enable = false then (s.disableQueue q).answer 0xC002 .ok []
    else
      let (ws, s1) := s.readWords (s.tableAt q) 8
      let w3 := (wordAt ws 3 &&& ~~~ (place 3 0)) ||| place 1 0
      let ws' := setAt ws 3 w3
      if s1.tableEntryOk ws' then
        let s2 := (s1.store (s.tableAt q + 24) (bytesOf 8 w3.toNat)).loadQueue q ws'
        let s3 := if field (wordAt ws 3) 1 0 = 2 ∨ bitAt (s.queue q).errw 0 = true then s2.writeErrw q else s2
        s3.answer 0xC002 .ok []
      else s1.answer 0xC002 .refused [])

/-- TRACE_BUF: values that R315 excludes are refused; otherwise WP, RP and DROP are zero and tracing starts or stops.
DEDUCED, log entry 48. -/
def execTraceBuf (base size ctl : Word) (s : State) : Host.Outcome State Fault Refusal :=
  .next (s.mailbox (.traceBuf base size ctl) fun s =>
    let b := base.toNat
    let n := size.toNat
    let c := ctl.toNat
    let line : Bool := decide (c % 64 = 0 ∧ inHbm c 64 = true)
    if n = 0 then
      let s1 : State := { s with tracer := { base := b, size := 0, ctl := c, wp := 0, rp := 0, drop := 0 } }
      (if line then s1.feWrite false c (List.replicate 24 (0 : Byte)) else s1).answer 0xC010 .ok []
    else if (List.range' 12 19).contains n.log2 = true ∧ n = 2 ^ n.log2 ∧ b % n = 0 ∧ line = true
        ∧ inHbm b n = true then
      ({ s with tracer := { base := b, size := n, ctl := c, wp := 0, rp := 0, drop := 0 } }.feWrite false c
        (List.replicate 24 (0 : Byte))).answer 0xC010 .ok []
    else s.answer 0xC010 .refused [])

/-! ## Routes (R319, Table 14-2) -/

/-- The unconfirmed packets of a port toward a module. -/
def Brielo.count (b : Brielo) (port module : Nat) : Nat := SMap.get b.unconfirmed (256 * port + module) 0

/-- Work that the source interface discards for want of a route: the packet of a request ends its operation, a signal is
gone, and one record says so (R77, R85, R86, R319). -/
def State.discardPacket (s : State) (p : Packet) : State :=
  let op : Option Nat := match p.body with
    | .read op .. => some op
    | .write op .. => some op
    | .atomic op .. => some op
    | _ => none
  match p.src, op with
  | .core n, some id =>
    match (s.core n).outstanding id with
    | some o =>
      let s1 := s.onCore n fun c => { c with outst := c.outst.filter (·.id != id) }
      if o.body.awaited then s1.discardOp n o 0x09 o.body.va false
      else (s1.routeFault n o.org o.deferred o.body.va).discardOp n o 0x09 o.body.va true
    | none => s
  | _, _ =>
    match p.body with
    | .pref .. => s
    | _ => s.sendRecord p.region (Rec.plain 0x09 8 p.region p.src)

/-- Packets that waited for an old port toward a module are sent, or discarded where the route is no longer valid. -/
def State.releaseWaiting (s : State) (module : Nat) : State :=
  let b := s.brielo
  let mine (p : Packet) : Bool := p.dst == .peer module
  let s1 : State := { s with brielo :=
    { b with drain := SMap.del b.drain module, waiting := b.waiting.filter fun p => !mine p } }
  (b.waiting.filter mine).foldl (fun s p => if s.routeOk module then s.send p else s.discardPacket p) s1

/-- The routes of a table: bit 3 of an entry says valid, its low bits name the port. DEDUCED, log entry 53. -/
def routesOf (table : BitVec 2048) : SMap Nat :=
  (List.range 256).filterMap fun m =>
    let e := (table.toNat >>> (8 * m)) % 256
    if e / 8 % 2 = 1 then some (m, e % 8) else none

/-- The old ports that packets toward modules wait for after a change of routes. -/
def Brielo.drains (b : Brielo) (new : SMap Nat) : SMap Nat :=
  (List.range 256).filterMap fun m =>
    match SMap.find b.drain m, SMap.find b.routes m, SMap.find new m with
    | some p, _, some q => if p ≠ q then some (m, p) else none
    | none, some p, some q => if p ≠ q ∧ b.count p m ≠ 0 then some (m, p) else none
    | none, none, some _ => none
    | _, _, none => none

/-- BRIELO_SET: the number and the routes change between packets; routes of a failed port stay cleared. -/
def execBrieloSet (number : BitVec 8) (table : BitVec 2048) (s : State) : Host.Outcome State Fault Refusal :=
  .next (s.mailbox (.brieloSet number table) fun s =>
    if (List.range 256).any fun m => (table.toNat >>> (8 * m)) % 256 ≥ 16 then s.answer 0xC020 .refused []
    else
      let b := s.brielo
      let new := (routesOf table).filter fun e => !b.failed.contains e.2
      let drains := b.drains new
      let free := (b.drain.map (·.1)).filter fun m => !(SMap.has drains m)
      let s1 : State := { s with brielo := { b with number := number.toNat, routes := new, drain := drains } }
      (free.foldl State.releaseWaiting s1).answer 0xC020 .ok [])

/-- ROUTE_CHANGE_DRAIN: with the old port's count for the module at zero, the waiting packets take the new port. -/
def execRouteChangeDrain (module : Nat) (s : State) : Host.Outcome State Fault Refusal :=
  .next (match SMap.find s.brielo.drain module with
    | some p => if s.brielo.count p module = 0 then s.releaseWaiting module else s
    | none => s)

/-- LINK_LEVEL_CONFIRMATION: the oldest packet toward the module has been ejected there, and its port's count falls. -/
def execLinkLevelConfirmation (port module : Nat) (s : State) : Host.Outcome State Fault Refusal :=
  let n := s.brielo.count port module
  .next (if n = 0 then s
    else
      let i := s.net.findIdx fun p => p.dst == .peer module
      { s.drop i with brielo :=
        { s.brielo with unconfirmed := SMap.set s.brielo.unconfirmed (256 * port + module) (n - 1) } })

/-- The packets toward a module that a port holds: the last it sent where the route still names it, the first after a
change of route. -/
def State.heldBy (s : State) (port module : Nat) : List Packet :=
  let l := s.net.filter fun p => p.dst == .peer module
  let k := s.brielo.count port module
  if SMap.find s.brielo.routes module = some port ∧ SMap.has s.brielo.drain module = false then l.drop (l.length - k)
  else l.take k

/-- Operation `id` of a packet that a failed port took with it. -/
def Packet.opId (p : Packet) : Option (Nat × Nat) :=
  match p.src, p.body with
  | .core n, .read op .. => some (n, op)
  | .core n, .write op .. => some (n, op)
  | .core n, .atomic op .. => some (n, op)
  | _, _ => none

/-- How a request outstanding over a failed port completes: a read with poisoned data, anything else with the
uncorrectable-ECC fault of SRC 5, which the port reports (R319). -/
def State.failRequest (s : State) (port core : Nat) (o : Op) : State :=
  let answer (s : State) (b : PBody) : State := s.send ⟨.rsp, .port port, .core core, o.org.region, b⟩
  match o.body with
  | .gld .. | .ldl .. | .pieceRead .. | .element .. =>
    let (bs, s1) := s.freeBytes o.body.size
    answer s1 (.readRsp o.id bs (List.range bs.length) 0)
  | .pieceWrite cmd _ va _ _ _ =>
    -- The command ends in the error; the record is the port's, and its own would be a second one.
    let first : Bool := ((s.core core).copyq.find? (·.id == cmd)).any (·.fault.isNone)
    let s1 := if first then s.sendRecord o.org.region (Rec.of 0x14 5 (.port port) o.org va 0) else s
    answer (s1.onCore core fun c => c.onCopy cmd fun k => { k.fail 0x14 va 0 with told := k.told || first })
      (.ack o.id none 0x14)
  | .gst .. | .gstv .. | .atom .. | .pref .. | .pair .. | .uapply .. | .waycfg .. | .flagOr .. | .signal .. | .amsg ..
  | .arm .. | .resume .. | .rgnctl .. => answer s (.ack o.id none 0x14)

/-- What a lost packet that is no request of a core leaves: the fault of a signal or an arming (R319). -/
def State.failPacket (s : State) (port : Nat) (p : Packet) : State :=
  match p.body with
  | .signal .. => s.sendRecord p.region (Rec.plain 0x14 5 p.region (.port port))
  | .arm _ _ _ org _ => s.sendRecord org.region (Rec.of 0x14 5 (.port port) org 0 0)
  | _ => s

/-- The module an outstanding operation went to, none for this module and host memory. -/
def Op.peer (o : Op) : Option Nat := if o.far = true ∧ o.pa < 2 ^ 56 then some (o.pa / 2 ^ 48) else none

/-- The operation that a packet answers. -/
def Packet.answers (p : Packet) : Option (Nat × Nat) :=
  match p.dst, p.body with
  | .core n, .readRsp op .. => some (n, op)
  | .core n, .ack op .. => some (n, op)
  | .core n, .atomRsp op .. => some (n, op)
  | _, _ => none

/-- Operations outstanding over a failed port: toward a module whose packets it carried, not answered yet, and not waiting
for it to empty; and those whose request it held. -/
def State.overPort (s : State) (mods : List Nat) (lost : List Packet) : List (Nat × Op) :=
  let ids := lost.filterMap Packet.opId
  let answered := s.net.filterMap Packet.answers
  let kept := s.brielo.waiting.filterMap Packet.opId
  s.cores.flatMap fun c => (c.2.outst.filter fun o =>
    !answered.contains (c.1, o.id) && !kept.contains (c.1, o.id) && (o.peer.any mods.contains || ids.contains (c.1, o.id))).map
      fun o => (c.1, o)

/-- BRIELO_PORT_FAILURE: the port's routes are cleared, the event is logged, and what was outstanding over it completes
with errors. -/
def execBrieloPortFailure (port : Nat) (s : State) : Host.Outcome State Fault Refusal :=
  .next (if 8 ≤ port ∨ s.brielo.failed.contains port = true then s
    else
      let b := s.brielo
      let mods := (List.range 256).filter fun m =>
        SMap.find b.drain m == some port || (SMap.find b.routes m == some port && !(SMap.has b.drain m))
      let lost := (List.range 256).flatMap fun m => s.heldBy port m
      let ops := s.overPort mods lost
      let freed := (b.drain.filter (·.2 == port)).map (·.1)
      let s1 : State := { s with
        net := lost.foldl (fun l p => l.erase p) s.net
        service := { s.service with log := s.service.log ++ [.linkFailure port] }
        brielo := { b with
          routes := b.routes.filter (·.2 != port), failed := insertNat b.failed port
          unconfirmed := b.unconfirmed.filter fun e => e.1 / 256 != port } }
      let s2 := ops.foldl (fun s x => s.failRequest port x.1 x.2) (lost.foldl (fun s p => s.failPacket port p) s1)
      freed.foldl State.releaseWaiting s2)

/-! ## Lifecycle, firmware and attestation (R320-R322, Table 14-4) -/

/-- LIFECYCLE: a transition that R322 names, with a token signed for this identity, takes effect at the next boot. -/
def execLifecycle (target : Lifecycle) (tokenOk : Bool) (s : State) : Host.Outcome State Fault Refusal :=
  .next (s.mailbox (.lifecycle target tokenOk) fun s =>
    if tokenOk = true ∧ s.flash.lifecycle.mayBecome target = true then
      { s with flash := { s.flash with pendingLife := some target } }.answer 0xC040 .ok []
    else s.answer 0xC040 .refused [])

/-- FW_UPDATE: a signed image is written into the slot that is not in use, and image A may be tried again.
DEDUCED, log entry 49. -/
def execFwUpdate (version : Nat) (signatureOk : Bool) (s : State) : Host.Outcome State Fault Refusal :=
  .next (s.mailbox (.fwUpdate version signatureOk) fun s =>
    let f := s.flash
    if signatureOk then
      { s with flash := if f.slotB then { f with imageA := some version, triedB := false }
        else { f with imageB := some version, triedB := false } }.answer 0xC050 .ok []
    else s.answer 0xC050 .refused [])

/-- EVENT_LOG. -/
def execEventLog (s : State) : Host.Outcome State Fault Refusal :=
  .next (s.mailbox .eventLog fun s => s.answer 0xC060 .ok s.service.log)

/-- The codes of the module's own commands (Table 14-1). -/
def mailboxCodes : List Nat := [0xC001, 0xC002, 0xC010, 0xC020, 0xC030, 0xC040, 0xC050, 0xC060]

/-- MAILBOX_UNSUPPORTED: any vendor code that Table 14-1 does not list is refused with Unsupported. -/
def execMailboxUnsupported (code : BitVec 16) (s : State) : Host.Outcome State Fault Refusal :=
  .next (if mailboxCodes.contains code.toNat then s
    else s.mailbox (.mailboxUnsupported code) fun s => s.answer code.toNat .unsupported [])

/-- SPDM_REQUEST: answered with the identity's public key and certificate, and the measurements of steps 1 to 3 and of the
lifecycle state (R322; DESIGN CHOICE, log entry 77). -/
def execSpdmRequest (req : SpdmReq) (s : State) : Host.Outcome State Fault Refusal :=
  .next (s.mailbox (.spdmRequest req) fun s =>
    let x : SpdmAnswer :=
      { req := req, key := s.service.key, certificate := (s.flash.record.map (·.certificate)).getD []
        measured := s.service.measured }
    { s with service := { s.service with spdm := s.service.spdm ++ [x] } })

/-! ## Boot (R38, R320, R321, Tables 2-9 and 14-3) -/

/-- The device region's RCB. -/
def Flash.rcbWords (f : Flash) : List Word :=
  [0, place 1 48 ||| place f.fstore 36 ||| place 1 32 ||| place f.lifecycle.debug 29 ||| place 8 20 ||| place 16 0,
   place 256 48 ||| place 256 32, BitVec.ofNat 64 f.deviceArena, BitVec.allOnes 64, BitVec.ofNat 64 f.deviceRcb, 0,
   place f.deviceAsid 48, BitVec.ofNat 64 f.deviceCode, BitVec.ofNat 64 f.deviceCoreset, BitVec.ofNat 64 f.deviceAff,
   place 2 24 ||| place 16 16 ||| place 2048 0, BitVec.ofNat 64 f.deviceOverflow, 0]
    ++ List.replicate 8 1 ++ List.replicate 10 0

/-- The device region with the values of Table 2-9. -/
def Flash.deviceRegion (f : Flash) : Region :=
  { Region.blank with
    rcb := f.deviceRcb, parent := 0, fstore := f.fstore, rmode := .rne, debug := f.lifecycle.debug, prio := 8, rqw := 16
    fquota := 256, spillcap := 256, spillbase := f.deviceArena, cycbud := 0xFFFF, tilebud := 0xFFFF
    copybud := 0xFFFFFFFF, faultrcb := f.deviceRcb, asid := f.deviceAsid, codebase := f.deviceCode
    coreset := BitVec.allOnes 2048, afftab := f.deviceAff, affg := 16, affm := 2048, rqovf := f.deviceOverflow, ovs := 2
    rqset := BitVec.allOnes 2048 }

/-- The device region active, its tables not yet in memory. -/
def State.deviceUp (s : State) : State := { s with regions := [(1, s.flash.deviceRegion)], power := .active }

/-- Firmware's tables: the overflow area empty, the RCB, the core set and the affinity table. -/
def State.writeTables (s : State) : State :=
  let f := s.flash
  let s1 := s.zeroRange f.deviceOverflow (f.deviceOverflow + coreCount * 128 * 65)
  ((s1.store f.deviceRcb (bytesOfWords f.rcbWords)).store f.deviceCoreset (List.replicate 256 (0xFF : Byte))).store
    f.deviceAff ((List.range coreCount).flatMap (bytesOf 2))

/-- A lifecycle transition takes effect: what Table 14-4 erases on entry. The firmware images stand in module flash.
DEDUCED, log entry 51. -/
def State.enterLife (s : State) (l : Lifecycle) : State :=
  let f : Flash := { s.flash with lifecycle := l, pendingLife := none }
  let erased : State := { s with mem := [], poison := [], struck := [], lost := [], past := [] }
  match l with
  | .manufacturing => { s with flash := f }
  | .provisioned => { erased with flash := { f with imageA := none, imageB := none, triedB := false } }
  | .deployed => { erased with flash := f }
  | .authorisedDebug => { erased with flash := f }
  | .decommissioned =>
    { s with flash := { f with
        imageA := none, imageB := none, triedB := false, attempt := none, rollback := 0, record := none } }

/-- What a module reset leaves before its boot steps: flash, global memory, host memory and the environment's lists.
DEDUCED, log entry 52. -/
def State.afterReset (s : State) : State :=
  { State.reset with
    mem := Cells.clear s.mem winBase winEnd
    poison := s.poison.filter fun p => !(decide (winBase ≤ p * 8 ∧ p * 8 < winEnd))
    struck := s.struck.filter fun x => !(decide (winBase ≤ x ∧ x < winEnd))
    lost := s.lost.filter fun x => !(decide (winBase ≤ x ∧ x < winEnd))
    past := s.past.filter fun x => !(decide (winBase ≤ x.1 ∧ x.1 < winEnd))
    hostMem := s.hostMem, hostPoison := s.hostPoison, flash := s.flash, agenda := s.agenda, pace := s.pace, free := s.free }

/-- Does the boot-attempt record halt this boot: its step has no alternative, or its alternative has failed? Where image B
has run, it is image B that failed step 2. -/
def Flash.halts (f : Flash) : Bool :=
  match f.attempt with
  | none => false
  | some (step, n) =>
    if step = 6 then false
    else if step = 2 then decide (2 ≤ n) || f.triedB
    else if step = 4 ∨ step = 7 then decide (2 ≤ n)
    else true

/-- Does the boot-attempt record name a step? DEDUCED, log entry 50. -/
def Flash.recorded (f : Flash) (step : Nat) : Bool := f.attempt.any (·.1 == step)

/-- Is image B the one to load? -/
def Flash.loadsB (f : Flash) : Bool := f.triedB || f.recorded 2

/-- Is the image to load valid and not below the anti-rollback counter? -/
def Flash.imageOk (f : Flash) : Bool := (if f.loadsB then f.imageB else f.imageA).any fun v => decide (f.rollback ≤ v)

/-- The first step of a boot that fails: the one the environment names, unless it is skipped, step 2 for want of an image,
or step 3 for want of a configuration record. -/
def Flash.failing (f : Flash) (fail : Nat) : Option Nat :=
  (List.range' 1 8).find? fun k =>
    (k == fail && !(k == 6 && f.recorded 6)) || (k == 2 && !f.imageOk) || (k == 3 && f.record.isNone)

/-- What steps 1 to 3 measure, and the lifecycle state (R322). -/
def Flash.measures (f : Flash) : Measured :=
  { rom := true, image := (if f.loadsB then f.imageB else f.imageA).map fun v => (f.loadsB, v), record := f.record,
    life := f.lifecycle }

/-- The identity's public key, derived in step 1 unless the derivation is disabled (R322, Table 14-4). -/
def Flash.identity (f : Flash) : Option Nat := if f.lifecycle = .decommissioned then none else some Config.identity

/-- MODULE_RESET: the boot steps in order; a failed step is recorded and resets the module again. -/
def execModuleReset (failStep : Nat) (s : State) : Host.Outcome State Fault Refusal :=
  .next (
    let s1 := s.afterReset
    let s2 := match s1.flash.pendingLife with
      | some l => s1.enterLife l
      | none => s1
    let f := s2.flash
    if f.halts then { s2 with power := .halted }
    else
      match f.failing failStep with
      | some k =>
        let n := match f.attempt with | some (j, n) => if j = k then n + 1 else 1 | none => 1
        { s2 with flash := { f with attempt := some (k, n), triedB := f.triedB || (f.loadsB && decide (2 < k)) } }
      | none =>
        let skipped := if f.recorded 6 then [6] else []
        let s3 : State := { s2 with
          flash := { f with attempt := none, slotB := f.loadsB, triedB := f.loadsB }
          reservoir := !f.recorded 6, brielo := { s2.brielo with half := f.recorded 7 }
          service := { s2.service with
            log := [.bootReport f.deviceRcb skipped], key := f.identity, measured := f.measures } }
        s3.deviceUp.writeTables)

/-! ## Power (R323) -/

/-- POWER_STATE: Retention is requested of the service core, or left. -/
def execPowerState (retention : Bool) (s : State) : Host.Outcome State Fault Refusal :=
  .next (s.mailbox (.powerState retention) fun s =>
    match retention, s.power with
    | true, .active =>
      { s with service := { s.service with ops := s.service.ops ++ [⟨5, 0, 0, 0, 1, none, 0, []⟩] } }
    | false, .retention => { s with power := .waking }.answer 0xC030 .ok []
    | _, _ => s.answer 0xC030 .ok [])

/-- RETENTION_EXIT: engines and slice-scratch are cleared, debug registers are lost, and the device region resumes; every
other region stays suspended until RGNCTL.RES resumes it, by its own SUSP bit (DEDUCED, log entry 45). -/
def execRetentionExit (s : State) : Host.Outcome State Fault Refusal :=
  .next (if s.power = .waking then
      let cores : SMap Core := s.cores.map fun c => (c.1, { c.2.clearEngine 0 with bp := [], wp := [] })
      let s1 : State := { s with power := .active, cores := cores }
      (((s.regions.map (·.1)).filter (· != 1)).foldl State.suspend (s1.zeroRange winBase winEnd)).resumeRegion 1
    else s)

/-- MODULE_POWER_LOSS: only module flash and the board controller's store survive. -/
def execModulePowerLoss (s : State) : Host.Outcome State Fault Refusal :=
  .next { State.reset with
    power := .off, flash := s.flash, hostMem := s.hostMem, hostPoison := s.hostPoison, agenda := s.agenda, pace := s.pace, free := s.free }

/-! ## Errors (R257, R282, R309-R311) -/

/-- An affected region is frozen and the entry reported: DETAIL names the structure (R311). DEDUCED, log entry 54. -/
def State.freeze (s : State) (core region fid slot structure_ : Nat) : State :=
  (s.suspend region).sendRecord region
    { Rec.plain 0x14 3 region (.core core) with fid := fid, slot := slot, detail := place structure_ 0 }

/-- A bin or run record struck by an error: every element it touches when it is applied will be written poisoned
(R257). -/
def Bin.strike (b : Bin) (bid line : Nat) : Bin :=
  if b.bid = bid ∧ b.line = line then { b with bad := true } else b

/-- UNCORRECTABLE_ECC: data words are poisoned; structures that cannot carry poison are reported. -/
def execUncorrectableEcc (target : EccTarget) (s : State) : Host.Outcome State Fault Refusal :=
  .next (match target with
    | .globalWord pa =>
      if s.inDram pa 1 = true ∨ (winBase ≤ pa ∧ pa < winEnd) then { s with poison := insertNat s.poison (pa / 8) } else s
    | .localWord n a =>
      if n < coreCount ∧ a < localEnd then s.onCore n fun c => { c with lpoison := insertNat c.lpoison (a / 8) } else s
    | .eddyBin m bid line =>
      let e := s.eddy m
      if m < 8 then s.setEddy m { e with bins := e.bins.map fun b => b.strike bid line } else s
    | .eddyRun m bid run line =>
      let e := s.eddy m
      if m < 8 then
        s.setEddy m { e with runs := e.runs.map fun r =>
          if r.bid = bid ∧ r.num = run then { r with recs := r.recs.map fun b => b.strike bid line } else r }
      else s
    | .readyQueue n i =>
      match (s.core n).ready[i]? with
      | some e => s.freeze n e.region e.fid e.slot 1
      | none => s
    | .refillQueue n i =>
      match (s.core n).refq[i]? with
      | some a => s.freeze n ((((s.core n).frame a.fid).map (·.region)).getD a.region) a.fid a.slot 2
      | none => s
    | .symbolTable n i =>
      match SMap.find (s.core n).syms i with
      | some y => s.freeze n y.region y.fid 0 3
      | none => s
    | .poolEntry n i =>
      match SMap.find (s.core n).pool i with
      | some e => s.freeze n e.org.region e.org.fid 0 4
      | none => s
    | .holdEntry n i =>
      match (SMap.find (s.core n).hold i).bind fun h => ((s.core n).frame h.fid).map fun f => (h.fid, f.region) with
      | some (fid, r) => s.freeze n r fid 0 5
      | none => s
    | .serviceCore =>
      if s.service.down then s
      else { s with service := { s.service with down := true, log := s.service.log ++ [.restart] } }
    | .queueTable q => if q < 65536 then s.breakQueue q else s)

/-- SERVICE_CORE_RESTART_COMPLETE: what waited is taken up (R282). -/
def execServiceCoreRestartComplete (s : State) : Host.Outcome State Fault Refusal :=
  .next { s with service := { s.service with down := false } }

end Sys2Proof.Machine
end

