-- ==== Sys2Proof/Machine/Scalar.lean ====
section
/-! DEFINITION. Predicates and scalar floating point (R344, R346, R347, R352, R372, R382, R383). -/

namespace Sys2Proof.Machine

open Sys2Proof

/-- SEL: only the selected operand is read, and its form is copied (R382). -/
def execSel (g : Guard) (d a b : XReg) (k : PReg) (s : State) :=
  guarded g 1 (fun s r => s.writeForm r d (if r.pred k then r.get a else r.get b)) s

end Sys2Proof.Machine

namespace Sys2Proof

open Machine

/-- The conditions of SETP (Table 4-13). -/
def Cond.test (c : Cond) (x y : Word) : Bool :=
  match c with
  | .eq => x == y
  | .ne => x != y
  | .lt => x.slt y
  | .le => x.sle y
  | .gt => y.slt x
  | .ge => y.sle x
  | .ltu => decide (x < y)
  | .leu => decide (x ≤ y)
  | .gtu => decide (y < x)
  | .geu => decide (y ≤ x)
  | .tst => (x &&& y) != 0

/-- The condition of a SETPI of opcode 0x11. -/
def CondA.cond : CondA → Cond
  | .eq => .eq | .ne => .ne | .lt => .lt | .ge => .ge

/-- The condition of a SETPI of opcode 0x12. -/
def CondB.cond : CondB → Cond
  | .ltu => .ltu | .geu => .geu | .le => .le | .gt => .gt

end Sys2Proof

namespace Sys2Proof.Machine

open Sys2Proof

/-- SETP (R383). -/
def execSetp (g : Guard) (cond : Cond) (pd : PReg) (a b : XReg) (s : State) :=
  guarded g 1 (fun s r => do
    let (x, y) ← r.known2 a b
    .ok (s.writeP pd (cond.test x y))) s

/-- A comparison with an immediate. -/
def setImm (cond : Cond) (pd : PReg) (a : XReg) (imm : BitVec 11) : Meaning := fun s r => do
  let x ← r.known a
  .ok (s.writeP pd (cond.test x (imm.signExtend 64)))

/-- SETPI with opcode 0x11 (R383). -/
def execSetpiA (g : Guard) (cond : CondA) (pd : PReg) (a : XReg) (imm : BitVec 11) (s : State) :=
  guarded g 1 (setImm cond.cond pd a imm) s

/-- SETPI with opcode 0x12 (R383). -/
def execSetpiB (g : Guard) (cond : CondB) (pd : PReg) (a : XReg) (imm : BitVec 11) (s : State) :=
  guarded g 1 (setImm cond.cond pd a imm) s

end Sys2Proof.Machine

namespace Sys2Proof

open Machine

/-- The format of a precision. -/
def Prec.fmt : Prec → Fmt
  | .s => .f32 | .d => .f64

/-- The operand bits of a precision: FP32 from bits [31:0] (R98). -/
def Prec.bits (p : Prec) (w : Word) : Nat := w.toNat % 2 ^ p.fmt.width

end Sys2Proof

namespace Sys2Proof.Machine

open Sys2Proof

/-- FSETP (R352). -/
def execFsetp (g : Guard) (prec : Prec) (cond : FCond) (pd : PReg) (a b : XReg) (s : State) :=
  guarded g 1 (fun s r => do
    let (x, y) ← r.known2 a b
    let (b, fl) := fpCompare prec.fmt cond (prec.bits x) (prec.bits y)
    .ok ((s.writeP pd b).raise fl)) s

end Sys2Proof.Machine

namespace Sys2Proof

open Machine

/-- The operations of PLOG (R372). -/
def PlogOp.eval (op : PlogOp) (x y : Bool) : Bool :=
  match op with
  | .and => x && y
  | .or => x || y
  | .xor => x != y
  | .andn => x && !y
  | .orn => x || !y
  | .not => !x

end Sys2Proof

namespace Sys2Proof.Machine

open Sys2Proof

/-- PLOG (R372). -/
def execPlog (g : Guard) (op : PlogOp) (pd pa pb : PReg) (s : State) :=
  guarded g 1 (fun s r => .ok (s.writeP pd (op.eval (r.pred pa) (r.pred pb)))) s

/-- A result written, FP32 zero-extended, with its flags. -/
def State.writeFp (s : State) (d : XReg) (p : Prec) (res : Nat × BitVec 8) : State :=
  (s.writeX d (BitVec.ofNat 64 (res.1 % 2 ^ p.fmt.width))).raise res.2

/-- A two-operand operation: computed on known operands, recorded when exactly one is a form (R69, R344). -/
def fp2 (op : ChainOp) (f : Fmt → RMode → Bool → Nat → Nat → Nat × BitVec 8) (prec : Prec) (sat : Bool) (rnd : Rnd)
    (d a b : XReg) : Meaning := fun s r =>
  let rm := s.rounding r rnd
  match r.get a, r.get b with
  | .known x, .known y => .ok (s.writeFp d prec (f prec.fmt rm sat (prec.bits x) (prec.bits y)))
  | v, .known k => (record r.origin op prec sat rm 0 v k 0).bind (s.writeForm r d)
  | .known k, v => (record r.origin op prec sat rm 1 v k 0).bind (s.writeForm r d)
  | v, w => .error (waitFor [v, w])

/-- FADD (R344). -/
def execFadd (g : Guard) (prec : Prec) (sat : Bool) (rnd : Rnd) (d a b : XReg) (s : State) :=
  guarded g 1 (fp2 .add fpAdd prec sat rnd d a b) s

/-- FSUB (R344). -/
def execFsub (g : Guard) (prec : Prec) (sat : Bool) (rnd : Rnd) (d a b : XReg) (s : State) :=
  guarded g 1 (fp2 .sub fpSub prec sat rnd d a b) s

/-- FMUL (R344). -/
def execFmul (g : Guard) (prec : Prec) (sat : Bool) (rnd : Rnd) (d a b : XReg) (s : State) :=
  guarded g 1 (fp2 .mul fpMul prec sat rnd d a b) s

/-- FFMA: xa·xb + xd, recorded when exactly one operand is a form (R344). -/
def execFfma (g : Guard) (prec : Prec) (sat : Bool) (rnd : Rnd) (d a b : XReg) (s : State) :=
  guarded g 1 (fun s r =>
    let rm := s.rounding r rnd
    match r.get a, r.get b, r.get d with
    | .known x, .known y, .known z =>
      .ok (s.writeFp d prec (fpFma prec.fmt rm sat (prec.bits x) (prec.bits y) (prec.bits z)))
    | v, .known y, .known z => (record r.origin .fma prec sat rm 0 v y z).bind (s.writeForm r d)
    | .known x, v, .known z => (record r.origin .fma prec sat rm 1 v x z).bind (s.writeForm r d)
    | .known x, .known y, v => (record r.origin .fma prec sat rm 2 v x y).bind (s.writeForm r d)
    | u, v, w => .error (waitFor [u, v, w])) s

/-- FDIV (R344). -/
def execFdiv (g : Guard) (prec : Prec) (sat : Bool) (rnd : Rnd) (d a b : XReg) (s : State) :=
  guarded g 1 (fun s r => do
    let (x, y) ← r.known2 a b
    .ok (s.writeFp d prec (fpDiv prec.fmt (s.rounding r rnd) sat (prec.bits x) (prec.bits y)))) s

/-- FSQRT (R344). -/
def execFsqrt (g : Guard) (prec : Prec) (sat : Bool) (rnd : Rnd) (d a : XReg) (s : State) :=
  guarded g 1 (fun s r => do
    let x ← r.known a
    .ok (s.writeFp d prec (fpSqrt prec.fmt (s.rounding r rnd) sat (prec.bits x)))) s

/-- The minimum or maximum of two registers. -/
def fpPick (isMax : Bool) (prec : Prec) (d a b : XReg) : Meaning := fun s r => do
  let (x, y) ← r.known2 a b
  .ok (s.writeFp d prec (fpMinMax prec.fmt isMax (prec.bits x) (prec.bits y)))

/-- FMIN (R346). -/
def execFmin (g : Guard) (prec : Prec) (d a b : XReg) (s : State) := guarded g 1 (fpPick false prec d a b) s

/-- FMAX (R346). -/
def execFmax (g : Guard) (prec : Prec) (d a b : XReg) (s : State) := guarded g 1 (fpPick true prec d a b) s

/-- FCLASS (R346). -/
def execFclass (g : Guard) (prec : Prec) (d a : XReg) (s : State) :=
  guarded g 1 (fun s r => do
    let x ← r.known a
    .ok (s.writeX d (fpClass prec.fmt (prec.bits x)))) s

/-- FCVT (R347). -/
def execFcvt (g : Guard) (cv : Cvt) (sat : Bool) (rnd : Rnd) (d a : XReg) (s : State) :=
  guarded g 1 (fun s r => do
    let x ← r.known a
    let res := convert cv.types.1 cv.types.2 (s.rounding r rnd) sat x.toNat
    .ok ((s.writeX d (cv.types.1.toReg res.1)).raise res.2)) s

end Sys2Proof.Machine
end

