-- ==== Sys2Proof/Machine/Dispatch.lean ====
section
/-! DEFINITION. The dispatch: one arm per constructor, each the call of its meaning. -/

namespace Sys2Proof.Machine

open Sys2Proof

/-- The meaning of an instruction or event. -/
def exec (i : Instr) (s : State) : Host.Outcome State Fault Refusal :=
  match i with
  | .add g d a b => Sys2Proof.Machine.execAdd g d a b s
  | .sub g d a b => Sys2Proof.Machine.execSub g d a b s
  | .and g d a b => Sys2Proof.Machine.execAnd g d a b s
  | .or g d a b => Sys2Proof.Machine.execOr g d a b s
  | .xor g d a b => Sys2Proof.Machine.execXor g d a b s
  | .shl g d a b => Sys2Proof.Machine.execShl g d a b s
  | .shr g d a b => Sys2Proof.Machine.execShr g d a b s
  | .sar g d a b => Sys2Proof.Machine.execSar g d a b s
  | .min g d a b => Sys2Proof.Machine.execMin g d a b s
  | .max g d a b => Sys2Proof.Machine.execMax g d a b s
  | .minu g d a b => Sys2Proof.Machine.execMinu g d a b s
  | .maxu g d a b => Sys2Proof.Machine.execMaxu g d a b s
  | .mul g d a b => Sys2Proof.Machine.execMul g d a b s
  | .mulh g d a b => Sys2Proof.Machine.execMulh g d a b s
  | .mulhu g d a b => Sys2Proof.Machine.execMulhu g d a b s
  | .div g d a b => Sys2Proof.Machine.execDiv g d a b s
  | .divu g d a b => Sys2Proof.Machine.execDivu g d a b s
  | .rem g d a b => Sys2Proof.Machine.execRem g d a b s
  | .remu g d a b => Sys2Proof.Machine.execRemu g d a b s
  | .clz g d a => Sys2Proof.Machine.execClz g d a s
  | .ctz g d a => Sys2Proof.Machine.execCtz g d a s
  | .popc g d a => Sys2Proof.Machine.execPopc g d a s
  | .addi g d a imm => Sys2Proof.Machine.execAddi g d a imm s
  | .andi g d a imm => Sys2Proof.Machine.execAndi g d a imm s
  | .ori g d a imm => Sys2Proof.Machine.execOri g d a imm s
  | .xori g d a imm => Sys2Proof.Machine.execXori g d a imm s
  | .shli g d a sh => Sys2Proof.Machine.execShli g d a sh s
  | .shri g d a sh => Sys2Proof.Machine.execShri g d a sh s
  | .sari g d a sh => Sys2Proof.Machine.execSari g d a sh s
  | .sel g d a b k => Sys2Proof.Machine.execSel g d a b k s
  | .setp g cond pd a b => Sys2Proof.Machine.execSetp g cond pd a b s
  | .setpiA g cond pd a imm => Sys2Proof.Machine.execSetpiA g cond pd a imm s
  | .setpiB g cond pd a imm => Sys2Proof.Machine.execSetpiB g cond pd a imm s
  | .fsetp g prec cond pd a b => Sys2Proof.Machine.execFsetp g prec cond pd a b s
  | .plog g op pd pa pb => Sys2Proof.Machine.execPlog g op pd pa pb s
  | .fadd g prec sat rnd d a b => Sys2Proof.Machine.execFadd g prec sat rnd d a b s
  | .fsub g prec sat rnd d a b => Sys2Proof.Machine.execFsub g prec sat rnd d a b s
  | .fmul g prec sat rnd d a b => Sys2Proof.Machine.execFmul g prec sat rnd d a b s
  | .ffma g prec sat rnd d a b => Sys2Proof.Machine.execFfma g prec sat rnd d a b s
  | .fdiv g prec sat rnd d a b => Sys2Proof.Machine.execFdiv g prec sat rnd d a b s
  | .fsqrt g prec sat rnd d a => Sys2Proof.Machine.execFsqrt g prec sat rnd d a s
  | .fmin g prec d a b => Sys2Proof.Machine.execFmin g prec d a b s
  | .fmax g prec d a b => Sys2Proof.Machine.execFmax g prec d a b s
  | .fclass g prec d a => Sys2Proof.Machine.execFclass g prec d a s
  | .fcvt g cv sat rnd d a => Sys2Proof.Machine.execFcvt g cv sat rnd d a s
  | .br g off => Sys2Proof.Machine.execB g off s
  | .call g off => Sys2Proof.Machine.execCall g off s
  | .jr g a => Sys2Proof.Machine.execJr g a s
  | .ret g => Sys2Proof.Machine.execRet g s
  | .rep g a n => Sys2Proof.Machine.execRep g a n s
  | .fin g => Sys2Proof.Machine.execFin g s
  | .park g a => Sys2Proof.Machine.execPark g a s
  | .nop g => Sys2Proof.Machine.execNop g s
  | .brk g code => Sys2Proof.Machine.execBrk g code s
  | .trap g code => Sys2Proof.Machine.execTrap g code s
  | .svc g code => Sys2Proof.Machine.execSvc g code s
  | .falloc g d cls => Sys2Proof.Machine.execFalloc g d cls s
  | .ffree g a => Sys2Proof.Machine.execFfree g a s
  | .sloti g a b => Sys2Proof.Machine.execSloti g a b s
  | .slotr g d a => Sys2Proof.Machine.execSlotr g d a s
  | .sig g rel n a => Sys2Proof.Machine.execSig g rel n a s
  | .sigd g rel n a b dw => Sys2Proof.Machine.execSigd g rel n a b dw s
  | .sigv g rel n a vb dw => Sys2Proof.Machine.execSigv g rel n a vb dw s
  | .sref g d a imm => Sys2Proof.Machine.execSref g d a imm s
  | .amsg g xg => Sys2Proof.Machine.execAmsg g xg s
  | .arm g xg => Sys2Proof.Machine.execArm g xg s
  | .ld g sz u d a off => Sys2Proof.Machine.execLd g sz u d a off s
  | .st g sz c a off => Sys2Proof.Machine.execSt g sz c a off s
  | .ldz g vd a b => Sys2Proof.Machine.execLdz g vd a b s
  | .stz g vc a b => Sys2Proof.Machine.execStz g vc a b s
  | .gld g lu evp sz byt n xg y => Sys2Proof.Machine.execGld g lu evp sz byt n xg y s
  | .ldl g sz u d a off => Sys2Proof.Machine.execLdl g sz u d a off s
  | .gst g sz t c a off => Sys2Proof.Machine.execGst g sz t c a off s
  | .gstv g vc a m off => Sys2Proof.Machine.execGstv g vc a m off s
  | .pref g evp a off => Sys2Proof.Machine.execPref g evp a off s
  | .xchg g ord sz d a b => Sys2Proof.Machine.execXchg g ord sz d a b s
  | .cas g ord sz d a b => Sys2Proof.Machine.execCas g ord sz d a b s
  | .cas2 g ord d a b => Sys2Proof.Machine.execCas2 g ord d a b s
  | .faa g ord sz d a b => Sys2Proof.Machine.execFaa g ord sz d a b s
  | .amax g ord sz d a b => Sys2Proof.Machine.execAmax g ord sz d a b s
  | .amin g ord sz d a b => Sys2Proof.Machine.execAmin g ord sz d a b s
  | .amaxU g ord sz d a b => Sys2Proof.Machine.execAmaxU g ord sz d a b s
  | .aminU g ord sz d a b => Sys2Proof.Machine.execAminU g ord sz d a b s
  | .fence g w u e scope => Sys2Proof.Machine.execFence g w u e scope s
  | .fenceqCt g => Sys2Proof.Machine.execFenceqCt g s
  | .fenceqTc g => Sys2Proof.Machine.execFenceqTc g s
  | .iflush g a b => Sys2Proof.Machine.execIflush g a b s
  | .iflushAll g => Sys2Proof.Machine.execIflushAll g s
  | .upd g a b k => Sys2Proof.Machine.execUpd g a b k s
  | .updv g xd va vb m k => Sys2Proof.Machine.execUpdv g xd va vb m k s
  | .uapply g a b => Sys2Proof.Machine.execUapply g a b s
  | .cpy g fn xg y => Sys2Proof.Machine.execCpy g fn xg y s
  | .cpy2 g fn xg y => Sys2Proof.Machine.execCpy2 g fn xg y s
  | .cpym g byt n xg y => Sys2Proof.Machine.execCpym g byt n xg y s
  | .gthr g fn xg y => Sys2Proof.Machine.execGthr g fn xg y s
  | .rcfg g q xg => Sys2Proof.Machine.execRcfg g q xg s
  | .radv g q xg => Sys2Proof.Machine.execRadv g q xg s
  | .mma g n t qb qa acc xg y => Sys2Proof.Machine.execMma g n t qb qa acc xg y s
  | .mmas g ss n qb qa acc xg y => Sys2Proof.Machine.execMmas g ss n qb qa acc xg y s
  | .mmg g val act n xg y => Sys2Proof.Machine.execMmg g val act n xg y s
  | .accz g acc => Sys2Proof.Machine.execAccz g acc s
  | .accld g n acc xg y => Sys2Proof.Machine.execAccld g n acc xg y s
  | .accst g n sc sat rnd tag acc xg y => Sys2Proof.Machine.execAccst g n sc sat rnd tag acc xg y s
  | .sscfg g ss xg => Sys2Proof.Machine.execSscfg g ss xg s
  | .vadd g t vd va vb m => Sys2Proof.Machine.execVadd g t vd va vb m s
  | .vsub g t vd va vb m => Sys2Proof.Machine.execVsub g t vd va vb m s
  | .vmul g t vd va vb m => Sys2Proof.Machine.execVmul g t vd va vb m s
  | .vfma g t vd va vb m => Sys2Proof.Machine.execVfma g t vd va vb m s
  | .vmin g t vd va vb m => Sys2Proof.Machine.execVmin g t vd va vb m s
  | .vmax g t vd va vb m => Sys2Proof.Machine.execVmax g t vd va vb m s
  | .vabs g t vd va m => Sys2Proof.Machine.execVabs g t vd va m s
  | .vneg g t vd va m => Sys2Proof.Machine.execVneg g t vd va m s
  | .vand g vd va vb m => Sys2Proof.Machine.execVand g vd va vb m s
  | .vor g vd va vb m => Sys2Proof.Machine.execVor g vd va vb m s
  | .vxor g vd va vb m => Sys2Proof.Machine.execVxor g vd va vb m s
  | .vselW g vd va vb m => Sys2Proof.Machine.execVselW g vd va vb m s
  | .vselH g vd va vb m => Sys2Proof.Machine.execVselH g vd va vb m s
  | .vselB g vd va vb m => Sys2Proof.Machine.execVselB g vd va vb m s
  | .vshlI32 g vd va vb m => Sys2Proof.Machine.execVshlI32 g vd va vb m s
  | .vshrI32 g vd va vb m => Sys2Proof.Machine.execVshrI32 g vd va vb m s
  | .vsarI32 g vd va vb m => Sys2Proof.Machine.execVsarI32 g vd va vb m s
  | .vshlI16 g vd va vb m => Sys2Proof.Machine.execVshlI16 g vd va vb m s
  | .vshrI16 g vd va vb m => Sys2Proof.Machine.execVshrI16 g vd va vb m s
  | .vsarI16 g vd va vb m => Sys2Proof.Machine.execVsarI16 g vd va vb m s
  | .vcmp g t cond md va vb => Sys2Proof.Machine.execVcmp g t cond md va vb s
  | .vrcp g t vd va m => Sys2Proof.Machine.execVrcp g t vd va m s
  | .vrsq g t vd va m => Sys2Proof.Machine.execVrsq g t vd va m s
  | .vexp2 g t vd va m => Sys2Proof.Machine.execVexp2 g t vd va m s
  | .vlog2 g t vd va m => Sys2Proof.Machine.execVlog2 g t vd va m s
  | .viota g t vd m => Sys2Proof.Machine.execViota g t vd m s
  | .vredAdd g t xd va m => Sys2Proof.Machine.execVredAdd g t xd va m s
  | .vredMin g t xd va m => Sys2Proof.Machine.execVredMin g t xd va m s
  | .vredMax g t xd va m => Sys2Proof.Machine.execVredMax g t xd va m s
  | .vdotF32 g xd va vb m => Sys2Proof.Machine.execVdotF32 g xd va vb m s
  | .vdotBf16 g xd va vb m => Sys2Proof.Machine.execVdotBf16 g xd va vb m s
  | .vdotF16 g xd va vb m => Sys2Proof.Machine.execVdotF16 g xd va vb m s
  | .vperm g lw vd va vb => Sys2Proof.Machine.execVperm g lw vd va vb s
  | .vbcast g lw vd xa => Sys2Proof.Machine.execVbcast g lw vd xa s
  | .vext g lw xd va xb => Sys2Proof.Machine.execVext g lw xd va xb s
  | .vins g lw vd xa xb => Sys2Proof.Machine.execVins g lw vd xa xb s
  | .vcomp g lw vd va mb => Sys2Proof.Machine.execVcomp g lw vd va mb s
  | .vexpd g lw vd va mb => Sys2Proof.Machine.execVexpd g lw vd va mb s
  | .vld g vd a imm => Sys2Proof.Machine.execVld g vd a imm s
  | .vst g vc a imm => Sys2Proof.Machine.execVst g vc a imm s
  | .mlog g op md ma mb => Sys2Proof.Machine.execMlog g op md ma mb s
  | .mcnt g xd ma => Sys2Proof.Machine.execMcnt g xd ma s
  | .rdsr g d num => Sys2Proof.Machine.execRdsr g d num s
  | .wrsr g a num => Sys2Proof.Machine.execWrsr g a num s
  | .rgnctlAct g xg y => Sys2Proof.Machine.execRgnctlAct g xg y s
  | .rgnctlCfg g xg y => Sys2Proof.Machine.execRgnctlCfg g xg y s
  | .rgnctlSusp g xg y => Sys2Proof.Machine.execRgnctlSusp g xg y s
  | .rgnctlRes g xg y => Sys2Proof.Machine.execRgnctlRes g xg y s
  | .rgnctlDel g xg y => Sys2Proof.Machine.execRgnctlDel g xg y s
  | .tlbinvPg g a b => Sys2Proof.Machine.execTlbinvPg g a b s
  | .tlbinvAs g b => Sys2Proof.Machine.execTlbinvAs g b s
  | .tlbinvAll g => Sys2Proof.Machine.execTlbinvAll g s
  | .waycfg g a b => Sys2Proof.Machine.execWaycfg g a b s
  | .symq g d a => Sys2Proof.Machine.execSymq g d a s
  | .resume g a => Sys2Proof.Machine.execResume g a s
  | .resumeAbt g a => Sys2Proof.Machine.execResumeAbt g a s
  | .resumeRpl g a => Sys2Proof.Machine.execResumeRpl g a s
  | .resumeDrp g a => Sys2Proof.Machine.execResumeDrp g a s
  | .limm g d imm => Sys2Proof.Machine.execLimm g d imm s
  | .lui g d imm => Sys2Proof.Machine.execLui g d imm s
  | .bfx g d a pos len => Sys2Proof.Machine.execBfx g d a pos len s
  | .bfi g d a pos len => Sys2Proof.Machine.execBfi g d a pos len s
  | .vx g op sat rnd vd va vb m => Sys2Proof.Machine.execVx g op sat rnd vd va vb m s
  | .vcvt g dst src sat rnd vd va m => Sys2Proof.Machine.execVcvt g dst src sat rnd vd va m s
  | .readyEntrySelect core => Sys2Proof.Machine.execReadyEntrySelect core s
  | .signalArrival pkt => Sys2Proof.Machine.execSignalArrival pkt s
  | .overflowEntryTake core region idx => Sys2Proof.Machine.execOverflowEntryTake core region idx s
  | .activeMessageDelivery pkt => Sys2Proof.Machine.execActiveMessageDelivery pkt s
  | .spillWriteOutComplete core fid => Sys2Proof.Machine.execSpillWriteOutComplete core fid s
  | .refillComplete core fid => Sys2Proof.Machine.execRefillComplete core fid s
  | .frameRelease core fid => Sys2Proof.Machine.execFrameRelease core fid s
  | .runleftExpiry core => Sys2Proof.Machine.execRunleftExpiry core s
  | .parkTimeExpiry core fid => Sys2Proof.Machine.execParkTimeExpiry core fid s
  | .symbolValueArrival pkt => Sys2Proof.Machine.execSymbolValueArrival pkt s
  | .deferredEffectPerform core => Sys2Proof.Machine.execDeferredEffectPerform core s
  | .lateLoadFail core sym => Sys2Proof.Machine.execLateLoadFail core sym s
  | .writeAckArrival pkt => Sys2Proof.Machine.execWriteAckArrival pkt s
  | .updateAcceptanceArrival pkt => Sys2Proof.Machine.execUpdateAcceptanceArrival pkt s
  | .gldLanding pkt => Sys2Proof.Machine.execGldLanding pkt s
  | .barrierConditionMet core idx => Sys2Proof.Machine.execBarrierConditionMet core idx s
  | .combinerTimeout core chiplet => Sys2Proof.Machine.execCombinerTimeout core chiplet s
  | .homeSliceRead pkt => Sys2Proof.Machine.execHomeSliceRead pkt s
  | .homeSliceWrite pkt => Sys2Proof.Machine.execHomeSliceWrite pkt s
  | .homeSliceAtomic pkt => Sys2Proof.Machine.execHomeSliceAtomic pkt s
  | .homeSlicePref pkt => Sys2Proof.Machine.execHomeSlicePref pkt s
  | .backInvalidationAck line => Sys2Proof.Machine.execBackInvalidationAck line s
  | .waycfgRequest pkt => Sys2Proof.Machine.execWaycfgRequest pkt s
  | .wayConversionComplete slice => Sys2Proof.Machine.execWayConversionComplete slice s
  | .translationWalkComplete core idx => Sys2Proof.Machine.execTranslationWalkComplete core idx s
  | .faultWaitPromote core => Sys2Proof.Machine.execFaultWaitPromote core s
  | .pageZeroingComplete entry => Sys2Proof.Machine.execPageZeroingComplete entry s
  | .updatePacketAccept pkt => Sys2Proof.Machine.execUpdatePacketAccept pkt s
  | .sortBatch unit => Sys2Proof.Machine.execSortBatch unit s
  | .mergeApply unit bid => Sys2Proof.Machine.execMergeApply unit bid s
  | .uapplyLineApply core idx => Sys2Proof.Machine.execUapplyLineApply core idx s
  | .copyCommandStart core => Sys2Proof.Machine.execCopyCommandStart core s
  | .copyPieceIssue core => Sys2Proof.Machine.execCopyPieceIssue core s
  | .copyPieceComplete pkt => Sys2Proof.Machine.execCopyPieceComplete pkt s
  | .multicastPieceArrival pkt => Sys2Proof.Machine.execMulticastPieceArrival pkt s
  | .gatherRequestArrival pkt => Sys2Proof.Machine.execGatherRequestArrival pkt s
  | .gatherElementReturn pkt => Sys2Proof.Machine.execGatherElementReturn pkt s
  | .tileCommandStart core => Sys2Proof.Machine.execTileCommandStart core s
  | .tilePairStart core => Sys2Proof.Machine.execTilePairStart core s
  | .tilePairRetire core => Sys2Proof.Machine.execTilePairRetire core s
  | .mmgRowComplete core => Sys2Proof.Machine.execMmgRowComplete core s
  | .accumulatorTransferDone core => Sys2Proof.Machine.execAccumulatorTransferDone core s
  | .faultRecordDelivery pkt => Sys2Proof.Machine.execFaultRecordDelivery pkt s
  | .resumeAct pkt => Sys2Proof.Machine.execResumeAct pkt s
  | .tailNotification q => Sys2Proof.Machine.execTailNotification q s
  | .queueEntryFetch q => Sys2Proof.Machine.execQueueEntryFetch q s
  | .activeMessageEntry fe idx => Sys2Proof.Machine.execActiveMessageEntry fe idx s
  | .triggerArmEntry fe idx => Sys2Proof.Machine.execTriggerArmEntry fe idx s
  | .regionControlEntry fe idx => Sys2Proof.Machine.execRegionControlEntry fe idx s
  | .queueFence fe idx => Sys2Proof.Machine.execQueueFence fe idx s
  | .triggerArming pkt => Sys2Proof.Machine.execTriggerArming pkt s
  | .triggerSignal pkt => Sys2Proof.Machine.execTriggerSignal pkt s
  | .regionControlPerform => Sys2Proof.Machine.execRegionControlPerform s
  | .periodStart => Sys2Proof.Machine.execPeriodStart s
  | .entryAging core => Sys2Proof.Machine.execEntryAging core s
  | .monitorWindowEnd region => Sys2Proof.Machine.execMonitorWindowEnd region s
  | .weirRateUpdate port rate => Sys2Proof.Machine.execWeirRateUpdate port rate s
  | .tileIntervalEval basin => Sys2Proof.Machine.execTileIntervalEval basin s
  | .housekeepingWork ctl kind busy => Sys2Proof.Machine.execHousekeepingWork ctl kind busy s
  | .traceRecordWrite pkt => Sys2Proof.Machine.execTraceRecordWrite pkt s
  | .traceRpRead => Sys2Proof.Machine.execTraceRpRead s
  | .queueSet q entry => Sys2Proof.Machine.execQueueSet q entry s
  | .queueState q enable => Sys2Proof.Machine.execQueueState q enable s
  | .traceBuf base size ctl => Sys2Proof.Machine.execTraceBuf base size ctl s
  | .brieloSet number table => Sys2Proof.Machine.execBrieloSet number table s
  | .powerState retention => Sys2Proof.Machine.execPowerState retention s
  | .lifecycle target tokenOk => Sys2Proof.Machine.execLifecycle target tokenOk s
  | .fwUpdate version signatureOk => Sys2Proof.Machine.execFwUpdate version signatureOk s
  | .mailboxUnsupported code => Sys2Proof.Machine.execMailboxUnsupported code s
  | .routeChangeDrain module => Sys2Proof.Machine.execRouteChangeDrain module s
  | .brieloPortFailure port => Sys2Proof.Machine.execBrieloPortFailure port s
  | .moduleReset failStep => Sys2Proof.Machine.execModuleReset failStep s
  | .uncorrectableEcc target => Sys2Proof.Machine.execUncorrectableEcc target s
  | .scratchZeroingComplete core => Sys2Proof.Machine.execScratchZeroingComplete core s
  | .spdmRequest req => Sys2Proof.Machine.execSpdmRequest req s
  | .linkLevelConfirmation port module => Sys2Proof.Machine.execLinkLevelConfirmation port module s
  | .eventLog => Sys2Proof.Machine.execEventLog s
  | .retentionExit => Sys2Proof.Machine.execRetentionExit s
  | .serviceCoreRestartComplete => Sys2Proof.Machine.execServiceCoreRestartComplete s
  | .modulePowerLoss => Sys2Proof.Machine.execModulePowerLoss s

end Sys2Proof.Machine
end

