-- ==== Sys2Proof/Machine/Turns.lean ====
section
/-! DEFINITION. Whose turn it is: what must happen at once, the agenda, and the turns the module takes by itself; the issue
of an instruction; the passing of time and the waits that end (R53-R58, R86, R88-R91, R289, R291, R292, R296, R298, R303,
R307, R312, R317). -/

namespace Sys2Proof.Machine

open Sys2Proof

/-- What a step does: nothing but what has been done, or an instruction or event. -/
inductive Act where
  | done (s : State)
  | run (s : State) (i : Instr)
  deriving DecidableEq, Repr

/-! ## Issue (R88-R91, R298, R307, R312) -/

/-- DETAIL of the breakpoints that match the next issue of a threadlet, none where none does. Those that made it Held at
this issue do not match again (R303, R312, Table 13-7). -/
def State.breakDetail (s : State) (core : Nat) (r : Run) : Option Word :=
  let hit (v : Word) : Bool :=
    bitAt v 63 && field v 59 32 == s.blockField r.region r.block && field v 7 0 == r.idx
      && (!(bitAt v 62) || r.rep.any fun p => p.iter == field v 31 8)
  let l := (List.range 4).filter fun i =>
    !(r.bpSkip.testBit i) && (SMap.find (s.core core).bp i).any fun d => hit d.val && s.debugMatches d r.region
  if r.len < r.idx ∨ l.isEmpty = true then none else some (l.foldl (fun w i => w ||| place 1 i) 0)

/-- The virtual address of the next instruction word of a threadlet (R88). -/
def Run.wordVa (r : Run) (k : Nat) : Nat := r.block + 16 + 4 * (r.idx + k)

/-- The instruction at a threadlet's index, with the state after its words were fetched; where there is none, the fault's
code, or the page that the fetch waits for (R91, R95, R205). -/
def State.nextInstr (s : State) (core : Nat) (r : Run) : Except CodeStop Instr × State :=
  if r.len < r.idx then (.error (.fault 0x01), s)
  else
    match s.fetchWord core (s.asid r.region) (r.wordVa 0) with
    | (.error x, s1) => (.error x, s1)
    | (.ok w0, s1) =>
      if isLongOp (w0.extractLsb' 21 7) = true ∧ w0 ≠ BitVec.allOnes 32 ∧ r.len = r.idx then (.error (.fault 0x01), s1)
      else
        let (w1, s2) := if isLongOp (w0.extractLsb' 21 7) then s1.fetchWord core (s.asid r.region) (r.wordVa 1)
          else (.ok 0, s1)
        match w1 with
        | .error x => (.error x, s2)
        | .ok w1 =>
          match decode (bytesOfWord w0 ++ bytesOfWord w1) with
          | .ok i => (.ok i, s2)
          | .error _ => (.error (.fault 0x01), s2)

/-- The Running threadlet of a core issues: a forced park, the end of its budget, a breakpoint, a fetch that fails or
waits for a page, or its next instruction. -/
def State.issueTurn (s : State) (core : Nat) : Act :=
  match (s.core core).run with
  | none => .done s
  | some r =>
    let s1 : State := { s with cur := core }
    if s.suspended r.region && r.parkw != 0 then .done (s1.park core r 0 5 .regionResume)
    else if r.runleft = 0 then .run s1 (.runleftExpiry core)
    else
      match s.breakDetail core r with
      | some d => .done (s1.takeFault core { r with bpSkip := r.bpSkip ||| d.toNat } r.origin 0 0x12 0 d)
      | none =>
        match s1.nextInstr core r with
        | (.ok i, s2) => .run s2 i
        | (.error (.page z), s2) => .done (s2.awaitPage z)
        | (.error (.fault code), s2) =>
          .done (s2.takeFault core { r with bpSkip := 0 } r.origin 0 code (if code = 0x01 then 0 else r.wordVa 0) 0)

/-! ## What arrives from outside (R29, R196, R201, R234, R316, R319) -/

/-- The traffic class that Table 1-2 gives a packet that can arrive from outside, none for a packet that cannot. -/
def PBody.outsideClass : PBody → Option PClass
  | .read .. | .write .. | .atomic .. | .pref .. => some .req
  | .readRsp .. | .ack .. | .atomRsp .. => some .rsp
  | .signal .. | .arm .. => some .sig
  | .waycfg .. | .replica .. | .amsg .. | .record .. | .resume .. | .rgnctl .. | .trace .. | .updates .. | .accepted ..
  | .mcast .. | .mcastAck .. | .count .. | .gather .. | .element .. => none

/-- Is the fault that a reply reports, if any, one of Table 13-1? -/
def PBody.failOk (b : PBody) : Bool :=
  match b with
  | .readRsp _ _ _ fail => decide (fail ≤ 0x16)
  | .ack _ _ fail => decide (fail ≤ 0x16)
  | _ => true

/-- Does a reply answer an operation of this kind: data of its size or an error for a read, an acknowledgement for a
write, the old value or an error for an atomic (R217, R218)? -/
def OpBody.answeredBy (b : OpBody) (r : PBody) : Bool :=
  match b with
  | .gld .. | .ldl .. | .pieceRead .. | .element .. =>
    match r with
    | .readRsp _ data _ fail => fail != 0 || data.length == b.size
    | _ => false
  | .gst .. | .gstv .. | .pieceWrite .. => match r with | .ack .. => true | _ => false
  | .atom .. | .flagOr .. =>
    match r with
    | .atomRsp .. => true
    | .ack _ _ fail => fail != 0
    | _ => false
  | .pref .. | .pair .. | .uapply .. | .waycfg .. | .signal .. | .amsg .. | .arm .. | .resume .. | .rgnctl .. => false

/-- The agent a packet from the host or a peer module reaches, none for a packet that cannot arrive: it travels in its
class of Table 1-2, host accesses lie in one line, a reply answers an operation that is outstanding there and that no
packet in the module answers yet (each request has one response, for which space is reserved, R23), with a fault of
Table 13-1 if with any, and a signal names this module. -/
def State.arrivalAgent (s : State) (p : Packet) : Option Agent :=
  let line (pa n : Nat) : Option Agent :=
    if 0 < n ∧ pa % 128 + n ≤ 128 then some (.slice (s.homeSlice pa)) else none
  let peer : Bool := match p.src with | .peer m => m != s.brielo.number | _ => false
  let host := p.src == .host
  let reply (op : Nat) : Option Agent :=
    match p.dst with
    | .core n =>
      if (((s.core n).outstanding op).any fun o => o.far && o.body.answeredBy p.body) &&
          !(s.net.filterMap Packet.answers).contains (n, op) then some p.dst
      else none
    | _ => none
  if p.body.outsideClass ≠ some p.cls ∨ !p.body.failOk then none else
  match p.body with
  | .read _ pa n _ _ _ => if host || peer then line pa n else none
  | .write _ pa data _ _ _ => if host || peer then line pa data.length else none
  | .atomic _ _ pa n _ _ _ => if peer then line pa n else none
  | .pref pa _ _ => if peer then line pa 1 else none
  | .readRsp op .. => if host || peer then reply op else none
  | .ack op .. => if host || peer then reply op else none
  | .atomRsp op .. => if peer then reply op else none
  | .signal ref .. => if peer && (Ref.of ref).ok && (Ref.of ref).module == s.brielo.number
      then some (s.refAgent (Ref.of ref)) else none
  | .arm ref .. => if peer && (Ref.of ref).ok && (Ref.of ref).t && (Ref.of ref).module == s.brielo.number
      then some (s.refAgent (Ref.of ref)) else none
  | _ => none

/-- A packet from outside as this module takes it: accesses address its own memory, the host's with no hints (R201). -/
def Packet.local_ (p : Packet) : Packet :=
  match p.body with
  | .read op pa n lu evp _ =>
    { p with body := if p.src = .host then .read op pa n false .normal .wb else .read op pa n lu evp .wb }
  | .write op pa data bad evp _ =>
    { p with body := if p.src = .host then .write op pa data bad .normal .wb else .write op pa data bad evp .wb }
  | .atomic op k pa n v c _ => { p with body := .atomic op k pa n v c .wb }
  | .pref pa evp _ => { p with body := .pref pa evp .wb }
  | _ => p

/-- A packet arrives at the module's edge. -/
def State.arriveOutside (s : State) (p : Packet) : State :=
  match s.arrivalAgent p with
  | some a => { s with net := s.net ++ [{ p.local_ with dst := a }] }
  | none => s

/-! ## The agenda -/

/-- Does the module serve its ports: it is booted and on. A halted module answers the management interfaces only (R320),
and one that is off nothing (R323). -/
def State.serves (s : State) : Bool := s.power == .active || s.power == .retention || s.power == .waking

/-- May an event of the table happen: any while the module serves; its reset and the loss of power always. -/
def State.mayHappen (s : State) (e : Instr) : Bool :=
  match e with
  | .moduleReset _ => true
  | .modulePowerLoss => true
  | e => e.isEvent && s.serves

/-- The manufacturer's write of the configuration record, which only the lifecycle state Manufacturing admits (R321). -/
def State.writeRecord (s : State) (r : ConfigRecord) : State :=
  if s.flash.lifecycle = .manufacturing then { s with flash := { s.flash with record := some r } } else s

/-- A corrected error counted, of a core or of a memory chiplet (R309). -/
def State.countCorrected (s : State) (counter : Nat) : State :=
  if counter < coreCount + 8 then { s with ecc := SMap.set s.ecc counter (SMap.get s.ecc counter 0 + 1) } else s

/-- A turn of the agenda taken. Cores issue while the module is active, other agents act while it serves; an instruction
is no event. DESIGN CHOICE, log entry 56. -/
def State.takeTurn (s : State) (t : Turn) : Act :=
  let served (t : State) : Act := .done (if s.serves then t else s)
  match t with
  | .issue core => if s.power = .active then s.issueTurn core else .done s
  | .event e => if s.mayHappen e then .run s e else .done s
  | .arrive p => served (s.arriveOutside p)
  | .hostStore a bs => .done ((s.writeHost a (bs.map some) []).noticeTail true a bs.length)
  | .engineRead core cmd addr use => served (s.readAhead core cmd addr use)
  | .landWord pkt addr => served (s.landAhead pkt addr)
  | .storeWord core addr => served (s.storeAhead core addr)
  | .corrected counter => served (s.countCorrected counter)
  | .recordWrite r => .done (s.writeRecord r)

/-- What an active module does before any other turn: a failed late load, the end of a run budget (R65), a new period, the
end of a monitor's window. -/
def State.forcedActive (s : State) : Option Instr :=
  let failed : Option (Nat × Nat) := s.cores.findSome? fun c =>
    (c.2.syms.find? fun y => match y.2.st with | .failed .. => true | _ => false).map fun y => (c.1, y.1)
  match failed with
  | some (n, y) => some (.lateLoadFail n y)
  | none =>
    match s.cores.find? fun c => c.2.run.any fun r => r.runleft == 0 with
    | some c => some (.runleftExpiry c.1)
    | none =>
      if s.period < s.time / 10000 then some .periodStart
      else (s.regions.find? fun g => decide (g.2.winStart + g.2.window ≤ s.time)).map fun g => .monitorWindowEnd g.1

/-- What comes before any other turn: what an active module does first, and a mailbox command that waited for the service
core (R282, R317). DESIGN CHOICE, log entry 55. -/
def State.forced (s : State) : Option (State × Instr) :=
  match if s.power = .active then s.forcedActive else none with
  | some i => some (s, i)
  | none =>
    match s.service.waiting with
    | i :: rest =>
      if i.isEvent && s.mailboxUp && !s.mailboxBusy then some ({ s with service := { s.service with waiting := rest } }, i) else none
    | [] => none

/-! ## Turns the module takes by itself -/

/-- The event that delivers a reply to a core. -/
def State.replyEvent (s : State) (i core op : Nat) : Option Instr :=
  ((s.core core).outstanding op).map fun o =>
    match o.body with
    | .gld .. => .gldLanding i
    | .ldl .. => .symbolValueArrival i
    | .pieceRead .. => .copyPieceComplete i
    | .pieceWrite .. => .copyPieceComplete i
    | .element .. => .gatherElementReturn i
    | _ => .writeAckArrival i

/-- The event that delivers the packet at a place of the network; a packet that has left the module has none. -/
def State.packetEvent (s : State) (i : Nat) : Option Instr :=
  match s.packet i with
  | none => none
  | some p =>
    match p.dst, p.body with
    | .core _, .signal .. => some (.signalArrival i)
    | .core _, .count .. => some (.signalArrival i)
    | .frontEnd _, .signal .. => some (.triggerSignal i)
    | .core _, .amsg .. => some (.activeMessageDelivery i)
    | _, .record .. => some (.faultRecordDelivery i)
    | .frontEnd _, .arm .. => some (.triggerArming i)
    | .core _, .resume .. => some (.resumeAct i)
    | .service, .rgnctl .. => some .regionControlPerform
    | .tracer, .trace .. => some (.traceRecordWrite i)
    | .eddy _, .updates _ => some (.updatePacketAccept i)
    | .core _, .accepted _ => some (.updateAcceptanceArrival i)
    | .core _, .mcast .. => some (.multicastPieceArrival i)
    | .core _, .mcastAck .. => some (.copyPieceComplete i)
    | .gather _, .gather .. => some (.gatherRequestArrival i)
    | .slice _, .gather .. => some (.homeSliceRead i)
    | .core _, .element .. => some (.gatherElementReturn i)
    | .slice _, .read .. => some (.homeSliceRead i)
    | .host, .read .. => some (.homeSliceRead i)
    | .slice _, .write .. => some (.homeSliceWrite i)
    | .host, .write .. => some (.homeSliceWrite i)
    | .slice _, .replica .. => some (.homeSliceWrite i)
    | .slice _, .atomic .. => some (.homeSliceAtomic i)
    | .slice _, .pref .. => some (.homeSlicePref i)
    | .host, .pref .. => some (.homeSlicePref i)
    | .slice _, .waycfg .. => some (.waycfgRequest i)
    | .core n, .readRsp op .. => s.replyEvent i n op
    | .core n, .ack op .. => s.replyEvent i n op
    | .core n, .atomRsp op .. =>
      ((s.core n).outstanding op).map fun o => match o.body with
        | .atom _ _ _ _ _ (some _) _ => .symbolValueArrival i
        | _ => .writeAckArrival i
    | _, _ => none

/-- A turn that is open under a condition. -/
def offer (open_ : Bool) (i : Instr) : List Instr := if open_ then [i] else []

/-- Turns of a core's engines. -/
def State.engineTurns (s : State) (n : Nat) : List Instr :=
  let c := s.core n
  List.flatten
    [ offer (s.nextCopy n).isSome (.copyCommandStart n),
      offer (s.issuing n).isSome (.copyPieceIssue n),
      offer (s.nextTile n).isSome (.tileCommandStart n),
      offer (c.pairCmd.any fun k => k.pair.isSome) (.tilePairRetire n),
      offer (c.pairCmd.any fun k => k.pair.isNone) (.tilePairStart n),
      offer c.transferCmd.isSome (.accumulatorTransferDone n),
      offer c.mmgCmd.isSome (.mmgRowComplete n) ]

/-- Has a parked threadlet's PARK until a TIME come to its end? -/
def State.timeReached (s : State) (f : Frame) : Bool :=
  match f.parked.map (·.wait) with
  | some (Wait.time t) => decide (t ≤ s.time)
  | _ => false

/-- Turns of a core's frames and overflow segments; a segment whose header is refused (R6) gives none (log entry 78). -/
def State.frameTurns (s : State) (n : Nat) : List Instr :=
  List.flatten
    [ (s.core n).frames.flatMap fun f => List.flatten
        [ offer f.2.snap.isSome (.spillWriteOutComplete n f.1),
          offer (f.2.st == .refilling) (.refillComplete n f.1),
          offer f.2.freeing (.frameRelease n f.1),
          offer (s.timeReached f.2) (.parkTimeExpiry n f.1) ],
      s.regions.flatMap fun g =>
        if g.2.coreset.getLsbD n && s.segmentOk g.2 n then
          (List.range g.2.segEntries).filterMap fun k => (s.segmentEntry g.2 n k).bind fun ws =>
            if s.earlierEntry g.2 n k ws || entryKind ws == 15 then none else some (.overflowEntryTake n g.1 k)
        else [] ]

/-- Turns of a core, its issue apart. -/
def State.coreTurns (s : State) (n : Nat) : List Instr :=
  let c := s.core n
  List.flatten
    [ offer (c.run.isNone && !c.ready.isEmpty) (.readyEntrySelect n),
      c.src.zipIdx.map fun o => match o.1.body with
        | .uapply .. => .uapplyLineApply n o.2
        | _ => .translationWalkComplete n o.2,
      c.barriers.zipIdx.flatMap fun b => offer (c.barrierMet b.1) (.barrierConditionMet n b.2),
      offer c.nextEntry.isSome (.deferredEffectPerform n),
      c.comb.flatMap fun b => offer (s.combinerIdle n b.1) (.combinerTimeout n b.1),
      offer (!c.fwait.isEmpty && decide (c.replay.length < 32)) (.faultWaitPromote n),
      offer c.zeroing (.scratchZeroingComplete n),
      s.engineTurns n,
      s.frameTurns n ]

/-- Turns of a front end and its queues. -/
def State.feTurns (s : State) (b : Nat) : List Instr :=
  List.flatten
    [ (s.fe b).pend.zipIdx.map fun e => match kindOf e.1.words with
        | 0 => .activeMessageEntry b e.2
        | 1 => .triggerArmEntry b e.2
        | 2 => .regionControlEntry b e.2
        | _ => .queueFence b e.2,
      s.queues.flatMap fun q =>
        offer (queueFe q.1 == b && q.2.state == 1 && q.2.noticed) (.tailNotification q.1),
      ((s.nextQueue b).map fun q => .queueEntryFetch q).toList ]

/-- Turns of the slices, the Eddy units, the service core and the ports. -/
def State.unitTurns (s : State) : List Instr :=
  List.flatten
    [ s.slices.flatMap fun x => offer x.2.conv.isSome (.wayConversionComplete x.1),
      s.zeroing.map fun z => .pageZeroingComplete z.entry,
      s.eddies.flatMap fun e => offer (!e.2.waiting.isEmpty) (.sortBatch e.1),
      s.eddies.flatMap fun e => e.2.merging.flatMap fun b => offer (s.mergeMay e.1) (.mergeApply e.1 b),
      s.hostLines.map fun l => .backInvalidationAck l,
      offer s.service.down .serviceCoreRestartComplete,
      offer (!s.service.down && !s.service.ops.isEmpty) .regionControlPerform,
      s.brielo.drain.flatMap fun d => offer (s.brielo.count d.2 d.1 == 0) (.routeChangeDrain d.1),
      s.brielo.unconfirmed.flatMap fun u => offer (u.2 != 0) (.linkLevelConfirmation (u.1 / 256) (u.1 % 256)) ]

/-- Every turn the module may take by itself. -/
def State.turns (s : State) : List Turn :=
  ((List.range s.net.length).filterMap s.packetEvent).map .event
    ++ s.cores.flatMap (fun c => (if c.2.run.isSome then [.issue c.1] else []) ++ (s.coreTurns c.1).map .event)
    ++ ((List.range 4).flatMap s.feTurns ++ s.unitTurns).map .event

/-- With nothing on the agenda: boot, wake, or one of the turns the module may take, by the cycle (DESIGN CHOICE, log entry 8). -/
def State.ownTurn (s : State) : Act :=
  match s.power with
  | .booting => .run s (.moduleReset 0)
  | .waking => .run s .retentionExit
  | .active =>
    let ts := s.turns
    match ts[s.cycle % ts.length]? with
    | some t => s.takeTurn t
    | none => .done s
  | .retention => .done s
  | .off => .done s
  | .halted => .done s

/-- What a step does. -/
def State.plan (s : State) : Act :=
  match s.forced with
  | some (t, i) => .run t i
  | none =>
    match s.agenda with
    | t :: rest => ({ s with agenda := rest } : State).takeTurn t
    | [] => s.ownTurn

/-! ## After every turn: time passes, and waits end (Table 2-7, R289, R292) -/

/-- Core cycles pass: the next number of the pace, or one. DESIGN CHOICE, log entry 10. -/
def State.tick (s : State) : State :=
  let n := s.stepCycles
  let cores : SMap Core := s.cores.map fun c => (c.1, s.chargeRun n c.2)
  { s with cores := cores, cycle := s.cycle + n, pace := s.pace.drop 1 }

/-- Is the wait of a SLOTI or SLOTR for a frame over: the frame is Resident with its queue applied, or the refill queue
has a free entry (R389)? -/
def Core.refillOver (c : Core) (fid : Nat) : Bool :=
  decide (c.refq.length < 32) || !(c.refq.any (·.fid == fid)) && (c.frame fid).all fun f => f.st == .resident

/-- Has one of the symbols or pool entries been freed that were in use when a threadlet parked for want of them (Table 2-7)?
Those taken since, its saved forms among them, do not count (DEDUCED, log entry 85). -/
def Core.freedSince (c : Core) (syms entries since : Nat) : Bool :=
  decide ((c.syms.filter fun e => decide (e.2.born < since)).length < syms)
    || decide ((c.pool.filter fun e => decide (e.2.seq < since)).length < entries)

/-- Has the cause of a parked threadlet cleared (Table 2-7)? PARK until a TIME and RESUME have events of their own. -/
def State.waitOver (s : State) (core region : Nat) (p : Parked) : Bool :=
  let c := s.core core
  match p.wait with
  | .atOnce => true
  | .syms l => !(l.any fun i => (SMap.find c.syms i).any fun y =>
      (y.st == .pending || y.st == .awaiting) && decide (y.born < p.since))
  | .deferred seq => !c.effectsOpen p.tid seq
  | .copyQueue => decide (c.copyq.length < 32)
  | .tileQueue => decide (c.tileq.length < 32)
  | .stage => c.stageOpen
  | .refill fid => c.refillOver fid
  | .refillSpace fid => c.refillOver fid
  | .intake r => !s.intakeStopped core && s.canPush core r
  | .time _ => false
  | .acks => c.writesLeft p.tid == 0 && c.uack p.tid == 0
  | .supply syms entries => c.freedSince syms entries p.since
  | .regionResume => !s.suspended region
  | .faultDomain => false

/-- The waits of a core that are over end: parked threadlets become Ready, intake is tried again, commands leave; and pair
commands of a suspended region whose tiles are absent stop (R171). -/
def State.wakeCore (s : State) (n : Nat) : State :=
  let c := s.core n
  let up := c.frames.filter fun f => f.2.parked.any fun p => !p.ready && s.waitOver n f.2.region p
  (((up.foldl (fun s f => s.unpark n f.1) s).retryIntake n).settleCopies n).stopPairs n

/-- The ready entries of a core whose wait has raised their level join the list of that level at once (R288, R289). -/
def State.ageCore (s : State) (n : Nat) : State :=
  if (s.core n).ready.any fun e => decide (e.lvl < min 3 (e.level + (s.time - e.pushed) / 2000)) then s.ageEntries n else s

/-- The end of a step. -/
def State.after (s : State) : State :=
  let t := s.tick
  let t1 := (t.cores.map (·.1)).foldl State.ageCore t
  (t1.cores.map (·.1)).foldl State.wakeCore t1

end Sys2Proof.Machine
end

