-- ==== Sys2Proof/Machine/Step.lean ====
section
/-! DEFINITION. One step of the module, and the state whose next step runs a given instruction. -/

namespace Sys2Proof.Machine

open Sys2Proof

/-- One step: a turn is taken, time passes, and waits end. -/
def step (s : State) : Host.Outcome State Fault Refusal :=
  match s.plan with
  | .done t => .next t.after
  | .run t i =>
    match exec i t with
    | .next u => .next u.after
    | .fault e => .fault e
    | .refused e => .refused e

/-- The physical address that `withFetchWord` places an instruction's block at, and its virtual address. -/
def fetchBlock : Nat := 0x100000

/-- The translation under which that block is fetched. -/
def fetchPage : Tlb :=
  { asid := 1, va := 0x100000, size := 0x10000, pa := 0x100000, type := 0, w := true, sup := false, host := false }

/-- The frame its threadlet runs in. -/
def fetchFrame : Frame :=
  { cls := 4, region := 1, base := 0, st := .resident, arena := 0x20000000, zero := false, snap := none, used := 0,
    parked := none, freeing := false, ownFree := [], admitted := false, asked := 0, placed := false, armed := [], handler := 0 }

/-- Its threadlet, privileged and with a park area for vectors, about to issue index 0 of a block of two words. -/
def fetchRun : Run :=
  { tid := 0, fid := 1, slot := 0, region := 1, level := 0, sel := 0, block := fetchBlock, len := 1, parkw := 8,
    vuse := true, priv := true, idx := 0, x := [(30, .known 0x1000), (31, .known 0)], p := 0, m := [], v := [],
    fpst := 0, rep := none, runleft := 65536, ran := 0, bpSkip := 0 }

/-- The module with an instruction stored where its next step fetches: it stands for the boot and the launch that bring a
program to run (DESIGN CHOICE, log entry 7). -/
def State.withFetchWord (s : State) (nbits w : Nat) : State :=
  let k := s.chip 0
  let s1 := s.setChip 0 { k with icache := k.icache.filter fun l => !(l.asid == 1 && l.line == fetchBlock / 128) }
  let s2 := s1.onCore 0 fun c =>
    { c with run := some fetchRun, frames := SMap.set c.frames 1 fetchFrame
             tlb := fetchPage :: c.tlb.filter fun t => !t.covers 1 fetchBlock, bp := [] }
  { s2 with
    power := .active
    regions := SMap.set s.regions 1 { s.flash.deviceRegion with asid := 1, winStart := s.time }
    mem := Cells.write s.mem (fetchBlock + 16) (bytesOf 8 (w % 2 ^ nbits))
    agenda := .issue 0 :: s.agenda }

end Sys2Proof.Machine
end

