-- ==== Sys2Proof/Laws/Decode.lean ====
section
/-! SUPPORT. Fields of packed words, codes and their names, and the two shapes of an encoding: what the round trip of each
instruction is assembled from. -/

namespace Sys2Proof

/-! ## Extraction from a concatenation -/

@[simp] theorem extract_low {v w : Nat} (x : BitVec v) (y : BitVec w) (k l : Nat) (h : k + l ≤ w) :
    @BitVec.extractLsb' (no_index (v + w)) k l (@HAppend.hAppend (BitVec v) (BitVec w) (no_index (BitVec (v + w))) _ x y)
      = y.extractLsb' k l := BitVec.extractLsb'_append_eq_of_add_le h

@[simp] theorem extract_high {v w : Nat} (x : BitVec v) (y : BitVec w) (k l : Nat) (h : w ≤ k) :
    @BitVec.extractLsb' (no_index (v + w)) k l (@HAppend.hAppend (BitVec v) (BitVec w) (no_index (BitVec (v + w))) _ x y)
      = x.extractLsb' (k - w) l := BitVec.extractLsb'_append_eq_of_le h

theorem extract_join {n : Nat} (x : BitVec n) (s a b : Nat) :
    x.extractLsb' (s + b) a ++ x.extractLsb' s b = x.extractLsb' s (a + b) :=
  BitVec.extractLsb'_append_extractLsb'_eq_extractLsb' rfl

@[simp] theorem extract_extract {n : Nat} (x : BitVec n) (s m k l : Nat) (h : k + l ≤ m) :
    (x.extractLsb' s m).extractLsb' k l = x.extractLsb' (s + k) l := by
  apply BitVec.eq_of_getLsbD_eq
  intro i hi
  simp only [BitVec.getLsbD_extractLsb']
  simp [hi, show k + i < m by omega, Nat.add_assoc]

@[simp] theorem join11 (i : BitVec 11) : (i.extractLsb' 6 5 ++ i.extractLsb' 0 6 : BitVec 11) = i :=
  (extract_join i 0 5 6).trans BitVec.extractLsb'_eq_self

@[simp] theorem join15 (i : BitVec 15) : (i.extractLsb' 10 5 ++ i.extractLsb' 5 5 ++ i.extractLsb' 0 5 : BitVec 15) = i := by
  rw [extract_join i 5 5 5, extract_join i 0 10 5]
  exact BitVec.extractLsb'_eq_self

@[simp] theorem join21 (i : BitVec 21) :
    (i.extractLsb' 16 5 ++ i.extractLsb' 11 5 ++ i.extractLsb' 6 5 ++ i.extractLsb' 0 6 : BitVec 21) = i := by
  rw [extract_join i 11 5 5, extract_join i 6 10 5, extract_join i 0 15 6]
  exact BitVec.extractLsb'_eq_self

theorem wordOfBytes_bytesOfWord (w : BitVec 32) :
    wordOfBytes (w.extractLsb' 0 8) (w.extractLsb' 8 8) (w.extractLsb' 16 8) (w.extractLsb' 24 8) = w := by
  unfold wordOfBytes
  rw [extract_join w 16 8 8, extract_join w 8 16 8, extract_join w 0 24 8]
  exact BitVec.extractLsb'_eq_self

@[simp] theorem Fields.split_pack (f : Fields) : Fields.split f.pack = f := by
  simp [Fields.split, Fields.pack, extract_low, extract_high]

/-- A word whose OP is not 0x7F is not the all-ones word. -/
theorem Fields.pack_ne_allOnes (f : Fields) (h : f.op ≠ 127) : f.pack ≠ BitVec.allOnes 32 := by
  intro e
  exact h (by rw [← Fields.split_pack f, e]; decide)

/-! ## Codes and their names -/

@[simp] theorem Cond.ofCode_code (c : Cond) : Cond.ofCode c.code = some c := by cases c <;> rfl
@[simp] theorem CondA.ofCode_code (c : CondA) : CondA.ofCode c.code = some c := by cases c <;> rfl
@[simp] theorem CondB.ofCode_code (c : CondB) : CondB.ofCode c.code = some c := by cases c <;> rfl
@[simp] theorem FCond.ofCode_code (c : FCond) : FCond.ofCode c.code = some c := by cases c <;> rfl
@[simp] theorem PlogOp.ofCode_code (c : PlogOp) : PlogOp.ofCode c.code = some c := by cases c <;> rfl
@[simp] theorem MlogOp.ofCode_code (c : MlogOp) : MlogOp.ofCode c.code = some c := by cases c <;> rfl
@[simp] theorem Prec.ofCode_code (c : Prec) : Prec.ofCode c.code = some c := by cases c <;> rfl
@[simp] theorem Rnd.ofCode_code (c : Rnd) : Rnd.ofCode c.code = some c := by cases c <;> rfl
@[simp] theorem Cvt.ofCode_code (c : Cvt) : Cvt.ofCode c.code = some c := by cases c <;> rfl
@[simp] theorem Size.ofCode_code (c : Size) : Size.ofCode c.code = some c := by cases c <;> rfl
@[simp] theorem ASize.ofCode_code (c : ASize) : ASize.ofCode c.code = some c := by cases c <;> rfl
@[simp] theorem Ord.ofCode_code (c : Ord) : Ord.ofCode c.code = some c := by cases c <;> rfl
@[simp] theorem Evp.ofCode_code (c : Evp) : Evp.ofCode c.code = some c := by cases c <;> rfl
@[simp] theorem Scope.ofCode_code (c : Scope) : Scope.ofCode c.code = some c := by cases c <;> rfl
@[simp] theorem CopyDir.ofCode_code (c : CopyDir) : CopyDir.ofCode c.code = some c := by cases c <;> rfl
@[simp] theorem IdxWidth.ofCode_code (c : IdxWidth) : IdxWidth.ofCode c.code = some c := by cases c <;> rfl
@[simp] theorem MmgVal.ofCode_code (c : MmgVal) : MmgVal.ofCode c.code = some c := by cases c <;> rfl
@[simp] theorem MmgAct.ofCode_code (c : MmgAct) : MmgAct.ofCode c.code = some c := by cases c <;> rfl
@[simp] theorem Tag.ofCode_code (c : Tag) : Tag.ofCode c.code = some c := by cases c <;> rfl
@[simp] theorem VType.ofCode_code (c : VType) : VType.ofCode c.code = some c := by cases c <;> rfl
@[simp] theorem Et.ofCode_code (c : Et) : Et.ofCode c.code = some c := by cases c <;> rfl
@[simp] theorem EtF.ofCode_code (c : EtF) : EtF.ofCode c.code = some c := by cases c <;> rfl
@[simp] theorem VCond.ofCode_code (c : VCond) : VCond.ofCode c.code = some c := by cases c <;> rfl
@[simp] theorem LaneW.ofCode_code (c : LaneW) : LaneW.ofCode c.code = some c := by cases c <;> rfl
@[simp] theorem EtI.ofField_field (c : EtI) : EtI.ofField c.field = some c := by cases c <;> rfl
@[simp] theorem redOfField_redField (c : VType) : redOfField (redField c) = some c := by cases c <;> rfl

@[simp] theorem check_true (e : DecodeError) : check true e = .ok () := rfl
@[simp] theorem check_of (c : Bool) (e : DecodeError) (h : c = true) : check c e = .ok () := by rw [h]; rfl
@[simp] theorem bit1_eq_zero (b : Bool) : (bit1 b == 0#1) = !b := by cases b <;> rfl
@[simp] theorem asize_one : ASize.ofCode 1#1 = some .d := rfl
@[simp] theorem named_some {α : Type} (v : α) (e : DecodeError) : named (some v) e = .ok v := rfl
@[simp] theorem except_ok_bind {ε α β : Type} (v : α) (f : α → Except ε β) : (Except.ok v >>= f) = f v := rfl
@[simp] theorem bit1_eq_one (b : Bool) : (bit1 b == 1#1) = b := by cases b <;> rfl
@[simp] theorem vreg_vfield (v : VReg) : vreg (vfield v) = .ok v := by revert v; decide
@[simp] theorem low3Of_field3 (m : BitVec 3) : low3Of (field3 m) = .ok m := by revert m; decide
@[simp] theorem pdOf_field3 (k : PReg) (h : k ≠ 0) : pdOf (field3 k) = .ok k := by revert k; decide
@[simp] theorem mdOf_field3 (k : MReg) (h : k ≠ 0) : mdOf (field3 k) = .ok k := by revert k; decide
@[simp] theorem groupOf_ok (g : XReg) (n : Nat) (h : groupOk g n = true) : groupOf g n = .ok g := by simp [groupOf, h]
@[simp] theorem rndOf_code (r : Rnd) : rndOf r.code = .ok r := by simp [rndOf]

/-! ## Decoding one word and two -/

theorem decode_one (w : BitVec 32) : decode ([w].flatMap bytesOfWord) = decodeWords w none := by
  simp [decode, bytesOfWord, wordOfBytes_bytesOfWord]

theorem decode_two (w v : BitVec 32) : decode ([w, v].flatMap bytesOfWord) = decodeWords w (some v) := by
  simp [decode, bytesOfWord, wordOfBytes_bytesOfWord]

/-- The fields that a packed word of format XR splits into. -/
def xrFields (g : Guard) (op : BitVec 7) (d a b : BitVec 5) (fn : BitVec 6) : Fields :=
  { pg := g.pg, pn := bit1 g.pn, op := op, d := d, a := a, b := b, fn := fn }

@[simp] theorem xrFields_guard (g : Guard) (op : BitVec 7) (d a b : BitVec 5) (fn : BitVec 6) :
    (xrFields g op d a b fn).guard = g := by
  cases g; simp [xrFields, Fields.guard]

@[simp] theorem xrFields_op (g : Guard) (op : BitVec 7) (d a b : BitVec 5) (fn : BitVec 6) :
    (xrFields g op d a b fn).op = op := rfl
@[simp] theorem xrFields_d (g : Guard) (op : BitVec 7) (d a b : BitVec 5) (fn : BitVec 6) :
    (xrFields g op d a b fn).d = d := rfl
@[simp] theorem xrFields_a (g : Guard) (op : BitVec 7) (d a b : BitVec 5) (fn : BitVec 6) :
    (xrFields g op d a b fn).a = a := rfl
@[simp] theorem xrFields_b (g : Guard) (op : BitVec 7) (d a b : BitVec 5) (fn : BitVec 6) :
    (xrFields g op d a b fn).b = b := rfl
@[simp] theorem xrFields_fn (g : Guard) (op : BitVec 7) (d a b : BitVec 5) (fn : BitVec 6) :
    (xrFields g op d a b fn).fn = fn := rfl

@[simp] theorem xrFields_imm11 (g : Guard) (op : BitVec 7) (d a b : BitVec 5) (fn : BitVec 6) :
    (xrFields g op d a b fn).imm11 = b ++ fn := rfl
@[simp] theorem xrFields_off21 (g : Guard) (op : BitVec 7) (d a b : BitVec 5) (fn : BitVec 6) :
    (xrFields g op d a b fn).off21 = d ++ a ++ b ++ fn := rfl
@[simp] theorem xrFields_code15 (g : Guard) (op : BitVec 7) (d a b : BitVec 5) (fn : BitVec 6) :
    (xrFields g op d a b fn).code15 = d ++ a ++ b := rfl
@[simp] theorem xrFields_m (g : Guard) (op : BitVec 7) (d a b : BitVec 5) (fn : BitVec 6) :
    (xrFields g op d a b fn).m = fn.extractLsb' 3 3 := rfl
@[simp] theorem xrFields_vfn (g : Guard) (op : BitVec 7) (d a b : BitVec 5) (fn : BitVec 6) :
    (xrFields g op d a b fn).vfn = fn.extractLsb' 0 3 := rfl

/-- One word decodes by its OP. -/
theorem decode_short_eq {g : Guard} {op : BitVec 7} {d a b : BitVec 5} {fn : BitVec 6}
    (hop : isLongOp op = false) (hne : op ≠ 127) :
    decode ([wordXR g op d a b fn].flatMap bytesOfWord) = decShort (xrFields g op d a b fn) := by
  rw [decode_one, decodeWords, show wordXR g op d a b fn = (xrFields g op d a b fn).pack from rfl,
    if_neg (by simpa using Fields.pack_ne_allOnes _ hne)]
  simp [hop]

/-- A one-word instruction decodes by its OP. -/
theorem decode_short {g : Guard} {op : BitVec 7} {d a b : BitVec 5} {fn : BitVec 6} {i : Instr}
    (hop : isLongOp op = false) (hne : op ≠ 127) (h : decShort (xrFields g op d a b fn) = .ok i) :
    decode ([wordXR g op d a b fn].flatMap bytesOfWord) = .ok i := (decode_short_eq hop hne).trans h

/-- Two words decode by their OP and the second word. -/
theorem decode_long_eq {g : Guard} {op : BitVec 7} {d a b : BitVec 5} {fn : BitVec 6} {w : BitVec 32}
    (hop : isLongOp op = true) (hne : op ≠ 127) :
    decode ([wordXR g op d a b fn, w].flatMap bytesOfWord) = decLong (xrFields g op d a b fn) w := by
  rw [decode_two, decodeWords, show wordXR g op d a b fn = (xrFields g op d a b fn).pack from rfl,
    if_neg (by simpa using Fields.pack_ne_allOnes _ hne)]
  simp [hop]

/-- A two-word instruction decodes by its OP and its second word. -/
theorem decode_long {g : Guard} {op : BitVec 7} {d a b : BitVec 5} {fn : BitVec 6} {w : BitVec 32} {i : Instr}
    (hop : isLongOp op = true) (hne : op ≠ 127) (h : decLong (xrFields g op d a b fn) w = .ok i) :
    decode ([wordXR g op d a b fn, w].flatMap bytesOfWord) = .ok i := (decode_long_eq hop hne).trans h

/-! ## Words of format XI -/

/-- The fields of a word of formats XI, XS and XE. -/
def xiFields (g : Guard) (op : BitVec 7) (d a : BitVec 5) (i : BitVec 11) : Fields :=
  xrFields g op d a (i.extractLsb' 6 5) (i.extractLsb' 0 6)

@[simp] theorem xiFields_guard (g : Guard) (op : BitVec 7) (d a : BitVec 5) (i : BitVec 11) :
    (xiFields g op d a i).guard = g := xrFields_guard ..
@[simp] theorem xiFields_op (g : Guard) (op : BitVec 7) (d a : BitVec 5) (i : BitVec 11) :
    (xiFields g op d a i).op = op := rfl
@[simp] theorem xiFields_d (g : Guard) (op : BitVec 7) (d a : BitVec 5) (i : BitVec 11) :
    (xiFields g op d a i).d = d := rfl
@[simp] theorem xiFields_a (g : Guard) (op : BitVec 7) (d a : BitVec 5) (i : BitVec 11) :
    (xiFields g op d a i).a = a := rfl
@[simp] theorem xiFields_b (g : Guard) (op : BitVec 7) (d a : BitVec 5) (i : BitVec 11) :
    (xiFields g op d a i).b = i.extractLsb' 6 5 := rfl
@[simp] theorem xiFields_fn (g : Guard) (op : BitVec 7) (d a : BitVec 5) (i : BitVec 11) :
    (xiFields g op d a i).fn = i.extractLsb' 0 6 := rfl
@[simp] theorem xiFields_imm11 (g : Guard) (op : BitVec 7) (d a : BitVec 5) (i : BitVec 11) :
    (xiFields g op d a i).imm11 = i := join11 i

/-- A one-word instruction of format XI decodes by its OP. -/
theorem decode_short_xi {g : Guard} {op : BitVec 7} {d a : BitVec 5} {i : BitVec 11} {ins : Instr}
    (hop : isLongOp op = false) (hne : op ≠ 127) (h : decShort (xiFields g op d a i) = .ok ins) :
    decode ([wordXI g op d a i].flatMap bytesOfWord) = .ok ins := decode_short hop hne h

/-! ## The decoder by OP -/

theorem decShort_00 (f : Fields) (h : f.op = 0x00) : decShort f = decInt f := by
  rw [decShort, h]; rfl
theorem decShort_01 (f : Fields) (h : f.op = 0x01) : decShort f = .ok (.addi f.guard f.d f.a f.imm11) := by
  rw [decShort, h]; rfl
theorem decShort_02 (f : Fields) (h : f.op = 0x02) : decShort f = .ok (.andi f.guard f.d f.a f.imm11) := by
  rw [decShort, h]; rfl
theorem decShort_03 (f : Fields) (h : f.op = 0x03) : decShort f = .ok (.ori f.guard f.d f.a f.imm11) := by
  rw [decShort, h]; rfl
theorem decShort_04 (f : Fields) (h : f.op = 0x04) : decShort f = .ok (.xori f.guard f.d f.a f.imm11) := by
  rw [decShort, h]; rfl
theorem decShort_05 (f : Fields) (h : f.op = 0x05) : decShort f = decShiftImm f := by
  rw [decShort, h]; rfl
theorem decShort_07 (f : Fields) (h : f.op = 0x07) : decShort f = decSel f := by
  rw [decShort, h]; rfl
theorem decShort_10 (f : Fields) (h : f.op = 0x10) : decShort f = decSetp f := by
  rw [decShort, h]; rfl
theorem decShort_11 (f : Fields) (h : f.op = 0x11) : decShort f = decSetpiA f := by
  rw [decShort, h]; rfl
theorem decShort_12 (f : Fields) (h : f.op = 0x12) : decShort f = decSetpiB f := by
  rw [decShort, h]; rfl
theorem decShort_13 (f : Fields) (h : f.op = 0x13) : decShort f = decFsetp f := by
  rw [decShort, h]; rfl
theorem decShort_14 (f : Fields) (h : f.op = 0x14) : decShort f = decPlog f := by
  rw [decShort, h]; rfl
theorem decShort_18 (f : Fields) (h : f.op = 0x18) : decShort f = decFadd f := by
  rw [decShort, h]; rfl
theorem decShort_19 (f : Fields) (h : f.op = 0x19) : decShort f = decFsub f := by
  rw [decShort, h]; rfl
theorem decShort_1A (f : Fields) (h : f.op = 0x1A) : decShort f = decFmul f := by
  rw [decShort, h]; rfl
theorem decShort_1B (f : Fields) (h : f.op = 0x1B) : decShort f = decFfma f := by
  rw [decShort, h]; rfl
theorem decShort_1C (f : Fields) (h : f.op = 0x1C) : decShort f = decFdiv f := by
  rw [decShort, h]; rfl
theorem decShort_1D (f : Fields) (h : f.op = 0x1D) : decShort f = decFsqrt f := by
  rw [decShort, h]; rfl
theorem decShort_1E (f : Fields) (h : f.op = 0x1E) : decShort f = decFminmax f := by
  rw [decShort, h]; rfl
theorem decShort_1F (f : Fields) (h : f.op = 0x1F) : decShort f = decFcvt f := by
  rw [decShort, h]; rfl
theorem decShort_20 (f : Fields) (h : f.op = 0x20) : decShort f = .ok (.br f.guard f.off21) := by
  rw [decShort, h]; rfl
theorem decShort_21 (f : Fields) (h : f.op = 0x21) : decShort f = .ok (.call f.guard f.off21) := by
  rw [decShort, h]; rfl
theorem decShort_22 (f : Fields) (h : f.op = 0x22) : decShort f = decJump f := by
  rw [decShort, h]; rfl
theorem decShort_23 (f : Fields) (h : f.op = 0x23) : decShort f = decRep f := by
  rw [decShort, h]; rfl
theorem decShort_24 (f : Fields) (h : f.op = 0x24) : decShort f = decControl f := by
  rw [decShort, h]; rfl
theorem decShort_28 (f : Fields) (h : f.op = 0x28) : decShort f = decFrame f := by
  rw [decShort, h]; rfl
theorem decShort_29 (f : Fields) (h : f.op = 0x29) : decShort f = decSlot f := by
  rw [decShort, h]; rfl
theorem decShort_2A (f : Fields) (h : f.op = 0x2A) : decShort f = decSig f := by
  rw [decShort, h]; rfl
theorem decShort_2B (f : Fields) (h : f.op = 0x2B) : decShort f = .ok (.sref f.guard f.d f.a f.imm11) := by
  rw [decShort, h]; rfl
theorem decShort_2C (f : Fields) (h : f.op = 0x2C) : decShort f = decAmsg f := by
  rw [decShort, h]; rfl
theorem decShort_2D (f : Fields) (h : f.op = 0x2D) : decShort f = decArm f := by
  rw [decShort, h]; rfl
theorem decShort_30 (f : Fields) (h : f.op = 0x30) : decShort f = decLd f := by
  rw [decShort, h]; rfl
theorem decShort_31 (f : Fields) (h : f.op = 0x31) : decShort f = decSt f := by
  rw [decShort, h]; rfl
theorem decShort_32 (f : Fields) (h : f.op = 0x32) : decShort f = decLdz f := by
  rw [decShort, h]; rfl
theorem decShort_33 (f : Fields) (h : f.op = 0x33) : decShort f = decStz f := by
  rw [decShort, h]; rfl
theorem decShort_38 (f : Fields) (h : f.op = 0x38) : decShort f = decGld f := by
  rw [decShort, h]; rfl
theorem decShort_39 (f : Fields) (h : f.op = 0x39) : decShort f = decLdl f := by
  rw [decShort, h]; rfl
theorem decShort_3A (f : Fields) (h : f.op = 0x3A) : decShort f = decGst f := by
  rw [decShort, h]; rfl
theorem decShort_3B (f : Fields) (h : f.op = 0x3B) : decShort f = decGstv f := by
  rw [decShort, h]; rfl
theorem decShort_3C (f : Fields) (h : f.op = 0x3C) : decShort f = decPref f := by
  rw [decShort, h]; rfl
theorem decShort_3D (f : Fields) (h : f.op = 0x3D) : decShort f = decAtomic f := by
  rw [decShort, h]; rfl
theorem decShort_40 (f : Fields) (h : f.op = 0x40) : decShort f = decFence f := by
  rw [decShort, h]; rfl
theorem decShort_41 (f : Fields) (h : f.op = 0x41) : decShort f = decFenceq f := by
  rw [decShort, h]; rfl
theorem decShort_42 (f : Fields) (h : f.op = 0x42) : decShort f = decIflush f := by
  rw [decShort, h]; rfl
theorem decShort_43 (f : Fields) (h : f.op = 0x43) : decShort f = decUpd f := by
  rw [decShort, h]; rfl
theorem decShort_44 (f : Fields) (h : f.op = 0x44) : decShort f = decUpdv f := by
  rw [decShort, h]; rfl
theorem decShort_45 (f : Fields) (h : f.op = 0x45) : decShort f = decUapply f := by
  rw [decShort, h]; rfl
theorem decShort_48 (f : Fields) (h : f.op = 0x48) : decShort f = decCpy f := by
  rw [decShort, h]; rfl
theorem decShort_49 (f : Fields) (h : f.op = 0x49) : decShort f = decCpy2 f := by
  rw [decShort, h]; rfl
theorem decShort_4A (f : Fields) (h : f.op = 0x4A) : decShort f = decCpym f := by
  rw [decShort, h]; rfl
theorem decShort_4B (f : Fields) (h : f.op = 0x4B) : decShort f = decGthr f := by
  rw [decShort, h]; rfl
theorem decShort_50 (f : Fields) (h : f.op = 0x50) : decShort f = decRcfg f := by
  rw [decShort, h]; rfl
theorem decShort_51 (f : Fields) (h : f.op = 0x51) : decShort f = decRadv f := by
  rw [decShort, h]; rfl
theorem decShort_52 (f : Fields) (h : f.op = 0x52) : decShort f = decMma f := by
  rw [decShort, h]; rfl
theorem decShort_53 (f : Fields) (h : f.op = 0x53) : decShort f = decMmas f := by
  rw [decShort, h]; rfl
theorem decShort_54 (f : Fields) (h : f.op = 0x54) : decShort f = decMmg f := by
  rw [decShort, h]; rfl
theorem decShort_55 (f : Fields) (h : f.op = 0x55) : decShort f = decAcc f := by
  rw [decShort, h]; rfl
theorem decShort_56 (f : Fields) (h : f.op = 0x56) : decShort f = decAccst f := by
  rw [decShort, h]; rfl
theorem decShort_57 (f : Fields) (h : f.op = 0x57) : decShort f = decSscfg f := by
  rw [decShort, h]; rfl
theorem decShort_58 (f : Fields) (h : f.op = 0x58) : decShort f = decVarith .f32 f := by
  rw [decShort, h]; rfl
theorem decShort_59 (f : Fields) (h : f.op = 0x59) : decShort f = decVarith .f16 f := by
  rw [decShort, h]; rfl
theorem decShort_5A (f : Fields) (h : f.op = 0x5A) : decShort f = decVarith .bf16 f := by
  rw [decShort, h]; rfl
theorem decShort_5B (f : Fields) (h : f.op = 0x5B) : decShort f = decVarith .i32 f := by
  rw [decShort, h]; rfl
theorem decShort_5C (f : Fields) (h : f.op = 0x5C) : decShort f = decVarith .i16 f := by
  rw [decShort, h]; rfl
theorem decShort_5D (f : Fields) (h : f.op = 0x5D) : decShort f = decVarith .i8 f := by
  rw [decShort, h]; rfl
theorem decShort_5E (f : Fields) (h : f.op = 0x5E) : decShort f = decVlogic f := by
  rw [decShort, h]; rfl
theorem decShort_5F (f : Fields) (h : f.op = 0x5F) : decShort f = decVshift f := by
  rw [decShort, h]; rfl
theorem decShort_60 (f : Fields) (h : f.op = 0x60) : decShort f = decVcmp f := by
  rw [decShort, h]; rfl
theorem decShort_61 (f : Fields) (h : f.op = 0x61) : decShort f = decVfunc f := by
  rw [decShort, h]; rfl
theorem decShort_62 (f : Fields) (h : f.op = 0x62) : decShort f = decVred f := by
  rw [decShort, h]; rfl
theorem decShort_63 (f : Fields) (h : f.op = 0x63) : decShort f = decVmove f := by
  rw [decShort, h]; rfl
theorem decShort_64 (f : Fields) (h : f.op = 0x64) : decShort f = decVld f := by
  rw [decShort, h]; rfl
theorem decShort_65 (f : Fields) (h : f.op = 0x65) : decShort f = decVst f := by
  rw [decShort, h]; rfl
theorem decShort_66 (f : Fields) (h : f.op = 0x66) : decShort f = decMlog f := by
  rw [decShort, h]; rfl
theorem decShort_68 (f : Fields) (h : f.op = 0x68) : decShort f = decRdsr f := by
  rw [decShort, h]; rfl
theorem decShort_69 (f : Fields) (h : f.op = 0x69) : decShort f = decWrsr f := by
  rw [decShort, h]; rfl
theorem decShort_6A (f : Fields) (h : f.op = 0x6A) : decShort f = decRgnctl f := by
  rw [decShort, h]; rfl
theorem decShort_6B (f : Fields) (h : f.op = 0x6B) : decShort f = decTlbinv f := by
  rw [decShort, h]; rfl
theorem decShort_6C (f : Fields) (h : f.op = 0x6C) : decShort f = decWaycfg f := by
  rw [decShort, h]; rfl
theorem decShort_6D (f : Fields) (h : f.op = 0x6D) : decShort f = decSymq f := by
  rw [decShort, h]; rfl
theorem decShort_6E (f : Fields) (h : f.op = 0x6E) : decShort f = decResume f := by
  rw [decShort, h]; rfl

theorem decShort_varith (t : VType) (f : Fields) (h : f.op = t.op) : decShort f = decVarith t f := by
  cases t <;> rw [decShort, h] <;> rfl

theorem VType.op_short (t : VType) : isLongOp t.op = false ∧ t.op ≠ 127 := by cases t <;> decide

/-! ## Words as numbers -/
theorem append_toNat {v w : Nat} (x : BitVec v) (y : BitVec w) :
    BitVec.toNat (w := no_index _) (@HAppend.hAppend (BitVec v) (BitVec w) (no_index (BitVec (v + w))) _ x y)
      = x.toNat * 2 ^ w + y.toNat := by
  show (x ++ y).toNat = _
  rw [BitVec.toNat_append, Nat.shiftLeft_eq, Nat.mul_comm, ← Nat.two_pow_add_eq_or_of_lt y.isLt]

theorem pack_toNat (f : Fields) : f.pack.toNat = ((((((f.pg.toNat * 2 + f.pn.toNat) * 128 + f.op.toNat) * 32 + f.d.toNat) * 32 + f.a.toNat) * 32 + f.b.toNat) * 64 + f.fn.toNat) := by
  unfold Fields.pack
  simp only [append_toNat]
  norm_num

/-- The number of an unguarded word. -/
theorem wordXR_unguarded (op : BitVec 7) (d a b : BitVec 5) (fn : BitVec 6) :
    wordXR ⟨0, false⟩ op d a b fn
      = BitVec.ofNat 32 (op.toNat * 2 ^ 21 + 65536 * d.toNat + 2048 * a.toNat + 64 * b.toNat + fn.toNat) := by
  apply BitVec.eq_of_toNat_eq
  rw [show wordXR ⟨0, false⟩ op d a b fn = (xrFields ⟨0, false⟩ op d a b fn).pack from rfl, pack_toNat]
  have := op.isLt; have := d.isLt; have := a.isLt; have := b.isLt; have := fn.isLt
  simp [xrFields, bit1]
  omega

theorem wordXI_unguarded (op : BitVec 7) (d a : BitVec 5) (i : BitVec 11) :
    wordXI ⟨0, false⟩ op d a i
      = BitVec.ofNat 32 (op.toNat * 2 ^ 21 + 65536 * d.toNat + 2048 * a.toNat + i.toNat) := by
  unfold wordXI
  rw [wordXR_unguarded]
  have : (i.extractLsb' 6 5).toNat * 64 + (i.extractLsb' 0 6).toNat = i.toNat := by
    have h := append_toNat (i.extractLsb' 6 5) (i.extractLsb' 0 6)
    rw [join11] at h
    omega
  exact congrArg (BitVec.ofNat 32) (by omega)

end Sys2Proof
end

