-- ==== Sys2Proof/Laws/PerInstr.lean ====
section
/-! SUPPORT. The family EncodeDecode: for each constructor, the words of a well-formed instruction decode to it. -/

namespace Sys2Proof.Laws.EncodeDecode

open Sys2Proof

/-- The bytes of the words of a well-formed instruction decode to the instruction; an event has no words. -/
def Statement (i : Instr) : Prop :=
  i.wf = true → i.isEvent = false → decode ((encode i).flatMap bytesOfWord) = .ok i

theorem add (g : Guard) (d a b : XReg) : Statement (.add g d a b) := by
  intro hw _
  have hw : (!(g == ⟨0, false⟩ && d == 0 && a == 0 && b == 0)) = true := hw
  rw [Bool.not_eq_true'] at hw
  refine decode_short (by decide) (by decide) ?_
  rw [decShort_00 _ rfl]
  show (if _ then _ else _) = _
  rw [xrFields_guard, xrFields_d, xrFields_a, xrFields_b, hw]
  rfl

theorem sub (g : Guard) (d a b : XReg) : Statement (.sub g d a b) := by
  intro _ _
  exact decode_short (by decide) (by decide) (by rw [decShort_00 _ rfl]; simp [decInt])

theorem and (g : Guard) (d a b : XReg) : Statement (.and g d a b) := by
  intro _ _
  exact decode_short (by decide) (by decide) (by rw [decShort_00 _ rfl]; simp [decInt])

theorem or (g : Guard) (d a b : XReg) : Statement (.or g d a b) := by
  intro _ _
  exact decode_short (by decide) (by decide) (by rw [decShort_00 _ rfl]; simp [decInt])

theorem xor (g : Guard) (d a b : XReg) : Statement (.xor g d a b) := by
  intro _ _
  exact decode_short (by decide) (by decide) (by rw [decShort_00 _ rfl]; simp [decInt])

theorem shl (g : Guard) (d a b : XReg) : Statement (.shl g d a b) := by
  intro _ _
  exact decode_short (by decide) (by decide) (by rw [decShort_00 _ rfl]; simp [decInt])

theorem shr (g : Guard) (d a b : XReg) : Statement (.shr g d a b) := by
  intro _ _
  exact decode_short (by decide) (by decide) (by rw [decShort_00 _ rfl]; simp [decInt])

theorem sar (g : Guard) (d a b : XReg) : Statement (.sar g d a b) := by
  intro _ _
  exact decode_short (by decide) (by decide) (by rw [decShort_00 _ rfl]; simp [decInt])

theorem min (g : Guard) (d a b : XReg) : Statement (.min g d a b) := by
  intro _ _
  exact decode_short (by decide) (by decide) (by rw [decShort_00 _ rfl]; simp [decInt])

theorem max (g : Guard) (d a b : XReg) : Statement (.max g d a b) := by
  intro _ _
  exact decode_short (by decide) (by decide) (by rw [decShort_00 _ rfl]; simp [decInt])

theorem minu (g : Guard) (d a b : XReg) : Statement (.minu g d a b) := by
  intro _ _
  exact decode_short (by decide) (by decide) (by rw [decShort_00 _ rfl]; simp [decInt])

theorem maxu (g : Guard) (d a b : XReg) : Statement (.maxu g d a b) := by
  intro _ _
  exact decode_short (by decide) (by decide) (by rw [decShort_00 _ rfl]; simp [decInt])

theorem mul (g : Guard) (d a b : XReg) : Statement (.mul g d a b) := by
  intro _ _
  exact decode_short (by decide) (by decide) (by rw [decShort_00 _ rfl]; simp [decInt])

theorem mulh (g : Guard) (d a b : XReg) : Statement (.mulh g d a b) := by
  intro _ _
  exact decode_short (by decide) (by decide) (by rw [decShort_00 _ rfl]; simp [decInt])

theorem mulhu (g : Guard) (d a b : XReg) : Statement (.mulhu g d a b) := by
  intro _ _
  exact decode_short (by decide) (by decide) (by rw [decShort_00 _ rfl]; simp [decInt])

theorem div (g : Guard) (d a b : XReg) : Statement (.div g d a b) := by
  intro _ _
  exact decode_short (by decide) (by decide) (by rw [decShort_00 _ rfl]; simp [decInt])

theorem divu (g : Guard) (d a b : XReg) : Statement (.divu g d a b) := by
  intro _ _
  exact decode_short (by decide) (by decide) (by rw [decShort_00 _ rfl]; simp [decInt])

theorem rem (g : Guard) (d a b : XReg) : Statement (.rem g d a b) := by
  intro _ _
  exact decode_short (by decide) (by decide) (by rw [decShort_00 _ rfl]; simp [decInt])

theorem remu (g : Guard) (d a b : XReg) : Statement (.remu g d a b) := by
  intro _ _
  exact decode_short (by decide) (by decide) (by rw [decShort_00 _ rfl]; simp [decInt])

theorem clz (g : Guard) (d a : XReg) : Statement (.clz g d a) := by
  intro _ _
  exact decode_short (by decide) (by decide) (by rw [decShort_00 _ rfl]; simp [decInt])

theorem ctz (g : Guard) (d a : XReg) : Statement (.ctz g d a) := by
  intro _ _
  exact decode_short (by decide) (by decide) (by rw [decShort_00 _ rfl]; simp [decInt])

theorem popc (g : Guard) (d a : XReg) : Statement (.popc g d a) := by
  intro _ _
  exact decode_short (by decide) (by decide) (by rw [decShort_00 _ rfl]; simp [decInt])

theorem addi (g : Guard) (d a : XReg) (imm : BitVec 11) : Statement (.addi g d a imm) := by
  intro _ _
  exact decode_short_xi (by decide) (by decide) (by rw [decShort_01 _ rfl]; simp [])

theorem andi (g : Guard) (d a : XReg) (imm : BitVec 11) : Statement (.andi g d a imm) := by
  intro _ _
  exact decode_short_xi (by decide) (by decide) (by rw [decShort_02 _ rfl]; simp [])

theorem ori (g : Guard) (d a : XReg) (imm : BitVec 11) : Statement (.ori g d a imm) := by
  intro _ _
  exact decode_short_xi (by decide) (by decide) (by rw [decShort_03 _ rfl]; simp [])

theorem xori (g : Guard) (d a : XReg) (imm : BitVec 11) : Statement (.xori g d a imm) := by
  intro _ _
  exact decode_short_xi (by decide) (by decide) (by rw [decShort_04 _ rfl]; simp [])

theorem shli (g : Guard) (d a : XReg) (sh : BitVec 6) : Statement (.shli g d a sh) := by
  intro _ _
  exact decode_short_xi (by decide) (by decide) (by rw [decShort_05 _ rfl]; simp [decShiftImm])

theorem shri (g : Guard) (d a : XReg) (sh : BitVec 6) : Statement (.shri g d a sh) := by
  intro _ _
  exact decode_short_xi (by decide) (by decide) (by rw [decShort_05 _ rfl]; simp [decShiftImm])

theorem sari (g : Guard) (d a : XReg) (sh : BitVec 6) : Statement (.sari g d a sh) := by
  intro _ _
  exact decode_short_xi (by decide) (by decide) (by rw [decShort_05 _ rfl]; simp [decShiftImm])

theorem sel (g : Guard) (d a b : XReg) (k : PReg) : Statement (.sel g d a b k) := by
  intro _ _
  exact decode_short (by decide) (by decide) (by rw [decShort_07 _ rfl]; simp [decSel])

theorem setp (g : Guard) (cond : Cond) (pd : PReg) (a b : XReg) : Statement (.setp g cond pd a b) := by
  intro hw _
  have hw : (pd != 0) = true := hw
  exact decode_short (by decide) (by decide) (by rw [decShort_10 _ rfl]; simp_all [decSetp])

theorem setpiA (g : Guard) (cond : CondA) (pd : PReg) (a : XReg) (imm : BitVec 11) : Statement (.setpiA g cond pd a imm) := by
  intro hw _
  have hw : (pd != 0) = true := hw
  exact decode_short_xi (by decide) (by decide) (by rw [decShort_11 _ rfl]; simp_all [decSetpiA])

theorem setpiB (g : Guard) (cond : CondB) (pd : PReg) (a : XReg) (imm : BitVec 11) : Statement (.setpiB g cond pd a imm) := by
  intro hw _
  have hw : (pd != 0) = true := hw
  exact decode_short_xi (by decide) (by decide) (by rw [decShort_12 _ rfl]; simp_all [decSetpiB])

theorem fsetp (g : Guard) (prec : Prec) (cond : FCond) (pd : PReg) (a b : XReg) : Statement (.fsetp g prec cond pd a b) := by
  intro hw _
  have hw : (pd != 0) = true := hw
  exact decode_short (by decide) (by decide) (by rw [decShort_13 _ rfl]; simp_all [decFsetp])

theorem plog (g : Guard) (op : PlogOp) (pd pa pb : PReg) : Statement (.plog g op pd pa pb) := by
  intro hw _
  have hw : (pd != 0 && (op != .not || pb == 0)) = true := hw
  exact decode_short (by decide) (by decide) (by rw [decShort_14 _ rfl]; simp_all [decPlog])

theorem fadd (g : Guard) (prec : Prec) (sat : Bool) (rnd : Rnd) (d a b : XReg) : Statement (.fadd g prec sat rnd d a b) := by
  intro _ _
  exact decode_short (by decide) (by decide) (by rw [decShort_18 _ rfl]; simp [decFadd, decFp, fpFn])

theorem fsub (g : Guard) (prec : Prec) (sat : Bool) (rnd : Rnd) (d a b : XReg) : Statement (.fsub g prec sat rnd d a b) := by
  intro _ _
  exact decode_short (by decide) (by decide) (by rw [decShort_19 _ rfl]; simp [decFsub, decFp, fpFn])

theorem fmul (g : Guard) (prec : Prec) (sat : Bool) (rnd : Rnd) (d a b : XReg) : Statement (.fmul g prec sat rnd d a b) := by
  intro _ _
  exact decode_short (by decide) (by decide) (by rw [decShort_1A _ rfl]; simp [decFmul, decFp, fpFn])

theorem ffma (g : Guard) (prec : Prec) (sat : Bool) (rnd : Rnd) (d a b : XReg) : Statement (.ffma g prec sat rnd d a b) := by
  intro _ _
  exact decode_short (by decide) (by decide) (by rw [decShort_1B _ rfl]; simp [decFfma, decFp, fpFn])

theorem fdiv (g : Guard) (prec : Prec) (sat : Bool) (rnd : Rnd) (d a b : XReg) : Statement (.fdiv g prec sat rnd d a b) := by
  intro _ _
  exact decode_short (by decide) (by decide) (by rw [decShort_1C _ rfl]; simp [decFdiv, decFp, fpFn])

theorem fsqrt (g : Guard) (prec : Prec) (sat : Bool) (rnd : Rnd) (d a : XReg) : Statement (.fsqrt g prec sat rnd d a) := by
  intro _ _
  exact decode_short (by decide) (by decide) (by rw [decShort_1D _ rfl]; simp [decFsqrt, decFp, fpFn])

theorem fmin (g : Guard) (prec : Prec) (d a b : XReg) : Statement (.fmin g prec d a b) := by
  intro _ _
  exact decode_short (by decide) (by decide) (by rw [decShort_1E _ rfl]; simp [decFminmax])

theorem fmax (g : Guard) (prec : Prec) (d a b : XReg) : Statement (.fmax g prec d a b) := by
  intro _ _
  exact decode_short (by decide) (by decide) (by rw [decShort_1E _ rfl]; simp [decFminmax])

theorem fclass (g : Guard) (prec : Prec) (d a : XReg) : Statement (.fclass g prec d a) := by
  intro _ _
  exact decode_short (by decide) (by decide) (by rw [decShort_1E _ rfl]; simp [decFminmax])

theorem fcvt (g : Guard) (cv : Cvt) (sat : Bool) (rnd : Rnd) (d a : XReg) : Statement (.fcvt g cv sat rnd d a) := by
  intro _ _
  exact decode_short (by decide) (by decide) (by rw [decShort_1F _ rfl]; simp [decFcvt])

theorem br (g : Guard) (off : BitVec 21) : Statement (.br g off) := by
  intro _ _
  exact decode_short (by decide) (by decide) (by rw [decShort_20 _ rfl]; simp [])

theorem call (g : Guard) (off : BitVec 21) : Statement (.call g off) := by
  intro _ _
  exact decode_short (by decide) (by decide) (by rw [decShort_21 _ rfl]; simp [])

theorem jr (g : Guard) (a : XReg) : Statement (.jr g a) := by
  intro _ _
  exact decode_short (by decide) (by decide) (by rw [decShort_22 _ rfl]; simp [decJump])

theorem ret (g : Guard) : Statement (.ret g) := by
  intro _ _
  exact decode_short (by decide) (by decide) (by rw [decShort_22 _ rfl]; simp [decJump])

theorem rep (g : Guard) (a : XReg) (n : BitVec 7) : Statement (.rep g a n) := by
  intro hw _
  have hw : (n != 0) = true := hw
  exact decode_short_xi (by decide) (by decide) (by rw [decShort_23 _ rfl]; simp_all [decRep])

theorem fin (g : Guard) : Statement (.fin g) := by
  intro _ _
  exact decode_short (by decide) (by decide) (by rw [decShort_24 _ rfl]; simp [decControl])

theorem park (g : Guard) (a : XReg) : Statement (.park g a) := by
  intro _ _
  exact decode_short (by decide) (by decide) (by rw [decShort_24 _ rfl]; simp [decControl])

theorem nop (g : Guard) : Statement (.nop g) := by
  intro _ _
  exact decode_short (by decide) (by decide) (by rw [decShort_24 _ rfl]; simp [decControl])

theorem brk (g : Guard) (code : BitVec 15) : Statement (.brk g code) := by
  intro _ _
  exact decode_short (by decide) (by decide) (by rw [decShort_24 _ rfl]; simp [decControl])

theorem trap (g : Guard) (code : BitVec 15) : Statement (.trap g code) := by
  intro _ _
  exact decode_short (by decide) (by decide) (by rw [decShort_24 _ rfl]; simp [decControl])

theorem svc (g : Guard) (code : BitVec 15) : Statement (.svc g code) := by
  intro _ _
  exact decode_short (by decide) (by decide) (by rw [decShort_24 _ rfl]; simp [decControl])

theorem falloc (g : Guard) (d : XReg) (cls : BitVec 3) : Statement (.falloc g d cls) := by
  intro hw _
  have hw : cls.toNat ≤ 4 := of_decide_eq_true hw
  exact decode_short (by decide) (by decide) (by rw [decShort_28 _ rfl]; simp_all [decFrame])

theorem ffree (g : Guard) (a : XReg) : Statement (.ffree g a) := by
  intro _ _
  exact decode_short (by decide) (by decide) (by rw [decShort_28 _ rfl]; simp [decFrame])

theorem sloti (g : Guard) (a b : XReg) : Statement (.sloti g a b) := by
  intro _ _
  exact decode_short (by decide) (by decide) (by rw [decShort_29 _ rfl]; simp [decSlot])

theorem slotr (g : Guard) (d a : XReg) : Statement (.slotr g d a) := by
  intro _ _
  exact decode_short (by decide) (by decide) (by rw [decShort_29 _ rfl]; simp [decSlot])

theorem sig (g : Guard) (rel n : Bool) (a : XReg) : Statement (.sig g rel n a) := by
  intro _ _
  exact decode_short (by decide) (by decide) (by rw [decShort_2A _ rfl]; simp [decSig])

theorem sigd (g : Guard) (rel n : Bool) (a b : XReg) (dw : BitVec 5) : Statement (.sigd g rel n a b dw) := by
  intro _ _
  exact decode_short (by decide) (by decide) (by rw [decShort_2A _ rfl]; simp [decSig])

theorem sigv (g : Guard) (rel n : Bool) (a : XReg) (vb : VReg) (dw : BitVec 5) : Statement (.sigv g rel n a vb dw) := by
  intro _ _
  exact decode_short (by decide) (by decide) (by rw [decShort_2A _ rfl]; simp [decSig])

theorem sref (g : Guard) (d a : XReg) (imm : BitVec 11) : Statement (.sref g d a imm) := by
  intro _ _
  exact decode_short_xi (by decide) (by decide) (by rw [decShort_2B _ rfl]; simp [])

theorem amsg (g : Guard) (xg : XReg) : Statement (.amsg g xg) := by
  intro hw _
  have hw : (groupOk xg 8) = true := hw
  exact decode_short_xi (by decide) (by decide) (by rw [decShort_2C _ rfl]; simp_all [decAmsg])

theorem arm (g : Guard) (xg : XReg) : Statement (.arm g xg) := by
  intro hw _
  have hw : (groupOk xg 3) = true := hw
  exact decode_short_xi (by decide) (by decide) (by rw [decShort_2D _ rfl]; simp_all [decArm])

theorem ld (g : Guard) (sz : Size) (u : Bool) (d a : XReg) (off : BitVec 8) : Statement (.ld g sz u d a off) := by
  intro hw _
  have hw : (!(u && sz == .d)) = true := hw
  exact decode_short_xi (by decide) (by decide) (by rw [decShort_30 _ rfl]; simp_all [decLd, memImm])

theorem st (g : Guard) (sz : Size) (c a : XReg) (off : BitVec 8) : Statement (.st g sz c a off) := by
  intro _ _
  exact decode_short_xi (by decide) (by decide) (by rw [decShort_31 _ rfl]; simp [decSt, memImm])

theorem ldz (g : Guard) (vd : VReg) (a b : XReg) : Statement (.ldz g vd a b) := by
  intro _ _
  exact decode_short (by decide) (by decide) (by rw [decShort_32 _ rfl]; simp [decLdz])

theorem stz (g : Guard) (vc : VReg) (a b : XReg) : Statement (.stz g vc a b) := by
  intro _ _
  exact decode_short (by decide) (by decide) (by rw [decShort_33 _ rfl]; simp [decStz])

theorem gld (g : Guard) (lu : Bool) (evp : Evp) (sz : Size) (byt n : Bool) (xg y : XReg) : Statement (.gld g lu evp sz byt n xg y) := by
  intro hw _
  have hw : (groupOk xg 2) = true := hw
  exact decode_short_xi (by decide) (by decide) (by rw [decShort_38 _ rfl]; simp_all [decGld])

theorem ldl (g : Guard) (sz : Size) (u : Bool) (d a : XReg) (off : BitVec 8) : Statement (.ldl g sz u d a off) := by
  intro hw _
  have hw : (!(u && sz == .d)) = true := hw
  exact decode_short_xi (by decide) (by decide) (by rw [decShort_39 _ rfl]; simp_all [decLdl, memImm])

theorem gst (g : Guard) (sz : Size) (t : Bool) (c a : XReg) (off : BitVec 8) : Statement (.gst g sz t c a off) := by
  intro hw _
  have hw : (!(t && c == 31)) = true := hw
  exact decode_short_xi (by decide) (by decide) (by rw [decShort_3A _ rfl]; simp_all [decGst, memImm])

theorem gstv (g : Guard) (vc : VReg) (a : XReg) (m : MReg) (off : BitVec 8) : Statement (.gstv g vc a m off) := by
  intro _ _
  exact decode_short_xi (by decide) (by decide) (by rw [decShort_3B _ rfl]; simp [decGstv])

theorem pref (g : Guard) (evp : Evp) (a : XReg) (off : BitVec 11) : Statement (.pref g evp a off) := by
  intro _ _
  exact decode_short_xi (by decide) (by decide) (by rw [decShort_3C _ rfl]; simp [decPref])

theorem xchg (g : Guard) (ord : Ord) (sz : ASize) (d a b : XReg) : Statement (.xchg g ord sz d a b) := by
  intro _ _
  exact decode_short (by decide) (by decide) (by rw [decShort_3D _ rfl]; simp [decAtomic, atomicFn])

theorem cas (g : Guard) (ord : Ord) (sz : ASize) (d a b : XReg) : Statement (.cas g ord sz d a b) := by
  intro _ _
  exact decode_short (by decide) (by decide) (by rw [decShort_3D _ rfl]; simp [decAtomic, atomicFn])

theorem cas2 (g : Guard) (ord : Ord) (d a b : XReg) : Statement (.cas2 g ord d a b) := by
  intro hw _
  have hw : (2 ≤ d.toNat && d.toNat % 2 == 0 && b.toNat % 2 == 0) = true := hw
  exact decode_short (by decide) (by decide) (by rw [decShort_3D _ rfl]; simp_all [decAtomic, atomicFn])

theorem faa (g : Guard) (ord : Ord) (sz : ASize) (d a b : XReg) : Statement (.faa g ord sz d a b) := by
  intro _ _
  exact decode_short (by decide) (by decide) (by rw [decShort_3D _ rfl]; simp [decAtomic, atomicFn])

theorem amax (g : Guard) (ord : Ord) (sz : ASize) (d a b : XReg) : Statement (.amax g ord sz d a b) := by
  intro _ _
  exact decode_short (by decide) (by decide) (by rw [decShort_3D _ rfl]; simp [decAtomic, atomicFn])

theorem amin (g : Guard) (ord : Ord) (sz : ASize) (d a b : XReg) : Statement (.amin g ord sz d a b) := by
  intro _ _
  exact decode_short (by decide) (by decide) (by rw [decShort_3D _ rfl]; simp [decAtomic, atomicFn])

theorem amaxU (g : Guard) (ord : Ord) (sz : ASize) (d a b : XReg) : Statement (.amaxU g ord sz d a b) := by
  intro _ _
  exact decode_short (by decide) (by decide) (by rw [decShort_3D _ rfl]; simp [decAtomic, atomicFn])

theorem aminU (g : Guard) (ord : Ord) (sz : ASize) (d a b : XReg) : Statement (.aminU g ord sz d a b) := by
  intro _ _
  exact decode_short (by decide) (by decide) (by rw [decShort_3D _ rfl]; simp [decAtomic, atomicFn])

theorem fence (g : Guard) (w u e : Bool) (scope : Scope) : Statement (.fence g w u e scope) := by
  intro hw _
  have h : (w || u || e) = true := hw
  clear hw
  refine decode_short (by decide) (by decide) ?_
  rw [decShort_40 _ rfl]
  cases scope <;> cases e <;> cases u <;> cases w <;>
    first | exact absurd h (by decide) | simp [decFence, Scope.code, Scope.ofCode, bit1]

theorem fenceqCt (g : Guard) : Statement (.fenceqCt g) := by
  intro _ _
  exact decode_short (by decide) (by decide) (by rw [decShort_41 _ rfl]; simp [decFenceq])

theorem fenceqTc (g : Guard) : Statement (.fenceqTc g) := by
  intro _ _
  exact decode_short (by decide) (by decide) (by rw [decShort_41 _ rfl]; simp [decFenceq])

theorem iflush (g : Guard) (a b : XReg) : Statement (.iflush g a b) := by
  intro _ _
  exact decode_short (by decide) (by decide) (by rw [decShort_42 _ rfl]; simp [decIflush])

theorem iflushAll (g : Guard) : Statement (.iflushAll g) := by
  intro _ _
  exact decode_short (by decide) (by decide) (by rw [decShort_42 _ rfl]; simp [decIflush])

theorem upd (g : Guard) (a b : XReg) (k : BitVec 3) : Statement (.upd g a b k) := by
  intro _ _
  exact decode_short (by decide) (by decide) (by rw [decShort_43 _ rfl]; simp [decUpd])

theorem updv (g : Guard) (xd : XReg) (va vb : VReg) (m : MReg) (k : BitVec 3) : Statement (.updv g xd va vb m k) := by
  intro _ _
  exact decode_short (by decide) (by decide) (by rw [decShort_44 _ rfl]; simp [decUpdv])

theorem uapply (g : Guard) (a b : XReg) : Statement (.uapply g a b) := by
  intro _ _
  exact decode_short (by decide) (by decide) (by rw [decShort_45 _ rfl]; simp [decUapply])

theorem cpy (g : Guard) (fn : CopyFn) (xg y : XReg) : Statement (.cpy g fn xg y) := by
  intro hw _
  have hw : (groupOk xg 3 && (fn.r || fn.q == 0)) = true := hw
  exact decode_short_xi (by decide) (by decide) (by rw [decShort_48 _ rfl]; simp_all [decCpy, decCopyFn, CopyFn.code])

theorem cpy2 (g : Guard) (fn : CopyFn) (xg y : XReg) : Statement (.cpy2 g fn xg y) := by
  intro hw _
  have hw : (groupOk xg 6 && (fn.r || fn.q == 0)) = true := hw
  exact decode_short_xi (by decide) (by decide) (by rw [decShort_49 _ rfl]; simp_all [decCpy2, decCopyFn, CopyFn.code])

theorem cpym (g : Guard) (byt n : Bool) (xg y : XReg) : Statement (.cpym g byt n xg y) := by
  intro hw _
  have hw : (groupOk xg 5) = true := hw
  exact decode_short_xi (by decide) (by decide) (by rw [decShort_4A _ rfl]; simp_all [decCpym])

theorem gthr (g : Guard) (fn : GthrFn) (xg y : XReg) : Statement (.gthr g fn xg y) := by
  intro hw _
  have hw : (groupOk xg 5 && (fn.r || fn.q == 0)) = true := hw
  exact decode_short_xi (by decide) (by decide) (by rw [decShort_4B _ rfl]; simp_all [decGthr, GthrFn.code])

theorem rcfg (g : Guard) (q : BitVec 3) (xg : XReg) : Statement (.rcfg g q xg) := by
  intro hw _
  have hw : (groupOk xg 3) = true := hw
  exact decode_short_xi (by decide) (by decide) (by rw [decShort_50 _ rfl]; simp_all [decRcfg])

theorem radv (g : Guard) (q : BitVec 3) (xg : XReg) : Statement (.radv g q xg) := by
  intro hw _
  have hw : (groupOk xg 1) = true := hw
  exact decode_short_xi (by decide) (by decide) (by rw [decShort_51 _ rfl]; simp_all [decRadv])

theorem mma (g : Guard) (n t : Bool) (qb qa : BitVec 3) (acc : BitVec 2) (xg y : XReg) : Statement (.mma g n t qb qa acc xg y) := by
  intro hw _
  have hw : (groupOk xg 1) = true := hw
  exact decode_short_xi (by decide) (by decide) (by rw [decShort_52 _ rfl]; simp_all [decMma])

theorem mmas (g : Guard) (ss : BitVec 2) (n : Bool) (qb qa : BitVec 3) (acc : BitVec 2) (xg y : XReg) : Statement (.mmas g ss n qb qa acc xg y) := by
  intro hw _
  have hw : (groupOk xg 1) = true := hw
  exact decode_short_xi (by decide) (by decide) (by rw [decShort_53 _ rfl]; simp_all [decMmas])

theorem mmg (g : Guard) (val : MmgVal) (act : MmgAct) (n : Bool) (xg y : XReg) : Statement (.mmg g val act n xg y) := by
  intro hw _
  have hw : (groupOk xg 5) = true := hw
  exact decode_short_xi (by decide) (by decide) (by rw [decShort_54 _ rfl]; simp_all [decMmg])

theorem accz (g : Guard) (acc : BitVec 2) : Statement (.accz g acc) := by
  intro _ _
  exact decode_short_xi (by decide) (by decide) (by rw [decShort_55 _ rfl]; simp [decAcc])

theorem accld (g : Guard) (n : Bool) (acc : BitVec 2) (xg y : XReg) : Statement (.accld g n acc xg y) := by
  intro hw _
  have hw : (groupOk xg 1) = true := hw
  exact decode_short_xi (by decide) (by decide) (by rw [decShort_55 _ rfl]; simp_all [decAcc])

theorem accst (g : Guard) (n sc sat : Bool) (rnd : Rnd) (tag : Tag) (acc : BitVec 2) (xg y : XReg) : Statement (.accst g n sc sat rnd tag acc xg y) := by
  intro hw _
  have hw : (groupOk xg 2) = true := hw
  exact decode_short_xi (by decide) (by decide) (by rw [decShort_56 _ rfl]; simp_all [decAccst])

theorem sscfg (g : Guard) (ss : BitVec 2) (xg : XReg) : Statement (.sscfg g ss xg) := by
  intro hw _
  have hw : (groupOk xg 2) = true := hw
  exact decode_short_xi (by decide) (by decide) (by rw [decShort_57 _ rfl]; simp_all [decSscfg])

theorem vadd (g : Guard) (t : VType) (vd va vb : VReg) (m : MReg) : Statement (.vadd g t vd va vb m) := fun _ _ =>
  decode_short t.op_short.1 t.op_short.2 (by rw [decShort_varith t _ rfl]; simp [decVarith])

theorem vsub (g : Guard) (t : VType) (vd va vb : VReg) (m : MReg) : Statement (.vsub g t vd va vb m) := fun _ _ =>
  decode_short t.op_short.1 t.op_short.2 (by rw [decShort_varith t _ rfl]; simp [decVarith])

theorem vmul (g : Guard) (t : VType) (vd va vb : VReg) (m : MReg) : Statement (.vmul g t vd va vb m) := fun _ _ =>
  decode_short t.op_short.1 t.op_short.2 (by rw [decShort_varith t _ rfl]; simp [decVarith])

theorem vfma (g : Guard) (t : VType) (vd va vb : VReg) (m : MReg) : Statement (.vfma g t vd va vb m) := fun _ _ =>
  decode_short t.op_short.1 t.op_short.2 (by rw [decShort_varith t _ rfl]; simp [decVarith])

theorem vmin (g : Guard) (t : VType) (vd va vb : VReg) (m : MReg) : Statement (.vmin g t vd va vb m) := fun _ _ =>
  decode_short t.op_short.1 t.op_short.2 (by rw [decShort_varith t _ rfl]; simp [decVarith])

theorem vmax (g : Guard) (t : VType) (vd va vb : VReg) (m : MReg) : Statement (.vmax g t vd va vb m) := fun _ _ =>
  decode_short t.op_short.1 t.op_short.2 (by rw [decShort_varith t _ rfl]; simp [decVarith])

theorem vabs (g : Guard) (t : VType) (vd va : VReg) (m : MReg) : Statement (.vabs g t vd va m) := fun _ _ =>
  decode_short t.op_short.1 t.op_short.2 (by rw [decShort_varith t _ rfl]; simp [decVarith])

theorem vneg (g : Guard) (t : VType) (vd va : VReg) (m : MReg) : Statement (.vneg g t vd va m) := fun _ _ =>
  decode_short t.op_short.1 t.op_short.2 (by rw [decShort_varith t _ rfl]; simp [decVarith])

theorem vand (g : Guard) (vd va vb : VReg) (m : MReg) : Statement (.vand g vd va vb m) := by
  intro _ _
  exact decode_short (by decide) (by decide) (by rw [decShort_5E _ rfl]; simp [decVlogic])

theorem vor (g : Guard) (vd va vb : VReg) (m : MReg) : Statement (.vor g vd va vb m) := by
  intro _ _
  exact decode_short (by decide) (by decide) (by rw [decShort_5E _ rfl]; simp [decVlogic])

theorem vxor (g : Guard) (vd va vb : VReg) (m : MReg) : Statement (.vxor g vd va vb m) := by
  intro _ _
  exact decode_short (by decide) (by decide) (by rw [decShort_5E _ rfl]; simp [decVlogic])

theorem vselW (g : Guard) (vd va vb : VReg) (m : MReg) : Statement (.vselW g vd va vb m) := by
  intro _ _
  exact decode_short (by decide) (by decide) (by rw [decShort_5E _ rfl]; simp [decVlogic])

theorem vselH (g : Guard) (vd va vb : VReg) (m : MReg) : Statement (.vselH g vd va vb m) := by
  intro _ _
  exact decode_short (by decide) (by decide) (by rw [decShort_5E _ rfl]; simp [decVlogic])

theorem vselB (g : Guard) (vd va vb : VReg) (m : MReg) : Statement (.vselB g vd va vb m) := by
  intro _ _
  exact decode_short (by decide) (by decide) (by rw [decShort_5E _ rfl]; simp [decVlogic])

theorem vshlI32 (g : Guard) (vd va vb : VReg) (m : MReg) : Statement (.vshlI32 g vd va vb m) := by
  intro _ _
  exact decode_short (by decide) (by decide) (by rw [decShort_5F _ rfl]; simp [decVshift])

theorem vshrI32 (g : Guard) (vd va vb : VReg) (m : MReg) : Statement (.vshrI32 g vd va vb m) := by
  intro _ _
  exact decode_short (by decide) (by decide) (by rw [decShort_5F _ rfl]; simp [decVshift])

theorem vsarI32 (g : Guard) (vd va vb : VReg) (m : MReg) : Statement (.vsarI32 g vd va vb m) := by
  intro _ _
  exact decode_short (by decide) (by decide) (by rw [decShort_5F _ rfl]; simp [decVshift])

theorem vshlI16 (g : Guard) (vd va vb : VReg) (m : MReg) : Statement (.vshlI16 g vd va vb m) := by
  intro _ _
  exact decode_short (by decide) (by decide) (by rw [decShort_5F _ rfl]; simp [decVshift])

theorem vshrI16 (g : Guard) (vd va vb : VReg) (m : MReg) : Statement (.vshrI16 g vd va vb m) := by
  intro _ _
  exact decode_short (by decide) (by decide) (by rw [decShort_5F _ rfl]; simp [decVshift])

theorem vsarI16 (g : Guard) (vd va vb : VReg) (m : MReg) : Statement (.vsarI16 g vd va vb m) := by
  intro _ _
  exact decode_short (by decide) (by decide) (by rw [decShort_5F _ rfl]; simp [decVshift])

theorem vcmp (g : Guard) (t : VType) (cond : VCond) (md : MReg) (va vb : VReg) : Statement (.vcmp g t cond md va vb) := by
  intro hw _
  have hw : (md != 0 && vcmpOk t cond) = true := hw
  exact decode_short (by decide) (by decide) (by rw [decShort_60 _ rfl]; simp_all [decVcmp])

theorem vrcp (g : Guard) (t : EtF) (vd va : VReg) (m : MReg) : Statement (.vrcp g t vd va m) := by
  intro _ _
  exact decode_short (by decide) (by decide) (by rw [decShort_61 _ rfl]; simp [decVfunc])

theorem vrsq (g : Guard) (t : EtF) (vd va : VReg) (m : MReg) : Statement (.vrsq g t vd va m) := by
  intro _ _
  exact decode_short (by decide) (by decide) (by rw [decShort_61 _ rfl]; simp [decVfunc])

theorem vexp2 (g : Guard) (t : EtF) (vd va : VReg) (m : MReg) : Statement (.vexp2 g t vd va m) := by
  intro _ _
  exact decode_short (by decide) (by decide) (by rw [decShort_61 _ rfl]; simp [decVfunc])

theorem vlog2 (g : Guard) (t : EtF) (vd va : VReg) (m : MReg) : Statement (.vlog2 g t vd va m) := by
  intro _ _
  exact decode_short (by decide) (by decide) (by rw [decShort_61 _ rfl]; simp [decVfunc])

theorem viota (g : Guard) (t : EtI) (vd : VReg) (m : MReg) : Statement (.viota g t vd m) := by
  intro _ _
  exact decode_short (by decide) (by decide) (by rw [decShort_61 _ rfl]; simp [decVfunc])

theorem vredAdd (g : Guard) (t : VType) (xd : XReg) (va : VReg) (m : MReg) : Statement (.vredAdd g t xd va m) := by
  intro _ _
  exact decode_short (by decide) (by decide) (by rw [decShort_62 _ rfl]; simp [decVred])

theorem vredMin (g : Guard) (t : VType) (xd : XReg) (va : VReg) (m : MReg) : Statement (.vredMin g t xd va m) := by
  intro _ _
  exact decode_short (by decide) (by decide) (by rw [decShort_62 _ rfl]; simp [decVred])

theorem vredMax (g : Guard) (t : VType) (xd : XReg) (va : VReg) (m : MReg) : Statement (.vredMax g t xd va m) := by
  intro _ _
  exact decode_short (by decide) (by decide) (by rw [decShort_62 _ rfl]; simp [decVred])

theorem vdotF32 (g : Guard) (xd : XReg) (va vb : VReg) (m : MReg) : Statement (.vdotF32 g xd va vb m) := by
  intro _ _
  exact decode_short (by decide) (by decide) (by rw [decShort_62 _ rfl]; simp [decVred])

theorem vdotBf16 (g : Guard) (xd : XReg) (va vb : VReg) (m : MReg) : Statement (.vdotBf16 g xd va vb m) := by
  intro _ _
  exact decode_short (by decide) (by decide) (by rw [decShort_62 _ rfl]; simp [decVred])

theorem vdotF16 (g : Guard) (xd : XReg) (va vb : VReg) (m : MReg) : Statement (.vdotF16 g xd va vb m) := by
  intro _ _
  exact decode_short (by decide) (by decide) (by rw [decShort_62 _ rfl]; simp [decVred])

theorem vperm (g : Guard) (lw : LaneW) (vd va vb : VReg) : Statement (.vperm g lw vd va vb) := by
  intro _ _
  exact decode_short (by decide) (by decide) (by rw [decShort_63 _ rfl]; simp [decVmove])

theorem vbcast (g : Guard) (lw : LaneW) (vd : VReg) (xa : XReg) : Statement (.vbcast g lw vd xa) := by
  intro _ _
  exact decode_short (by decide) (by decide) (by rw [decShort_63 _ rfl]; simp [decVmove])

theorem vext (g : Guard) (lw : LaneW) (xd : XReg) (va : VReg) (xb : XReg) : Statement (.vext g lw xd va xb) := by
  intro _ _
  exact decode_short (by decide) (by decide) (by rw [decShort_63 _ rfl]; simp [decVmove])

theorem vins (g : Guard) (lw : LaneW) (vd : VReg) (xa xb : XReg) : Statement (.vins g lw vd xa xb) := by
  intro _ _
  exact decode_short (by decide) (by decide) (by rw [decShort_63 _ rfl]; simp [decVmove])

theorem vcomp (g : Guard) (lw : LaneW) (vd va : VReg) (mb : MReg) : Statement (.vcomp g lw vd va mb) := by
  intro _ _
  exact decode_short (by decide) (by decide) (by rw [decShort_63 _ rfl]; simp [decVmove])

theorem vexpd (g : Guard) (lw : LaneW) (vd va : VReg) (mb : MReg) : Statement (.vexpd g lw vd va mb) := by
  intro _ _
  exact decode_short (by decide) (by decide) (by rw [decShort_63 _ rfl]; simp [decVmove])

theorem vld (g : Guard) (vd : VReg) (a : XReg) (imm : BitVec 11) : Statement (.vld g vd a imm) := by
  intro _ _
  exact decode_short_xi (by decide) (by decide) (by rw [decShort_64 _ rfl]; simp [decVld])

theorem vst (g : Guard) (vc : VReg) (a : XReg) (imm : BitVec 11) : Statement (.vst g vc a imm) := by
  intro _ _
  exact decode_short_xi (by decide) (by decide) (by rw [decShort_65 _ rfl]; simp [decVst])

theorem mlog (g : Guard) (op : MlogOp) (md ma mb : MReg) : Statement (.mlog g op md ma mb) := by
  intro hw _
  have hw : (md != 0 && (op != .not || mb == 0)) = true := hw
  refine decode_short (by decide) (by decide) ?_
  rw [decShort_66 _ rfl]
  cases op <;> simp_all [decMlog, MlogOp.code, MlogOp.ofCode]

theorem mcnt (g : Guard) (xd : XReg) (ma : MReg) : Statement (.mcnt g xd ma) := by
  intro _ _
  have h0 : low3Of 0#5 = .ok 0#3 := by decide
  exact decode_short (by decide) (by decide) (by rw [decShort_66 _ rfl]; simp [decMlog, h0])

theorem rdsr (g : Guard) (d : XReg) (num : BitVec 11) : Statement (.rdsr g d num) := by
  intro _ _
  exact decode_short_xi (by decide) (by decide) (by rw [decShort_68 _ rfl]; simp [decRdsr])

theorem wrsr (g : Guard) (a : XReg) (num : BitVec 11) : Statement (.wrsr g a num) := by
  intro _ _
  exact decode_short_xi (by decide) (by decide) (by rw [decShort_69 _ rfl]; simp [decWrsr])

theorem rgnctlAct (g : Guard) (xg y : XReg) : Statement (.rgnctlAct g xg y) := by
  intro hw _
  have hw : (groupOk xg 2) = true := hw
  exact decode_short_xi (by decide) (by decide) (by rw [decShort_6A _ rfl]; simp_all [decRgnctl])

theorem rgnctlCfg (g : Guard) (xg y : XReg) : Statement (.rgnctlCfg g xg y) := by
  intro hw _
  have hw : (groupOk xg 2) = true := hw
  exact decode_short_xi (by decide) (by decide) (by rw [decShort_6A _ rfl]; simp_all [decRgnctl])

theorem rgnctlSusp (g : Guard) (xg y : XReg) : Statement (.rgnctlSusp g xg y) := by
  intro hw _
  have hw : (groupOk xg 2) = true := hw
  exact decode_short_xi (by decide) (by decide) (by rw [decShort_6A _ rfl]; simp_all [decRgnctl])

theorem rgnctlRes (g : Guard) (xg y : XReg) : Statement (.rgnctlRes g xg y) := by
  intro hw _
  have hw : (groupOk xg 2) = true := hw
  exact decode_short_xi (by decide) (by decide) (by rw [decShort_6A _ rfl]; simp_all [decRgnctl])

theorem rgnctlDel (g : Guard) (xg y : XReg) : Statement (.rgnctlDel g xg y) := by
  intro hw _
  have hw : (groupOk xg 2) = true := hw
  exact decode_short_xi (by decide) (by decide) (by rw [decShort_6A _ rfl]; simp_all [decRgnctl])

theorem tlbinvPg (g : Guard) (a b : XReg) : Statement (.tlbinvPg g a b) := by
  intro _ _
  exact decode_short (by decide) (by decide) (by rw [decShort_6B _ rfl]; simp [decTlbinv])

theorem tlbinvAs (g : Guard) (b : XReg) : Statement (.tlbinvAs g b) := by
  intro _ _
  exact decode_short (by decide) (by decide) (by rw [decShort_6B _ rfl]; simp [decTlbinv])

theorem tlbinvAll (g : Guard) : Statement (.tlbinvAll g) := by
  intro _ _
  exact decode_short (by decide) (by decide) (by rw [decShort_6B _ rfl]; simp [decTlbinv])

theorem waycfg (g : Guard) (a b : XReg) : Statement (.waycfg g a b) := by
  intro _ _
  exact decode_short (by decide) (by decide) (by rw [decShort_6C _ rfl]; simp [decWaycfg])

theorem symq (g : Guard) (d a : XReg) : Statement (.symq g d a) := by
  intro _ _
  exact decode_short (by decide) (by decide) (by rw [decShort_6D _ rfl]; simp [decSymq])

theorem resume (g : Guard) (a : XReg) : Statement (.resume g a) := by
  intro _ _
  exact decode_short (by decide) (by decide) (by rw [decShort_6E _ rfl]; simp [decResume])

theorem resumeAbt (g : Guard) (a : XReg) : Statement (.resumeAbt g a) := by
  intro _ _
  exact decode_short (by decide) (by decide) (by rw [decShort_6E _ rfl]; simp [decResume])

theorem resumeRpl (g : Guard) (a : XReg) : Statement (.resumeRpl g a) := by
  intro _ _
  exact decode_short (by decide) (by decide) (by rw [decShort_6E _ rfl]; simp [decResume])

theorem resumeDrp (g : Guard) (a : XReg) : Statement (.resumeDrp g a) := by
  intro _ _
  exact decode_short (by decide) (by decide) (by rw [decShort_6E _ rfl]; simp [decResume])

theorem limm (g : Guard) (d : XReg) (imm : BitVec 32) : Statement (.limm g d imm) := by
  intro _ _
  exact decode_long (by decide) (by decide) (by simp [decLong])

theorem lui (g : Guard) (d : XReg) (imm : BitVec 32) : Statement (.lui g d imm) := by
  intro _ _
  exact decode_long (by decide) (by decide) (by simp [decLong])

theorem bfx (g : Guard) (d a : XReg) (pos : BitVec 6) (len : BitVec 7) : Statement (.bfx g d a pos len) := by
  intro hw _
  have hw : (bitFieldOk pos len) = true := hw
  exact decode_long (by decide) (by decide) (by simp_all [decLong, decBitField])

theorem bfi (g : Guard) (d a : XReg) (pos : BitVec 6) (len : BitVec 7) : Statement (.bfi g d a pos len) := by
  intro hw _
  have hw : (bitFieldOk pos len) = true := hw
  exact decode_long (by decide) (by decide) (by simp_all [decLong, decBitField])

theorem vx (g : Guard) (op : Vop) (sat : Bool) (rnd : Rnd) (vd va vb : VReg) (m : MReg) :
    Statement (.vx g op sat rnd vd va vb m) := by
  intro hw _
  have h : ((!op.isInteger || rnd == .rne) && (!op.isUnary || vb == 0)) = true := hw
  clear hw
  refine decode_long (by decide) (by decide) ?_
  rcases op with t | t | t | t | t | t | t | t | t | t | t | t <;> cases t <;>
    simp_all [decLong, decVx, vopArith, vopFunc, typeOfOp, Vop.fields, VType.op, EtF.code, EtF.ofCode, Vop.isInteger,
      Vop.isUnary]

theorem vcvt (g : Guard) (dst src : Et) (sat : Bool) (rnd : Rnd) (vd va : VReg) (m : MReg) : Statement (.vcvt g dst src sat rnd vd va m) := by
  intro hw _
  have hw : (dst != src) = true := hw
  exact decode_long (by decide) (by decide) (by simp_all [decLong, decVcvt])

theorem readyEntrySelect (core : Nat) : Statement (.readyEntrySelect core) := fun _ h => nomatch h

theorem signalArrival (pkt : Nat) : Statement (.signalArrival pkt) := fun _ h => nomatch h

theorem overflowEntryTake (core region idx : Nat) : Statement (.overflowEntryTake core region idx) := fun _ h => nomatch h

theorem activeMessageDelivery (pkt : Nat) : Statement (.activeMessageDelivery pkt) := fun _ h => nomatch h

theorem spillWriteOutComplete (core fid : Nat) : Statement (.spillWriteOutComplete core fid) := fun _ h => nomatch h

theorem refillComplete (core fid : Nat) : Statement (.refillComplete core fid) := fun _ h => nomatch h

theorem frameRelease (core fid : Nat) : Statement (.frameRelease core fid) := fun _ h => nomatch h

theorem runleftExpiry (core : Nat) : Statement (.runleftExpiry core) := fun _ h => nomatch h

theorem parkTimeExpiry (core fid : Nat) : Statement (.parkTimeExpiry core fid) := fun _ h => nomatch h

theorem symbolValueArrival (pkt : Nat) : Statement (.symbolValueArrival pkt) := fun _ h => nomatch h

theorem deferredEffectPerform (core : Nat) : Statement (.deferredEffectPerform core) := fun _ h => nomatch h

theorem lateLoadFail (core sym : Nat) : Statement (.lateLoadFail core sym) := fun _ h => nomatch h

theorem writeAckArrival (pkt : Nat) : Statement (.writeAckArrival pkt) := fun _ h => nomatch h

theorem updateAcceptanceArrival (pkt : Nat) : Statement (.updateAcceptanceArrival pkt) := fun _ h => nomatch h

theorem gldLanding (pkt : Nat) : Statement (.gldLanding pkt) := fun _ h => nomatch h

theorem barrierConditionMet (core idx : Nat) : Statement (.barrierConditionMet core idx) := fun _ h => nomatch h

theorem combinerTimeout (core chiplet : Nat) : Statement (.combinerTimeout core chiplet) := fun _ h => nomatch h

theorem homeSliceRead (pkt : Nat) : Statement (.homeSliceRead pkt) := fun _ h => nomatch h

theorem homeSliceWrite (pkt : Nat) : Statement (.homeSliceWrite pkt) := fun _ h => nomatch h

theorem homeSliceAtomic (pkt : Nat) : Statement (.homeSliceAtomic pkt) := fun _ h => nomatch h

theorem homeSlicePref (pkt : Nat) : Statement (.homeSlicePref pkt) := fun _ h => nomatch h

theorem backInvalidationAck (line : Nat) : Statement (.backInvalidationAck line) := fun _ h => nomatch h

theorem waycfgRequest (pkt : Nat) : Statement (.waycfgRequest pkt) := fun _ h => nomatch h

theorem wayConversionComplete (slice : Nat) : Statement (.wayConversionComplete slice) := fun _ h => nomatch h

theorem translationWalkComplete (core idx : Nat) : Statement (.translationWalkComplete core idx) := fun _ h => nomatch h

theorem faultWaitPromote (core : Nat) : Statement (.faultWaitPromote core) := fun _ h => nomatch h

theorem pageZeroingComplete (entry : Nat) : Statement (.pageZeroingComplete entry) := fun _ h => nomatch h

theorem updatePacketAccept (pkt : Nat) : Statement (.updatePacketAccept pkt) := fun _ h => nomatch h

theorem sortBatch (unit : Nat) : Statement (.sortBatch unit) := fun _ h => nomatch h

theorem mergeApply (unit bid : Nat) : Statement (.mergeApply unit bid) := fun _ h => nomatch h

theorem uapplyLineApply (core idx : Nat) : Statement (.uapplyLineApply core idx) := fun _ h => nomatch h

theorem copyCommandStart (core : Nat) : Statement (.copyCommandStart core) := fun _ h => nomatch h

theorem copyPieceIssue (core : Nat) : Statement (.copyPieceIssue core) := fun _ h => nomatch h

theorem copyPieceComplete (pkt : Nat) : Statement (.copyPieceComplete pkt) := fun _ h => nomatch h

theorem multicastPieceArrival (pkt : Nat) : Statement (.multicastPieceArrival pkt) := fun _ h => nomatch h

theorem gatherRequestArrival (pkt : Nat) : Statement (.gatherRequestArrival pkt) := fun _ h => nomatch h

theorem gatherElementReturn (pkt : Nat) : Statement (.gatherElementReturn pkt) := fun _ h => nomatch h

theorem tileCommandStart (core : Nat) : Statement (.tileCommandStart core) := fun _ h => nomatch h

theorem tilePairStart (core : Nat) : Statement (.tilePairStart core) := fun _ h => nomatch h

theorem tilePairRetire (core : Nat) : Statement (.tilePairRetire core) := fun _ h => nomatch h

theorem mmgRowComplete (core : Nat) : Statement (.mmgRowComplete core) := fun _ h => nomatch h

theorem accumulatorTransferDone (core : Nat) : Statement (.accumulatorTransferDone core) := fun _ h => nomatch h

theorem faultRecordDelivery (pkt : Nat) : Statement (.faultRecordDelivery pkt) := fun _ h => nomatch h

theorem resumeAct (pkt : Nat) : Statement (.resumeAct pkt) := fun _ h => nomatch h

theorem tailNotification (q : Nat) : Statement (.tailNotification q) := fun _ h => nomatch h

theorem queueEntryFetch (q : Nat) : Statement (.queueEntryFetch q) := fun _ h => nomatch h

theorem activeMessageEntry (fe idx : Nat) : Statement (.activeMessageEntry fe idx) := fun _ h => nomatch h

theorem triggerArmEntry (fe idx : Nat) : Statement (.triggerArmEntry fe idx) := fun _ h => nomatch h

theorem regionControlEntry (fe idx : Nat) : Statement (.regionControlEntry fe idx) := fun _ h => nomatch h

theorem queueFence (fe idx : Nat) : Statement (.queueFence fe idx) := fun _ h => nomatch h

theorem triggerArming (pkt : Nat) : Statement (.triggerArming pkt) := fun _ h => nomatch h

theorem triggerSignal (pkt : Nat) : Statement (.triggerSignal pkt) := fun _ h => nomatch h

theorem regionControlPerform : Statement (.regionControlPerform) := fun _ h => nomatch h

theorem periodStart : Statement (.periodStart) := fun _ h => nomatch h

theorem entryAging (core : Nat) : Statement (.entryAging core) := fun _ h => nomatch h

theorem monitorWindowEnd (region : Nat) : Statement (.monitorWindowEnd region) := fun _ h => nomatch h

theorem weirRateUpdate (port rate : Nat) : Statement (.weirRateUpdate port rate) := fun _ h => nomatch h

theorem tileIntervalEval (basin : Nat) : Statement (.tileIntervalEval basin) := fun _ h => nomatch h

theorem housekeepingWork (ctl : Nat) (kind : HkKind) (busy : Nat) : Statement (.housekeepingWork ctl kind busy) := fun _ h => nomatch h

theorem traceRecordWrite (pkt : Nat) : Statement (.traceRecordWrite pkt) := fun _ h => nomatch h

theorem traceRpRead : Statement (.traceRpRead) := fun _ h => nomatch h

theorem queueSet (q : Nat) (entry : BitVec 512) : Statement (.queueSet q entry) := fun _ h => nomatch h

theorem queueState (q : Nat) (enable : Bool) : Statement (.queueState q enable) := fun _ h => nomatch h

theorem traceBuf (base size ctl : Word) : Statement (.traceBuf base size ctl) := fun _ h => nomatch h

theorem brieloSet (number : BitVec 8) (table : BitVec 2048) : Statement (.brieloSet number table) := fun _ h => nomatch h

theorem powerState (retention : Bool) : Statement (.powerState retention) := fun _ h => nomatch h

theorem lifecycle (target : Lifecycle) (tokenOk : Bool) : Statement (.lifecycle target tokenOk) := fun _ h => nomatch h

theorem fwUpdate (version : Nat) (signatureOk : Bool) : Statement (.fwUpdate version signatureOk) := fun _ h => nomatch h

theorem mailboxUnsupported (code : BitVec 16) : Statement (.mailboxUnsupported code) := fun _ h => nomatch h

theorem routeChangeDrain (module : Nat) : Statement (.routeChangeDrain module) := fun _ h => nomatch h

theorem brieloPortFailure (port : Nat) : Statement (.brieloPortFailure port) := fun _ h => nomatch h

theorem moduleReset (failStep : Nat) : Statement (.moduleReset failStep) := fun _ h => nomatch h

theorem uncorrectableEcc (target : EccTarget) : Statement (.uncorrectableEcc target) := fun _ h => nomatch h

theorem scratchZeroingComplete (core : Nat) : Statement (.scratchZeroingComplete core) := fun _ h => nomatch h

theorem spdmRequest (req : SpdmReq) : Statement (.spdmRequest req) := fun _ h => nomatch h

theorem linkLevelConfirmation (port module : Nat) : Statement (.linkLevelConfirmation port module) := fun _ h => nomatch h

theorem eventLog : Statement (.eventLog) := fun _ h => nomatch h

theorem retentionExit : Statement (.retentionExit) := fun _ h => nomatch h

theorem serviceCoreRestartComplete : Statement (.serviceCoreRestartComplete) := fun _ h => nomatch h

theorem modulePowerLoss : Statement (.modulePowerLoss) := fun _ h => nomatch h

end Sys2Proof.Laws.EncodeDecode
end

