-- ==== Sys2Proof/Safety.lean ====
section
/-! DEFINITION. The terms of the claims: the threadlet that issues, what it becomes, what stands outside it, and what counts
as a sound state and a safe run. -/

namespace Sys2Proof

/-- The guard of an instruction; an event has none. -/
def Instr.guard : Instr → Option Guard
  | .add g .. | .sub g .. | .and g .. | .or g .. | .xor g .. | .shl g .. | .shr g .. | .sar g .. | .min g ..
  | .max g .. | .minu g .. | .maxu g .. | .mul g .. | .mulh g .. | .mulhu g .. | .div g .. | .divu g ..
  | .rem g .. | .remu g .. | .clz g .. | .ctz g .. | .popc g .. | .addi g .. | .andi g .. | .ori g ..
  | .xori g .. | .shli g .. | .shri g .. | .sari g .. | .sel g .. | .setp g .. | .setpiA g .. | .setpiB g ..
  | .fsetp g .. | .plog g .. | .fadd g .. | .fsub g .. | .fmul g .. | .ffma g .. | .fdiv g .. | .fsqrt g ..
  | .fmin g .. | .fmax g .. | .fclass g .. | .fcvt g .. | .br g .. | .call g .. | .jr g .. | .ret g | .rep g ..
  | .fin g | .park g .. | .nop g | .brk g .. | .trap g .. | .svc g .. | .falloc g .. | .ffree g .. | .sloti g ..
  | .slotr g .. | .sig g .. | .sigd g .. | .sigv g .. | .sref g .. | .amsg g .. | .arm g .. | .ld g ..
  | .st g .. | .ldz g .. | .stz g .. | .gld g .. | .ldl g .. | .gst g .. | .gstv g .. | .pref g .. | .xchg g ..
  | .cas g .. | .cas2 g .. | .faa g .. | .amax g .. | .amin g .. | .amaxU g .. | .aminU g .. | .fence g ..
  | .fenceqCt g | .fenceqTc g | .iflush g .. | .iflushAll g | .upd g .. | .updv g .. | .uapply g .. | .cpy g ..
  | .cpy2 g .. | .cpym g .. | .gthr g .. | .rcfg g .. | .radv g .. | .mma g .. | .mmas g .. | .mmg g ..
  | .accz g .. | .accld g .. | .accst g .. | .sscfg g .. | .vadd g .. | .vsub g .. | .vmul g .. | .vfma g ..
  | .vmin g .. | .vmax g .. | .vabs g .. | .vneg g .. | .vand g .. | .vor g .. | .vxor g .. | .vselW g ..
  | .vselH g .. | .vselB g .. | .vshlI32 g .. | .vshrI32 g .. | .vsarI32 g .. | .vshlI16 g .. | .vshrI16 g ..
  | .vsarI16 g .. | .vcmp g .. | .vrcp g .. | .vrsq g .. | .vexp2 g .. | .vlog2 g .. | .viota g ..
  | .vredAdd g .. | .vredMin g .. | .vredMax g .. | .vdotF32 g .. | .vdotBf16 g .. | .vdotF16 g .. | .vperm g ..
  | .vbcast g .. | .vext g .. | .vins g .. | .vcomp g .. | .vexpd g .. | .vld g .. | .vst g .. | .mlog g ..
  | .mcnt g .. | .rdsr g .. | .wrsr g .. | .rgnctlAct g .. | .rgnctlCfg g .. | .rgnctlSusp g ..
  | .rgnctlRes g .. | .rgnctlDel g .. | .tlbinvPg g .. | .tlbinvAs g .. | .tlbinvAll g | .waycfg g ..
  | .symq g .. | .resume g .. | .resumeAbt g .. | .resumeRpl g .. | .resumeDrp g .. | .limm g .. | .lui g ..
  | .bfx g .. | .bfi g .. | .vx g .. | .vcvt g .. => some g
  | .readyEntrySelect .. | .signalArrival .. | .overflowEntryTake .. | .activeMessageDelivery ..
  | .spillWriteOutComplete .. | .refillComplete .. | .frameRelease .. | .runleftExpiry .. | .parkTimeExpiry ..
  | .symbolValueArrival .. | .deferredEffectPerform .. | .lateLoadFail .. | .writeAckArrival ..
  | .updateAcceptanceArrival .. | .gldLanding .. | .barrierConditionMet .. | .combinerTimeout ..
  | .homeSliceRead .. | .homeSliceWrite .. | .homeSliceAtomic .. | .homeSlicePref .. | .backInvalidationAck ..
  | .waycfgRequest .. | .wayConversionComplete .. | .translationWalkComplete .. | .faultWaitPromote ..
  | .pageZeroingComplete .. | .updatePacketAccept .. | .sortBatch .. | .mergeApply .. | .uapplyLineApply ..
  | .copyCommandStart .. | .copyPieceIssue .. | .copyPieceComplete .. | .multicastPieceArrival ..
  | .gatherRequestArrival .. | .gatherElementReturn .. | .tileCommandStart .. | .tilePairStart ..
  | .tilePairRetire .. | .mmgRowComplete .. | .accumulatorTransferDone .. | .faultRecordDelivery ..
  | .resumeAct .. | .tailNotification .. | .queueEntryFetch .. | .activeMessageEntry .. | .triggerArmEntry ..
  | .regionControlEntry .. | .queueFence .. | .triggerArming .. | .triggerSignal .. | .regionControlPerform
  | .periodStart | .entryAging .. | .monitorWindowEnd .. | .weirRateUpdate .. | .tileIntervalEval ..
  | .housekeepingWork .. | .traceRecordWrite .. | .traceRpRead | .queueSet .. | .queueState .. | .traceBuf ..
  | .brieloSet .. | .powerState .. | .lifecycle .. | .fwUpdate .. | .mailboxUnsupported ..
  | .routeChangeDrain .. | .brieloPortFailure .. | .moduleReset .. | .uncorrectableEcc ..
  | .scratchZeroingComplete .. | .spdmRequest .. | .linkLevelConfirmation .. | .eventLog | .retentionExit
  | .serviceCoreRestartComplete | .modulePowerLoss => none

/-- Does the instruction send a null signal under a false guard: its N bit (R96)? -/
def Instr.nullsFalseGuard : Instr → Bool
  | .sig _ _ n _ => n
  | .sigd _ _ n .. => n
  | .sigv _ _ n .. => n
  | .gld _ _ _ _ _ n _ _ => n
  | .cpy _ fn _ _ => fn.n
  | .cpy2 _ fn _ _ => fn.n
  | .cpym _ _ n _ _ => n
  | .gthr _ fn _ _ => fn.n
  | .mma _ n .. => n
  | .mmas _ _ n .. => n
  | .mmg _ _ _ n _ _ => n
  | .accld _ n .. => n
  | .accst _ n .. => n
  | _ => false

/-- The scalar registers an instruction may change: its destinations, the link register of CALL (R92), and the address
register of LDZ and STZ (R184). -/
def Instr.dests : Instr → List Nat
  | .add _ d .. | .sub _ d .. | .and _ d .. | .or _ d .. | .xor _ d .. | .shl _ d .. | .shr _ d .. | .sar _ d ..
  | .min _ d .. | .max _ d .. | .minu _ d .. | .maxu _ d .. | .mul _ d .. | .mulh _ d .. | .mulhu _ d .. | .div _ d ..
  | .divu _ d .. | .rem _ d .. | .remu _ d .. | .clz _ d .. | .ctz _ d .. | .popc _ d .. | .addi _ d .. | .andi _ d ..
  | .ori _ d .. | .xori _ d .. | .shli _ d .. | .shri _ d .. | .sari _ d .. | .sel _ d .. | .fclass _ _ d ..
  | .fmin _ _ d .. | .fmax _ _ d .. | .falloc _ d .. | .slotr _ d .. | .sref _ d .. | .rdsr _ d .. | .symq _ d ..
  | .limm _ d .. | .lui _ d .. | .bfx _ d .. | .bfi _ d .. | .mcnt _ d .. | .vdotF32 _ d .. | .vdotBf16 _ d ..
  | .vdotF16 _ d .. | .vext _ _ d .. | .vredAdd _ _ d .. | .vredMin _ _ d .. | .vredMax _ _ d .. => [d.toNat]
  | .fadd _ _ _ _ d .. | .fsub _ _ _ _ d .. | .fmul _ _ _ _ d .. | .ffma _ _ _ _ d .. | .fdiv _ _ _ _ d ..
  | .fsqrt _ _ _ _ d .. | .fcvt _ _ _ _ d .. => [d.toNat]
  | .ld _ _ _ d .. | .ldl _ _ _ d .. | .xchg _ _ _ d .. | .cas _ _ _ d .. | .faa _ _ _ d .. | .amax _ _ _ d ..
  | .amin _ _ _ d .. | .amaxU _ _ _ d .. | .aminU _ _ _ d .. => [d.toNat]
  | .cas2 _ _ d .. => [d.toNat, (d + 1).toNat]
  | .call .. => [29]
  | .ldz _ _ a _ => [a.toNat]
  | .stz _ _ a _ => [a.toNat]
  | _ => []

/-- May the instruction change predicates, masks, vectors or FPSTAT? -/
def Instr.setsFlags : Instr → Bool
  | .setp .. | .setpiA .. | .setpiB .. | .fsetp .. | .plog .. | .fadd .. | .fsub .. | .fmul .. | .ffma .. | .fdiv ..
  | .fsqrt .. | .fmin .. | .fmax .. | .fcvt .. | .ldz .. | .vadd .. | .vsub .. | .vmul .. | .vfma .. | .vmin ..
  | .vmax .. | .vabs .. | .vneg .. | .vand .. | .vor .. | .vxor .. | .vselW .. | .vselH .. | .vselB .. | .vshlI32 ..
  | .vshrI32 .. | .vsarI32 .. | .vshlI16 .. | .vshrI16 .. | .vsarI16 .. | .vcmp .. | .vrcp .. | .vrsq .. | .vexp2 ..
  | .vlog2 .. | .viota .. | .vredAdd .. | .vredMin .. | .vredMax .. | .vdotF32 .. | .vdotBf16 .. | .vdotF16 ..
  | .vperm .. | .vbcast .. | .vins .. | .vcomp .. | .vexpd .. | .vld .. | .mlog .. | .wrsr .. | .vx .. | .vcvt .. => true
  | _ => false

/-- May the instruction change a byte of memory as it issues: a local store, a slot word armed, a frame allocated? -/
def Instr.storesNow : Instr → Bool
  | .st .. | .vst .. | .stz .. | .sloti .. | .falloc .. => true
  | _ => false

/-- Does the instruction read global memory as it issues, which applies the updates pending in the lines it reads (R252): the
affinity entry of an AMSG, or the code that a branch leads to? -/
def Instr.readsNow : Instr → Bool
  | .br .. | .call .. | .jr .. | .ret .. | .amsg .. => true
  | _ => false

/-- What is checked before the guard and does not lie in the word alone: the body of a REP, the number and the rights of a
special register, and privilege (R95, R104, R376). -/
def Instr.checkedFirst (i : Instr) (s : Machine.State) (r : Machine.Run) : Except Machine.Stop Unit :=
  match i with
  | .rep _ _ n => Machine.repBodyOk n s r
  | .rdsr _ _ num => if (s.special r num.toNat).isSome then .ok () else .error (.fault 0x01 0 0)
  | .wrsr _ _ num => s.mayWrite r num.toNat
  | .rgnctlAct .. | .rgnctlCfg .. | .rgnctlSusp .. | .rgnctlRes .. | .rgnctlDel .. | .tlbinvPg .. | .tlbinvAs ..
  | .tlbinvAll .. | .waycfg .. | .resume .. | .resumeAbt .. | .resumeRpl .. | .resumeDrp .. => Machine.needPriv s r
  | _ => .ok ()

end Sys2Proof

namespace Sys2Proof.Machine

open Sys2Proof

/-- The current core's Running threadlet is `r`, and the guard of the instruction it issues holds. -/
def State.Issues (s : State) (r : Run) (g : Guard) : Prop := (s.core s.cur).run = some r ∧ r.holds g = true

/-- The Running threadlet moved on by an instruction of `n` words (R91, R376). -/
def Run.past (r : Run) (n : Nat) : Run := { r.advance n with bpSkip := 0 }

/-- Every byte of global, host and core-local memory reads as before. -/
def State.SameBytes (s t : State) : Prop :=
  (∀ a, Cells.get t.mem a = Cells.get s.mem a) ∧ (∀ a, Cells.get t.hostMem a = Cells.get s.hostMem a) ∧
    ∀ n a, Cells.get (t.core n).lmem a = Cells.get (s.core n).lmem a

/-- The instruction completes and changes the Running threadlet only: the next state is the one before with `r` in its
place. -/
def State.Becomes (s : State) (i : Instr) (r : Run) : Prop := exec i s = .next (s.setRun s.cur r)

/-- The states differ by reads of code alone: lines of code in the instruction caches (R198), what the home slices remember of
their lines (R199), and the bound lines whose pending updates a read applies (R252). -/
def State.SameButCode (s t : State) : Prop :=
  t = { s with
    chips := t.chips, slices := t.slices, eddies := t.eddies, mem := t.mem, poison := t.poison, struck := t.struck
    past := t.past, lost := t.lost, hostLines := t.hostLines, free := t.free } ∧
  (∀ m, (t.chip m).tlb = (s.chip m).tlb) ∧
  (Memory.wf s.mem = true → Memory.wf t.mem = true ∧
    ∀ a, s.bindingAt (a / 128 * 128) = none → Cells.get t.mem a = Cells.get s.mem a)

/-- The instruction completes and leaves `t` with `r` as the Running threadlet. -/
def State.BecomesIn (s t : State) (i : Instr) (r : Run) : Prop := exec i s = .next (t.setRun s.cur r)

/-- The instruction writes a known value to register `d` and moves past its `n` words; nothing else changes. -/
def State.Writes (s : State) (i : Instr) (r : Run) (d : XReg) (v : Word) (n : Nat) : Prop :=
  s.Becomes i ((r.write d (.known v)).past n)

/-- The instruction parks the Running threadlet at itself with cause 0, for the symbols of some register contents
(R55, R68). -/
def State.Parks (s : State) (i : Instr) (r : Run) (vs : List RVal) : Prop :=
  exec i s = .next (s.park s.cur r 0 0 (.syms (symbolsOf vs)))

/-- The instruction takes a precise fault at itself: the threadlet is Held, or aborted, and one record is sent (R299,
R303). -/
def State.Faults (s : State) (i : Instr) (r : Run) (code addr : Nat) (detail : Word) : Prop :=
  exec i s = .next (s.takeFault s.cur { r with bpSkip := 0 } r.origin 0 code addr detail)

/-- The instruction takes a precise fault at itself, in `t`. -/
def State.FaultsIn (s t : State) (i : Instr) (r : Run) (code addr : Nat) (detail : Word) : Prop :=
  exec i s = .next (t.takeFault s.cur { r with bpSkip := 0 } r.origin 0 code addr detail)

/-- A predicate takes a value, sticky flags are raised, and nothing else changes; the other predicates hold what they held
(R101, R138). -/
def State.SetsPred (s : State) (i : Instr) (r : Run) (k : PReg) (b : Bool) (fl : BitVec 8) : Prop :=
  ∃ p' : BitVec 8, s.Becomes i (({ r with p := p', fpst := r.fpst ||| fl } : Run).past 1) ∧
    ∀ j < 8, p'.getLsbD j = if j = k.toNat then b else r.p.getLsbD j

/-- A vector instruction of `n` words gives lane `j` of `w` bits of register `d` the value of `f j`, for every lane, and
raises the flags of all lanes together; nothing else changes (R106, R401). -/
def State.SetsLanes (s : State) (i : Instr) (r : Run) (d : VReg) (n w : Nat) (f : Nat → Nat × BitVec 8) : Prop :=
  ∃ (v : VWord) (fl : BitVec 8),
    s.Becomes i (({ r with v := SMap.set r.v d.toNat v, fpst := r.fpst ||| fl } : Run).past n) ∧
    (∀ j < 512 / w, (v.extractLsb' (w * j) w).toNat = (f j).1 % 2 ^ w) ∧
    ∀ b, fl.getLsbD b = true ↔ ∃ j < 512 / w, (f j).2.getLsbD b = true

/-- The state's last packet is a fault record for the device region's domain, with its code, its source and where it was
found (Table 13-2, R300). -/
def State.Reports (t : State) (code src : Nat) (loc : Agent) : Prop :=
  ∃ ws : List Word, t.net.getLast? = some ⟨.sig, loc, .service, 1, .record 1 0 ws⟩ ∧
    (wordAt ws 0).extractLsb' 52 12 = BitVec.ofNat 12 (16 * code + src)

/-- Cores hold what they held. -/
def State.SameCores (s t : State) : Prop := ∀ n, t.core n = s.core n

/-- What the conditions of SETP and SETPI compare (R383). -/
def holdsCond (c : Cond) (x y : Word) : Prop :=
  match c with
  | .eq => x = y
  | .ne => x ≠ y
  | .lt => x.toInt < y.toInt
  | .le => x.toInt ≤ y.toInt
  | .gt => x.toInt > y.toInt
  | .ge => x.toInt ≥ y.toInt
  | .ltu => x.toNat < y.toNat
  | .leu => x.toNat ≤ y.toNat
  | .gtu => x.toNat > y.toNat
  | .geu => x.toNat ≥ y.toNat
  | .tst => x &&& y ≠ 0

/-- The threadlet after a floating-point result of a precision: zero-extended into `d` (R98), its flags raised (R138). -/
def Run.fpResult (r : Run) (d : XReg) (p : Prec) (res : Nat × BitVec 8) : Run :=
  { r.write d (.known (BitVec.ofNat 64 (res.1 % 2 ^ p.fmt.width))) with fpst := r.fpst ||| res.2 }

/-- The core's pool covers the symbolic registers the threadlet holds once `d` holds a content (R74). -/
def State.Covers (s : State) (r : Run) (d : XReg) (v : RVal) : Prop :=
  (r.write d v).symbolic.length ≤ (s.core s.cur).poolFree

/-- The record of a precise fault of a core instruction (Table 13-2): its token names the Held threadlet (Table 13-4), or is
zero where neither a park area nor a hold entry keeps it. -/
def heldRecord (s : State) (n : Nat) (r : Run) (code addr : Nat) (detail : Word) : Rec where
  code := code
  src := 0
  region := r.region
  fid := r.fid
  slot := 0
  loc := .core n
  at_ := some (r.block, r.idx)
  addr := addr
  detail := detail
  token := if r.parkw = 0 ∧ (∀ j < 4, SMap.has (s.core n).hold j = true) then 0
    else BitVec.ofNat 64 (2 ^ 62 + n * 2 ^ 32 + r.fid * 2 ^ 16)
  iter := r.rep.map fun p => p.iter

/-- Keys in strictly rising order, each once: the canonical form of a finite map. -/
def SMap.Rising {α : Type} (m : SMap α) : Prop := (m.map (·.1)).Pairwise (· < ·)

/-- Nothing keeps an operation of the threadlet back: no acquiring atomic of its is pending (R226) and no barrier holds its
order stage (R221). -/
def State.MayIssue (s : State) (r : Run) : Prop :=
  (s.core s.cur).acqPending r.tid = [] ∧ (s.core s.cur).mustWait r.tid (s.core s.cur).nextSeq = false

/-- The operation that the Running threadlet issues next, with a body. -/
def State.opOf (s : State) (r : Run) (body : OpBody) : Op :=
  { id := (s.core s.cur).nextSeq, seq := (s.core s.cur).nextSeq, org := r.origin, deferred := false, far := false,
    body := body }

/-- The core with the Running threadlet moved past `n` words and one place in the issue order taken. -/
def State.issued (s : State) (r : Run) (n : Nat) : Core :=
  { s.core s.cur with run := some (r.past n), nextSeq := (s.core s.cur).nextSeq + 1 }

/-- The instruction puts one operation at the end of the core's source interface; nothing else changes. -/
def State.Enters (s : State) (i : Instr) (r : Run) (body : OpBody) : Prop :=
  exec i s = .next (s.setCore s.cur { s.issued r 1 with src := (s.core s.cur).src ++ [s.opOf r body] })

/-- The instruction puts one operation at the end of the core's order stage, behind a barrier; nothing else changes. -/
def State.Stages (s : State) (i : Instr) (r : Run) (body : OpBody) : Prop :=
  exec i s = .next (s.setCore s.cur { s.issued r 1 with stage := (s.core s.cur).stage ++ [s.opOf r body] })

/-- The instruction sends one packet on its region's behalf; no other core and no byte changes. -/
def State.Sends (s : State) (i : Instr) (r : Run) (cls : PClass) (dst : Agent) (b : PBody) : Prop :=
  ∃ t, exec i s = .next t ∧ t.net = s.net ++ [⟨cls, .core s.cur, dst, r.region, b⟩] ∧
    t.core s.cur = s.issued r 1 ∧ (∀ m, m ≠ s.cur → t.core m = s.core m) ∧ s.SameBytes t

/-- The instruction puts a deferred effect into entry `k` of the core's dependant pool (R72); nothing else changes. -/
def State.Defers (s : State) (i : Instr) (r : Run) (k : Nat) (e : Effect) (ops : List RVal) : Prop :=
  exec i s = .next (s.setCore s.cur { s.issued r 1 with
    pool := SMap.set (s.core s.cur).pool k ⟨(s.core s.cur).nextSeq, r.origin, .effect e ops⟩ })

/-- The entry that R59 computes for a data address in a region's affinity table reads `e`: no update of its line is pending,
and the hashing agent has it in its cache as the table has it, or not at all (R281). -/
def State.Hashes (s : State) (a : Agent) (region : Nat) (addr : Word) (e : Nat) : Prop :=
  ∃ g, s.region region = some g ∧ s.lost = [] ∧
    let i := (addr.extractLsb' 0 52).toNat / 2 ^ g.affg % g.affm
    (∀ l ∈ linesOf (g.afftab + 2 * i) 2, s.bindingAt (l * 128) = none) ∧
      natOf (Cells.read s.mem (g.afftab + 2 * i) 2) = e ∧ ∀ v, (4096 * region + i, v) ∈ s.affCache a → v = e

/-- An affinity entry names a core of its region's CORESET, its bits [15:11] zero (R59). -/
def State.Owns (s : State) (region e : Nat) : Prop :=
  e / 2 ^ 11 % 32 = 0 ∧ ∃ g, s.region region = some g ∧ g.coreset.getLsbD (e % 2 ^ 11) = true

/-- Packets toward an agent go into the network at once: it is of this module, or no route change holds them (R319). -/
def State.Reaches (s : State) (a : Agent) : Prop := ∀ m, a = .peer m → SMap.has s.brielo.drain m = false

/-- The register holds a form: its value is not known yet (R68). -/
def RVal.isLate (v : RVal) : Prop := v.symbol ≠ none

/-- Everything outside the current core's Running threadlet is as before: put the same threadlet in both, and the states
are equal. -/
def State.SameOutside (s t : State) : Prop := ∀ r, t.setRun s.cur r = s.setRun s.cur r

/-- Scalar registers other than those listed hold what they held. -/
def Run.SameRegs (r r' : Run) (except : List Nat) : Prop := ∀ j, j ∉ except → r'.reg j = r.reg j

/-- Predicates, masks, vectors and FPSTAT hold what they held. -/
def Run.SameFlags (r r' : Run) : Prop := r'.p = r.p ∧ r'.m = r.m ∧ r'.v = r.v ∧ r'.fpst = r.fpst

/-- The memories stand in their canonical form. -/
def State.Sound (s : State) : Prop :=
  Memory.wf s.mem = true ∧ Memory.wf s.hostMem = true ∧ ∀ c ∈ s.cores, Memory.wf c.2.lmem = true

/-- A run is safe when no step of it stops. -/
def State.Safe (s : State) : Prop := ∀ k : Nat, ∃ t : State, Host.Core.run Sys2Proof.core k s = Host.Outcome.next t

end Sys2Proof.Machine
end

