-- ==== Sys2Proof/Certificates/Slice0/Obligations.lean ====
section
/-! DEFINITION. The statements for the provers. -/

open Sys2Proof Sys2Proof.Machine

/-! ## The machine -/

/-- A step runs the instruction that the words at the Running threadlet's index decode to: with an issue of core `n`
next on the agenda and nothing that comes before it, the step is that instruction's `exec`, at the state with the turn
taken, the core made current and the lines of its words read and cached, and then the passing of time; reading code changes
nothing else. The words are what a fetch finds, where it finds one: in the images its chiplet has cached of the line (R198,
R358), or else in memory where the line's page is mapped, with no update pending for it and no byte dropped. The model's
own choices and inferences: log entries 4, 5, 31 and 84. -/
def Obligations.StepRunsDecoded : Prop :=
  (∀ (s : State) (n : Nat) (rest : List Turn) (r : Run) (i : Instr) (w0 w1 : BitVec 32),
    s.forced = none → s.agenda = .issue n :: rest → s.power = .active → (s.core n).run = some r →
    (s.suspended r.region = false ∨ r.parkw = 0) → r.runleft ≠ 0 → s.breakDetail n r = none → r.idx + i.words ≤ r.len + 1 →
    decode (bytesOfWord w0 ++ bytesOfWord w1) = .ok i → (i.words = 1 → w1 = 0) →
    let s0 : State := { s with agenda := rest, cur := n }
    let s1 := s0.cacheCode n (s.asid r.region) (r.wordVa 0)
    let s2 := if i.words = 1 then s1 else s1.cacheCode n (s.asid r.region) (r.wordVa 1)
    (∃ sup, s0.codeAt n (s.asid r.region) (r.wordVa 0) = .words [w0] sup) →
    (i.words ≠ 1 → ∃ sup, s1.codeAt n (s.asid r.region) (r.wordVa 1) = .words [w1] sup) →
    s0.SameButCode s2 ∧
    step s = match exec i s2 with
      | .next t => .next t.after
      | .fault e => .fault e
      | .refused e => .refused e) ∧
  ∀ (s : State) (n asid va sl pa : Nat) (sp : Space) (t : Tlb), va < 2 ^ 52 → s.lookup n asid va = .leaf t →
    s.codeRoute n t va = .to (.slice sl) pa sp → sp ≠ .scratch →
    (∀ l, ((s.chip (chipOf n)).icache.find? fun l => l.asid == asid && l.line == va / 128) = some l →
      s.codeAt n asid va = .words ((l.images.map fun im => imageWord im (va / 4 % 32)).eraseDups) t.sup) ∧
    (((s.chip (chipOf n)).icache.any fun l => l.asid == asid && l.line == va / 128) = false → pa % 128 = 0 →
      s.bindingAt pa = none → s.anyLost pa 128 = false → s.codeAt n asid va
        = .words [BitVec.ofNat 32 (natOf (Cells.read s.mem (pa + 4 * (va / 4 % 32)) 4))] t.sup)

/-- Words written out from the spec's encodings decode to the instructions they stand for: the spec's own examples,
one or more of each family. By their rules: ADD R328, SHLI R381, SETP R383, FFMA R344, FCVT R347, B R337, REP R376,
NOP R370, BFX R338, LIMM R363, FALLOC R345, SIGD and SIGV R384, AMSG R333, LD R360, ST R392, GLD R354, LDL R361, GST
R355, CAS2 R330, FENCE R348, FENCEQ R349, UPDV R399, CPY2 R341, RCFG R374, ACCST R327, VFMA R404, VEXT R412, VLD R413,
MLOG R365, VX R405 and R409, RDSR R375, RGNCTL R378; and the two words that are no instruction, R123. -/
def Obligations.DecodedWords : Prop :=
  decode (bytesOfWord 0x00030880) = .ok (.add ⟨0, false⟩ 3 1 2) ∧
  decode (bytesOfWord 0x00A62807) = .ok (.shli ⟨0, false⟩ 6 5 7) ∧
  decode (bytesOfWord 0x02022146) = .ok (.setp ⟨0, false⟩ .ltu 2 4 5) ∧
  decode (bytesOfWord 0x036838C0) = .ok (.ffma ⟨0, false⟩ .s false .rne 8 7 3) ∧
  decode (bytesOfWord 0x03E20940) = .ok (.fcvt ⟨0, false⟩ .bfS false .rne 2 1) ∧
  decode (bytesOfWord 0x041FFFFE) = .ok (.br ⟨0, false⟩ (-2)) ∧
  decode (bytesOfWord 0x04601003) = .ok (.rep ⟨0, false⟩ 2 3) ∧
  decode (bytesOfWord 0x04800002) = .ok (.nop ⟨0, false⟩) ∧
  decode (bytesOfWord 0x0E440800 ++ bytesOfWord 0x0000080C) = .ok (.bfx ⟨0, false⟩ 4 1 8 12) ∧
  decode (bytesOfWord 0x0E020000 ++ bytesOfWord 0x00100000) = .ok (.limm ⟨0, false⟩ 2 0x00100000) ∧
  decode (bytesOfWord 0x05050002) = .ok (.falloc ⟨0, false⟩ 5 2) ∧
  decode (bytesOfWord 0x05422206) = .ok (.sigd ⟨0, false⟩ true false 4 8 2) ∧
  decode (bytesOfWord 0x054020C8) = .ok (.sigv ⟨0, false⟩ false false 4 3 0) ∧
  decode (bytesOfWord 0x05880000) = .ok (.amsg ⟨0, false⟩ 8) ∧
  decode (bytesOfWord 0x0604FC08) = .ok (.ld ⟨0, false⟩ .w false 4 31 8) ∧
  decode (bytesOfWord 0x0622FE06) = .ok (.st ⟨0, false⟩ .d 2 31 6) ∧
  decode (bytesOfWord 0x070A680E) = .ok (.gld ⟨0, false⟩ false .normal .d true false 10 13) ∧
  decode (bytesOfWord 0x07250C00) = .ok (.ldl ⟨0, false⟩ .w false 5 1 0) ∧
  decode (bytesOfWord 0x07420F01) = .ok (.gst ⟨0, false⟩ .d true 2 1 1) ∧
  decode (bytesOfWord 0x07A22997) = .ok (.cas2 ⟨0, false⟩ .acqRel 2 5 6) ∧
  decode (bytesOfWord 0x08000017) = .ok (.fence ⟨0, false⟩ true true true .s) ∧
  decode (bytesOfWord 0x08200004) = .ok (.fenceqCt ⟨0, false⟩) ∧
  decode (bytesOfWord 0x08860899) = .ok (.updv ⟨0, false⟩ 6 1 2 3 1) ∧
  decode (bytesOfWord 0x09224800) = .ok (.cpy2 ⟨0, false⟩ ⟨false, .normal, 0, false, .gl, false, false⟩ 2 9) ∧
  decode (bytesOfWord 0x0A030001) = .ok (.rcfg ⟨0, false⟩ 1 3) ∧
  decode (bytesOfWord 0x0AC84804) = .ok (.accst ⟨0, false⟩ false false false .rne .bf16 0 8 9) ∧
  decode (bytesOfWord 0x0B020043) = .ok (.vfma ⟨0, false⟩ .f32 2 0 1 0) ∧
  decode (bytesOfWord 0x0C63125A) = .ok (.vext ⟨0, false⟩ .d 3 2 9) ∧
  decode (bytesOfWord 0x0C81F802) = .ok (.vld ⟨0, false⟩ 1 31 2) ∧
  decode (bytesOfWord 0x0CC208C3) = .ok (.mlog ⟨0, false⟩ .andn 2 1 3) ∧
  decode (bytesOfWord 0x0E830888 ++ bytesOfWord 0x000005A9) = .ok (.vx ⟨0, false⟩ (.add .bf16) true .rtz 3 1 2 1) ∧
  decode (bytesOfWord 0x0D050018) = .ok (.rdsr ⟨0, false⟩ 5 0x018) ∧
  decode (bytesOfWord 0x0D444802) = .ok (.rgnctlSusp ⟨0, false⟩ 4 9) ∧
  decode (bytesOfWord 0) = .error .allZeroWord ∧
  decode (bytesOfWord 0xFFFFFFFF) = .error .allOnesWord

/-- Decode and encode agree: every instruction that has an encoding decodes from the words the encoder gives it,
whatever its operands. -/
def Obligations.EncodeDecode : Prop :=
  ∀ i : Instr, i.wf = true → i.isEvent = false → decode ((encode i).flatMap bytesOfWord) = .ok i

/-- Every step keeps the memories in their canonical form: global memory, host memory and the local memory of every
core. The model's own choices and inferences: log entries 1 and 5. -/
def Obligations.StepKeepsMemoryForm : Prop :=
  ∀ s t : State, s.Sound → step s = .next t → t.Sound

/-- The memories are in their canonical form at reset. The model's own choices and inferences: log entry 1. -/
def Obligations.ResetMemoryForm : Prop := State.reset.Sound

/-- No step stops, so every run of every length from every state goes on: what the spec calls a fault is a next state. The
model's own choices and inferences: log entries 5, 56 and 57. -/
def Obligations.StepNeverStops : Prop := ∀ s : State, s.Safe

/-- What module reset leaves, by R40, R218, R265, R319 and Table 14-4's boot: every core's frame table is empty and its
allocation pointer stands at 1, every home slice's counter is zero, every landing channel is closed and zero, the
module's number is 0 and no route is valid, and no region is active. A reset of any module with no boot-attempt record
and no transition pending, whose image A is valid and which holds its configuration record, boots it: active, with the
device region of Table 2-9 as its only region. A step that fails is recorded with the count 1 and the module is reset
again; the next boot runs the step's alternative: image B, the reservoir left out, the ports at half rate. Where the
step has none, or its alternative has failed, the module halts (R320). That unwritten memory is the same at every reset
is the model's choice (log entry 1). The model's own choices and inferences: log entries 1, 2, 6, 50 and 52. -/
def Obligations.ResetAndBoot : Prop :=
  (∀ n, (State.reset.core n).fptr = 1 ∧ (State.reset.core n).frames = [] ∧ (State.reset.core n).run = none ∧
    ∀ k, SMap.get (State.reset.core n).land k 0 = 0) ∧
  (∀ k, (SMap.get State.reset.slices k Slice.init).seq = 0) ∧
  State.reset.brielo.number = 0 ∧ (∀ k, SMap.find State.reset.brielo.routes k = none) ∧
  State.reset.regions = [] ∧ State.reset.cycle = 0 ∧ (∀ a, Cells.get State.reset.mem a = Cells.get [] a) ∧
  (∀ (s : State) (k v : Nat) (c : ConfigRecord), s.flash.pendingLife = none → s.flash.attempt = none →
    s.flash.triedB = false → s.flash.imageA = some v → s.flash.rollback ≤ v → s.flash.record = some c →
    ((k = 0 ∨ 8 < k) → ∃ t : State, exec (.moduleReset k) s = .next t ∧ t.power = .active ∧ t.flash.attempt = none ∧
      t.reservoir = true ∧ t.brielo.half = false ∧
      ∃ g : Region, t.regions = [(1, g)] ∧ g.parent = 0 ∧ g.fstore = c.fstore ∧ g.rmode = .rne ∧ g.prio = 8 ∧ g.rqw = 16 ∧
        g.fquota = 256 ∧ g.spillcap = 256 ∧ g.cycbud = 0xFFFF ∧ g.tilebud = 0xFFFF ∧ g.copybud = 0xFFFFFFFF ∧
        g.faultrcb = g.rcb ∧ g.coreset = BitVec.allOnes 2048 ∧ g.affg = 16 ∧ g.affm = 2048 ∧ g.ovs = 2 ∧ g.flagw = 0 ∧
        g.ubind = List.replicate 8 none ∧ g.susp = false) ∧
    (1 ≤ k → k ≤ 8 → ∃ t : State, exec (.moduleReset k) s = .next t ∧ t.power = .booting ∧
      t.flash.attempt = some (k, 1) ∧ t.regions = [])) ∧
  (∀ (s : State) (j v : Nat) (c : ConfigRecord), s.flash.pendingLife = none → s.flash.attempt = some (j, 1) →
    s.flash.triedB = false → s.flash.rollback ≤ v → s.flash.record = some c →
    (if j = 2 then s.flash.imageB else s.flash.imageA) = some v → (j = 2 ∨ j = 4 ∨ j = 6 ∨ j = 7) →
    ∃ t : State, exec (.moduleReset 0) s = .next t ∧ t.power = .active ∧ t.flash.attempt = none ∧
      t.flash.slotB = decide (j = 2) ∧ t.reservoir = decide (j ≠ 6) ∧ t.brielo.half = decide (j = 7) ∧
      t.service.log = [.bootReport s.flash.deviceRcb (if j = 6 then [6] else [])]) ∧
  ∀ (s : State) (j n k : Nat), s.flash.pendingLife = none → s.flash.attempt = some (j, n) →
    ((j = 1 ∨ j = 3 ∨ j = 5 ∨ j = 8) ∨ ((j = 2 ∨ j = 4 ∨ j = 7) ∧ 2 ≤ n)) →
    ∃ t : State, exec (.moduleReset k) s = .next t ∧ t.power = .halted ∧ t.flash = s.flash ∧ t.regions = []

/-- A false guard (R95): an instruction that passes the checks made before the guard, and that sends no null signal,
reads and writes nothing and moves past its words, both words of a long form. The model's own choices and inferences:
log entries 12 and 59. -/
def Obligations.FalseGuard : Prop :=
  ∀ (i : Instr) (s : State) (r : Run) (g : Guard), i.guard = some g → (s.core s.cur).run = some r → r.holds g = false →
    i.checkedFirst s r = .ok () → i.nullsFalseGuard = false → s.Becomes i (r.past i.words)

/-- When a guard holds (Table 4-3): PG's predicate with sense PN, p0 reading true; PG = 0 with PN = 1 never executes.
And register x0 (R98): it reads zero, a write to it changes no register, and a write to another register is read back
there and changes no other. -/
def Obligations.GuardsAndZeroRegister : Prop :=
  (∀ (r : Run) (k : PReg) (pn : Bool),
    (k ≠ 0 → r.holds ⟨k, pn⟩ = xor (r.p.getLsbD k.toNat) pn) ∧ r.holds ⟨0, false⟩ = true ∧ r.holds ⟨0, true⟩ = false) ∧
  ∀ (r : Run) (d a : XReg) (v : RVal), r.get 0 = .known 0 ∧ r.write 0 v = r ∧ (d ≠ 0 → (r.write d v).get d = v) ∧
    (a ≠ d → (r.write d v).get a = r.get a)

/-- Taking a precise fault (R303, R299): the core is left without a Running threadlet, and with a park area, or else
with a free hold entry, the frame's threadlet is Held there with cause 6; with neither it is aborted. One record of
Table 13-2 goes to the fault domain, here the device region's, with the resume token of a Held threadlet or zero. -/
def Obligations.PreciseFault : Prop :=
  ∀ (s : State) (n : Nat) (r : Run) (f : Frame) (code addr : Nat) (detail : Word), n < 2048 → r.fid < 65536 →
    (s.core n).run = some r → (s.core n).frame r.fid = some f → s.domainOf r.region = some 1 →
    ((s.takeFault n r r.origin 0 code addr detail).core n).run = none ∧
    (r.parkw ≠ 0 → ∃ f' p, ((s.takeFault n r r.origin 0 code addr detail).core n).frame r.fid = some f' ∧
      f'.parked = some p ∧ p.cause = 6 ∧ p.hold = none ∧ p.tid = r.tid ∧ p.slot = r.slot) ∧
    (∀ k < 4, r.parkw = 0 → SMap.has (s.core n).hold k = false → (∀ j < k, SMap.has (s.core n).hold j = true) →
      ∃ f' p, ((s.takeFault n r r.origin 0 code addr detail).core n).frame r.fid = some f' ∧
        f'.parked = some p ∧ p.cause = 6 ∧ p.hold = some k ∧ p.tid = r.tid ∧ p.slot = r.slot ∧
        ((SMap.find ((s.takeFault n r r.origin 0 code addr detail).core n).hold k).map (·.fid)) = some r.fid) ∧
    (r.parkw = 0 → (∀ j < 4, SMap.has (s.core n).hold j = true) → r.tid ∉ f.ownFree →
      ∃ f', ((s.takeFault n r r.origin 0 code addr detail).core n).frame r.fid = some f' ∧ f'.parked = f.parked) ∧
    (s.takeFault n r r.origin 0 code addr detail).net.getLast? = some ⟨.sig, .core n, .service, 1, .record 1 0
      (s.recordWords (heldRecord s n r code addr detail))⟩
/-! ## Scalar integer instructions -/

/-- R334: AND, OR and XOR on known operands, the park on a late one, and the words. -/
def Obligations.BitwiseRegister : Prop :=
  ∀ (s : State) (r : Run) (g : Guard) (d a b : XReg), s.Issues r g →
    (∀ x y : Word, r.get a = .known x → r.get b = .known y →
      s.Writes (.and g d a b) r d (x &&& y) 1 ∧ s.Writes (.or g d a b) r d (x ||| y) 1 ∧
      s.Writes (.xor g d a b) r d (x ^^^ y) 1) ∧
    ((r.get a).isLate ∨ (r.get b).isLate →
      s.Parks (.and g d a b) r [r.get a, r.get b] ∧ s.Parks (.or g d a b) r [r.get a, r.get b] ∧
      s.Parks (.xor g d a b) r [r.get a, r.get b]) ∧
    encode (.and ⟨0, false⟩ d a b) = [BitVec.ofNat 32 (65536 * d.toNat + 2048 * a.toNat + 64 * b.toNat + 2)] ∧
    encode (.or ⟨0, false⟩ d a b) = [BitVec.ofNat 32 (65536 * d.toNat + 2048 * a.toNat + 64 * b.toNat + 3)] ∧
    encode (.xor ⟨0, false⟩ d a b) = [BitVec.ofNat 32 (65536 * d.toNat + 2048 * a.toNat + 64 * b.toNat + 4)]

/-- R335: ANDI, ORI and XORI with the sign-extended immediate, the park on a late operand, the words, and the
example. -/
def Obligations.BitwiseImmediate : Prop :=
  (∀ (s : State) (r : Run) (g : Guard) (d a : XReg) (imm : BitVec 11), s.Issues r g →
    (∀ x : Word, r.get a = .known x →
      s.Writes (.andi g d a imm) r d (x &&& BitVec.ofInt 64 imm.toInt) 1 ∧
      s.Writes (.ori g d a imm) r d (x ||| BitVec.ofInt 64 imm.toInt) 1 ∧
      s.Writes (.xori g d a imm) r d (x ^^^ BitVec.ofInt 64 imm.toInt) 1) ∧
    ((r.get a).isLate →
      s.Parks (.andi g d a imm) r [r.get a] ∧ s.Parks (.ori g d a imm) r [r.get a] ∧
      s.Parks (.xori g d a imm) r [r.get a])) ∧
  (∀ (d a : XReg) (imm : BitVec 11),
    encode (.andi ⟨0, false⟩ d a imm) = [BitVec.ofNat 32 (2 * 2 ^ 21 + 65536 * d.toNat + 2048 * a.toNat + imm.toNat)] ∧
    encode (.ori ⟨0, false⟩ d a imm) = [BitVec.ofNat 32 (3 * 2 ^ 21 + 65536 * d.toNat + 2048 * a.toNat + imm.toNat)] ∧
    encode (.xori ⟨0, false⟩ d a imm) = [BitVec.ofNat 32 (4 * 2 ^ 21 + 65536 * d.toNat + 2048 * a.toNat + imm.toNat)]) ∧
  encode (.andi ⟨0, false⟩ 3 3 (-16)) = [0x00431FF0]

/-- R340: CLZ, CTZ and POPC, what each counts, the park on a form, the words, and that a nonzero b is no
instruction. -/
def Obligations.CountBits : Prop :=
  (∀ (s : State) (r : Run) (g : Guard) (d a : XReg), s.Issues r g →
    (∀ x : Word, r.get a = .known x →
      (∃ k ≤ 64, s.Writes (.clz g d a) r d (BitVec.ofNat 64 k) 1 ∧ (∀ i, 64 - k ≤ i → x.getLsbD i = false) ∧
        (k < 64 → x.getLsbD (63 - k) = true)) ∧
      (∃ k ≤ 64, s.Writes (.ctz g d a) r d (BitVec.ofNat 64 k) 1 ∧ (∀ i, i < k → x.getLsbD i = false) ∧
        (k < 64 → x.getLsbD k = true)) ∧
      s.Writes (.popc g d a) r d (BitVec.ofNat 64 ((Finset.range 64).filter fun i => x.getLsbD i = true).card) 1) ∧
    ((r.get a).isLate → s.Parks (.clz g d a) r [r.get a] ∧ s.Parks (.ctz g d a) r [r.get a] ∧
      s.Parks (.popc g d a) r [r.get a])) ∧
  (∀ (s : State) (r : Run) (g : Guard) (d a : XReg), s.Issues r g → r.get a = .known 0 →
    s.Writes (.clz g d a) r d 64 1 ∧ s.Writes (.ctz g d a) r d 64 1) ∧
  (∀ d a : XReg,
    encode (.clz ⟨0, false⟩ d a) = [BitVec.ofNat 32 (65536 * d.toNat + 2048 * a.toNat + 19)] ∧
    encode (.ctz ⟨0, false⟩ d a) = [BitVec.ofNat 32 (65536 * d.toNat + 2048 * a.toNat + 20)] ∧
    encode (.popc ⟨0, false⟩ d a) = [BitVec.ofNat 32 (65536 * d.toNat + 2048 * a.toNat + 21)]) ∧
  ∀ (g : Guard) (d a b : XReg) (fn : BitVec 6), b ≠ 0 → 19 ≤ fn.toNat → fn.toNat ≤ 21 →
    ∃ e, decode (bytesOfWord (wordXR g 0 d a b fn)) = .error e

/-- R343 and Table 15-5: the quotient and the remainder, and what stands in for them where the divisor is zero and
where the quotient is not representable. No case faults; a late operand parks. -/
def Obligations.Division : Prop :=
  (∀ (s : State) (r : Run) (g : Guard) (d a b : XReg), s.Issues r g →
    (∀ x y : Word, r.get a = .known x → r.get b = .known y →
      (y ≠ 0 → ¬ (x.toInt = -2 ^ 63 ∧ y.toInt = -1) →
        s.Writes (.div g d a b) r d (BitVec.ofInt 64 (x.toInt.tdiv y.toInt)) 1 ∧
        s.Writes (.rem g d a b) r d (BitVec.ofInt 64 (x.toInt - x.toInt.tdiv y.toInt * y.toInt)) 1) ∧
      (x.toInt = -2 ^ 63 → y.toInt = -1 →
        s.Writes (.div g d a b) r d (BitVec.ofInt 64 (2 ^ 63 - 1)) 1 ∧ s.Writes (.rem g d a b) r d (BitVec.ofInt 64 (-1)) 1) ∧
      (y ≠ 0 →
        s.Writes (.divu g d a b) r d (BitVec.ofNat 64 (x.toNat / y.toNat)) 1 ∧
        s.Writes (.remu g d a b) r d (BitVec.ofNat 64 (x.toNat - x.toNat / y.toNat * y.toNat)) 1) ∧
      (y = 0 →
        s.Writes (.div g d a b) r d (BitVec.allOnes 64) 1 ∧ s.Writes (.divu g d a b) r d (BitVec.allOnes 64) 1 ∧
        s.Writes (.rem g d a b) r d x 1 ∧ s.Writes (.remu g d a b) r d x 1)) ∧
    ((r.get a).isLate ∨ (r.get b).isLate →
      s.Parks (.div g d a b) r [r.get a, r.get b] ∧ s.Parks (.divu g d a b) r [r.get a, r.get b] ∧
      s.Parks (.rem g d a b) r [r.get a, r.get b] ∧ s.Parks (.remu g d a b) r [r.get a, r.get b])) ∧
  (∀ d a b : XReg,
    encode (.div ⟨0, false⟩ d a b) = [BitVec.ofNat 32 (65536 * d.toNat + 2048 * a.toNat + 64 * b.toNat + 15)] ∧
    encode (.divu ⟨0, false⟩ d a b) = [BitVec.ofNat 32 (65536 * d.toNat + 2048 * a.toNat + 64 * b.toNat + 16)] ∧
    encode (.rem ⟨0, false⟩ d a b) = [BitVec.ofNat 32 (65536 * d.toNat + 2048 * a.toNat + 64 * b.toNat + 17)] ∧
    encode (.remu ⟨0, false⟩ d a b) = [BitVec.ofNat 32 (65536 * d.toNat + 2048 * a.toNat + 64 * b.toNat + 18)])

/-- ADD, SUB, ADDI, MUL, MULH and MULHU (R328, R329, R369), the shifts (R381), MIN, MAX, MINU and MAXU (R364) on known
operands, a late operand parking the last four; LIMM and LUI (R363): LUI replaces the upper half, a form in xd parks
LUI and is replaced by LIMM. -/
def Obligations.IntegerResults : Prop :=
  (∀ (s : State) (r : Run) (g : Guard) (d a b : XReg) (imm : BitVec 11) (x y : Word), s.Issues r g →
    r.get a = .known x → r.get b = .known y →
      s.Writes (.add g d a b) r d (BitVec.ofNat 64 (x.toNat + y.toNat)) 1 ∧
      s.Writes (.sub g d a b) r d (BitVec.ofInt 64 ((x.toNat : Int) - y.toNat)) 1 ∧
      s.Writes (.addi g d a imm) r d (BitVec.ofInt 64 (x.toNat + imm.toInt)) 1 ∧
      s.Writes (.mul g d a b) r d (BitVec.ofNat 64 (x.toNat * y.toNat)) 1 ∧
      s.Writes (.mulh g d a b) r d (BitVec.ofInt 64 (x.toInt * y.toInt / 2 ^ 64)) 1 ∧
      s.Writes (.mulhu g d a b) r d (BitVec.ofNat 64 (x.toNat * y.toNat / 2 ^ 64)) 1) ∧
  (∀ (s : State) (r : Run) (g : Guard) (d a b : XReg) (sh : BitVec 6) (x y : Word), s.Issues r g →
    r.get a = .known x → r.get b = .known y →
      s.Writes (.shl g d a b) r d (BitVec.ofNat 64 (x.toNat * 2 ^ (y.toNat % 64))) 1 ∧
      s.Writes (.shr g d a b) r d (BitVec.ofNat 64 (x.toNat / 2 ^ (y.toNat % 64))) 1 ∧
      s.Writes (.sar g d a b) r d (BitVec.ofInt 64 (x.toInt / 2 ^ (y.toNat % 64))) 1 ∧
      s.Writes (.shli g d a sh) r d (BitVec.ofNat 64 (x.toNat * 2 ^ sh.toNat)) 1 ∧
      s.Writes (.shri g d a sh) r d (BitVec.ofNat 64 (x.toNat / 2 ^ sh.toNat)) 1 ∧
      s.Writes (.sari g d a sh) r d (BitVec.ofInt 64 (x.toInt / 2 ^ sh.toNat)) 1) ∧
  (∀ (s : State) (r : Run) (g : Guard) (d a b : XReg), s.Issues r g →
    (∀ x y : Word, r.get a = .known x → r.get b = .known y →
      s.Writes (.min g d a b) r d (if x.toInt ≤ y.toInt then x else y) 1 ∧
      s.Writes (.max g d a b) r d (if x.toInt ≤ y.toInt then y else x) 1 ∧
      s.Writes (.minu g d a b) r d (if x.toNat ≤ y.toNat then x else y) 1 ∧
      s.Writes (.maxu g d a b) r d (if x.toNat ≤ y.toNat then y else x) 1) ∧
    ((r.get a).isLate ∨ (r.get b).isLate →
      s.Parks (.min g d a b) r [r.get a, r.get b] ∧ s.Parks (.max g d a b) r [r.get a, r.get b] ∧
      s.Parks (.minu g d a b) r [r.get a, r.get b] ∧ s.Parks (.maxu g d a b) r [r.get a, r.get b])) ∧
  (∀ (s : State) (r : Run) (g : Guard) (d : XReg) (imm : BitVec 32), s.Issues r g →
    s.Writes (.limm g d imm) r d (BitVec.ofInt 64 imm.toInt) 2 ∧
    (∀ x : Word, r.get d = .known x → ∃ v : Word, s.Writes (.lui g d imm) r d v 2 ∧
      v.extractLsb' 32 32 = imm ∧ v.extractLsb' 0 32 = x.extractLsb' 0 32) ∧
    ((r.get d).isLate → s.Parks (.lui g d imm) r [r.get d]))

/-- What a late operand does to the integer instructions of Table 3-2: with the pool entries R74 asks for, the destination of
a folding one takes the folded form, and without them the threadlet parks with cause 4; a form over another symbol, a chain,
a late shift count, and any late operand of MULH, MULHU, SHR, SAR, SHRI and SARI, parks with cause 0. The model's own
choices and inferences: log entry 85. -/
def Obligations.Folding : Prop :=
  (∀ (s : State) (r : Run) (g : Guard) (d a b : XReg) (imm : BitVec 11) (sh : BitVec 6) (i : Nat) (p q k : Word),
    s.Issues r g → r.get a = .form i p q → r.get b = .known k →
      let folds (ins : Instr) (x y : Word) : Prop :=
        let v : RVal := if x = 0 then .known y else .form i x y
        (x = 0 ∨ s.Covers r d v → s.Becomes ins ((r.write d v).past 1)) ∧
        (x ≠ 0 → ¬ s.Covers r d v → exec ins s = .next (s.park s.cur r 0 4 (s.core s.cur).short))
      (p ≠ 0 → folds (.add g d a b) p (q + k) ∧ folds (.add g d b a) p (k + q) ∧
        folds (.addi g d a imm) p (q + imm.signExtend 64) ∧ folds (.sub g d a b) p (q - k)) ∧
      folds (.sub g d b a) (-p) (k - q) ∧ folds (.mul g d a b) (p * k) (q * k) ∧
      folds (.shl g d a b) (p <<< (k.toNat % 64)) (q <<< (k.toNat % 64)) ∧
      folds (.shli g d a sh) (p <<< sh.toNat) (q <<< sh.toNat) ∧
      s.Parks (.shl g d b a) r [.known k, .form i p q] ∧
      ∀ (c : XReg) (j : Nat) (p' q' : Word), r.get c = .form j p' q' →
        (i = j → folds (.add g d a c) (p + p') (q + q') ∧ folds (.sub g d a c) (p - p') (q - q')) ∧
        (i ≠ j → s.Parks (.add g d a c) r [.form i p q, .form j p' q'] ∧
          s.Parks (.sub g d a c) r [.form i p q, .form j p' q']) ∧
        s.Parks (.mul g d a c) r [.form i p q, .form j p' q']) ∧
  ∀ (s : State) (r : Run) (g : Guard) (d a b : XReg) (imm : BitVec 11) (sh : BitVec 6), s.Issues r g →
    ((r.get a).isLate ∨ (r.get b).isLate →
      s.Parks (.mulh g d a b) r [r.get a, r.get b] ∧ s.Parks (.mulhu g d a b) r [r.get a, r.get b] ∧
      s.Parks (.shr g d a b) r [r.get a, r.get b] ∧ s.Parks (.sar g d a b) r [r.get a, r.get b]) ∧
    ((r.get a).isLate → s.Parks (.shri g d a sh) r [r.get a] ∧ s.Parks (.sari g d a sh) r [r.get a]) ∧
    ∀ (i : Nat) (st : List ChainStep), r.get a = .chain i st →
      s.Parks (.add g d a b) r [r.get a, r.get b] ∧ s.Parks (.sub g d a b) r [r.get a, r.get b] ∧
      s.Parks (.mul g d a b) r [r.get a, r.get b] ∧ s.Parks (.shl g d a b) r [r.get a, r.get b] ∧
      s.Parks (.addi g d a imm) r [r.get a] ∧ s.Parks (.shli g d a sh) r [r.get a]

/-- R338: BFX and BFI bit by bit, the park on a form, the two words, and the limits of POS and LEN. -/
def Obligations.BitFields : Prop :=
  (∀ (s : State) (r : Run) (g : Guard) (d a : XReg) (pos : BitVec 6) (len : BitVec 7), s.Issues r g →
    bitFieldOk pos len = true →
    (∀ x : Word, r.get a = .known x → ∃ v : Word, s.Writes (.bfx g d a pos len) r d v 2 ∧
      ∀ i, v.getLsbD i = (decide (i < len.toNat) && x.getLsbD (pos.toNat + i))) ∧
    (∀ x y : Word, r.get d = .known x → r.get a = .known y → ∃ v : Word, s.Writes (.bfi g d a pos len) r d v 2 ∧
      ∀ i, v.getLsbD i = if pos.toNat ≤ i ∧ i < pos.toNat + len.toNat then y.getLsbD (i - pos.toNat) else x.getLsbD i) ∧
    ((r.get a).isLate → s.Parks (.bfx g d a pos len) r [r.get a]) ∧
    ((r.get d).isLate ∨ (r.get a).isLate → s.Parks (.bfi g d a pos len) r [r.get d, r.get a])) ∧
  (∀ (d a : XReg) (pos : BitVec 6) (len : BitVec 7),
    encode (.bfx ⟨0, false⟩ d a pos len) = [BitVec.ofNat 32 (0x72 * 2 ^ 21 + 65536 * d.toNat + 2048 * a.toNat),
      BitVec.ofNat 32 (256 * pos.toNat + len.toNat)] ∧
    encode (.bfi ⟨0, false⟩ d a pos len) = [BitVec.ofNat 32 (0x73 * 2 ^ 21 + 65536 * d.toNat + 2048 * a.toNat),
      BitVec.ofNat 32 (256 * pos.toNat + len.toNat)] ∧
    (bitFieldOk pos len = true ↔ 1 ≤ len.toNat ∧ len.toNat ≤ 64 ∧ pos.toNat + len.toNat ≤ 64) ∧
    (bitFieldOk pos len = false → ∀ g : Guard,
      (∃ e, decode ((encode (.bfx g d a pos len)).flatMap bytesOfWord) = .error e) ∧
      ∃ e, decode ((encode (.bfi g d a pos len)).flatMap bytesOfWord) = .error e)) ∧
  encode (.bfx ⟨0, false⟩ 4 1 8 12) = [0x0E440800, 0x0000080C]


/-! ## Predicates and scalar floating point -/

/-- R382: SEL copies the selected operand, form or value; with k = 0 it is xa; the word and the example. -/
def Obligations.Select : Prop :=
  (∀ (s : State) (r : Run) (g : Guard) (d a b : XReg) (k : PReg), s.Issues r g →
    (r.pred k = true → ¬ (r.get a).isLate ∨ s.Covers r d (r.get a) →
      s.Becomes (.sel g d a b k) ((r.write d (r.get a)).past 1)) ∧
    (r.pred k = false → ¬ (r.get b).isLate ∨ s.Covers r d (r.get b) →
      s.Becomes (.sel g d a b k) ((r.write d (r.get b)).past 1)) ∧
    (r.pred k = if k = 0 then true else r.p.getLsbD k.toNat)) ∧
  (∀ (d a b : XReg) (k : PReg), encode (.sel ⟨0, false⟩ d a b k)
    = [BitVec.ofNat 32 (0x00E00000 + 65536 * d.toNat + 2048 * a.toNat + 64 * b.toNat + 8 * k.toNat)]) ∧
  encode (.sel ⟨0, false⟩ 4 5 6 1) = [0x00E42988] ∧
  ∀ (g : Guard) (d a b : XReg) (fn : BitVec 6), fn.toNat % 8 ≠ 0 → ∃ e, decode (bytesOfWord (wordXR g 7 d a b fn)) = .error e

/-- SETP and SETPI (R383, Table 4-13): the predicate takes the comparison's truth, no flag is raised, and a form
parks; PLOG and its six operations (R372); FSETP with Table 15-7's column for a NaN operand, and the comparison of
zeros (R352). -/
def Obligations.Predicates : Prop :=
  (∀ (s : State) (r : Run) (g : Guard) (pd : PReg) (a b : XReg) (imm : BitVec 11), s.Issues r g → pd ≠ 0 →
    (∀ x y : Word, r.get a = .known x → r.get b = .known y → ∀ c : Cond,
      ∃ t, s.SetsPred (.setp g c pd a b) r pd t 0 ∧ (t = true ↔ holdsCond c x y)) ∧
    (∀ x : Word, r.get a = .known x →
      (∀ c : CondA, ∃ t, s.SetsPred (.setpiA g c pd a imm) r pd t 0 ∧
        (t = true ↔ holdsCond (match c with | .eq => .eq | .ne => .ne | .lt => .lt | .ge => .ge) x
          (BitVec.ofInt 64 imm.toInt))) ∧
      ∀ c : CondB, ∃ t, s.SetsPred (.setpiB g c pd a imm) r pd t 0 ∧
        (t = true ↔ holdsCond (match c with | .ltu => .ltu | .geu => .geu | .le => .le | .gt => .gt) x
          (BitVec.ofInt 64 imm.toInt))) ∧
    ((r.get a).isLate ∨ (r.get b).isLate → ∀ c : Cond, s.Parks (.setp g c pd a b) r [r.get a, r.get b]) ∧
    ((r.get a).isLate → (∀ c : CondA, s.Parks (.setpiA g c pd a imm) r [r.get a]) ∧
      ∀ c : CondB, s.Parks (.setpiB g c pd a imm) r [r.get a])) ∧
  (∀ (s : State) (r : Run) (g : Guard) (pd pa pb : PReg), s.Issues r g → pd ≠ 0 →
    s.SetsPred (.plog g .and pd pa pb) r pd (r.pred pa && r.pred pb) 0 ∧
    s.SetsPred (.plog g .or pd pa pb) r pd (r.pred pa || r.pred pb) 0 ∧
    s.SetsPred (.plog g .xor pd pa pb) r pd (xor (r.pred pa) (r.pred pb)) 0 ∧
    s.SetsPred (.plog g .andn pd pa pb) r pd (r.pred pa && !r.pred pb) 0 ∧
    s.SetsPred (.plog g .orn pd pa pb) r pd (r.pred pa || !r.pred pb) 0 ∧
    s.SetsPred (.plog g .not pd pa 0) r pd (!r.pred pa) 0) ∧
  (∀ (s : State) (r : Run) (g : Guard) (prec : Prec) (pd : PReg) (a b : XReg) (c : FCond), s.Issues r g → pd ≠ 0 →
    (∀ x y : Word, r.get a = .known x → r.get b = .known y →
      s.SetsPred (.fsetp g prec c pd a b) r pd (fpCompare prec.fmt c (prec.bits x) (prec.bits y)).1
        (fpCompare prec.fmt c (prec.bits x) (prec.bits y)).2) ∧
    ((r.get a).isLate ∨ (r.get b).isLate → s.Parks (.fsetp g prec c pd a b) r [r.get a, r.get b])) ∧
  (∀ (f : Fmt) (x y : Nat), (f.decode x).isNan = true ∨ (f.decode y).isNan = true →
    let iv := flagIf ((f.decode x).isSnan || (f.decode y).isSnan) fIV
    fpCompare f .eq x y = (false, iv) ∧ fpCompare f .ne x y = (true, iv) ∧ fpCompare f .lt x y = (false, fIV) ∧
    fpCompare f .le x y = (false, fIV) ∧ fpCompare f .gt x y = (false, fIV) ∧ fpCompare f .ge x y = (false, fIV) ∧
    fpCompare f .un x y = (true, iv) ∧ fpCompare f .ord x y = (false, iv)) ∧
  ∀ (f : Fmt) (x y : Nat), (f.decode x).isZero = true → (f.decode y).isZero = true →
    fpCompare f .eq x y = (true, 0) ∧ fpCompare f .lt x y = (false, 0) ∧ fpCompare f .le x y = (true, 0)

/-- FADD, FSUB, FMUL, FFMA, FDIV and FSQRT on known operands: the result of the operation at the precision and the
rounding mode, the region's for .RGN, zero-extended, with its flags raised; a form parks FDIV and FSQRT (R344, R98,
R138). FMIN, FMAX, FCLASS and FCVT, FCVT's integer results extended by their sign; how FMIN and FMAX treat NaNs and
zeros; the park on a form; and the examples of R346 and R347. -/
def Obligations.FloatingPoint : Prop :=
  (∀ (s : State) (r : Run) (g : Guard) (prec : Prec) (sat : Bool) (rnd : Rnd) (d a b : XReg), s.Issues r g →
    (∀ x y : Word, r.get a = .known x → r.get b = .known y →
      s.Becomes (.fadd g prec sat rnd d a b)
        ((r.fpResult d prec (fpAdd prec.fmt (s.rounding r rnd) sat (prec.bits x) (prec.bits y))).past 1) ∧
      s.Becomes (.fsub g prec sat rnd d a b)
        ((r.fpResult d prec (fpSub prec.fmt (s.rounding r rnd) sat (prec.bits x) (prec.bits y))).past 1) ∧
      s.Becomes (.fmul g prec sat rnd d a b)
        ((r.fpResult d prec (fpMul prec.fmt (s.rounding r rnd) sat (prec.bits x) (prec.bits y))).past 1) ∧
      s.Becomes (.fdiv g prec sat rnd d a b)
        ((r.fpResult d prec (fpDiv prec.fmt (s.rounding r rnd) sat (prec.bits x) (prec.bits y))).past 1) ∧
      s.Becomes (.fsqrt g prec sat rnd d a)
        ((r.fpResult d prec (fpSqrt prec.fmt (s.rounding r rnd) sat (prec.bits x))).past 1) ∧
      ∀ z : Word, r.get d = .known z → s.Becomes (.ffma g prec sat rnd d a b)
        ((r.fpResult d prec
          (fpFma prec.fmt (s.rounding r rnd) sat (prec.bits x) (prec.bits y) (prec.bits z))).past 1)) ∧
    ((r.get a).isLate ∨ (r.get b).isLate → s.Parks (.fdiv g prec sat rnd d a b) r [r.get a, r.get b]) ∧
    ((r.get a).isLate → s.Parks (.fsqrt g prec sat rnd d a) r [r.get a]) ∧
    s.rounding r .rgn = s.rmodeOf r.region) ∧
  (∀ (s : State) (r : Run) (g : Guard) (prec : Prec) (cv : Cvt) (sat : Bool) (rnd : Rnd) (d a b : XReg), s.Issues r g →
    (∀ x y : Word, r.get a = .known x → r.get b = .known y →
      s.Becomes (.fmin g prec d a b) ((r.fpResult d prec (fpMinMax prec.fmt false (prec.bits x) (prec.bits y))).past 1) ∧
      s.Becomes (.fmax g prec d a b) ((r.fpResult d prec (fpMinMax prec.fmt true (prec.bits x) (prec.bits y))).past 1) ∧
      s.Writes (.fclass g prec d a) r d (fpClass prec.fmt (prec.bits x)) 1 ∧
      s.Becomes (.fcvt g cv sat rnd d a)
        (({ r.write d (.known (cv.types.1.toReg (convert cv.types.1 cv.types.2 (s.rounding r rnd) sat x.toNat).1)) with
            fpst := r.fpst ||| (convert cv.types.1 cv.types.2 (s.rounding r rnd) sat x.toNat).2 } : Run).past 1)) ∧
    ((r.get a).isLate ∨ (r.get b).isLate → s.Parks (.fmin g prec d a b) r [r.get a, r.get b] ∧
      s.Parks (.fmax g prec d a b) r [r.get a, r.get b]) ∧
    ((r.get a).isLate → s.Parks (.fclass g prec d a) r [r.get a] ∧ s.Parks (.fcvt g cv sat rnd d a) r [r.get a])) ∧
  (∀ (f : Fmt) (m : Bool) (x y : Nat), (f.decode x).isNan = true →
    (fpMinMax f m x y).1 = (if (f.decode y).isNan = true then f.nanCode else y) ∧
    (fpMinMax f m y x).1 = (if (f.decode y).isNan = true then f.nanCode else y) ∧
    (fpMinMax f m x y).2 = flagIf ((f.decode x).isSnan || (f.decode y).isSnan) fIV) ∧
  (∀ f : Fmt, fpMinMax f false 0 f.signBit = (f.signBit, 0) ∧ fpMinMax f true f.signBit 0 = (0, 0)) ∧
  fpClass .f32 0xC0400000 = 0x0000000100000D02 ∧ fpClass .f32 1 = 0xFFFFFF6B00000201 ∧
  convert (.fp .bf16) (.fp .f32) .rne false 0x3EAAAAAB = (0x3EAB, fIX)

/-- What R132, R138 and R344 say of NaNs, zeros, infinities and SAT, for FP32 and FP64: a NaN operand gives the default
NaN, and a signalling one raises IV; 0 × ∞ and ∞ − ∞ give it with IV; and the zeros of sums, the quotients by zero and
the square roots of zero and below. -/
def Obligations.FpSpecialCases : Prop :=
  ∀ (f : Fmt), f = .f32 ∨ f = .f64 → ∀ (rm : RMode) (sat : Bool) (x y z : Nat),
    let X := f.decode x
    let Y := f.decode y
    let Z := f.decode z
    let signals : BitVec 8 := if X.isSnan = true ∨ Y.isSnan = true then fIV else 0
    (X.isNan = true ∨ Y.isNan = true →
      fpAdd f rm sat x y = (f.nanCode, signals) ∧ fpSub f rm sat x y = (f.nanCode, signals) ∧
      fpMul f rm sat x y = (f.nanCode, signals) ∧ fpDiv f rm sat x y = (f.nanCode, signals)) ∧
    (X.isNan = true ∨ Y.isNan = true ∨ Z.isNan = true → (fpFma f rm sat x y z).1 = f.nanCode ∧
      (X.isSnan = true ∨ Y.isSnan = true ∨ Z.isSnan = true → (fpFma f rm sat x y z).2 = fIV)) ∧
    (X.isNan = true → fpSqrt f rm sat x = (f.nanCode, if X.isSnan = true then fIV else 0)) ∧
    ((X.isZero = true ∧ Y.isInf = true) ∨ (X.isInf = true ∧ Y.isZero = true) →
      fpMul f rm sat x y = (f.nanCode, fIV) ∧ (Z.isNan = false → fpFma f rm sat x y z = (f.nanCode, fIV))) ∧
    (X.isInf = true → Y.isInf = true →
      (X.neg ≠ Y.neg → fpAdd f rm sat x y = (f.nanCode, fIV)) ∧ (X.neg = Y.neg → fpSub f rm sat x y = (f.nanCode, fIV))) ∧
    ((X.isInf = true ∧ Y.isNan = false ∧ Y.isZero = false) ∨ (Y.isInf = true ∧ X.isNan = false ∧ X.isZero = false) →
      Z.isInf = true → Z.neg ≠ xor X.neg Y.neg → fpFma f rm sat x y z = (f.nanCode, fIV)) ∧
    fpAdd f rm sat 0 0 = (0, 0) ∧ fpAdd f rm sat f.signBit f.signBit = (f.signBit, 0) ∧
    fpAdd f rm sat 0 f.signBit = (if rm = .rdn then f.signBit else 0, 0) ∧
    (X.isFinite = true → X.isZero = false → fpSub f rm sat x x = (if rm = .rdn then f.signBit else 0, 0)) ∧
    (X.isFinite = true → X.isZero = false →
      fpDiv f rm false x 0 = (f.code X.neg (f.infCode.getD 0), fDZ) ∧
      fpDiv f rm true x 0 = (f.code X.neg f.maxCode, fDZ ||| fSA)) ∧
    fpDiv f rm sat 0 0 = (f.nanCode, fIV) ∧
    (X.isInf = true → Y.isInf = true → fpDiv f rm sat x y = (f.nanCode, fIV)) ∧
    fpSqrt f rm sat f.signBit = (f.signBit, fDZ) ∧
    (X.isFinite = true → X.isZero = false → X.neg = true → fpSqrt f rm sat x = (f.nanCode, fIV))

/-- R69: a step recorded on a chain of fewer than four holds the operation, the precision, SAT, the rounding mode with
the region's for .RGN, the position and the known operands, and the destination's chain is the source's with it
appended; a source with four steps parks. -/
def Obligations.Recording : Prop :=
  ∀ (s : State) (r : Run) (g : Guard) (prec : Prec) (sat : Bool) (rnd : Rnd) (d a b : XReg) (i : Nat)
    (st : List ChainStep) (k l : Word), s.Issues r g →
    (r.get a).asChain = some (i, st) → r.get b = .known k →
    let records (ins : Instr) (op : ChainOp) (pos : Nat) (k1 k2 : Word) : Prop :=
      ∃ x : ChainStep, (x.op = op ∧ x.dbl = (prec == .d) ∧ x.sat = sat ∧ x.rm = s.rounding r rnd ∧ x.pos = pos ∧
        x.k1 = k1 ∧ x.k2 = k2) ∧ s.Becomes ins ((r.write d (.chain i (st ++ [x]))).past 1)
    (st.length < 4 → (∀ v : RVal, s.Covers r d v) →
      records (.fadd g prec sat rnd d a b) .add 0 k 0 ∧ records (.fadd g prec sat rnd d b a) .add 1 k 0 ∧
      records (.fsub g prec sat rnd d a b) .sub 0 k 0 ∧ records (.fsub g prec sat rnd d b a) .sub 1 k 0 ∧
      records (.fmul g prec sat rnd d a b) .mul 0 k 0 ∧ records (.fmul g prec sat rnd d b a) .mul 1 k 0 ∧
      (r.get d = .known l →
        records (.ffma g prec sat rnd d a b) .fma 0 k l ∧ records (.ffma g prec sat rnd d b a) .fma 1 k l) ∧
      (a = d → ∀ c : XReg, r.get c = .known l → records (.ffma g prec sat rnd d b c) .fma 2 k l)) ∧
    (4 ≤ st.length →
      s.Parks (.fadd g prec sat rnd d a b) r [r.get a] ∧ s.Parks (.fadd g prec sat rnd d b a) r [r.get a] ∧
      s.Parks (.fsub g prec sat rnd d a b) r [r.get a] ∧ s.Parks (.fsub g prec sat rnd d b a) r [r.get a] ∧
      s.Parks (.fmul g prec sat rnd d a b) r [r.get a] ∧ s.Parks (.fmul g prec sat rnd d b a) r [r.get a] ∧
      (r.get d = .known l → s.Parks (.ffma g prec sat rnd d a b) r [r.get a] ∧
        s.Parks (.ffma g prec sat rnd d b a) r [r.get a]) ∧
      (a = d → ∀ c : XReg, r.get c = .known l → s.Parks (.ffma g prec sat rnd d b c) r [r.get a]))


/-! ## Control flow -/

/-- B and CALL (R92, R337): to an instruction of the current block, to another block's header, and to a target the
entry checks refuse; CALL leaves the code pointer of the next word in x29 unless the entry faults. A target in a page
that is being zeroed leaves the threadlet where it stands (R205). Each leaves the state as it was, but for its
reading of code, whose lines stay in the instruction caches (R198) and whose reads touch and apply lines at their home
slices (R199, R252). The model's own choices and inferences: log entries 31, 35 and 84. -/
def Obligations.Branches : Prop :=
  (∀ (s : State) (asid va i : Nat), s.SameButCode (s.readEntry s.cur asid va i)) ∧
  ∀ (s : State) (r : Run) (g : Guard) (off : BitVec 21), s.Issues r g → r.block + 2 ^ 24 < 2 ^ 64 → r.len < 128 →
    let link : Word := codePointer r.block (r.idx + 1)
    (∀ k : Nat, (r.idx : Int) + off.toInt = k → k ≤ r.len →
      let t := s.readEntry s.cur (s.asid r.region) r.block k
      (t.secondWord r r.block k = false →
        s.BecomesIn t (.br g off) (r.jump k) ∧ s.BecomesIn t (.call g off) ((r.jump k).write 29 (.known link))) ∧
      (t.secondWord r r.block k = true →
        s.FaultsIn t (.br g off) r 0x01 0 0 ∧ s.FaultsIn t (.call g off) r 0x01 0 0)) ∧
    (∀ target : Nat, target < 2 ^ 64 → (r.block : Int) + 16 + 4 * ((r.idx : Int) + off.toInt) = target →
      (target < r.block + 16 ∨ r.block + 16 + 4 * r.len < target) →
      let t := s.readEntry s.cur (s.asid r.region) target 0
      (∀ h : Header, t.checkEntry s.cur r.region (s.runWords r) target = .ok h →
        s.BecomesIn t (.br g off) (r.enter h target 0) ∧
        s.BecomesIn t (.call g off) ((r.enter h target 0).write 29 (.known link))) ∧
      (∀ code : Nat, code ≠ 0x12 → t.checkEntry s.cur r.region (s.runWords r) target = .error (.fault code) →
        s.FaultsIn t (.br g off) r code target 0 ∧ s.FaultsIn t (.call g off) r code target 0) ∧
      ∀ z : Option Zeroing, t.checkEntry s.cur r.region (s.runWords r) target = .error (.page z) →
        exec (.br g off) s = .next (t.awaitPage z) ∧ exec (.call g off) s = .next (t.awaitPage z))

/-- JR and RET (R93, R359, Table 4-2): a pointer into the current block goes on at its index with no header check, any
other enters its block there after the entry checks, with their faults, or waits for a page that is being zeroed
(R205); one with reserved bits, an index beyond LEN or one that names the second word of a long form is illegal, and a
form parks. The lines of code read stay in the instruction caches (R198). The model's own choices and inferences: log
entries 31, 35 and 84. -/
def Obligations.PointerJumps : Prop :=
  ∀ (s : State) (r : Run) (g : Guard) (a : XReg), s.Issues r g →
    (∀ b i : Nat, b % 16 = 0 → b < 2 ^ 52 → i < 256 →
      let p : Word := BitVec.ofNat 64 (b / 16 * 2 ^ 12 + i)
      let t := s.readEntry s.cur (s.asid r.region) b i
      let goes (r' : Run) : Prop :=
        (r.get a = .known p → s.BecomesIn t (.jr g a) r') ∧ (r.get 29 = .known p → s.BecomesIn t (.ret g) r')
      let faults (code addr : Nat) : Prop :=
        (r.get a = .known p → s.FaultsIn t (.jr g a) r code addr 0) ∧
        (r.get 29 = .known p → s.FaultsIn t (.ret g) r code addr 0)
      (b = r.block →
        (i ≤ r.len → t.secondWord r b i = false → goes (r.jump i)) ∧
        (i ≤ r.len → t.secondWord r b i = true → faults 0x01 0) ∧ (r.len < i → faults 0x01 0)) ∧
      (b ≠ r.block →
        (∀ h : Header, t.checkEntry s.cur r.region (s.runWords r) b = .ok h →
          (i ≤ h.len → t.secondWord r b i = false → goes (r.enter h b i)) ∧
          (i ≤ h.len → t.secondWord r b i = true → faults 0x01 b) ∧ (h.len < i → faults 0x01 b)) ∧
        (∀ code : Nat, code ≠ 0x12 → t.checkEntry s.cur r.region (s.runWords r) b = .error (.fault code) →
          faults code b) ∧
        ∀ z : Option Zeroing, t.checkEntry s.cur r.region (s.runWords r) b = .error (.page z) →
          (r.get a = .known p → exec (.jr g a) s = .next (t.awaitPage z)) ∧
          (r.get 29 = .known p → exec (.ret g) s = .next (t.awaitPage z)))) ∧
    (∀ q : Word, q.extractLsb' 60 4 ≠ 0 ∨ q.extractLsb' 8 4 ≠ 0 →
      (r.get a = .known q → s.Faults (.jr g a) r 0x01 0 0) ∧ (r.get 29 = .known q → s.Faults (.ret g) r 0x01 0 0)) ∧
    ((r.get a).isLate → s.Parks (.jr g a) r [r.get a]) ∧ ((r.get 29).isLate → s.Parks (.ret g) r [r.get 29])

/-- REP (R376): its count, its nesting and its body's limits, and what the end of the body does. The model's own choices and
inferences: log entry 59. -/
def Obligations.Repeat : Prop :=
  (∀ (s : State) (r : Run) (g : Guard) (a : XReg) (n : BitVec 7), s.Issues r g → repBodyOk n s r = .ok () →
    (r.rep = none → ∀ c : Word, r.get a = .known c →
      (c = 0 → s.Becomes (.rep g a n) { r with idx := r.idx + 1 + n.toNat, bpSkip := 0 }) ∧
      (c ≠ 0 → c.toNat < 2 ^ 24 → s.Becomes (.rep g a n)
        { r with idx := r.idx + 1, bpSkip := 0, rep := some ⟨r.idx + 1, n.toNat, c.toNat, 0⟩ }) ∧
      (2 ^ 24 ≤ c.toNat → s.Faults (.rep g a n) r 0x07 0 0)) ∧
    (r.rep ≠ none → s.Faults (.rep g a n) r 0x01 0 0) ∧
    (r.rep = none → (r.get a).isLate → s.Parks (.rep g a n) r [r.get a])) ∧
  (∀ (s : State) (r : Run) (g : Guard) (a : XReg) (n : BitVec 7), (s.core s.cur).run = some r →
    r.len < r.idx + n.toNat → s.Faults (.rep g a n) r 0x01 0 0) ∧
  ∀ (r : Run) (p : Rep) (n : Nat), r.rep = some p → r.idx + n = p.start + p.nw →
    (p.iter + 1 < p.count → (r.past n).idx = p.start ∧ (r.past n).rep = some { p with iter := p.iter + 1 }) ∧
    (p.count ≤ p.iter + 1 → (r.past n).idx = p.start + p.nw ∧ (r.past n).rep = none)

/-- FIN (R351): no threadlet runs, the frame stays allocated as it was with its bytes, unless the issuer had freed it;
in that case it is released, and one that another threadlet has freed is not (R46). The model's own choices and
inferences: log entry 60. -/
def Obligations.Finish : Prop :=
  ∀ (s : State) (r : Run) (g : Guard) (f : Frame), s.Issues r g → (s.core s.cur).frame r.fid = some f →
    ∃ t, exec (.fin g) s = .next t ∧ (t.core s.cur).run = none ∧ s.SameBytes t ∧
      (r.tid ∉ f.ownFree → (t.core s.cur).frame r.fid = some f) ∧
      (r.tid ∈ f.ownFree → SMap.Rising (s.core s.cur).frames → (t.core s.cur).frame r.fid = none)

/-- PARK (R371, Table 16-1): the threadlet parks with cause 2 at the next instruction, its wait given by KIND and
WHEN; a condition outside the table is a format fault, a form parks with cause 0, and a block without a park area
faults. The model's own choices and inferences: log entry 58. -/
def Obligations.ParkInstruction : Prop :=
  ∀ (s : State) (r : Run) (g : Guard) (a : XReg), s.Issues r g →
    (∀ (w : Word) (wait : Wait), r.get a = .known w → 4 ≤ r.parkw →
      ((w = 0 ∧ wait = .atOnce) ∨ (∃ t < 2 ^ 48, w = BitVec.ofNat 64 (2 ^ 62 + t) ∧ wait = .time t) ∨
        (w = BitVec.ofNat 64 (2 * 2 ^ 62) ∧ wait = .acks)) →
      Memory.wf (s.core s.cur).lmem = true → ∀ f, (s.core s.cur).frame r.fid = some f →
      ∃ t f' p, exec (.park g a) s = .next t ∧ (t.core s.cur).run = none ∧ (t.core s.cur).frame r.fid = some f' ∧
        f'.parked = some p ∧ p.cause = 2 ∧ p.wait = wait ∧ p.tid = r.tid ∧ p.hold = none ∧
        Cells.read (t.core s.cur).lmem (f.base + 8 * r.parkw) 8
          = bytesOf 8 (2 * 2 ^ 60 + s.blockField r.region r.block * 2 ^ 32 + (r.past 1).idx % 256)) ∧
    (∀ w : Word, r.get a = .known w →
      (w.extractLsb' 48 14 ≠ 0 ∨ w.extractLsb' 62 2 = 3 ∨ (w.extractLsb' 62 2 ≠ 1 ∧ w.extractLsb' 0 48 ≠ 0)) →
      s.Faults (.park g a) r 0x07 0 0) ∧
    ((r.get a).isLate → s.Parks (.park g a) r [r.get a]) ∧
    (∀ (n cause : Nat) (wait : Wait), r.parkw = 0 →
      s.park s.cur r n cause wait = s.takeFault s.cur { r with bpSkip := 0 } r.origin 0 0x0B 0 0)

/-- R314 and R370: BRK, TRAP and SVC make the threadlet Held after the instruction, with their codes and DETAIL; BRK
outside DEBUG 3 and 4 acts as NOP. NOP's word, and that it changes nothing but the place in the block. -/
def Obligations.SoftwareTrapsAndNop : Prop :=
  (∀ (s : State) (r : Run) (g : Guard) (code : BitVec 15), s.Issues r g →
    (s.debugOf r.region = 3 ∨ s.debugOf r.region = 4 → exec (.brk g code) s
      = .next (s.takeFault s.cur (r.past 1) r.origin 0 0x12 0 (BitVec.ofNat 64 code.toNat))) ∧
    (s.debugOf r.region ≠ 3 → s.debugOf r.region ≠ 4 → s.Becomes (.brk g code) (r.past 1)) ∧
    exec (.trap g code) s = .next (s.takeFault s.cur (r.past 1) r.origin 0 0x13 0 (BitVec.ofNat 64 code.toNat)) ∧
    exec (.svc g code) s = .next (s.takeFault s.cur (r.past 1) r.origin 0 0x16 0 (BitVec.ofNat 64 code.toNat))) ∧
  (∀ (s : State) (r : Run) (g : Guard), s.Issues r g → s.Becomes (.nop g) (r.past 1)) ∧
  encode (.nop ⟨0, false⟩) = [0x04800002] ∧ decode (bytesOfWord 0) = .error .allZeroWord ∧
  (∀ (g : Guard) (c : BitVec 15), c ≠ 0 → ∃ e, decode (bytesOfWord (wordCode g 2 c)) = .error e)

/-! ## Frames, slots, signals and messages -/

/-- FALLOC (R345, R40, R42, R43): with an arena slot, an identifier, room under FQUOTA and a free run, the frame is
Resident there, of the threadlet's region, zero but for its header, and the destination holds its handle; without the
room or the run it is allocated all the same, a frame that R42 chooses is spilled for it where there is one, and no
byte of memory changes as yet; without an arena slot or an identifier it faults. Which free arena slot is taken is the
model's choice (log entry 65). The model's own choices and inferences: log entries 34 and 65. -/
def Obligations.AllocateFrame : Prop :=
  (∀ (s : State) (r : Run) (g : Guard) (d : XReg) (cls : BitVec 3) (rg : Region) (arena fid : Nat), s.Issues r g →
    Memory.wf (s.core s.cur).lmem = true → fid < 65536 → s.region r.region = some rg → s.arenaSlot s.cur rg = some arena →
    (s.core s.cur).freeFid = some fid →
    ∃ t f, exec (.falloc g d cls) s = .next t ∧
      (t.core s.cur).run = some ((r.write d (.known (BitVec.ofNat 64 (fid * 4096)))).past 1) ∧
      (t.core s.cur).frame fid = some f ∧ f.cls = cls.toNat ∧ f.region = r.region ∧
      f.arena = arena ∧ f.parked = none ∧ (t.core s.cur).fptr = (fid + 1) % 65536 ∧ t.mem = s.mem ∧
      (∀ base : Nat, (s.core s.cur).residentOf r.region < rg.fquota → s.freeRun s.cur cls.toNat = some base →
        f.st = .resident ∧ f.base = base ∧
        Cells.read (t.core s.cur).lmem base 32 = bytesOfWords (headerWords fid cls.toNat r.region 0) ∧
        (∀ a, base + 32 ≤ a → a < base + 256 * 2 ^ cls.toNat → Cells.get (t.core s.cur).lmem a = 0) ∧
        ∀ a, a < base ∨ base + 256 * 2 ^ cls.toNat ≤ a →
          Cells.get (t.core s.cur).lmem a = Cells.get (s.core s.cur).lmem a) ∧
      (rg.fquota ≤ (s.core s.cur).residentOf r.region ∨ s.freeRun s.cur cls.toNat = none →
        f.st ≠ .resident ∧ f.zero = true ∧ s.SameBytes t ∧
        ∀ v x, s.victim s.cur r.region cls.toNat (decide (rg.fquota ≤ (s.core s.cur).residentOf r.region)) = some v →
          SMap.Rising (s.core s.cur).frames → (s.core s.cur).frame v = some x →
          ∃ x' bad, (t.core s.cur).frame v = some x' ∧ x'.st = .spilled ∧
            x'.snap = some (Cells.read (s.core s.cur).lmem x.base x.bytes, bad))) ∧
  ∀ (s : State) (r : Run) (g : Guard) (d : XReg) (cls : BitVec 3) (rg : Region), s.Issues r g →
    s.region r.region = some rg → (s.arenaSlot s.cur rg = none ∨ (s.core s.cur).freeFid = none) →
    s.Faults (.falloc g d cls) r 0x0A 0 0

/-- FFREE (R46, R350): the issuer's own frame is marked for its FIN, a frame with split-phase results to come is
marked, any other is released; a frame with a Ready entry or a Parked or Held threadlet, a handle with nonzero reserved
bits, of no frame, or of another region's, is a bad reference, and a form parks. The model's own choices and inferences:
log entry 60. -/
def Obligations.FreeFrame : Prop :=
  ∀ (s : State) (r : Run) (g : Guard) (a : XReg), s.Issues r g →
    (∀ (fid : Nat) (f : Frame), fid < 65536 → r.get a = .known (BitVec.ofNat 64 (fid * 4096)) →
      (s.core s.cur).frame fid = some f → f.region = r.region →
      (s.frameBusy s.cur fid f = false →
        (fid = r.fid → ∃ t, exec (.ffree g a) s = .next t ∧ (t.core s.cur).run = some (r.past 1) ∧
          (t.core s.cur).frame fid = some { f with ownFree := insertNat f.ownFree r.tid }) ∧
        (fid ≠ r.fid → (s.core s.cur).splitPhase s.fstore fid = true → ∃ t, exec (.ffree g a) s = .next t ∧
          (t.core s.cur).run = some (r.past 1) ∧ (t.core s.cur).frame fid = some { f with freeing := true }) ∧
        (fid ≠ r.fid → (s.core s.cur).splitPhase s.fstore fid = false → SMap.Rising (s.core s.cur).frames →
          ∃ t, exec (.ffree g a) s = .next t ∧ (t.core s.cur).run = some (r.past 1) ∧ (t.core s.cur).frame fid = none ∧
            s.SameBytes t)) ∧
      (s.frameBusy s.cur fid f = true → s.Faults (.ffree g a) r 0x09 0 0) ∧
      (f.parked ≠ none ∨ (∃ e ∈ (s.core s.cur).ready, e.fid = fid) → s.frameBusy s.cur fid f = true)) ∧
    (∀ fid : Nat, fid < 65536 → r.get a = .known (BitVec.ofNat 64 (fid * 4096)) →
      ((s.core s.cur).frame fid = none ∨ ∃ f, (s.core s.cur).frame fid = some f ∧ f.region ≠ r.region) →
      s.Faults (.ffree g a) r 0x09 0 0) ∧
    (∀ w : Word, r.get a = .known w → w.extractLsb' 28 36 ≠ 0 → s.Faults (.ffree g a) r 0x09 0 0) ∧
    ((r.get a).isLate → s.Parks (.ffree g a) r [r.get a])

/-- SLOTI and SLOTR (R387, R388, R389). On a slot of a Resident frame of the region SLOTI writes ENTRY, PCLS and COUNT,
sets ARMED and clears ERR, and with a count of zero it fires: the slot is not armed and its ready entry stands at the
end of the queue, or the threadlet parks with cause 1 where intake is stopped or there is no room (R64); no other byte
of memory changes. SLOTR reads the slot word, its reserved bits as zero. A handle with nonzero reserved bits, of no
frame, of another region's, which SLOTR admits with PRIV = 1, or with a SLOT that the frame does not have is a bad
reference, a new word with nonzero reserved bits a format fault, and a form parks. For a frame that is not Resident,
SLOTI joins the refill queue, or parks with cause 1 where it is full, and SLOTR parks with cause 1. The model's own
choices and inferences: log entry 11. -/
def Obligations.SlotWords : Prop :=
  ∀ (s : State) (r : Run) (g : Guard) (d a b : XReg), s.Issues r g →
    (∀ (fid slot : Nat) (f : Frame), fid < 65536 → slot < 4096 →
      r.get a = .known (BitVec.ofNat 64 (fid * 4096 + slot)) → (s.core s.cur).frame fid = some f →
      (4 ≤ slot → slot < frameWords f.cls → f.region = r.region → Memory.wf (s.core s.cur).lmem = true →
        (∀ entry pcls count : Nat, entry < 2 ^ 28 → pcls < 4 → count < 2 ^ 24 → ∀ err armed : Bool,
          r.get b = .known (Slot.word ⟨entry, pcls, err, armed, count⟩) →
          let sets (t : State) (x : Slot) : Prop :=
            exec (.sloti g a b) s = .next t ∧ (t.core s.cur).run = some (r.past 1) ∧
            (t.core s.cur).word (f.base + 8 * slot) = x.word ∧ t.mem = s.mem ∧
            ∀ y, (y < f.base + 8 * slot ∨ f.base + 8 * slot + 8 ≤ y) →
              Cells.get (t.core s.cur).lmem y = Cells.get (s.core s.cur).lmem y
          (f.st = .resident →
            (count ≠ 0 → ∃ t, sets t ⟨entry, pcls, false, true, count⟩) ∧
            (count = 0 → s.intakeStopped s.cur = false → (s.core s.cur).ready.length < 1024 →
              ∃ t, sets t ⟨entry, pcls, false, false, 0⟩ ∧ (t.core s.cur).ready = (s.core s.cur).ready ++
                [⟨fid, slot, r.region, s.levelOf r.region pcls, s.levelOf r.region pcls, s.time, false⟩]) ∧
            (count = 0 → s.intakeStopped s.cur = true ∨ s.canPush s.cur r.region = false →
              exec (.sloti g a b) s = .next (s.park s.cur r 0 1 (.intake r.region)))) ∧
          (f.st ≠ .resident →
            ((s.core s.cur).refq.length < 32 → ∃ t, exec (.sloti g a b) s = .next t ∧
              (t.core s.cur).run = some (r.past 1) ∧ s.SameBytes t ∧ (t.core s.cur).refq = (s.core s.cur).refq ++
                [{ fid := fid, slot := slot, dec := 0, data := .none, err := false, region := r.region,
                   sloti := some (Slot.word ⟨entry, pcls, err, armed, count⟩) }]) ∧
            (32 ≤ (s.core s.cur).refq.length →
              exec (.sloti g a b) s = .next (s.park s.cur r 0 1 (.refillSpace fid))))) ∧
        ∀ w : Word, r.get b = .known w → w.extractLsb' 60 4 ≠ 0 ∨ w.extractLsb' 28 4 ≠ 0 →
          s.Faults (.sloti g a b) r 0x07 0 0) ∧
      (4 ≤ slot → slot < frameWords f.cls → f.region = r.region ∨ r.priv = true →
        (f.st = .resident → (∀ x ∈ (s.core s.cur).refq, x.fid ≠ fid) → ∃ v : Word, s.Writes (.slotr g d a) r d v 1 ∧
          ∀ i, v.getLsbD i
            = (((s.core s.cur).word (f.base + 8 * slot)).getLsbD i && decide (i < 60 ∧ ¬ (28 ≤ i ∧ i < 32)))) ∧
        (f.st ≠ .resident ∨ (∃ x ∈ (s.core s.cur).refq, x.fid = fid) →
          exec (.slotr g d a) s = .next (s.park s.cur r 0 1 (.refill fid)))) ∧
      (slot < 4 ∨ frameWords f.cls ≤ slot →
        s.Faults (.sloti g a b) r 0x09 0 0 ∧ s.Faults (.slotr g d a) r 0x09 0 0) ∧
      (f.region ≠ r.region →
        s.Faults (.sloti g a b) r 0x09 0 0 ∧ (r.priv = false → s.Faults (.slotr g d a) r 0x09 0 0)) ∧
      (4 ≤ slot → slot < frameWords f.cls → f.region = r.region → (r.get b).isLate →
        s.Parks (.sloti g a b) r [r.get a, r.get b])) ∧
    (∀ w : Word, r.get a = .known w →
      (w.extractLsb' 28 36 ≠ 0 ∨ (s.core s.cur).frame (w.extractLsb' 12 16).toNat = none) →
      s.Faults (.sloti g a b) r 0x09 0 0 ∧ s.Faults (.slotr g d a) r 0x09 0 0) ∧
    ((r.get a).isLate →
      s.Parks (.slotr g d a) r [r.get a] ∧ ((r.get b).isLate → s.Parks (.sloti g a b) r [r.get a, r.get b]) ∧
      ∀ w : Word, r.get b = .known w → w.extractLsb' 60 4 = 0 → w.extractLsb' 28 4 = 0 →
        s.Parks (.sloti g a b) r [r.get a, r.get b])

/-- R390: SREF forms the reference of a slot of this core, the slot index offset modulo 4,096; reserved bits in the
handle are a bad reference; a form parks; the word; and the example. -/
def Obligations.SlotReference : Prop :=
  (∀ (s : State) (r : Run) (g : Guard) (d a : XReg) (imm : BitVec 11), s.Issues r g →
    (∀ fid slot : Nat, fid < 65536 → slot < 4096 → r.get a = .known (BitVec.ofNat 64 (fid * 4096 + slot)) →
      s.cur < 2048 → s.brielo.number < 256 →
      ∃ v : Word, s.Writes (.sref g d a imm) r d v 1 ∧ Ref.of v =
        { t := false, module := s.brielo.number, x := (coreNode s.cur).1, y := (coreNode s.cur).2.1,
          c := (coreNode s.cur).2.2, fid := fid, slot := (((slot : Int) + imm.toInt) % 4096).toNat, low := 0 }) ∧
    (∀ w : Word, r.get a = .known w → w.extractLsb' 28 36 ≠ 0 → s.Faults (.sref g d a imm) r 0x09 0 0) ∧
    ((r.get a).isLate → s.Parks (.sref g d a imm) r [r.get a])) ∧
  (∀ (d a : XReg) (imm : BitVec 11),
    encode (.sref ⟨0, false⟩ d a imm) = [BitVec.ofNat 32 (0x05600000 + 65536 * d.toNat + 2048 * a.toNat + imm.toNat)]) ∧
  encode (.sref ⟨0, false⟩ 9 30 2) = [0x0569F002] ∧
  coreNode (coreNumber 2 1 0) = (2, 1, 0) ∧ refWord 0 (coreNumber 2 1 0) 0x123 6 = 0x0008200918030000

/-- SIG, SIGD and SIGV to a good reference (R385, R386): a relaxed signal leaves at once as one packet with decrement
1 and its data words; a release whose condition holds does too, and one whose condition does not hold yet leaves as a
barrier, with room in the order stage where it stands behind another (R221); a bad reference faults. The model's own
choices and inferences: log entry 16. -/
def Obligations.Signals : Prop :=
  ∀ (s : State) (r : Run) (g : Guard) (n : Bool) (a b : XReg) (vb : VReg) (dw : BitVec 5) (ref w : Word), s.Issues r g →
    r.get a = .known ref → r.get b = .known w →
    let data : List (Bool → Instr × SigData) :=
      [fun rel => (.sig g rel n a, .none), fun rel => (.sigd g rel n a b dw, .words dw.toNat [w]),
       fun rel => (.sigv g rel n a vb dw, .words dw.toNat (wordsOfBytes 8 (bytesOf 64 (r.vec vb).toNat)))]
    ∀ x ∈ data,
      (s.refOk ref = true → s.Reaches (s.refAgent (Ref.of ref)) → s.MayIssue r →
        s.Sends (x false).1 r .sig (s.refAgent (Ref.of ref)) (.signal ref 1 (x false).2 false false)) ∧
      (s.refOk ref = true → s.Reaches (s.refAgent (Ref.of ref)) → (s.core s.cur).acqPending r.tid = [] →
        s.effectsResolved r = .ok () →
        ((s.core s.cur).barrierMet ⟨(s.core s.cur).nextSeq, r.origin,
            .release (s.opOf r (.signal ref 1 (x true).2 true false)), []⟩ = true →
          s.Sends (x true).1 r .sig (s.refAgent (Ref.of ref)) (.signal ref 1 (x true).2 true false)) ∧
        ((s.core s.cur).barrierMet ⟨(s.core s.cur).nextSeq, r.origin,
            .release (s.opOf r (.signal ref 1 (x true).2 true false)), []⟩ = false → s.stageRoom r = .ok () →
          (s.core s.cur).comb = [] → exec (x true).1 s = .next (s.setCore s.cur { s.issued r 1 with
            barriers := (s.core s.cur).barriers ++ [⟨(s.core s.cur).nextSeq, r.origin,
              .release (s.opOf r (.signal ref 1 (x true).2 true false)), []⟩] }))) ∧
      (s.refOk ref = false → ∀ rel, s.Faults (x rel).1 r 0x09 0 0)

/-- Null signals (R96, R73): under a false guard with N = 1, a reference of x0 sends nothing, and any good known
reference gets the signal of its decrement, 1 or in byte mode the bytes that the operation would have moved; SIG, SIGD
and SIGV with REL = 1 send it as a release, at once where its condition holds and as a barrier where it does not. A
bad known reference faults, and a late one makes the signal a deferred effect. Which pool
entry is taken is the model's choice (log entry 65). The model's own choices and inferences: log entries 12 and 65. -/
def Obligations.NullSignals : Prop :=
  ∀ (s : State) (r : Run) (g : Guard) (b y xg : XReg) (vb : VReg) (dw : BitVec 5) (len cnt rows : Word) (fn : CopyFn)
    (gf : GthrFn) (lu byt t sc sat rel : Bool) (evp : Evp) (sz : Size) (ss acc : BitVec 2) (qa qb : BitVec 3) (val : MmgVal)
    (act : MmgAct) (rnd : Rnd) (tag : Tag), (s.core s.cur).run = some r → r.holds g = false →
    r.reg (xg.toNat + 1) = .known cnt → r.reg (xg.toNat + 2) = .known len → r.reg (xg.toNat + 3) = .known rows →
    let c := s.core s.cur
    ∀ p ∈ ([(.sig g rel true y, 1, rel), (.sigd g rel true y b dw, 1, rel), (.sigv g rel true y vb dw, 1, rel),
      (.gld g lu evp sz byt true xg y, if byt then sz.bytes else 1, false),
      (.cpy g { fn with n := true } xg y, if fn.byt then len.toNat else 1, false),
      (.cpy2 g { fn with n := true } xg y, if fn.byt then len.toNat * rows.toNat else 1, false),
      (.cpym g byt true xg y, if byt then len.toNat else 1, false),
      (.gthr g { gf with n := true } xg y, if gf.byt then cnt.toNat * rows.toNat else 1, false),
      (.mma g true t qb qa acc xg y, 1, false), (.mmas g ss true qb qa acc xg y, 1, false),
      (.mmg g val act true xg y, 1, false), (.accld g true acc xg y, 1, false),
      (.accst g true sc sat rnd tag acc xg y, 1, false)] : List (Instr × Nat × Bool)),
      (y = 0 → s.Becomes p.1 (r.past 1)) ∧
      (y ≠ 0 → ∀ ref : Word, r.get y = .known ref →
        (s.refOk ref = false → s.Faults p.1 r 0x09 0 0) ∧
        (s.refOk ref = true → s.Reaches (s.refAgent (Ref.of ref)) → c.acqPending r.tid = [] →
          let body : OpBody := .signal ref p.2.1 .none p.2.2 false
          let barrier : Barrier := ⟨c.nextSeq, r.origin, .release (s.opOf r body), []⟩
          let sends : Prop := s.Sends p.1 r .sig (s.refAgent (Ref.of ref)) (.signal ref p.2.1 .none p.2.2 false)
          (p.2.2 = false → c.mustWait r.tid c.nextSeq = false → sends) ∧
          (p.2.2 = true → s.effectsResolved r = .ok () →
            (c.barrierMet barrier = true → sends) ∧
            (c.barrierMet barrier = false → s.stageRoom r = .ok () → c.comb = [] → exec p.1 s = .next (s.setCore s.cur
              { s.issued r 1 with barriers := c.barriers ++ [barrier] }))))) ∧
      ∀ (i k : Nat) (u v : Word), r.get y = .form i u v → c.acqPending r.tid = [] →
        (p.2.2 = true → s.effectsResolved r = .ok ()) → s.supply r 0 1 = .ok () → SMap.firstFree c.pool 0 256 = some k →
        s.Defers p.1 r k (.sig p.2.2 p.2.1) [.form i u v]

/-- AMSG (R59, R333): the header's reserved bits fault before a late operand parks, and the message leaves for the core
that its region's affinity entry names, without waiting for anything. A bad entry discards it and sends one record with
SRC 8, which names the AMSG; the threadlet goes on. ARM (R284, R336): the reference, the threshold, the alignment, the
range of the command and its poison (R310) fault in this order, each as soon as its operand is known, then a late
operand parks, and then the packet goes to the trigger's front end with the command's words. Behind a barrier both
stand in the order stage, the message not hashed yet (R221); the stage's room is counted by log entry 16. The model's
own choices and inferences: log entry 16. -/
def Obligations.MessagesAndTriggers : Prop :=
  (∀ (s : State) (r : Run) (g : Guard) (xg : XReg) (ws : List Word), s.Issues r g → ws.length = 8 →
    r.group xg 8 = ws.map .known → r.get xg = .known (wordAt ws 0) → (wordAt ws 0).extractLsb' 28 36 = 0 →
    let handler := ((wordAt ws 0).extractLsb' 0 28).toNat
    (∀ e : Nat, s.MayIssue r → s.Hashes (.core s.cur) r.region (wordAt ws 1) e →
      ∃ t, exec (.amsg g xg) s = .next t ∧ s.SameBytes t ∧ (∀ m, m ≠ s.cur → t.core m = s.core m) ∧
        t.core s.cur = { s.issued r 1 with aff := (t.core s.cur).aff } ∧
        (s.Owns r.region e → t.net = s.net ++ [⟨.sig, .core s.cur, .core e, r.region,
          .amsg handler (wordAt ws 1) (ws.drop 2) none⟩]) ∧
        (¬ s.Owns r.region e → s.domainOf r.region = some 1 → t.Reports 0x09 8 (.core s.cur) ∧
          ∃ rec, t.net = s.net ++ [⟨.sig, .core s.cur, .service, 1, .record 1 0 rec⟩] ∧
            wordAt rec 2 = BitVec.ofNat 64 (s.blockField r.region r.block * 2 ^ 32 + r.idx % 256))) ∧
    ((s.core s.cur).acqPending r.tid = [] → (s.core s.cur).mustWait r.tid (s.core s.cur).nextSeq = true →
      (s.core s.cur).stageOpen = true → s.Stages (.amsg g xg) r (.amsg handler (wordAt ws 1) (ws.drop 2)))) ∧
  (∀ (s : State) (r : Run) (g : Guard) (xg : XReg), s.Issues r g →
    (∀ h : Word, r.get xg = .known h → h.extractLsb' 28 36 ≠ 0 → s.Faults (.amsg g xg) r 0x09 0 0) ∧
    ((∀ h : Word, r.get xg = .known h → h.extractLsb' 28 36 = 0) → (∃ v ∈ r.group xg 8, v.isLate) →
      s.Parks (.amsg g xg) r (r.group xg 8))) ∧
  ∀ (s : State) (r : Run) (g : Guard) (xg : XReg), s.Issues r g →
    let x (i : Nat) (v : Word) : Prop := r.reg (xg.toNat + i) = .known v
    let refs : Prop := ∀ w, x 0 w → s.refOk w = true ∧ (Ref.of w).t = true
    let thresholds : Prop := ∀ w, x 1 w → w.toNat < 2 ^ 24
    let readable (p : Word) : Prop := s.localOk s.cur r.fid p.toNat 64 false = true
    let clean (p : Word) : Prop := touches (s.core s.cur).lpoison p.toNat 64 = false
    (∀ w : Word, x 0 w → s.refOk w = false ∨ (Ref.of w).t = false → s.Faults (.arm g xg) r 0x09 0 0) ∧
    (refs → ∀ w : Word, x 1 w → 2 ^ 24 ≤ w.toNat → s.Faults (.arm g xg) r 0x07 0 0) ∧
    (refs → thresholds → ∀ p : Word, x 2 p →
      (p.toNat % 64 ≠ 0 → s.Faults (.arm g xg) r 0x03 p.toNat 0) ∧
      (p.toNat % 64 = 0 → ¬ readable p → s.Faults (.arm g xg) r 0x05 p.toNat 0) ∧
      (p.toNat % 64 = 0 → readable p → ¬ clean p → s.Faults (.arm g xg) r 0x06 p.toNat 0)) ∧
    (refs → thresholds → (∀ p : Word, x 2 p → p.toNat % 64 = 0 ∧ readable p ∧ clean p) →
      ((∃ v ∈ r.group xg 3, v.isLate) → s.Parks (.arm g xg) r (r.group xg 3)) ∧
      ∀ ref thresh p : Word, x 0 ref → x 1 thresh → x 2 p →
        let cmd := wordsOfBytes 8 (Cells.read (s.core s.cur).lmem p.toNat 64)
        (s.MayIssue r → s.Reaches (s.refAgent (Ref.of ref)) → s.Sends (.arm g xg) r .sig (s.refAgent (Ref.of ref))
          (.arm ref thresh.toNat cmd r.origin none)) ∧
        ((s.core s.cur).acqPending r.tid = [] → (s.core s.cur).mustWait r.tid (s.core s.cur).nextSeq = true →
          (s.core s.cur).stageOpen = true → s.Stages (.arm g xg) r (.arm ref thresh.toNat cmd)))

/-! ## Local memory -/

/-- LD, VLD and LDZ (R360, R413, R185, R420): an aligned access that the frame allows reads its bytes in little-endian
order, extended by sign or by zero; what is misaligned, not allowed or poisoned faults, and a form parks. LDZ reads
MASK, then the chunk whose length MASK gives: lanes that MASK selects take its values in order, the others are zero, and
the address register moves past it; a record beyond the limit is the compressed-overrun fault with its length, four
before MASK is read, and PAD that is not zero the format fault. -/
def Obligations.LocalLoads : Prop :=
  (∀ (s : State) (r : Run) (g : Guard) (sz : Size) (d a : XReg) (vd : VReg) (off : BitVec 8) (imm : BitVec 11), s.Issues r g →
    let lmem := (s.core s.cur).lmem
    let loads (i : Instr) (p n : Nat) (done : Prop) : Prop :=
      (p % n ≠ 0 → s.Faults i r 0x03 p 0) ∧
      (p % n = 0 → s.localOk s.cur r.fid p n false = false → s.Faults i r 0x05 p 0) ∧
      (p % n = 0 → s.localOk s.cur r.fid p n false = true →
        (touches (s.core s.cur).lpoison p n = true → s.Faults i r 0x06 p 0) ∧
        (touches (s.core s.cur).lpoison p n = false → done))
    (∀ x : Word, r.get a = .known x →
      (let p := (x + BitVec.ofInt 64 (off.toInt * sz.bytes)).toNat
       loads (.ld g sz true d a off) p sz.bytes
         (s.Writes (.ld g sz true d a off) r d (BitVec.ofNat 64 (natOf (Cells.read lmem p sz.bytes))) 1) ∧
       loads (.ld g sz false d a off) p sz.bytes
         (s.Writes (.ld g sz false d a off) r d
           (BitVec.ofInt 64 ((natOf (Cells.read lmem p sz.bytes) : Int).bmod (2 ^ (8 * sz.bytes)))) 1)) ∧
      (let p := (x + BitVec.ofInt 64 (imm.toInt * 64)).toNat
       loads (.vld g vd a imm) p 64 (s.Becomes (.vld g vd a imm) (({ r with
         v := SMap.set r.v vd.toNat (BitVec.ofNat 512 (natOf (Cells.read lmem p 64))) } : Run).past 1)))) ∧
    ((r.get a).isLate → ∀ u, s.Parks (.ld g sz u d a off) r [r.get a] ∧ s.Parks (.vld g vd a imm) r [r.get a])) ∧
  ∀ (s : State) (r : Run) (g : Guard) (a b : XReg) (vd : VReg), s.Issues r g →
    let c := s.core s.cur
    let i : Instr := .ldz g vd a b
    ((r.get a).isLate → s.Parks i r [r.get a, r.get b]) ∧
    ∀ w : Word, r.get a = .known w →
      let p := w.toNat
      let after (v : VWord) (len : Nat) : Prop := s.Becomes i
        ((({ r with v := SMap.set r.v vd.toNat v } : Run).write a (.known (w + BitVec.ofNat 64 len))).past 1)
      (p % 4 ≠ 0 → s.Faults i r 0x03 p (BitVec.ofNat 64 (4 * 2 ^ 16))) ∧
      (p % 4 = 0 → (r.get b).isLate → s.Parks i r [r.get a, r.get b]) ∧
      ∀ lim : Word, p % 4 = 0 → r.get b = .known lim →
        (lim.toNat < p + 4 → s.Faults i r 0x0F p (BitVec.ofNat 64 (4 * 2 ^ 16))) ∧
        (p + 4 ≤ lim.toNat → s.localOk s.cur r.fid p 4 false = false → s.Faults i r 0x05 p 0) ∧
        (p + 4 ≤ lim.toNat → s.localOk s.cur r.fid p 4 false = true → touches c.lpoison p 4 = true →
          s.Faults i r 0x06 p 0) ∧
        (p + 4 ≤ lim.toNat → s.localOk s.cur r.fid p 4 false = true → touches c.lpoison p 4 = false →
          let mask : Word := BitVec.ofNat 64 (natOf (Cells.read c.lmem p 4))
          let below (j : Nat) : Nat := ((Finset.range j).filter fun k => mask.getLsbD k = true).card
          let n := below 32
          let len := 4 + 2 * n + 2 * (n % 2)
          (lim.toNat < p + len → s.Faults i r 0x0F p (BitVec.ofNat 64 (len * 2 ^ 16))) ∧
          (p + len ≤ lim.toNat → s.localOk s.cur r.fid p len false = false → s.Faults i r 0x05 p 0) ∧
          (p + len ≤ lim.toNat → s.localOk s.cur r.fid p len false = true →
            (touches c.lpoison p len = true → s.Faults i r 0x06 p 0) ∧
            (touches c.lpoison p len = false →
              (n % 2 = 1 → natOf (Cells.read c.lmem (p + 4 + 2 * n) 2) ≠ 0 → s.Faults i r 0x07 p 0) ∧
              ((n % 2 = 1 → natOf (Cells.read c.lmem (p + 4 + 2 * n) 2) = 0) → ∃ v : VWord, after v len ∧
                ∀ j < 32, (v.extractLsb' (16 * j) 16).toNat =
                  if mask.getLsbD j then natOf (Cells.read c.lmem (p + 4 + 2 * below j) 2) else 0)))) ∧
        ∀ v : VWord, Cells.read c.lmem p (chunkBytes v).length = chunkBytes v → p + (chunkBytes v).length ≤ lim.toNat →
          s.localOk s.cur r.fid p (chunkBytes v).length false = true →
          touches c.lpoison p (chunkBytes v).length = false → after v (chunkBytes v).length

/-- ST, VST and STZ (R392, R413, R184, R194, R420): an aligned access the frame allows stores the value's bytes at the
address the meaning computes, and every byte outside them, every register and every flag stays, but for the address
register that STZ moves past its chunk. What is misaligned or not allowed faults, a header, which is never written,
too; a chunk beyond the limit is the compressed-overrun fault with its length; and a form parks after the checks of
what is known. -/
def Obligations.LocalStores : Prop :=
  ∀ (s : State) (r : Run) (g : Guard) (sz : Size) (c a b : XReg) (vc : VReg) (off : BitVec 8) (imm : BitVec 11),
    s.Issues r g → Memory.wf (s.core s.cur).lmem = true →
    let st : Instr := .st g sz c a off
    let vst : Instr := .vst g vc a imm
    let stz : Instr := .stz g vc a b
    let chunk := chunkBytes (r.vec vc)
    let long : Word := BitVec.ofNat 64 (chunk.length * 2 ^ 16)
    let stores (i : Instr) (r' : Run) (p : Nat) (bs : List Byte) : Prop :=
      (s.localOk s.cur r.fid p bs.length true = true →
        ∃ t, exec i s = .next t ∧ (t.core s.cur).run = some (r'.past 1) ∧ r.SameFlags r' ∧
          Cells.read (t.core s.cur).lmem p bs.length = bs ∧
          (∀ q, q < p ∨ p + bs.length ≤ q → Cells.get (t.core s.cur).lmem q = Cells.get (s.core s.cur).lmem q) ∧
          t.mem = s.mem ∧ t.hostMem = s.hostMem ∧ ∀ m, m ≠ s.cur → t.core m = s.core m) ∧
      (s.localOk s.cur r.fid p bs.length true = false → s.Faults i r 0x05 p 0)
    (∀ x : Word, r.get a = .known x →
      (let p := (scaled x off sz.bytes).toNat
       (p % sz.bytes ≠ 0 → s.Faults st r 0x03 p 0) ∧
       (p % sz.bytes = 0 →
         (∀ y : Word, r.get c = .known y → stores st r p (bytesOf sz.bytes y.toNat)) ∧
         ((r.get c).isLate → s.localOk s.cur r.fid p sz.bytes true = false → s.Faults st r 0x05 p 0) ∧
         ((r.get c).isLate → s.localOk s.cur r.fid p sz.bytes true = true → s.Parks st r [r.get a, r.get c]))) ∧
      (let p := (x + BitVec.ofInt 64 (imm.toInt * 64)).toNat
       (p % 64 ≠ 0 → s.Faults vst r 0x03 p 0) ∧ (p % 64 = 0 → stores vst r p (bytesOf 64 (r.vec vc).toNat))) ∧
      (x.toNat % 4 ≠ 0 → s.Faults stz r 0x03 x.toNat long) ∧
      (x.toNat % 4 = 0 → ((r.get b).isLate → s.Parks stz r [r.get a, r.get b]) ∧
        ∀ lim : Word, r.get b = .known lim →
          (lim.toNat < x.toNat + chunk.length → s.Faults stz r 0x0F x.toNat long) ∧
          (x.toNat + chunk.length ≤ lim.toNat →
            stores stz (r.write a (.known (x + BitVec.ofNat 64 chunk.length))) x.toNat chunk))) ∧
    ((r.get a).isLate →
      s.Parks st r [r.get a, r.get c] ∧ s.Parks vst r [r.get a] ∧ s.Parks stz r [r.get a, r.get b]) ∧
    ∀ (f : Frame) (p n : Nat), (s.core s.cur).frame r.fid = some f → f.base + 32 ≤ s.fstore → 0 < n → p < f.base + 32 →
      s.localOk s.cur r.fid p n true = false

/-! ## Global memory -/

/-- GLD, LDL and PREF with known operands (R354, R361, R66, R373): the access enters the source interface as one
operation; LDL's destination takes the identity form of a fresh symbol, Pending for this threadlet; an address outside
the 52 bits faults with the permission code, but drops a PREF; a misaligned global or local address faults, and so
does a local range that the frame does not allow. Which symbol is taken is the model's
choice (log entry 65). The model's own choices and inferences: log entries 14 and 65. -/
def Obligations.GlobalLoads : Prop :=
  ∀ (s : State) (r : Run) (g : Guard) (lu : Bool) (evp : Evp) (sz : Size) (byt n u : Bool) (xg y d a : XReg)
    (off : BitVec 8) (poff : BitVec 11) (loc addr ref : Word), s.Issues r g → s.MayIssue r →
    (r.group xg 2 = [.known loc, .known addr] → r.get y = .known ref → (y ≠ 0 → s.refOk ref = true) →
      addr.toNat < 2 ^ 52 → addr.toNat % sz.bytes = 0 → loc.toNat % sz.bytes = 0 →
      s.localOk s.cur r.fid loc.toNat sz.bytes true = true → s.watch r false [(addr.toNat, sz.bytes)] = .ok () →
      s.routed r [addr.toNat] = .ok () →
      s.Enters (.gld g lu evp sz byt n xg y) r (.gld addr.toNat loc.toNat sz.bytes lu evp (if y = 0 then 0 else ref) byt)) ∧
    (r.group xg 2 = [.known loc, .known addr] → r.get y = .known ref →
      (2 ^ 52 ≤ addr.toNat → s.Faults (.gld g lu evp sz byt n xg y) r 0x05 addr.toNat 0) ∧
      (addr.toNat < 2 ^ 52 → addr.toNat % sz.bytes ≠ 0 → s.Faults (.gld g lu evp sz byt n xg y) r 0x03 addr.toNat 0) ∧
      (addr.toNat < 2 ^ 52 → addr.toNat % sz.bytes = 0 →
        (loc.toNat % sz.bytes ≠ 0 → s.Faults (.gld g lu evp sz byt n xg y) r 0x03 loc.toNat 0) ∧
        (loc.toNat % sz.bytes = 0 → s.localOk s.cur r.fid loc.toNat sz.bytes true = false →
          s.Faults (.gld g lu evp sz byt n xg y) r 0x05 loc.toNat 0))) ∧
    (r.get a = .known addr →
      (let p := scaled addr off sz.bytes
       p.toNat < 2 ^ 52 → p.toNat % sz.bytes = 0 → s.watch r false [(p.toNat, sz.bytes)] = .ok () →
       s.routed r [p.toNat] = .ok () →
       (d = 0 → s.supply r 0 0 = .ok () → s.Enters (.ldl g sz u d a off) r (.ldl p.toNat sz.bytes u none)) ∧
       ∀ k, d ≠ 0 → SMap.firstFree (s.core s.cur).syms 0 64 = some k →
         s.supply (r.write d (.form k 1 0)) 1 0 = .ok () →
         exec (.ldl g sz u d a off) s = .next (s.setCore s.cur
           { s.issued (r.write d (.form k 1 0)) 1 with
             syms := SMap.set (s.core s.cur).syms k ⟨.pending, r.tid, r.fid, r.region, false, (s.core s.cur).nextSeq, r.origin⟩,
             src := (s.core s.cur).src ++ [s.opOf r (.ldl p.toNat sz.bytes u (some k))] })) ∧
      (2 ^ 52 ≤ (scaled addr off sz.bytes).toNat →
        s.Faults (.ldl g sz u d a off) r 0x05 (scaled addr off sz.bytes).toNat 0) ∧
      ((scaled addr off sz.bytes).toNat < 2 ^ 52 → (scaled addr off sz.bytes).toNat % sz.bytes ≠ 0 →
        s.Faults (.ldl g sz u d a off) r 0x03 (scaled addr off sz.bytes).toNat 0) ∧
      (let p := addr + BitVec.ofInt 64 poff.toInt
       (p.toNat < 2 ^ 52 → s.watch r false [(p.toNat, 1)] = .ok () →
         s.Enters (.pref g evp a poff) r (.pref p.toNat evp)) ∧
       (2 ^ 52 ≤ p.toNat → s.Becomes (.pref g evp a poff) (r.past 1))))

/-- GST and GSTV with known operands (R355, R356, R115): one operation, with the address of the tag for GST.T; a mask
of zeros stores nothing; an address outside the 52 bits or misaligned faults; and no byte of memory changes as they
issue. -/
def Obligations.GlobalStores : Prop :=
  ∀ (s : State) (r : Run) (g : Guard) (sz : Size) (c a : XReg) (vc : VReg) (m : MReg) (off : BitVec 8) (addr v tag : Word),
    s.Issues r g → s.MayIssue r → r.get a = .known addr →
    (let p := scaled addr off sz.bytes
     r.get c = .known v → p.toNat < 2 ^ 52 → p.toNat % sz.bytes = 0 →
     s.watch r true [(p.toNat, sz.bytes)] = .ok () → s.routed r [p.toNat] = .ok () →
     s.Enters (.gst g sz false c a off) r (.gst p.toNat sz.bytes v none) ∧
     (r.reg (c.toNat + 1) = .known tag → tag.toNat % 4 = 0 →
       s.Enters (.gst g sz true c a off) r (.gst p.toNat sz.bytes v (some tag.toNat)))) ∧
    (r.get c = .known v → 2 ^ 52 ≤ (scaled addr off sz.bytes).toNat →
      s.Faults (.gst g sz false c a off) r 0x05 (scaled addr off sz.bytes).toNat 0) ∧
    (r.get c = .known v → (scaled addr off sz.bytes).toNat < 2 ^ 52 → (scaled addr off sz.bytes).toNat % sz.bytes ≠ 0 →
      s.Faults (.gst g sz false c a off) r 0x03 (scaled addr off sz.bytes).toNat 0) ∧
    (let p := scaled addr off 64
     let mask : BitVec 16 := (r.mask m).setWidth 16
     p.toNat < 2 ^ 52 → p.toNat % 64 = 0 →
     s.watch r true (((List.range 16).filter fun i => mask.getLsbD i).map fun i => (p.toNat + 4 * i, 4)) = .ok () →
     (mask ≠ 0 → s.routed r [p.toNat] = .ok () → s.Enters (.gstv g vc a m off) r (.gstv p.toNat (r.vec vc) mask)) ∧
     (mask = 0 → s.Becomes (.gstv g vc a m off) (r.past 1))) ∧
    ((scaled addr off 64).toNat % 64 ≠ 0 → s.Faults (.gstv g vc a m off) r 0x03 (scaled addr off 64).toNat 0) ∧
    ((scaled addr off 64).toNat % 64 = 0 → 2 ^ 52 ≤ (scaled addr off 64).toNat →
      s.Faults (.gstv g vc a m off) r 0x05 (scaled addr off 64).toNat 0) ∧
    (∀ (op : Op) (t : State), t = s.setCore s.cur { s.issued r 1 with src := (s.core s.cur).src ++ [op] } → s.SameBytes t)

/-- The atomics (R330, R331, R66, R226): with known operands, one operation of their kind and size, and, unless xd is
x0, the destination takes the identity form of a fresh symbol, the pair of destinations for CAS2; the comparand of CAS
and CAS2 is what xd held, zero for x0. A relaxed one and an .ACQ enter the source interface, or the order stage behind
a barrier; a .REL leaves at once where its condition holds and as a barrier where it does not; an .ACQ that takes no
symbol leaves one that waits for its reply. An address outside the 52 bits and a misaligned one fault, whatever is
late; a late operand, no free symbol, a pending .ACQ, an unresolved effect before a release and a full order stage
park. Which symbol is taken is the model's choice (log entry 65); the room of the stage is counted by log entry 16, a
late load's address counts as a deferred effect by log entry 67, and what a threadlet parked with cause 4 waits for is
that of log entry 85. The model's own choices and inferences: log entries 16, 65, 67 and 85. -/
def Obligations.Atomics : Prop :=
  ∀ (s : State) (r : Run) (g : Guard) (ord : Ord) (sz : ASize) (d a b : XReg), s.Issues r g →
    let c := s.core s.cur
    let q := c.nextSeq
    let kinds : List (Instr × AtomKind) :=
      [(.xchg g ord sz d a b, .xchg), (.faa g ord sz d a b, .faa), (.amax g ord sz d a b, .amax),
       (.amin g ord sz d a b, .amin), (.amaxU g ord sz d a b, .amaxU), (.aminU g ord sz d a b, .aminU)]
    let all : List (Instr × Nat × List RVal) :=
      kinds.map (fun x => (x.1, sz.bytes, [r.get a, r.get b])) ++
        [(.cas g ord sz d a b, sz.bytes, [r.get a, r.get b, r.get d]),
         (.cas2 g ord d a b, 16, [r.get a, r.get b, r.reg (b.toNat + 1), r.get d, r.reg (d.toNat + 1)])]
    let fine (p : Word) (n : Nat) : Prop := p.toNat < 2 ^ 52 ∧ p.toNat % n = 0 ∧ s.routed r [p.toNat] = .ok () ∧
      s.watch r true [(p.toNat, n)] = .ok ()
    let fence : List Barrier := if d = 0 ∧ acquires ord = true then [⟨q + 1, r.origin, .acq q, []⟩] else []
    let issues (i : Instr) (r' : Run) (sy : SMap Sym) (bd : OpBody) : Prop :=
      let o := s.opOf r bd
      let rel : Barrier := ⟨q, r.origin, .release o, []⟩
      let lands (src stage : List Op) (bs : List Barrier) : Prop := exec i s = .next (s.setCore s.cur
        { s.issued r' 1 with syms := sy, nextSeq := q + 1 + fence.length, src := src, stage := stage,
                             barriers := bs ++ fence })
      (releases ord = false → c.mustWait r.tid q = false → lands (c.src ++ [o]) c.stage c.barriers) ∧
      (releases ord = false → c.mustWait r.tid q = true → c.stageOpen = true → lands c.src (c.stage ++ [o]) c.barriers) ∧
      (releases ord = true → s.effectsResolved r = .ok () →
        (c.barrierMet rel = true → lands (c.src ++ [o]) c.stage c.barriers) ∧
        (c.barrierMet rel = false → s.stageRoom r = .ok () → c.comb = [] → lands c.src c.stage (c.barriers ++ [rel])))
    let sym : Sym := ⟨.pending, r.tid, r.fid, r.region, acquires ord, q, r.origin⟩
    (∀ p v w : Word, r.get a = .known p → r.get b = .known v → fine p sz.bytes → c.acqPending r.tid = [] →
      let body (k : AtomKind) (cmp : Word) (i : Option Nat) : OpBody :=
        .atom k p.toNat sz.bytes (BitVec.ofNat 128 (v.toNat % 2 ^ (8 * sz.bytes)))
          (BitVec.ofNat 128 (cmp.toNat % 2 ^ (8 * sz.bytes))) i none
      (d = 0 → s.supply r 0 0 = .ok () →
        (∀ x ∈ kinds, issues x.1 r c.syms (body x.2 0 none)) ∧ issues (.cas g ord sz d a b) r c.syms (body .cas 0 none)) ∧
      ∀ k, d ≠ 0 → SMap.firstFree c.syms 0 64 = some k → s.supply (r.write d (.form k 1 0)) 1 0 = .ok () →
        (∀ x ∈ kinds, issues x.1 (r.write d (.form k 1 0)) (SMap.set c.syms k sym) (body x.2 0 (some k))) ∧
        (r.get d = .known w →
          issues (.cas g ord sz d a b) (r.write d (.form k 1 0)) (SMap.set c.syms k sym) (body .cas w (some k)))) ∧
    (∀ (p v v2 w w2 : Word) (k l : Nat), 2 ≤ d.toNat → d.toNat % 2 = 0 → r.get a = .known p → r.get b = .known v →
      r.reg (b.toNat + 1) = .known v2 → r.get d = .known w → r.reg (d.toNat + 1) = .known w2 → fine p 16 →
      c.acqPending r.tid = [] → SMap.firstFree c.syms 0 64 = some k → k < l → l < 64 → SMap.has c.syms l = false →
      (∀ j, k < j → j < l → SMap.has c.syms j = true) →
      s.supply ((r.write d (.form k 1 0)).write (d + 1) (.form l 1 0)) 2 0 = .ok () →
      issues (.cas2 g ord d a b) ((r.write d (.form k 1 0)).write (d + 1) (.form l 1 0))
        (SMap.set (SMap.set c.syms k sym) l sym) (.atom .cas2 p.toNat 16 (v2 ++ v) (w2 ++ w) (some k) (some l))) ∧
    ∀ x ∈ all,
      (∀ p : Word, r.get a = .known p → (2 ^ 52 ≤ p.toNat → s.Faults x.1 r 0x05 p.toNat 0) ∧
        (p.toNat < 2 ^ 52 → p.toNat % x.2.1 ≠ 0 → s.Faults x.1 r 0x03 p.toNat 0)) ∧
      ((∀ p : Word, r.get a = .known p → fine p x.2.1) →
        ((∃ v ∈ x.2.2, v.isLate) → s.Parks x.1 r x.2.2) ∧
        ((∀ v ∈ x.2.2, ¬ v.isLate) →
          let two := decide (x.2.1 = 16)
          let r' : Run := if two then (r.write d (.form 64 1 0)).write (d + 1) (.form 65 1 0) else r.write d (.form 64 1 0)
          let n := if d = 0 then 0 else if two then 2 else 1
          let parks (cause : Nat) (wait : Wait) : Prop := exec x.1 s = .next (s.park s.cur r 0 cause wait)
          (d ≠ 0 → 64 < n + c.syms.length → parks 4 c.short) ∧
          (s.supply r' n 0 = .ok () →
            (c.acqPending r.tid ≠ [] → parks 0 (.syms (c.acqPending r.tid))) ∧
            (c.acqPending r.tid = [] → releases ord = true → c.effectsOpen r.tid q = true → parks 0 (.deferred q)) ∧
            (c.acqPending r.tid = [] → (releases ord = true → c.effectsOpen r.tid q = false) →
              c.mustWait r.tid q = true → c.stageOpen = false → parks 1 .stage))))

/-- Deferred effects (R72): SIG, SIGD, GLD, GST, UPD and UPDV with a form in an operand take a pool entry with their
operands and go on; LDL takes one with its address, and a symbol that awaits it. A release goes on so where no earlier
deferred effect is unresolved (R386). The checks of operands that are known are made at issue (R298): a bad reference
(R52), a misaligned or forbidden address, a misaligned tag, an unbound stream. Which pool entry and symbol are taken is
the model's choice (log entry 65). The model's own choices and inferences: log entries 15 and 65. -/
def Obligations.DeferredEffects : Prop :=
  ∀ (s : State) (r : Run) (g : Guard) (a b xg d : XReg) (rel n u lu byt : Bool) (dw : BitVec 5) (sz : Size) (evp : Evp)
    (off : BitVec 8) (k3 : BitVec 3) (va vb : VReg) (m : MReg) (i j : Nat) (p q w : Word), s.Issues r g →
    (s.core s.cur).acqPending r.tid = [] → s.supply r 0 1 = .ok () →
    SMap.firstFree (s.core s.cur).pool 0 256 = some j → r.get a = .form i p q → r.get b = .known w →
    ((rel = true → s.effectsResolved r = .ok ()) →
      s.Defers (.sig g rel n a) r j (.sig rel 1) [.form i p q] ∧
      s.Defers (.sigd g rel n a b dw) r j (.sigd rel dw.toNat) [.form i p q, .known w] ∧
      (s.refOk w = true → s.Defers (.sigd g rel n b a dw) r j (.sigd rel dw.toNat) [.known w, .form i p q])) ∧
    (s.refOk w = false → s.Faults (.sigd g rel n b a dw) r 0x09 0 0) ∧
    s.Defers (.upd g a b k3) r j (.upd k3.toNat) [.form i p q, .known w] ∧
    (s.streamOf r.region k3.toNat = none → s.Faults (.upd g b a k3) r 0x10 0 0) ∧
    (∀ (bid : Nat) (x : Binding), s.streamOf r.region k3.toNat = some (bid, x) →
      (w.toNat % operSize x.oper ≠ 0 → s.Faults (.upd g b a k3) r 0x03 w.toNat 0) ∧
      (w.toNat % operSize x.oper = 0 → 2 ^ 52 ≤ w.toNat → s.Faults (.upd g b a k3) r 0x05 w.toNat 0) ∧
      (w.toNat % operSize x.oper = 0 → w.toNat < 2 ^ 52 →
        s.Defers (.upd g b a k3) r j (.upd k3.toNat) [.known w, .form i p q])) ∧
    s.Defers (.updv g a va vb m k3) r j (.updv k3.toNat (r.vec va) (r.vec vb) (r.mask m)) [.form i p q] ∧
    s.Defers (.gst g sz false b a off) r j (.gst sz false) [.form i p (q + scaled 0 off sz.bytes), .known w] ∧
    (∀ v : Word, r.reg (b.toNat + 1) = .known v →
      (v.toNat % 4 = 0 →
        s.Defers (.gst g sz true b a off) r j (.gst sz true) [.form i p (q + scaled 0 off sz.bytes), .known w, .known v]) ∧
      (v.toNat % 4 ≠ 0 → s.Faults (.gst g sz true b a off) r 0x03 v.toNat 0)) ∧
    (let t := scaled w off sz.bytes
     (2 ^ 52 ≤ t.toNat → s.Faults (.gst g sz false a b off) r 0x05 t.toNat 0) ∧
     (t.toNat < 2 ^ 52 → t.toNat % sz.bytes ≠ 0 → s.Faults (.gst g sz false a b off) r 0x03 t.toNat 0) ∧
     (t.toNat < 2 ^ 52 → t.toNat % sz.bytes = 0 →
       s.Defers (.gst g sz false a b off) r j (.gst sz false) [.known t, .form i p q])) ∧
    (∀ v : Word, r.group xg 2 = [.known v, .form i p q] →
      let gld (y : XReg) : Instr := .gld g lu evp sz byt n xg y
      (v.toNat % sz.bytes ≠ 0 → ∀ y, s.Faults (gld y) r 0x03 v.toNat 0) ∧
      (v.toNat % sz.bytes = 0 → s.localOk s.cur r.fid v.toNat sz.bytes true = false →
        ∀ y, s.Faults (gld y) r 0x05 v.toNat 0) ∧
      (v.toNat % sz.bytes = 0 → s.localOk s.cur r.fid v.toNat sz.bytes true = true →
        s.Defers (gld 0) r j (.gld lu evp sz byt) [.known v, .form i p q] ∧
        (b ≠ 0 → s.refOk w = false → s.Faults (gld b) r 0x09 0 0) ∧
        (b ≠ 0 → s.refOk w = true → s.Defers (gld b) r j (.gld lu evp sz byt) [.known v, .form i p q, .known w]))) ∧
    (∀ v : Word, r.group xg 2 = [.form i p q, .known v] →
      let gld : Instr := .gld g lu evp sz byt n xg 0
      (2 ^ 52 ≤ v.toNat → s.Faults gld r 0x05 v.toNat 0) ∧
      (v.toNat < 2 ^ 52 → v.toNat % sz.bytes ≠ 0 → s.Faults gld r 0x03 v.toNat 0) ∧
      (v.toNat < 2 ^ 52 → v.toNat % sz.bytes = 0 →
        s.Defers gld r j (.gld lu evp sz byt) [.form i p q, .known v])) ∧
    ∀ k x, d ≠ 0 → SMap.find (s.core s.cur).syms i = some x → x.st ≠ .awaiting →
      SMap.firstFree (s.core s.cur).syms 0 64 = some k → s.supply (r.write d (.form k 1 0)) 1 1 = .ok () →
      exec (.ldl g sz u d a off) s = .next (s.setCore s.cur
        { s.issued (r.write d (.form k 1 0)) 1 with
          syms := SMap.set (s.core s.cur).syms k ⟨.awaiting, r.tid, r.fid, r.region, false, (s.core s.cur).nextSeq, r.origin⟩,
          pool := SMap.set (s.core s.cur).pool j ⟨(s.core s.cur).nextSeq, r.origin,
            .address (some k) sz u (.form i p (q + scaled 0 off sz.bytes))⟩ })

/-! ## Order, updates and engine commands -/

/-- FENCE, IFLUSH and IFLUSH.ALL (R222, R348, R358): a fence whose condition holds leaves no barrier, one whose
condition does not hold yet leaves one, with the commands of the region in the core's queues for .E; an unresolved
deferred effect parks FENCE.W with cause 0; a flush leaves a barrier with its range, and a range beyond the 52 bits
faults. By log entry 67 the address of a late load counts as a deferred effect. The model's own choices and inferences:
log entries 16 and 67. -/
def Obligations.Fences : Prop :=
  ∀ (s : State) (r : Run) (g : Guard) (a b : XReg), s.Issues r g →
    let bar (k : BarrierKind) (cmds : List Nat) : Barrier := ⟨(s.core s.cur).nextSeq, r.origin, k, cmds⟩
    let leaves (x : Barrier) : State :=
      s.setCore s.cur { s.issued r 1 with barriers := (s.core s.cur).barriers ++ [x] }
    (∀ (w u e : Bool) (sc : Scope), (w = true → s.effectsResolved r = .ok ()) →
      let x := bar (.fence w u e sc) (if e then (s.core s.cur).regionCmds r.region else [])
      ((s.core s.cur).barrierMet x = true → exec (.fence g w u e sc) s = .next (s.setCore s.cur (s.issued r 1))) ∧
      ((s.core s.cur).barrierMet x = false → (u = true → (s.core s.cur).comb = []) →
        exec (.fence g w u e sc) s = .next (leaves x))) ∧
    ((∃ k p i, (k, p) ∈ (s.core s.cur).pool ∧ p.org.tid = r.tid ∧ p.isEffect = true ∧ p.seq < (s.core s.cur).nextSeq ∧
        i ∈ p.symbols ∧ (s.core s.cur).symOpen i = true) →
      ∀ (u e : Bool) (sc : Scope), exec (.fence g true u e sc) s
        = .next (s.park s.cur r 0 0 (.deferred (s.core s.cur).nextSeq))) ∧
    (∀ va n : Word, r.get a = .known va → r.get b = .known n →
      (va.toNat + n.toNat ≤ 2 ^ 52 →
        exec (.iflush g a b) s = .next (leaves (bar (.iflush (s.asid r.region) va.toNat n.toNat) []))) ∧
      (2 ^ 52 < va.toNat + n.toNat → s.Faults (.iflush g a b) r 0x05 va.toNat 0)) ∧
    ((r.get a).isLate ∨ (r.get b).isLate → s.Parks (.iflush g a b) r [r.get a, r.get b]) ∧
    exec (.iflushAll g) s = .next (leaves (bar .iflushAll []))

/-- UPD, UPDV and UAPPLY with known operands (R243, R397, R398, R399): an update of a stream that the region's
bindings have takes a number of its own, counted once however many pairs it has, and each pair, in lane order, is one
operation of the source interface; a stream without a binding misses, a misaligned address and one outside the 52 bits
fault; a UPDV that selects no lane has no effect, its stream bound or not (R242); UAPPLY walks its range, and an empty
range does nothing. -/
def Obligations.Updates : Prop :=
  (∀ (s : State) (r : Run) (g : Guard) (a b : XReg) (va vb : VReg) (m : MReg) (k : BitVec 3) (p v : Word) (bid : Nat)
    (x : Binding), s.Issues r g → s.MayIssue r → r.get a = .known p → r.get b = .known v →
    s.streamOf r.region k.toNat = some (bid, x) →
    let es := operSize x.oper
    let c := s.core s.cur
    (p.toNat % es = 0 → p.toNat < 2 ^ 52 → s.watch r true [(p.toNat, es)] = .ok () →
      exec (.upd g a b k) s = .next (s.setCore s.cur { s.issued r 1 with
        nextUpd := c.nextUpd + 1,
        upds := SMap.set c.upds c.nextUpd ⟨c.nextSeq, r.tid, 1⟩,
        src := c.src ++ [s.opOf r (.pair c.nextUpd p.toNat (BitVec.ofNat 64 (v.toNat % 2 ^ (8 * es))) k.toNat)] })) ∧
    (p.toNat % es ≠ 0 → s.Faults (.upd g a b k) r 0x03 p.toNat 0) ∧
    (p.toNat % es = 0 → 2 ^ 52 ≤ p.toNat → s.Faults (.upd g a b k) r 0x05 p.toNat 0) ∧
    (let ps := updPairs es p (r.vec va) (r.vec vb) (r.mask m)
     (∀ q ∈ ps, q.1.toNat % es = 0 ∧ q.1.toNat < 2 ^ 52) → s.watch r true (ps.map fun q => (q.1.toNat, es)) = .ok () →
     (ps = [] → s.Becomes (.updv g a va vb m k) (r.past 1)) ∧
     (ps ≠ [] → (∀ y ∈ c.barriers, y.org.tid ≠ r.tid) → exec (.updv g a va vb m k) s = .next (s.setCore s.cur { c with
        run := some (r.past 1),
        nextSeq := c.nextSeq + ps.length,
        nextUpd := c.nextUpd + 1,
        upds := SMap.set c.upds c.nextUpd ⟨c.nextSeq, r.tid, ps.length⟩,
        src := c.src ++ ps.zipIdx.map fun q => { s.opOf r (.pair c.nextUpd q.1.1.toNat q.1.2 k.toNat) with
          id := c.nextSeq + q.2, seq := c.nextSeq + q.2 } })))) ∧
  (∀ (base : Word) (va vb : VWord) (i : Nat),
    (i < 8 → updPairs 8 base va vb (BitVec.ofNat 64 (2 ^ i))
      = [(base + BitVec.ofNat 64 (8 * (va.extractLsb' (32 * i) 32).toNat), vb.extractLsb' (64 * i) 64)]) ∧
    (i < 16 → updPairs 4 base va vb (BitVec.ofNat 64 (2 ^ i))
      = [(base + BitVec.ofNat 64 (4 * (va.extractLsb' (32 * i) 32).toNat), (vb.extractLsb' (32 * i) 32).setWidth 64)])) ∧
  ∀ (s : State) (r : Run) (g : Guard) (a b : XReg) (va vb : VReg) (m : MReg) (k : BitVec 3) (p v n : Word), s.Issues r g →
    (r.get a = .known p → r.get b = .known v → s.streamOf r.region k.toNat = none →
      s.Faults (.upd g a b k) r 0x10 0 0 ∧
      ((∃ i < 16, (r.mask m).getLsbD i = true) → s.Faults (.updv g a va vb m k) r 0x10 0 0)) ∧
    (r.get a = .known p → (∀ i < 16, (r.mask m).getLsbD i = false) → s.Becomes (.updv g a va vb m k) (r.past 1)) ∧
    (r.get a = .known p → r.get b = .known n → s.MayIssue r →
      (n = 0 → s.Becomes (.uapply g a b) (r.past 1)) ∧
      (n ≠ 0 → p.toNat + n.toNat ≤ 2 ^ 52 → s.Enters (.uapply g a b) r (.uapply p.toNat n.toNat none)) ∧
      (n ≠ 0 → 2 ^ 52 < p.toNat + n.toNat → s.Faults (.uapply g a b) r 0x05 p.toNat 0)) ∧
    ((r.get a).isLate ∨ (r.get b).isLate → s.Parks (.uapply g a b) r [r.get a, r.get b])

/-- CPY, CPY2, CPYM, GTHR and FENCEQ.CT (R258, R341, R342, R349, R357): with known operands and room in the copy queue
the command stands at its end, not started, with its operand group and its reference; a full queue parks with cause 1,
a form with cause 0, and a bad reference faults. RCFG, SSCFG, MMA, MMAS, MMG, ACCZ, ACCLD, ACCST and FENCEQ.TC (R169,
R349, R366, R367, R368, R374, R391) enter the tile queue as copy commands enter theirs, RCFG and SSCFG after the
checks of their ranges, ACCST with the rounding mode at issue; RADV adds tiles to a ring that is neither unconfigured
nor reserved and has room for them. The model's own choices and inferences: log entry 36. -/
def Obligations.EngineCommands : Prop :=
  (∀ (s : State) (r : Run) (g : Guard) (fn : CopyFn) (gf : GthrFn) (byt n : Bool) (xg y : XReg) (ref : Word), s.Issues r g →
     let queued (k : CopyKind) (ws : List Word) (ref : Word) : State := s.setCore s.cur { s.issued r 1 with
       copyq := (s.core s.cur).copyq ++ [
         { id := (s.core s.cur).nextSeq, seq := (s.core s.cur).nextSeq, org := r.origin, kind := k, grp := ws, y := ref,
           started := false, pos := 0, pieces := [], counted := 0, recv := [], reported := [], resv := none, fault := none,
           err := false, told := false, held := false, published := false }] }
     (∀ p ∈ ([(.cpy g fn xg y, .cpy fn, 3), (.cpy2 g fn xg y, .cpy2 fn, 6), (.cpym g byt n xg y, .cpym byt, 5),
         (.gthr g gf xg y, .gthr gf, 5)] : List (Instr × CopyKind × Nat)),
       (∀ ws : List Word, ws.length = p.2.2 → r.group xg p.2.2 = ws.map .known → r.get y = .known ref →
         (y ≠ 0 → s.refOk ref = true) → (s.core s.cur).acqPending r.tid = [] →
         ((s.core s.cur).copyq.length < 32 → exec p.1 s = .next (queued p.2.1 ws ref)) ∧
         (32 ≤ (s.core s.cur).copyq.length → exec p.1 s = .next (s.park s.cur r 0 1 .copyQueue))) ∧
       (y ≠ 0 → r.get y = .known ref → s.refOk ref = false → s.Faults p.1 r 0x09 0 0) ∧
       (y = 0 → (∃ v ∈ r.group xg p.2.2, v.isLate) → s.Parks p.1 r (r.group xg p.2.2 ++ [.known 0]))) ∧
     ((s.core s.cur).acqPending r.tid = [] →
       ((s.core s.cur).copyq.length < 32 → exec (.fenceqCt g) s = .next (queued .fenceq [] 0)) ∧
       (32 ≤ (s.core s.cur).copyq.length →
         exec (.fenceqCt g) s = .next (s.park s.cur r 0 1 .copyQueue)))) ∧
  ∀ (s : State) (r : Run) (g : Guard) (n t sc sat : Bool) (q qa qb : BitVec 3) (ss acc : BitVec 2) (val : MmgVal)
    (act : MmgAct) (rnd : Rnd) (tag : Tag) (xg y : XReg) (ref : Word), s.Issues r g →
    (s.core s.cur).acqPending r.tid = [] →
    let queued (k : TileKind) (ws : List Word) (ref : Word) : State := s.setCore s.cur { s.issued r 1 with
      tileq := (s.core s.cur).tileq ++ [
        { id := (s.core s.cur).nextSeq, seq := (s.core s.cur).nextSeq, org := r.origin, kind := k, grp := ws, y := ref,
          started := false, left := 0, pair := none, row := 0, recAt := 0, err := false, fault := none, bad := false,
          done := false }] }
    let enters (i : Instr) (k : TileKind) (ws : List Word) (ref : Word) : Prop :=
      ((s.core s.cur).tileq.length < 32 → exec i s = .next (queued k ws ref)) ∧
      (32 ≤ (s.core s.cur).tileq.length → exec i s = .next (s.park s.cur r 0 1 .tileQueue))
    (∀ p ∈ ([(.mma g n t qb qa acc xg y, .mma t qb.toNat qa.toNat acc.toNat, 1),
        (.mmas g ss n qb qa acc xg y, .mmas ss.toNat qb.toNat qa.toNat acc.toNat, 1), (.mmg g val act n xg y, .mmg val act, 5),
        (.accld g n acc xg y, .accld acc.toNat, 1),
        (.accst g n sc sat rnd tag acc xg y, .accst sc sat (s.rounding r rnd) tag acc.toNat, 2)] :
        List (Instr × TileKind × Nat)),
      (∀ ws : List Word, ws.length = p.2.2 → r.group xg p.2.2 = ws.map .known → r.get y = .known ref →
        (y ≠ 0 → s.refOk ref = true) → enters p.1 p.2.1 ws ref) ∧
      (y ≠ 0 → r.get y = .known ref → s.refOk ref = false → s.Faults p.1 r 0x09 0 0) ∧
      (y = 0 → (∃ v ∈ r.group xg p.2.2, v.isLate) → s.Parks p.1 r (r.group xg p.2.2 ++ [.known 0]))) ∧
    enters (.accz g acc) (.accz acc.toNat) [] 0 ∧ enters (.fenceqTc g) .fenceq [] 0 ∧
    (∀ (base desc : Word) (depth : Nat) (bs : Bool),
      let ws : List Word := [base, BitVec.ofNat 64 (depth + if bs then 256 else 0), desc]
      r.group xg 3 = ws.map .known → r.reg xg.toNat = .known base → r.reg (xg.toNat + 1) = .known (wordAt ws 1) →
      r.reg (xg.toNat + 2) = .known desc → base.toNat % 512 = 0 → depth < 128 →
      (2 ≤ depth → depth ≤ 64 → desc.toNat % 8 = 0 → s.fstore ≤ base.toNat → base.toNat + 512 * depth ≤ localEnd →
        s.fstore ≤ desc.toNat → desc.toNat + 8 * depth ≤ localEnd →
        (base.toNat + 512 * depth ≤ desc.toNat ∨ desc.toNat + 8 * depth ≤ base.toNat) →
        enters (.rcfg g q xg) (.rcfg q.toNat) ws 0) ∧
      (depth < 2 ∨ 64 < depth → s.Faults (.rcfg g q xg) r 0x0C 0 0)) ∧
    (∀ base len : Word, r.group xg 2 = [.known base, .known len] → r.reg xg.toNat = .known base →
      r.reg (xg.toNat + 1) = .known len →
      (len ≠ 0 → s.fstore ≤ base.toNat → base.toNat + len.toNat ≤ localEnd →
        enters (.sscfg g ss xg) (.sscfg ss.toNat) [base, len] 0) ∧
      (len = 0 → s.Faults (.sscfg g ss xg) r 0x0C 0 0)) ∧
    ((SMap.find (s.core s.cur).rings q.toNat = none → s.Faults (.radv g q xg) r 0x0C 0 0) ∧
      ∀ (x : Ring) (w : Word), SMap.find (s.core s.cur).rings q.toNat = some x →
        (x.res ≠ 0 → s.Faults (.radv g q xg) r 0x0C 0 0) ∧
        (x.res = 0 → (r.get xg).isLate → s.Parks (.radv g q xg) r [r.get xg]) ∧
        (x.res = 0 → r.get xg = .known w → 1 ≤ w.toNat → w.toNat ≤ x.depth - x.count →
          exec (.radv g q xg) s = .next (s.setCore s.cur { s.core s.cur with
            run := some (r.past 1), rings := SMap.set (s.core s.cur).rings q.toNat { x with count := x.count + w.toNat } })) ∧
        (x.res = 0 → r.get xg = .known w → w = 0 ∨ x.depth - x.count < w.toNat → s.Faults (.radv g q xg) r 0x0C 0 0))

/-! ## Vectors and masks -/

/-- VADD, VSUB, VMUL, VFMA, VMIN, VMAX, VABS, VNEG, VRCP, VRSQ, VEXP2, VLOG2 and VX (R404, R405, R409): every lane that
the mask selects takes the function of its operands' lanes, the others keep what they held, and the flags are the
selected lanes'; integer lanes wrap, or clamp and raise SA under SAT, and VMIN and VMAX take the smaller and the
larger; floating-point lanes of VADD, VSUB, VMUL and VFMA are the scalar operation at the lane's precision, rounding
mode and SAT, VMIN and VMAX are FMIN and FMAX (R344, R346), and VABS and VNEG change only the sign; and the zeros and
infinities of Table 18-5. -/
def Obligations.VectorArithmetic : Prop :=
  (∀ (s : State) (r : Run) (g : Guard) (t : VType) (vd va vb : VReg) (m : MReg) (sat : Bool) (rnd : Rnd), s.Issues r g →
    let w := t.ty.width
    let lanes (k : VFun) (rm : RMode) (sat : Bool) (j : Nat) : Nat × BitVec 8 :=
      if selects w (r.mask m) j then
        vlane k t.ty rm sat (laneOf w (r.vec va) j) (laneOf w (r.vec vb) j) (laneOf w (r.vec vd) j)
      else (laneOf w (r.vec vd) j, 0)
    (∀ p ∈ ([(.vadd g t vd va vb m, .add), (.vsub g t vd va vb m, .sub), (.vmul g t vd va vb m, .mul),
        (.vfma g t vd va vb m, .fma), (.vmin g t vd va vb m, .min), (.vmax g t vd va vb m, .max), (.vabs g t vd va m, .abs),
        (.vneg g t vd va m, .neg)] : List (Instr × VFun)), s.SetsLanes p.1 r vd 1 w (lanes p.2 .rne false)) ∧
    ∀ p ∈ ([(.add t, .add), (.sub t, .sub), (.mul t, .mul), (.fma t, .fma), (.min t, .min), (.max t, .max), (.abs t, .abs),
        (.neg t, .neg)] : List (Vop × VFun)),
      s.SetsLanes (.vx g p.1 sat rnd vd va vb m) r vd 2 w (lanes p.2 (s.rounding r rnd) sat)) ∧
  (∀ (s : State) (r : Run) (g : Guard) (t : EtF) (vd va vb : VReg) (m : MReg) (sat : Bool) (rnd : Rnd), s.Issues r g →
    let w := t.fmt.width
    let lanes (k : VMath) (rm : RMode) (sat : Bool) (j : Nat) : Nat × BitVec 8 :=
      if selects w (r.mask m) j then vmathLane k t.fmt rm sat (laneOf w (r.vec va) j) else (laneOf w (r.vec vd) j, 0)
    (∀ p ∈ ([(.vrcp g t vd va m, .rcp), (.vrsq g t vd va m, .rsq), (.vexp2 g t vd va m, .exp2),
        (.vlog2 g t vd va m, .log2)] : List (Instr × VMath)), s.SetsLanes p.1 r vd 1 w (lanes p.2 .rne false)) ∧
    ∀ p ∈ ([(.rcp t, .rcp), (.rsq t, .rsq), (.exp2 t, .exp2), (.log2 t, .log2)] : List (Vop × VMath)),
      s.SetsLanes (.vx g p.1 sat rnd vd va vb m) r vd 2 w (lanes p.2 (s.rounding r rnd) sat)) ∧
  (∀ (w a b d : Nat) (rm : RMode), 1 ≤ w → a < 2 ^ w → b < 2 ^ w → d < 2 ^ w →
    let t : IntTy := ⟨w, true⟩
    let clamps (k : VFun) (x : Int) : Prop :=
      t.decode (vlane k (.int t) rm true a b d).1 = max (-2 ^ (w - 1)) (min (2 ^ (w - 1) - 1) x) ∧
      (vlane k (.int t) rm true a b d).2 = if -2 ^ (w - 1) ≤ x ∧ x ≤ 2 ^ (w - 1) - 1 then 0 else fSA
    vlane .add (.int t) rm false a b d = ((a + b) % 2 ^ w, 0) ∧
    vlane .sub (.int t) rm false a b d = ((a + (2 ^ w - b)) % 2 ^ w, 0) ∧
    vlane .mul (.int t) rm false a b d = (a * b % 2 ^ w, 0) ∧
    vlane .fma (.int t) rm false a b d = ((a * b + d) % 2 ^ w, 0) ∧
    vlane .neg (.int t) rm false a b d = ((2 ^ w - a) % 2 ^ w, 0) ∧
    clamps .add (t.decode a + t.decode b) ∧ clamps .sub (t.decode a - t.decode b) ∧ clamps .mul (t.decode a * t.decode b) ∧
    clamps .fma (t.decode a * t.decode b + t.decode d) ∧ clamps .abs |t.decode a| ∧ clamps .neg (-t.decode a) ∧
    ∀ sat : Bool, let low := vlane .min (.int t) rm sat a b d
      let high := vlane .max (.int t) rm sat a b d
      t.decode low.1 = min (t.decode a) (t.decode b) ∧ t.decode high.1 = max (t.decode a) (t.decode b) ∧
      low.2 = 0 ∧ high.2 = 0) ∧
  (∀ (f : Fmt) (a b d : Nat) (rm : RMode) (sat : Bool),
    vlane .add (.fp f) rm sat a b d = fpAdd f rm sat a b ∧ vlane .sub (.fp f) rm sat a b d = fpSub f rm sat a b ∧
    vlane .mul (.fp f) rm sat a b d = fpMul f rm sat a b ∧ vlane .fma (.fp f) rm sat a b d = fpFma f rm sat a b d ∧
    vlane .min (.fp f) rm sat a b d = fpMinMax f false a b ∧ vlane .max (.fp f) rm sat a b d = fpMinMax f true a b) ∧
  (∀ (f : Fmt) (a b d : Nat) (rm : RMode) (sat : Bool), a < 2 ^ f.width →
    vlane .abs (.fp f) rm sat a b d = (a % 2 ^ (f.width - 1), 0) ∧
    vlane .neg (.fp f) rm sat a b d = ((a + 2 ^ (f.width - 1)) % 2 ^ f.width, 0)) ∧
  ∀ (f : Fmt) (i : Nat) (rm : RMode), f ∈ ([.f32, .f16, .bf16] : List Fmt) → f.infCode = some i →
    fpRcp f rm false 0 = (i, fDZ) ∧ fpRcp f rm false f.signBit = (f.signBit + i, fDZ) ∧ fpRcp f rm false i = (0, 0) ∧
    fpRcp f rm false (f.signBit + i) = (f.signBit, 0) ∧ fpRsq f rm false 0 = (i, fDZ) ∧
    fpRsq f rm false f.signBit = (f.signBit + i, fDZ) ∧ fpRsq f rm false i = (0, 0) ∧
    fpRsq f rm false (f.signBit + i) = (f.nanCode, fIV) ∧ fpExp2 f rm false i = (i, 0) ∧
    fpExp2 f rm false (f.signBit + i) = (0, 0) ∧ fpLog2 f rm false 0 = (f.signBit + i, fDZ) ∧
    fpLog2 f rm false f.signBit = (f.signBit + i, fDZ) ∧ fpLog2 f rm false i = (i, 0) ∧
    fpLog2 f rm false (f.signBit + i) = (f.nanCode, fIV)

/-- VAND, VOR, VXOR and VSEL (R406), VSHL, VSHR and VSAR (R407), VIOTA (R410), and the lane moves (R412), lane by
lane; a form in a scalar operand parks. -/
def Obligations.VectorLanes : Prop :=
  ∀ (s : State) (r : Run) (g : Guard) (vd va vb : VReg) (m mb : MReg) (d xa xb : XReg) (ti : EtI) (lw : LaneW), s.Issues r g →
    let on (w : Nat) (f : Nat → Nat) (j : Nat) : Nat × BitVec 8 :=
      (if selects w (r.mask m) j then f j else laneOf w (r.vec vd) j, 0)
    let A (w j : Nat) : Nat := laneOf w (r.vec va) j
    let B (w j : Nat) : Nat := laneOf w (r.vec vb) j
    let n := 512 / lw.width
    let below (x : Word) (j : Nat) : Nat := ((Finset.range j).filter fun k => x.getLsbD k = true).card
    (s.SetsLanes (.vand g vd va vb m) r vd 1 32 (on 32 fun j => A 32 j &&& B 32 j) ∧
      s.SetsLanes (.vor g vd va vb m) r vd 1 32 (on 32 fun j => A 32 j ||| B 32 j) ∧
      s.SetsLanes (.vxor g vd va vb m) r vd 1 32 (on 32 fun j => A 32 j ^^^ B 32 j)) ∧
    (let sel (w j : Nat) : Nat × BitVec 8 := (if selects w (r.mask m) j then A w j else B w j, 0)
     s.SetsLanes (.vselW g vd va vb m) r vd 1 32 (sel 32) ∧ s.SetsLanes (.vselH g vd va vb m) r vd 1 16 (sel 16) ∧
       s.SetsLanes (.vselB g vd va vb m) r vd 1 8 (sel 8)) ∧
    (let shl (w j : Nat) : Nat := A w j * 2 ^ (B w j % w)
     let shr (w j : Nat) : Nat := A w j / 2 ^ (B w j % w)
     let sar (w j : Nat) : Nat := ((BitVec.ofNat w (A w j)).sshiftRight (B w j % w)).toNat
     s.SetsLanes (.vshlI32 g vd va vb m) r vd 1 32 (on 32 (shl 32)) ∧
       s.SetsLanes (.vshrI32 g vd va vb m) r vd 1 32 (on 32 (shr 32)) ∧
       s.SetsLanes (.vsarI32 g vd va vb m) r vd 1 32 (on 32 (sar 32)) ∧
       s.SetsLanes (.vshlI16 g vd va vb m) r vd 1 16 (on 16 (shl 16)) ∧
       s.SetsLanes (.vshrI16 g vd va vb m) r vd 1 16 (on 16 (shr 16)) ∧
       s.SetsLanes (.vsarI16 g vd va vb m) r vd 1 16 (on 16 (sar 16))) ∧
    s.SetsLanes (.viota g ti vd m) r vd 1 ti.width (on ti.width (below (r.mask m))) ∧
    s.SetsLanes (.vperm g lw vd va vb) r vd 1 lw.width (fun j => (A lw.width (B lw.width j % n), 0)) ∧
    (∀ x : Word, r.get xa = .known x → s.SetsLanes (.vbcast g lw vd xa) r vd 1 lw.width (fun _ => (x.toNat, 0))) ∧
    (∀ k : Word, r.get xb = .known k →
      s.Writes (.vext g lw d va xb) r d (BitVec.ofNat 64 (A lw.width (k.toNat % n))) 1) ∧
    (∀ x k : Word, r.get xa = .known x → r.get xb = .known k → s.SetsLanes (.vins g lw vd xa xb) r vd 1 lw.width
      (fun j => (if j = k.toNat % n then x.toNat else laneOf lw.width (r.vec vd) j, 0))) ∧
    s.SetsLanes (.vcomp g lw vd va mb) r vd 1 lw.width
      (fun j => ((((List.range n).filter fun k => (r.mask mb).getLsbD k)[j]?.map (A lw.width)).getD 0, 0)) ∧
    s.SetsLanes (.vexpd g lw vd va mb) r vd 1 lw.width
      (fun j => (if (r.mask mb).getLsbD j then A lw.width (below (r.mask mb) j) else 0, 0)) ∧
    ((r.get xa).isLate → s.Parks (.vbcast g lw vd xa) r [r.get xa]) ∧
    ((r.get xb).isLate → s.Parks (.vext g lw d va xb) r [r.get xb]) ∧
    ((r.get xa).isLate ∨ (r.get xb).isLate → s.Parks (.vins g lw vd xa xb) r [r.get xa, r.get xb]) ∧
    ∀ (w j : Nat) (v : VWord), laneOf w v j = (v.extractLsb' (w * j) w).toNat

/-- VCMP (R408, Table 18-4), VRED and VDOT (R153, R411), VCVT (R414), MLOG and MCNT (R365): the mask and the flags of
a comparison, the tree of a reduction, whose integer sum is the sum of the selected lanes, the converted lanes, and
the mask operations. -/
def Obligations.VectorResults : Prop :=
  (∀ (s : State) (r : Run) (g : Guard) (t : VType) (c : VCond) (md ma mb m : MReg) (va vb vd : VReg) (d : XReg) (dst src : Et)
    (sat : Bool) (rnd : Rnd), s.Issues r g →
    (md ≠ 0 → ∃ (v : Word) (fl : BitVec 8),
      s.Becomes (.vcmp g t c md va vb) (({ r with m := SMap.set r.m md.toNat v, fpst := r.fpst ||| fl } : Run).past 1) ∧
      let res (j : Nat) : Bool × BitVec 8 :=
        vcmpLane t.ty c (laneOf t.ty.width (r.vec va) j) (laneOf t.ty.width (r.vec vb) j)
      (∀ j < 64, v.getLsbD j = (decide (j < 512 / t.ty.width) && (res j).1)) ∧
      ∀ b, fl.getLsbD b = true ↔ ∃ j < 512 / t.ty.width, (res j).2.getLsbD b = true) ∧
    (let lanes (k : VFun) : List Nat := (List.range (512 / t.ty.width)).map fun j =>
       if selects t.ty.width (r.mask m) j then laneOf t.ty.width (r.vec va) j else redIdentity k t.ty
     let res (k : VFun) : Nat × BitVec 8 := tree (fun a b => vlane k t.ty .rne false a b 0) 6 (lanes k)
     ∀ p ∈ ([(.vredAdd g t d va m, .add), (.vredMin g t d va m, .min), (.vredMax g t d va m, .max)] : List (Instr × VFun)),
       s.Becomes p.1 (({ r.write d (.known (t.ty.toReg (res p.2).1)) with fpst := r.fpst ||| (res p.2).2 } : Run).past 1)) ∧
    (t ∈ ([.i32, .i16, .i8] : List VType) → s.Writes (.vredAdd g t d va m) r d
      (BitVec.ofInt 64 (Int.bmod (((Finset.range (512 / t.ty.width)).filter fun j => selects t.ty.width (r.mask m) j = true).sum
        fun j => (laneOf t.ty.width (r.vec va) j : Int)) (2 ^ t.ty.width))) 1) ∧
    (∀ p ∈ ([(.vdotF32 g d va vb m, .f32), (.vdotBf16 g d va vb m, .bf16), (.vdotF16 g d va vb m, .f16)] :
        List (Instr × Fmt)),
      let prods := (List.range (512 / p.2.width)).map fun j =>
        if selects p.2.width (r.mask m) j then
          dotProduct p.2 (laneOf p.2.width (r.vec va) j) (laneOf p.2.width (r.vec vb) j)
        else (0x80000000, 0)
      let res := tree (fun a b => fpAdd .f32 .rne false a b) 6 (prods.map (·.1))
      s.Becomes p.1 (({ r.write d (.known (BitVec.ofNat 64 res.1)) with
        fpst := r.fpst ||| prods.foldl (fun a q => a ||| q.2) res.2 } : Run).past 1) ∧
      (r.mask m = 0 → s.Writes p.1 r d 0x80000000 1)) ∧
    (s.SetsLanes (.vcvt g dst src sat rnd vd va m) r vd 2 dst.ty.width fun j =>
      if selects dst.ty.width (r.mask m) j then
        if j < min (512 / dst.ty.width) (512 / src.ty.width) then
          convert dst.ty src.ty (s.rounding r rnd) sat (laneOf src.ty.width (r.vec va) j)
        else (0, 0)
      else (laneOf dst.ty.width (r.vec vd) j, 0)) ∧
    (md ≠ 0 → ∀ p ∈ ([(.and, r.mask ma &&& r.mask mb), (.or, r.mask ma ||| r.mask mb), (.xor, r.mask ma ^^^ r.mask mb),
        (.andn, r.mask ma &&& ~~~ (r.mask mb)), (.not, ~~~ (r.mask ma))] : List (MlogOp × Word)),
      s.Becomes (.mlog g p.1 md ma mb) (({ r with m := SMap.set r.m md.toNat p.2 } : Run).past 1)) ∧
    s.Writes (.mcnt g d ma) r d (BitVec.ofNat 64 ((Finset.range 64).filter fun k => (r.mask ma).getLsbD k = true).card) 1 ∧
    r.mask 0 = BitVec.allOnes 64) ∧
  (∀ (w a b : Nat), 1 ≤ w → a < 2 ^ w → b < 2 ^ w →
    let t : CvtTy := .int ⟨w, true⟩
    vcmpLane t .eq a b = (a == b, 0) ∧ vcmpLane t .ne a b = (a != b, 0) ∧ vcmpLane t .ltu a b = (decide (a < b), 0) ∧
    vcmpLane t .leu a b = (decide (a ≤ b), 0) ∧
    vcmpLane t .lt a b = ((BitVec.ofNat w a).slt (BitVec.ofNat w b), 0) ∧
    vcmpLane t .le a b = ((BitVec.ofNat w a).sle (BitVec.ofNat w b), 0)) ∧
  ∀ (f : Fmt) (a b : Nat), vcmpLane (.fp f) .eq a b = fpCompare f .eq a b ∧ vcmpLane (.fp f) .ne a b = fpCompare f .ne a b ∧
    vcmpLane (.fp f) .lt a b = fpCompare f .lt a b ∧ vcmpLane (.fp f) .le a b = fpCompare f .le a b ∧
    vcmpLane (.fp f) .un a b = fpCompare f .un a b

/-! ## The frame of every instruction, special registers, and the system instructions -/

/-- The frame: while the threadlet is still Running after an instruction, only the instruction's destinations have
changed among its scalar registers; predicates, masks, vectors and FPSTAT change only by instructions that set them; no
byte of memory changes but by a local store, SLOTI and FALLOC, in lines with pending updates that AMSG reads an
affinity entry from or a branch the code it leads to (R252), and where a branch begins the zeroing of the page it leads
into (R205); who the threadlet is, the accumulators, TAGLAST, and the landing channels and debug registers but by WRSR,
and every other core's threadlet, stay. -/
def Obligations.InstructionFrame : Prop :=
  ∀ (i : Instr) (s t : State) (r r' : Run), i.isEvent = false → (s.core s.cur).run = some r → exec i s = .next t →
    (t.core s.cur).run = some r' →
    r.SameRegs r' i.dests ∧ (i.setsFlags = false → r.SameFlags r') ∧
    (i.storesNow = false → i.readsNow = false → s.SameBytes t) ∧
    (i.readsNow = true → t.zeroing = s.zeroing → (∀ a, Cells.get t.hostMem a = Cells.get s.hostMem a) ∧
      (∀ n a, Cells.get (t.core n).lmem a = Cells.get (s.core n).lmem a) ∧ (Memory.wf s.mem = true →
        ∀ a, s.bindingAt (a / 128 * 128) = none → Cells.get t.mem a = Cells.get s.mem a)) ∧
    r'.tid = r.tid ∧ r'.fid = r.fid ∧ r'.slot = r.slot ∧ r'.region = r.region ∧ r'.level = r.level ∧
    r'.runleft = r.runleft ∧ (t.core s.cur).accs = (s.core s.cur).accs ∧ (t.core s.cur).accBad = (s.core s.cur).accBad ∧
    (t.core s.cur).taglast = (s.core s.cur).taglast ∧ (t.core s.cur).hold = (s.core s.cur).hold ∧
    ((∀ g a n, i ≠ .wrsr g a n) → (t.core s.cur).land = (s.core s.cur).land ∧ (t.core s.cur).bp = (s.core s.cur).bp ∧
      (t.core s.cur).wp = (s.core s.cur).wp) ∧
    t.cur = s.cur ∧ ∀ n, n ≠ s.cur → (t.core n).run = (s.core n).run

/-- RDSR and WRSR (R103, R375, R417, Tables 4-7 and 18-7): what each number reads, what a write leaves, and the faults
of an unassigned number, a read-only register and a debug register that may not be written, whatever the guard. -/
def Obligations.SpecialRegisters : Prop :=
  (∀ (s : State) (r : Run) (g : Guard) (d a : XReg) (w : Word), s.Issues r g →
    let c := s.core s.cur
    (∀ p ∈ ([(0x000, BitVec.ofNat 64 s.cur),
        (0x001, nodeWord s.brielo.number (coreNode s.cur).1 (coreNode s.cur).2.1 (coreNode s.cur).2.2),
        (0x002, BitVec.ofNat 64 r.region), (0x003, BitVec.ofNat 64 (4096 * r.fid)), (0x008, BitVec.ofNat 64 s.cycle),
        (0x009, BitVec.ofNat 64 s.time), (0x010, r.fpst.setWidth 64),
        (0x011, match s.rmodeOf r.region with | .rne => 0 | .rtz => 1 | .rup => 2 | .rdn => 3 | .rna => 4),
        (0x018, BitVec.ofNat 64 (c.wack r.tid)), (0x019, BitVec.ofNat 64 (c.uack r.tid)),
        (0x01A, BitVec.ofNat 64 (65536 * (64 - c.syms.length) + (256 - c.pool.length))),
        (0x01B, (SMap.get c.taglast r.tid 0).setWidth 64), (0x01C, BitVec.ofNat 64 r.runleft)] :
        List (BitVec 11 × Word)), s.Writes (.rdsr g d p.1) r d p.2 1) ∧
    (∀ k < 32, s.Writes (.rdsr g d (BitVec.ofNat 11 (0x040 + k))) r d (SMap.get c.land k 0) 1) ∧
    (∀ k < 4, s.Writes (.rdsr g d (BitVec.ofNat 11 (0x060 + k))) r d (((SMap.find c.bp k).map (·.val)).getD 0) 1) ∧
    (∀ k < 2, s.Writes (.rdsr g d (BitVec.ofNat 11 (0x068 + k))) r d (((SMap.find c.wp k).map (·.val)).getD 0) 1) ∧
    (r.get a = .known w →
      s.Becomes (.wrsr g a 0x010) (({ r with fpst := w.setWidth 8 &&& 0x3F } : Run).past 1) ∧
      (∀ k < 32, exec (.wrsr g a (BitVec.ofNat 11 (0x040 + k))) s = .next (s.setCore s.cur { c with
        run := some (r.past 1), land := SMap.set c.land k w })) ∧
      (s.debugOf r.region = 3 ∨ s.debugOf r.region = 4 ∨ r.priv = true →
        (∀ k < 4, exec (.wrsr g a (BitVec.ofNat 11 (0x060 + k))) s = .next (s.setCore s.cur { c with
          run := some (r.past 1),
          bp := SMap.set c.bp k ⟨w &&& ~~~ (0x3000000000000000 : Word), r.priv, r.region⟩ })) ∧
        ∀ k < 2, exec (.wrsr g a (BitVec.ofNat 11 (0x068 + k))) s = .next (s.setCore s.cur { c with
          run := some (r.past 1),
          wp := SMap.set c.wp k ⟨w &&& ~~~ (0x1C00000000000000 : Word), r.priv, r.region⟩ }))) ∧
    ((r.get a).isLate → s.Parks (.wrsr g a 0x010) r [r.get a])) ∧
  ∀ (s : State) (r : Run) (g : Guard) (d a : XReg), (s.core s.cur).run = some r →
    (∀ n : BitVec 11, n ∉ ([0x000, 0x001, 0x002, 0x003, 0x008, 0x009, 0x010, 0x011, 0x018, 0x019, 0x01A, 0x01B, 0x01C] :
        List (BitVec 11)) → ¬ (0x040 ≤ n.toNat ∧ n.toNat ≤ 0x05F) → ¬ (0x060 ≤ n.toNat ∧ n.toNat ≤ 0x063) →
      ¬ (0x068 ≤ n.toNat ∧ n.toNat ≤ 0x069) → s.Faults (.rdsr g d n) r 0x01 0 0 ∧ s.Faults (.wrsr g a n) r 0x01 0 0) ∧
    (∀ n ∈ ([0x000, 0x001, 0x002, 0x003, 0x008, 0x009, 0x011, 0x018, 0x019, 0x01A, 0x01B, 0x01C] : List (BitVec 11)),
      s.Faults (.wrsr g a n) r 0x02 0 0) ∧
    (s.debugOf r.region ≠ 3 → s.debugOf r.region ≠ 4 → r.priv = false →
      (∀ k < 4, s.Faults (.wrsr g a (BitVec.ofNat 11 (0x060 + k))) r 0x02 0 0) ∧
      ∀ k < 2, s.Faults (.wrsr g a (BitVec.ofNat 11 (0x068 + k))) r 0x02 0 0)

/-- RGNCTL, TLBINV, WAYCFG and RESUME in a block with PRIV = 0 raise the privileged fault, whatever their guard and
operands (R104, R95). SYMQ (R394); RGNCTL (R378) and RESUME (R305, R377) as releases, TLBINV (R395) and WAYCFG (R415),
in a block with PRIV = 1: what each reads, sends or leaves pending, and the faults of their operands. That the packets
of RGNCTL and RESUME travel in class REQ is the model's choice (log entry 81; WAYCFG's is R416's own). The model's own
choices and inferences: log entries 13, 43 and 81. -/
def Obligations.SystemInstructions : Prop :=
  (∀ (s : State) (r : Run) (g : Guard) (a b : XReg), (s.core s.cur).run = some r → r.priv = false →
     ∀ i ∈ ([.rgnctlAct g a b, .rgnctlCfg g a b, .rgnctlSusp g a b, .rgnctlRes g a b, .rgnctlDel g a b, .tlbinvPg g a b,
       .tlbinvAs g b, .tlbinvAll g, .waycfg g a b, .resume g a, .resumeAbt g a, .resumeRpl g a, .resumeDrp g a] : List Instr),
       s.Faults i r 0x02 0 0) ∧
  ∀ (s : State) (r : Run) (g : Guard) (d a b xg y : XReg), s.Issues r g →
    let c := s.core s.cur
    let leaves (k : BarrierKind) : State :=
      s.setCore s.cur { s.issued r 1 with barriers := c.barriers ++ [⟨c.nextSeq, r.origin, k, []⟩] }
    let awaiting (i : Nat) : Nat := if (SMap.find c.syms i).map (·.st) = some .awaiting then 1024 else 0
    (∀ w : Word, r.get a = .known w → s.Writes (.symq g d a) r d 0 1) ∧
    (∀ (i : Nat) (p q : Word), i < 64 → r.get a = .form i p q → s.Writes (.symq g d a) r d
      (BitVec.ofNat 64 (2 ^ 62 + (if p = 1 ∧ q = 0 then 2 ^ 15 else 0) + awaiting i + i)) 1) ∧
    (∀ (i : Nat) (st : List ChainStep), i < 64 → st.length ≤ 4 → r.get a = .chain i st → s.Writes (.symq g d a) r d
      (BitVec.ofNat 64 (2 ^ 63 + 4096 * st.length + awaiting i + i)) 1) ∧
    (r.priv = true →
      (let forms : List (Instr × Nat) :=
         [(.rgnctlAct g xg y, 0), (.rgnctlCfg g xg y, 1), (.rgnctlSusp g xg y, 2), (.rgnctlRes g xg y, 3),
          (.rgnctlDel g xg y, 4)]
       ∀ p ∈ forms, ∀ rcb arg ref : Word, r.group xg 2 = [.known rcb, .known arg] → r.get y = .known ref →
        (y ≠ 0 → s.refOk ref = false → s.Faults p.1 r 0x09 0 0) ∧
        ((y ≠ 0 → s.refOk ref = true) → c.acqPending r.tid = [] → s.effectsResolved r = .ok () →
          let rel : BarrierKind := .release (s.opOf r (.rgnctl p.2 rcb arg ref))
          (c.barrierMet ⟨c.nextSeq, r.origin, rel, []⟩ = true →
            s.Sends p.1 r .req .service (.rgnctl p.2 rcb arg ref r.origin)) ∧
          (c.barrierMet ⟨c.nextSeq, r.origin, rel, []⟩ = false → s.stageRoom r = .ok () → c.comb = [] →
            exec p.1 s = .next (leaves rel)))) ∧
      (∀ p ∈ ([(.resume g a, 0), (.resumeAbt g a, 1), (.resumeRpl g a, 2), (.resumeDrp g a, 3)] : List (Instr × Nat)),
        ((r.get a).isLate → s.Parks p.1 r [r.get a]) ∧
        ∀ t : Word, r.get a = .known t →
          (t.extractLsb' 43 19 ≠ 0 ∨ t.extractLsb' 5 3 ≠ 0 ∨ (t.extractLsb' 62 2).toNat ≠ (if p.2 ≤ 1 then 1 else 2) →
            s.Faults p.1 r 0x09 0 0) ∧
          (t.extractLsb' 43 19 = 0 → t.extractLsb' 5 3 = 0 → (t.extractLsb' 62 2).toNat = (if p.2 ≤ 1 then 1 else 2) →
            c.acqPending r.tid = [] → s.effectsResolved r = .ok () →
            c.barrierMet ⟨c.nextSeq, r.origin, .release (s.opOf r (.resume p.2 t)), []⟩ = true →
            s.Sends p.1 r .req (.core (t.extractLsb' 32 11).toNat) (.resume p.2 t r.origin))) ∧
      (∀ va w : Word, r.get a = .known va → r.get b = .known w →
        (w.extractLsb' 16 48 ≠ 0 ∨ w.extractLsb' 0 16 = 0 →
          s.Faults (.tlbinvPg g a b) r 0x07 0 0 ∧ s.Faults (.tlbinvAs g b) r 0x07 0 0) ∧
        ∀ n : Nat, w = BitVec.ofNat 64 n → 1 ≤ n → n < 65536 →
          (2 ^ 52 ≤ va.toNat → s.Faults (.tlbinvPg g a b) r 0x05 va.toNat 0) ∧
          (va.toNat < 2 ^ 52 → (r.region = 1 ∨ ∃ k x, (k, x) ∈ s.regions ∧ x.asid = n ∧ s.domainOf k = some r.region) →
            exec (.tlbinvPg g a b) s = .next (leaves (.tlbinvPg n va.toNat)) ∧
            exec (.tlbinvAs g b) s = .next (leaves (.tlbinvAs n))) ∧
          (va.toNat < 2 ^ 52 → r.region ≠ 1 → (∀ k x, (k, x) ∈ s.regions → x.asid = n → s.domainOf k ≠ some r.region) →
            s.Faults (.tlbinvPg g a b) r 0x05 0 0 ∧ s.Faults (.tlbinvAs g b) r 0x05 0 0)) ∧
      (r.region = 1 → exec (.tlbinvAll g) s = .next (leaves .tlbinvAll)) ∧
      (r.region ≠ 1 → s.Faults (.tlbinvAll g) r 0x05 0 0 ∧ s.Faults (.waycfg g a b) r 0x05 0 0) ∧
      (r.region = 1 → ∀ x yy w : Nat, r.get a = .known (BitVec.ofNat 64 (x + 32 * yy)) → r.get b = .known (BitVec.ofNat 64 w) →
        x < 32 → yy < 32 → w < 16 →
        (x ∉ ([0, 9, 10, 19] : List Nat) → s.Faults (.waycfg g a b) r 0x09 0 0) ∧
        (x ∈ ([0, 9, 10, 19] : List Nat) → 12 < w → s.Faults (.waycfg g a b) r 0x07 0 0) ∧
        (x ∈ ([0, 9, 10, 19] : List Nat) → w ≤ 12 → s.MayIssue r →
          ∃ t sl, exec (.waycfg g a b) s = .next t ∧ sl < 128 ∧ sliceNode sl = (x, yy) ∧
            t.net = s.net ++ [⟨.req, .core s.cur, .slice sl, r.region, .waycfg c.nextSeq w⟩] ∧
            t.core s.cur = { s.issued r 1 with outst := c.outst ++ [s.opOf r (.waycfg sl w)] } ∧ s.SameBytes t)))

/-! ## Events -/

/-- A signal's arrival at a Resident frame (R48, R52): it decrements its slot, keeping ERR, and the slot it brings to
zero fires; a slot that is not armed or holds too little, and a frame that does not exist, are reported. A message
(R60) is delivered into a new frame with its address and payload from word 4 on, while the region has a frame that no
earlier one waits for; one whose handler's header fails a check is reported, and one whose handler's page is being
zeroed waits. A record for the service core is kept (R282); RESUME and RESUME.ABT of a Held threadlet make it Ready or
abort it, and a token of nothing is a bad reference (R305). A start entry of an overflow segment returns to the ready
queue (R63), and one with a nonzero reserved field, there or in the segment's header, is the format fault (R6). The
model's own choices and inferences: log entries 5, 21, 56, 63 and 78. -/
def Obligations.ArrivalEvents : Prop :=
  (∀ (s : State) (k n rgn dec fid slot entry pcls count : Nat) (src : Agent) (ref : Word) (rel err e armed : Bool) (f : Frame),
    s.packet k = some ⟨.sig, src, .core n, rgn, .signal ref dec .none rel err⟩ → (Ref.of ref).fid = fid →
    (Ref.of ref).slot = slot → (s.core n).frame fid = some f → f.st = .resident → 4 ≤ slot → slot < frameWords f.cls →
    (∀ x ∈ (s.core n).refq, x.fid ≠ fid) → touches (s.core n).lpoison (f.base + 8 * slot) 8 = false →
    Memory.wf (s.core n).lmem = true → entry < 2 ^ 28 → pcls < 4 → count < 2 ^ 24 →
    (s.core n).word (f.base + 8 * slot) = Slot.word ⟨entry, pcls, e, armed, count⟩ →
    (armed = true → dec < count → ∃ t, exec (.signalArrival k) s = .next t ∧ t.net = s.net.eraseIdx k ∧
      (t.core n).word (f.base + 8 * slot) = Slot.word ⟨entry, pcls, e || err, true, count - dec⟩ ∧
      (∀ a, a < f.base + 8 * slot ∨ f.base + 8 * slot + 8 ≤ a →
        Cells.get (t.core n).lmem a = Cells.get (s.core n).lmem a) ∧ (t.core n).ready = (s.core n).ready ∧ t.mem = s.mem) ∧
    (armed = true → dec = count → (s.core n).ready.length < 1024 → ∃ t, exec (.signalArrival k) s = .next t ∧
      (t.core n).word (f.base + 8 * slot) = Slot.word ⟨entry, pcls, e || err, false, 0⟩ ∧
      (t.core n).ready = (s.core n).ready ++
        [⟨fid, slot, f.region, s.levelOf f.region pcls, s.levelOf f.region pcls, s.time, false⟩]) ∧
    (armed = false ∨ count < dec → s.domainOf f.region = some 1 → ∃ t, exec (.signalArrival k) s = .next t ∧
      t.SameCores s ∧ t.Reports 0x08 3 (.core n))) ∧
  (∀ (s : State) (k n rgn dec : Nat) (src : Agent) (ref : Word) (d : SigData) (rel err : Bool),
    s.packet k = some ⟨.sig, src, .core n, rgn, .signal ref dec d rel err⟩ → (s.core n).frame (Ref.of ref).fid = none →
    s.domainOf rgn = some 1 → ∃ t, exec (.signalArrival k) s = .next t ∧ t.SameCores s ∧ t.Reports 0x09 3 (.core n)) ∧
  (∀ (s : State) (k n rgn handler fid base : Nat) (src : Agent) (addr : Word) (payload : List Word) (q : Option Nat) (rg : Region)
    (arena : Nat), s.packet k = some ⟨.sig, src, .core n, rgn, .amsg handler addr payload q⟩ → payload.length = 6 →
    (∀ code, s.checkHandler n rgn (s.handlerVa rgn handler) = .error (.fault code) → s.domainOf rgn = some 1 →
      ∃ t, exec (.activeMessageDelivery k) s = .next t ∧ t.SameCores s ∧ t.Reports 0x15 3 (.core n)) ∧
    (∀ z, s.checkHandler n rgn (s.handlerVa rgn handler) = .error (.page z) →
      exec (.activeMessageDelivery k) s = .next (s.awaitPage z)) ∧
    ∀ h : Header, s.checkHandler n rgn (s.handlerVa rgn handler) = .ok h → (s.core n).ready.length < 1024 →
      s.frameToSpare n rgn = true →
      Memory.wf (s.core n).lmem = true → s.region rgn = some rg → s.arenaSlot n rg = some arena →
      (s.core n).freeFid = some fid → (s.core n).residentOf rgn < rg.fquota → s.freeRun n h.fcls = some base →
      ∃ t f, exec (.activeMessageDelivery k) s = .next t ∧ (t.core n).frame fid = some f ∧ f.st = .resident ∧
        f.region = rgn ∧ f.cls = h.fcls ∧ f.base = base ∧ f.handler = handler ∧
        Cells.read (t.core n).lmem (base + 32) 56 = bytesOfWords (addr :: payload) ∧
        (t.core n).ready = (s.core n).ready ++ [⟨fid, 0, rgn, s.levelOf rgn 0, s.levelOf rgn 0, s.time, false⟩]) ∧
  (∀ (s : State) (k rgn dom h : Nat) (src : Agent) (ws : List Word),
    s.packet k = some ⟨.sig, src, .service, rgn, .record dom h ws⟩ → ∃ t, exec (.faultRecordDelivery k) s = .next t ∧
      t.service.records = s.service.records ++ [ws] ∧ t.SameCores s ∧ t.net = s.net.eraseIdx k) ∧
  (∀ (s : State) (k n fid : Nat) (src : Agent) (token : Word) (org : Origin) (form : Nat),
    s.packet k = some ⟨.req, src, .core n, org.region, .resume form token org⟩ → org.region = 1 →
    token = BitVec.ofNat 64 (2 ^ 62 + n * 2 ^ 32 + fid * 2 ^ 16) → n < 2048 → fid < 65536 →
    (∀ (f : Frame) (p : Parked), (s.core n).frame fid = some f → f.parked = some p → p.wait = .faultDomain → p.ready = false →
      (form = 0 → f.st = .resident → (s.core n).ready.length < 1024 → ∃ t, exec (.resumeAct k) s = .next t ∧
        (t.core n).frame fid = some { f with parked := some { p with ready := true } } ∧
        (t.core n).ready = (s.core n).ready ++ [⟨fid, p.slot, f.region, p.level, p.level, s.time, true⟩]) ∧
      (form = 1 → p.tid ∉ f.ownFree → f.snap = none → ∃ t, exec (.resumeAct k) s = .next t ∧
        (t.core n).frame fid = some { f with parked := none } ∧
        (f.st = .resident → Memory.wf (s.core n).lmem = true → (t.core n).word (f.base + 16) = 0) ∧ ∀ e ∈ (t.core n).ready, ¬ (e.fid = fid ∧ e.resume = true))) ∧
    ((s.core n).frame fid = none → form ≤ 1 → s.domainOf 1 = some 1 → ∃ t, exec (.resumeAct k) s = .next t ∧
      t.SameCores s ∧ t.Reports 0x09 9 (.core n))) ∧
  ∀ (s : State) (n rgn : Nat) (g : Region) (ws : List Word), s.region rgn = some g → s.segmentEntry g n 0 = some ws →
    (ws.headD 0).extractLsb' 60 4 ≠ 15 →
    (s.segmentOk g n = false → s.domainOf rgn = some 1 → ∃ t, exec (.overflowEntryTake n rgn 0) s = .next t ∧
      t.SameCores s ∧ s.SameBytes t ∧ t.Reports 0x07 3 (.core n)) ∧
    (s.segmentOk g n = true → entryOk ws = false → s.domainOf rgn = some 1 →
      ∃ t, exec (.overflowEntryTake n rgn 0) s = .next t ∧ (t.core n).ready = (s.core n).ready ∧
        (t.core n).frames = (s.core n).frames ∧ t.Reports 0x07 3 (.core n)) ∧
    ∀ fid slot lvl time : Nat, s.segmentOk g n = true → entryOk ws = true → fid < 65536 → slot < 4096 → lvl < 4 →
      rgn < 65536 → time < 2 ^ 64 →
      ws.take 2 = [BitVec.ofNat 64 (lvl * 2 ^ 58 + rgn * 2 ^ 32 + fid * 2 ^ 16 + slot), BitVec.ofNat 64 time] →
      (s.core n).ready.length < 1024 → ∃ t e, exec (.overflowEntryTake n rgn 0) s = .next t ∧
        (t.core n).ready.length = (s.core n).ready.length + 1 ∧ (t.core n).ready.getLast? = some e ∧
        e.fid = fid ∧ e.slot = slot ∧ e.region = rgn ∧ e.level = lvl ∧ e.pushed = time ∧ e.resume = false

/-- An entry selected from a queue of its own starts its threadlet at its block, with its live registers, the frame's
handle in x30 and its base in x31 (R53, R90), unless its frame's header has a nonzero reserved bit, which is the format
fault (R6; log entry 78); entries age by one level for every 2,000 ns (R288); a run budget used up parks with cause 3
(R55); a PARK whose TIME has come becomes Ready (R371); where the controllers of its arena slot may do the work (R293),
a write-out puts the frame's bytes into the slot (R44) and a refill brings them back (R45), with no update stream bound
there; and a frame whose FFREE waits is released once nothing more is to be written into it (R46). That FPSTAT is zero
at a start is the model's choice (log entry 2). The model's own choices and inferences: log entries 2, 5, 56, 69 and 78. -/
def Obligations.ThreadletEvents : Prop :=
  (∀ (s : State) (n : Nat) (e : ReadyEntry) (f : Frame) (rg : Region) (h : Header) (entry pcls count : Nat) (er ar : Bool),
    n < 2048 → (s.core n).zeroing = false → (s.core n).run = none → (s.core n).ready = [e] → (s.core n).drr = [] →
    e.resume = false → s.region e.region = some rg → s.suspended e.region = false → rg.cycbud = 0xFFFF → 1 ≤ rg.rqw →
    (s.core n).frame e.fid = some f → f.st = .resident → e.slot ≠ 0 → (s.core n).lpoison = [] → entry < 2 ^ 28 → pcls < 4 →
    count < 2 ^ 24 → (s.core n).word (f.base + 8 * e.slot) = Slot.word ⟨entry, pcls, er, ar, count⟩ →
    s.codebase e.region + 16 * entry < 2 ^ 64 →
    s.checkEntry n e.region (frameWords f.cls) (s.codebase e.region + 16 * entry) = .ok h → h.live ≤ 8 →
    h.loff + h.live ≤ frameWords f.cls →
    let w (i : Nat) : Word := (s.core n).word (f.base + 8 * i)
    let clean : Prop := (w 0).extractLsb' 19 45 = 0 ∧ (w 1).extractLsb' 16 48 = 0 ∧ (w 2).extractLsb' 16 48 = 0 ∧ w 3 = 0
    (¬ clean → s.domainOf e.region = some 1 → ∃ t, exec (.readyEntrySelect n) s = .next t ∧ (t.core n).run = none ∧
      (t.core n).ready = [] ∧ t.Reports 0x07 3 (.core n)) ∧
    (clean → ∃ t r, exec (.readyEntrySelect n) s = .next t ∧ (t.core n).run = some r ∧ (t.core n).ready = [] ∧
      r.tid = (s.core n).nextTid ∧ (t.core n).nextTid = (s.core n).nextTid + 1 ∧ r.fid = e.fid ∧ r.slot = e.slot ∧
      r.region = e.region ∧ r.level = e.level ∧ r.block = s.codebase e.region + 16 * entry ∧ r.len = h.len ∧
      r.parkw = h.parkw ∧ r.vuse = h.vuse ∧ r.priv = h.priv ∧ r.idx = 0 ∧ r.p = 0 ∧ r.fpst = 0 ∧ r.rep = none ∧
      r.runleft = 65536 ∧ (∀ i, 1 ≤ i → i ≤ h.live → r.reg i = .known ((s.core n).word (f.base + 8 * (h.loff + (i - 1))))) ∧
      (∀ i, h.live < i → i < 30 → r.reg i = .known 0) ∧
      r.reg 30 = .known (BitVec.ofNat 64 (e.fid * 2 ^ 12) ||| BitVec.ofNat 64 e.slot) ∧
      r.reg 31 = .known (BitVec.ofNat 64 f.base) ∧ (∀ m : MReg, m ≠ 0 → r.mask m = 0) ∧ ∀ v : VReg, r.vec v = 0)) ∧
  (∀ (s : State) (n : Nat), ∃ t, exec (.entryAging n) s = .next t ∧ (t.core n).ready = (s.core n).ready.map fun e =>
    { e with lvl := min 3 (e.level + (s.time - e.pushed) / 2000) }) ∧
  (∀ (s : State) (n : Nat) (r : Run), (s.core n).run = some r →
    (r.runleft = 0 → exec (.runleftExpiry n) s = .next (s.park n r 0 3 .atOnce)) ∧
    (r.runleft ≠ 0 → exec (.runleftExpiry n) s = .next s)) ∧
  (∀ (s : State) (n fid time : Nat) (f : Frame) (p : Parked), (s.core n).frame fid = some f → f.parked = some p →
    p.wait = .time time → p.ready = false →
    (s.time < time → exec (.parkTimeExpiry n fid) s = .next s) ∧
    (time ≤ s.time → f.st = .resident → (s.core n).ready.length < 1024 → ∃ t, exec (.parkTimeExpiry n fid) s = .next t ∧
      (t.core n).frame fid = some { f with parked := some { p with ready := true } } ∧
      (t.core n).ready = (s.core n).ready ++ [⟨fid, p.slot, f.region, p.level, p.level, s.time, true⟩])) ∧
  (∀ (s : State) (n fid : Nat) (f : Frame) (bs : List Byte) (bad : List Nat), (s.core n).frame fid = some f →
    f.snap = some (bs, bad) → Memory.wf s.mem = true → s.hkMay 2 (s.stacksOf f.arena f.bytes) = true →
    (∀ x ∈ (s.core n).frames, x.2.zero = false) → (∀ l ∈ linesOf f.arena bs.length, s.bindingAt (l * 128) = none) →
    ∃ t, exec (.spillWriteOutComplete n fid) s = .next t ∧
      (t.core n).frame fid = some { f with snap := none } ∧ Cells.read t.mem f.arena bs.length = bs ∧
      (∀ a, a < f.arena ∨ f.arena + bs.length ≤ a → Cells.get t.mem a = Cells.get s.mem a) ∧
      ∀ i ∈ bad, f.arena / 8 + i ∈ t.poison) ∧
  (∀ (s : State) (n fid : Nat) (f : Frame), (s.core n).frame fid = some f → f.st = .refilling → f.snap = none →
    f.placed = true → f.zero = false → f.parked = none → (s.core n).othersIn fid f.base f.bytes = [] →
    (∀ x ∈ (s.core n).refq, x.fid ≠ fid) → s.lost = [] → Memory.wf (s.core n).lmem = true →
    s.hkMay 1 (s.stacksOf f.arena f.bytes) = true → (∀ l ∈ linesOf f.arena f.bytes, s.bindingAt (l * 128) = none) →
    ∃ t, exec (.refillComplete n fid) s = .next t ∧
      (t.core n).frame fid = some { f with st := .resident, placed := false } ∧
      Cells.read (t.core n).lmem f.base f.bytes = Cells.read s.mem f.arena f.bytes ∧
      ∀ a, a < f.base ∨ f.base + f.bytes ≤ a → Cells.get (t.core n).lmem a = Cells.get (s.core n).lmem a) ∧
  ∀ (s : State) (n fid : Nat) (f : Frame), (s.core n).frame fid = some f → f.freeing = true →
    SMap.Rising (s.core n).frames →
    ((s.core n).splitPhase s.fstore fid = false → ∃ t, exec (.frameRelease n fid) s = .next t ∧ (t.core n).frame fid = none ∧
      s.SameBytes t) ∧
    ((s.core n).splitPhase s.fstore fid = true → exec (.frameRelease n fid) s = .next s)

/-- What comes back to a core. A late load's value replaces every form over its symbol in the Running threadlet's
registers, and an atomic's with TAGLAST (R75, R218, R331); a deferred effect over a resolved symbol is performed with
its values (R76); a failed late load makes its owner Held with its record (R86); an acknowledgement ends a write with
its tag (R217, R218) and an acceptance counts an update's pair (R245); GLD's data lands and its reference is signalled
(R354), in class RSP to a slot of its own core (Table 1-2); a barrier whose condition holds passes, a TLBINV's only
once no walk it covers waits for its page to be zeroed (R205, R221, R358, R396); and a combiner buffer that has taken
no pair for 16 core cycles is injected (R244). The model's own choices and inferences: log entries 5, 15 and 19. -/
def Obligations.ReturnEvents : Prop :=
  (∀ (s : State) (k n id va size rgn i : Nat) (src : Agent) (u : Bool) (o : Op) (data : List Byte) (x : Sym) (r : Run),
    s.packet k = some ⟨.rsp, src, .core n, rgn, .readRsp id data [] 0⟩ → (s.core n).outstanding id = some o →
    o.body = .ldl va size u (some i) → SMap.find (s.core n).syms i = some x → (s.core n).run = some r → SMap.Rising r.x →
    let v : Word := extend u size (natOf data)
    ∃ t r', exec (.symbolValueArrival k) s = .next t ∧ (t.core n).run = some r' ∧ s.SameBytes t ∧
      (t.core n).outst = (s.core n).outst.filter (·.id != o.id) ∧
      (∀ j p q, 1 ≤ j → r.reg j = .form i p q → r'.reg j = .known (p * v + q)) ∧
      ∀ j, (r.reg j).symbol ≠ some i → r'.reg j = r.reg j) ∧
  (∀ (s : State) (k n id va size rgn i : Nat) (src : Agent) (o : Op) (kd : AtomKind) (a c old : BitVec 128) (tag : BitVec 32)
    (x : Sym) (r : Run), s.packet k = some ⟨.rsp, src, .core n, rgn, .atomRsp id old false tag⟩ →
    (s.core n).outstanding id = some o → o.body = .atom kd va size a c (some i) none → size = 4 ∨ size = 8 →
    SMap.find (s.core n).syms i = some x → (s.core n).run = some r → SMap.Rising r.x →
    ∃ t r', exec (.symbolValueArrival k) s = .next t ∧ (t.core n).run = some r' ∧
      SMap.find (t.core n).taglast o.org.tid = some tag ∧
      ∀ j p q, 1 ≤ j → r.reg j = .form i p q → r'.reg j = .known (p * BitVec.ofNat 64 (old.toNat % 2 ^ (8 * size)) + q)) ∧
  (∀ (s : State) (n k i seq dec : Nat) (org : Origin) (p q v w : Word) (x : Sym) (sz : Size),
    SMap.find (s.core n).syms i = some x → x.st = .resolving v → (s.core n).run = none →
    (∀ b ∈ (s.core n).barriers, b.org.tid ≠ org.tid) →
    ((s.core n).pool = [(k, ⟨seq, org, .effect (.sig false dec) [.form i p q]⟩)] → s.refOk (p * v + q) = true →
      s.Reaches (s.refAgent (Ref.of (p * v + q))) → ∃ t, exec (.deferredEffectPerform n) s = .next t ∧
        t.net = s.net ++ [⟨.sig, .core n, s.refAgent (Ref.of (p * v + q)), org.region,
          .signal (p * v + q) dec .none false false⟩] ∧ (t.core n).pool = [] ∧ s.SameBytes t) ∧
    ((s.core n).pool = [(k, ⟨seq, org, .effect (.gst sz false) [.form i p q, .known w]⟩)] → (s.core n).wp = [] →
      (p * v + q).toNat < 2 ^ 52 → (p * v + q).toNat % sz.bytes = 0 → ∃ t, exec (.deferredEffectPerform n) s = .next t ∧
        (t.core n).src = (s.core n).src ++ [
          { id := (s.core n).nextSeq, seq := seq, org := org, deferred := true, far := false,
            body := .gst (p * v + q).toNat sz.bytes w none }] ∧ (t.core n).pool = [] ∧ s.SameBytes t)) ∧
  (∀ (s : State) (n i code addr : Nat) (x : Sym) (r : Run) (f : Frame), n < 2048 → SMap.find (s.core n).syms i = some x →
    x.st = .failed code addr → 0 < code → code < 256 → (s.core n).run = some r → r.tid = x.tid → r.parkw ≠ 0 →
    (s.core n).frame r.fid = some f → s.domainOf r.region = some 1 →
    ∃ t f' p, exec (.lateLoadFail n i) s = .next t ∧ (t.core n).run = none ∧ (t.core n).frame r.fid = some f' ∧
      f'.parked = some p ∧ p.cause = 6 ∧ p.wait = .faultDomain ∧ p.tid = r.tid ∧
      t.Reports code (if code = 9 then 8 else if code = 0x14 then 5 else 0) (.core n)) ∧
  (∀ (s : State) (k n id va size rgn : Nat) (src : Agent) (o : Op) (data : Word) (tag : BitVec 32) (at_ : Option Nat),
    s.packet k = some ⟨.rsp, src, .core n, rgn, .ack id (some tag) 0⟩ → (s.core n).outstanding id = some o →
    o.body = .gst va size data at_ → Memory.wf (s.core n).lmem = true →
    (∀ a, at_ = some a → s.localOk n o.org.fid a 4 true = true) →
    ∃ t, exec (.writeAckArrival k) s = .next t ∧
      (t.core n).outst = ((s.core n).outst.filter (·.id != o.id)).map (·.shadedBy o) ∧
      SMap.find (t.core n).taglast o.org.tid = some tag ∧ (at_ = none → s.SameBytes t) ∧
      ∀ a, at_ = some a → Cells.read (t.core n).lmem a 4 = bytesOf 4 tag.toNat ∧
        ∀ b, b < a ∨ a + 4 ≤ b → Cells.get (t.core n).lmem b = Cells.get (s.core n).lmem b) ∧
  (∀ (s : State) (k n u rgn : Nat) (src : Agent) (x : UpdInst), SMap.Rising (s.core n).upds →
    s.packet k = some ⟨.rsp, src, .core n, rgn, .accepted [u]⟩ → SMap.find (s.core n).upds u = some x →
    ∃ t, exec (.updateAcceptanceArrival k) s = .next t ∧ s.SameBytes t ∧
      SMap.find (t.core n).upds u = if x.left ≤ 1 then none else some { x with left := x.left - 1 }) ∧
  (∀ (s : State) (k n id va loc rgn : Nat) (src : Agent) (o : Op) (lu byt : Bool) (evp : Evp) (y : Word) (data : List Byte),
    s.packet k = some ⟨.rsp, src, .core n, rgn, .readRsp id data [] 0⟩ → (s.core n).outstanding id = some o →
    o.body = .gld va loc data.length lu evp y byt → s.localOk n o.org.fid loc data.length true = true →
    Memory.wf (s.core n).lmem = true →
    (y ≠ 0 → s.routeOk (Ref.of y).module = true ∧ s.Reaches (s.refAgent (Ref.of y))) →
    ∃ t, exec (.gldLanding k) s = .next t ∧ Cells.read (t.core n).lmem loc data.length = data ∧
      (∀ b, b < loc ∨ loc + data.length ≤ b → Cells.get (t.core n).lmem b = Cells.get (s.core n).lmem b) ∧
      t.mem = s.mem ∧ (t.core n).outst = (s.core n).outst.filter (·.id != o.id) ∧
      (y = 0 → t.net = s.net.eraseIdx k) ∧
      (y ≠ 0 → t.net = s.net.eraseIdx k ++ [⟨if s.refAgent (Ref.of y) = .core n then .rsp else .sig, .core n,
        s.refAgent (Ref.of y), o.org.region, .signal y (if byt then data.length else 1) .none false false⟩])) ∧
  (∀ (s : State) (n i : Nat) (b : Barrier), (s.core n).barriers[i]? = some b →
    ((s.core n).barrierMet b = false → exec (.barrierConditionMet n i) s = .next s) ∧
    ((s.core n).barrierMet b = true → (s.core n).stage = [] →
      (∀ w u e sc, b.kind = .fence w u e sc → exec (.barrierConditionMet n i) s
        = .next (s.setCore n { s.core n with barriers := (s.core n).barriers.eraseIdx i })) ∧
      (b.kind = .iflushAll → ∃ t, exec (.barrierConditionMet n i) s = .next t ∧
        (t.core n).barriers = (s.core n).barriers.eraseIdx i ∧ ∀ m, (t.chip m).icache = []) ∧
      (∀ z : Zeroing, z ∈ s.zeroing → z.walks ≠ [] → b.kind = .tlbinvAll → exec (.barrierConditionMet n i) s = .next s) ∧
      (b.kind = .tlbinvAll → (∀ z : Zeroing, z ∈ s.zeroing → z.walks = []) → ∃ t, exec (.barrierConditionMet n i) s = .next t ∧
        (t.core n).barriers = (s.core n).barriers.eraseIdx i ∧ (∀ m, (t.core m).tlb = []) ∧ ∀ m, (t.chip m).tlb = []) ∧
      (∀ o ref dec d rel err, b.kind = .release o → o.body = .signal ref dec d rel err →
        s.routeOk (Ref.of ref).module = true → s.Reaches (s.refAgent (Ref.of ref)) →
        ∃ t, exec (.barrierConditionMet n i) s = .next t ∧ (t.core n).barriers = (s.core n).barriers.eraseIdx i ∧
          t.net = s.net ++ [⟨.sig, .core n, s.refAgent (Ref.of ref), o.org.region, .signal ref dec d rel err⟩]))) ∧
  ∀ (s : State) (n m : Nat) (p : UPair) (buf : List UPair), SMap.find (s.core n).comb m = some (p :: buf) →
    SMap.Rising (s.core n).comb →
    (SMap.get (s.core n).combAt m 0 + 16 ≤ s.cycle → ∃ t, exec (.combinerTimeout n m) s = .next t ∧
      SMap.find (t.core n).comb m = none ∧
      t.net = s.net ++ [⟨.upd, .core n, .eddy m, p.region, .updates (p :: buf)⟩] ∧ s.SameBytes t) ∧
    (s.cycle < SMap.get (s.core n).combAt m 0 + 16 → exec (.combinerTimeout n m) s = .next s)

/-- Home slices and translation, for accesses to HBM4 with no binding and no dropped line: a read returns the bytes
and their poison and changes none (R214); a write stores its bytes at its address and no others, and is acknowledged
with the slice's next tag (R217, R218); an atomic reads and writes in one step by its kind (R215, R331); PREF
allocates its line (R373); WAYCFG is refused, begins a conversion, or discards ways at once (R416), and a conversion's
ways are zero (R202). An access that translates is injected toward its home slice, and one that does not is held in a
replay entry with its record (R209, R211); an operation of the fault-wait list takes a freed entry; and, where the
controllers of a page may do the work (R293), the zeroed page reads as zero and its entry stands with ZS = 0 and is
otherwise as it was (R205). The model's own choices and inferences: log entries 1, 5, 9, 56 and 69. -/
def Obligations.MemoryEvents : Prop :=
  (∀ (s : State) (k i n rgn op pa size : Nat) (evp : Evp), s.bindings = [] → s.lost = [] → pa + size ≤ asTable →
    (s.packet k = some ⟨.req, .core n, .slice i, rgn, .read op pa size false evp .wb⟩ →
      ∃ t, exec (.homeSliceRead k) s = .next t ∧ s.SameBytes t ∧ t.cores = s.cores ∧
        t.net = s.net.eraseIdx k ++ [⟨.rsp, .slice i, .core n, rgn,
          .readRsp op (Cells.read s.mem pa size) (s.badAt pa size) 0⟩]) ∧
    (s.packet k = some ⟨.req, .core n, .host, rgn, .read op pa size false evp .wb⟩ →
      ∃ t, exec (.homeSliceRead k) s = .next t ∧ s.SameBytes t ∧
        t.net = s.net.eraseIdx k ++ [⟨.rsp, .host, .core n, rgn, .readRsp op (Cells.read s.hostMem pa size) [] 0⟩]) ∧
    (∀ data : List Byte, data.length = size → Memory.wf s.mem = true → s.hostLines.contains (lineOf pa) = false →
      s.packet k = some ⟨.req, .core n, .slice i, rgn, .write op pa (data.map some) [] evp .wb⟩ →
      ∃ t, exec (.homeSliceWrite k) s = .next t ∧ Cells.read t.mem pa size = data ∧
        (∀ a, a < pa ∨ pa + size ≤ a → Cells.get t.mem a = Cells.get s.mem a) ∧ t.hostMem = s.hostMem ∧
        t.cores = s.cores ∧ (t.slice i).seq = (s.slice i).seq + 1 ∧
        t.net = s.net.eraseIdx k ++ [⟨.rsp, .slice i, .core n, rgn, .ack op (some ((s.slice i).seq + 1)) 0⟩]) ∧
    (∀ (kd : AtomKind) (v c : BitVec 128), 0 < size → size ≤ 16 → Memory.wf s.mem = true →
      s.hostLines.contains (lineOf pa) = false → s.badAt pa size = [] →
      s.packet k = some ⟨.req, .core n, .slice i, rgn, .atomic op kd pa size v c .wb⟩ →
      let old := natOf (Cells.read s.mem pa size)
      ∃ t, exec (.homeSliceAtomic k) s = .next t ∧
        Cells.read t.mem pa size = bytesOf size ((atomValue kd size old v.toNat c.toNat).getD old) ∧
        (∀ a, a < pa ∨ pa + size ≤ a → Cells.get t.mem a = Cells.get s.mem a) ∧ t.cores = s.cores ∧
        t.net = s.net.eraseIdx k ++
          [⟨.rsp, .slice i, .core n, rgn, .atomRsp op (BitVec.ofNat 128 old) false ((s.slice i).seq + 1)⟩]) ∧
    (evp ≠ .noAlloc → (s.slice i).lines = [] →
      s.packet k = some ⟨.req, .core n, .slice i, rgn, .pref pa evp .wb⟩ → ∃ t, exec (.homeSlicePref k) s = .next t ∧
        s.SameBytes t ∧ t.net = s.net.eraseIdx k ∧ ((t.slice i).lines.map fun l => (l.line, l.evp)) = [(pa / 128, evp)])) ∧
  (∀ (old v c : Nat), old < 2 ^ 32 → v < 2 ^ 32 →
    let sg (x : Nat) : Int := (BitVec.ofNat 32 x).toInt
    atomValue .xchg 4 old v c = some v ∧ atomValue .cas 4 old v old = some v ∧
    (c % 2 ^ 32 ≠ old → atomValue .cas 4 old v c = none) ∧ atomValue .faa 4 old v c = some ((old + v) % 2 ^ 32) ∧
    atomValue .amax 4 old v c = some (if sg old < sg v then v else old) ∧
    atomValue .amin 4 old v c = some (if sg v < sg old then v else old) ∧
    atomValue .amaxU 4 old v c = some (max old v) ∧ atomValue .aminU 4 old v c = some (min old v)) ∧
  (∀ (s : State) (l m : Nat), ∃ t, exec (.backInvalidationAck l) s = .next t ∧ t.hostLines.contains l = false ∧
    (m ≠ l → t.hostLines.contains m = s.hostLines.contains m) ∧ s.SameBytes t) ∧
  (∀ (s : State) (k i n rgn op w : Nat), s.packet k = some ⟨.req, .core n, .slice i, rgn, .waycfg op w⟩ →
    (s.slice i).conv = none → Memory.wf s.mem = true →
    (12 < w + s.allot → s.domainOf 1 = some 1 → ∃ t, exec (.waycfgRequest k) s = .next t ∧ t.slice i = s.slice i ∧
      s.SameBytes t ∧ (⟨.rsp, .slice i, .core n, rgn, .ack op none 0⟩ : Packet) ∈ t.net ∧ t.Reports 0x07 5 (.slice i)) ∧
    (w + s.allot ≤ 12 → (s.slice i).w < w → ∃ t, exec (.waycfgRequest k) s = .next t ∧ s.SameBytes t ∧
      (t.slice i).conv = some ⟨w, .core n, op, rgn⟩ ∧ (t.slice i).w = (s.slice i).w ∧ t.net = s.net.eraseIdx k) ∧
    (w + s.allot ≤ 12 → w ≤ (s.slice i).w → ∃ t, exec (.waycfgRequest k) s = .next t ∧ (t.slice i).w = w ∧
      t.net = s.net.eraseIdx k ++ [⟨.rsp, .slice i, .core n, rgn, .ack op none 0⟩] ∧
      ∀ a, Cells.get t.mem a = if winBase + i * 0x400000 + w * 0x40000 ≤ a ∧
        a < winBase + i * 0x400000 + (s.slice i).w * 0x40000 then 0 else Cells.get s.mem a)) ∧
  (∀ (s : State) (i : Nat) (x : Convert), (s.slice i).conv = some x → Memory.wf s.mem = true → (∀ m, x.src ≠ .peer m) →
    ∃ t, exec (.wayConversionComplete i) s = .next t ∧ (t.slice i).w = x.w ∧ (t.slice i).conv = none ∧
      t.net = s.net ++ [⟨.rsp, .slice i, x.src, x.region, .ack x.op none 0⟩] ∧
      ∀ a, Cells.get t.mem a = if winBase + i * 0x400000 + (s.slice i).w * 0x40000 ≤ a ∧
        a < winBase + i * 0x400000 + x.w * 0x40000 then 0 else Cells.get s.mem a) ∧
  (∀ (s : State) (n va size : Nat) (o : Op) (data : Word), (s.core n).src = [o] → (s.core n).replay = [] →
    (s.core n).fwait = [] → o.body = .gst va size data none → s.cached n (s.asid o.org.region) va = none →
    (∀ l : Tlb, s.walk (s.asid o.org.region) va = .leaf l → l.w = true → l.sup = false → l.type = 0 → l.phys va < hbmEnd →
      ∃ t, exec (.translationWalkComplete n 0) s = .next t ∧ (t.core n).src = [] ∧ l ∈ (t.core n).tlb ∧ s.SameBytes t ∧
        (t.core n).outst = (s.core n).outst ++ [{ o with pa := l.phys va, far := false }] ∧
        t.net = s.net ++ [⟨.req, .core n, .slice (s.homeSlice (l.phys va)), o.org.region,
          .write o.id (l.phys va) ((bytesOf size data.toNat).map some) [] .normal .wb⟩]) ∧
    (∀ l : Tlb, s.walk (s.asid o.org.region) va = .leaf l → l.w = false → s.domainOf o.org.region = some 1 →
      o.deferred = false → ∃ t, exec (.translationWalkComplete n 0) s = .next t ∧ (t.core n).src = [] ∧ s.SameBytes t ∧
        t.Reports 0x05 0 (.core n)) ∧
    (∀ kind level : Nat, s.walk (s.asid o.org.region) va = .fault kind level → s.domainOf o.org.region = some 1 →
      o.deferred = false → ∃ t x, exec (.translationWalkComplete n 0) s = .next t ∧ (t.core n).src = [] ∧ s.SameBytes t ∧
        SMap.find (t.core n).replay 0 = some x ∧ x.op = o ∧ x.va = va ∧ x.kind = kind ∧ x.level = level ∧
        t.Reports 0x04 0 (.core n))) ∧
  (∀ (s : State) (n e : Nat) (x : Replay) (rest : List Replay), (s.core n).fwait = x :: rest →
    SMap.firstFree (s.core n).replay 0 32 = some e → s.domainOf x.op.org.region = some 1 →
    ∃ t y, exec (.faultWaitPromote n) s = .next t ∧ (t.core n).fwait = rest ∧ SMap.find (t.core n).replay e = some y ∧
      y.op = x.op ∧ t.Reports 0x04 (if x.op.body.isPiece then 1 else if x.op.deferred then 2 else 0) (.core n)) ∧
  ∀ (s : State) (z : Zeroing), s.zeroing = [z] → z.type ≠ 1 → Memory.wf s.mem = true →
    s.hkMay 3 (s.stacksOf z.pa z.size) = true → (∀ l ∈ linesOf z.entry 8, s.bindingAt (l * 128) = none) →
    (z.entry + 8 ≤ z.pa ∨ z.pa + z.size ≤ z.entry) → ∃ t, exec (.pageZeroingComplete z.entry) s = .next t ∧
      t.zeroing = [] ∧ (∀ a, z.pa ≤ a → a < z.pa + z.size → Cells.get t.mem a = 0) ∧
      Cells.read t.mem z.entry 8 = bytesOf 8 (s.peek64 z.entry &&& ~~~ (0x0C00000000000000 : Word)).toNat ∧
      ∀ a, (a < z.pa ∨ z.pa + z.size ≤ a) → (a < z.entry ∨ z.entry + 8 ≤ a) → Cells.get t.mem a = Cells.get s.mem a

/-- The Eddy units: a packet's pairs are accepted in order and the issuer is told (R245); a batch is reduced into the
bin of its line (R246); a merge-apply applies a live record to memory where the housekeeping budget lets it, and, with
none left, empties its log part (R249, R253, R293); UAPPLY passes over 64 KiB that no active binding of its region
holds, and applies a line that one does, through a leaf of this module's memory of either TYPE, with the translation it
has made for the page (R196, R254, R397). The model's own choices and inferences: log entries 5, 26, 56 and 69. -/
def Obligations.UpdateEvents : Prop :=
  (∀ (s : State) (k m rgn : Nat) (src : Agent) (ps : List UPair), s.packet k = some ⟨.upd, src, .eddy m, rgn, .updates ps⟩ →
    s.Reaches src → ∃ t, exec (.updatePacketAccept k) s = .next t ∧ (t.eddy m).waiting = (s.eddy m).waiting ++ [ps] ∧
      s.SameBytes t ∧ t.SameCores s ∧
      t.net = s.net.eraseIdx k ++ [⟨.rsp, .eddy m, src, rgn, .accepted (ps.map (·.upd))⟩]) ∧
  (∀ (s : State) (m : Nat) (p q : UPair) (b : Binding), (s.eddy m).waiting = [[p, q]] → (s.eddy m).bins = [] →
    q.bid = p.bid → q.pa = p.pa → SMap.find s.bindings p.bid = some b → b.oper = 0 → b.binLim = 0 → 1 ≤ s.allot →
    ∃ t x, exec (.sortBatch m) s = .next t ∧ (t.eddy m).waiting = [] ∧ (t.eddy m).bins = [x] ∧ x.bid = p.bid ∧
      x.line = p.pa / 128 ∧ x.pairs = 2 ∧ s.SameBytes t ∧
      x.accs = [(p.pa % 128 / 4, .word (BitVec.ofNat 64 ((p.value.toNat + q.value.toNat) % 2 ^ 32)))]) ∧
  (∀ m p : Word, m.toNat < 2 ^ 32 → p.toNat < 2 ^ 32 →
    let sg (x : Word) : Int := (x.setWidth 32).toInt
    operFold 0 m p = BitVec.ofNat 64 ((m.toNat + p.toNat) % 2 ^ 32) ∧ operFold 1 m p = m + p ∧
    operFold 5 m p = (if sg m < sg p then p else m) ∧ operFold 6 m p = (if sg p < sg m then p else m) ∧
    operFold 7 m p = (if m.toNat < p.toNat then p else m) ∧ operFold 10 m p = m ||| p ∧ operFold 11 m p = m &&& p ∧
    operFold 12 m p = m ^^^ p) ∧
  (∀ (s : State) (m bid : Nat), (s.eddy m).merging.contains bid = true → (∀ r ∈ (s.eddy m).runs, r.bid ≠ bid) →
    ∃ t, exec (.mergeApply m bid) s = .next t ∧ (t.eddy m).merging.contains bid = false ∧ s.SameBytes t ∧
      ∃ l, SMap.find (t.eddy m).logs bid = some l ∧ l.used = 0) ∧
  (∀ (s : State) (m bid num addr i : Nat) (x : Bin) (b : Binding) (v : Word), (s.eddy m).merging.contains bid = true →
    (s.eddy m).runs = [⟨bid, num, addr, [x]⟩] → (s.eddy m).bins = [] → (s.eddy m).waiting = [] →
    x.accs = [(i, .word v)] → x.bad = false → i < 32 → s.bindingAt (x.line * 128) = some (bid, b) → b.oper = 0 →
    s.homeChiplet (x.line * 128) = m → s.lost = [] → Memory.wf s.mem = true → s.mergeMay m = true →
    ∃ t, exec (.mergeApply m bid) s = .next t ∧ (t.eddy m).runs = [] ∧ t.SameCores s ∧
      Cells.read t.mem (x.line * 128 + 4 * i) 4
        = bytesOf 4 ((natOf (Cells.read s.mem (x.line * 128 + 4 * i) 4) + v.toNat) % 2 ^ 32) ∧
      ∀ a, a < x.line * 128 + 4 * i ∨ x.line * 128 + 4 * i + 4 ≤ a → Cells.get t.mem a = Cells.get s.mem a) ∧
  ∀ (s : State) (n va left pa : Nat) (o : Op) (rg : Region) (l : Tlb), (s.core n).src = [o] → (s.core n).replay = [] →
    (s.core n).fwait = [] → o.body = .uapply va left none → s.region o.org.region = some rg →
    s.cached n (s.asid o.org.region) va = none → s.walk (s.asid o.org.region) va = .leaf l → l.sup = false →
    (l.type = 0 ∧ pa = l.phys va ∨ l.type = 3 ∧ l.host = false ∧ l.phys va / 2 ^ 48 % 256 = s.brielo.number ∧
      pa = l.phys va % 2 ^ 48) → s.inDram pa 1 = true → (pa < winBase ∨ winEnd ≤ pa) →
    let rest (d : Nat) : List Op := if left ≤ d then [] else
      [{ o with body := .uapply (va + d) (left - d) (if va + d < l.va + l.size then some l else none) }]
    ((∀ bid b, s.bindingAt pa = some (bid, b) → some bid ∉ rg.ubind) → ∃ t, exec (.uapplyLineApply n 0) s = .next t ∧
      (t.core n).src = rest (65536 - va % 65536) ∧ s.SameBytes t) ∧
    ∀ (m bid i : Nat) (x : Bin) (b : Binding) (v : Word), s.bindingAt pa = some (bid, b) →
      some bid ∈ rg.ubind → x.line = pa / 128 → s.bindingAt (x.line * 128) = some (bid, b) → b.oper = 0 →
      s.homeChiplet (x.line * 128) = m → (s.eddy m).bins = [x] → x.bid = bid → x.accs = [(i, .word v)] → x.bad = false →
      i < 32 → (s.eddy m).runs = [] → (s.eddy m).waiting = [] → s.lost = [] → Memory.wf s.mem = true →
      ∃ t, exec (.uapplyLineApply n 0) s = .next t ∧ (t.core n).src = rest (128 - va % 128) ∧ (t.eddy m).bins = [] ∧
        Cells.read t.mem (x.line * 128 + 4 * i) 4
          = bytesOf 4 ((natOf (Cells.read s.mem (x.line * 128 + 4 * i) 4) + v.toNat) % 2 ^ 32) ∧
        ∀ a, a < x.line * 128 + 4 * i ∨ x.line * 128 + 4 * i + 4 ≤ a → Cells.get t.mem a = Cells.get s.mem a

/-- The copy engine, for a command alone in its queue: a CPY starts, or ends with the format fault of its length (R258,
R260, R306); its pieces are issued in increasing position, as reads of a global or of a local source (R259); the data
of its last piece lands, and the command leaves with its signal (R228, R260), and so does the last element of a GTHR
(R270); a multicast piece lands at an open channel, and its count goes to the slot unit, which acknowledges it after
the decrement (R267); a closed channel refuses it (R267); a gather request enters its unit's window and goes on to its
home slice (R270). Nothing has been read or landed ahead of the step (R216). That the acknowledgement of a multicast
piece travels in class RSP is the model's choice (log entry 81), and so is that a piece is the longest that its bounds
allow (log entry 92). The model's own choices and inferences: log entries 4, 5, 24, 25, 37, 56, 81 and 92. -/
def Obligations.CopyEvents : Prop :=
  (∀ (s : State) (n : Nat) (k : CopyCmd) (f : CopyFn) (d a l : Word), (s.core n).copyq = [k] → (s.core n).zeroing = false →
    (s.core n).barriers = [] → s.suspended k.org.region = false → k.kind = .cpy f → f.r = false → k.grp = [d, a, l] →
    k.started = false → k.pieces = [] → k.held = false → k.pos = 0 → k.resv = none → k.fault = none → k.told = false →
    (0 < l.toNat → l.toNat < 2 ^ 24 →
      a.toNat + l.toNat ≤ (if f.dir = .gl ∨ f.dir = .gg then 2 ^ 52 else 0x180000) →
      d.toNat + l.toNat ≤ (if f.dir = .lg ∨ f.dir = .gg then 2 ^ 52 else 0x180000) →
      ∃ t, exec (.copyCommandStart n) s = .next t ∧ (t.core n).copyq = [{ k with started := true, recv := [] }] ∧
        t.net = s.net ∧ s.SameBytes t) ∧
    (2 ^ 24 < l.toNat → k.y = 0 → s.domainOf k.org.region = some 1 → ∃ t, exec (.copyCommandStart n) s = .next t ∧
      (t.core n).copyq = [] ∧ s.SameBytes t ∧ t.Reports 0x07 1 (.core n))) ∧
  (∀ (s : State) (n : Nat) (k : CopyCmd) (f : CopyFn) (d a l : Word) (g : Region), (s.core n).copyq = [k] →
    k.kind = .cpy f → f.r = false → k.grp = [d, a, l] → k.started = true → k.fault = none → k.held = false →
    k.resv = none → (s.core n).seen = [] → k.pos < l.toNat → a.toNat + l.toNat ≤ 2 ^ 52 → d.toNat + l.toNat ≤ 2 ^ 52 →
    s.region k.org.region = some g → g.copybud = 0xFFFFFFFF →
    let len := min (l.toNat - k.pos) (min (128 - (a.toNat + k.pos) % 128) (128 - (d.toNat + k.pos) % 128))
    let k' : CopyCmd := { k with pos := k.pos + len, pieces := k.pieces ++ [⟨k.pos, len, 1⟩] }
    let op (b : OpBody) : Op :=
      { id := (s.core n).nextSeq, seq := k.seq, org := k.org, deferred := false, far := false, body := b }
    (f.dir = .gl → ∃ t, exec (.copyPieceIssue n) s = .next t ∧ (t.core n).copyq = [k'] ∧ s.SameBytes t ∧
      (t.core n).src = (s.core n).src ++ [op (.pieceRead k.id k.pos len (a.toNat + k.pos) f.lu f.evp)]) ∧
    (f.dir = .lg → ∃ t, exec (.copyPieceIssue n) s = .next t ∧ (t.core n).copyq = [k'] ∧ s.SameBytes t ∧
      (t.core n).src = (s.core n).src ++ [op (.pieceWrite k.id k.pos (d.toNat + k.pos)
        (Cells.read (s.core n).lmem (a.toNat + k.pos) len) (badOffsets (s.core n).lpoison (a.toNat + k.pos) len) f.evp)]) ∧
    (f.dir = .ll → ∃ t, exec (.copyPieceIssue n) s = .next t ∧ (t.core n).copyq = [k'] ∧ s.SameBytes t ∧
      (t.core n).outst = (s.core n).outst ++ [op (.pieceRead k.id k.pos len (a.toNat + k.pos) false .normal)] ∧
      t.net = s.net ++ [⟨.rsp, .core n, .core n, k.org.region, .readRsp (s.core n).nextSeq
        (Cells.read (s.core n).lmem (a.toNat + k.pos) len) (badOffsets (s.core n).lpoison (a.toNat + k.pos) len) 0⟩])) ∧
  (∀ (s : State) (i n id pos va rgn len at_ : Nat) (src : Agent) (o : Op) (k : CopyCmd) (lu : Bool) (evp : Evp)
    (bs : List Byte), (s.core n).copyq = [k] → k.started = true → k.fault = none → k.err = false → k.held = false →
    k.resv = none → k.pos = k.total → k.total ≠ 0 → k.pieces = [⟨pos, len, 1⟩] → (s.core n).laid = [] → Memory.wf (s.core n).lmem = true →
    s.localOk n k.org.fid at_ bs.length true = true →
    (k.y ≠ 0 → s.routeOk (Ref.of k.y).module = true ∧ s.Reaches (s.refAgent (Ref.of k.y))) →
    let lands (e : Instr) : Prop := ∃ t, exec e s = .next t ∧ (t.core n).copyq = [] ∧ t.mem = s.mem ∧
      Cells.read (t.core n).lmem at_ bs.length = bs ∧
      (∀ b, b < at_ ∨ at_ + bs.length ≤ b → Cells.get (t.core n).lmem b = Cells.get (s.core n).lmem b) ∧
      t.net = s.net.eraseIdx i ++ (if k.y = 0 then [] else
        [⟨if s.refAgent (Ref.of k.y) = .core n then .rsp else .sig, .core n, s.refAgent (Ref.of k.y), k.org.region,
          .signal k.y 1 .none false false⟩])
    (∀ (f : CopyFn) (d a l : Word), s.packet i = some ⟨.rsp, src, .core n, rgn, .readRsp id bs [] 0⟩ →
      (s.core n).outstanding id = some o → o.body = .pieceRead k.id pos len va lu evp → k.kind = .cpy f → f.r = false →
      f.byt = false → f.dir = .gl ∨ f.dir = .ll → k.grp = [d, a, l] → pos < l.toNat → d.toNat + l.toNat < 2 ^ 52 →
      at_ = d.toNat + pos → lands (.copyPieceComplete i)) ∧
    ∀ (f : GthrFn) (ix cnt b e d : Word), s.packet i = some ⟨.rsp, src, .core n, rgn, .element k.id pos bs [] 0⟩ →
      (s.core n).outst = [o] → o.body = .element k.id pos e.toNat va lu evp → k.kind = .gthr f → f.r = false →
      f.byt = false → k.grp = [ix, cnt, b, e, d] → at_ = d.toNat + pos * e.toNat → lands (.gatherElementReturn i)) ∧
  (∀ (s : State) (i n m cmd pos off tag rgn : Nat) (bs : List Byte) (ref buf : Word),
    s.packet i = some ⟨.req, .core m, .core n, rgn, .mcast cmd pos off tag bs []⟩ → (s.core n).laid = [] →
    SMap.get (s.core n).land (2 * tag) 0 = ref → SMap.get (s.core n).land (2 * tag + 1) 0 = buf →
    (s.onCoreRef n ref = true → buf.toNat < 2 ^ 21 → s.fstore ≤ buf.toNat + off + pos →
      buf.toNat + off + pos + bs.length ≤ 0x180000 → Memory.wf (s.core n).lmem = true →
      ∃ t, exec (.multicastPieceArrival i) s = .next t ∧ t.mem = s.mem ∧
        Cells.read (t.core n).lmem (buf.toNat + off + pos) bs.length = bs ∧
        (∀ b, b < buf.toNat + off + pos ∨ buf.toNat + off + pos + bs.length ≤ b →
          Cells.get (t.core n).lmem b = Cells.get (s.core n).lmem b) ∧
        t.net = s.net.eraseIdx i ++ [⟨.sig, .core n, .core n, rgn, .count ref bs.length false m cmd pos⟩]) ∧
    (ref = 0 → s.domainOf rgn = some 1 → (s.core m).copyq.find? (·.id == cmd) = none →
      ∃ t ws, exec (.multicastPieceArrival i) s = .next t ∧ s.SameBytes t ∧ t.net = s.net.eraseIdx i ++
        [⟨.sig, .core n, .service, 1, .record 1 0 ws⟩, ⟨.rsp, .core n, .core m, rgn, .mcastAck cmd pos false⟩] ∧
        (wordAt ws 0).toNat / 2 ^ 56 = 0x09)) ∧
  ∀ (s : State) (i g cmd x pa size core rgn : Nat) (cls : PClass) (src : Agent) (lu : Bool) (evp : Evp) (sp : Space),
    s.packet i = some ⟨cls, src, .gather g, rgn, .gather cmd x pa size lu evp core sp⟩ →
    (SMap.get s.gathers g []).length < 64 → ∃ t, exec (.gatherRequestArrival i) s = .next t ∧ t.SameCores s ∧
      s.SameBytes t ∧ SMap.get t.gathers g [] = SMap.get s.gathers g [] ++ [⟨cmd, x, core⟩] ∧
      t.net = s.net.eraseIdx i ++ [⟨cls, .gather g, .slice (s.homeSlice pa), rgn,
        .gather cmd x pa size lu evp core sp⟩]

/-- The tile engine, for a command alone in its queue, on a core that its region owns: RCFG, SSCFG, ACCZ and FENCEQ
are done as they start (R155, R176, R229), ACCLD and MMA start after their checks, an unconfigured ring is the ring
fault (R164), and another region's command clears the engine first (R166). A pair's start reads its tiles and
descriptors (R159, R164); the retirement of an INT8 pair adds A · B modulo 2^32 with K = 32 (R151, R160, R161) and
pops the tiles. A row of MMG with one group of weight one gives its activation (R189). ACCLD loads 256 words, ACCST
writes them in FP32 as they stand, or in INT8 saturated (R167, R168). Nothing has been read or written ahead of the
step (R160); a pair that is not compressed may retire four cycles after its start, which is the model's reading (log
entry 39). The model's own choices and inferences: log entries 5, 36, 37, 38, 39, 74 and 75. -/
def Obligations.TileEvents : Prop :=
  ∀ (s : State) (n : Nat) (k : TileCmd) (g : Region), (s.core n).tileq = [k] → (s.core n).owner = k.org.region →
    (s.core n).lpoison = [] → (s.core n).accBad = [] → s.region k.org.region = some g → g.tilebud = 0xFFFF →
    (s.core n).seen = [] → (s.core n).laid = [] → k.done = false → s.suspended k.org.region = false → k.y = 0 → k.fault = none → k.err = false → k.bad = false →
    (k.started = false → k.left = 0 → (s.core n).zeroing = false → (s.core n).barriers = [] → (s.core n).copyq = [] →
      (k.kind = .fenceq → exec (.tileCommandStart n) s = .next (s.setCore n { s.core n with tileq := [] })) ∧
      (∀ (q : Nat) (b d c : Word), k.kind = .rcfg q → k.grp = [b, d, c] → ∃ t, exec (.tileCommandStart n) s = .next t ∧
        (t.core n).tileq = [] ∧ SMap.find (t.core n).rings q = some
          ⟨b.toNat, d.toNat % 128, d.getLsbD 8, c.toNat, 0, 0, 0⟩) ∧
      (∀ (q : Nat) (a l : Word), k.kind = .sscfg q → k.grp = [a, l] → ∃ t, exec (.tileCommandStart n) s = .next t ∧
        (t.core n).tileq = [] ∧ SMap.find (t.core n).skips q = some ⟨a.toNat, false, a.toNat + l.toNat⟩) ∧
      (∀ a : Nat, k.kind = .accz a → SMap.Rising (s.core n).accs → ∃ t, exec (.tileCommandStart n) s = .next t ∧
        (t.core n).tileq = [] ∧ (t.core n).acc a = List.replicate 256 0 ∧ ∀ b, b ≠ a → (t.core n).acc b = (s.core n).acc b) ∧
      (∀ (a : Nat) (x : Word), k.kind = .accld a → k.grp = [x] → x.toNat % 64 = 0 → x.toNat + 1024 ≤ 0x180000 →
        ∃ t, exec (.tileCommandStart n) s = .next t ∧ (t.core n).tileq = [{ k with started := true }]) ∧
      (∀ (tr : Bool) (qa qb a : Nat) (x : Word), k.kind = .mma tr qb qa a → k.grp = [x] →
        (1 ≤ x.toNat → x.toNat ≤ 65535 → (SMap.find (s.core n).rings qa).isSome → (SMap.find (s.core n).rings qb).isSome →
          ∃ t, exec (.tileCommandStart n) s = .next t ∧ (t.core n).tileq = [{ k with started := true, left := x.toNat }]) ∧
        (SMap.find (s.core n).rings qa = none → s.domainOf k.org.region = some 1 →
          ∃ t, exec (.tileCommandStart n) s = .next t ∧ (t.core n).tileq = [] ∧ t.Reports 0x0C 1 (.core n))) ∧
      (∀ r : Nat, r ≠ k.org.region → k.kind = .fenceq →
        ∃ t, exec (.tileCommandStart n) (s.setCore n { s.core n with owner := r }) = .next t ∧ (t.core n).owner = k.org.region ∧
          (t.core n).rings = [] ∧ (t.core n).skips = [] ∧ (t.core n).accs = [] ∧ (t.core n).tileq = [])) ∧
    (∀ (tr : Bool) (qa qb a : Nat) (ra rb : Ring), k.started = true → k.kind = .mma tr qb qa a → qa ≠ qb →
      SMap.find (s.core n).rings qa = some ra → SMap.find (s.core n).rings qb = some rb → 1 ≤ ra.count → 1 ≤ rb.count →
      ra.head < ra.depth → rb.head < rb.depth →
      let ta := Cells.read (s.core n).lmem (ra.base + 512 * ra.head) 512
      let tb := Cells.read (s.core n).lmem (rb.base + 512 * rb.head) 512
      let da := (s.core n).word (ra.desc + 8 * ra.head)
      let db := (s.core n).word (rb.desc + 8 * rb.head)
      (k.pair = none →
        (tagPairOk (descTag da) (descTag db) = true → da.extractLsb' 4 28 = 0 → db.extractLsb' 4 28 = 0 →
          ∃ t p, exec (.tilePairStart n) s = .next t ∧ (t.core n).tileq = [{ k with pair := some p }] ∧ p.da = da ∧
            p.db = db ∧ p.expA = none ∧ p.poison = false ∧ p.due = s.cycle + 4 ∧ p.skip = none ∧
            s.SameBytes t ∧ ∃ l, SMap.find t.pairCores n = some (s.time / 1000 :: l)) ∧
        (tagPairOk (descTag da) (descTag db) = false → s.domainOf k.org.region = some 1 →
          ∃ t, exec (.tilePairStart n) s = .next t ∧ (t.core n).tileq = [] ∧ t.Reports 0x07 1 (.core n))) ∧
      (∀ p : Pair, k.pair = some p → p.da = 6 → p.db = 6 → p.expA = none → p.poison = false →
        p.due ≤ s.cycle → k.left = 1 → ((s.core n).acc a).length = 256 →
        ∃ t, exec (.tilePairRetire n) s = .next t ∧ (t.core n).tileq = [] ∧ s.SameBytes t ∧
          SMap.find (t.core n).rings qa = some { ra with head := (ra.head + 1) % ra.depth, count := ra.count - 1 } ∧
          SMap.find (t.core n).rings qb = some { rb with head := (rb.head + 1) % rb.depth, count := rb.count - 1 } ∧
          ∀ i < 16, ∀ j < 16, ((t.core n).acc a)[16 * i + j]? =
            some (((s.core n).acc a).getD (16 * i + j) 0 + BitVec.ofInt 32 (((List.range 32).map fun x =>
              (ta.getD (32 * i + x) 0).toInt * (tb.getD (if tr then 32 * j + x else 16 * x + j) 0).toInt).sum)))) ∧
    (∀ (a l d rec_ idx v : Nat) (c : Word), k.started = true → k.kind = .mmg .bf16 .f32 → k.grp =
        [c, 1, BitVec.ofNat 64 a, BitVec.ofNat 64 l, BitVec.ofNat 64 d] → k.left = 1 → k.row = 0 → k.recAt = rec_ →
      a < 2 ^ 21 → d < 2 ^ 21 → l ≤ 8192 → idx < l → s.fstore ≤ rec_ → rec_ + 10 ≤ 0x180000 →
      Memory.wf (s.core n).lmem = true →
      ((List.range 5).map fun j => natOf (Cells.read (s.core n).lmem (rec_ + 2 * j) 2)) = [5, 1, 0x3F80, idx, 0xFFFF] →
      natOf (Cells.read (s.core n).lmem (a + 4 * idx) 4) = v → 1 ≤ v / 2 ^ 23 % 256 → v / 2 ^ 23 % 256 ≤ 254 →
      ∃ t, exec (.mmgRowComplete n) s = .next t ∧ (t.core n).tileq = [] ∧ Cells.read (t.core n).lmem d 4 = bytesOf 4 v ∧
        ∀ b, b < d ∨ d + 4 ≤ b → Cells.get (t.core n).lmem b = Cells.get (s.core n).lmem b) ∧
    (∀ (a : Nat) (x : Word), k.started = true → k.kind = .accld a → k.grp = [x] →
      ∃ t, exec (.accumulatorTransferDone n) s = .next t ∧ (t.core n).tileq = [] ∧ s.SameBytes t ∧ (t.core n).acc a =
        (List.range 256).map fun i => BitVec.ofNat 32 (natOf (Cells.read (s.core n).lmem (x.toNat + 4 * i) 4))) ∧
    ∀ (a : Nat) (sat : Bool) (rm : RMode) (x e : Word), k.started = true → k.grp = [x, e] → ((s.core n).acc a).length = 256 →
      Memory.wf (s.core n).lmem = true →
      (k.kind = .accst false sat rm .fp32 a → ∃ t, exec (.accumulatorTransferDone n) s = .next t ∧ (t.core n).tileq = [] ∧
        Cells.read (t.core n).lmem x.toNat 1024 = ((s.core n).acc a).flatMap (fun v => bytesOf 4 v.toNat) ∧
        ∀ b, b < x.toNat ∨ x.toNat + 1024 ≤ b → Cells.get (t.core n).lmem b = Cells.get (s.core n).lmem b) ∧
      (k.kind = .accst false true rm .int8 a → ∃ t, exec (.accumulatorTransferDone n) s = .next t ∧ (t.core n).tileq = [] ∧
        (∀ j < 256, Cells.get (t.core n).lmem (x.toNat + j) =
          BitVec.ofInt 8 (max (-128) (min 127 (((s.core n).acc a).getD j 0).toInt))) ∧
        ∀ b, b < x.toNat ∨ x.toNat + 256 ≤ b → Cells.get (t.core n).lmem b = Cells.get (s.core n).lmem b)

/-- The front ends. A host's store to the tail line makes the tail be read again, and one too far ahead breaks the
queue; without such a store nothing is read (R274, R275). An entry is fetched at HEAD, which advances, and a reserved
KIND is the bad-block fault (R275, R280). An active message goes to the core that its region's affinity entry names,
and a bad entry sends a record alone (R59, R277, R280); a trigger is armed by an entry or an ARM with its threshold
(R284, R286), counted down by signals, and at zero performs its command in the same step, a message or its own arming
anew (R287); a region control goes to the service core when its target, for ACT its PARENT, lies at or below the queue's region,
and any other target, one that names no region too, is the privileged fault (R278, R280); a fence writes and then
signals once nothing of its queue is undelivered (R279). The service core takes one operation at a time and answers
with a status (R378, R380): SUSP and RES set and clear SUSP (R307). The model's own choices and inferences: log entries
5, 40, 41, 42 and 43. -/
def Obligations.FrontEndEvents : Prop :=
  (∀ (s : State) (q : Nat) (x : Queue), s.queue q = x → x.state = 1 → (wordAt x.entry 1).getLsbD 63 = true →
    (x.noticed = false → exec (.tailNotification q) s = .next s) ∧ (x.noticed = true →
    let tail := natOf (Cells.read s.hostMem ((wordAt x.entry 1).extractLsb' 0 56).toNat 4)
    ((tail + (2 ^ 32 - x.head)) % 2 ^ 32 ≤ x.size → ∃ t, exec (.tailNotification q) s = .next t ∧
      t.queue q = { x with tail := tail, noticed := false } ∧ s.SameBytes t ∧ t.net = s.net) ∧
    (x.size < (tail + (2 ^ 32 - x.head)) % 2 ^ 32 → ∃ t, exec (.tailNotification q) s = .next t ∧ (t.queue q).state = 2 ∧
      t.service.log = s.service.log ++ [.brokenQueue q]))) ∧
  (∀ (s : State) (q h : Nat) (x : Queue), s.queues = [(q, x)] → x.state = 1 → x.busy = false → x.pending ≠ 0 →
    (wordAt x.entry 0).getLsbD 63 = true → s.hostPoison = [] →
    let ws := wordsOfBytes 8
      (Cells.read s.hostMem (((wordAt x.entry 0).extractLsb' 0 56).toNat + x.head % x.size * 64) 64)
    (wordAt ws 0 = BitVec.ofNat 64 (h * 2 ^ 16) → h < 2 ^ 28 → (wordAt x.entry 3).getLsbD 32 = true →
      (s.region x.region).isSome → ∃ t, exec (.queueEntryFetch q) s = .next t ∧ (t.queue q).head = (x.head + 1) % 2 ^ 32 ∧
        (t.fe (q / 16384)).last = q ∧
        (t.fe (q / 16384)).pend = (s.fe (q / 16384)).pend ++ [⟨.queue q x.head, x.region, ws, false⟩]) ∧
    (4 ≤ (wordAt ws 0).toNat % 256 → s.domainOf x.region = some 1 → ∃ t, exec (.queueEntryFetch q) s = .next t ∧
      (t.queue q).head = (x.head + 1) % 2 ^ 32 ∧ (t.fe (q / 16384)).pend = (s.fe (q / 16384)).pend ∧
      t.Reports 0x15 4 (.frontEnd (q / 16384)))) ∧
  (∀ (s : State) (f : Nat) (e : FeEntry), (s.fe f).pend = [e] →
    let w := wordAt e.words
    ((w 0).toNat % 256 = 0 → ∀ n : Nat, s.Hashes (.frontEnd f) e.region (w 1) n →
      ∃ t, exec (.activeMessageEntry f 0) s = .next t ∧ (t.fe f).pend = [] ∧ t.SameCores s ∧
        (s.Owns e.region n → s.SameBytes t ∧ t.net = s.net ++ [⟨.sig, .frontEnd f, .core n, e.region,
          .amsg ((w 0).extractLsb' 16 28).toNat (w 1) ((e.words.drop 2).take 6) e.queue⟩]) ∧
        (¬ s.Owns e.region n → s.domainOf e.region = some 1 →
          t.net.length = s.net.length + 1 ∧ t.Reports 0x09 4 (.frontEnd f))) ∧
    ((w 0).toNat % 256 = 1 → (Ref.of (w 1)).module = s.brielo.number → 0 < (w 2).toNat → (w 2).toNat < 2 ^ 24 →
      (w 3).getLsbD 63 = true → s.hostPoison = [] → (s.trigger (Ref.of (w 1)).frontEnd (Ref.of (w 1)).slot).armed = false →
      ∃ t, exec (.triggerArmEntry f 0) s = .next t ∧ (t.fe f).pend = [] ∧
        t.trigger (Ref.of (w 1)).frontEnd (Ref.of (w 1)).slot = ⟨true, e.region, (w 2).toNat, (w 2).toNat,
          wordsOfBytes 8 (Cells.read s.hostMem ((w 3).extractLsb' 0 56).toNat 64)⟩) ∧
    ∀ q i : Nat, e.src = .queue q i →
      ((w 0).toNat % 256 = 2 →
        let top := s.regionOfRcb (if (w 0).extractLsb' 16 3 = 0 then (s.peek64 (w 1).toNat).toNat else (w 1).toNat)
        (top = none → s.domainOf e.region = some 1 → ∃ t, exec (.regionControlEntry f 0) s = .next t ∧
          t.service.ops = s.service.ops ∧ (t.queue q).busy = false ∧ t.Reports 0x02 4 (.frontEnd f)) ∧
        ∀ r : Nat, top = some r → ((s.ancestry 8 r).contains e.region = true → ∃ t, exec (.regionControlEntry f 0) s = .next t ∧ (t.fe f).pend = [] ∧
          t.service.ops = s.service.ops ++
            [⟨((w 0).extractLsb' 16 3).toNat, w 1, w 2, 0, e.region, some (q, i), 0, []⟩]) ∧
        ((s.ancestry 8 r).contains e.region = false → s.domainOf e.region = some 1 →
          ∃ t, exec (.regionControlEntry f 0) s = .next t ∧ t.service.ops = s.service.ops ∧ (t.queue q).busy = false ∧
            t.Reports 0x02 4 (.frontEnd f))) ∧
      ((w 0).toNat % 256 = 3 →
        (s.undelivered q = true → exec (.queueFence f 0) s = .next s) ∧
        (s.undelivered q = false →
          (w 2 ≠ 0 → e.wrote = false → (w 2).getLsbD 63 = false → s.bindings = [] → s.lost = [] → Memory.wf s.mem = true →
            let a := ((w 2).extractLsb' 0 56).toNat
            ∃ t, exec (.queueFence f 0) s = .next t ∧ (t.fe f).pend = [{ e with wrote := true }] ∧ t.net = s.net ∧
              Cells.read t.mem a 8 = bytesOf 8 (w 3).toNat ∧
              ∀ b, b < a ∨ a + 8 ≤ b → Cells.get t.mem b = Cells.get s.mem b) ∧
          (w 2 = 0 ∨ e.wrote = true → (w 1 ≠ 0 → s.routeOk (Ref.of (w 1)).module = true ∧ s.Reaches (s.refAgent (Ref.of (w 1)))) →
            ∃ t, exec (.queueFence f 0) s = .next t ∧ (t.fe f).pend = [] ∧ (t.queue q).busy = false ∧ s.SameBytes t ∧
              t.net = s.net ++ (if w 1 = 0 then [] else [⟨.sig, .frontEnd f, s.refAgent (Ref.of (w 1)), e.region,
                .signal (w 1) 1 .none true false⟩]))))) ∧
  (∀ (s : State) (k f rgn thresh : Nat) (cls : PClass) (src : Agent) (ref : Word) (cmd : List Word) (org : Origin)
      (of_ : Option Nat), s.packet k = some ⟨cls, src, .frontEnd f, rgn, .arm ref thresh cmd org of_⟩ → cmd.length = 8 →
    (0 < thresh → thresh < 2 ^ 24 → (s.trigger f (Ref.of ref).slot).armed = false →
      ∃ t, exec (.triggerArming k) s = .next t ∧ t.net = s.net.eraseIdx k ∧ s.SameBytes t ∧
        t.trigger f (Ref.of ref).slot = ⟨true, rgn, thresh, thresh, cmd⟩) ∧
    (2 ^ 24 ≤ thresh → s.domainOf org.region = some 1 → ∃ t, exec (.triggerArming k) s = .next t ∧
      t.trigger f (Ref.of ref).slot = s.trigger f (Ref.of ref).slot ∧ t.Reports 0x07 4 (.frontEnd f))) ∧
  (∀ (s : State) (k f rgn dec h : Nat) (cls : PClass) (src : Agent) (ref : Word) (d : SigData) (rel err : Bool) (x : Trigger),
    s.packet k = some ⟨cls, src, .frontEnd f, rgn, .signal ref dec d rel err⟩ → s.trigger f (Ref.of ref).slot = x →
    x.region = rgn →
    (x.armed = true → dec < x.count → ∃ t, exec (.triggerSignal k) s = .next t ∧ t.net = s.net.eraseIdx k ∧
      t.trigger f (Ref.of ref).slot = { x with count := x.count - dec } ∧ (t.fe f).pend = (s.fe f).pend) ∧
    (x.armed = true → dec = x.count → wordAt x.cmd 0 = BitVec.ofNat 64 (h * 2 ^ 16) → h < 2 ^ 28 → ∀ n : Nat,
      s.Hashes (.frontEnd f) rgn (wordAt x.cmd 1) n → s.Owns rgn n → ∃ t, exec (.triggerSignal k) s = .next t ∧
        t.trigger f (Ref.of ref).slot = { x with armed := false, count := 0 } ∧ (t.fe f).pend = (s.fe f).pend ∧
        t.net = s.net.eraseIdx k ++
          [⟨.sig, .frontEnd f, .core n, rgn, .amsg h (wordAt x.cmd 1) ((x.cmd.drop 2).take 6) none⟩]) ∧
    (∀ (thresh p : Nat) (self : Word), x.armed = true → dec = x.count →
      x.cmd = [1, self, BitVec.ofNat 64 thresh, BitVec.ofNat 64 (2 ^ 63 + p), 0, 0, 0, 0] → 0 < thresh → thresh < 2 ^ 24 →
      p < 2 ^ 56 → p % 64 = 0 → s.refOk self = true → (Ref.of self).t = true → (Ref.of self).module = s.brielo.number →
      (Ref.of self).frontEnd = f → (Ref.of self).slot = (Ref.of ref).slot → (s.region rgn).isSome → s.hostPoison = [] →
      ∃ t, exec (.triggerSignal k) s = .next t ∧ t.net = s.net.eraseIdx k ∧ (t.fe f).pend = (s.fe f).pend ∧
        t.trigger f (Ref.of ref).slot = ⟨true, rgn, thresh, thresh, wordsOfBytes 8 (Cells.read s.hostMem p 64)⟩) ∧
    (x.armed = false → s.domainOf rgn = some 1 → ∃ t, exec (.triggerSignal k) s = .next t ∧
      t.trigger f (Ref.of ref).slot = x ∧ t.Reports 0x08 4 (.frontEnd f))) ∧
  (∀ s : State, s.service.down = true → exec .regionControlPerform s = .next s) ∧
  (∀ (s : State) (cls : PClass) (src : Agent) (rgn op : Nat) (rcb arg ref : Word) (org : Origin), s.service.down = false →
    s.service.ops = [] → s.net.length = 1 → s.packet 0 = some ⟨cls, src, .service, rgn, .rgnctl op rcb arg ref org⟩ →
    ∃ t, exec .regionControlPerform s = .next t ∧ t = { s with net := [], bucket := t.bucket, service :=
      { s.service with ops := [⟨op, rcb, arg, ref, org.region, none, 0, []⟩] } }) ∧
  ∀ (s : State) (o : RgnOp), s.service.down = false → s.service.ops = [o] → o.queue = none → o.issuer = 1 → o.ref ≠ 0 →
    o.rcb.toNat % 256 = 0 → o.rcb.toNat + 256 ≤ asTable → s.routeOk (Ref.of o.ref).module = true →
    s.Reaches (s.refAgent (Ref.of o.ref)) →
    let ends (st : Nat) (t : State) : Prop := t.service.ops = [] ∧ s.SameBytes t ∧
      t.net = s.net ++ [⟨.sig, .service, s.refAgent (Ref.of o.ref), 1, .signal o.ref 1 (.words 0
        [BitVec.ofNat 64 (st * 2 ^ 56 + natOf (Cells.read s.mem (o.rcb.toNat + 14) 2))]) true false⟩]
    let rgn := s.regionOfRcb o.rcb.toNat
    (o.phase = 0 → 1 ≤ o.op → o.op ≤ 4 → rgn = none → ∃ t, exec .regionControlPerform s = .next t ∧ ends 11 t) ∧
    ∀ (r : Nat) (g : Region), rgn = some r → s.region r = some g →
      (o.phase = 0 → o.op = 0 → ∃ t, exec .regionControlPerform s = .next t ∧ ends 11 t) ∧
      (o.phase = 0 → o.op = 3 → o.arg = 0 → ∃ t, exec .regionControlPerform s = .next t ∧ ends 0 t ∧
        (t.region r).map (·.susp) = some false) ∧
      (o.phase = 0 → o.op = 2 → o.arg = 0 → s.suspended r = false → ∃ t, exec .regionControlPerform s = .next t ∧
        t.service.ops = [{ o with phase := 1 }] ∧ (t.region r).map (·.susp) = some true ∧ t.net = s.net) ∧
      (o.phase = 1 → o.op = 2 → o.arg = 0 → s.busyIn r = false →
        ∃ t, exec .regionControlPerform s = .next t ∧ ends 0 t) ∧
      (o.phase = 0 → o.op = 2 ∨ o.op = 3 → 2 ≤ o.arg.toNat → ∃ t, exec .regionControlPerform s = .next t ∧ ends 2 t)

/-- What happens with time: a budget period grants every counter afresh with its debt, and changed budgets take effect
(R291, R292); a monitor's window with progress starts the next, and one without, while a slot of the region is armed,
freezes the region with the stall record (R296); a port's rate is 1 to 32 eighths, and what its bucket has gathered
before it changes stays (R295); the microsecond after one in which 256 or more of a basin's tile engines started a pair
is a tile interval (R294), in which up to eight refreshes are issued ahead; a stack's controller charges its work to
its counter, outside an interval spends banked refreshes first, and defers other work while the counter is exhausted
and a demand request waits (R293, R294); trace records are appended at WP, or counted in DROP when the buffer is full
(R315); and the scratch of a core that changes its tenant reads zero, its engine and landing registers cleared (R166,
R195, R265), with what released frames left in its frame store (R204; log entry 24). That a rate of 0 or above 32, a
zeroing that is not in progress and a trace record while tracing is off leave the state as it is, is log entry 56's
choice. The model's own choices and inferences: log entries 5, 24, 30, 44, 55, 56, 69 and 76. -/
def Obligations.PeriodEvents : Prop :=
  (∀ s : State, s.cycle / 3 / 10000 ≤ s.period → exec .periodStart s = .next s) ∧
  (∀ s : State, s.period < s.cycle / 3 / 10000 → ∃ t, exec .periodStart s = .next t ∧ t.period = s.period + 1 ∧ s.SameBytes t ∧
    (∀ (r : Nat) (g : Region), s.region r = some g →
      (g.nextBud = none → t.region r = some g) ∧
      (∀ a b c, g.nextBud = some (a, b, c) →
        t.region r = some { g with cycbud := a, tilebud := b, copybud := c, nextBud := none })) ∧
    ∀ (n r : Nat) (g : Region) (b : Budget), s.region r = some g → g.nextBud = none →
      SMap.find (s.core n).budgets r = some b → SMap.find (t.core n).budgets r =
        some ⟨16 * g.cycbud + min 0 b.cyc, 16 * g.tilebud + min 0 b.tile, g.copybud + min 0 b.copy⟩) ∧
  (∀ (s : State) (r : Nat) (g : Region), s.region r = some g →
    let w := if g.win = 0 then 1000000 else g.win * 100000
    (s.time < g.winStart + w → exec (.monitorWindowEnd r) s = .next s) ∧
    (g.winStart + w ≤ s.time → g.progress ≠ 0 → ∃ t, exec (.monitorWindowEnd r) s = .next t ∧ t.net = s.net ∧
      t.region r = some { g with winStart := g.winStart + w, winSusp := s.suspended r, progress := 0 }) ∧
    ∀ (n fid : Nat) (c : Core) (f : Frame), g.winStart + w ≤ s.time → g.progress = 0 → g.winSusp = false →
      s.suspended r = false → s.cores = [(n, c)] → c.frames = [(fid, f)] → f.region = r → f.armed ≠ [] →
      s.domainOf r = some 1 → ∃ t, exec (.monitorWindowEnd r) s = .next t ∧ (t.region r).map (·.susp) = some true ∧
        t.Reports 0x11 6 .service) ∧
  (∀ (s : State) (p e : Nat),
    let q := SMap.get s.bucket p (512, 0)
    (1 ≤ e → e ≤ 32 → exec (.weirRateUpdate p e) s = .next { s with
      weir := SMap.set s.weir p e
      bucket := SMap.set s.bucket p
        (min 512 (q.1 + SMap.get s.weir p 32 * (2 * s.cycle / 3 - 2 * q.2 / 3)), s.cycle) }) ∧
    (e = 0 ∨ 32 < e → exec (.weirRateUpdate p e) s = .next s)) ∧
  (∀ (s : State) (b : Nat),
    let now := s.cycle / 3 / 1000
    let many : Prop := 1 ≤ now ∧
      256 ≤ (s.pairCores.filter fun c => c.1 / 512 == b && c.2.contains (now - 1)).length
    (many → exec (.tileIntervalEval b) s = .next { s with tileIv := SMap.set s.tileIv b now }) ∧
    (¬ many → exec (.tileIntervalEval b) s = .next s)) ∧
  (∀ (s : State) (m busy : Nat) (kd : HkKind) (left : Int), SMap.get s.hkBud m (s.hkbud : Int) = left → m < 16 →
    let b := m / 4
    let now := s.cycle / 3 / 1000
    let many : Prop := 1 ≤ now ∧
      256 ≤ (s.pairCores.filter fun c => c.1 / 512 == b && c.2.contains (now - 1)).length
    let on : State := { s with tileIv := SMap.set s.tileIv b now }
    let paid (x : State) : State := { x with hkBud := SMap.set s.hkBud m (left - busy) }
    let a := SMap.get s.banked m 0
    let bank (x : State) (k : Nat) : State := { x with banked := SMap.set s.banked m k }
    (¬ many →
      (kd ≠ .refresh → s.hkMay (hkRank kd) [m] = true → exec (.housekeepingWork m kd busy) s = .next (paid s)) ∧
      (kd ≠ .refresh → left ≤ 0 → s.demandWaits m = true → exec (.housekeepingWork m kd busy) s = .next s) ∧
      (SMap.find s.tileIv b ≠ some now →
        (a = 0 → exec (.housekeepingWork m .refresh busy) s = .next (paid s)) ∧
        (0 < a → exec (.housekeepingWork m .refresh busy) s = .next (bank s (a - 1))))) ∧
    (many → (a < 8 → exec (.housekeepingWork m .refresh busy) s = .next (bank (paid on) (a + 1))) ∧
      (8 ≤ a → exec (.housekeepingWork m .refresh busy) s = .next (paid on)))) ∧
  (∀ (s : State) (k rgn : Nat) (src : Agent) (w0 w1 : Word),
    s.packet k = some ⟨.sig, src, .tracer, rgn, .trace w0 w1⟩ →
    let x := s.tracer
    (x.size = 0 → exec (.traceRecordWrite k) s = .next { s with net := s.net.eraseIdx k }) ∧
    (x.size ≠ 0 → s.bindings = [] → s.lost = [] → Memory.wf s.mem = true → x.wp < 2 ^ 64 →
      ((x.wp + (2 ^ 64 - x.rp)) % 2 ^ 64 ≤ x.size - 16 →
        let a := x.base + x.wp % x.size
        a + 16 ≤ x.ctl ∨ x.ctl + 64 ≤ a → ∃ t, exec (.traceRecordWrite k) s = .next t ∧
          Cells.read t.mem a 16 = bytesOf 8 w0.toNat ++ bytesOf 8 w1.toNat ∧
          Cells.read t.mem (x.ctl + 8) 8 = bytesOf 8 ((x.wp + 16) % 2 ^ 64) ∧
          t.tracer = { x with wp := (x.wp + 16) % 2 ^ 64 } ∧
          ∀ b, b < a ∨ a + 16 ≤ b → b < x.ctl + 8 ∨ x.ctl + 16 ≤ b → Cells.get t.mem b = Cells.get s.mem b) ∧
      (x.size - 16 < (x.wp + (2 ^ 64 - x.rp)) % 2 ^ 64 →
        let rp := natOf (Cells.read s.mem (x.ctl + 16) 8)
        x.size - 16 < (x.wp + (2 ^ 64 - rp)) % 2 ^ 64 → ∃ t, exec (.traceRecordWrite k) s = .next t ∧
          t.tracer = { x with rp := rp, drop := (x.drop + 1) % 2 ^ 64 } ∧
          Cells.read t.mem x.ctl 8 = bytesOf 8 ((x.drop + 1) % 2 ^ 64) ∧
          ∀ b, b < x.ctl ∨ x.ctl + 8 ≤ b → Cells.get t.mem b = Cells.get s.mem b))) ∧
  (∀ s : State, (s.tracer.size = 0 → exec .traceRpRead s = .next s) ∧
    (s.tracer.size ≠ 0 → s.bindings = [] → s.lost = [] → ∃ t, exec .traceRpRead s = .next t ∧ s.SameBytes t ∧
      t.tracer = { s.tracer with rp := natOf (Cells.read s.mem (s.tracer.ctl + 16) 8) })) ∧
  ∀ (s : State) (n : Nat), ((s.core n).zeroing = false → exec (.scratchZeroingComplete n) s = .next s) ∧
    ((s.core n).zeroing = true → (s.core n).copyq = [] → Memory.wf (s.core n).lmem = true →
      ∃ t, exec (.scratchZeroingComplete n) s = .next t ∧ (t.core n).zeroing = false ∧ (t.core n).rings = [] ∧
        (t.core n).accs = [] ∧ (t.core n).skips = [] ∧ (t.core n).land = [] ∧ ∀ a, Cells.get (t.core n).lmem a =
          if (∃ e ∈ (s.core n).frames, e.2.occupies = true ∧ e.2.base ≤ a ∧ a < e.2.base + e.2.bytes) ∧
            ¬ (s.fstore ≤ a ∧ a < 0x180000) then Cells.get (s.core n).lmem a else 0)

/-- Mailbox commands, run while the module is active and the service core free, each with its answer (R317, Table
14-1): QUEUE_SET and QUEUE_STATE (R273), TRACE_BUF (R315), BRIELO_SET (R319), POWER_STATE (R323), LIFECYCLE (R322),
FW_UPDATE (R321), EVENT_LOG, the vendor codes that Table 14-1 does not list, and SPDM requests, answered with the
identity and the measurements (R322); a restarting service core makes them wait (R282). Routing (R319), power (R323)
and the errors of R309-R311 and R282. That memory reads as zero after a power loss is the model's choice (log entry 1).
The model's own choices and inferences: log entries 1, 5, 45, 46, 47, 48, 49, 53, 54 and 77. -/
def Obligations.FirmwareEvents : Prop :=
  (∀ s : State, s.power = .active → s.service.down = false → (∀ o ∈ s.service.ops, o.op ≠ 5) →
    let answered (code : Nat) (ok : Bool) (t : State) : Prop :=
      t.service.mailbox = s.service.mailbox ++ [⟨code, if ok then .ok else .refused, []⟩]
    (∀ (q : Nat) (e : BitVec 512),
      let ws := wordsOfBytes 8 (bytesOf 64 e.toNat)
      (q < 65536 → s.tableEntryOk ws = true → Memory.wf s.mem = true → ∃ t, exec (.queueSet q e) s = .next t ∧
        answered 0xC001 true t ∧ Cells.read t.mem (s.tableAt q) 64 = bytesOf 64 e.toNat ∧ (t.queue q).entry = ws ∧
        (t.queue q).state = ((wordAt ws 3).extractLsb' 0 2).toNat ∧
        (t.queue q).head = ((wordAt ws 4).extractLsb' 0 32).toNat) ∧
      (65536 ≤ q ∨ (wordAt ws 3).extractLsb' 24 5 = 0 → ∃ t, exec (.queueSet q e) s = .next t ∧ answered 0xC001 false t ∧
        s.SameBytes t ∧ t.queues = s.queues)) ∧
    (∀ q : Nat, (q < 65536 → ∃ t, exec (.queueState q false) s = .next t ∧ answered 0xC002 true t ∧ (t.queue q).state = 0) ∧
      (65536 ≤ q → ∃ t, exec (.queueState q true) s = .next t ∧ answered 0xC002 false t ∧ t.queues = s.queues)) ∧
    (∀ b n c : Word, (n = 0 → ∃ t, exec (.traceBuf b n c) s = .next t ∧ answered 0xC010 true t ∧
        t.tracer = ⟨b.toNat, 0, c.toNat, 0, 0, 0⟩ ∧ (c.toNat % 64 = 0 → c.toNat + 64 ≤ hbmEnd → s.bindings = [] →
          Memory.wf s.mem = true → ∀ a, Cells.get t.mem a = if c.toNat ≤ a ∧ a < c.toNat + 24 then 0 else Cells.get s.mem a)) ∧
      (∀ k, 12 ≤ k → k ≤ 30 → n = BitVec.ofNat 64 (2 ^ k) → b.toNat % 2 ^ k = 0 → c.toNat % 64 = 0 →
        b.toNat + 2 ^ k ≤ hbmEnd → c.toNat + 64 ≤ hbmEnd → s.bindings = [] → Memory.wf s.mem = true →
        ∃ t, exec (.traceBuf b n c) s = .next t ∧ answered 0xC010 true t ∧ t.tracer = ⟨b.toNat, 2 ^ k, c.toNat, 0, 0, 0⟩ ∧
          ∀ a, Cells.get t.mem a = if c.toNat ≤ a ∧ a < c.toNat + 24 then 0 else Cells.get s.mem a) ∧
      (n ≠ 0 → n.toNat < 4096 ∨ c.toNat % 64 ≠ 0 → ∃ t, exec (.traceBuf b n c) s = .next t ∧ answered 0xC010 false t ∧
        t.tracer = s.tracer)) ∧
    (∀ (num : BitVec 8) (tb : BitVec 2048), s.brielo.drain = [] → s.brielo.failed = [] →
      let entry (m : Nat) : Nat := tb.toNat / 2 ^ (8 * m) % 256
      ((∀ m < 256, entry m < 16) → ∃ t, exec (.brieloSet num tb) s = .next t ∧ answered 0xC020 true t ∧
        t.brielo.number = num.toNat ∧ ∀ m < 256, SMap.find t.brielo.routes m =
          if 8 ≤ entry m then some (entry m - 8) else none) ∧
      ((∃ m < 256, 16 ≤ entry m) → ∃ t, exec (.brieloSet num tb) s = .next t ∧ answered 0xC020 false t ∧
        t.brielo = s.brielo)) ∧
    (exec (.powerState true) s = .next { s with service := { s.service with ops := s.service.ops ++ [⟨5, 0, 0, 0, 1, none, 0, []⟩] } }) ∧
    (∀ (l : Lifecycle) (ok : Bool), (ok = true ∧ s.flash.lifecycle.mayBecome l = true → ∃ t, exec (.lifecycle l ok) s = .next t ∧
        answered 0xC040 true t ∧ t.flash = { s.flash with pendingLife := some l }) ∧
      (¬ (ok = true ∧ s.flash.lifecycle.mayBecome l = true) → ∃ t, exec (.lifecycle l ok) s = .next t ∧
        answered 0xC040 false t ∧ t.flash = s.flash)) ∧
    (∀ v : Nat, (s.flash.slotB = false → ∃ t, exec (.fwUpdate v true) s = .next t ∧ answered 0xC050 true t ∧
        t.flash.imageB = some v ∧ t.flash.imageA = s.flash.imageA ∧ t.flash.slotB = false) ∧
      (s.flash.slotB = true → ∃ t, exec (.fwUpdate v true) s = .next t ∧ answered 0xC050 true t ∧
        t.flash.imageA = some v ∧ t.flash.imageB = s.flash.imageB ∧ t.flash.slotB = true) ∧
      ∃ t, exec (.fwUpdate v false) s = .next t ∧ answered 0xC050 false t ∧ t.flash = s.flash) ∧
    (∃ t, exec .eventLog s = .next t ∧ t.service.mailbox = s.service.mailbox ++ [⟨0xC060, .ok, s.service.log⟩]) ∧
    (∀ c : BitVec 16, c.toNat ∉ [0xC001, 0xC002, 0xC010, 0xC020, 0xC030, 0xC040, 0xC050, 0xC060] →
      ∃ t, exec (.mailboxUnsupported c) s = .next t ∧
        t.service.mailbox = s.service.mailbox ++ [⟨c.toNat, .unsupported, []⟩]) ∧
    ∀ q : SpdmReq, ∃ t, exec (.spdmRequest q) s = .next t ∧ t.service.spdm = s.service.spdm ++
      [⟨q, s.service.key, (s.flash.record.map (·.certificate)).getD [], s.service.measured⟩]) ∧
  (∀ (a b : Lifecycle), a.mayBecome b = true ↔ (a, b) ∈ ([(.manufacturing, .provisioned), (.provisioned, .deployed),
    (.deployed, .authorisedDebug), (.authorisedDebug, .deployed)] : List (Lifecycle × Lifecycle)) ∨
    (b = .decommissioned ∧ a ≠ .decommissioned)) ∧
  (∀ s : State, s.power = .active → s.service.down = true → exec .eventLog s = .next { s with service :=
    { s.service with waiting := s.service.waiting ++ [.eventLog] } }) ∧
  (∀ s : State, s.power = .retention → s.service.down = false → (∀ o ∈ s.service.ops, o.op ≠ 5) →
    ∃ t, exec (.powerState false) s = .next t ∧ t.power = .waking ∧
      t.service.mailbox = s.service.mailbox ++ [⟨0xC030, .ok, []⟩]) ∧
  (∀ (s : State) (g : Region), s.power = .waking → s.region 1 = some g → ∃ t, exec .retentionExit s = .next t ∧
    t.power = .active ∧ (t.region 1).map (·.susp) = some false ∧
    (∀ r : Nat, r ≠ 1 → (s.region r).isSome → (t.region r).map (·.susp) = some true) ∧ (∀ n, (t.core n).bp = [] ∧ (t.core n).wp = [] ∧
      (t.core n).rings = [] ∧ (t.core n).accs = []) ∧ ∀ a, winBase ≤ a → a < winEnd → Cells.get t.mem a = 0) ∧
  (∀ s : State, exec .serviceCoreRestartComplete s = .next { s with service := { s.service with down := false } }) ∧
  (∀ s : State, ∃ t, exec .modulePowerLoss s = .next t ∧ t.power = .off ∧ t.flash = s.flash ∧ t.hostMem = s.hostMem ∧
    t.cores = [] ∧ t.regions = [] ∧ t.net = [] ∧ ∀ a, Cells.get t.mem a = 0) ∧
  (∀ (s : State) (m p : Nat), SMap.find s.brielo.drain m = some p → SMap.Rising s.brielo.drain →
    (SMap.get s.brielo.unconfirmed (256 * p + m) 0 ≠ 0 → exec (.routeChangeDrain m) s = .next s) ∧
    (SMap.get s.brielo.unconfirmed (256 * p + m) 0 = 0 → s.brielo.waiting = [] →
      ∃ t, exec (.routeChangeDrain m) s = .next t ∧ SMap.find t.brielo.drain m = none ∧ t.net = s.net)) ∧
  (∀ (s : State) (p m c : Nat) (x : Packet) (l : List Packet), s.net = x :: l → x.dst = .peer m →
    SMap.find s.brielo.unconfirmed (256 * p + m) = some (c + 1) → ∃ t, exec (.linkLevelConfirmation p m) s = .next t ∧
      t.net = l ∧ SMap.find t.brielo.unconfirmed (256 * p + m) = some c ∧ s.SameBytes t) ∧
  (∀ (s : State) (p : Nat), p < 8 → p ∉ s.brielo.failed → s.brielo.drain = [] →
    ∃ t, exec (.brieloPortFailure p) s = .next t ∧ t.brielo.routes = s.brielo.routes.filter (·.2 != p) ∧
      p ∈ t.brielo.failed ∧ t.service.log = s.service.log ++ [.linkFailure p] ∧ s.SameBytes t) ∧
  ∀ s : State,
    (∀ a, a < hbmEnd → ∃ t, exec (.uncorrectableEcc (.globalWord a)) s = .next t ∧ a / 8 ∈ t.poison ∧ s.SameBytes t) ∧
    (∀ n a, n < 2048 → a < 0x180000 → ∃ t, exec (.uncorrectableEcc (.localWord n a)) s = .next t ∧
      a / 8 ∈ (t.core n).lpoison ∧ s.SameBytes t) ∧
    (s.service.down = false → ∃ t, exec (.uncorrectableEcc .serviceCore) s = .next t ∧ t.service.down = true ∧
      t.service.log = s.service.log ++ [.restart]) ∧
    (∀ q, q < 65536 → ∃ t, exec (.uncorrectableEcc (.queueTable q)) s = .next t ∧ (t.queue q).state = 2) ∧
    ∀ (n i : Nat) (e : ReadyEntry) (g : Region), (s.core n).ready[i]? = some e → s.region e.region = some g →
      s.domainOf e.region = some 1 → ∃ t, exec (.uncorrectableEcc (.readyQueue n i)) s = .next t ∧
        (t.region e.region).map (·.susp) = some true ∧ t.Reports 0x14 3 (.core n)
end

