-- ==== Sys2Proof/Laws/Bits.lean ====
section
/-! SUPPORT. Finite maps and memories: what reads find after writes, and that every memory operation keeps the canonical
form. -/

namespace Sys2Proof.Machine

open Sys2Proof

/-! ## Finite maps -/

@[simp] theorem SMap.find_set {α : Type} (m : SMap α) (k i : Nat) (x : α) :
    SMap.find (SMap.set m k x) i = if i = k then some x else SMap.find m i := by
  induction m with
  | nil => grind [SMap.set, SMap.find]
  | cons e m ih => grind [SMap.set, SMap.find]

@[simp] theorem SMap.get_set {α : Type} (m : SMap α) (k i : Nat) (x d : α) :
    SMap.get (SMap.set m k x) i d = if i = k then x else SMap.get m i d := by
  simp only [SMap.get, SMap.find_set]; split <;> rfl

@[simp] theorem SMap.has_set {α : Type} (m : SMap α) (k i : Nat) (x : α) :
    SMap.has (SMap.set m k x) i = (decide (i = k) || SMap.has m i) := by
  simp only [SMap.has, SMap.find_set]; split <;> simp_all

@[simp] theorem SMap.set_set {α : Type} (m : SMap α) (k : Nat) (x y : α) :
    SMap.set (SMap.set m k x) k y = SMap.set m k y := by
  induction m with
  | nil => grind [SMap.set]
  | cons e m ih => grind [SMap.set]

@[simp] theorem SMap.find_nil {α : Type} (i : Nat) : SMap.find ([] : SMap α) i = none := rfl

/-- What every turn of a fold keeps, the fold keeps. -/
theorem foldl_keeps {α β : Type} (P : α → Prop) (f : α → β → α) (h : ∀ a b, P a → P (f a b)) :
    ∀ (l : List β) (a : α), P a → P (l.foldl f a)
  | [], _, ha => ha
  | b :: l, a, ha => foldl_keeps P f h l (f a b) (h a b ha)

theorem SMap.mem_of_find {α : Type} {m : SMap α} {i : Nat} {x : α} (h : SMap.find m i = some x) : (i, x) ∈ m := by
  induction m with
  | nil => simp at h
  | cons e m ih => grind [SMap.find]

theorem SMap.mem_set {α : Type} {m : SMap α} {k : Nat} {x : α} {e : Nat × α} (h : e ∈ SMap.set m k x) :
    e = (k, x) ∨ e ∈ m := by
  induction m with
  | nil => simpa [SMap.set] using h
  | cons f m ih => grind [SMap.set]

/-! ## The canonical form of a memory -/

theorem Cells.wfFrom_cons (lo k : Nat) (v : Byte) (m : List Host.Cell) :
    Cells.wfFrom lo ((k, v) :: m) = true ↔ lo ≤ k ∧ v ≠ 0 ∧ Cells.wfFrom (k + 1) m = true := by
  simp only [Cells.wfFrom, Bool.and_eq_true, decide_eq_true_eq, bne_iff_ne, and_assoc]

theorem Cells.wfFrom_mono {lo lo' : Nat} {m : List Host.Cell} (h : Cells.wfFrom lo m = true) (hl : lo' ≤ lo) :
    Cells.wfFrom lo' m = true := by
  cases m with
  | nil => rfl
  | cons e m =>
    rw [Cells.wfFrom_cons] at h ⊢
    exact ⟨hl.trans h.1, h.2⟩

theorem Cells.get_below {lo i : Nat} {m : List Host.Cell} (h : Cells.wfFrom lo m = true) (hi : i < lo) :
    Cells.get m i = 0 := by
  cases m with
  | nil => rfl
  | cons e m =>
    rw [Cells.wfFrom_cons] at h
    simp only [Cells.get]
    rw [if_neg (by omega), if_pos (by omega)]

theorem Cells.wfFrom_set {lo : Nat} {m : List Host.Cell} (a : Nat) (b : Byte) (h : Cells.wfFrom lo m = true)
    (ha : lo ≤ a) : Cells.wfFrom lo (Cells.set m a b) = true := by
  induction m generalizing lo with
  | nil =>
    simp only [Cells.set]
    split
    · rfl
    · rename_i hb; exact (Cells.wfFrom_cons ..).2 ⟨ha, hb, rfl⟩
  | cons e m ih =>
    obtain ⟨k, v⟩ := e
    obtain ⟨hk, hv, hm⟩ := (Cells.wfFrom_cons ..).1 h
    simp only [Cells.set]
    split
    · split
      · exact h
      · rename_i hak hb
        exact (Cells.wfFrom_cons ..).2 ⟨ha, hb, (Cells.wfFrom_cons ..).2 ⟨hak, hv, hm⟩⟩
    · split
      · split
        · exact Cells.wfFrom_mono hm (by omega)
        · rename_i e hb; subst e; exact (Cells.wfFrom_cons ..).2 ⟨ha, hb, hm⟩
      · exact (Cells.wfFrom_cons ..).2 ⟨hk, hv, ih hm (by omega)⟩

theorem Cells.get_set_from {lo : Nat} {m : List Host.Cell} (a i : Nat) (b : Byte) (h : Cells.wfFrom lo m = true) :
    Cells.get (Cells.set m a b) i = if i = a then b else Cells.get m i := by
  induction m generalizing lo with
  | nil =>
    simp only [Cells.set]
    split
    · rename_i hb; simp only [Cells.get, hb, ite_self]
    · simp only [Cells.get, eq_comm (a := a), ite_self]
  | cons e m ih =>
    obtain ⟨k, v⟩ := e
    obtain ⟨hk, hv, hm⟩ := (Cells.wfFrom_cons ..).1 h
    have low : i ≤ k → Cells.get m i = 0 := fun hi => Cells.get_below hm (by omega)
    simp only [Cells.set]
    split
    · split
      · rename_i hak hb
        by_cases hi : i = a
        · simp only [Cells.get, hi, hb, if_pos, if_pos hak, if_neg (show ¬ k = a by omega)]
        · rw [if_neg hi]
      · rename_i hak hb
        simp only [Cells.get]
        by_cases hi : i = a
        · simp [hi]
        · rw [if_neg (fun e => hi e.symm), if_neg hi]
          by_cases hl : i < a
          · rw [if_pos hl, if_neg (by omega), if_pos (by omega)]
          · rw [if_neg hl]
    · split
      · rename_i hak e
        subst e
        split
        · rename_i hb
          by_cases hi : i = a
          · rw [if_pos hi, hb]; exact low (by omega)
          · rw [if_neg hi]; simp only [Cells.get, if_neg (fun e => hi (Eq.symm e))]
            split
            · exact low (by omega)
            · rfl
        · by_cases hi : i = a
          · simp [Cells.get, hi]
          · simp only [Cells.get, if_neg (fun e => hi (Eq.symm e)), if_neg hi]
      · rename_i hak hne
        simp only [Cells.get, ih hm]
        by_cases hi : i = a
        · rw [if_neg (by omega), if_neg (by omega), if_pos hi, if_pos hi]
        · simp only [if_neg hi]

@[simp] theorem Memory.wf_nil : Memory.wf [] = true := rfl

theorem Memory.wf_set {m : List Host.Cell} (a : Nat) (b : Byte) (h : Memory.wf m = true) :
    Memory.wf (Cells.set m a b) = true := Cells.wfFrom_set a b h (Nat.zero_le a)

/-- A read after a write of one byte. -/
theorem Cells.get_set {m : List Host.Cell} (a i : Nat) (b : Byte) (h : Memory.wf m = true) :
    Cells.get (Cells.set m a b) i = if i = a then b else Cells.get m i := Cells.get_set_from a i b h

@[simp] theorem Memory.wf_write {m : List Host.Cell} (a : Nat) (bs : List Byte) (h : Memory.wf m = true) :
    Memory.wf (Cells.write m a bs) = true := by
  induction bs generalizing m a with
  | nil => exact h
  | cons b bs ih => exact ih (a + 1) (Memory.wf_set a b h)

@[simp] theorem Memory.wf_writeSome {m : List Host.Cell} (a : Nat) (bs : List (Option Byte)) (h : Memory.wf m = true) :
    Memory.wf (Cells.writeSome m a bs) = true := by
  induction bs generalizing m a with
  | nil => exact h
  | cons b bs ih =>
    cases b with
    | none => exact ih (a + 1) h
    | some b => exact ih (a + 1) (Memory.wf_set a b h)

theorem Cells.wfFrom_filter {lo : Nat} {m : List Host.Cell} (p : Host.Cell → Bool) (h : Cells.wfFrom lo m = true) :
    Cells.wfFrom lo (m.filter p) = true := by
  induction m generalizing lo with
  | nil => rfl
  | cons e m ih =>
    obtain ⟨k, v⟩ := e
    obtain ⟨hk, hv, hm⟩ := (Cells.wfFrom_cons ..).1 h
    rw [List.filter_cons]
    split
    · exact (Cells.wfFrom_cons ..).2 ⟨hk, hv, ih hm⟩
    · exact Cells.wfFrom_mono (ih hm) (by omega)

@[simp] theorem Memory.wf_filter {m : List Host.Cell} (p : Host.Cell → Bool) (h : Memory.wf m = true) :
    Memory.wf (m.filter p) = true := Cells.wfFrom_filter p h

@[simp] theorem Memory.wf_clear {m : List Host.Cell} (lo hi : Nat) (h : Memory.wf m = true) :
    Memory.wf (Cells.clear m lo hi) = true := Memory.wf_filter _ h

/-- Bytes outside those written read as before. -/
theorem Cells.get_write_outside {m : List Host.Cell} (a i : Nat) (bs : List Byte) (h : Memory.wf m = true)
    (hi : i < a ∨ a + bs.length ≤ i) : Cells.get (Cells.write m a bs) i = Cells.get m i := by
  induction bs generalizing m a with
  | nil => rfl
  | cons b bs ih =>
    simp only [List.length_cons] at hi
    rw [Cells.write, ih (a + 1) (Memory.wf_set a b h) (by omega), Cells.get_set a i b h, if_neg (by omega)]

/-- A byte written reads as it was written. -/
theorem Cells.get_write_inside {m : List Host.Cell} (a k : Nat) (bs : List Byte) (h : Memory.wf m = true)
    (hk : k < bs.length) : Cells.get (Cells.write m a bs) (a + k) = bs[k] := by
  induction bs generalizing m a k with
  | nil => simp at hk
  | cons b bs ih =>
    rw [Cells.write]
    cases k with
    | zero =>
      rw [Cells.get_write_outside _ _ _ (Memory.wf_set a b h) (by omega), Nat.add_zero, Cells.get_set a a b h, if_pos rfl]
      rfl
    | succ k =>
      rw [show a + (k + 1) = a + 1 + k by omega, ih (a + 1) k (Memory.wf_set a b h) (by simpa using hk)]
      rfl

/-- Bytes read back from where they were written. -/
theorem Cells.read_write {m : List Host.Cell} (a : Nat) (bs : List Byte) (h : Memory.wf m = true) :
    Cells.read (Cells.write m a bs) a bs.length = bs := by
  induction bs generalizing m a with
  | nil => rfl
  | cons b bs ih =>
    rw [List.length_cons, Cells.read, Cells.write, ih (a + 1) (Memory.wf_set a b h),
      Cells.get_write_outside _ _ _ (Memory.wf_set a b h) (by omega), Cells.get_set a a b h, if_pos rfl]

end Sys2Proof.Machine
end

