-- ==== Sys2Proof/Laws/Dispatch.lean ====
section
/-! SUPPORT. Each arm of the dispatcher as an equation, so that no proof unfolds the dispatcher. -/

namespace Sys2Proof.Machine

open Sys2Proof

theorem exec_add (g : Guard) (d a b : XReg) (s : State) : exec (.add g d a b) s = execAdd g d a b s := rfl
theorem exec_sub (g : Guard) (d a b : XReg) (s : State) : exec (.sub g d a b) s = execSub g d a b s := rfl
theorem exec_and (g : Guard) (d a b : XReg) (s : State) : exec (.and g d a b) s = execAnd g d a b s := rfl
theorem exec_or (g : Guard) (d a b : XReg) (s : State) : exec (.or g d a b) s = execOr g d a b s := rfl
theorem exec_xor (g : Guard) (d a b : XReg) (s : State) : exec (.xor g d a b) s = execXor g d a b s := rfl
theorem exec_shl (g : Guard) (d a b : XReg) (s : State) : exec (.shl g d a b) s = execShl g d a b s := rfl
theorem exec_shr (g : Guard) (d a b : XReg) (s : State) : exec (.shr g d a b) s = execShr g d a b s := rfl
theorem exec_sar (g : Guard) (d a b : XReg) (s : State) : exec (.sar g d a b) s = execSar g d a b s := rfl
theorem exec_min (g : Guard) (d a b : XReg) (s : State) : exec (.min g d a b) s = execMin g d a b s := rfl
theorem exec_max (g : Guard) (d a b : XReg) (s : State) : exec (.max g d a b) s = execMax g d a b s := rfl
theorem exec_minu (g : Guard) (d a b : XReg) (s : State) : exec (.minu g d a b) s = execMinu g d a b s := rfl
theorem exec_maxu (g : Guard) (d a b : XReg) (s : State) : exec (.maxu g d a b) s = execMaxu g d a b s := rfl
theorem exec_mul (g : Guard) (d a b : XReg) (s : State) : exec (.mul g d a b) s = execMul g d a b s := rfl
theorem exec_mulh (g : Guard) (d a b : XReg) (s : State) : exec (.mulh g d a b) s = execMulh g d a b s := rfl
theorem exec_mulhu (g : Guard) (d a b : XReg) (s : State) : exec (.mulhu g d a b) s = execMulhu g d a b s := rfl
theorem exec_div (g : Guard) (d a b : XReg) (s : State) : exec (.div g d a b) s = execDiv g d a b s := rfl
theorem exec_divu (g : Guard) (d a b : XReg) (s : State) : exec (.divu g d a b) s = execDivu g d a b s := rfl
theorem exec_rem (g : Guard) (d a b : XReg) (s : State) : exec (.rem g d a b) s = execRem g d a b s := rfl
theorem exec_remu (g : Guard) (d a b : XReg) (s : State) : exec (.remu g d a b) s = execRemu g d a b s := rfl
theorem exec_clz (g : Guard) (d a : XReg) (s : State) : exec (.clz g d a) s = execClz g d a s := rfl
theorem exec_ctz (g : Guard) (d a : XReg) (s : State) : exec (.ctz g d a) s = execCtz g d a s := rfl
theorem exec_popc (g : Guard) (d a : XReg) (s : State) : exec (.popc g d a) s = execPopc g d a s := rfl
theorem exec_addi (g : Guard) (d a : XReg) (imm : BitVec 11) (s : State) :
    exec (.addi g d a imm) s = execAddi g d a imm s := rfl
theorem exec_andi (g : Guard) (d a : XReg) (imm : BitVec 11) (s : State) :
    exec (.andi g d a imm) s = execAndi g d a imm s := rfl
theorem exec_ori (g : Guard) (d a : XReg) (imm : BitVec 11) (s : State) :
    exec (.ori g d a imm) s = execOri g d a imm s := rfl
theorem exec_xori (g : Guard) (d a : XReg) (imm : BitVec 11) (s : State) :
    exec (.xori g d a imm) s = execXori g d a imm s := rfl
theorem exec_shli (g : Guard) (d a : XReg) (sh : BitVec 6) (s : State) :
    exec (.shli g d a sh) s = execShli g d a sh s := rfl
theorem exec_shri (g : Guard) (d a : XReg) (sh : BitVec 6) (s : State) :
    exec (.shri g d a sh) s = execShri g d a sh s := rfl
theorem exec_sari (g : Guard) (d a : XReg) (sh : BitVec 6) (s : State) :
    exec (.sari g d a sh) s = execSari g d a sh s := rfl
theorem exec_sel (g : Guard) (d a b : XReg) (k : PReg) (s : State) :
    exec (.sel g d a b k) s = execSel g d a b k s := rfl
theorem exec_setp (g : Guard) (cond : Cond) (pd : PReg) (a b : XReg) (s : State) :
    exec (.setp g cond pd a b) s = execSetp g cond pd a b s := rfl
theorem exec_setpiA (g : Guard) (cond : CondA) (pd : PReg) (a : XReg) (imm : BitVec 11) (s : State) :
    exec (.setpiA g cond pd a imm) s = execSetpiA g cond pd a imm s := rfl
theorem exec_setpiB (g : Guard) (cond : CondB) (pd : PReg) (a : XReg) (imm : BitVec 11) (s : State) :
    exec (.setpiB g cond pd a imm) s = execSetpiB g cond pd a imm s := rfl
theorem exec_fsetp (g : Guard) (prec : Prec) (cond : FCond) (pd : PReg) (a b : XReg) (s : State) :
    exec (.fsetp g prec cond pd a b) s = execFsetp g prec cond pd a b s := rfl
theorem exec_plog (g : Guard) (op : PlogOp) (pd pa pb : PReg) (s : State) :
    exec (.plog g op pd pa pb) s = execPlog g op pd pa pb s := rfl
theorem exec_fadd (g : Guard) (prec : Prec) (sat : Bool) (rnd : Rnd) (d a b : XReg) (s : State) :
    exec (.fadd g prec sat rnd d a b) s = execFadd g prec sat rnd d a b s := rfl
theorem exec_fsub (g : Guard) (prec : Prec) (sat : Bool) (rnd : Rnd) (d a b : XReg) (s : State) :
    exec (.fsub g prec sat rnd d a b) s = execFsub g prec sat rnd d a b s := rfl
theorem exec_fmul (g : Guard) (prec : Prec) (sat : Bool) (rnd : Rnd) (d a b : XReg) (s : State) :
    exec (.fmul g prec sat rnd d a b) s = execFmul g prec sat rnd d a b s := rfl
theorem exec_ffma (g : Guard) (prec : Prec) (sat : Bool) (rnd : Rnd) (d a b : XReg) (s : State) :
    exec (.ffma g prec sat rnd d a b) s = execFfma g prec sat rnd d a b s := rfl
theorem exec_fdiv (g : Guard) (prec : Prec) (sat : Bool) (rnd : Rnd) (d a b : XReg) (s : State) :
    exec (.fdiv g prec sat rnd d a b) s = execFdiv g prec sat rnd d a b s := rfl
theorem exec_fsqrt (g : Guard) (prec : Prec) (sat : Bool) (rnd : Rnd) (d a : XReg) (s : State) :
    exec (.fsqrt g prec sat rnd d a) s = execFsqrt g prec sat rnd d a s := rfl
theorem exec_fmin (g : Guard) (prec : Prec) (d a b : XReg) (s : State) :
    exec (.fmin g prec d a b) s = execFmin g prec d a b s := rfl
theorem exec_fmax (g : Guard) (prec : Prec) (d a b : XReg) (s : State) :
    exec (.fmax g prec d a b) s = execFmax g prec d a b s := rfl
theorem exec_fclass (g : Guard) (prec : Prec) (d a : XReg) (s : State) :
    exec (.fclass g prec d a) s = execFclass g prec d a s := rfl
theorem exec_fcvt (g : Guard) (cv : Cvt) (sat : Bool) (rnd : Rnd) (d a : XReg) (s : State) :
    exec (.fcvt g cv sat rnd d a) s = execFcvt g cv sat rnd d a s := rfl
theorem exec_br (g : Guard) (off : BitVec 21) (s : State) : exec (.br g off) s = execB g off s := rfl
theorem exec_call (g : Guard) (off : BitVec 21) (s : State) : exec (.call g off) s = execCall g off s := rfl
theorem exec_jr (g : Guard) (a : XReg) (s : State) : exec (.jr g a) s = execJr g a s := rfl
theorem exec_ret (g : Guard) (s : State) : exec (.ret g) s = execRet g s := rfl
theorem exec_rep (g : Guard) (a : XReg) (n : BitVec 7) (s : State) : exec (.rep g a n) s = execRep g a n s := rfl
theorem exec_fin (g : Guard) (s : State) : exec (.fin g) s = execFin g s := rfl
theorem exec_park (g : Guard) (a : XReg) (s : State) : exec (.park g a) s = execPark g a s := rfl
theorem exec_nop (g : Guard) (s : State) : exec (.nop g) s = execNop g s := rfl
theorem exec_brk (g : Guard) (code : BitVec 15) (s : State) : exec (.brk g code) s = execBrk g code s := rfl
theorem exec_trap (g : Guard) (code : BitVec 15) (s : State) : exec (.trap g code) s = execTrap g code s := rfl
theorem exec_svc (g : Guard) (code : BitVec 15) (s : State) : exec (.svc g code) s = execSvc g code s := rfl
theorem exec_falloc (g : Guard) (d : XReg) (cls : BitVec 3) (s : State) :
    exec (.falloc g d cls) s = execFalloc g d cls s := rfl
theorem exec_ffree (g : Guard) (a : XReg) (s : State) : exec (.ffree g a) s = execFfree g a s := rfl
theorem exec_sloti (g : Guard) (a b : XReg) (s : State) : exec (.sloti g a b) s = execSloti g a b s := rfl
theorem exec_slotr (g : Guard) (d a : XReg) (s : State) : exec (.slotr g d a) s = execSlotr g d a s := rfl
theorem exec_sig (g : Guard) (rel n : Bool) (a : XReg) (s : State) :
    exec (.sig g rel n a) s = execSig g rel n a s := rfl
theorem exec_sigd (g : Guard) (rel n : Bool) (a b : XReg) (dw : BitVec 5) (s : State) :
    exec (.sigd g rel n a b dw) s = execSigd g rel n a b dw s := rfl
theorem exec_sigv (g : Guard) (rel n : Bool) (a : XReg) (vb : VReg) (dw : BitVec 5) (s : State) :
    exec (.sigv g rel n a vb dw) s = execSigv g rel n a vb dw s := rfl
theorem exec_sref (g : Guard) (d a : XReg) (imm : BitVec 11) (s : State) :
    exec (.sref g d a imm) s = execSref g d a imm s := rfl
theorem exec_amsg (g : Guard) (xg : XReg) (s : State) : exec (.amsg g xg) s = execAmsg g xg s := rfl
theorem exec_arm (g : Guard) (xg : XReg) (s : State) : exec (.arm g xg) s = execArm g xg s := rfl
theorem exec_ld (g : Guard) (sz : Size) (u : Bool) (d a : XReg) (off : BitVec 8) (s : State) :
    exec (.ld g sz u d a off) s = execLd g sz u d a off s := rfl
theorem exec_st (g : Guard) (sz : Size) (c a : XReg) (off : BitVec 8) (s : State) :
    exec (.st g sz c a off) s = execSt g sz c a off s := rfl
theorem exec_ldz (g : Guard) (vd : VReg) (a b : XReg) (s : State) : exec (.ldz g vd a b) s = execLdz g vd a b s := rfl
theorem exec_stz (g : Guard) (vc : VReg) (a b : XReg) (s : State) : exec (.stz g vc a b) s = execStz g vc a b s := rfl
theorem exec_gld (g : Guard) (lu : Bool) (evp : Evp) (sz : Size) (byt n : Bool) (xg y : XReg) (s : State) :
    exec (.gld g lu evp sz byt n xg y) s = execGld g lu evp sz byt n xg y s := rfl
theorem exec_ldl (g : Guard) (sz : Size) (u : Bool) (d a : XReg) (off : BitVec 8) (s : State) :
    exec (.ldl g sz u d a off) s = execLdl g sz u d a off s := rfl
theorem exec_gst (g : Guard) (sz : Size) (t : Bool) (c a : XReg) (off : BitVec 8) (s : State) :
    exec (.gst g sz t c a off) s = execGst g sz t c a off s := rfl
theorem exec_gstv (g : Guard) (vc : VReg) (a : XReg) (m : MReg) (off : BitVec 8) (s : State) :
    exec (.gstv g vc a m off) s = execGstv g vc a m off s := rfl
theorem exec_pref (g : Guard) (evp : Evp) (a : XReg) (off : BitVec 11) (s : State) :
    exec (.pref g evp a off) s = execPref g evp a off s := rfl
theorem exec_xchg (g : Guard) (ord : Ord) (sz : ASize) (d a b : XReg) (s : State) :
    exec (.xchg g ord sz d a b) s = execXchg g ord sz d a b s := rfl
theorem exec_cas (g : Guard) (ord : Ord) (sz : ASize) (d a b : XReg) (s : State) :
    exec (.cas g ord sz d a b) s = execCas g ord sz d a b s := rfl
theorem exec_cas2 (g : Guard) (ord : Ord) (d a b : XReg) (s : State) :
    exec (.cas2 g ord d a b) s = execCas2 g ord d a b s := rfl
theorem exec_faa (g : Guard) (ord : Ord) (sz : ASize) (d a b : XReg) (s : State) :
    exec (.faa g ord sz d a b) s = execFaa g ord sz d a b s := rfl
theorem exec_amax (g : Guard) (ord : Ord) (sz : ASize) (d a b : XReg) (s : State) :
    exec (.amax g ord sz d a b) s = execAmax g ord sz d a b s := rfl
theorem exec_amin (g : Guard) (ord : Ord) (sz : ASize) (d a b : XReg) (s : State) :
    exec (.amin g ord sz d a b) s = execAmin g ord sz d a b s := rfl
theorem exec_amaxU (g : Guard) (ord : Ord) (sz : ASize) (d a b : XReg) (s : State) :
    exec (.amaxU g ord sz d a b) s = execAmaxU g ord sz d a b s := rfl
theorem exec_aminU (g : Guard) (ord : Ord) (sz : ASize) (d a b : XReg) (s : State) :
    exec (.aminU g ord sz d a b) s = execAminU g ord sz d a b s := rfl
theorem exec_fence (g : Guard) (w u e : Bool) (scope : Scope) (s : State) :
    exec (.fence g w u e scope) s = execFence g w u e scope s := rfl
theorem exec_fenceqCt (g : Guard) (s : State) : exec (.fenceqCt g) s = execFenceqCt g s := rfl
theorem exec_fenceqTc (g : Guard) (s : State) : exec (.fenceqTc g) s = execFenceqTc g s := rfl
theorem exec_iflush (g : Guard) (a b : XReg) (s : State) : exec (.iflush g a b) s = execIflush g a b s := rfl
theorem exec_iflushAll (g : Guard) (s : State) : exec (.iflushAll g) s = execIflushAll g s := rfl
theorem exec_upd (g : Guard) (a b : XReg) (k : BitVec 3) (s : State) : exec (.upd g a b k) s = execUpd g a b k s := rfl
theorem exec_updv (g : Guard) (xd : XReg) (va vb : VReg) (m : MReg) (k : BitVec 3) (s : State) :
    exec (.updv g xd va vb m k) s = execUpdv g xd va vb m k s := rfl
theorem exec_uapply (g : Guard) (a b : XReg) (s : State) : exec (.uapply g a b) s = execUapply g a b s := rfl
theorem exec_cpy (g : Guard) (fn : CopyFn) (xg y : XReg) (s : State) :
    exec (.cpy g fn xg y) s = execCpy g fn xg y s := rfl
theorem exec_cpy2 (g : Guard) (fn : CopyFn) (xg y : XReg) (s : State) :
    exec (.cpy2 g fn xg y) s = execCpy2 g fn xg y s := rfl
theorem exec_cpym (g : Guard) (byt n : Bool) (xg y : XReg) (s : State) :
    exec (.cpym g byt n xg y) s = execCpym g byt n xg y s := rfl
theorem exec_gthr (g : Guard) (fn : GthrFn) (xg y : XReg) (s : State) :
    exec (.gthr g fn xg y) s = execGthr g fn xg y s := rfl
theorem exec_rcfg (g : Guard) (q : BitVec 3) (xg : XReg) (s : State) : exec (.rcfg g q xg) s = execRcfg g q xg s := rfl
theorem exec_radv (g : Guard) (q : BitVec 3) (xg : XReg) (s : State) : exec (.radv g q xg) s = execRadv g q xg s := rfl
theorem exec_mma (g : Guard) (n t : Bool) (qb qa : BitVec 3) (acc : BitVec 2) (xg y : XReg) (s : State) :
    exec (.mma g n t qb qa acc xg y) s = execMma g n t qb qa acc xg y s := rfl
theorem exec_mmas (g : Guard) (ss : BitVec 2) (n : Bool) (qb qa : BitVec 3) (acc : BitVec 2) (xg y : XReg) (s : State) :
    exec (.mmas g ss n qb qa acc xg y) s = execMmas g ss n qb qa acc xg y s := rfl
theorem exec_mmg (g : Guard) (val : MmgVal) (act : MmgAct) (n : Bool) (xg y : XReg) (s : State) :
    exec (.mmg g val act n xg y) s = execMmg g val act n xg y s := rfl
theorem exec_accz (g : Guard) (acc : BitVec 2) (s : State) : exec (.accz g acc) s = execAccz g acc s := rfl
theorem exec_accld (g : Guard) (n : Bool) (acc : BitVec 2) (xg y : XReg) (s : State) :
    exec (.accld g n acc xg y) s = execAccld g n acc xg y s := rfl
theorem exec_accst (g : Guard) (n sc sat : Bool) (rnd : Rnd) (tag : Tag) (acc : BitVec 2) (xg y : XReg) (s : State) :
    exec (.accst g n sc sat rnd tag acc xg y) s = execAccst g n sc sat rnd tag acc xg y s := rfl
theorem exec_sscfg (g : Guard) (ss : BitVec 2) (xg : XReg) (s : State) :
    exec (.sscfg g ss xg) s = execSscfg g ss xg s := rfl
theorem exec_vadd (g : Guard) (t : VType) (vd va vb : VReg) (m : MReg) (s : State) :
    exec (.vadd g t vd va vb m) s = execVadd g t vd va vb m s := rfl
theorem exec_vsub (g : Guard) (t : VType) (vd va vb : VReg) (m : MReg) (s : State) :
    exec (.vsub g t vd va vb m) s = execVsub g t vd va vb m s := rfl
theorem exec_vmul (g : Guard) (t : VType) (vd va vb : VReg) (m : MReg) (s : State) :
    exec (.vmul g t vd va vb m) s = execVmul g t vd va vb m s := rfl
theorem exec_vfma (g : Guard) (t : VType) (vd va vb : VReg) (m : MReg) (s : State) :
    exec (.vfma g t vd va vb m) s = execVfma g t vd va vb m s := rfl
theorem exec_vmin (g : Guard) (t : VType) (vd va vb : VReg) (m : MReg) (s : State) :
    exec (.vmin g t vd va vb m) s = execVmin g t vd va vb m s := rfl
theorem exec_vmax (g : Guard) (t : VType) (vd va vb : VReg) (m : MReg) (s : State) :
    exec (.vmax g t vd va vb m) s = execVmax g t vd va vb m s := rfl
theorem exec_vabs (g : Guard) (t : VType) (vd va : VReg) (m : MReg) (s : State) :
    exec (.vabs g t vd va m) s = execVabs g t vd va m s := rfl
theorem exec_vneg (g : Guard) (t : VType) (vd va : VReg) (m : MReg) (s : State) :
    exec (.vneg g t vd va m) s = execVneg g t vd va m s := rfl
theorem exec_vand (g : Guard) (vd va vb : VReg) (m : MReg) (s : State) :
    exec (.vand g vd va vb m) s = execVand g vd va vb m s := rfl
theorem exec_vor (g : Guard) (vd va vb : VReg) (m : MReg) (s : State) :
    exec (.vor g vd va vb m) s = execVor g vd va vb m s := rfl
theorem exec_vxor (g : Guard) (vd va vb : VReg) (m : MReg) (s : State) :
    exec (.vxor g vd va vb m) s = execVxor g vd va vb m s := rfl
theorem exec_vselW (g : Guard) (vd va vb : VReg) (m : MReg) (s : State) :
    exec (.vselW g vd va vb m) s = execVselW g vd va vb m s := rfl
theorem exec_vselH (g : Guard) (vd va vb : VReg) (m : MReg) (s : State) :
    exec (.vselH g vd va vb m) s = execVselH g vd va vb m s := rfl
theorem exec_vselB (g : Guard) (vd va vb : VReg) (m : MReg) (s : State) :
    exec (.vselB g vd va vb m) s = execVselB g vd va vb m s := rfl
theorem exec_vshlI32 (g : Guard) (vd va vb : VReg) (m : MReg) (s : State) :
    exec (.vshlI32 g vd va vb m) s = execVshlI32 g vd va vb m s := rfl
theorem exec_vshrI32 (g : Guard) (vd va vb : VReg) (m : MReg) (s : State) :
    exec (.vshrI32 g vd va vb m) s = execVshrI32 g vd va vb m s := rfl
theorem exec_vsarI32 (g : Guard) (vd va vb : VReg) (m : MReg) (s : State) :
    exec (.vsarI32 g vd va vb m) s = execVsarI32 g vd va vb m s := rfl
theorem exec_vshlI16 (g : Guard) (vd va vb : VReg) (m : MReg) (s : State) :
    exec (.vshlI16 g vd va vb m) s = execVshlI16 g vd va vb m s := rfl
theorem exec_vshrI16 (g : Guard) (vd va vb : VReg) (m : MReg) (s : State) :
    exec (.vshrI16 g vd va vb m) s = execVshrI16 g vd va vb m s := rfl
theorem exec_vsarI16 (g : Guard) (vd va vb : VReg) (m : MReg) (s : State) :
    exec (.vsarI16 g vd va vb m) s = execVsarI16 g vd va vb m s := rfl
theorem exec_vcmp (g : Guard) (t : VType) (cond : VCond) (md : MReg) (va vb : VReg) (s : State) :
    exec (.vcmp g t cond md va vb) s = execVcmp g t cond md va vb s := rfl
theorem exec_vrcp (g : Guard) (t : EtF) (vd va : VReg) (m : MReg) (s : State) :
    exec (.vrcp g t vd va m) s = execVrcp g t vd va m s := rfl
theorem exec_vrsq (g : Guard) (t : EtF) (vd va : VReg) (m : MReg) (s : State) :
    exec (.vrsq g t vd va m) s = execVrsq g t vd va m s := rfl
theorem exec_vexp2 (g : Guard) (t : EtF) (vd va : VReg) (m : MReg) (s : State) :
    exec (.vexp2 g t vd va m) s = execVexp2 g t vd va m s := rfl
theorem exec_vlog2 (g : Guard) (t : EtF) (vd va : VReg) (m : MReg) (s : State) :
    exec (.vlog2 g t vd va m) s = execVlog2 g t vd va m s := rfl
theorem exec_viota (g : Guard) (t : EtI) (vd : VReg) (m : MReg) (s : State) :
    exec (.viota g t vd m) s = execViota g t vd m s := rfl
theorem exec_vredAdd (g : Guard) (t : VType) (xd : XReg) (va : VReg) (m : MReg) (s : State) :
    exec (.vredAdd g t xd va m) s = execVredAdd g t xd va m s := rfl
theorem exec_vredMin (g : Guard) (t : VType) (xd : XReg) (va : VReg) (m : MReg) (s : State) :
    exec (.vredMin g t xd va m) s = execVredMin g t xd va m s := rfl
theorem exec_vredMax (g : Guard) (t : VType) (xd : XReg) (va : VReg) (m : MReg) (s : State) :
    exec (.vredMax g t xd va m) s = execVredMax g t xd va m s := rfl
theorem exec_vdotF32 (g : Guard) (xd : XReg) (va vb : VReg) (m : MReg) (s : State) :
    exec (.vdotF32 g xd va vb m) s = execVdotF32 g xd va vb m s := rfl
theorem exec_vdotBf16 (g : Guard) (xd : XReg) (va vb : VReg) (m : MReg) (s : State) :
    exec (.vdotBf16 g xd va vb m) s = execVdotBf16 g xd va vb m s := rfl
theorem exec_vdotF16 (g : Guard) (xd : XReg) (va vb : VReg) (m : MReg) (s : State) :
    exec (.vdotF16 g xd va vb m) s = execVdotF16 g xd va vb m s := rfl
theorem exec_vperm (g : Guard) (lw : LaneW) (vd va vb : VReg) (s : State) :
    exec (.vperm g lw vd va vb) s = execVperm g lw vd va vb s := rfl
theorem exec_vbcast (g : Guard) (lw : LaneW) (vd : VReg) (xa : XReg) (s : State) :
    exec (.vbcast g lw vd xa) s = execVbcast g lw vd xa s := rfl
theorem exec_vext (g : Guard) (lw : LaneW) (xd : XReg) (va : VReg) (xb : XReg) (s : State) :
    exec (.vext g lw xd va xb) s = execVext g lw xd va xb s := rfl
theorem exec_vins (g : Guard) (lw : LaneW) (vd : VReg) (xa xb : XReg) (s : State) :
    exec (.vins g lw vd xa xb) s = execVins g lw vd xa xb s := rfl
theorem exec_vcomp (g : Guard) (lw : LaneW) (vd va : VReg) (mb : MReg) (s : State) :
    exec (.vcomp g lw vd va mb) s = execVcomp g lw vd va mb s := rfl
theorem exec_vexpd (g : Guard) (lw : LaneW) (vd va : VReg) (mb : MReg) (s : State) :
    exec (.vexpd g lw vd va mb) s = execVexpd g lw vd va mb s := rfl
theorem exec_vld (g : Guard) (vd : VReg) (a : XReg) (imm : BitVec 11) (s : State) :
    exec (.vld g vd a imm) s = execVld g vd a imm s := rfl
theorem exec_vst (g : Guard) (vc : VReg) (a : XReg) (imm : BitVec 11) (s : State) :
    exec (.vst g vc a imm) s = execVst g vc a imm s := rfl
theorem exec_mlog (g : Guard) (op : MlogOp) (md ma mb : MReg) (s : State) :
    exec (.mlog g op md ma mb) s = execMlog g op md ma mb s := rfl
theorem exec_mcnt (g : Guard) (xd : XReg) (ma : MReg) (s : State) : exec (.mcnt g xd ma) s = execMcnt g xd ma s := rfl
theorem exec_rdsr (g : Guard) (d : XReg) (num : BitVec 11) (s : State) :
    exec (.rdsr g d num) s = execRdsr g d num s := rfl
theorem exec_wrsr (g : Guard) (a : XReg) (num : BitVec 11) (s : State) :
    exec (.wrsr g a num) s = execWrsr g a num s := rfl
theorem exec_rgnctlAct (g : Guard) (xg y : XReg) (s : State) :
    exec (.rgnctlAct g xg y) s = execRgnctlAct g xg y s := rfl
theorem exec_rgnctlCfg (g : Guard) (xg y : XReg) (s : State) :
    exec (.rgnctlCfg g xg y) s = execRgnctlCfg g xg y s := rfl
theorem exec_rgnctlSusp (g : Guard) (xg y : XReg) (s : State) :
    exec (.rgnctlSusp g xg y) s = execRgnctlSusp g xg y s := rfl
theorem exec_rgnctlRes (g : Guard) (xg y : XReg) (s : State) :
    exec (.rgnctlRes g xg y) s = execRgnctlRes g xg y s := rfl
theorem exec_rgnctlDel (g : Guard) (xg y : XReg) (s : State) :
    exec (.rgnctlDel g xg y) s = execRgnctlDel g xg y s := rfl
theorem exec_tlbinvPg (g : Guard) (a b : XReg) (s : State) : exec (.tlbinvPg g a b) s = execTlbinvPg g a b s := rfl
theorem exec_tlbinvAs (g : Guard) (b : XReg) (s : State) : exec (.tlbinvAs g b) s = execTlbinvAs g b s := rfl
theorem exec_tlbinvAll (g : Guard) (s : State) : exec (.tlbinvAll g) s = execTlbinvAll g s := rfl
theorem exec_waycfg (g : Guard) (a b : XReg) (s : State) : exec (.waycfg g a b) s = execWaycfg g a b s := rfl
theorem exec_symq (g : Guard) (d a : XReg) (s : State) : exec (.symq g d a) s = execSymq g d a s := rfl
theorem exec_resume (g : Guard) (a : XReg) (s : State) : exec (.resume g a) s = execResume g a s := rfl
theorem exec_resumeAbt (g : Guard) (a : XReg) (s : State) : exec (.resumeAbt g a) s = execResumeAbt g a s := rfl
theorem exec_resumeRpl (g : Guard) (a : XReg) (s : State) : exec (.resumeRpl g a) s = execResumeRpl g a s := rfl
theorem exec_resumeDrp (g : Guard) (a : XReg) (s : State) : exec (.resumeDrp g a) s = execResumeDrp g a s := rfl
theorem exec_limm (g : Guard) (d : XReg) (imm : BitVec 32) (s : State) :
    exec (.limm g d imm) s = execLimm g d imm s := rfl
theorem exec_lui (g : Guard) (d : XReg) (imm : BitVec 32) (s : State) : exec (.lui g d imm) s = execLui g d imm s := rfl
theorem exec_bfx (g : Guard) (d a : XReg) (pos : BitVec 6) (len : BitVec 7) (s : State) :
    exec (.bfx g d a pos len) s = execBfx g d a pos len s := rfl
theorem exec_bfi (g : Guard) (d a : XReg) (pos : BitVec 6) (len : BitVec 7) (s : State) :
    exec (.bfi g d a pos len) s = execBfi g d a pos len s := rfl
theorem exec_vx (g : Guard) (op : Vop) (sat : Bool) (rnd : Rnd) (vd va vb : VReg) (m : MReg) (s : State) :
    exec (.vx g op sat rnd vd va vb m) s = execVx g op sat rnd vd va vb m s := rfl
theorem exec_vcvt (g : Guard) (dst src : Et) (sat : Bool) (rnd : Rnd) (vd va : VReg) (m : MReg) (s : State) :
    exec (.vcvt g dst src sat rnd vd va m) s = execVcvt g dst src sat rnd vd va m s := rfl
theorem exec_readyEntrySelect (core : Nat) (s : State) :
    exec (.readyEntrySelect core) s = execReadyEntrySelect core s := rfl
theorem exec_signalArrival (pkt : Nat) (s : State) : exec (.signalArrival pkt) s = execSignalArrival pkt s := rfl
theorem exec_overflowEntryTake (core region idx : Nat) (s : State) :
    exec (.overflowEntryTake core region idx) s = execOverflowEntryTake core region idx s := rfl
theorem exec_activeMessageDelivery (pkt : Nat) (s : State) :
    exec (.activeMessageDelivery pkt) s = execActiveMessageDelivery pkt s := rfl
theorem exec_spillWriteOutComplete (core fid : Nat) (s : State) :
    exec (.spillWriteOutComplete core fid) s = execSpillWriteOutComplete core fid s := rfl
theorem exec_refillComplete (core fid : Nat) (s : State) :
    exec (.refillComplete core fid) s = execRefillComplete core fid s := rfl
theorem exec_frameRelease (core fid : Nat) (s : State) :
    exec (.frameRelease core fid) s = execFrameRelease core fid s := rfl
theorem exec_runleftExpiry (core : Nat) (s : State) : exec (.runleftExpiry core) s = execRunleftExpiry core s := rfl
theorem exec_parkTimeExpiry (core fid : Nat) (s : State) :
    exec (.parkTimeExpiry core fid) s = execParkTimeExpiry core fid s := rfl
theorem exec_symbolValueArrival (pkt : Nat) (s : State) :
    exec (.symbolValueArrival pkt) s = execSymbolValueArrival pkt s := rfl
theorem exec_deferredEffectPerform (core : Nat) (s : State) :
    exec (.deferredEffectPerform core) s = execDeferredEffectPerform core s := rfl
theorem exec_lateLoadFail (core sym : Nat) (s : State) :
    exec (.lateLoadFail core sym) s = execLateLoadFail core sym s := rfl
theorem exec_writeAckArrival (pkt : Nat) (s : State) : exec (.writeAckArrival pkt) s = execWriteAckArrival pkt s := rfl
theorem exec_updateAcceptanceArrival (pkt : Nat) (s : State) :
    exec (.updateAcceptanceArrival pkt) s = execUpdateAcceptanceArrival pkt s := rfl
theorem exec_gldLanding (pkt : Nat) (s : State) : exec (.gldLanding pkt) s = execGldLanding pkt s := rfl
theorem exec_barrierConditionMet (core idx : Nat) (s : State) :
    exec (.barrierConditionMet core idx) s = execBarrierConditionMet core idx s := rfl
theorem exec_combinerTimeout (core chiplet : Nat) (s : State) :
    exec (.combinerTimeout core chiplet) s = execCombinerTimeout core chiplet s := rfl
theorem exec_homeSliceRead (pkt : Nat) (s : State) : exec (.homeSliceRead pkt) s = execHomeSliceRead pkt s := rfl
theorem exec_homeSliceWrite (pkt : Nat) (s : State) : exec (.homeSliceWrite pkt) s = execHomeSliceWrite pkt s := rfl
theorem exec_homeSliceAtomic (pkt : Nat) (s : State) : exec (.homeSliceAtomic pkt) s = execHomeSliceAtomic pkt s := rfl
theorem exec_homeSlicePref (pkt : Nat) (s : State) : exec (.homeSlicePref pkt) s = execHomeSlicePref pkt s := rfl
theorem exec_backInvalidationAck (line : Nat) (s : State) :
    exec (.backInvalidationAck line) s = execBackInvalidationAck line s := rfl
theorem exec_waycfgRequest (pkt : Nat) (s : State) : exec (.waycfgRequest pkt) s = execWaycfgRequest pkt s := rfl
theorem exec_wayConversionComplete (slice : Nat) (s : State) :
    exec (.wayConversionComplete slice) s = execWayConversionComplete slice s := rfl
theorem exec_translationWalkComplete (core idx : Nat) (s : State) :
    exec (.translationWalkComplete core idx) s = execTranslationWalkComplete core idx s := rfl
theorem exec_faultWaitPromote (core : Nat) (s : State) :
    exec (.faultWaitPromote core) s = execFaultWaitPromote core s := rfl
theorem exec_pageZeroingComplete (entry : Nat) (s : State) :
    exec (.pageZeroingComplete entry) s = execPageZeroingComplete entry s := rfl
theorem exec_updatePacketAccept (pkt : Nat) (s : State) :
    exec (.updatePacketAccept pkt) s = execUpdatePacketAccept pkt s := rfl
theorem exec_sortBatch (unit : Nat) (s : State) : exec (.sortBatch unit) s = execSortBatch unit s := rfl
theorem exec_mergeApply (unit bid : Nat) (s : State) : exec (.mergeApply unit bid) s = execMergeApply unit bid s := rfl
theorem exec_uapplyLineApply (core idx : Nat) (s : State) :
    exec (.uapplyLineApply core idx) s = execUapplyLineApply core idx s := rfl
theorem exec_copyCommandStart (core : Nat) (s : State) :
    exec (.copyCommandStart core) s = execCopyCommandStart core s := rfl
theorem exec_copyPieceIssue (core : Nat) (s : State) : exec (.copyPieceIssue core) s = execCopyPieceIssue core s := rfl
theorem exec_copyPieceComplete (pkt : Nat) (s : State) :
    exec (.copyPieceComplete pkt) s = execCopyPieceComplete pkt s := rfl
theorem exec_multicastPieceArrival (pkt : Nat) (s : State) :
    exec (.multicastPieceArrival pkt) s = execMulticastPieceArrival pkt s := rfl
theorem exec_gatherRequestArrival (pkt : Nat) (s : State) :
    exec (.gatherRequestArrival pkt) s = execGatherRequestArrival pkt s := rfl
theorem exec_gatherElementReturn (pkt : Nat) (s : State) :
    exec (.gatherElementReturn pkt) s = execGatherElementReturn pkt s := rfl
theorem exec_tileCommandStart (core : Nat) (s : State) :
    exec (.tileCommandStart core) s = execTileCommandStart core s := rfl
theorem exec_tilePairStart (core : Nat) (s : State) : exec (.tilePairStart core) s = execTilePairStart core s := rfl
theorem exec_tilePairRetire (core : Nat) (s : State) : exec (.tilePairRetire core) s = execTilePairRetire core s := rfl
theorem exec_mmgRowComplete (core : Nat) (s : State) : exec (.mmgRowComplete core) s = execMmgRowComplete core s := rfl
theorem exec_accumulatorTransferDone (core : Nat) (s : State) :
    exec (.accumulatorTransferDone core) s = execAccumulatorTransferDone core s := rfl
theorem exec_faultRecordDelivery (pkt : Nat) (s : State) :
    exec (.faultRecordDelivery pkt) s = execFaultRecordDelivery pkt s := rfl
theorem exec_resumeAct (pkt : Nat) (s : State) : exec (.resumeAct pkt) s = execResumeAct pkt s := rfl
theorem exec_tailNotification (q : Nat) (s : State) : exec (.tailNotification q) s = execTailNotification q s := rfl
theorem exec_queueEntryFetch (q : Nat) (s : State) : exec (.queueEntryFetch q) s = execQueueEntryFetch q s := rfl
theorem exec_activeMessageEntry (fe idx : Nat) (s : State) :
    exec (.activeMessageEntry fe idx) s = execActiveMessageEntry fe idx s := rfl
theorem exec_triggerArmEntry (fe idx : Nat) (s : State) :
    exec (.triggerArmEntry fe idx) s = execTriggerArmEntry fe idx s := rfl
theorem exec_regionControlEntry (fe idx : Nat) (s : State) :
    exec (.regionControlEntry fe idx) s = execRegionControlEntry fe idx s := rfl
theorem exec_queueFence (fe idx : Nat) (s : State) : exec (.queueFence fe idx) s = execQueueFence fe idx s := rfl
theorem exec_triggerArming (pkt : Nat) (s : State) : exec (.triggerArming pkt) s = execTriggerArming pkt s := rfl
theorem exec_triggerSignal (pkt : Nat) (s : State) : exec (.triggerSignal pkt) s = execTriggerSignal pkt s := rfl
theorem exec_regionControlPerform (s : State) : exec .regionControlPerform s = execRegionControlPerform s := rfl
theorem exec_periodStart (s : State) : exec .periodStart s = execPeriodStart s := rfl
theorem exec_entryAging (core : Nat) (s : State) : exec (.entryAging core) s = execEntryAging core s := rfl
theorem exec_monitorWindowEnd (region : Nat) (s : State) :
    exec (.monitorWindowEnd region) s = execMonitorWindowEnd region s := rfl
theorem exec_weirRateUpdate (port rate : Nat) (s : State) :
    exec (.weirRateUpdate port rate) s = execWeirRateUpdate port rate s := rfl
theorem exec_tileIntervalEval (basin : Nat) (s : State) :
    exec (.tileIntervalEval basin) s = execTileIntervalEval basin s := rfl
theorem exec_housekeepingWork (ctl : Nat) (kind : HkKind) (busy : Nat) (s : State) :
    exec (.housekeepingWork ctl kind busy) s = execHousekeepingWork ctl kind busy s := rfl
theorem exec_traceRecordWrite (pkt : Nat) (s : State) :
    exec (.traceRecordWrite pkt) s = execTraceRecordWrite pkt s := rfl
theorem exec_traceRpRead (s : State) : exec .traceRpRead s = execTraceRpRead s := rfl
theorem exec_queueSet (q : Nat) (entry : BitVec 512) (s : State) :
    exec (.queueSet q entry) s = execQueueSet q entry s := rfl
theorem exec_queueState (q : Nat) (enable : Bool) (s : State) :
    exec (.queueState q enable) s = execQueueState q enable s := rfl
theorem exec_traceBuf (base size ctl : Word) (s : State) :
    exec (.traceBuf base size ctl) s = execTraceBuf base size ctl s := rfl
theorem exec_brieloSet (number : BitVec 8) (table : BitVec 2048) (s : State) :
    exec (.brieloSet number table) s = execBrieloSet number table s := rfl
theorem exec_powerState (retention : Bool) (s : State) :
    exec (.powerState retention) s = execPowerState retention s := rfl
theorem exec_lifecycle (target : Lifecycle) (tokenOk : Bool) (s : State) :
    exec (.lifecycle target tokenOk) s = execLifecycle target tokenOk s := rfl
theorem exec_fwUpdate (version : Nat) (signatureOk : Bool) (s : State) :
    exec (.fwUpdate version signatureOk) s = execFwUpdate version signatureOk s := rfl
theorem exec_mailboxUnsupported (code : BitVec 16) (s : State) :
    exec (.mailboxUnsupported code) s = execMailboxUnsupported code s := rfl
theorem exec_routeChangeDrain (module : Nat) (s : State) :
    exec (.routeChangeDrain module) s = execRouteChangeDrain module s := rfl
theorem exec_brieloPortFailure (port : Nat) (s : State) :
    exec (.brieloPortFailure port) s = execBrieloPortFailure port s := rfl
theorem exec_moduleReset (failStep : Nat) (s : State) :
    exec (.moduleReset failStep) s = execModuleReset failStep s := rfl
theorem exec_uncorrectableEcc (target : EccTarget) (s : State) :
    exec (.uncorrectableEcc target) s = execUncorrectableEcc target s := rfl
theorem exec_scratchZeroingComplete (core : Nat) (s : State) :
    exec (.scratchZeroingComplete core) s = execScratchZeroingComplete core s := rfl
theorem exec_spdmRequest (req : SpdmReq) (s : State) : exec (.spdmRequest req) s = execSpdmRequest req s := rfl
theorem exec_linkLevelConfirmation (port module : Nat) (s : State) :
    exec (.linkLevelConfirmation port module) s = execLinkLevelConfirmation port module s := rfl
theorem exec_eventLog (s : State) : exec .eventLog s = execEventLog s := rfl
theorem exec_retentionExit (s : State) : exec .retentionExit s = execRetentionExit s := rfl
theorem exec_serviceCoreRestartComplete (s : State) :
    exec .serviceCoreRestartComplete s = execServiceCoreRestartComplete s := rfl
theorem exec_modulePowerLoss (s : State) : exec .modulePowerLoss s = execModulePowerLoss s := rfl

end Sys2Proof.Machine
end

