-- ==== Sys2Proof/Laws/Memory.lean ====
section
/-! SUPPORT. What an access to global memory can change: memory, its poison and past values, the cache directories, the host's
lines, the pending updates and the draws of free values; and nothing else of the state. -/

namespace Sys2Proof.Machine

open Sys2Proof

/-- Everything but global memory and what belongs to it is as it was, cached images of rewritten code among it (R358). -/
structure State.MemoryOnly (s t : State) : Prop where
  cores : t.cores = s.cores
  cur : t.cur = s.cur
  hostMem : t.hostMem = s.hostMem
  hostPoison : t.hostPoison = s.hostPoison
  allot : t.allot = s.allot
  bindings : t.bindings = s.bindings
  regions : t.regions = s.regions
  net : t.net = s.net
  zeroing : t.zeroing = s.zeroing
  gathers : t.gathers = s.gathers
  fes : t.fes = s.fes
  queues : t.queues = s.queues
  service : t.service = s.service
  tracer : t.tracer = s.tracer
  brielo : t.brielo = s.brielo
  power : t.power = s.power
  flash : t.flash = s.flash
  reservoir : t.reservoir = s.reservoir
  weir : t.weir = s.weir
  bucket : t.bucket = s.bucket
  pairCores : t.pairCores = s.pairCores
  tileIv : t.tileIv = s.tileIv
  hkBud : t.hkBud = s.hkBud
  banked : t.banked = s.banked
  ecc : t.ecc = s.ecc
  cycle : t.cycle = s.cycle
  period : t.period = s.period
  agenda : t.agenda = s.agenda
  pace : t.pace = s.pace
  tlb : ∀ m, (t.chip m).tlb = (s.chip m).tlb

/-- Replacing cached lines of code leaves the cached translations. -/
theorem SMap.tlb_map (ch : SMap Chip) (f : Nat × Chip → Chip) (h : ∀ e, (f e).tlb = e.2.tlb) (m : Nat) :
    (SMap.get (ch.map fun e => (e.1, f e)) m Chip.init).tlb = (SMap.get ch m Chip.init).tlb := by
  simp only [SMap.get]
  induction ch with
  | nil => rfl
  | cons e l ih =>
    by_cases he : e.1 = m
    · simp [SMap.find, he, h]
    · by_cases hm : m < e.1 <;> simp [SMap.find, he, hm, ih]

theorem State.MemoryOnly.refl (s : State) : s.MemoryOnly s := by constructor <;> first | exact fun _ => rfl | rfl

theorem State.MemoryOnly.trans {s t u : State} (h : s.MemoryOnly t) (k : t.MemoryOnly u) : s.MemoryOnly u := by
  cases h; cases k
  constructor <;> simp only [*, implies_true]

/-- Many small changes of memory are one. -/
theorem State.MemoryOnly.foldl {α : Type} (f : State → α → State) (h : ∀ (s : State) (a : α), s.MemoryOnly (f s a)) (l : List α)
    (s : State) :
    s.MemoryOnly (l.foldl f s) := by
  induction l generalizing s with
  | nil => exact .refl s
  | cons a l ih => exact (h s a).trans (ih _)

theorem State.setSlice_only (s : State) (i : Nat) (sl : Slice) : s.MemoryOnly (s.setSlice i sl) := by constructor <;> first | exact fun _ => rfl | rfl

theorem State.setEddy_only (s : State) (m : Nat) (e : Eddy) : s.MemoryOnly (s.setEddy m e) := by constructor <;> first | exact fun _ => rfl | rfl

theorem State.invalidateHost_only (s : State) (a n : Nat) : s.MemoryOnly (s.invalidateHost a n) := by constructor <;> first | exact fun _ => rfl | rfl

theorem State.nextTag_only (s : State) (i : Nat) : s.MemoryOnly (s.nextTag i).2 := s.setSlice_only ..

theorem State.zeroRange_only (s : State) (lo hi : Nat) : s.MemoryOnly (s.zeroRange lo hi) := by constructor <;> first | exact fun _ => rfl | rfl

theorem State.writeMem_only (s : State) (a : Nat) (bs : List (Option Byte)) (bad : List Nat) :
    s.MemoryOnly (s.writeMem a bs bad) := by
  constructor
  case tlb =>
    simp only [State.writeMem, State.recode, State.chip]
    exact fun m => SMap.tlb_map _ _ (by exact fun _ => rfl) m
  all_goals rfl

theorem State.struck_only (s : State) (l : List Nat) : s.MemoryOnly { s with struck := l } := by constructor <;> first | exact fun _ => rfl | rfl

theorem State.readRaw_only (s : State) (a n : Nat) : s.MemoryOnly (s.readRaw a n).2 := by
  unfold State.readRaw
  split <;> constructor <;> first | exact fun _ => rfl | rfl

theorem State.touchLine_only (s : State) (i line : Nat) (evp : Evp) (write : Bool) :
    s.MemoryOnly (s.touchLine i line evp write) := by
  unfold State.touchLine
  repeat' (first | dsimp only | split)
  all_goals first | exact s.setSlice_only .. | exact .refl s

theorem State.touchLines_only (s : State) (a n : Nat) (write : Bool) : s.MemoryOnly (s.touchLines a n write) := by
  unfold State.touchLines
  split
  · exact .refl s
  · exact .foldl _ (fun s l => s.touchLine_only ..) _ s

theorem State.dropLine_only (s : State) (i line : Nat) : s.MemoryOnly (s.dropLine i line) := by
  unfold State.dropLine
  dsimp only
  split
  · constructor
    case tlb => exact fun m => by simp only [State.chip, State.setSlice]
    all_goals rfl
  · exact .refl s

theorem State.applyOne_only (s : State) (oper line i : Nat) (parts : List Bin) :
    s.MemoryOnly (s.applyOne oper line i parts) := by
  have h (bs) := (s.readRaw_only (line * 128 + i * operSize oper) (operSize oper)).trans
    (State.writeMem_only _ (line * 128 + i * operSize oper) bs [])
  unfold State.applyOne
  dsimp only
  split
  · exact .refl s
  · split
    · exact (h _).trans (State.struck_only _ _)
    · exact h _

theorem State.applyLine_only (s : State) (line : Nat) : s.MemoryOnly (s.applyLine line) := by
  unfold State.applyLine
  split
  · exact .refl s
  · dsimp only
    split
    · exact .refl s
    · exact (((s.invalidateHost_only ..).trans (State.touchLines_only ..)).trans
        (.foldl _ (fun s i => s.applyOne_only ..) _ _)).trans (State.setEddy_only ..)

theorem State.applyLines_only (s : State) (a n : Nat) : s.MemoryOnly (s.applyLines a n) :=
  .foldl _ (fun s _ => s.applyLine_only _) _ s

/-- A write by an agent of the module changes memory and what belongs to it, and nothing else. -/
theorem State.store_only (s : State) (a : Nat) (bs : List Byte) : s.MemoryOnly (s.store a bs) :=
  ((((s.applyLines_only ..).trans (State.invalidateHost_only ..)).trans (State.writeMem_only ..)).trans
    (State.touchLines_only ..)).trans (.foldl _ (fun s l => s.nextTag_only _) _ _)

/-- So does a read, which applies pending updates and allocates. -/
theorem State.fetch_only (s : State) (a n : Nat) : s.MemoryOnly (s.fetch a n).2.2 :=
  ((s.applyLines_only a n).trans (State.readRaw_only ..)).trans (State.touchLines_only ..)

/-! ## Memory after a write where no stream is bound -/

/-- With no binding there is nothing to apply. -/
@[simp] theorem State.applyLine_unbound {s : State} (h : s.bindings = []) (line : Nat) : s.applyLine line = s := by
  simp [State.applyLine, State.bindingAt, h]

@[simp] theorem State.applyLines_unbound {s : State} (h : s.bindings = []) (a n : Nat) : s.applyLines a n = s := by
  unfold State.applyLines
  induction linesOf a n with
  | nil => rfl
  | cons l ls ih => simpa [State.applyLine_unbound h] using ih

@[simp] theorem State.setSlice_mem (s : State) (i : Nat) (sl : Slice) : (s.setSlice i sl).mem = s.mem := rfl

@[simp] theorem State.touchLine_mem (s : State) (i line : Nat) (evp : Evp) (write : Bool) :
    (s.touchLine i line evp write).mem = s.mem := by
  unfold State.touchLine
  repeat' (first | dsimp only | split)
  all_goals rfl

@[simp] theorem State.touchLines_mem (s : State) (a n : Nat) (write : Bool) : (s.touchLines a n write).mem = s.mem := by
  unfold State.touchLines
  split
  · rfl
  · induction linesOf a n generalizing s with
    | nil => rfl
    | cons l ls ih => exact (ih _).trans (s.touchLine_mem ..)

/-- Bytes written leave every byte outside them. -/
theorem Cells.get_writeSome_outside {m : List Host.Cell} (a i : Nat) (bs : List (Option Byte)) (h : Memory.wf m = true)
    (hi : i < a ∨ a + bs.length ≤ i) : Cells.get (Cells.writeSome m a bs) i = Cells.get m i := by
  induction bs generalizing m a with
  | nil => rfl
  | cons b bs ih =>
    simp only [List.length_cons] at hi
    cases b with
    | none => exact ih (a + 1) h (by omega)
    | some b =>
      rw [Cells.writeSome, ih (a + 1) (Memory.wf_set a b h) (by omega), Cells.get_set a i b h, if_neg (by omega)]

theorem State.readRaw_mem (s : State) (a n : Nat) : (s.readRaw a n).2.mem = s.mem := by
  unfold State.readRaw
  split <;> rfl

theorem bytesOf_length (n v : Nat) : (bytesOf n v).length = n := by
  induction n generalizing v with
  | zero => rfl
  | succ n ih => simp [bytesOf, ih]

/-- Canonical memory that keeps the bytes outside a line. -/
def KeepsOutside (line : Nat) (m m' : List Host.Cell) : Prop :=
  Memory.wf m' = true ∧ ∀ a, a / 128 ≠ line → Cells.get m' a = Cells.get m a

theorem State.applyOne_mem {s : State} (h : Memory.wf s.mem = true) (oper line i : Nat) (parts : List Bin)
    (hi : i * operSize oper + operSize oper ≤ 128) : KeepsOutside line s.mem (s.applyOne oper line i parts).mem := by
  have key (bs : List (Option Byte)) (hb : bs.length = operSize oper) :
      KeepsOutside line s.mem (Cells.writeSome s.mem (line * 128 + i * operSize oper) bs) :=
    ⟨Memory.wf_writeSome _ _ h, fun a ha => Cells.get_writeSome_outside _ _ _ h (by omega)⟩
  unfold State.applyOne
  dsimp only
  repeat' split
  · exact ⟨h, fun _ _ => rfl⟩
  all_goals
    simp only [State.writeMem, State.recode, State.readRaw_mem]
    exact key _ (by simp [bytesOf_length])

theorem State.applyParts_mem {s : State} (h : Memory.wf s.mem = true) (oper line : Nat) (parts : List Bin) :
    KeepsOutside line s.mem (s.applyParts oper line parts).mem := by
  have hr : ∀ i ∈ List.range (128 / operSize oper), i * operSize oper + operSize oper ≤ 128 := by
    intro i hi
    have := List.mem_range.mp hi
    have := Nat.div_mul_le_self 128 (operSize oper)
    have := Nat.mul_le_mul_right (operSize oper) (Nat.succ_le_of_lt ‹i < _›)
    simp only [Nat.succ_mul] at this
    omega
  unfold State.applyParts
  generalize List.range (128 / operSize oper) = l at hr
  have start : KeepsOutside line s.mem ((s.invalidateHost (line * 128) 128).touchLines (line * 128) 128 true).mem := by
    rw [State.touchLines_mem]
    exact ⟨h, fun _ _ => rfl⟩
  generalize (s.invalidateHost (line * 128) 128).touchLines (line * 128) 128 true = t at start
  induction l generalizing t with
  | nil => exact start
  | cons i l ih =>
    have k := State.applyOne_mem start.1 oper line i parts (hr i (by simp))
    exact ih (fun j hj => hr j (by simp [hj])) _ ⟨k.1, fun a ha => (k.2 a ha).trans (start.2 a ha)⟩

/-- An apply of a line leaves memory canonical, and every byte that no stream's binding holds. -/
theorem State.applyLine_mem {s : State} (h : Memory.wf s.mem = true) (line : Nat) :
    Memory.wf (s.applyLine line).mem = true ∧
      ∀ a, s.bindingAt (a / 128 * 128) = none → Cells.get (s.applyLine line).mem a = Cells.get s.mem a := by
  unfold State.applyLine
  split
  · exact ⟨h, fun _ _ => rfl⟩
  · dsimp only
    split
    · exact ⟨h, fun _ _ => rfl⟩
    · rename_i p bid hb _
      have k := State.applyParts_mem h bid.oper line
        ((s.eddy (s.homeChiplet (line * 128))).partsOf p line bid.oper)
      refine ⟨k.1, fun a ha => k.2 a fun e => ?_⟩
      rw [e, hb] at ha
      cases ha

/-- A write where no stream is bound writes its bytes and no others. -/
theorem State.store_mem {s : State} (h : s.bindings = []) (a : Nat) (bs : List Byte) :
    (s.store a bs).mem = Cells.writeSome s.mem a (bs.map some) := by
  have tags : ∀ (l : List Nat) (t : State), (l.foldl (fun t l => (t.nextTag (t.homeSlice (l * 128))).2) t).mem = t.mem := by
    intro l
    induction l with
    | nil => exact fun _ => rfl
    | cons l ls ih => exact fun t => (ih _).trans rfl
  unfold State.store
  simp only [State.applyLines_unbound h, tags, State.touchLines_mem]
  rfl

end Sys2Proof.Machine
end

