-- ==== Sys2Proof/Laws/State.lean ====
section
/-! SUPPORT. The small lemmas of the state: what stands where after a core or its Running threadlet is replaced, and what an
instruction's shared wrappers answer. -/

namespace Sys2Proof.Machine

open Sys2Proof

/-! ## One field per update -/

@[simp] theorem State.core_setCore (s : State) (n m : Nat) (c : Core) :
    (s.setCore n c).core m = if m = n then c else s.core m := by simp [State.core, State.setCore]

@[simp] theorem State.setCore_setCore (s : State) (n : Nat) (c d : Core) :
    (s.setCore n c).setCore n d = s.setCore n d := by simp [State.setCore]

@[simp] theorem State.cur_setCore (s : State) (n : Nat) (c : Core) : (s.setCore n c).cur = s.cur := rfl
@[simp] theorem State.mem_setCore (s : State) (n : Nat) (c : Core) : (s.setCore n c).mem = s.mem := rfl
@[simp] theorem State.poison_setCore (s : State) (n : Nat) (c : Core) : (s.setCore n c).poison = s.poison := rfl
@[simp] theorem State.struck_setCore (s : State) (n : Nat) (c : Core) : (s.setCore n c).struck = s.struck := rfl
@[simp] theorem State.lost_setCore (s : State) (n : Nat) (c : Core) : (s.setCore n c).lost = s.lost := rfl
@[simp] theorem State.past_setCore (s : State) (n : Nat) (c : Core) : (s.setCore n c).past = s.past := rfl
@[simp] theorem State.hostMem_setCore (s : State) (n : Nat) (c : Core) : (s.setCore n c).hostMem = s.hostMem := rfl
@[simp] theorem State.hostLines_setCore (s : State) (n : Nat) (c : Core) : (s.setCore n c).hostLines = s.hostLines := rfl
@[simp] theorem State.slices_setCore (s : State) (n : Nat) (c : Core) : (s.setCore n c).slices = s.slices := rfl
@[simp] theorem State.eddies_setCore (s : State) (n : Nat) (c : Core) : (s.setCore n c).eddies = s.eddies := rfl
@[simp] theorem State.allot_setCore (s : State) (n : Nat) (c : Core) : (s.setCore n c).allot = s.allot := rfl
@[simp] theorem State.bindings_setCore (s : State) (n : Nat) (c : Core) : (s.setCore n c).bindings = s.bindings := rfl
@[simp] theorem State.regions_setCore (s : State) (n : Nat) (c : Core) : (s.setCore n c).regions = s.regions := rfl
@[simp] theorem State.net_setCore (s : State) (n : Nat) (c : Core) : (s.setCore n c).net = s.net := rfl
@[simp] theorem State.chips_setCore (s : State) (n : Nat) (c : Core) : (s.setCore n c).chips = s.chips := rfl
@[simp] theorem State.zeroing_setCore (s : State) (n : Nat) (c : Core) : (s.setCore n c).zeroing = s.zeroing := rfl
@[simp] theorem State.gathers_setCore (s : State) (n : Nat) (c : Core) : (s.setCore n c).gathers = s.gathers := rfl
@[simp] theorem State.fes_setCore (s : State) (n : Nat) (c : Core) : (s.setCore n c).fes = s.fes := rfl
@[simp] theorem State.queues_setCore (s : State) (n : Nat) (c : Core) : (s.setCore n c).queues = s.queues := rfl
@[simp] theorem State.service_setCore (s : State) (n : Nat) (c : Core) : (s.setCore n c).service = s.service := rfl
@[simp] theorem State.tracer_setCore (s : State) (n : Nat) (c : Core) : (s.setCore n c).tracer = s.tracer := rfl
@[simp] theorem State.brielo_setCore (s : State) (n : Nat) (c : Core) : (s.setCore n c).brielo = s.brielo := rfl
@[simp] theorem State.power_setCore (s : State) (n : Nat) (c : Core) : (s.setCore n c).power = s.power := rfl
@[simp] theorem State.flash_setCore (s : State) (n : Nat) (c : Core) : (s.setCore n c).flash = s.flash := rfl
@[simp] theorem State.reservoir_setCore (s : State) (n : Nat) (c : Core) : (s.setCore n c).reservoir = s.reservoir := rfl
@[simp] theorem State.weir_setCore (s : State) (n : Nat) (c : Core) : (s.setCore n c).weir = s.weir := rfl
@[simp] theorem State.bucket_setCore (s : State) (n : Nat) (c : Core) : (s.setCore n c).bucket = s.bucket := rfl
@[simp] theorem State.pairCores_setCore (s : State) (n : Nat) (c : Core) : (s.setCore n c).pairCores = s.pairCores := rfl
@[simp] theorem State.tileIv_setCore (s : State) (n : Nat) (c : Core) : (s.setCore n c).tileIv = s.tileIv := rfl
@[simp] theorem State.hkBud_setCore (s : State) (n : Nat) (c : Core) : (s.setCore n c).hkBud = s.hkBud := rfl
@[simp] theorem State.banked_setCore (s : State) (n : Nat) (c : Core) : (s.setCore n c).banked = s.banked := rfl
@[simp] theorem State.ecc_setCore (s : State) (n : Nat) (c : Core) : (s.setCore n c).ecc = s.ecc := rfl
@[simp] theorem State.cycle_setCore (s : State) (n : Nat) (c : Core) : (s.setCore n c).cycle = s.cycle := rfl
@[simp] theorem State.period_setCore (s : State) (n : Nat) (c : Core) : (s.setCore n c).period = s.period := rfl
@[simp] theorem State.agenda_setCore (s : State) (n : Nat) (c : Core) : (s.setCore n c).agenda = s.agenda := rfl
@[simp] theorem State.pace_setCore (s : State) (n : Nat) (c : Core) : (s.setCore n c).pace = s.pace := rfl
@[simp] theorem State.free_setCore (s : State) (n : Nat) (c : Core) : (s.setCore n c).free = s.free := rfl

theorem State.onCore_eq (s : State) (n : Nat) (f : Core → Core) : s.onCore n f = s.setCore n (f (s.core n)) := rfl

@[simp] theorem State.core_onCore (s : State) (n m : Nat) (f : Core → Core) :
    (s.onCore n f).core m = if m = n then f (s.core n) else s.core m := State.core_setCore ..

/-! ## The Running threadlet -/

@[simp] theorem State.core_setRun (s : State) (n m : Nat) (r : Run) :
    (s.setRun n r).core m = if m = n then { s.core n with run := some r } else s.core m := State.core_onCore ..

@[simp] theorem State.setRun_setRun (s : State) (n : Nat) (r r' : Run) : (s.setRun n r).setRun n r' = s.setRun n r' := by
  simp [State.setRun, State.onCore]

@[simp] theorem State.cur_setRun (s : State) (n : Nat) (r : Run) : (s.setRun n r).cur = s.cur := rfl
@[simp] theorem State.mem_setRun (s : State) (n : Nat) (r : Run) : (s.setRun n r).mem = s.mem := rfl
@[simp] theorem State.poison_setRun (s : State) (n : Nat) (r : Run) : (s.setRun n r).poison = s.poison := rfl
@[simp] theorem State.struck_setRun (s : State) (n : Nat) (r : Run) : (s.setRun n r).struck = s.struck := rfl
@[simp] theorem State.lost_setRun (s : State) (n : Nat) (r : Run) : (s.setRun n r).lost = s.lost := rfl
@[simp] theorem State.past_setRun (s : State) (n : Nat) (r : Run) : (s.setRun n r).past = s.past := rfl
@[simp] theorem State.hostMem_setRun (s : State) (n : Nat) (r : Run) : (s.setRun n r).hostMem = s.hostMem := rfl
@[simp] theorem State.hostLines_setRun (s : State) (n : Nat) (r : Run) : (s.setRun n r).hostLines = s.hostLines := rfl
@[simp] theorem State.slices_setRun (s : State) (n : Nat) (r : Run) : (s.setRun n r).slices = s.slices := rfl
@[simp] theorem State.eddies_setRun (s : State) (n : Nat) (r : Run) : (s.setRun n r).eddies = s.eddies := rfl
@[simp] theorem State.allot_setRun (s : State) (n : Nat) (r : Run) : (s.setRun n r).allot = s.allot := rfl
@[simp] theorem State.bindings_setRun (s : State) (n : Nat) (r : Run) : (s.setRun n r).bindings = s.bindings := rfl
@[simp] theorem State.regions_setRun (s : State) (n : Nat) (r : Run) : (s.setRun n r).regions = s.regions := rfl
@[simp] theorem State.net_setRun (s : State) (n : Nat) (r : Run) : (s.setRun n r).net = s.net := rfl
@[simp] theorem State.chips_setRun (s : State) (n : Nat) (r : Run) : (s.setRun n r).chips = s.chips := rfl
@[simp] theorem State.zeroing_setRun (s : State) (n : Nat) (r : Run) : (s.setRun n r).zeroing = s.zeroing := rfl
@[simp] theorem State.gathers_setRun (s : State) (n : Nat) (r : Run) : (s.setRun n r).gathers = s.gathers := rfl
@[simp] theorem State.fes_setRun (s : State) (n : Nat) (r : Run) : (s.setRun n r).fes = s.fes := rfl
@[simp] theorem State.queues_setRun (s : State) (n : Nat) (r : Run) : (s.setRun n r).queues = s.queues := rfl
@[simp] theorem State.service_setRun (s : State) (n : Nat) (r : Run) : (s.setRun n r).service = s.service := rfl
@[simp] theorem State.tracer_setRun (s : State) (n : Nat) (r : Run) : (s.setRun n r).tracer = s.tracer := rfl
@[simp] theorem State.brielo_setRun (s : State) (n : Nat) (r : Run) : (s.setRun n r).brielo = s.brielo := rfl
@[simp] theorem State.power_setRun (s : State) (n : Nat) (r : Run) : (s.setRun n r).power = s.power := rfl
@[simp] theorem State.flash_setRun (s : State) (n : Nat) (r : Run) : (s.setRun n r).flash = s.flash := rfl
@[simp] theorem State.reservoir_setRun (s : State) (n : Nat) (r : Run) : (s.setRun n r).reservoir = s.reservoir := rfl
@[simp] theorem State.weir_setRun (s : State) (n : Nat) (r : Run) : (s.setRun n r).weir = s.weir := rfl
@[simp] theorem State.bucket_setRun (s : State) (n : Nat) (r : Run) : (s.setRun n r).bucket = s.bucket := rfl
@[simp] theorem State.pairCores_setRun (s : State) (n : Nat) (r : Run) : (s.setRun n r).pairCores = s.pairCores := rfl
@[simp] theorem State.tileIv_setRun (s : State) (n : Nat) (r : Run) : (s.setRun n r).tileIv = s.tileIv := rfl
@[simp] theorem State.hkBud_setRun (s : State) (n : Nat) (r : Run) : (s.setRun n r).hkBud = s.hkBud := rfl
@[simp] theorem State.banked_setRun (s : State) (n : Nat) (r : Run) : (s.setRun n r).banked = s.banked := rfl
@[simp] theorem State.ecc_setRun (s : State) (n : Nat) (r : Run) : (s.setRun n r).ecc = s.ecc := rfl
@[simp] theorem State.cycle_setRun (s : State) (n : Nat) (r : Run) : (s.setRun n r).cycle = s.cycle := rfl
@[simp] theorem State.period_setRun (s : State) (n : Nat) (r : Run) : (s.setRun n r).period = s.period := rfl
@[simp] theorem State.agenda_setRun (s : State) (n : Nat) (r : Run) : (s.setRun n r).agenda = s.agenda := rfl
@[simp] theorem State.pace_setRun (s : State) (n : Nat) (r : Run) : (s.setRun n r).pace = s.pace := rfl
@[simp] theorem State.free_setRun (s : State) (n : Nat) (r : Run) : (s.setRun n r).free = s.free := rfl

/-- What changes the Running threadlet alone puts another in its place. -/
theorem State.onRun_eq {s : State} {r : Run} (h : (s.core s.cur).run = some r) (f : Run → Run) :
    s.onRun f = s.setRun s.cur (f r) := by
  simp [State.onRun, State.setRun, State.onCore, h]

theorem State.onRun_setRun (s : State) (r : Run) (f : Run → Run) :
    (s.setRun s.cur r).onRun f = s.setRun s.cur (f r) := by
  rw [State.onRun_eq (s := s.setRun s.cur r) (r := r) (by simp)]
  simp

theorem State.next_eq {s : State} {r : Run} (h : (s.core s.cur).run = some r) (n : Nat) :
    s.next n = s.setRun s.cur (r.past n) := by
  simp [State.next, h, Run.past]

@[simp] theorem State.next_setRun (s : State) (r : Run) (n : Nat) :
    (s.setRun s.cur r).next n = s.setRun s.cur (r.past n) := by
  rw [State.next_eq (s := s.setRun s.cur r) (r := r) (by simp)]
  simp

/-! ## The wrappers of a meaning -/

/-- An instruction whose guard holds, with an effect on the Running threadlet alone. -/
theorem guarded_run {g : Guard} {n : Nat} {f : Meaning} {s : State} {r r' : Run} (h : s.Issues r g)
    (hf : f s r = .ok (s.setRun s.cur r')) : guarded g n f s = .next (s.setRun s.cur (r'.past n)) := by
  simp [guarded, State.running, h.1, h.2, hf, Except.map, State.settle]

/-- An instruction whose guard holds, with any effect. -/
theorem guarded_ok {g : Guard} {n : Nat} {f : Meaning} {s t : State} {r : Run} (h : s.Issues r g)
    (hf : f s r = .ok t) : guarded g n f s = .next (t.next n) := by
  simp [guarded, State.running, h.1, h.2, hf, Except.map, State.settle]

/-- An instruction whose guard holds, with none. -/
theorem guarded_error {g : Guard} {n : Nat} {f : Meaning} {s : State} {r : Run} {e : Stop} (h : s.Issues r g)
    (hf : f s r = .error e) : guarded g n f s = .next (s.settle r n (.error e)) := by
  simp [guarded, State.running, h.1, h.2, hf, Except.map]

/-- An instruction whose guard does not hold moves on (R95). -/
theorem guarded_skip {g : Guard} {n : Nat} {f : Meaning} {s : State} {r : Run} (h : (s.core s.cur).run = some r)
    (hg : r.holds g = false) : guarded g n f s = .next (s.setRun s.cur (r.past n)) := by
  simp [guarded, State.running, h, hg, State.next_eq h]

theorem guardedJump_ok {g : Guard} {f : Meaning} {s t : State} {r : Run} (h : s.Issues r g) (hf : f s r = .ok t) :
    guardedJump g f s = .next t := by
  simp [guardedJump, State.running, h.1, h.2, hf, State.settle]

theorem guardedN_ok {g : Guard} {n : Bool} {f nul : Meaning} {s t : State} {r : Run} (h : s.Issues r g)
    (hf : f s r = .ok t) : guardedN g n f nul s = .next (t.next 1) := by
  simp [guardedN, State.running, h.1, h.2, hf, Except.map, State.settle]

theorem guardedAfter_ok {g : Guard} {check : State → Run → Except Stop Unit} {f : Meaning} {s t : State} {r : Run}
    (h : s.Issues r g) (hc : check s r = .ok ()) (hf : f s r = .ok t) :
    guardedAfter g check f s = .next (t.next 1) := by
  simp [guardedAfter, State.running, h.1, h.2, hc, hf, Except.map, State.settle]

/-! ## Operands -/

theorem Run.known_eq {r : Run} {a : XReg} {x : Word} (h : r.get a = .known x) : r.known a = .ok x := by
  simp [Run.known, h]

theorem Run.known2_eq {r : Run} {a b : XReg} {x y : Word} (hx : r.get a = .known x) (hy : r.get b = .known y) :
    r.known2 a b = .ok (x, y) := by
  simp [Run.known2, hx, hy]

theorem State.writeX_eq {s : State} {r : Run} (h : (s.core s.cur).run = some r) (d : XReg) (v : Word) :
    s.writeX d v = s.setRun s.cur (r.write d (.known v)) := State.onRun_eq h _

/-- A two-operand instruction on known operands. -/
theorem alu2_step {op : Word → Word → Word} {g : Guard} {n : Nat} {d a b : XReg} {s : State} {r : Run} {x y : Word}
    (h : s.Issues r g) (hx : r.get a = .known x) (hy : r.get b = .known y) :
    guarded g n (alu2 op d a b) s = .next (s.setRun s.cur ((r.write d (.known (op x y))).past n)) :=
  guarded_run h (by simp [alu2, Run.known2_eq hx hy, bind, Except.bind, State.writeX_eq h.1])

/-- A one-operand instruction on a known operand. -/
theorem alu1_step {op : Word → Word} {g : Guard} {n : Nat} {d a : XReg} {s : State} {r : Run} {x : Word}
    (h : s.Issues r g) (hx : r.get a = .known x) :
    guarded g n (alu1 op d a) s = .next (s.setRun s.cur ((r.write d (.known (op x))).past n)) :=
  guarded_run h (by simp [alu1, Run.known_eq hx, bind, Except.bind, State.writeX_eq h.1])

/-- A two-operand instruction whose operands fold to a known value. -/
theorem aluFold_step {fold : RVal → RVal → Option RVal} {g : Guard} {n : Nat} {d a b : XReg} {s : State} {r : Run}
    {v : Word} (h : s.Issues r g) (hv : fold (r.get a) (r.get b) = some (.known v)) :
    guarded g n (aluFold fold d a b) s = .next (s.setRun s.cur ((r.write d (.known v)).past n)) :=
  guarded_run h (by simp [aluFold, folded, hv, bind, Except.bind, State.writeForm, State.writeX_eq h.1])

end Sys2Proof.Machine
end

