-- ==== Sys2Proof/Laws/Operands.lean ====
section
/-! SUPPORT. What an instruction's operands make of it: the parks of late operands, and contents written under the check of
the supplies (R68, R74). -/

namespace Sys2Proof.Machine

open Sys2Proof

theorem RVal.isLate_iff (v : RVal) : v.isLate ↔ ∀ w, v ≠ .known w := by
  cases v <;> simp [RVal.isLate, RVal.symbol]

@[simp] theorem RVal.isLate_known (w : Word) : (RVal.known w).isLate ↔ False := by simp [RVal.isLate, RVal.symbol]
@[simp] theorem RVal.isLate_form (i : Nat) (a b : Word) : (RVal.form i a b).isLate ↔ True := by
  simp [RVal.isLate, RVal.symbol]
@[simp] theorem RVal.isLate_chain (i : Nat) (l : List ChainStep) : (RVal.chain i l).isLate ↔ True := by
  simp [RVal.isLate, RVal.symbol]

theorem Run.known_late {r : Run} {a : XReg} (h : (r.get a).isLate) : r.known a = .error (waitFor [r.get a]) := by
  unfold Run.known
  split
  · next v hv => simp [hv] at h
  · rfl

theorem Run.known2_late {r : Run} {a b : XReg} (h : (r.get a).isLate ∨ (r.get b).isLate) :
    r.known2 a b = .error (waitFor [r.get a, r.get b]) := by
  unfold Run.known2
  split
  · next x y hx hy => simp [hx, hy] at h
  · rfl

/-- What parks on late operands at once. -/
theorem guarded_parks {g : Guard} {n : Nat} {f : Meaning} {s : State} {r : Run} {vs : List RVal} (h : s.Issues r g)
    (hf : f s r = .error (waitFor vs)) :
    guarded g n f s = .next (s.park s.cur r 0 0 (.syms (symbolsOf vs))) := (guarded_error h hf).trans rfl

theorem alu2_parks {op : Word → Word → Word} {g : Guard} {n : Nat} {d a b : XReg} {s : State} {r : Run}
    (h : s.Issues r g) (hv : (r.get a).isLate ∨ (r.get b).isLate) :
    guarded g n (alu2 op d a b) s = .next (s.park s.cur r 0 0 (.syms (symbolsOf [r.get a, r.get b]))) :=
  guarded_parks h (by rw [alu2, Run.known2_late hv]; rfl)

theorem alu1_parks {op : Word → Word} {g : Guard} {n : Nat} {d a : XReg} {s : State} {r : Run}
    (h : s.Issues r g) (hv : (r.get a).isLate) :
    guarded g n (alu1 op d a) s = .next (s.park s.cur r 0 0 (.syms (symbolsOf [r.get a]))) :=
  guarded_parks h (by rw [alu1, Run.known_late hv]; rfl)

/-- A content written under the check of R74. -/
theorem writeForm_eq {s : State} {r : Run} {d : XReg} {v : RVal} (h : (s.core s.cur).run = some r)
    (hs : ¬ v.isLate ∨ s.Covers r d v) : s.writeForm r d v = .ok (s.setRun s.cur (r.write d v)) := by
  unfold State.writeForm
  split
  · exact congrArg Except.ok (State.writeX_eq h _ _)
  · have hc : s.Covers r d v := by
      rcases hs with hs | hs
      · rename_i h'
        exact absurd ((RVal.isLate_iff v).2 fun w hw => h' w hw) hs
      · exact hs
    have : s.supply (r.write d v) 0 0 = .ok () := by
      unfold State.supply
      rw [if_pos]
      exact ⟨Nat.zero_le _, by simpa [State.Covers] using hc⟩
    rw [this]
    exact congrArg Except.ok (State.onRun_eq h _)

/-- An instruction whose operands fold to a content. -/
theorem aluFold_writes {fold : RVal → RVal → Option RVal} {g : Guard} {n : Nat} {d a b : XReg} {s : State} {r : Run}
    {v : RVal} (h : s.Issues r g) (hv : fold (r.get a) (r.get b) = some v) (hs : ¬ v.isLate ∨ s.Covers r d v) :
    guarded g n (aluFold fold d a b) s = .next (s.setRun s.cur ((r.write d v).past n)) :=
  guarded_run h (by simp [aluFold, folded, hv, bind, Except.bind, writeForm_eq h.1 hs])

theorem aluFold_parks {fold : RVal → RVal → Option RVal} {g : Guard} {n : Nat} {d a b : XReg} {s : State} {r : Run}
    (h : s.Issues r g) (hv : fold (r.get a) (r.get b) = none) :
    guarded g n (aluFold fold d a b) s = .next (s.park s.cur r 0 0 (.syms (symbolsOf [r.get a, r.get b]))) :=
  guarded_parks h (by rw [aluFold, hv]; rfl)


/-- A two-operand instruction that writes `v`. -/
theorem alu2_writes {op : Word → Word → Word} {g : Guard} {n : Nat} {d a b : XReg} {s : State} {r : Run} {x y v : Word}
    (h : s.Issues r g) (hx : r.get a = .known x) (hy : r.get b = .known y) (hv : op x y = v) :
    guarded g n (alu2 op d a b) s = .next (s.setRun s.cur ((r.write d (.known v)).past n)) :=
  hv ▸ alu2_step h hx hy

/-- A one-operand instruction that writes `v`. -/
theorem alu1_writes {op : Word → Word} {g : Guard} {n : Nat} {d a : XReg} {s : State} {r : Run} {x v : Word}
    (h : s.Issues r g) (hx : r.get a = .known x) (hv : op x = v) :
    guarded g n (alu1 op d a) s = .next (s.setRun s.cur ((r.write d (.known v)).past n)) :=
  hv ▸ alu1_step h hx

end Sys2Proof.Machine
end

