-- ==== Sys2Proof/Laws/Ops.lean ====
section
/-! SUPPORT. What the shared operations leave alone: packets, records and traces touch no core and no memory; the ready
queue's lists touch nothing else of their core; and what taking a fault and parking leave (R299-R303). -/

namespace Sys2Proof.Machine

open Sys2Proof

/-! ## Packets and records -/

@[simp] theorem State.cores_send (s : State) (p : Packet) : (s.send p).cores = s.cores := by
  simp only [State.send]; repeat' split
  all_goals rfl
@[simp] theorem State.mem_send (s : State) (p : Packet) : (s.send p).mem = s.mem := by
  simp only [State.send]; repeat' split
  all_goals rfl
@[simp] theorem State.hostMem_send (s : State) (p : Packet) : (s.send p).hostMem = s.hostMem := by
  simp only [State.send]; repeat' split
  all_goals rfl
@[simp] theorem State.cur_send (s : State) (p : Packet) : (s.send p).cur = s.cur := by
  simp only [State.send]; repeat' split
  all_goals rfl
@[simp] theorem State.regions_send (s : State) (p : Packet) : (s.send p).regions = s.regions := by
  simp only [State.send]; repeat' split
  all_goals rfl

@[simp] theorem State.cores_onRegion (s : State) (r : Nat) (f : Region → Region) : (s.onRegion r f).cores = s.cores := by
  unfold State.onRegion; split <;> rfl
@[simp] theorem State.mem_onRegion (s : State) (r : Nat) (f : Region → Region) : (s.onRegion r f).mem = s.mem := by
  unfold State.onRegion; split <;> rfl
@[simp] theorem State.hostMem_onRegion (s : State) (r : Nat) (f : Region → Region) : (s.onRegion r f).hostMem = s.hostMem := by
  unfold State.onRegion; split <;> rfl
@[simp] theorem State.cur_onRegion (s : State) (r : Nat) (f : Region → Region) : (s.onRegion r f).cur = s.cur := by
  unfold State.onRegion; split <;> rfl
@[simp] theorem State.net_onRegion (s : State) (r : Nat) (f : Region → Region) : (s.onRegion r f).net = s.net := by
  unfold State.onRegion; split <;> rfl

@[simp] theorem State.cores_progress (s : State) (r : Nat) : (s.progress r).cores = s.cores := State.cores_onRegion ..
@[simp] theorem State.mem_progress (s : State) (r : Nat) : (s.progress r).mem = s.mem := State.mem_onRegion ..
@[simp] theorem State.hostMem_progress (s : State) (r : Nat) : (s.progress r).hostMem = s.hostMem :=
  State.hostMem_onRegion ..
@[simp] theorem State.cur_progress (s : State) (r : Nat) : (s.progress r).cur = s.cur := State.cur_onRegion ..
@[simp] theorem State.net_progress (s : State) (r : Nat) : (s.progress r).net = s.net := State.net_onRegion ..

@[simp] theorem State.cores_suspend (s : State) (r : Nat) : (s.suspend r).cores = s.cores := State.cores_onRegion ..
@[simp] theorem State.mem_suspend (s : State) (r : Nat) : (s.suspend r).mem = s.mem := State.mem_onRegion ..
@[simp] theorem State.hostMem_suspend (s : State) (r : Nat) : (s.suspend r).hostMem = s.hostMem :=
  State.hostMem_onRegion ..
@[simp] theorem State.cur_suspend (s : State) (r : Nat) : (s.suspend r).cur = s.cur := State.cur_onRegion ..

@[simp] theorem State.cores_inject (s : State) (n r : Nat) (c : PClass) (d : Agent) (b : PBody) :
    (s.inject n r c d b).cores = s.cores := by simp [State.inject]
@[simp] theorem State.mem_inject (s : State) (n r : Nat) (c : PClass) (d : Agent) (b : PBody) :
    (s.inject n r c d b).mem = s.mem := by simp [State.inject]
@[simp] theorem State.hostMem_inject (s : State) (n r : Nat) (c : PClass) (d : Agent) (b : PBody) :
    (s.inject n r c d b).hostMem = s.hostMem := by simp [State.inject]
@[simp] theorem State.cur_inject (s : State) (n r : Nat) (c : PClass) (d : Agent) (b : PBody) :
    (s.inject n r c d b).cur = s.cur := by simp [State.inject]

@[simp] theorem State.cores_undeliverable (s : State) (r : Nat) (l : Agent) (ws : List Word) :
    (s.undeliverable r l ws).cores = s.cores := by simp [State.undeliverable]
@[simp] theorem State.mem_undeliverable (s : State) (r : Nat) (l : Agent) (ws : List Word) :
    (s.undeliverable r l ws).mem = s.mem := by simp [State.undeliverable]
@[simp] theorem State.hostMem_undeliverable (s : State) (r : Nat) (l : Agent) (ws : List Word) :
    (s.undeliverable r l ws).hostMem = s.hostMem := by simp [State.undeliverable]
@[simp] theorem State.cur_undeliverable (s : State) (r : Nat) (l : Agent) (ws : List Word) :
    (s.undeliverable r l ws).cur = s.cur := by simp [State.undeliverable]

@[simp] theorem State.cores_sendRecord (s : State) (d : Nat) (r : Rec) : (s.sendRecord d r).cores = s.cores := by
  simp only [State.sendRecord]; repeat' split
  all_goals simp
@[simp] theorem State.mem_sendRecord (s : State) (d : Nat) (r : Rec) : (s.sendRecord d r).mem = s.mem := by
  simp only [State.sendRecord]; repeat' split
  all_goals simp
@[simp] theorem State.hostMem_sendRecord (s : State) (d : Nat) (r : Rec) : (s.sendRecord d r).hostMem = s.hostMem := by
  simp only [State.sendRecord]; repeat' split
  all_goals simp
@[simp] theorem State.cur_sendRecord (s : State) (d : Nat) (r : Rec) : (s.sendRecord d r).cur = s.cur := by
  simp only [State.sendRecord]; repeat' split
  all_goals simp

@[simp] theorem State.cores_trace (s : State) (n r f e : Nat) : (s.trace n r f e).cores = s.cores := by
  unfold State.trace; split <;> simp
@[simp] theorem State.mem_trace (s : State) (n r f e : Nat) : (s.trace n r f e).mem = s.mem := by
  unfold State.trace; split <;> simp
@[simp] theorem State.hostMem_trace (s : State) (n r f e : Nat) : (s.trace n r f e).hostMem = s.hostMem := by
  unfold State.trace; split <;> simp
@[simp] theorem State.cur_trace (s : State) (n r f e : Nat) : (s.trace n r f e).cur = s.cur := by
  unfold State.trace; split <;> simp

theorem State.core_of_cores {s t : State} (h : t.cores = s.cores) (n : Nat) : t.core n = s.core n := by
  simp [State.core, h]

@[simp] theorem State.core_send (s : State) (p : Packet) (n : Nat) : (s.send p).core n = s.core n :=
  State.core_of_cores (by simp) n
@[simp] theorem State.core_progress (s : State) (r n : Nat) : (s.progress r).core n = s.core n :=
  State.core_of_cores (by simp) n
@[simp] theorem State.core_inject (s : State) (n r : Nat) (c : PClass) (d : Agent) (b : PBody) (m : Nat) :
    (s.inject n r c d b).core m = s.core m := State.core_of_cores (by simp) m
@[simp] theorem State.core_sendRecord (s : State) (d : Nat) (r : Rec) (n : Nat) : (s.sendRecord d r).core n = s.core n :=
  State.core_of_cores (by simp) n
@[simp] theorem State.core_trace (s : State) (m r f e n : Nat) : (s.trace m r f e).core n = s.core n :=
  State.core_of_cores (by simp) n

/-! ## A core -/

@[simp] theorem Core.frame_onFrame (c : Core) (fid k : Nat) (f : Frame → Frame) :
    (c.onFrame fid f).frame k = if k = fid then (c.frame fid).map f else c.frame k := by
  unfold Core.onFrame
  split
  · next h => split <;> simp_all
  · next x h => simp [Core.frame] at *; split <;> simp_all

@[simp] theorem Core.run_onFrame (c : Core) (fid : Nat) (f : Frame → Frame) : (c.onFrame fid f).run = c.run := by
  unfold Core.onFrame; split <;> rfl
@[simp] theorem Core.lmem_onFrame (c : Core) (fid : Nat) (f : Frame → Frame) : (c.onFrame fid f).lmem = c.lmem := by
  unfold Core.onFrame; split <;> rfl
@[simp] theorem Core.hold_onFrame (c : Core) (fid : Nat) (f : Frame → Frame) : (c.onFrame fid f).hold = c.hold := by
  unfold Core.onFrame; split <;> rfl

@[simp] theorem Core.run_endRun (c : Core) (r : Run) : (c.endRun r).run = none := rfl
@[simp] theorem Core.frame_endRun (c : Core) (r : Run) (k : Nat) : (c.endRun r).frame k = c.frame k := rfl
@[simp] theorem Core.lmem_endRun (c : Core) (r : Run) : (c.endRun r).lmem = c.lmem := rfl
@[simp] theorem Core.hold_endRun (c : Core) (r : Run) : (c.endRun r).hold = c.hold := rfl

/-! ## Saving a threadlet -/

/-- What saving the symbolic registers leaves alone. -/
theorem Core.saveForms_keeps (c : Core) (r : Run) :
    (c.saveForms r).1.run = c.run ∧ (c.saveForms r).1.frames = c.frames ∧ (c.saveForms r).1.lmem = c.lmem ∧
      (c.saveForms r).1.hold = c.hold := by
  unfold Core.saveForms
  refine foldl_keeps (fun p : Core × SMap Word => p.1.run = c.run ∧ p.1.frames = c.frames ∧ p.1.lmem = c.lmem ∧
    p.1.hold = c.hold) _ (fun p i hp => ?_) _ _ ⟨rfl, rfl, rfl, rfl⟩
  dsimp only
  split <;> exact hp

@[simp] theorem Core.putWord_run (c : Core) (a : Nat) (w : Word) : (c.putWord a w).run = c.run := rfl
@[simp] theorem Core.putWord_frame (c : Core) (a : Nat) (w : Word) (k : Nat) : (c.putWord a w).frame k = c.frame k := rfl
@[simp] theorem Core.putWord_hold (c : Core) (a : Nat) (w : Word) : (c.putWord a w).hold = c.hold := rfl

theorem Core.putWords_keeps (ws : List Word) : ∀ (c : Core) (a : Nat),
    (c.putWords a ws).run = c.run ∧ (∀ k, (c.putWords a ws).frame k = c.frame k) ∧ (c.putWords a ws).hold = c.hold := by
  induction ws with
  | nil => intro c a; exact ⟨rfl, fun _ => rfl, rfl⟩
  | cons w ws ih => intro c a; simpa [Core.putWords] using ih (c.putWord a w) (a + 8)

/-- What a disarmed frame is: the same, with fewer slots that SLOTI armed. -/
theorem Core.frame_disarm (c : Core) (a n k : Nat) :
    ∃ g : List Nat → List Nat, (c.disarm a n).frame k = (c.frame k).map fun f => { f with armed := g f.armed } := by
  unfold Core.disarm Core.frame
  simp only
  generalize c.frames = fs
  induction fs with
  | nil => exact ⟨id, rfl⟩
  | cons e fs ih =>
    obtain ⟨i, f⟩ := e
    obtain ⟨g, hg⟩ := ih
    by_cases hk : i = k
    · by_cases hc : f.st = .resident ∧ f.base < a + n ∧ a < f.base + f.bytes
      · exact ⟨_, by simp [SMap.find, hk, hc]; rfl⟩
      · exact ⟨id, by simp [SMap.find, hk, hc]⟩
    · by_cases hl : k < i
      · refine ⟨id, ?_⟩
        simp only [List.map_cons]
        split <;> simp [SMap.find, hk, hl]
      · refine ⟨g, ?_⟩
        simp only [List.map_cons]
        split <;> simpa [SMap.find, hk, hl] using hg

/-! ## Code read (R198) -/

theorem State.SameButCode.refl (s : State) : s.SameButCode s := ⟨rfl, fun _ => rfl, fun h => ⟨h, fun _ _ => rfl⟩⟩

theorem State.SameButCode.bindings {s t : State} (h : s.SameButCode t) : t.bindings = s.bindings := by rw [h.1]

theorem State.SameButCode.trans {s t u : State} (h : s.SameButCode t) (k : t.SameButCode u) : s.SameButCode u := by
  have hb := h.bindings
  obtain ⟨h1, h2, h3⟩ := h
  obtain ⟨k1, k2, k3⟩ := k
  refine ⟨by rw [k1, h1], fun m => (k2 m).trans (h2 m), fun w => ?_⟩
  obtain ⟨w', e⟩ := h3 w
  refine ⟨(k3 w').1, fun a ha => ((k3 w').2 a ?_).trans (e a ha)⟩
  rwa [State.bindingAt, hb]

/-- A change of memory alone that keeps what no stream's binding holds. -/
theorem State.MemoryOnly.sameButCode {s t : State} (h : s.MemoryOnly t)
    (hm : Memory.wf s.mem = true → Memory.wf t.mem = true ∧
      ∀ a, s.bindingAt (a / 128 * 128) = none → Cells.get t.mem a = Cells.get s.mem a) : s.SameButCode t := by
  refine ⟨?_, h.tlb, hm⟩
  cases s; cases t; cases h
  simp_all

theorem State.applyLine_sameButCode (s : State) (line : Nat) : s.SameButCode (s.applyLine line) :=
  (s.applyLine_only line).sameButCode fun h => State.applyLine_mem h line

theorem State.touchLines_sameButCode (s : State) (a n : Nat) (w : Bool) : s.SameButCode (s.touchLines a n w) :=
  (s.touchLines_only a n w).sameButCode fun h => by simp [h]

/-- A read by an agent of the module applies what it finds pending, and no more. -/
theorem State.fetch_sameButCode (s : State) (a n : Nat) : s.SameButCode (s.fetch a n).2.2 :=
  ((foldl_keeps (fun t => s.SameButCode t) _ (fun t l h => h.trans (t.applyLine_sameButCode l)) _ _ (.refl s)).trans
    ((State.readRaw_only _ a n).sameButCode fun h => by simp [State.readRaw_mem, h])).trans
    (State.touchLines_sameButCode ..)

theorem State.freeBytes_sameButCode (s : State) (n : Nat) : s.SameButCode (s.freeBytes n).2 :=
  ⟨rfl, fun _ => rfl, fun h => ⟨h, fun _ _ => rfl⟩⟩

theorem State.codeLine_sameButCode (s : State) (dst : Agent) (pa : Nat) : s.SameButCode (s.codeLine dst pa).2 := by
  unfold State.codeLine
  split
  · exact s.fetch_sameButCode ..
  · exact .refl s
  · exact s.freeBytes_sameButCode ..

theorem State.touchWalk_sameButCode (s : State) (asid va : Nat) : s.SameButCode (s.touchWalk asid va) :=
  foldl_keeps (fun t => s.SameButCode t) _ (fun t a h => h.trans (t.touchLines_sameButCode ..)) _ _ (.refl s)

theorem State.setChip_sameButCode (s : State) (n : Nat) (l : List ICLine) :
    s.SameButCode (s.setChip n { s.chip n with icache := l }) := by
  refine ⟨rfl, fun m => ?_, fun h => ⟨h, fun _ _ => rfl⟩⟩
  simp only [State.setChip, State.chip, SMap.get_set]
  split
  · subst_vars; rfl
  · rfl

theorem State.cacheCode_sameButCode (s : State) (core asid va : Nat) : s.SameButCode (s.cacheCode core asid va) := by
  unfold State.cacheCode
  dsimp only
  repeat' split
  all_goals first
    | exact State.SameButCode.refl s
    | exact ((s.codeLine_sameButCode ..).trans (State.touchWalk_sameButCode ..)).trans (State.setChip_sameButCode ..)
    | exact (s.codeLine_sameButCode ..).trans (State.setChip_sameButCode ..)

/-- All that reading a block's entry does: lines of code enter the instruction caches. -/
theorem State.readEntry_sameButCode (s : State) (core asid va i : Nat) : s.SameButCode (s.readEntry core asid va i) := by
  unfold State.readEntry
  dsimp only
  split
  · exact (foldl_keeps (fun t => s.SameButCode t) _ (fun t l h => h.trans (State.cacheCode_sameButCode _ _ _ _)) _ _
      (State.cacheCode_sameButCode _ _ _ _)).trans (State.cacheCode_sameButCode _ _ _ _)
  · exact State.cacheCode_sameButCode _ _ _ _

@[simp] theorem State.cores_readEntry (s : State) (core asid va i : Nat) :
    (s.readEntry core asid va i).cores = s.cores := by
  rw [(s.readEntry_sameButCode core asid va i).1]
@[simp] theorem State.hostMem_readEntry (s : State) (core asid va i : Nat) :
    (s.readEntry core asid va i).hostMem = s.hostMem := by
  rw [(s.readEntry_sameButCode core asid va i).1]
@[simp] theorem State.cur_readEntry (s : State) (core asid va i : Nat) : (s.readEntry core asid va i).cur = s.cur := by
  rw [(s.readEntry_sameButCode core asid va i).1]
@[simp] theorem State.net_readEntry (s : State) (core asid va i : Nat) : (s.readEntry core asid va i).net = s.net := by
  rw [(s.readEntry_sameButCode core asid va i).1]
@[simp] theorem State.regions_readEntry (s : State) (core asid va i : Nat) :
    (s.readEntry core asid va i).regions = s.regions := by
  rw [(s.readEntry_sameButCode core asid va i).1]

end Sys2Proof.Machine
end

