-- ==== Sys2Proof/Laws/Scalar.lean ====
section
/-! SUPPORT. Predicates and floating point: the threadlet after a predicate or a result is written, and recording (R69, R101,
R138). -/

namespace Sys2Proof.Machine

open Sys2Proof

/-- The predicates after one of them is written. -/
theorem predicates_set (p : BitVec 8) (k : PReg) (b : Bool) (j : Nat) (hj : j < 8) :
  (if b then p ||| BitVec.ofNat 8 (2 ^ k.toNat) else p &&& ~~~ (BitVec.ofNat 8 (2 ^ k.toNat))).getLsbD j = if j = k.toNat then b else p.getLsbD j := by
  have hk : (BitVec.ofNat 8 (2 ^ k.toNat)).getLsbD j = decide (j = k.toNat) := by
    rw [BitVec.getLsbD_ofNat, Nat.testBit_two_pow]; simp [hj]; exact eq_comm
  cases b
  · simp only [Bool.false_eq_true, if_false, BitVec.getLsbD_and, BitVec.getLsbD_not, hk, hj]
    by_cases h : j = k.toNat <;> simp [h]
  · simp only [if_true, BitVec.getLsbD_or, hk]
    by_cases h : j = k.toNat <;> simp [h]

/-- What writes a predicate and raises flags. -/
theorem setsPred_raise {s : State} {r : Run} {k : PReg} {b : Bool} {fl : BitVec 8} {i : Instr} (h : (s.core s.cur).run = some r) (hk : k ≠ 0)
   (he : exec i s = .next (((s.writeP k b).raise fl).next 1)) : s.SetsPred i r k b fl := by
  refine ⟨_, he.trans ?_, fun j hj => predicates_set r.p k b j hj⟩
  congr 1
  rw [State.raise, State.writeP, State.onRun_eq h, State.onRun_setRun, State.next_setRun, if_neg hk]

/-- What writes a predicate alone. -/
theorem setsPred_quiet {s : State} {r : Run} {k : PReg} {b : Bool} {i : Instr} (h : (s.core s.cur).run = some r) (hk : k ≠ 0)
   (he : exec i s = .next ((s.writeP k b).next 1)) : s.SetsPred i r k b 0 := by
  refine setsPred_raise h hk (he.trans ?_)
  rw [State.writeP, State.onRun_eq h]
  rw [State.raise, State.onRun_setRun]; simp

/-- A left shift by a known amount. -/
theorem shiftLeft_run {s : State} {r : Run} {d a : XReg} {k : Word} {v : RVal} (h : (s.core s.cur).run = some r)
   (hv : foldMul (r.get a) (.known (BitVec.ofNat 64 (2 ^ (k.toNat % 64)))) = some v) (hs : ¬ v.isLate ∨ s.Covers r d v) :
   shiftLeft d a (.known k) s r = .ok (s.setRun s.cur (r.write d v)) := by
  rw [shiftLeft, hv]
  exact writeForm_eq h hs

theorem Run.fpst_write (r : Run) (d : XReg) (v : RVal) : (r.write d v).fpst = r.fpst := by
  unfold Run.write; split <;> rfl

/-- A floating-point result, as the threadlet it leaves. -/
theorem writeFp_eq {s : State} {r : Run} (h : (s.core s.cur).run = some r) (d : XReg) (p : Prec) (res : Nat × BitVec 8) :
    s.writeFp d p res = s.setRun s.cur (r.fpResult d p res) := by
  rw [State.writeFp, State.writeX_eq h, State.raise, State.onRun_setRun, Run.fpResult, Run.fpst_write]

theorem asChain_late {v : RVal} {i : Nat} {st : List ChainStep} (h : v.asChain = some (i, st)) : v.isLate := by
  cases v <;> simp_all [RVal.asChain]

/-- A step recorded (R69). -/
theorem record_ok {o : Origin} {op : ChainOp} {p : Prec} {sat : Bool} {rm : RMode} {pos : Nat} {v : RVal} {k1 k2 : Word}
    {i : Nat} {st : List ChainStep} (h : v.asChain = some (i, st)) (hl : st.length < 4) :
    record o op p sat rm pos v k1 k2 =
      .ok (.chain i (st ++ [⟨op, p == .d, sat, rm, pos, k1, k2, o.block, o.index, o.iter⟩])) := by
  simp [record, h, hl]

/-- A chain of four steps parks (R69). -/
theorem record_err {o : Origin} {op : ChainOp} {p : Prec} {sat : Bool} {rm : RMode} {pos : Nat} {v : RVal} {k1 k2 : Word}
    {i : Nat} {st : List ChainStep} (h : v.asChain = some (i, st)) (hl : 4 ≤ st.length) :
    record o op p sat rm pos v k1 k2 = .error (waitFor [v]) := by
  simp [record, h, show ¬ st.length < 4 by omega]

theorem fp2_pos0 {op f prec sat rnd d a b} {s : State} {r : Run} {k : Word} (ha : (r.get a).isLate) (hb : r.get b = .known k) :
   fp2 op f prec sat rnd d a b s r = (record r.origin op prec sat (s.rounding r rnd) 0 (r.get a) k 0).bind (s.writeForm r d) := by
  unfold fp2
  cases hv : r.get a <;> simp_all

theorem fp2_pos1 {op f prec sat rnd d a b} {s : State} {r : Run} {k : Word} (ha : (r.get a).isLate) (hb : r.get b = .known k) :
   fp2 op f prec sat rnd d b a s r = (record r.origin op prec sat (s.rounding r rnd) 1 (r.get a) k 0).bind (s.writeForm r d) := by
  unfold fp2
  cases hv : r.get a <;> simp_all

end Sys2Proof.Machine
end

