-- ==== Sys2Proof/Laws/Sound.lean ====
section
/-! SUPPORT. The memories stay canonical: what a sound state is made of, and that every shared operation, the
wrappers of the instructions, and the scalar instructions keep it. -/

namespace Sys2Proof.Machine

open Sys2Proof

/-- Every core's local memory stands in its canonical form. -/
def CoresOk (m : SMap Core) : Prop := ∀ c ∈ m, Memory.wf c.2.lmem = true

/-- A state that an effect answers, where it answers one, is sound. -/
def OkSound {ε : Type} (x : Except ε State) : Prop := ∀ t, x = .ok t → t.Sound

/-- A next state that an outcome holds is sound. -/
def OutSound (x : Host.Outcome State Fault Refusal) : Prop := ∀ t, x = .next t → t.Sound

/-- A state that may be absent is sound where it is there. -/
def SomeSound (x : Option State) : Prop := ∀ t, x = some t → t.Sound

@[simp] theorem OkSound.ok {ε : Type} (t : State) : OkSound (.ok t : Except ε State) ↔ t.Sound :=
  ⟨fun h => h t rfl, fun h _ e => by cases e; exact h⟩
@[simp] theorem OkSound.pure {ε : Type} (t : State) : OkSound (Pure.pure t : Except ε State) ↔ t.Sound := OkSound.ok t
@[simp] theorem OkSound.error {ε : Type} (e : ε) : OkSound (.error e : Except ε State) ↔ True :=
  ⟨fun _ => trivial, fun _ _ e => by cases e⟩
@[simp] theorem OkSound.bind {ε α : Type} {x : Except ε α} {f : α → Except ε State}
    (h : ∀ a, x = .ok a → OkSound (f a)) : OkSound (x >>= f) := by
  cases x with
  | error e => exact fun _ e => by cases e
  | ok a => exact h a rfl
@[simp] theorem OkSound.bind' {ε α : Type} {x : Except ε α} {f : α → Except ε State}
    (h : ∀ a, x = .ok a → OkSound (f a)) : OkSound (x.bind f) := OkSound.bind h
@[simp] theorem OkSound.map {ε α : Type} {x : Except ε α} {f : α → State} (h : ∀ a, x = .ok a → (f a).Sound) :
    OkSound (x.map f) := by
  cases x with
  | error e => exact fun _ e => by cases e
  | ok a => exact fun _ e => by cases e; exact h a rfl
@[simp] theorem OutSound.next (t : State) : OutSound (.next t) ↔ t.Sound :=
  ⟨fun h => h t rfl, fun h _ e => by cases e; exact h⟩
@[simp] theorem OutSound.fault (f : Fault) : OutSound (.fault f) ↔ True := ⟨fun _ => trivial, fun _ _ e => by cases e⟩
@[simp] theorem OutSound.refused (f : Refusal) : OutSound (.refused f) ↔ True := ⟨fun _ => trivial, fun _ _ e => by cases e⟩
@[simp] theorem SomeSound.some (t : State) : SomeSound (some t) ↔ t.Sound :=
  ⟨fun h => h t rfl, fun h _ e => by cases e; exact h⟩
@[simp] theorem SomeSound.none : SomeSound none ↔ True := ⟨fun _ => trivial, fun _ _ e => by cases e⟩

theorem State.sound_of {s : State} (h1 : Memory.wf s.mem = true) (h2 : Memory.wf s.hostMem = true)
    (h3 : CoresOk s.cores) : s.Sound := ⟨h1, h2, h3⟩

@[simp] theorem State.Sound.mem {s : State} (h : s.Sound) : Memory.wf s.mem = true := h.1
@[simp] theorem State.Sound.hostMem {s : State} (h : s.Sound) : Memory.wf s.hostMem = true := h.2.1
@[simp] theorem State.Sound.cores {s : State} (h : s.Sound) : CoresOk s.cores := h.2.2
@[simp] theorem State.Sound.core {s : State} (h : s.Sound) (n : Nat) : Memory.wf (s.core n).lmem = true := by
  unfold State.core SMap.get
  cases e : SMap.find s.cores n with
  | none => rfl
  | some c => exact h.2.2 _ (SMap.mem_of_find e)

@[simp] theorem CoresOk.set {m : SMap Core} {n : Nat} {c : Core} (h : CoresOk m) (hc : Memory.wf c.lmem = true) :
    CoresOk (SMap.set m n c) := fun e he => by
  rcases SMap.mem_set he with h1 | h1
  · subst h1; exact hc
  · exact h _ h1

@[simp] theorem CoresOk.map {m : SMap Core} {f : Nat × Core → Nat × Core} (h : CoresOk m)
    (hf : ∀ e, Memory.wf e.2.lmem = true → Memory.wf (f e).2.lmem = true) : CoresOk (m.map f) := fun e he => by
  obtain ⟨x, hx, rfl⟩ := List.mem_map.1 he
  exact hf x (h x hx)
@[simp] theorem CoresOk.nil : CoresOk [] := fun _ h => by cases h
theorem CoresOk.mem {m : SMap Core} (h : CoresOk m) {e : Nat × Core} (he : e ∈ m) : Memory.wf e.2.lmem = true := h e he

/-- A state written out field by field is sound if its memories are. -/
@[simp] theorem State.sound_mk (cores cur mem poison struck lost past hostMem hostPoison hostLines slices eddies allot bindings regions net
    chips zeroing gathers fes queues service tracer brielo power flash reservoir weir bucket pairCores tileIv hkBud banked ecc
    cycle period agenda pace free) :
    State.Sound (State.mk cores cur mem poison struck lost past hostMem hostPoison hostLines slices eddies allot bindings regions net chips
      zeroing gathers fes queues service tracer brielo power flash reservoir weir bucket pairCores tileIv hkBud banked ecc cycle
      period agenda pace free) ↔ Memory.wf mem = true ∧ Memory.wf hostMem = true ∧ CoresOk cores := Iff.rfl

@[simp] theorem sound_foldl {β : Type} {f : State → β → State} {l : List β} {s : State}
    (hf : ∀ s b, s.Sound → (f s b).Sound) (h : s.Sound) : (l.foldl f s).Sound := foldl_keeps State.Sound f hf l s h

@[simp] theorem wf_foldl {β : Type} {f : Core → β → Core} {l : List β} {c : Core}
    (hf : ∀ c b, Memory.wf c.lmem = true → Memory.wf (f c b).lmem = true) (h : Memory.wf c.lmem = true) :
    Memory.wf (l.foldl f c).lmem = true := foldl_keeps (fun c => Memory.wf c.lmem = true) f hf l c h

/-- The state beside a number is sound where both are there. -/
def PairSound {α : Type} (x : Option (α × State)) : Prop := ∀ a t, x = some (a, t) → t.Sound
@[simp] theorem PairSound.some {α : Type} (a : α) (t : State) : PairSound (some (a, t)) ↔ t.Sound :=
  ⟨fun h => h a t rfl, fun h _ _ e => by cases e; exact h⟩
@[simp] theorem PairSound.none {α : Type} : PairSound (none : Option (α × State)) ↔ True :=
  ⟨fun _ => trivial, fun _ _ _ e => by cases e⟩

theorem sound_of_pair {α : Type} {p : α × State} {a : α} {t : State} (e : p = (a, t)) (h : p.2.Sound) : t.Sound := by
  subst e; exact h
theorem sound_of_triple {α β : Type} {p : α × β × State} {a : α} {b : β} {t : State} (e : p = (a, b, t)) (h : p.2.2.Sound) :
    t.Sound := by subst e; exact h
theorem sound_of_some {x : Option State} {t : State} (e : x = some t) (h : SomeSound x) : t.Sound := h t e
theorem sound_of_somePair {α : Type} {x : Option (α × State)} {a : α} {t : State} (e : x = some (a, t)) (h : PairSound x) :
    t.Sound := h a t e
theorem sound_of_ok {ε : Type} {x : Except ε State} {t : State} (e : x = .ok t) (h : OkSound x) : t.Sound := h t e

@[simp] theorem sound_ite {p : Prop} [Decidable p] {a b : State} (ha : a.Sound) (hb : b.Sound) : (if p then a else b).Sound := by
  split <;> assumption
@[simp] theorem wf_ite {p : Prop} [Decidable p] {a b : Core} (ha : Memory.wf a.lmem = true) (hb : Memory.wf b.lmem = true) :
    Memory.wf (if p then a else b).lmem = true := by split <;> assumption
@[simp] theorem PairSound.map {α β : Type} {x : Option α} {f : α → β × State} (h : ∀ a, x = Option.some a → (f a).2.Sound) :
    PairSound (x.map f) := fun b t e => by
  obtain ⟨a, ha, he⟩ := Option.map_eq_some_iff.1 e
  have := h a ha
  rwa [he] at this
@[simp] theorem SomeSound.map {α : Type} {x : Option α} {f : α → State} (h : ∀ a, x = Option.some a → (f a).Sound) :
    SomeSound (x.map f) := fun t e => by
  obtain ⟨a, ha, rfl⟩ := Option.map_eq_some_iff.1 e
  exact h a ha

@[simp] theorem SomeSound.getD {x : Option State} {s : State} (hx : SomeSound x) (h : s.Sound) : (x.getD s).Sound := by
  cases x with
  | none => exact h
  | some t => exact hx t rfl

@[simp] theorem sound_elim {α : Type} {x : Option α} {s : State} {f : α → State} (h : s.Sound) (hf : ∀ a, (f a).Sound) :
    (x.elim s f).Sound := by cases x <;> simp [h, hf]

@[simp] theorem sound_foldl_snd {α β : Type} {f : α × State → β → α × State} {l : List β} {p : α × State}
    (hf : ∀ p b, p.2.Sound → (f p b).2.Sound) (h : p.2.Sound) : (l.foldl f p).2.Sound :=
  foldl_keeps (fun p : α × State => p.2.Sound) f hf l p h

@[simp] theorem State.reset_mem : State.reset.mem = [] := rfl
@[simp] theorem State.reset_hostMem : State.reset.hostMem = [] := rfl
@[simp] theorem State.reset_cores : State.reset.cores = [] := rfl

/-- The state that a turn acts on, or leaves, is sound. -/
def ActSound : Act → Prop
  | .done s => s.Sound
  | .run s _ => s.Sound
@[simp] theorem ActSound.done (s : State) : ActSound (.done s) ↔ s.Sound := Iff.rfl
@[simp] theorem ActSound.run (s : State) (i : Instr) : ActSound (.run s i) ↔ s.Sound := Iff.rfl
theorem sound_of_someFst {α : Type} {x : Option (State × α)} {a : α} {t : State} (e : x = some (t, a))
    (h : ∀ b ∈ x, b.1.Sound) : t.Sound := h _ e

@[simp] theorem State.setCore_sound {s : State} {n : Nat} {c : Core} (h : s.Sound) (hc : Memory.wf c.lmem = true) :
    (s.setCore n c).Sound := State.sound_of (by simp [h]) (by simp [h]) (by simp [State.setCore, h, hc])

@[simp] theorem State.onCore_sound {s : State} {n : Nat} {f : Core → Core} (h : s.Sound)
    (hc : Memory.wf (f (s.core n)).lmem = true) : (s.onCore n f).Sound := by simp [State.onCore, h, hc]

@[simp] theorem State.setSlice_sound (s : State) (i : Nat) (x : Slice) (hs : s.Sound) :
    (State.setSlice s i x).Sound := by
  unfold State.setSlice
  all_goals simp [hs]

@[simp] theorem State.setEddy_sound (s : State) (m : Nat) (x : Eddy) (hs : s.Sound) :
    (State.setEddy s m x).Sound := by
  unfold State.setEddy
  all_goals simp [hs]

@[simp] theorem State.setChip_sound (s : State) (k : Nat) (x : Chip) (hs : s.Sound) :
    (State.setChip s k x).Sound := by
  unfold State.setChip
  all_goals simp [hs]

@[simp] theorem State.send_sound (s : State) (p : Packet) (hs : s.Sound) :
    (State.send s p).Sound := by
  unfold State.send
  repeat' (first | dsimp only | split)
  all_goals simp [hs]

@[simp] theorem State.choose_sound (s : State) (n : Nat) (hs : s.Sound) :
    (State.choose s n).2.Sound := by
  unfold State.choose
  repeat' dsimp only
  all_goals simp [hs]

@[simp] theorem State.freeBytes_sound (s : State) (n : Nat) (hs : s.Sound) :
    (State.freeBytes s n).2.Sound := by
  unfold State.freeBytes
  repeat' dsimp only
  all_goals simp [hs]

@[simp] theorem State.readRaw_sound (s : State) (a n : Nat) (hs : s.Sound) :
    (State.readRaw s a n).2.Sound := by
  unfold State.readRaw
  repeat' (first | dsimp only | split)
  all_goals simp [hs]

@[simp] theorem State.recode_sound (s : State) (a n : Nat) (hs : s.Sound) :
    (State.recode s a n).Sound := by
  unfold State.recode
  repeat' (first | dsimp only | split)
  all_goals simp [hs]

@[simp] theorem State.writeMem_sound (s : State) (a : Nat) (bs : List (Option Byte)) (bad : List Nat) (hs : s.Sound) :
    (State.writeMem s a bs bad).Sound := by
  unfold State.writeMem
  repeat' dsimp only
  all_goals simp +contextual (maxDischargeDepth := 20) [hs]

@[simp] theorem State.writeHost_sound (s : State) (a : Nat) (bs : List (Option Byte)) (bad : List Nat) (hs : s.Sound) :
    (State.writeHost s a bs bad).Sound := by
  unfold State.writeHost
  repeat' dsimp only
  all_goals simp +contextual (maxDischargeDepth := 20) [hs]

@[simp] theorem State.touchLine_sound (s : State) (i line : Nat) (evp : Evp) (write : Bool) (hs : s.Sound) :
    (State.touchLine s i line evp write).Sound := by
  unfold State.touchLine
  repeat' (first | dsimp only | split)
  all_goals simp [hs]

@[simp] theorem State.touchLines_sound (s : State) (a n : Nat) (write : Bool) (hs : s.Sound) :
    (State.touchLines s a n write).Sound := by
  unfold State.touchLines
  repeat' (first | dsimp only | with_reducible refine sound_foldl (fun _ _ _ => ?_) ?_ | with_reducible refine wf_foldl (fun _ _ _ => ?_) ?_ | with_reducible refine sound_foldl_snd (fun _ _ _ => ?_) ?_ | split)
  all_goals first | with_reducible assumption | (simp +contextual (maxDischargeDepth := 20) [hs]) | simp +contextual (maxDischargeDepth := 20) [*]

@[simp] theorem State.invalidateHost_sound (s : State) (a n : Nat) (hs : s.Sound) :
    (State.invalidateHost s a n).Sound := by
  unfold State.invalidateHost
  all_goals simp [hs]

@[simp] theorem State.nextTag_sound (s : State) (i : Nat) (hs : s.Sound) :
    (State.nextTag s i).2.Sound := by
  unfold State.nextTag
  repeat' dsimp only
  all_goals simp [hs]

@[simp] theorem State.dropLine_sound (s : State) (i line : Nat) (hs : s.Sound) :
    (State.dropLine s i line).Sound := by
  unfold State.dropLine
  repeat' (first | dsimp only | with_reducible refine sound_foldl (fun _ _ _ => ?_) ?_ | with_reducible refine wf_foldl (fun _ _ _ => ?_) ?_ | with_reducible refine sound_foldl_snd (fun _ _ _ => ?_) ?_ | split)
  all_goals simp [hs]

@[simp] theorem State.forgetLines_sound (s : State) (lo hi : Nat) (hs : s.Sound) :
    (State.forgetLines s lo hi).Sound := by
  unfold State.forgetLines
  repeat' dsimp only
  all_goals simp [hs]

@[simp] theorem State.zeroRange_sound (s : State) (lo hi : Nat) (hs : s.Sound) :
    (State.zeroRange s lo hi).Sound := by
  unfold State.zeroRange
  repeat' dsimp only
  all_goals simp [hs]

@[simp] theorem State.applyOne_sound (s : State) (oper line i : Nat) (parts : List Bin) (hs : s.Sound) :
    (State.applyOne s oper line i parts).Sound := by
  unfold State.applyOne
  repeat' (first | dsimp only | with_reducible refine sound_foldl (fun _ _ _ => ?_) ?_ | with_reducible refine wf_foldl (fun _ _ _ => ?_) ?_ | with_reducible refine sound_foldl_snd (fun _ _ _ => ?_) ?_ | split)
  all_goals simp +contextual (maxDischargeDepth := 20) [hs]

@[simp] theorem State.applyParts_sound (s : State) (oper line : Nat) (parts : List Bin) (hs : s.Sound) :
    (State.applyParts s oper line parts).Sound := by
  unfold State.applyParts
  repeat' (first | dsimp only | with_reducible refine sound_foldl (fun _ _ _ => ?_) ?_ | with_reducible refine wf_foldl (fun _ _ _ => ?_) ?_ | with_reducible refine sound_foldl_snd (fun _ _ _ => ?_) ?_)
  all_goals first | with_reducible assumption | (simp +contextual (maxDischargeDepth := 20) [hs]) | simp +contextual (maxDischargeDepth := 20) [*]

@[simp] theorem State.applyLine_sound (s : State) (line : Nat) (hs : s.Sound) :
    (State.applyLine s line).Sound := by
  unfold State.applyLine
  repeat' (first | dsimp only | with_reducible refine OkSound.bind' fun _ _ => ?_ | split)
  all_goals simp +contextual (maxDischargeDepth := 20) [hs]

@[simp] theorem State.applyLines_sound (s : State) (a n : Nat) (hs : s.Sound) :
    (State.applyLines s a n).Sound := by
  unfold State.applyLines
  repeat' (first | dsimp only | with_reducible refine sound_foldl (fun _ _ _ => ?_) ?_ | with_reducible refine wf_foldl (fun _ _ _ => ?_) ?_ | with_reducible refine sound_foldl_snd (fun _ _ _ => ?_) ?_)
  all_goals first | with_reducible assumption | (simp +contextual (maxDischargeDepth := 20) [hs]) | simp +contextual (maxDischargeDepth := 20) [*]

@[simp] theorem State.readMem_sound (s : State) (a n : Nat) (hs : s.Sound) :
    (State.readMem s a n).2.2.Sound := by
  unfold State.readMem
  repeat' dsimp only
  all_goals simp [hs]

@[simp] theorem State.fetch_sound (s : State) (a n : Nat) (hs : s.Sound) :
    (State.fetch s a n).2.2.Sound := by
  unfold State.fetch
  repeat' dsimp only
  all_goals (first | with_reducible assumption | (simp +contextual (maxDischargeDepth := 20) [hs]))

@[simp] theorem State.store_sound (s : State) (a : Nat) (bs : List Byte) (hs : s.Sound) :
    (State.store s a bs).Sound := by
  unfold State.store
  repeat' (first | dsimp only | with_reducible refine sound_foldl (fun _ _ _ => ?_) ?_ | with_reducible refine wf_foldl (fun _ _ _ => ?_) ?_ | with_reducible refine sound_foldl_snd (fun _ _ _ => ?_) ?_)
  all_goals first | with_reducible assumption | (simp +contextual (maxDischargeDepth := 20) [hs]) | simp +contextual (maxDischargeDepth := 20) [*]

@[simp] theorem State.readPhys64_sound (s : State) (a : Nat) (hs : s.Sound) :
    (State.readPhys64 s a).2.Sound := by
  unfold State.readPhys64
  repeat' dsimp only
  all_goals simp [hs]

@[simp] theorem State.readWords_sound (s : State) (a n : Nat) (hs : s.Sound) :
    (State.readWords s a n).2.Sound := by
  unfold State.readWords
  repeat' dsimp only
  all_goals simp [hs]

@[simp] theorem State.touchWalk_sound (s : State) (asid va : Nat) (hs : s.Sound) :
    (State.touchWalk s asid va).Sound := by
  unfold State.touchWalk
  repeat' (first | dsimp only | with_reducible refine sound_foldl (fun _ _ _ => ?_) ?_ | with_reducible refine wf_foldl (fun _ _ _ => ?_) ?_ | with_reducible refine sound_foldl_snd (fun _ _ _ => ?_) ?_ | split)
  all_goals first | with_reducible assumption | (simp +contextual (maxDischargeDepth := 20) [hs]) | simp +contextual (maxDischargeDepth := 20) [*]

@[simp] theorem State.beginZeroing_sound (s : State) (z : Zeroing) (hs : s.Sound) :
    (State.beginZeroing s z).Sound := by
  unfold State.beginZeroing
  repeat' dsimp only
  all_goals simp [hs]

@[simp] theorem State.joinWalk_sound (s : State) (z : Zeroing) (hs : s.Sound) : (State.joinWalk s z).Sound := hs

@[simp] theorem State.awaitPage_sound (s : State) (z : Option Zeroing) (hs : s.Sound) :
    (State.awaitPage s z).Sound := by
  unfold State.awaitPage
  repeat' (first | dsimp only | split)
  all_goals simp [hs]

@[simp] theorem State.cacheTlb_sound (s : State) (core : Nat) (t : Tlb) (hs : s.Sound) :
    (State.cacheTlb s core t).Sound := by
  unfold State.cacheTlb
  repeat' (first | dsimp only | with_reducible refine State.onCore_sound ?_ ?_ | split)
  all_goals simp +contextual (maxDischargeDepth := 20) [hs]

@[simp] theorem State.onRegion_sound (s : State) (r : Nat) (f : Region → Region) (hs : s.Sound) :
    (State.onRegion s r f).Sound := by
  unfold State.onRegion
  repeat' (first | dsimp only | split)
  all_goals simp [hs]

@[simp] theorem State.progress_sound (s : State) (r : Nat) (hs : s.Sound) :
    (State.progress s r).Sound := by
  unfold State.progress
  all_goals simp [hs]

@[simp] theorem State.suspend_sound (s : State) (r : Nat) (hs : s.Sound) :
    (State.suspend s r).Sound := by
  unfold State.suspend
  all_goals simp [hs]

@[simp] theorem State.inject_sound (s : State) (core region : Nat) (cls : PClass) (dst : Agent) (b : PBody) (hs : s.Sound) :
    (State.inject s core region cls dst b).Sound := by
  unfold State.inject
  all_goals simp [hs]

@[simp] theorem State.undeliverable_sound (s : State) (region : Nat) (loc : Agent) (ws : List Word) (hs : s.Sound) :
    (State.undeliverable s region loc ws).Sound := by
  unfold State.undeliverable
  all_goals simp [hs]

@[simp] theorem State.sendRecord_sound (s : State) (domainOf : Nat) (r : Rec) (hs : s.Sound) :
    (State.sendRecord s domainOf r).Sound := by
  unfold State.sendRecord
  repeat' (first | dsimp only | split)
  all_goals simp [hs]

@[simp] theorem State.trace_sound (s : State) (core region fid ev : Nat) (hs : s.Sound) :
    (State.trace s core region fid ev).Sound := by
  unfold State.trace
  repeat' (first | dsimp only | split)
  all_goals simp [hs]

@[simp] theorem Core.freeSyms_sound (c : Core) (hc : Memory.wf c.lmem = true) :
    Memory.wf (Core.freeSyms c).lmem = true := by
  unfold Core.freeSyms
  repeat' (first | dsimp only | split)
  all_goals simp [hc]

@[simp] theorem Core.discard_sound (c : Core) (tid : Nat) (hc : Memory.wf c.lmem = true) :
    Memory.wf (Core.discard c tid).lmem = true := by
  unfold Core.discard
  repeat' (first | dsimp only | split)
  all_goals simp [hc]

@[simp] theorem Core.onFrame_sound (c : Core) (fid : Nat) (f : Frame → Frame) (hc : Memory.wf c.lmem = true) :
    Memory.wf (Core.onFrame c fid f).lmem = true := by
  unfold Core.onFrame
  repeat' (first | dsimp only | split)
  all_goals simp [hc]

@[simp] theorem Core.disarm_sound (c : Core) (a n : Nat) (hc : Memory.wf c.lmem = true) :
    Memory.wf (Core.disarm c a n).lmem = true := by
  unfold Core.disarm
  repeat' (first | dsimp only | split)
  all_goals simp [hc]

@[simp] theorem Core.put_sound (c : Core) (a : Nat) (bs : List Byte) (bad : List Nat) (hc : Memory.wf c.lmem = true) :
    Memory.wf (Core.put c a bs bad).lmem = true := by
  unfold Core.put
  repeat' dsimp only
  all_goals simp [hc]

@[simp] theorem Core.putWord_sound (c : Core) (a : Nat) (w : Word) (hc : Memory.wf c.lmem = true) :
    Memory.wf (Core.putWord c a w).lmem = true := by
  unfold Core.putWord
  repeat' dsimp only
  all_goals simp [hc]

@[simp] theorem Core.putWords_sound (ws : List Word) : ∀ (c : Core) (a : Nat), Memory.wf c.lmem = true →
    Memory.wf (Core.putWords c a ws).lmem = true := by
  induction ws with
  | nil => intro c a h; exact h
  | cons w ws ih => intro c a h; exact ih _ _ (by simp [h])

@[simp] theorem Core.touch_sound (c : Core) (fid : Nat) (hc : Memory.wf c.lmem = true) :
    Memory.wf (Core.touch c fid).lmem = true := by
  unfold Core.touch
  repeat' dsimp only
  all_goals simp [hc]

@[simp] theorem State.syncDrr_sound (s : State) (core : Nat) (hs : s.Sound) :
    (State.syncDrr s core).Sound := by
  unfold State.syncDrr
  repeat' (first | dsimp only | with_reducible refine sound_foldl (fun _ _ _ => ?_) ?_ | with_reducible refine wf_foldl (fun _ _ _ => ?_) ?_ | with_reducible refine sound_foldl_snd (fun _ _ _ => ?_) ?_ | split)
  all_goals simp [hs]

@[simp] theorem State.ageEntries_sound (s : State) (core : Nat) (hs : s.Sound) :
    (State.ageEntries s core).Sound := by
  unfold State.ageEntries
  all_goals simp +contextual (maxDischargeDepth := 20) [hs]

@[simp] theorem State.segmentAppend_sound (s : State) (g : Region) (core : Nat) (ws : List Word) (hs : s.Sound) :
    (State.segmentAppend s g core ws).Sound := by
  unfold State.segmentAppend
  repeat' dsimp only
  all_goals simp [hs]

@[simp] theorem State.pushReady_sound (s : State) (core region fid slot level : Nat) (resume : Bool) (hs : s.Sound) :
    (State.pushReady s core region fid slot level resume).Sound := by
  unfold State.pushReady
  repeat' (first | dsimp only | split)
  all_goals simp +contextual (maxDischargeDepth := 20) [hs]

@[simp] theorem Core.spill_sound (c : Core) (fid : Nat) (hc : Memory.wf c.lmem = true) :
    Memory.wf (Core.spill c fid).lmem = true := by
  unfold Core.spill
  repeat' (first | dsimp only | split)
  all_goals simp [hc]

@[simp] theorem Core.spillRun_sound (c : Core) (base bytes : Nat) (hc : Memory.wf c.lmem = true) :
    Memory.wf (Core.spillRun c base bytes).lmem = true := by
  unfold Core.spillRun
  repeat' (first | dsimp only | with_reducible refine sound_foldl (fun _ _ _ => ?_) ?_ | with_reducible refine wf_foldl (fun _ _ _ => ?_) ?_ | with_reducible refine sound_foldl_snd (fun _ _ _ => ?_) ?_ | split)
  all_goals first | with_reducible assumption | (simp +contextual (maxDischargeDepth := 20) [hc]) | simp +contextual (maxDischargeDepth := 20) [*]

@[simp] theorem Core.zeroFrame_sound (c : Core) (base bytes : Nat) (fid cls region : Nat) (hc : Memory.wf c.lmem = true) :
    Memory.wf (Core.zeroFrame c base bytes fid cls region).lmem = true := by
  unfold Core.zeroFrame
  all_goals simp [hc]

@[simp] theorem State.allocFrame_sound (s : State) (core region cls : Nat) (hs : s.Sound) :
    PairSound (State.allocFrame s core region cls) := by
  unfold State.allocFrame
  repeat' (first | dsimp only | split)
  all_goals simp +contextual (maxDischargeDepth := 20) [hs]

@[simp] theorem State.admit_sound (s : State) (core fid : Nat) (f : Frame) (hs : s.Sound) :
    (State.claimPlace s core fid f).Sound := by
  unfold State.claimPlace
  repeat' (first | dsimp only | with_reducible refine State.onCore_sound ?_ ?_ | split)
  all_goals simp +contextual (maxDischargeDepth := 20) [hs]

@[simp] theorem State.requestRefill_sound (s : State) (core fid : Nat) (hs : s.Sound) :
    (State.requestRefill s core fid).Sound := by
  unfold State.requestRefill
  repeat' (first | dsimp only | with_reducible refine State.onCore_sound ?_ ?_ | split)
  all_goals simp +contextual (maxDischargeDepth := 20) [hs]

@[simp] theorem State.hkCharge_sound (s : State) (ctls : List Nat) (hs : s.Sound) :
    (State.hkCharge s ctls).Sound := by
  unfold State.hkCharge
  repeat' (first | dsimp only | with_reducible refine sound_foldl (fun _ _ _ => ?_) ?_ | with_reducible refine wf_foldl (fun _ _ _ => ?_) ?_ | with_reducible refine sound_foldl_snd (fun _ _ _ => ?_) ?_)
  all_goals first | with_reducible assumption | (simp +contextual (maxDischargeDepth := 20); done) | simp +contextual (maxDischargeDepth := 20) [*]

@[simp] theorem State.acknowledge_sound (s : State) (core : Nat) (a : Arrival) (hs : s.Sound) :
    (State.acknowledge s core a).Sound := by
  unfold State.acknowledge
  repeat' (first | dsimp only | split)
  all_goals simp [hs]

@[simp] theorem State.releaseFrame_sound (s : State) (core fid : Nat) (hs : s.Sound) :
    (State.releaseFrame s core fid).Sound := by
  unfold State.releaseFrame
  repeat' (first | dsimp only | with_reducible refine sound_foldl (fun _ _ _ => ?_) ?_ | with_reducible refine wf_foldl (fun _ _ _ => ?_) ?_ | with_reducible refine sound_foldl_snd (fun _ _ _ => ?_) ?_ | split)
  all_goals first | with_reducible assumption | (simp +contextual (maxDischargeDepth := 20) [hs]) | simp +contextual (maxDischargeDepth := 20) [*]

@[simp] theorem State.changeWord_sound (s : State) (core fid off : Nat) (f : Word → Word) (hs : s.Sound) :
    (State.changeWord s core fid off f).Sound := by
  unfold State.changeWord
  repeat' (first | dsimp only | with_reducible refine State.onCore_sound ?_ ?_ | split)
  all_goals simp +contextual (maxDischargeDepth := 20) [hs]

@[simp] theorem State.fireSlot_sound (s : State) (core fid slot : Nat) (f : Frame) (x : Slot) (hs : s.Sound) :
    (State.fireSlot s core fid slot f x).Sound := by
  unfold State.fireSlot
  repeat' (first | dsimp only | with_reducible refine State.onCore_sound ?_ ?_)
  all_goals simp +contextual (maxDischargeDepth := 20) [hs]

@[simp] theorem Core.putData_sound (c : Core) (f : Frame) (slot : Nat) (d : SigData) (hc : Memory.wf c.lmem = true) :
    Memory.wf (Core.putData c f slot d).lmem = true := by
  unfold Core.putData
  repeat' (first | dsimp only | split)
  all_goals simp [hc]

@[simp] theorem State.slotStep_sound (s : State) (core : Nat) (f : Frame) (a : Arrival) (hs : s.Sound) :
    (State.slotStep s core f a).Sound := by
  unfold State.slotStep
  repeat' (first | dsimp only | split)
  all_goals simp +contextual (maxDischargeDepth := 20) [hs]

@[simp] theorem State.applySignal_sound (s : State) (core : Nat) (f : Frame) (a : Arrival) (hs : s.Sound) :
    (State.applySignal s core f a).Sound := by
  unfold State.applySignal
  all_goals simp +contextual (maxDischargeDepth := 20) [hs]

@[simp] theorem State.report_sound (s : State) (core : Nat) (region fid slot : Nat) (hs : s.Sound) :
    (State.report s core region fid slot).Sound := by
  unfold State.report
  repeat' (first | dsimp only | with_reducible refine State.onCore_sound ?_ ?_ | split)
  all_goals simp +contextual (maxDischargeDepth := 20) [hs]

@[simp] theorem State.block_sound (s : State) (core region : Nat) (a : Arrival) (hs : s.Sound) :
    (State.block s core region a).Sound := by
  unfold State.block
  all_goals simp +contextual (maxDischargeDepth := 20) [hs]

@[simp] theorem State.arrive_sound (s : State) (core : Nat) (a : Arrival) (hs : s.Sound) :
    (State.arrive s core a).Sound := by
  unfold State.arrive
  repeat' (first | dsimp only | split)
  all_goals simp +contextual (maxDischargeDepth := 20) [hs]

@[simp] theorem State.sendSignal_sound (s : State) (core region : Nat) (ref : Word) (dec : Nat) (data : SigData) (rel err : Bool) (hs : s.Sound) :
    (State.sendSignal s core region ref dec data rel err).Sound := by
  unfold State.sendSignal
  all_goals simp [hs]

@[simp] theorem State.setRun_sound (s : State) (core : Nat) (r : Run) (hs : s.Sound) :
    (State.setRun s core r).Sound := by
  unfold State.setRun
  all_goals simp [hs]

@[simp] theorem State.next_sound (s : State) (n : Nat) (hs : s.Sound) :
    (State.next s n).Sound := by
  unfold State.next
  repeat' (first | dsimp only | split)
  all_goals simp [hs]

@[simp] theorem State.chargeRun_sound (s : State) (n : Nat) (c : Core) (hc : Memory.wf c.lmem = true) :
    Memory.wf (State.chargeRun s n c).lmem = true := by
  unfold State.chargeRun
  repeat' (first | dsimp only | split)
  all_goals simp [hc]

@[simp] theorem Core.endRun_sound (c : Core) (r : Run) (hc : Memory.wf c.lmem = true) :
    Memory.wf (Core.endRun c r).lmem = true := by
  unfold Core.endRun
  repeat' (first | dsimp only | split)
  all_goals simp [hc]

@[simp] theorem State.endRun_sound (s : State) (core : Nat) (r : Run) (hs : s.Sound) :
    (State.endRun s core r).Sound := by
  unfold State.endRun
  repeat' (first | dsimp only | with_reducible refine State.onCore_sound ?_ ?_)
  all_goals simp +contextual (maxDischargeDepth := 20) [hs]

@[simp] theorem Core.saveForms_sound (c : Core) (r : Run) (hc : Memory.wf c.lmem = true) :
    Memory.wf (Core.saveForms c r).1.lmem = true :=
  foldl_keeps (fun p : Core × SMap Word => Memory.wf p.1.lmem = true) _ (fun p i h => by dsimp only; split <;> exact h) _ _ hc

@[simp] theorem State.retire_sound (s : State) (core : Nat) (fid region : Nat) (tid : Option Nat) (hs : s.Sound) :
    (State.retire s core fid region tid).Sound := by
  unfold State.retire
  repeat' (first | dsimp only | split)
  all_goals simp +contextual (maxDischargeDepth := 20) [hs]

@[simp] theorem State.abortRun_sound (s : State) (core : Nat) (r : Run) (hs : s.Sound) :
    (State.abortRun s core r).Sound := by
  unfold State.abortRun
  all_goals simp +contextual (maxDischargeDepth := 20) [hs]

@[simp] theorem State.saveRun_sound (s : State) (core : Nat) (r : Run) (cause : Nat) (wait : Wait) (hold : Option Nat) (hs : s.Sound) :
    (State.saveRun s core r cause wait hold).Sound := by
  unfold State.saveRun
  repeat' (first | dsimp only | split)
  all_goals simp +contextual (maxDischargeDepth := 20) [hs]

@[simp] theorem State.takeFault_sound (s : State) (core : Nat) (r : Run) (o : Origin) (src code addr : Nat) (detail : Word) (hs : s.Sound) :
    (State.takeFault s core r o src code addr detail).Sound := by
  unfold State.takeFault
  repeat' (first | dsimp only | split)
  all_goals simp +contextual (maxDischargeDepth := 20) [hs]

@[simp] theorem State.park_sound (s : State) (core : Nat) (r : Run) (n cause : Nat) (wait : Wait) (hs : s.Sound) :
    (State.park s core r n cause wait).Sound := by
  unfold State.park
  repeat' (first | dsimp only | split)
  all_goals simp +contextual (maxDischargeDepth := 20) [hs]

@[simp] theorem State.abortParked_sound (s : State) (core fid : Nat) (hs : s.Sound) :
    (State.abortParked s core fid).Sound := by
  unfold State.abortParked
  repeat' (first | dsimp only | with_reducible refine State.onCore_sound ?_ ?_ | split)
  all_goals simp +contextual (maxDischargeDepth := 20) [hs]

theorem State.settle_sound (s : State) (r : Run) (n : Nat) (x : Except Stop State) (h : s.Sound) (hx : OkSound x) :
    (s.settle r n x).Sound := by
  unfold State.settle; split
  · exact hx _ rfl
  all_goals simp [h]

theorem State.running_sound {s : State} {f : Run → State} (h : ∀ r, (s.core s.cur).run = some r → (f r).Sound) :
    OutSound (s.running f) := by
  unfold State.running; split
  · simp
  · exact (OutSound.next _).2 (h _ ‹_›)

@[simp] theorem guarded_sound {g : Guard} {n : Nat} {f : Meaning} {s : State} (h : s.Sound)
    (hf : ∀ r, (s.core s.cur).run = some r → OkSound (f s r)) : OutSound (guarded g n f s) :=
  State.running_sound fun r hr => by
    split
    · exact State.settle_sound _ _ _ _ h (OkSound.map fun t e => State.next_sound _ _ (hf r hr t e))
    · exact State.next_sound _ _ h

@[simp] theorem guardedJump_sound {g : Guard} {f : Meaning} {s : State} (h : s.Sound)
    (hf : ∀ r, (s.core s.cur).run = some r → OkSound (f s r)) : OutSound (guardedJump g f s) :=
  State.running_sound fun r hr => by
    split
    · exact State.settle_sound _ _ _ _ h (hf r hr)
    · exact State.next_sound _ _ h

@[simp] theorem guardedN_sound {g : Guard} {n : Bool} {f nul : Meaning} {s : State} (h : s.Sound)
    (hf : ∀ r, (s.core s.cur).run = some r → OkSound (f s r)) (hn : ∀ r, (s.core s.cur).run = some r → OkSound (nul s r)) :
    OutSound (guardedN g n f nul s) :=
  State.running_sound fun r hr => by
    repeat' split
    · exact State.settle_sound _ _ _ _ h (OkSound.map fun t e => State.next_sound _ _ (hf r hr t e))
    · exact State.settle_sound _ _ _ _ h (OkSound.map fun t e => State.next_sound _ _ (hn r hr t e))
    · exact State.next_sound _ _ h

@[simp] theorem guardedAfter_sound {g : Guard} {c : State → Run → Except Stop Unit} {f : Meaning} {s : State} (h : s.Sound)
    (hf : ∀ r, (s.core s.cur).run = some r → OkSound (f s r)) : OutSound (guardedAfter g c f s) :=
  State.running_sound fun r hr => by
    repeat' split
    · exact State.settle_sound _ _ _ _ h (by simp)
    · exact State.settle_sound _ _ _ _ h (OkSound.map fun t e => State.next_sound _ _ (hf r hr t e))
    · exact State.next_sound _ _ h

@[simp] theorem State.codeLine_sound (s : State) (dst : Agent) (pa : Nat) (hs : s.Sound) :
    (State.codeLine s dst pa).2.Sound := by
  unfold State.codeLine
  repeat' (first | dsimp only | split)
  all_goals simp [hs]

@[simp] theorem State.cacheCode_sound (s : State) (core asid va : Nat) (hs : s.Sound) :
    (State.cacheCode s core asid va).Sound := by
  unfold State.cacheCode
  dsimp only
  repeat' split
  all_goals first
    | exact hs
    | exact State.touchWalk_sound _ _ _ (s.codeLine_sound _ _ hs)
    | exact s.codeLine_sound _ _ hs

@[simp] theorem State.readEntry_sound (s : State) (core asid va i : Nat) (hs : s.Sound) :
    (State.readEntry s core asid va i).Sound := by
  unfold State.readEntry
  dsimp only
  split
  · exact State.cacheCode_sound _ _ _ _ (sound_foldl (fun _ _ h => State.cacheCode_sound _ _ _ _ h) (by simp [hs]))
  · simp [hs]

@[simp] theorem State.fetchWord_sound (s : State) (core asid va : Nat) (hs : s.Sound) :
    (State.fetchWord s core asid va).2.Sound := by
  unfold State.fetchWord
  repeat' (first | dsimp only | split)
  all_goals simp [hs]

@[simp] theorem State.onRun_sound (s : State) (f : Run → Run) (hs : s.Sound) :
    (State.onRun s f).Sound := by
  unfold State.onRun
  all_goals simp [hs]

@[simp] theorem State.writeR_sound (s : State) (d : XReg) (v : RVal) (hs : s.Sound) :
    (State.writeR s d v).Sound := by
  unfold State.writeR
  all_goals simp [hs]

@[simp] theorem State.writeX_sound (s : State) (d : XReg) (v : Word) (hs : s.Sound) :
    (State.writeX s d v).Sound := by
  unfold State.writeX
  all_goals simp [hs]

@[simp] theorem State.raise_sound (s : State) (f : BitVec 8) (hs : s.Sound) :
    (State.raise s f).Sound := by
  unfold State.raise
  all_goals simp [hs]

@[simp] theorem State.writeV_sound (s : State) (d : VReg) (w : VWord) (hs : s.Sound) :
    (State.writeV s d w).Sound := by
  unfold State.writeV
  all_goals simp [hs]

@[simp] theorem State.writeM_sound (s : State) (d : MReg) (w : Word) (hs : s.Sound) :
    (State.writeM s d w).Sound := by
  unfold State.writeM
  repeat' (first | dsimp only | split)
  all_goals simp [hs]

@[simp] theorem State.writeP_sound (s : State) (k : PReg) (b : Bool) (hs : s.Sound) :
    (State.writeP s k b).Sound := by
  unfold State.writeP
  repeat' (first | dsimp only | split)
  all_goals simp [hs]

@[simp] theorem State.writeForm_sound (s : State) (r : Run) (d : XReg) (v : RVal) (hs : s.Sound) :
    OkSound (State.writeForm s r d v) := by
  unfold State.writeForm
  repeat' (first | dsimp only | split)
  all_goals simp [hs]

@[simp] theorem alu2_sound (op : Word → Word → Word) (d a b : XReg) (s : State) (r : Run) (hs : s.Sound) :
    OkSound (alu2 op d a b s r) := by
  unfold alu2
  repeat' (first | dsimp only | with_reducible refine OkSound.bind fun _ _ => ?_)
  all_goals simp [hs]

@[simp] theorem alu1_sound (op : Word → Word) (d a : XReg) (s : State) (r : Run) (hs : s.Sound) :
    OkSound (alu1 op d a s r) := by
  unfold alu1
  repeat' (first | dsimp only | with_reducible refine OkSound.bind fun _ _ => ?_)
  all_goals simp [hs]

@[simp] theorem aluFold_sound (fold : RVal → RVal → Option RVal) (d a b : XReg) (s : State) (r : Run) (hs : s.Sound) :
    OkSound (aluFold fold d a b s r) := by
  unfold aluFold
  repeat' (first | dsimp only | with_reducible refine OkSound.bind fun _ _ => ?_)
  all_goals simp [hs]

@[simp] theorem execAdd_sound (g : Guard) (d a b : XReg) (s : State) (hs : s.Sound) :
    OutSound (execAdd g d a b s) := by
  unfold execAdd
  refine guarded_sound hs fun r hr => ?_
  all_goals simp [hs]

@[simp] theorem execSub_sound (g : Guard) (d a b : XReg) (s : State) (hs : s.Sound) :
    OutSound (execSub g d a b s) := by
  unfold execSub
  refine guarded_sound hs fun r hr => ?_
  all_goals simp [hs]

@[simp] theorem execAnd_sound (g : Guard) (d a b : XReg) (s : State) (hs : s.Sound) :
    OutSound (execAnd g d a b s) := by
  unfold execAnd
  refine guarded_sound hs fun r hr => ?_
  all_goals simp [hs]

@[simp] theorem execOr_sound (g : Guard) (d a b : XReg) (s : State) (hs : s.Sound) :
    OutSound (execOr g d a b s) := by
  unfold execOr
  refine guarded_sound hs fun r hr => ?_
  all_goals simp [hs]

@[simp] theorem execXor_sound (g : Guard) (d a b : XReg) (s : State) (hs : s.Sound) :
    OutSound (execXor g d a b s) := by
  unfold execXor
  refine guarded_sound hs fun r hr => ?_
  all_goals simp [hs]

@[simp] theorem shiftLeft_sound (d a : XReg) (amount : RVal) (s : State) (r : Run) (hs : s.Sound) :
    OkSound (shiftLeft d a amount s r) := by
  unfold shiftLeft
  repeat' (first | dsimp only | with_reducible refine OkSound.bind fun _ _ => ?_ | split)
  all_goals simp [hs]

@[simp] theorem execShl_sound (g : Guard) (d a b : XReg) (s : State) (hs : s.Sound) :
    OutSound (execShl g d a b s) := by
  unfold execShl
  refine guarded_sound hs fun r hr => ?_
  all_goals simp [hs]

@[simp] theorem execShr_sound (g : Guard) (d a b : XReg) (s : State) (hs : s.Sound) :
    OutSound (execShr g d a b s) := by
  unfold execShr
  refine guarded_sound hs fun r hr => ?_
  all_goals simp [hs]

@[simp] theorem execSar_sound (g : Guard) (d a b : XReg) (s : State) (hs : s.Sound) :
    OutSound (execSar g d a b s) := by
  unfold execSar
  refine guarded_sound hs fun r hr => ?_
  all_goals simp [hs]

@[simp] theorem execMin_sound (g : Guard) (d a b : XReg) (s : State) (hs : s.Sound) :
    OutSound (execMin g d a b s) := by
  unfold execMin
  refine guarded_sound hs fun r hr => ?_
  all_goals simp [hs]

@[simp] theorem execMax_sound (g : Guard) (d a b : XReg) (s : State) (hs : s.Sound) :
    OutSound (execMax g d a b s) := by
  unfold execMax
  refine guarded_sound hs fun r hr => ?_
  all_goals simp [hs]

@[simp] theorem execMinu_sound (g : Guard) (d a b : XReg) (s : State) (hs : s.Sound) :
    OutSound (execMinu g d a b s) := by
  unfold execMinu
  refine guarded_sound hs fun r hr => ?_
  all_goals simp [hs]

@[simp] theorem execMaxu_sound (g : Guard) (d a b : XReg) (s : State) (hs : s.Sound) :
    OutSound (execMaxu g d a b s) := by
  unfold execMaxu
  refine guarded_sound hs fun r hr => ?_
  all_goals simp [hs]

@[simp] theorem execMul_sound (g : Guard) (d a b : XReg) (s : State) (hs : s.Sound) :
    OutSound (execMul g d a b s) := by
  unfold execMul
  refine guarded_sound hs fun r hr => ?_
  all_goals simp [hs]

@[simp] theorem execMulh_sound (g : Guard) (d a b : XReg) (s : State) (hs : s.Sound) :
    OutSound (execMulh g d a b s) := by
  unfold execMulh
  refine guarded_sound hs fun r hr => ?_
  all_goals simp [hs]

@[simp] theorem execMulhu_sound (g : Guard) (d a b : XReg) (s : State) (hs : s.Sound) :
    OutSound (execMulhu g d a b s) := by
  unfold execMulhu
  refine guarded_sound hs fun r hr => ?_
  all_goals simp [hs]

@[simp] theorem execDiv_sound (g : Guard) (d a b : XReg) (s : State) (hs : s.Sound) :
    OutSound (execDiv g d a b s) := by
  unfold execDiv
  refine guarded_sound hs fun r hr => ?_
  all_goals simp [hs]

@[simp] theorem execDivu_sound (g : Guard) (d a b : XReg) (s : State) (hs : s.Sound) :
    OutSound (execDivu g d a b s) := by
  unfold execDivu
  refine guarded_sound hs fun r hr => ?_
  all_goals simp [hs]

@[simp] theorem execRem_sound (g : Guard) (d a b : XReg) (s : State) (hs : s.Sound) :
    OutSound (execRem g d a b s) := by
  unfold execRem
  refine guarded_sound hs fun r hr => ?_
  all_goals simp [hs]

@[simp] theorem execRemu_sound (g : Guard) (d a b : XReg) (s : State) (hs : s.Sound) :
    OutSound (execRemu g d a b s) := by
  unfold execRemu
  refine guarded_sound hs fun r hr => ?_
  all_goals simp [hs]

@[simp] theorem execClz_sound (g : Guard) (d a : XReg) (s : State) (hs : s.Sound) :
    OutSound (execClz g d a s) := by
  unfold execClz
  refine guarded_sound hs fun r hr => ?_
  all_goals simp [hs]

@[simp] theorem execCtz_sound (g : Guard) (d a : XReg) (s : State) (hs : s.Sound) :
    OutSound (execCtz g d a s) := by
  unfold execCtz
  refine guarded_sound hs fun r hr => ?_
  all_goals simp [hs]

@[simp] theorem execPopc_sound (g : Guard) (d a : XReg) (s : State) (hs : s.Sound) :
    OutSound (execPopc g d a s) := by
  unfold execPopc
  refine guarded_sound hs fun r hr => ?_
  all_goals simp [hs]

@[simp] theorem execAddi_sound (g : Guard) (d a : XReg) (imm : BitVec 11) (s : State) (hs : s.Sound) :
    OutSound (execAddi g d a imm s) := by
  unfold execAddi
  refine guarded_sound hs fun r hr => ?_
  all_goals repeat' (first | dsimp only | with_reducible refine OkSound.bind fun _ _ => ?_)
  all_goals simp [hs]

@[simp] theorem execAndi_sound (g : Guard) (d a : XReg) (imm : BitVec 11) (s : State) (hs : s.Sound) :
    OutSound (execAndi g d a imm s) := by
  unfold execAndi
  refine guarded_sound hs fun r hr => ?_
  all_goals simp [hs]

@[simp] theorem execOri_sound (g : Guard) (d a : XReg) (imm : BitVec 11) (s : State) (hs : s.Sound) :
    OutSound (execOri g d a imm s) := by
  unfold execOri
  refine guarded_sound hs fun r hr => ?_
  all_goals simp [hs]

@[simp] theorem execXori_sound (g : Guard) (d a : XReg) (imm : BitVec 11) (s : State) (hs : s.Sound) :
    OutSound (execXori g d a imm s) := by
  unfold execXori
  refine guarded_sound hs fun r hr => ?_
  all_goals simp [hs]

@[simp] theorem execShli_sound (g : Guard) (d a : XReg) (sh : BitVec 6) (s : State) (hs : s.Sound) :
    OutSound (execShli g d a sh s) := by
  unfold execShli
  refine guarded_sound hs fun r hr => ?_
  all_goals simp [hs]

@[simp] theorem execShri_sound (g : Guard) (d a : XReg) (sh : BitVec 6) (s : State) (hs : s.Sound) :
    OutSound (execShri g d a sh s) := by
  unfold execShri
  refine guarded_sound hs fun r hr => ?_
  all_goals simp [hs]

@[simp] theorem execSari_sound (g : Guard) (d a : XReg) (sh : BitVec 6) (s : State) (hs : s.Sound) :
    OutSound (execSari g d a sh s) := by
  unfold execSari
  refine guarded_sound hs fun r hr => ?_
  all_goals simp [hs]

@[simp] theorem execLimm_sound (g : Guard) (d : XReg) (imm : BitVec 32) (s : State) (hs : s.Sound) :
    OutSound (execLimm g d imm s) := by
  unfold execLimm
  refine guarded_sound hs fun r hr => ?_
  all_goals simp [hs]

@[simp] theorem execLui_sound (g : Guard) (d : XReg) (imm : BitVec 32) (s : State) (hs : s.Sound) :
    OutSound (execLui g d imm s) := by
  unfold execLui
  refine guarded_sound hs fun r hr => ?_
  all_goals simp [hs]

@[simp] theorem execBfx_sound (g : Guard) (d a : XReg) (pos : BitVec 6) (len : BitVec 7) (s : State) (hs : s.Sound) :
    OutSound (execBfx g d a pos len s) := by
  unfold execBfx
  refine guarded_sound hs fun r hr => ?_
  all_goals simp [hs]

@[simp] theorem execBfi_sound (g : Guard) (d a : XReg) (pos : BitVec 6) (len : BitVec 7) (s : State) (hs : s.Sound) :
    OutSound (execBfi g d a pos len s) := by
  unfold execBfi
  refine guarded_sound hs fun r hr => ?_
  all_goals simp [hs]

@[simp] theorem execSel_sound (g : Guard) (d a b : XReg) (k : PReg) (s : State) (hs : s.Sound) :
    OutSound (execSel g d a b k s) := by
  unfold execSel
  refine guarded_sound hs fun r hr => ?_
  all_goals repeat' (first | dsimp only | split)
  all_goals simp [hs]

@[simp] theorem execSetp_sound (g : Guard) (cond : Cond) (pd : PReg) (a b : XReg) (s : State) (hs : s.Sound) :
    OutSound (execSetp g cond pd a b s) := by
  unfold execSetp
  refine guarded_sound hs fun r hr => ?_
  all_goals repeat' (first | dsimp only | with_reducible refine OkSound.bind fun _ _ => ?_)
  all_goals simp [hs]

@[simp] theorem setImm_sound (cond : Cond) (pd : PReg) (a : XReg) (imm : BitVec 11) (s : State) (r : Run) (hs : s.Sound) :
    OkSound (setImm cond pd a imm s r) := by
  unfold setImm
  repeat' (first | dsimp only | with_reducible refine OkSound.bind fun _ _ => ?_)
  all_goals simp [hs]

@[simp] theorem execSetpiA_sound (g : Guard) (cond : CondA) (pd : PReg) (a : XReg) (imm : BitVec 11) (s : State) (hs : s.Sound) :
    OutSound (execSetpiA g cond pd a imm s) := by
  unfold execSetpiA
  refine guarded_sound hs fun r hr => ?_
  all_goals simp [hs]

@[simp] theorem execSetpiB_sound (g : Guard) (cond : CondB) (pd : PReg) (a : XReg) (imm : BitVec 11) (s : State) (hs : s.Sound) :
    OutSound (execSetpiB g cond pd a imm s) := by
  unfold execSetpiB
  refine guarded_sound hs fun r hr => ?_
  all_goals simp [hs]

@[simp] theorem execFsetp_sound (g : Guard) (prec : Prec) (cond : FCond) (pd : PReg) (a b : XReg) (s : State) (hs : s.Sound) :
    OutSound (execFsetp g prec cond pd a b s) := by
  unfold execFsetp
  refine guarded_sound hs fun r hr => ?_
  all_goals repeat' (first | dsimp only | with_reducible refine OkSound.bind fun _ _ => ?_)
  all_goals simp [hs]

@[simp] theorem execPlog_sound (g : Guard) (op : PlogOp) (pd pa pb : PReg) (s : State) (hs : s.Sound) :
    OutSound (execPlog g op pd pa pb s) := by
  unfold execPlog
  refine guarded_sound hs fun r hr => ?_
  all_goals simp [hs]

@[simp] theorem State.writeFp_sound (s : State) (d : XReg) (p : Prec) (res : Nat × BitVec 8) (hs : s.Sound) :
    (State.writeFp s d p res).Sound := by
  unfold State.writeFp
  all_goals simp [hs]

@[simp] theorem fp2_sound (op : ChainOp) (f : Fmt → RMode → Bool → Nat → Nat → Nat × BitVec 8) (prec : Prec) (sat : Bool) (rnd : Rnd) (d a b : XReg) (s : State) (r : Run) (hs : s.Sound) :
    OkSound (fp2 op f prec sat rnd d a b s r) := by
  unfold fp2
  repeat' (first | dsimp only | with_reducible refine OkSound.bind' fun _ _ => ?_ | split)
  all_goals simp [hs]

@[simp] theorem execFadd_sound (g : Guard) (prec : Prec) (sat : Bool) (rnd : Rnd) (d a b : XReg) (s : State) (hs : s.Sound) :
    OutSound (execFadd g prec sat rnd d a b s) := by
  unfold execFadd
  refine guarded_sound hs fun r hr => ?_
  all_goals simp [hs]

@[simp] theorem execFsub_sound (g : Guard) (prec : Prec) (sat : Bool) (rnd : Rnd) (d a b : XReg) (s : State) (hs : s.Sound) :
    OutSound (execFsub g prec sat rnd d a b s) := by
  unfold execFsub
  refine guarded_sound hs fun r hr => ?_
  all_goals simp [hs]

@[simp] theorem execFmul_sound (g : Guard) (prec : Prec) (sat : Bool) (rnd : Rnd) (d a b : XReg) (s : State) (hs : s.Sound) :
    OutSound (execFmul g prec sat rnd d a b s) := by
  unfold execFmul
  refine guarded_sound hs fun r hr => ?_
  all_goals simp [hs]

@[simp] theorem execFfma_sound (g : Guard) (prec : Prec) (sat : Bool) (rnd : Rnd) (d a b : XReg) (s : State) (hs : s.Sound) :
    OutSound (execFfma g prec sat rnd d a b s) := by
  unfold execFfma
  refine guarded_sound hs fun r hr => ?_
  all_goals repeat' (first | dsimp only | with_reducible refine OkSound.bind' fun _ _ => ?_ | split)
  all_goals simp [hs]

@[simp] theorem execFdiv_sound (g : Guard) (prec : Prec) (sat : Bool) (rnd : Rnd) (d a b : XReg) (s : State) (hs : s.Sound) :
    OutSound (execFdiv g prec sat rnd d a b s) := by
  unfold execFdiv
  refine guarded_sound hs fun r hr => ?_
  all_goals repeat' (first | dsimp only | with_reducible refine OkSound.bind fun _ _ => ?_)
  all_goals simp [hs]

@[simp] theorem execFsqrt_sound (g : Guard) (prec : Prec) (sat : Bool) (rnd : Rnd) (d a : XReg) (s : State) (hs : s.Sound) :
    OutSound (execFsqrt g prec sat rnd d a s) := by
  unfold execFsqrt
  refine guarded_sound hs fun r hr => ?_
  all_goals repeat' (first | dsimp only | with_reducible refine OkSound.bind fun _ _ => ?_)
  all_goals simp [hs]

@[simp] theorem fpPick_sound (isMax : Bool) (prec : Prec) (d a b : XReg) (s : State) (r : Run) (hs : s.Sound) :
    OkSound (fpPick isMax prec d a b s r) := by
  unfold fpPick
  repeat' (first | dsimp only | with_reducible refine OkSound.bind fun _ _ => ?_)
  all_goals simp [hs]

@[simp] theorem execFmin_sound (g : Guard) (prec : Prec) (d a b : XReg) (s : State) (hs : s.Sound) :
    OutSound (execFmin g prec d a b s) := by
  unfold execFmin
  refine guarded_sound hs fun r hr => ?_
  all_goals simp [hs]

@[simp] theorem execFmax_sound (g : Guard) (prec : Prec) (d a b : XReg) (s : State) (hs : s.Sound) :
    OutSound (execFmax g prec d a b s) := by
  unfold execFmax
  refine guarded_sound hs fun r hr => ?_
  all_goals simp [hs]

@[simp] theorem execFclass_sound (g : Guard) (prec : Prec) (d a : XReg) (s : State) (hs : s.Sound) :
    OutSound (execFclass g prec d a s) := by
  unfold execFclass
  refine guarded_sound hs fun r hr => ?_
  all_goals repeat' (first | dsimp only | with_reducible refine OkSound.bind fun _ _ => ?_)
  all_goals simp [hs]

@[simp] theorem execFcvt_sound (g : Guard) (cv : Cvt) (sat : Bool) (rnd : Rnd) (d a : XReg) (s : State) (hs : s.Sound) :
    OutSound (execFcvt g cv sat rnd d a s) := by
  unfold execFcvt
  refine guarded_sound hs fun r hr => ?_
  all_goals repeat' (first | dsimp only | with_reducible refine OkSound.bind fun _ _ => ?_)
  all_goals simp [hs]

end Sys2Proof.Machine
end

