-- ==== Sys2Proof/Laws/SoundIssue.lean ====
section
/-! SUPPORT. The memories stay canonical: the instructions of control flow, slots, memory, ordering, engines, vectors
and the system. -/

namespace Sys2Proof.Machine

open Sys2Proof

@[simp] theorem State.flushCombiner_sound (s : State) (core : Nat) (hs : s.Sound) :
    (State.flushCombiner s core).Sound := by
  unfold State.flushCombiner
  repeat' (first | dsimp only | with_reducible refine sound_foldl (fun _ _ _ => ?_) ?_ | with_reducible refine wf_foldl (fun _ _ _ => ?_) ?_ | with_reducible refine sound_foldl_snd (fun _ _ _ => ?_) ?_)
  all_goals first | with_reducible assumption | (simp +contextual (maxDischargeDepth := 20) [hs]) | simp +contextual (maxDischargeDepth := 20) [*]

@[simp] theorem State.addBarrier_sound (s : State) (core : Nat) (b : Barrier) (hs : s.Sound) :
    (State.addBarrier s core b).Sound := by
  unfold State.addBarrier
  repeat' (first | dsimp only | with_reducible refine State.onCore_sound ?_ ?_ | split)
  all_goals simp +contextual (maxDischargeDepth := 20) [hs]

@[simp] theorem State.setAffCache_sound (s : State) (a : Agent) (l : List (Nat × Nat)) (hs : s.Sound) :
    (State.setAffCache s a l).Sound := by
  unfold State.setAffCache
  repeat' (first | dsimp only | split)
  all_goals simp [hs]

@[simp] theorem State.affEntry_sound (s : State) (a : Agent) (g : Region) (region i : Nat) (hs : s.Sound) :
    (State.affEntry s a g region i).2.Sound := by
  unfold State.affEntry
  repeat' (first | dsimp only | split)
  all_goals simp +contextual (maxDischargeDepth := 20) [hs]

@[simp] theorem State.ownerOf_sound (s : State) (a : Agent) (region : Nat) (addr : Word) (hs : s.Sound) :
    (State.ownerOf s a region addr).2.Sound := by
  unfold State.ownerOf
  repeat' (first | dsimp only | split)
  all_goals simp [hs]

@[simp] theorem State.routeFault_sound (s : State) (core : Nat) (o : Origin) (deferred : Bool) (addr : Nat) (hs : s.Sound) :
    (State.routeFault s core o deferred addr).Sound := by
  unfold State.routeFault
  repeat' (first | dsimp only | split)
  all_goals simp [hs]

@[simp] theorem State.launchSignal_sound (s : State) (core : Nat) (o : Op) (ref : Word) (dec : Nat) (data : SigData) (rel err : Bool) (hs : s.Sound) :
    (State.launchSignal s core o ref dec data rel err).Sound := by
  unfold State.launchSignal
  repeat' (first | dsimp only | split)
  all_goals simp [hs]

@[simp] theorem State.sendCompletion_sound (s : State) (core : Nat) (o : Origin) (ref : Word) (dec : Nat) (err : Bool) (hs : s.Sound) :
    (State.sendCompletion s core o ref dec err).Sound := by
  unfold State.sendCompletion
  repeat' (first | dsimp only | split)
  all_goals simp [hs]

@[simp] theorem State.launch_sound (s : State) (core : Nat) (o : Op) (hs : s.Sound) :
    (State.launch s core o).Sound := by
  unfold State.launch
  repeat' (first | dsimp only | with_reducible refine State.onCore_sound ?_ ?_ | split)
  all_goals (first | with_reducible assumption | (simp +contextual (maxDischargeDepth := 20) [hs]; done)
                   | (rename _ = (_, _) => e; have hz := sound_of_pair e (by simp +contextual (maxDischargeDepth := 20) [hs]); simp +contextual (maxDischargeDepth := 20) [hz]))

@[simp] theorem State.drainStage_sound (s : State) (core : Nat) (hs : s.Sound) :
    (State.drainStage s core).Sound := by
  unfold State.drainStage
  repeat' (first | dsimp only | with_reducible refine sound_foldl (fun _ _ _ => ?_) ?_ | with_reducible refine wf_foldl (fun _ _ _ => ?_) ?_ | with_reducible refine sound_foldl_snd (fun _ _ _ => ?_) ?_)
  all_goals first | with_reducible assumption | (simp +contextual (maxDischargeDepth := 20) [hs]) | simp +contextual (maxDischargeDepth := 20) [*]

@[simp] theorem State.submit_sound (s : State) (core : Nat) (o : Op) (hs : s.Sound) :
    (State.submit s core o).Sound := by
  unfold State.submit
  repeat' (first | dsimp only | split)
  all_goals simp [hs]

@[simp] theorem State.newSeq_sound (s : State) (core : Nat) (hs : s.Sound) :
    (State.newSeq s core).2.Sound := by
  unfold State.newSeq
  repeat' dsimp only
  all_goals simp [hs]

@[simp] theorem State.enter_sound (s : State) (r : Run) (body : OpBody) (hs : s.Sound) :
    (State.enter s r body).Sound := by
  unfold State.enter
  repeat' dsimp only
  all_goals simp [hs]

@[simp] theorem State.issueOp_sound (s : State) (r : Run) (body : OpBody) (hs : s.Sound) :
    OkSound (State.issueOp s r body) := by
  unfold State.issueOp
  repeat' (first | dsimp only | with_reducible refine OkSound.bind fun _ _ => ?_)
  all_goals simp [hs]

@[simp] theorem State.release_sound (s : State) (core : Nat) (o : Op) (hs : s.Sound) :
    (State.release s core o).Sound := by
  unfold State.release
  repeat' (first | dsimp only | split)
  all_goals simp [hs]

@[simp] theorem State.enterRelease_sound (s : State) (r : Run) (body : OpBody) (hs : s.Sound) :
    (State.enterRelease s r body).Sound := by
  unfold State.enterRelease
  repeat' dsimp only
  all_goals simp [hs]

@[simp] theorem State.issueRelease_sound (s : State) (r : Run) (body : OpBody) (hs : s.Sound) :
    OkSound (State.issueRelease s r body) := by
  unfold State.issueRelease
  repeat' (first | dsimp only | with_reducible refine OkSound.bind fun _ _ => ?_)
  all_goals simp [hs]

@[simp] theorem State.issueFence_sound (s : State) (r : Run) (kind : BarrierKind) (cmds : List Nat) (hs : s.Sound) :
    (State.issueFence s r kind cmds).Sound := by
  unfold State.issueFence
  repeat' (first | dsimp only | split)
  all_goals simp [hs]

@[simp] theorem State.defer_sound (s : State) (r : Run) (e : Effect) (ops ints : List RVal) (hs : s.Sound) :
    OkSound (State.defer s r e ops ints) := by
  unfold State.defer
  repeat' (first | dsimp only | with_reducible refine OkSound.bind fun _ _ => ?_ | split)
  all_goals simp [hs]

@[simp] theorem State.submitPairs_sound (s : State) (core : Nat) (org : Origin) (at_ : Option Nat) (bid : Nat) (ps : List (Word × Word)) (hs : s.Sound) :
    (State.submitPairs s core org at_ bid ps).Sound := by
  unfold State.submitPairs
  repeat' (first | dsimp only | with_reducible refine sound_foldl (fun _ _ _ => ?_) ?_ | with_reducible refine wf_foldl (fun _ _ _ => ?_) ?_ | with_reducible refine sound_foldl_snd (fun _ _ _ => ?_) ?_ | split)
  all_goals first | with_reducible assumption | (simp +contextual (maxDischargeDepth := 20) [hs]) | simp +contextual (maxDischargeDepth := 20) [*]

@[simp] theorem guardedEntry_sound {g : Guard} {reads : Run → Option (Nat × Nat)} {f : State → Run → Except Stop Run}
    {s : State} (h : s.Sound) : OutSound (guardedEntry g reads f s) :=
  State.running_sound fun r _ => by
    split
    · have ht : State.Sound (match reads r with
          | some b => s.readEntry s.cur (s.asid r.region) b.1 b.2
          | none => s) := by split <;> simp [h]
      exact State.settle_sound _ _ _ _ ht (OkSound.map fun _ _ => State.setRun_sound _ _ _ ht)
    · exact State.next_sound _ _ h

@[simp] theorem execB_sound (g : Guard) (off : BitVec 21) (s : State) (hs : s.Sound) :
    OutSound (execB g off s) := guardedEntry_sound hs

@[simp] theorem execCall_sound (g : Guard) (off : BitVec 21) (s : State) (hs : s.Sound) :
    OutSound (execCall g off s) := guardedEntry_sound hs

@[simp] theorem execJr_sound (g : Guard) (a : XReg) (s : State) (hs : s.Sound) :
    OutSound (execJr g a s) := guardedEntry_sound hs

@[simp] theorem execRet_sound (g : Guard) (s : State) (hs : s.Sound) :
    OutSound (execRet g s) := guardedEntry_sound hs

@[simp] theorem execRep_sound (g : Guard) (a : XReg) (n : BitVec 7) (s : State) (hs : s.Sound) : OutSound (execRep g a n s) := by
  unfold execRep
  refine State.running_sound fun r hr => ?_
  split
  · exact State.settle_sound _ _ _ _ hs (by simp)
  · split
    · refine State.settle_sound _ _ _ _ hs ?_
      repeat' (first | dsimp only | with_reducible refine OkSound.bind fun _ _ => ?_ | split)
      all_goals simp [hs]
    · exact State.next_sound _ _ hs

@[simp] theorem execFin_sound (g : Guard) (s : State) (hs : s.Sound) :
    OutSound (execFin g s) := by
  unfold execFin
  refine guardedJump_sound hs fun r hr => ?_
  all_goals simp +contextual (maxDischargeDepth := 20) [hs]

@[simp] theorem execPark_sound (g : Guard) (a : XReg) (s : State) (hs : s.Sound) :
    OutSound (execPark g a s) := by
  unfold execPark
  refine guardedJump_sound hs fun r hr => ?_
  all_goals repeat' (first | dsimp only | with_reducible refine OkSound.bind fun _ _ => ?_ | split)
  all_goals simp [hs]

@[simp] theorem execNop_sound (g : Guard) (s : State) (hs : s.Sound) :
    OutSound (execNop g s) := by
  unfold execNop
  refine guarded_sound hs fun r hr => ?_
  all_goals simp [hs]

@[simp] theorem execBrk_sound (g : Guard) (code : BitVec 15) (s : State) (hs : s.Sound) :
    OutSound (execBrk g code s) := by
  unfold execBrk
  refine guarded_sound hs fun r hr => ?_
  all_goals repeat' (first | dsimp only | split)
  all_goals simp [hs]

@[simp] theorem execTrap_sound (g : Guard) (code : BitVec 15) (s : State) (hs : s.Sound) :
    OutSound (execTrap g code s) := by
  unfold execTrap
  refine guarded_sound hs fun r hr => ?_
  all_goals simp

@[simp] theorem execSvc_sound (g : Guard) (code : BitVec 15) (s : State) (hs : s.Sound) :
    OutSound (execSvc g code s) := by
  unfold execSvc
  refine guarded_sound hs fun r hr => ?_
  all_goals simp

@[simp] theorem execFalloc_sound (g : Guard) (d : XReg) (cls : BitVec 3) (s : State) (hs : s.Sound) :
    OutSound (execFalloc g d cls s) := by
  unfold execFalloc
  refine guarded_sound hs fun r hr => ?_
  all_goals repeat' (first | dsimp only | split)
  all_goals (first | with_reducible assumption | (simp +contextual (maxDischargeDepth := 20); done)
                   | (rename _ = some (_, _) => e; have hz := sound_of_somePair e (by simp +contextual (maxDischargeDepth := 20) [hs]); simp +contextual (maxDischargeDepth := 20) [hz]))

@[simp] theorem execFfree_sound (g : Guard) (a : XReg) (s : State) (hs : s.Sound) :
    OutSound (execFfree g a s) := by
  unfold execFfree
  refine guarded_sound hs fun r hr => ?_
  all_goals repeat' (first | dsimp only | with_reducible refine OkSound.bind fun _ _ => ?_ | split)
  all_goals simp [hs]

@[simp] theorem execSloti_sound (g : Guard) (a b : XReg) (s : State) (hs : s.Sound) :
    OutSound (execSloti g a b s) := by
  unfold execSloti
  refine guarded_sound hs fun r hr => ?_
  all_goals repeat' (first | dsimp only | with_reducible refine OkSound.bind fun _ _ => ?_ | with_reducible refine State.onCore_sound ?_ ?_ | split)
  all_goals simp +contextual (maxDischargeDepth := 20) [hs]

@[simp] theorem execSlotr_sound (g : Guard) (d a : XReg) (s : State) (hs : s.Sound) :
    OutSound (execSlotr g d a s) := by
  unfold execSlotr
  refine guarded_sound hs fun r hr => ?_
  all_goals repeat' (first | dsimp only | with_reducible refine OkSound.bind fun _ _ => ?_ | split)
  all_goals simp [hs]

@[simp] theorem State.issueSignal_sound (s : State) (r : Run) (ref : Word) (dec : Nat) (data : SigData) (rel : Bool) (hs : s.Sound) :
    OkSound (State.issueSignal s r ref dec data rel) := by
  unfold State.issueSignal
  repeat' (first | dsimp only | with_reducible refine OkSound.bind fun _ _ => ?_ | split)
  all_goals simp [hs]

@[simp] theorem State.deferSignal_sound (s : State) (r : Run) (rel : Bool) (e : Effect) (ref : RVal) (ops : List RVal) (hs : s.Sound) :
    OkSound (State.deferSignal s r rel e ref ops) := by
  unfold State.deferSignal
  repeat' (first | dsimp only | with_reducible refine OkSound.bind fun _ _ => ?_ | split)
  all_goals simp [hs]

@[simp] theorem nullSignal_sound (a : XReg) (rel : Bool) (dec : Nat) (s : State) (r : Run) (hs : s.Sound) :
    OkSound (nullSignal a rel dec s r) := by
  unfold nullSignal
  repeat' (first | dsimp only | split)
  all_goals simp [hs]

@[simp] theorem execSig_sound (g : Guard) (rel n : Bool) (a : XReg) (s : State) (hs : s.Sound) :
    OutSound (execSig g rel n a s) := by
  unfold execSig
  refine guardedN_sound hs (fun r hr => ?_) (fun r hr => ?_)
  all_goals repeat' (first | dsimp only | split)
  all_goals simp [hs]

@[simp] theorem execSigd_sound (g : Guard) (rel n : Bool) (a b : XReg) (dw : BitVec 5) (s : State) (hs : s.Sound) :
    OutSound (execSigd g rel n a b dw s) := by
  unfold execSigd
  refine guardedN_sound hs (fun r hr => ?_) (fun r hr => ?_)
  all_goals repeat' (first | dsimp only | split)
  all_goals simp [hs]

@[simp] theorem execSigv_sound (g : Guard) (rel n : Bool) (a : XReg) (vb : VReg) (dw : BitVec 5) (s : State) (hs : s.Sound) :
    OutSound (execSigv g rel n a vb dw s) := by
  unfold execSigv
  refine guardedN_sound hs (fun r hr => ?_) (fun r hr => ?_)
  all_goals repeat' (first | dsimp only | with_reducible refine OkSound.bind fun _ _ => ?_)
  all_goals simp [hs]

@[simp] theorem execSref_sound (g : Guard) (d a : XReg) (imm : BitVec 11) (s : State) (hs : s.Sound) :
    OutSound (execSref g d a imm s) := by
  unfold execSref
  refine guarded_sound hs fun r hr => ?_
  all_goals repeat' (first | dsimp only | with_reducible refine OkSound.bind fun _ _ => ?_ | split)
  all_goals simp [hs]

@[simp] theorem execAmsg_sound (g : Guard) (xg : XReg) (s : State) (hs : s.Sound) :
    OutSound (execAmsg g xg s) := by
  unfold execAmsg
  refine guarded_sound hs fun r hr => ?_
  all_goals repeat' (first | dsimp only | with_reducible refine OkSound.bind fun _ _ => ?_)
  all_goals simp [hs]

@[simp] theorem execArm_sound (g : Guard) (xg : XReg) (s : State) (hs : s.Sound) :
    OutSound (execArm g xg s) := by
  unfold execArm
  refine guarded_sound hs fun r hr => ?_
  all_goals repeat' (first | dsimp only | with_reducible refine OkSound.bind fun _ _ => ?_)
  all_goals simp [hs]

@[simp] theorem State.localWrite_sound (s : State) (a : Nat) (bs : List Byte) (hs : s.Sound) :
    (State.localWrite s a bs).Sound := by
  unfold State.localWrite
  repeat' (first | dsimp only | with_reducible refine State.onCore_sound ?_ ?_)
  all_goals simp +contextual (maxDischargeDepth := 20) [hs]

@[simp] theorem execLd_sound (g : Guard) (sz : Size) (u : Bool) (d a : XReg) (off : BitVec 8) (s : State) (hs : s.Sound) :
    OutSound (execLd g sz u d a off s) := by
  unfold execLd
  refine guarded_sound hs fun r hr => ?_
  all_goals repeat' (first | dsimp only | with_reducible refine OkSound.bind fun _ _ => ?_)
  all_goals simp [hs]

@[simp] theorem execSt_sound (g : Guard) (sz : Size) (c a : XReg) (off : BitVec 8) (s : State) (hs : s.Sound) :
    OutSound (execSt g sz c a off s) := by
  unfold execSt
  refine guarded_sound hs fun r hr => ?_
  all_goals repeat' (first | dsimp only | with_reducible refine OkSound.bind fun _ _ => ?_)
  all_goals simp [hs]

@[simp] theorem execStz_sound (g : Guard) (vc : VReg) (a b : XReg) (s : State) (hs : s.Sound) :
    OutSound (execStz g vc a b s) := by
  unfold execStz
  refine guarded_sound hs fun r hr => ?_
  all_goals repeat' (first | dsimp only | with_reducible refine OkSound.bind fun _ _ => ?_ | split)
  all_goals simp [hs]

@[simp] theorem execLdz_sound (g : Guard) (vd : VReg) (a b : XReg) (s : State) (hs : s.Sound) :
    OutSound (execLdz g vd a b s) := by
  unfold execLdz
  refine guarded_sound hs fun r hr => ?_
  all_goals repeat' (first | dsimp only | with_reducible refine OkSound.bind fun _ _ => ?_ | split)
  all_goals simp [hs]

@[simp] theorem execVld_sound (g : Guard) (vd : VReg) (a : XReg) (imm : BitVec 11) (s : State) (hs : s.Sound) :
    OutSound (execVld g vd a imm s) := by
  unfold execVld
  refine guarded_sound hs fun r hr => ?_
  all_goals repeat' (first | dsimp only | with_reducible refine OkSound.bind fun _ _ => ?_)
  all_goals simp [hs]

@[simp] theorem execVst_sound (g : Guard) (vc : VReg) (a : XReg) (imm : BitVec 11) (s : State) (hs : s.Sound) :
    OutSound (execVst g vc a imm s) := by
  unfold execVst
  refine guarded_sound hs fun r hr => ?_
  all_goals repeat' (first | dsimp only | with_reducible refine OkSound.bind fun _ _ => ?_)
  all_goals simp [hs]

@[simp] theorem State.takeSym_sound (s : State) (r : Run) (st : SymState) (acq : Bool) (hs : s.Sound) :
    PairSound (State.takeSym s r st acq) := fun a t e => by
  simp only [State.takeSym, Option.map_eq_some_iff, Prod.mk.injEq] at e
  obtain ⟨i, _, _, rfl⟩ := e
  simp [hs]

@[simp] theorem State.symFor_sound (s : State) (r : Run) (d : Nat) (st : SymState) (acq : Bool) (hs : s.Sound) :
    (State.symFor s r d st acq).2.Sound := by
  unfold State.symFor
  repeat' (first | dsimp only | split)
  all_goals (first | with_reducible assumption | (simp +contextual (maxDischargeDepth := 20); done)
                   | (rename _ = some (_, _) => e; have hz := sound_of_somePair e (by simp +contextual (maxDischargeDepth := 20) [hs]); simp +contextual (maxDischargeDepth := 20) [hz]))

@[simp] theorem execGld_sound (g : Guard) (lu : Bool) (evp : Evp) (sz : Size) (byt n : Bool) (xg y : XReg) (s : State) (hs : s.Sound) :
    OutSound (execGld g lu evp sz byt n xg y s) := by
  unfold execGld
  refine guardedN_sound hs (fun r hr => ?_) (fun r hr => ?_)
  all_goals repeat' (first | dsimp only | with_reducible refine OkSound.bind fun _ _ => ?_ | split)
  all_goals simp [hs]

@[simp] theorem execLdl_sound (g : Guard) (sz : Size) (u : Bool) (d a : XReg) (off : BitVec 8) (s : State) (hs : s.Sound) :
    OutSound (execLdl g sz u d a off s) := by
  unfold execLdl
  refine guarded_sound hs fun r hr => ?_
  all_goals repeat' (first | dsimp only | with_reducible refine OkSound.bind fun _ _ => ?_ | with_reducible refine OkSound.bind' fun _ _ => ?_ | split)
  all_goals simp +contextual (maxDischargeDepth := 20) [hs]

@[simp] theorem execGst_sound (g : Guard) (sz : Size) (t : Bool) (c a : XReg) (off : BitVec 8) (s : State) (hs : s.Sound) :
    OutSound (execGst g sz t c a off s) := by
  unfold execGst
  refine guarded_sound hs fun r hr => ?_
  all_goals repeat' (first | dsimp only | with_reducible refine OkSound.bind fun _ _ => ?_ | split)
  all_goals simp [hs]

@[simp] theorem execGstv_sound (g : Guard) (vc : VReg) (a : XReg) (m : MReg) (off : BitVec 8) (s : State) (hs : s.Sound) :
    OutSound (execGstv g vc a m off s) := by
  unfold execGstv
  refine guarded_sound hs fun r hr => ?_
  all_goals repeat' (first | dsimp only | with_reducible refine OkSound.bind fun _ _ => ?_ | split)
  all_goals simp [hs]

@[simp] theorem execPref_sound (g : Guard) (evp : Evp) (a : XReg) (off : BitVec 11) (s : State) (hs : s.Sound) :
    OutSound (execPref g evp a off s) := by
  unfold execPref
  refine guarded_sound hs fun r hr => ?_
  all_goals repeat' (first | dsimp only | with_reducible refine OkSound.bind fun _ _ => ?_ | split)
  all_goals simp [hs]

@[simp] theorem atomic_sound (k : AtomKind) (n : Nat) (ord : Ord) (d a b : XReg) (s : State) (r : Run) (hs : s.Sound) :
    OkSound (atomic k n ord d a b s r) := by
  unfold atomic
  repeat' (first | dsimp only | with_reducible refine OkSound.bind fun _ _ => ?_ | split)
  all_goals simp +contextual (maxDischargeDepth := 20) [hs]

@[simp] theorem execXchg_sound (g : Guard) (ord : Ord) (sz : ASize) (d a b : XReg) (s : State) (hs : s.Sound) :
    OutSound (execXchg g ord sz d a b s) := by
  unfold execXchg
  refine guarded_sound hs fun r hr => ?_
  all_goals simp [hs]

@[simp] theorem execCas_sound (g : Guard) (ord : Ord) (sz : ASize) (d a b : XReg) (s : State) (hs : s.Sound) :
    OutSound (execCas g ord sz d a b s) := by
  unfold execCas
  refine guarded_sound hs fun r hr => ?_
  all_goals simp [hs]

@[simp] theorem execCas2_sound (g : Guard) (ord : Ord) (d a b : XReg) (s : State) (hs : s.Sound) :
    OutSound (execCas2 g ord d a b s) := by
  unfold execCas2
  refine guarded_sound hs fun r hr => ?_
  all_goals simp [hs]

@[simp] theorem execFaa_sound (g : Guard) (ord : Ord) (sz : ASize) (d a b : XReg) (s : State) (hs : s.Sound) :
    OutSound (execFaa g ord sz d a b s) := by
  unfold execFaa
  refine guarded_sound hs fun r hr => ?_
  all_goals simp [hs]

@[simp] theorem execAmax_sound (g : Guard) (ord : Ord) (sz : ASize) (d a b : XReg) (s : State) (hs : s.Sound) :
    OutSound (execAmax g ord sz d a b s) := by
  unfold execAmax
  refine guarded_sound hs fun r hr => ?_
  all_goals simp [hs]

@[simp] theorem execAmin_sound (g : Guard) (ord : Ord) (sz : ASize) (d a b : XReg) (s : State) (hs : s.Sound) :
    OutSound (execAmin g ord sz d a b s) := by
  unfold execAmin
  refine guarded_sound hs fun r hr => ?_
  all_goals simp [hs]

@[simp] theorem execAmaxU_sound (g : Guard) (ord : Ord) (sz : ASize) (d a b : XReg) (s : State) (hs : s.Sound) :
    OutSound (execAmaxU g ord sz d a b s) := by
  unfold execAmaxU
  refine guarded_sound hs fun r hr => ?_
  all_goals simp [hs]

@[simp] theorem execAminU_sound (g : Guard) (ord : Ord) (sz : ASize) (d a b : XReg) (s : State) (hs : s.Sound) :
    OutSound (execAminU g ord sz d a b s) := by
  unfold execAminU
  refine guarded_sound hs fun r hr => ?_
  all_goals simp [hs]

@[simp] theorem execFence_sound (g : Guard) (w u e : Bool) (scope : Scope) (s : State) (hs : s.Sound) :
    OutSound (execFence g w u e scope s) := by
  unfold execFence
  refine guarded_sound hs fun r hr => ?_
  all_goals repeat' (first | dsimp only | with_reducible refine OkSound.bind fun _ _ => ?_ | split)
  all_goals simp [hs]

@[simp] theorem execIflush_sound (g : Guard) (a b : XReg) (s : State) (hs : s.Sound) :
    OutSound (execIflush g a b s) := by
  unfold execIflush
  refine guarded_sound hs fun r hr => ?_
  all_goals repeat' (first | dsimp only | with_reducible refine OkSound.bind fun _ _ => ?_ | split)
  all_goals simp [hs]

@[simp] theorem execIflushAll_sound (g : Guard) (s : State) (hs : s.Sound) :
    OutSound (execIflushAll g s) := by
  unfold execIflushAll
  refine guarded_sound hs fun r hr => ?_
  all_goals simp [hs]

@[simp] theorem State.issuePairs_sound (s : State) (r : Run) (k : Nat) (pairs : Nat → List (Word × Word)) (hs : s.Sound) :
    OkSound (State.issuePairs s r k pairs) := by
  unfold State.issuePairs
  repeat' (first | dsimp only | with_reducible refine OkSound.bind fun _ _ => ?_ | with_reducible refine OkSound.bind' fun _ _ => ?_ | split)
  all_goals simp [hs]

@[simp] theorem execUpd_sound (g : Guard) (a b : XReg) (k : BitVec 3) (s : State) (hs : s.Sound) :
    OutSound (execUpd g a b k s) := by
  unfold execUpd
  refine guarded_sound hs fun r hr => ?_
  all_goals repeat' (first | dsimp only | split)
  all_goals simp [hs]

@[simp] theorem execUpdv_sound (g : Guard) (xd : XReg) (va vb : VReg) (m : MReg) (k : BitVec 3) (s : State) (hs : s.Sound) :
    OutSound (execUpdv g xd va vb m k s) := by
  unfold execUpdv
  refine guarded_sound hs fun r hr => ?_
  all_goals repeat' (first | dsimp only | split)
  all_goals simp [hs]

@[simp] theorem execUapply_sound (g : Guard) (a b : XReg) (s : State) (hs : s.Sound) :
    OutSound (execUapply g a b s) := by
  unfold execUapply
  refine guarded_sound hs fun r hr => ?_
  all_goals repeat' (first | dsimp only | with_reducible refine OkSound.bind fun _ _ => ?_ | split)
  all_goals simp [hs]

@[simp] theorem State.issueCopy_sound (s : State) (r : Run) (kind : CopyKind) (grp : List RVal) (y : XReg) (hs : s.Sound) :
    OkSound (State.issueCopy s r kind grp y) := by
  unfold State.issueCopy
  repeat' (first | dsimp only | with_reducible refine OkSound.bind fun _ _ => ?_ | with_reducible refine State.onCore_sound ?_ ?_ | split)
  all_goals simp +contextual (maxDischargeDepth := 20) [hs]

@[simp] theorem State.issueTile_sound (s : State) (r : Run) (kind : TileKind) (grp : List RVal) (y : XReg) (hs : s.Sound) :
    OkSound (State.issueTile s r kind grp y) := by
  unfold State.issueTile
  repeat' (first | dsimp only | with_reducible refine OkSound.bind fun _ _ => ?_ | with_reducible refine State.onCore_sound ?_ ?_ | split)
  all_goals simp +contextual (maxDischargeDepth := 20) [hs]

@[simp] theorem nullBytes_sound (y : XReg) (byt : Bool) (len : List RVal) (s : State) (r : Run) (hs : s.Sound) :
    OkSound (nullBytes y byt len s r) := by
  unfold nullBytes
  repeat' (first | dsimp only | with_reducible refine OkSound.bind fun _ _ => ?_ | with_reducible refine sound_foldl (fun _ _ _ => ?_) ?_ | with_reducible refine wf_foldl (fun _ _ _ => ?_) ?_ | with_reducible refine sound_foldl_snd (fun _ _ _ => ?_) ?_ | split)
  all_goals simp [hs]

@[simp] theorem execCpy_sound (g : Guard) (fn : CopyFn) (xg y : XReg) (s : State) (hs : s.Sound) :
    OutSound (execCpy g fn xg y s) := by
  unfold execCpy
  refine guardedN_sound hs (fun r hr => ?_) (fun r hr => ?_)
  all_goals simp [hs]

@[simp] theorem execCpy2_sound (g : Guard) (fn : CopyFn) (xg y : XReg) (s : State) (hs : s.Sound) :
    OutSound (execCpy2 g fn xg y s) := by
  unfold execCpy2
  refine guardedN_sound hs (fun r hr => ?_) (fun r hr => ?_)
  all_goals simp [hs]

@[simp] theorem execCpym_sound (g : Guard) (byt n : Bool) (xg y : XReg) (s : State) (hs : s.Sound) :
    OutSound (execCpym g byt n xg y s) := by
  unfold execCpym
  refine guardedN_sound hs (fun r hr => ?_) (fun r hr => ?_)
  all_goals simp [hs]

@[simp] theorem execGthr_sound (g : Guard) (fn : GthrFn) (xg y : XReg) (s : State) (hs : s.Sound) :
    OutSound (execGthr g fn xg y s) := by
  unfold execGthr
  refine guardedN_sound hs (fun r hr => ?_) (fun r hr => ?_)
  all_goals simp [hs]

@[simp] theorem execFenceqCt_sound (g : Guard) (s : State) (hs : s.Sound) :
    OutSound (execFenceqCt g s) := by
  unfold execFenceqCt
  refine guarded_sound hs fun r hr => ?_
  all_goals simp [hs]

@[simp] theorem execFenceqTc_sound (g : Guard) (s : State) (hs : s.Sound) :
    OutSound (execFenceqTc g s) := by
  unfold execFenceqTc
  refine guarded_sound hs fun r hr => ?_
  all_goals simp [hs]

@[simp] theorem execRcfg_sound (g : Guard) (q : BitVec 3) (xg : XReg) (s : State) (hs : s.Sound) :
    OutSound (execRcfg g q xg s) := by
  unfold execRcfg
  refine guarded_sound hs fun r hr => ?_
  all_goals repeat' (first | dsimp only | with_reducible refine OkSound.bind fun _ _ => ?_)
  all_goals simp [hs]

@[simp] theorem execRadv_sound (g : Guard) (q : BitVec 3) (xg : XReg) (s : State) (hs : s.Sound) :
    OutSound (execRadv g q xg s) := by
  unfold execRadv
  refine guarded_sound hs fun r hr => ?_
  all_goals repeat' (first | dsimp only | with_reducible refine OkSound.bind fun _ _ => ?_ | split)
  all_goals simp [hs]

@[simp] theorem execSscfg_sound (g : Guard) (ss : BitVec 2) (xg : XReg) (s : State) (hs : s.Sound) :
    OutSound (execSscfg g ss xg s) := by
  unfold execSscfg
  refine guarded_sound hs fun r hr => ?_
  all_goals repeat' (first | dsimp only | with_reducible refine OkSound.bind fun _ _ => ?_)
  all_goals simp [hs]

@[simp] theorem execMma_sound (g : Guard) (n t : Bool) (qb qa : BitVec 3) (acc : BitVec 2) (xg y : XReg) (s : State) (hs : s.Sound) :
    OutSound (execMma g n t qb qa acc xg y s) := by
  unfold execMma
  refine guardedN_sound hs (fun r hr => ?_) (fun r hr => ?_)
  all_goals simp [hs]

@[simp] theorem execMmas_sound (g : Guard) (ss : BitVec 2) (n : Bool) (qb qa : BitVec 3) (acc : BitVec 2) (xg y : XReg) (s : State) (hs : s.Sound) :
    OutSound (execMmas g ss n qb qa acc xg y s) := by
  unfold execMmas
  refine guardedN_sound hs (fun r hr => ?_) (fun r hr => ?_)
  all_goals simp [hs]

@[simp] theorem execMmg_sound (g : Guard) (val : MmgVal) (act : MmgAct) (n : Bool) (xg y : XReg) (s : State) (hs : s.Sound) :
    OutSound (execMmg g val act n xg y s) := by
  unfold execMmg
  refine guardedN_sound hs (fun r hr => ?_) (fun r hr => ?_)
  all_goals simp [hs]

@[simp] theorem execAccz_sound (g : Guard) (acc : BitVec 2) (s : State) (hs : s.Sound) :
    OutSound (execAccz g acc s) := by
  unfold execAccz
  refine guarded_sound hs fun r hr => ?_
  all_goals simp [hs]

@[simp] theorem execAccld_sound (g : Guard) (n : Bool) (acc : BitVec 2) (xg y : XReg) (s : State) (hs : s.Sound) :
    OutSound (execAccld g n acc xg y s) := by
  unfold execAccld
  refine guardedN_sound hs (fun r hr => ?_) (fun r hr => ?_)
  all_goals simp [hs]

@[simp] theorem execAccst_sound (g : Guard) (n sc sat : Bool) (rnd : Rnd) (tag : Tag) (acc : BitVec 2) (xg y : XReg) (s : State) (hs : s.Sound) :
    OutSound (execAccst g n sc sat rnd tag acc xg y s) := by
  unfold execAccst
  refine guardedN_sound hs (fun r hr => ?_) (fun r hr => ?_)
  all_goals simp [hs]

@[simp] theorem State.writeLanes_sound (s : State) (d : VReg) (res : VWord × BitVec 8) (hs : s.Sound) :
    (State.writeLanes s d res).Sound := by
  unfold State.writeLanes
  all_goals simp [hs]

@[simp] theorem varith_sound (k : VFun) (t : CvtTy) (rm : RMode) (sat : Bool) (vd va vb : VReg) (m : MReg) (s : State) (r : Run) (hs : s.Sound) :
    OkSound (varith k t rm sat vd va vb m s r) := by
  unfold varith
  repeat' dsimp only
  all_goals simp [hs]

@[simp] theorem execVadd_sound (g : Guard) (t : VType) (vd va vb : VReg) (m : MReg) (s : State) (hs : s.Sound) :
    OutSound (execVadd g t vd va vb m s) := by
  unfold execVadd
  refine guarded_sound hs fun r hr => ?_
  all_goals simp [hs]

@[simp] theorem execVsub_sound (g : Guard) (t : VType) (vd va vb : VReg) (m : MReg) (s : State) (hs : s.Sound) :
    OutSound (execVsub g t vd va vb m s) := by
  unfold execVsub
  refine guarded_sound hs fun r hr => ?_
  all_goals simp [hs]

@[simp] theorem execVmul_sound (g : Guard) (t : VType) (vd va vb : VReg) (m : MReg) (s : State) (hs : s.Sound) :
    OutSound (execVmul g t vd va vb m s) := by
  unfold execVmul
  refine guarded_sound hs fun r hr => ?_
  all_goals simp [hs]

@[simp] theorem execVfma_sound (g : Guard) (t : VType) (vd va vb : VReg) (m : MReg) (s : State) (hs : s.Sound) :
    OutSound (execVfma g t vd va vb m s) := by
  unfold execVfma
  refine guarded_sound hs fun r hr => ?_
  all_goals simp [hs]

@[simp] theorem execVmin_sound (g : Guard) (t : VType) (vd va vb : VReg) (m : MReg) (s : State) (hs : s.Sound) :
    OutSound (execVmin g t vd va vb m s) := by
  unfold execVmin
  refine guarded_sound hs fun r hr => ?_
  all_goals simp [hs]

@[simp] theorem execVmax_sound (g : Guard) (t : VType) (vd va vb : VReg) (m : MReg) (s : State) (hs : s.Sound) :
    OutSound (execVmax g t vd va vb m s) := by
  unfold execVmax
  refine guarded_sound hs fun r hr => ?_
  all_goals simp [hs]

@[simp] theorem execVabs_sound (g : Guard) (t : VType) (vd va : VReg) (m : MReg) (s : State) (hs : s.Sound) :
    OutSound (execVabs g t vd va m s) := by
  unfold execVabs
  refine guarded_sound hs fun r hr => ?_
  all_goals simp [hs]

@[simp] theorem execVneg_sound (g : Guard) (t : VType) (vd va : VReg) (m : MReg) (s : State) (hs : s.Sound) :
    OutSound (execVneg g t vd va m s) := by
  unfold execVneg
  refine guarded_sound hs fun r hr => ?_
  all_goals simp [hs]

@[simp] theorem vbits_sound (op : Nat → Nat → Nat) (vd va vb : VReg) (m : MReg) (s : State) (r : Run) (hs : s.Sound) :
    OkSound (vbits op vd va vb m s r) := by
  unfold vbits
  all_goals simp [hs]

@[simp] theorem execVand_sound (g : Guard) (vd va vb : VReg) (m : MReg) (s : State) (hs : s.Sound) :
    OutSound (execVand g vd va vb m s) := by
  unfold execVand
  refine guarded_sound hs fun r hr => ?_
  all_goals simp [hs]

@[simp] theorem execVor_sound (g : Guard) (vd va vb : VReg) (m : MReg) (s : State) (hs : s.Sound) :
    OutSound (execVor g vd va vb m s) := by
  unfold execVor
  refine guarded_sound hs fun r hr => ?_
  all_goals simp [hs]

@[simp] theorem execVxor_sound (g : Guard) (vd va vb : VReg) (m : MReg) (s : State) (hs : s.Sound) :
    OutSound (execVxor g vd va vb m s) := by
  unfold execVxor
  refine guarded_sound hs fun r hr => ?_
  all_goals simp [hs]

@[simp] theorem vselect_sound (w : Nat) (vd va vb : VReg) (m : MReg) (s : State) (r : Run) (hs : s.Sound) :
    OkSound (vselect w vd va vb m s r) := by
  unfold vselect
  all_goals simp [hs]

@[simp] theorem execVselW_sound (g : Guard) (vd va vb : VReg) (m : MReg) (s : State) (hs : s.Sound) :
    OutSound (execVselW g vd va vb m s) := by
  unfold execVselW
  refine guarded_sound hs fun r hr => ?_
  all_goals simp [hs]

@[simp] theorem execVselH_sound (g : Guard) (vd va vb : VReg) (m : MReg) (s : State) (hs : s.Sound) :
    OutSound (execVselH g vd va vb m s) := by
  unfold execVselH
  refine guarded_sound hs fun r hr => ?_
  all_goals simp [hs]

@[simp] theorem execVselB_sound (g : Guard) (vd va vb : VReg) (m : MReg) (s : State) (hs : s.Sound) :
    OutSound (execVselB g vd va vb m s) := by
  unfold execVselB
  refine guarded_sound hs fun r hr => ?_
  all_goals simp [hs]

@[simp] theorem vshift_sound (k : VShift) (w : Nat) (vd va vb : VReg) (m : MReg) (s : State) (r : Run) (hs : s.Sound) :
    OkSound (vshift k w vd va vb m s r) := by
  unfold vshift
  all_goals simp [hs]

@[simp] theorem execVshlI32_sound (g : Guard) (vd va vb : VReg) (m : MReg) (s : State) (hs : s.Sound) :
    OutSound (execVshlI32 g vd va vb m s) := by
  unfold execVshlI32
  refine guarded_sound hs fun r hr => ?_
  all_goals simp [hs]

@[simp] theorem execVshrI32_sound (g : Guard) (vd va vb : VReg) (m : MReg) (s : State) (hs : s.Sound) :
    OutSound (execVshrI32 g vd va vb m s) := by
  unfold execVshrI32
  refine guarded_sound hs fun r hr => ?_
  all_goals simp [hs]

@[simp] theorem execVsarI32_sound (g : Guard) (vd va vb : VReg) (m : MReg) (s : State) (hs : s.Sound) :
    OutSound (execVsarI32 g vd va vb m s) := by
  unfold execVsarI32
  refine guarded_sound hs fun r hr => ?_
  all_goals simp [hs]

@[simp] theorem execVshlI16_sound (g : Guard) (vd va vb : VReg) (m : MReg) (s : State) (hs : s.Sound) :
    OutSound (execVshlI16 g vd va vb m s) := by
  unfold execVshlI16
  refine guarded_sound hs fun r hr => ?_
  all_goals simp [hs]

@[simp] theorem execVshrI16_sound (g : Guard) (vd va vb : VReg) (m : MReg) (s : State) (hs : s.Sound) :
    OutSound (execVshrI16 g vd va vb m s) := by
  unfold execVshrI16
  refine guarded_sound hs fun r hr => ?_
  all_goals simp [hs]

@[simp] theorem execVsarI16_sound (g : Guard) (vd va vb : VReg) (m : MReg) (s : State) (hs : s.Sound) :
    OutSound (execVsarI16 g vd va vb m s) := by
  unfold execVsarI16
  refine guarded_sound hs fun r hr => ?_
  all_goals simp [hs]

@[simp] theorem execVcmp_sound (g : Guard) (t : VType) (cond : VCond) (md : MReg) (va vb : VReg) (s : State) (hs : s.Sound) :
    OutSound (execVcmp g t cond md va vb s) := by
  unfold execVcmp
  refine guarded_sound hs fun r hr => ?_
  all_goals repeat' (first | dsimp only | with_reducible refine sound_foldl (fun _ _ _ => ?_) ?_ | with_reducible refine wf_foldl (fun _ _ _ => ?_) ?_ | with_reducible refine sound_foldl_snd (fun _ _ _ => ?_) ?_)
  all_goals simp [hs]

@[simp] theorem vmath_sound (k : VMath) (f : Fmt) (rm : RMode) (sat : Bool) (vd va : VReg) (m : MReg) (s : State) (r : Run) (hs : s.Sound) :
    OkSound (vmath k f rm sat vd va m s r) := by
  unfold vmath
  all_goals simp [hs]

@[simp] theorem execVrcp_sound (g : Guard) (t : EtF) (vd va : VReg) (m : MReg) (s : State) (hs : s.Sound) :
    OutSound (execVrcp g t vd va m s) := by
  unfold execVrcp
  refine guarded_sound hs fun r hr => ?_
  all_goals simp [hs]

@[simp] theorem execVrsq_sound (g : Guard) (t : EtF) (vd va : VReg) (m : MReg) (s : State) (hs : s.Sound) :
    OutSound (execVrsq g t vd va m s) := by
  unfold execVrsq
  refine guarded_sound hs fun r hr => ?_
  all_goals simp [hs]

@[simp] theorem execVexp2_sound (g : Guard) (t : EtF) (vd va : VReg) (m : MReg) (s : State) (hs : s.Sound) :
    OutSound (execVexp2 g t vd va m s) := by
  unfold execVexp2
  refine guarded_sound hs fun r hr => ?_
  all_goals simp [hs]

@[simp] theorem execVlog2_sound (g : Guard) (t : EtF) (vd va : VReg) (m : MReg) (s : State) (hs : s.Sound) :
    OutSound (execVlog2 g t vd va m s) := by
  unfold execVlog2
  refine guarded_sound hs fun r hr => ?_
  all_goals simp [hs]

@[simp] theorem execViota_sound (g : Guard) (t : EtI) (vd : VReg) (m : MReg) (s : State) (hs : s.Sound) :
    OutSound (execViota g t vd m s) := by
  unfold execViota
  refine guarded_sound hs fun r hr => ?_
  all_goals simp [hs]

@[simp] theorem execVx_sound (g : Guard) (op : Vop) (sat : Bool) (rnd : Rnd) (vd va vb : VReg) (m : MReg) (s : State) (hs : s.Sound) :
    OutSound (execVx g op sat rnd vd va vb m s) := by
  unfold execVx
  refine guarded_sound hs fun r hr => ?_
  all_goals repeat' (first | dsimp only | split)
  all_goals simp [hs]

@[simp] theorem vreduce_sound (k : VFun) (t : CvtTy) (xd : XReg) (va : VReg) (m : MReg) (s : State) (r : Run) (hs : s.Sound) :
    OkSound (vreduce k t xd va m s r) := by
  unfold vreduce
  repeat' (first | dsimp only | split)
  all_goals simp [hs]

@[simp] theorem execVredAdd_sound (g : Guard) (t : VType) (xd : XReg) (va : VReg) (m : MReg) (s : State) (hs : s.Sound) :
    OutSound (execVredAdd g t xd va m s) := by
  unfold execVredAdd
  refine guarded_sound hs fun r hr => ?_
  all_goals simp [hs]

@[simp] theorem execVredMin_sound (g : Guard) (t : VType) (xd : XReg) (va : VReg) (m : MReg) (s : State) (hs : s.Sound) :
    OutSound (execVredMin g t xd va m s) := by
  unfold execVredMin
  refine guarded_sound hs fun r hr => ?_
  all_goals simp [hs]

@[simp] theorem execVredMax_sound (g : Guard) (t : VType) (xd : XReg) (va : VReg) (m : MReg) (s : State) (hs : s.Sound) :
    OutSound (execVredMax g t xd va m s) := by
  unfold execVredMax
  refine guarded_sound hs fun r hr => ?_
  all_goals simp [hs]

@[simp] theorem vdot_sound (f : Fmt) (xd : XReg) (va vb : VReg) (m : MReg) (s : State) (r : Run) (hs : s.Sound) :
    OkSound (vdot f xd va vb m s r) := by
  unfold vdot
  repeat' (first | dsimp only | with_reducible refine OkSound.bind fun _ _ => ?_ | with_reducible refine sound_foldl (fun _ _ _ => ?_) ?_ | with_reducible refine wf_foldl (fun _ _ _ => ?_) ?_ | with_reducible refine sound_foldl_snd (fun _ _ _ => ?_) ?_ | split)
  all_goals simp [hs]

@[simp] theorem execVdotF32_sound (g : Guard) (xd : XReg) (va vb : VReg) (m : MReg) (s : State) (hs : s.Sound) :
    OutSound (execVdotF32 g xd va vb m s) := by
  unfold execVdotF32
  refine guarded_sound hs fun r hr => ?_
  all_goals simp [hs]

@[simp] theorem execVdotBf16_sound (g : Guard) (xd : XReg) (va vb : VReg) (m : MReg) (s : State) (hs : s.Sound) :
    OutSound (execVdotBf16 g xd va vb m s) := by
  unfold execVdotBf16
  refine guarded_sound hs fun r hr => ?_
  all_goals simp [hs]

@[simp] theorem execVdotF16_sound (g : Guard) (xd : XReg) (va vb : VReg) (m : MReg) (s : State) (hs : s.Sound) :
    OutSound (execVdotF16 g xd va vb m s) := by
  unfold execVdotF16
  refine guarded_sound hs fun r hr => ?_
  all_goals simp [hs]

@[simp] theorem execVperm_sound (g : Guard) (lw : LaneW) (vd va vb : VReg) (s : State) (hs : s.Sound) :
    OutSound (execVperm g lw vd va vb s) := by
  unfold execVperm
  refine guarded_sound hs fun r hr => ?_
  all_goals repeat' dsimp only
  all_goals simp [hs]

@[simp] theorem execVbcast_sound (g : Guard) (lw : LaneW) (vd : VReg) (xa : XReg) (s : State) (hs : s.Sound) :
    OutSound (execVbcast g lw vd xa s) := by
  unfold execVbcast
  refine guarded_sound hs fun r hr => ?_
  all_goals repeat' (first | dsimp only | with_reducible refine OkSound.bind fun _ _ => ?_)
  all_goals simp [hs]

@[simp] theorem execVext_sound (g : Guard) (lw : LaneW) (xd : XReg) (va : VReg) (xb : XReg) (s : State) (hs : s.Sound) :
    OutSound (execVext g lw xd va xb s) := by
  unfold execVext
  refine guarded_sound hs fun r hr => ?_
  all_goals repeat' (first | dsimp only | with_reducible refine OkSound.bind fun _ _ => ?_)
  all_goals simp [hs]

@[simp] theorem execVins_sound (g : Guard) (lw : LaneW) (vd : VReg) (xa xb : XReg) (s : State) (hs : s.Sound) :
    OutSound (execVins g lw vd xa xb s) := by
  unfold execVins
  refine guarded_sound hs fun r hr => ?_
  all_goals repeat' (first | dsimp only | with_reducible refine OkSound.bind fun _ _ => ?_)
  all_goals simp [hs]

@[simp] theorem execVcomp_sound (g : Guard) (lw : LaneW) (vd va : VReg) (mb : MReg) (s : State) (hs : s.Sound) :
    OutSound (execVcomp g lw vd va mb s) := by
  unfold execVcomp
  refine guarded_sound hs fun r hr => ?_
  all_goals repeat' dsimp only
  all_goals simp [hs]

@[simp] theorem execVexpd_sound (g : Guard) (lw : LaneW) (vd va : VReg) (mb : MReg) (s : State) (hs : s.Sound) :
    OutSound (execVexpd g lw vd va mb s) := by
  unfold execVexpd
  refine guarded_sound hs fun r hr => ?_
  all_goals repeat' (first | dsimp only | split)
  all_goals simp [hs]

@[simp] theorem execVcvt_sound (g : Guard) (dst src : Et) (sat : Bool) (rnd : Rnd) (vd va : VReg) (m : MReg) (s : State) (hs : s.Sound) :
    OutSound (execVcvt g dst src sat rnd vd va m s) := by
  unfold execVcvt
  refine guarded_sound hs fun r hr => ?_
  all_goals repeat' (first | dsimp only | split)
  all_goals simp [hs]

@[simp] theorem execMlog_sound (g : Guard) (op : MlogOp) (md ma mb : MReg) (s : State) (hs : s.Sound) :
    OutSound (execMlog g op md ma mb s) := by
  unfold execMlog
  refine guarded_sound hs fun r hr => ?_
  all_goals repeat' (first | dsimp only | split)
  all_goals simp [hs]

@[simp] theorem execMcnt_sound (g : Guard) (xd : XReg) (ma : MReg) (s : State) (hs : s.Sound) :
    OutSound (execMcnt g xd ma s) := by
  unfold execMcnt
  refine guarded_sound hs fun r hr => ?_
  all_goals simp [hs]

@[simp] theorem execRdsr_sound (g : Guard) (d : XReg) (num : BitVec 11) (s : State) (hs : s.Sound) :
    OutSound (execRdsr g d num s) := by
  unfold execRdsr
  refine guardedAfter_sound hs fun r hr => ?_
  all_goals simp [hs]

@[simp] theorem State.writeSpecial_sound (s : State) (r : Run) (n : Nat) (w : Word) (hs : s.Sound) :
    (State.writeSpecial s r n w).Sound := by
  unfold State.writeSpecial
  repeat' (first | dsimp only | split)
  all_goals simp [hs]

@[simp] theorem execWrsr_sound (g : Guard) (a : XReg) (num : BitVec 11) (s : State) (hs : s.Sound) :
    OutSound (execWrsr g a num s) := by
  unfold execWrsr
  refine guardedAfter_sound hs fun r hr => ?_
  all_goals repeat' (first | dsimp only | with_reducible refine OkSound.bind fun _ _ => ?_)
  all_goals simp [hs]

@[simp] theorem rgnctl_sound (op : Nat) (g : Guard) (xg y : XReg) (s : State) (hs : s.Sound) :
    OutSound (rgnctl op g xg y s) := by
  unfold rgnctl
  repeat' dsimp only
  all_goals simp +contextual (maxDischargeDepth := 20) [hs]

@[simp] theorem execRgnctlAct_sound (g : Guard) (xg y : XReg) (s : State) (hs : s.Sound) :
    OutSound (execRgnctlAct g xg y s) := by
  unfold execRgnctlAct
  all_goals simp [hs]

@[simp] theorem execRgnctlCfg_sound (g : Guard) (xg y : XReg) (s : State) (hs : s.Sound) :
    OutSound (execRgnctlCfg g xg y s) := by
  unfold execRgnctlCfg
  all_goals simp [hs]

@[simp] theorem execRgnctlSusp_sound (g : Guard) (xg y : XReg) (s : State) (hs : s.Sound) :
    OutSound (execRgnctlSusp g xg y s) := by
  unfold execRgnctlSusp
  all_goals simp [hs]

@[simp] theorem execRgnctlRes_sound (g : Guard) (xg y : XReg) (s : State) (hs : s.Sound) :
    OutSound (execRgnctlRes g xg y s) := by
  unfold execRgnctlRes
  all_goals simp [hs]

@[simp] theorem execRgnctlDel_sound (g : Guard) (xg y : XReg) (s : State) (hs : s.Sound) :
    OutSound (execRgnctlDel g xg y s) := by
  unfold execRgnctlDel
  all_goals simp [hs]

@[simp] theorem execTlbinvPg_sound (g : Guard) (a b : XReg) (s : State) (hs : s.Sound) :
    OutSound (execTlbinvPg g a b s) := by
  unfold execTlbinvPg
  refine guardedAfter_sound hs fun r hr => ?_
  all_goals repeat' (first | dsimp only | with_reducible refine OkSound.bind fun _ _ => ?_)
  all_goals simp [hs]

@[simp] theorem execTlbinvAs_sound (g : Guard) (b : XReg) (s : State) (hs : s.Sound) :
    OutSound (execTlbinvAs g b s) := by
  unfold execTlbinvAs
  refine guardedAfter_sound hs fun r hr => ?_
  all_goals repeat' (first | dsimp only | with_reducible refine OkSound.bind fun _ _ => ?_)
  all_goals simp [hs]

@[simp] theorem execTlbinvAll_sound (g : Guard) (s : State) (hs : s.Sound) :
    OutSound (execTlbinvAll g s) := by
  unfold execTlbinvAll
  refine guardedAfter_sound hs fun r hr => ?_
  all_goals repeat' (first | dsimp only | with_reducible refine OkSound.bind fun _ _ => ?_)
  all_goals simp [hs]

@[simp] theorem execWaycfg_sound (g : Guard) (a b : XReg) (s : State) (hs : s.Sound) :
    OutSound (execWaycfg g a b s) := by
  unfold execWaycfg
  refine guardedAfter_sound hs fun r hr => ?_
  all_goals repeat' (first | dsimp only | with_reducible refine OkSound.bind fun _ _ => ?_)
  all_goals simp [hs]

@[simp] theorem execSymq_sound (g : Guard) (d a : XReg) (s : State) (hs : s.Sound) :
    OutSound (execSymq g d a s) := by
  unfold execSymq
  refine guarded_sound hs fun r hr => ?_
  all_goals simp [hs]

@[simp] theorem resumeForm_sound (form : Nat) (g : Guard) (a : XReg) (s : State) (hs : s.Sound) :
    OutSound (resumeForm form g a s) := by
  unfold resumeForm
  repeat' (first | dsimp only | split)
  all_goals simp +contextual (maxDischargeDepth := 20) [hs]

@[simp] theorem execResume_sound (g : Guard) (a : XReg) (s : State) (hs : s.Sound) :
    OutSound (execResume g a s) := by
  unfold execResume
  all_goals simp [hs]

@[simp] theorem execResumeAbt_sound (g : Guard) (a : XReg) (s : State) (hs : s.Sound) :
    OutSound (execResumeAbt g a s) := by
  unfold execResumeAbt
  all_goals simp [hs]

@[simp] theorem execResumeRpl_sound (g : Guard) (a : XReg) (s : State) (hs : s.Sound) :
    OutSound (execResumeRpl g a s) := by
  unfold execResumeRpl
  all_goals simp [hs]

@[simp] theorem execResumeDrp_sound (g : Guard) (a : XReg) (s : State) (hs : s.Sound) :
    OutSound (execResumeDrp g a s) := by
  unfold execResumeDrp
  all_goals simp [hs]

end Sys2Proof.Machine
end

