-- ==== Sys2Proof/Laws/SoundEvents.lean ====
section
/-! SUPPORT. The memories stay canonical: the operations of the events, and the events. -/

namespace Sys2Proof.Machine

open Sys2Proof

@[simp] theorem State.select_sound (s : State) (core : Nat) (hs : s.Sound) :
    PairSound (State.select s core) := by
  unfold State.select
  repeat' (first | dsimp only | with_reducible refine OkSound.bind' fun _ _ => ?_ | split)
  all_goals simp +contextual (maxDischargeDepth := 20) [hs]

@[simp] theorem State.consume_sound (s : State) (core : Nat) (e : ReadyEntry) (code block idx addr : Nat) (iter : Option Nat)
    (hs : s.Sound) : (State.consume s core e code block idx addr iter).Sound := by
  unfold State.consume
  repeat' (first | dsimp only | split)
  all_goals simp [hs]

@[simp] theorem State.startRun_sound (s : State) (core : Nat) (e : ReadyEntry) (f : Frame)
    (chk : Except CodeStop Header) (hs : s.Sound) : (State.startRun s core e f chk).Sound := by
  unfold State.startRun
  repeat' (first | dsimp only | split)
  all_goals simp +contextual (maxDischargeDepth := 20) [hs]

@[simp] theorem State.resumeRun_sound (s : State) (core : Nat) (e : ReadyEntry) (f : Frame) (p : Parked)
    (chk : Except CodeStop Header) (hs : s.Sound) : (State.resumeRun s core e f p chk).Sound := by
  unfold State.resumeRun
  repeat' (first | dsimp only | with_reducible refine sound_foldl (fun _ _ _ => ?_) ?_ | with_reducible refine wf_foldl (fun _ _ _ => ?_) ?_ | with_reducible refine sound_foldl_snd (fun _ _ _ => ?_) ?_ | split)
  all_goals first | with_reducible assumption | (simp +contextual (maxDischargeDepth := 20) [hs]) | simp +contextual (maxDischargeDepth := 20) [*]

@[simp] theorem State.take_sound (s : State) (core : Nat) (e : ReadyEntry) (hs : s.Sound) :
    (State.take s core e).Sound := by
  unfold State.take
  repeat' (first | dsimp only | with_reducible refine State.onCore_sound ?_ ?_ | split)
  all_goals simp +contextual (maxDischargeDepth := 20) [hs]

@[simp] theorem State.selectEntry_sound (core n : Nat) : ∀ s : State, s.Sound → (s.selectEntry core n).Sound := by
  induction n with
  | zero => intro s hs; exact hs
  | succ n ih =>
    intro s hs; unfold State.selectEntry
    repeat' split
    · exact hs
    · exact hs
    · exact ih _ (State.take_sound _ _ _ (sound_of_somePair ‹_› (State.select_sound _ _ hs)))

@[simp] theorem execReadyEntrySelect_sound (core : Nat) (s : State) (hs : s.Sound) :
    OutSound (execReadyEntrySelect core s) := by
  unfold execReadyEntrySelect
  repeat' (first | dsimp only | split)
  all_goals simp +contextual (maxDischargeDepth := 20) [hs]

@[simp] theorem execEntryAging_sound (core : Nat) (s : State) (hs : s.Sound) :
    OutSound (execEntryAging core s) := by
  unfold execEntryAging
  all_goals simp [hs]

@[simp] theorem execRunleftExpiry_sound (core : Nat) (s : State) (hs : s.Sound) :
    OutSound (execRunleftExpiry core s) := by
  unfold execRunleftExpiry
  repeat' (first | dsimp only | split)
  all_goals simp [hs]

@[simp] theorem State.unpark_sound (s : State) (core fid : Nat) (hs : s.Sound) :
    (State.unpark s core fid).Sound := by
  unfold State.unpark
  repeat' (first | dsimp only | with_reducible refine State.onCore_sound ?_ ?_ | split)
  all_goals simp +contextual (maxDischargeDepth := 20) [hs]

@[simp] theorem execParkTimeExpiry_sound (core fid : Nat) (s : State) (hs : s.Sound) :
    OutSound (execParkTimeExpiry core fid s) := by
  unfold execParkTimeExpiry
  repeat' (first | dsimp only | with_reducible refine OkSound.bind' fun _ _ => ?_ | split)
  all_goals simp [hs]

@[simp] theorem State.placeAdmitted_sound (s : State) (core fid : Nat) (f : Frame) (hs : s.Sound) :
    (State.placeAdmitted s core fid f).Sound := by
  unfold State.placeAdmitted
  repeat' (first | dsimp only | with_reducible refine sound_foldl (fun _ _ _ => ?_) ?_ | with_reducible refine wf_foldl (fun _ _ _ => ?_) ?_ | with_reducible refine sound_foldl_snd (fun _ _ _ => ?_) ?_ | split)
  all_goals simp +contextual (maxDischargeDepth := 20) [hs]

@[simp] theorem State.placeRefill_sound (s : State) (core fid : Nat) (f : Frame) (hs : s.Sound) :
    (State.placeRefill s core fid f).Sound := by
  unfold State.placeRefill
  repeat' (first | dsimp only | split)
  all_goals simp +contextual (maxDischargeDepth := 20) [hs]

@[simp] theorem State.applyQueue_sound (core fid n : Nat) : ∀ s : State, s.Sound → (s.applyQueue core fid n).Sound := by
  induction n with
  | zero => intro s hs; exact hs
  | succ n ih =>
    intro s hs; unfold State.applyQueue; dsimp only
    repeat' split
    · exact hs
    · simp [hs]
    · exact ih _ (by simp (maxDischargeDepth := 20) [hs])
    · exact hs

@[simp] theorem State.loadFrame_sound (s : State) (core fid : Nat) (f : Frame) (hs : s.Sound) :
    (State.loadFrame s core fid f).Sound := by
  unfold State.loadFrame
  repeat' (first | dsimp only | with_reducible refine State.onCore_sound ?_ ?_ | split)
  all_goals simp +contextual (maxDischargeDepth := 20) [hs]

@[simp] theorem State.finishRefill_sound (s : State) (core fid : Nat) (f : Frame) (hs : s.Sound) :
    (State.finishRefill s core fid f).Sound := by
  unfold State.finishRefill
  repeat' (first | dsimp only | with_reducible refine State.onCore_sound ?_ ?_ | split)
  all_goals simp +contextual (maxDischargeDepth := 20) [hs]

@[simp] theorem execSpillWriteOutComplete_sound (core fid : Nat) (s : State) (hs : s.Sound) :
    OutSound (execSpillWriteOutComplete core fid s) := by
  unfold execSpillWriteOutComplete
  repeat' (first | dsimp only | with_reducible refine OkSound.bind fun _ _ => ?_ | with_reducible refine sound_foldl (fun _ _ _ => ?_) ?_ | with_reducible refine wf_foldl (fun _ _ _ => ?_) ?_ | with_reducible refine sound_foldl_snd (fun _ _ _ => ?_) ?_ | with_reducible refine State.onCore_sound ?_ ?_ | split)
  all_goals simp +contextual (maxDischargeDepth := 20) [hs]

@[simp] theorem execRefillComplete_sound (core fid : Nat) (s : State) (hs : s.Sound) :
    OutSound (execRefillComplete core fid s) := by
  unfold execRefillComplete
  repeat' (first | dsimp only | split)
  all_goals simp +contextual (maxDischargeDepth := 20) [hs]

@[simp] theorem execFrameRelease_sound (core fid : Nat) (s : State) (hs : s.Sound) :
    OutSound (execFrameRelease core fid s) := by
  unfold execFrameRelease
  repeat' (first | dsimp only | split)
  all_goals simp [hs]

@[simp] theorem State.drop_sound (s : State) (i : Nat) (hs : s.Sound) :
    (State.drop s i).Sound := by
  unfold State.drop
  all_goals simp [hs]

@[simp] theorem execSignalArrival_sound (pkt : Nat) (s : State) (hs : s.Sound) :
    OutSound (execSignalArrival pkt s) := by
  unfold execSignalArrival
  repeat' (first | dsimp only | split)
  all_goals simp [hs]

@[simp] theorem State.deliver_sound (s : State) (core : Nat) (d : Delivery) (h : Header) (hs : s.Sound) :
    SomeSound (State.deliver s core d h) := by
  unfold State.deliver
  repeat' (first | dsimp only | with_reducible refine State.onCore_sound ?_ ?_ | split)
  all_goals (first | with_reducible assumption | (simp +contextual (maxDischargeDepth := 20); done)
                   | (rename _ = some (_, _) => e; have hz := sound_of_somePair e (by simp +contextual (maxDischargeDepth := 20) [hs]); simp +contextual (maxDischargeDepth := 20) [hz]))

@[simp] theorem State.receive_sound (s : State) (core : Nat) (d : Delivery) (h : Header) (entry : List Word) (report : Bool) (queue : Option Nat) (hs : s.Sound) :
    SomeSound (State.receive s core d h entry report queue) := by
  unfold State.receive
  repeat' (first | dsimp only | with_reducible refine State.onCore_sound ?_ ?_ | split)
  all_goals simp +contextual (maxDischargeDepth := 20) [hs]

@[simp] theorem State.badHandler_sound (s : State) (core region handler : Nat) (hs : s.Sound) :
    (State.badHandler s core region handler).Sound := by
  unfold State.badHandler
  repeat' dsimp only
  all_goals simp [hs]

@[simp] theorem State.takeMessage_sound (s : State) (core : Nat) (p : Packet) (chk : Except CodeStop Header) (hs : s.Sound) :
    SomeSound (State.takeMessage s core p chk) := by
  unfold State.takeMessage
  repeat' (first | dsimp only | split)
  all_goals simp [hs]

@[simp] theorem State.readHandler_sound (s : State) (core : Nat) (p : Packet) (hs : s.Sound) :
    (State.readHandler s core p).Sound := by
  unfold State.readHandler
  split <;> simp [hs]

@[simp] theorem State.deliverMessage_sound (s : State) (pkt core : Nat) (p : Packet) (hs : s.Sound) :
    (State.deliverMessage s pkt core p).Sound := by
  unfold State.deliverMessage
  repeat' (first | dsimp only | with_reducible refine State.onCore_sound ?_ ?_ | split)
  all_goals (first | with_reducible assumption | (simp +contextual (maxDischargeDepth := 20) [hs])
                   | (rename _ = some _ => e; have hz := sound_of_some e (by simp +contextual (maxDischargeDepth := 20) [hs]); simp +contextual (maxDischargeDepth := 20) [hz]))

@[simp] theorem execActiveMessageDelivery_sound (pkt : Nat) (s : State) (hs : s.Sound) :
    OutSound (execActiveMessageDelivery pkt s) := by
  unfold execActiveMessageDelivery
  repeat' (first | dsimp only | split)
  all_goals (first | with_reducible assumption | (simp +contextual (maxDischargeDepth := 20) [hs]))

@[simp] theorem execFaultRecordDelivery_sound (pkt : Nat) (s : State) (hs : s.Sound) :
    OutSound (execFaultRecordDelivery pkt s) := by
  unfold execFaultRecordDelivery
  repeat' (first | dsimp only | split)
  all_goals (first | with_reducible assumption | (simp +contextual (maxDischargeDepth := 20) [hs]))

@[simp] theorem State.bumpHead_sound (s : State) (g : Region) (core : Nat) (hs : s.Sound) :
    (State.bumpHead s g core).Sound := by
  unfold State.bumpHead
  repeat' dsimp only
  all_goals simp [hs]

@[simp] theorem State.advanceHead_sound (s : State) (g : Region) (core n : Nat) (hs : s.Sound) :
    (State.advanceHead s g core n).Sound := by
  unfold State.advanceHead
  repeat' (first | dsimp only | with_reducible refine sound_foldl (fun _ _ _ => ?_) ?_ | with_reducible refine wf_foldl (fun _ _ _ => ?_) ?_ | with_reducible refine sound_foldl_snd (fun _ _ _ => ?_) ?_ | split)
  all_goals first | with_reducible assumption | (simp +contextual (maxDischargeDepth := 20) [hs]) | simp +contextual (maxDischargeDepth := 20) [*]

@[simp] theorem State.takeEntry_sound (s : State) (g : Region) (core k : Nat) (hs : s.Sound) :
    (State.takeEntry s g core k).Sound := by
  unfold State.takeEntry
  dsimp only
  split <;> simp [hs]

@[simp] theorem State.deliverEntry_sound (s : State) (core : Nat) (p : Packet) (t : State) (ht : t.Sound) :
    SomeSound (State.deliverEntry s core p t) := by
  unfold State.deliverEntry
  repeat' (first | dsimp only | split)
  all_goals simp [ht]

@[simp] theorem State.segmentFault_sound (s : State) (core region : Nat) (hs : s.Sound) :
    (State.segmentFault s core region).Sound := by
  unfold State.segmentFault
  simp [hs]

@[simp] theorem execOverflowEntryTake_sound (core region idx : Nat) (s : State) (hs : s.Sound) :
    OutSound (execOverflowEntryTake core region idx s) := by
  unfold execOverflowEntryTake
  rw [OutSound.next]
  split
  · exact hs
  · split
    · exact hs
    · split
      · exact hs
      · split
        · exact State.segmentFault_sound _ _ _ hs
        · split
          · exact State.segmentFault_sound _ _ _ (State.onCore_sound (State.takeEntry_sound _ _ _ _ hs)
              ((State.takeEntry_sound _ _ _ _ hs).core _))
          · dsimp only
            split
            · split
              · simp (maxDischargeDepth := 20) [hs]
              · exact hs
            · split
              · split
                · exact State.awaitPage_sound _ _ hs
                · split
                  · have ht := sound_of_some ‹_ = some _›
                      (State.deliverEntry_sound _ _ _ _
                      (State.readHandler_sound _ _ _ (State.takeEntry_sound _ _ _ _ hs)))
                    simp [ht]
                  · exact hs
              · exact hs

@[simp] theorem State.retryMessage_sound (s : State) (core : Nat) (hs : s.Sound) :
    (State.retryMessage s core).Sound := by
  unfold State.retryMessage
  repeat' (first | dsimp only | with_reducible refine State.onCore_sound ?_ ?_ | split)
  all_goals (first | with_reducible assumption | (simp +contextual (maxDischargeDepth := 20) [hs])
                   | (rename _ = some _ => e; have hz := sound_of_some e (by simp +contextual (maxDischargeDepth := 20) [hs]); simp +contextual (maxDischargeDepth := 20) [hz]))

@[simp] theorem State.requestQueued_sound (s : State) (core fid : Nat) (hs : s.Sound) :
    (State.requestQueued s core fid).Sound := by
  unfold State.requestQueued
  repeat' (first | dsimp only | split)
  all_goals simp [hs]

@[simp] theorem State.retryBlocked_sound (s : State) (core : Nat) (hs : s.Sound) :
    (State.retryBlocked s core).Sound := by
  unfold State.retryBlocked
  repeat' (first | dsimp only | with_reducible refine State.onCore_sound ?_ ?_ | split)
  all_goals simp +contextual (maxDischargeDepth := 20) [hs]

@[simp] theorem State.retryIntake_sound (s : State) (core : Nat) (hs : s.Sound) :
    (State.retryIntake s core).Sound := by
  unfold State.retryIntake
  repeat' (first | dsimp only | with_reducible refine sound_foldl (fun _ _ _ => ?_) ?_ | with_reducible refine wf_foldl (fun _ _ _ => ?_) ?_ | with_reducible refine sound_foldl_snd (fun _ _ _ => ?_) ?_ | with_reducible refine State.onCore_sound ?_ ?_ | split)
  all_goals first | with_reducible assumption | (simp +contextual (maxDischargeDepth := 20) [hs])

@[simp] theorem State.endOp_sound (s : State) (core : Nat) (o : Op) (tag : Option (BitVec 32)) (hs : s.Sound) :
    (State.endOp s core o tag).Sound := by
  unfold State.endOp
  repeat' (first | dsimp only | split)
  all_goals simp [hs]

@[simp] theorem State.opFault_sound (s : State) (core : Nat) (o : Op) (code addr : Nat) (hs : s.Sound) :
    (State.opFault s core o code addr).Sound := by
  unfold State.opFault
  all_goals simp [hs]

@[simp] theorem State.changeSaved_sound (s : State) (core fid off : Nat) (f : Word → Word) (hs : s.Sound) :
    (State.changeSaved s core fid off f).Sound := by
  unfold State.changeSaved
  repeat' (first | dsimp only | with_reducible refine OkSound.bind' fun _ _ => ?_ | with_reducible refine State.onCore_sound ?_ ?_ | split)
  all_goals simp +contextual (maxDischargeDepth := 20) [hs]

@[simp] theorem State.orFlags_sound (s : State) (core : Nat) (o : Origin) (flags : BitVec 8) (hs : s.Sound) :
    (State.orFlags s core o flags).Sound := by
  unfold State.orFlags
  repeat' (first | dsimp only | with_reducible refine State.onCore_sound ?_ ?_ | split)
  all_goals simp +contextual (maxDischargeDepth := 20) [hs]

@[simp] theorem State.replayFlags_sound (s : State) (core : Nat) (o : Origin) (raised : List (ChainStep × BitVec 8))
    (hs : s.Sound) : (State.replayFlags s core o raised).Sound := by
  unfold State.replayFlags
  repeat' (first | dsimp only | with_reducible refine sound_foldl (fun _ _ _ => ?_) ?_ | with_reducible refine State.onCore_sound ?_ ?_ | split)
  all_goals first
    | exact State.orFlags_sound _ _ _ _ ‹_›
    | simp +contextual (maxDischargeDepth := 20) [hs]

@[simp] theorem Core.resolveRun_sound (c : Core) (sym : Nat) (v : Word) (hc : Memory.wf c.lmem = true) :
    Memory.wf (Core.resolveRun c sym v).lmem = true := by
  unfold Core.resolveRun
  repeat' (first | dsimp only | with_reducible refine sound_foldl (fun _ _ _ => ?_) ?_ | with_reducible refine wf_foldl (fun _ _ _ => ?_) ?_ | with_reducible refine sound_foldl_snd (fun _ _ _ => ?_) ?_ | split)
  all_goals simp [hc]

@[simp] theorem State.resolveSym_sound (s : State) (core sym : Nat) (v : Word) (hs : s.Sound) :
    (State.resolveSym s core sym v).Sound := by
  unfold State.resolveSym
  repeat' (first | dsimp only | with_reducible refine State.onCore_sound ?_ ?_ | split)
  all_goals simp +contextual (maxDischargeDepth := 20) [hs]

@[simp] theorem State.failSym_sound (s : State) (core sym code addr : Nat) (hs : s.Sound) :
    (State.failSym s core sym code addr).Sound := by
  unfold State.failSym
  repeat' (first | dsimp only | with_reducible refine State.onCore_sound ?_ ?_ | split)
  all_goals simp +contextual (maxDischargeDepth := 20) [hs]

@[simp] theorem State.failLate_sound (s : State) (core : Nat) (o : Op) (syms : List Nat) (code addr : Nat) (hs : s.Sound) :
    (State.failLate s core o syms code addr).Sound := by
  unfold State.failLate
  repeat' (first | dsimp only | with_reducible refine sound_foldl (fun _ _ _ => ?_) ?_ | with_reducible refine wf_foldl (fun _ _ _ => ?_) ?_ | with_reducible refine sound_foldl_snd (fun _ _ _ => ?_) ?_ | split)
  all_goals first | with_reducible assumption | (simp +contextual (maxDischargeDepth := 20) [hs]) | simp +contextual (maxDischargeDepth := 20) [*]

@[simp] theorem execSymbolValueArrival_sound (pkt : Nat) (s : State) (hs : s.Sound) :
    OutSound (execSymbolValueArrival pkt s) := by
  unfold execSymbolValueArrival
  repeat' (first | dsimp only | with_reducible refine sound_foldl (fun _ _ _ => ?_) ?_ | with_reducible refine wf_foldl (fun _ _ _ => ?_) ?_ | with_reducible refine sound_foldl_snd (fun _ _ _ => ?_) ?_ | split)
  all_goals simp +contextual (maxDischargeDepth := 20) [hs]

@[simp] theorem State.watchDeferred_sound (s : State) (core : Nat) (o : Origin) (write : Bool) (accesses : List (Nat × Nat)) (hs : s.Sound) :
    (State.watchDeferred s core o write accesses).Sound := by
  unfold State.watchDeferred
  repeat' (first | dsimp only | split)
  all_goals simp [hs]

@[simp] theorem State.deferFault_sound (s : State) (core : Nat) (o : Origin) (code addr : Nat) (hs : s.Sound) :
    (State.deferFault s core o code addr).Sound := by
  unfold State.deferFault
  all_goals simp [hs]

@[simp] theorem State.perform_sound (s : State) (core : Nat) (e : PoolEntry) (body : OpBody) (rel : Bool) (hs : s.Sound) :
    (State.perform s core e body rel).Sound := by
  unfold State.perform
  repeat' (first | dsimp only | split)
  all_goals simp [hs]

@[simp] theorem State.performPairs_sound (s : State) (core : Nat) (e : PoolEntry) (k : Nat) (pairs : Nat → List (Word × Word)) (hs : s.Sound) :
    (State.performPairs s core e k pairs).Sound := by
  unfold State.performPairs
  repeat' (first | dsimp only | with_reducible refine OkSound.bind' fun _ _ => ?_ | split)
  all_goals simp [hs]

@[simp] theorem State.performEffect_sound (s : State) (core : Nat) (e : PoolEntry) (f : Effect) (ws : List Word) (hs : s.Sound) :
    (State.performEffect s core e f ws).Sound := by
  unfold State.performEffect
  repeat' (first | dsimp only | split)
  all_goals simp [hs]

@[simp] theorem State.handleEntry_sound (s : State) (core k : Nat) (e : PoolEntry) (hs : s.Sound) :
    (State.handleEntry s core k e).Sound := by
  unfold State.handleEntry
  repeat' (first | dsimp only | with_reducible refine sound_foldl (fun _ _ _ => ?_) ?_ | with_reducible refine wf_foldl (fun _ _ _ => ?_) ?_ | with_reducible refine sound_foldl_snd (fun _ _ _ => ?_) ?_ | with_reducible refine State.onCore_sound ?_ ?_ | split)
  all_goals simp +contextual (maxDischargeDepth := 20) [hs]

@[simp] theorem execDeferredEffectPerform_sound (core : Nat) (s : State) (hs : s.Sound) :
    OutSound (execDeferredEffectPerform core s) := by
  unfold execDeferredEffectPerform
  repeat' (first | dsimp only | with_reducible refine State.onCore_sound ?_ ?_ | split)
  all_goals simp +contextual (maxDischargeDepth := 20) [hs]

@[simp] theorem Core.dropSym_sound (c : Core) (sym : Nat) (hc : Memory.wf c.lmem = true) :
    Memory.wf (Core.dropSym c sym).lmem = true := by
  unfold Core.dropSym
  repeat' (first | dsimp only | split)
  all_goals simp [hc]

@[simp] theorem execLateLoadFail_sound (core sym : Nat) (s : State) (hs : s.Sound) :
    OutSound (execLateLoadFail core sym s) := by
  unfold execLateLoadFail
  repeat' (first | dsimp only | with_reducible refine OkSound.bind' fun _ _ => ?_ | with_reducible refine State.onCore_sound ?_ ?_ | split)
  all_goals simp +contextual (maxDischargeDepth := 20) [hs]

@[simp] theorem State.gldDone_sound (s : State) (core : Nat) (o : Op) (size : Nat) (y : Word) (byt err : Bool) (hs : s.Sound) :
    (State.gldDone s core o size y byt err).Sound := by
  unfold State.gldDone
  repeat' (first | dsimp only | split)
  all_goals simp [hs]

@[simp] theorem Core.pairDone_sound (c : Core) (upd : Nat) (hc : Memory.wf c.lmem = true) :
    Memory.wf (Core.pairDone c upd).lmem = true := by
  unfold Core.pairDone
  repeat' (first | dsimp only | split)
  all_goals simp [hc]

@[simp] theorem Core.onCopy_sound (c : Core) (id : Nat) (f : CopyCmd → CopyCmd) (hc : Memory.wf c.lmem = true) :
    Memory.wf (Core.onCopy c id f).lmem = true := by
  unfold Core.onCopy
  repeat' (first | dsimp only | split)
  all_goals simp [hc]

@[simp] theorem State.discardOp_sound (s : State) (core : Nat) (o : Op) (code addr : Nat) (told : Bool) (hs : s.Sound) :
    (State.discardOp s core o code addr told).Sound := by
  unfold State.discardOp
  repeat' (first | dsimp only | with_reducible refine State.onCore_sound ?_ ?_ | split)
  all_goals simp +contextual (maxDischargeDepth := 20) [hs]

@[simp] theorem State.dropCached_sound (s : State) (core asid va : Nat) (hs : s.Sound) :
    (State.dropCached s core asid va).Sound := by
  unfold State.dropCached
  repeat' (first | dsimp only | with_reducible refine State.onCore_sound ?_ ?_)
  all_goals simp +contextual (maxDischargeDepth := 20) [hs]

@[simp] theorem execResumeAct_sound (pkt : Nat) (s : State) (hs : s.Sound) :
    OutSound (execResumeAct pkt s) := by
  unfold execResumeAct
  repeat' (first | dsimp only | with_reducible refine State.onCore_sound ?_ ?_ | split)
  all_goals simp +contextual (maxDischargeDepth := 20) [hs]

@[simp] theorem State.translate_sound (s : State) (core asid va : Nat) (hs : s.Sound) :
    (State.translate s core asid va).2.Sound := by
  unfold State.translate
  repeat' (first | dsimp only | split)
  all_goals simp [hs]

@[simp] theorem State.holdAt_sound (s : State) (core e : Nat) (o : Op) (va kind level time : Nat) (hs : s.Sound) :
    (State.holdAt s core e o va kind level time).Sound := by
  unfold State.holdAt
  repeat' (first | dsimp only | split)
  all_goals simp +contextual (maxDischargeDepth := 20) [hs]

@[simp] theorem State.holdOp_sound (s : State) (core k : Nat) (o : Op) (va kind level : Nat) (hs : s.Sound) :
    (State.holdOp s core k o va kind level).Sound := by
  unfold State.holdOp
  repeat' (first | dsimp only | with_reducible refine State.onCore_sound ?_ ?_ | split)
  all_goals simp +contextual (maxDischargeDepth := 20) [hs]

@[simp] theorem State.combine_sound (s : State) (core : Nat) (p : UPair) (hs : s.Sound) :
    (State.combine s core p).Sound := by
  unfold State.combine
  repeat' (first | dsimp only | with_reducible refine sound_foldl (fun _ _ _ => ?_) ?_ | with_reducible refine wf_foldl (fun _ _ _ => ?_) ?_ | with_reducible refine sound_foldl_snd (fun _ _ _ => ?_) ?_ | with_reducible refine State.onCore_sound ?_ ?_ | split)
  all_goals first | with_reducible assumption | (simp +contextual (maxDischargeDepth := 20) [hs]) | simp +contextual (maxDischargeDepth := 20) [*]

@[simp] theorem State.injectOp_sound (s : State) (core k : Nat) (o : Op) (t : Tlb) (dst : Agent) (pa : Nat) (sp : Space) (hs : s.Sound) :
    (State.injectOp s core k o t dst pa sp).Sound := by
  unfold State.injectOp
  repeat' (first | dsimp only | with_reducible refine OkSound.bind' fun _ _ => ?_ | with_reducible refine State.onCore_sound ?_ ?_ | split)
  all_goals simp +contextual (maxDischargeDepth := 20) [hs]

@[simp] theorem execTranslationWalkComplete_sound (core idx : Nat) (s : State) (hs : s.Sound) :
    OutSound (execTranslationWalkComplete core idx s) := by
  unfold execTranslationWalkComplete
  repeat' (first | dsimp only | with_reducible refine State.onCore_sound ?_ ?_ | split)
  all_goals simp +contextual (maxDischargeDepth := 20) [hs]

@[simp] theorem execFaultWaitPromote_sound (core : Nat) (s : State) (hs : s.Sound) :
    OutSound (execFaultWaitPromote core s) := by
  unfold execFaultWaitPromote
  repeat' (first | dsimp only | split)
  all_goals simp +contextual (maxDischargeDepth := 20) [hs]

@[simp] theorem execPageZeroingComplete_sound (entry : Nat) (s : State) (hs : s.Sound) :
    OutSound (execPageZeroingComplete entry s) := by
  unfold execPageZeroingComplete
  repeat' (first | dsimp only | with_reducible refine sound_foldl (fun _ _ _ => ?_) ?_ | with_reducible refine wf_foldl (fun _ _ _ => ?_) ?_ | with_reducible refine sound_foldl_snd (fun _ _ _ => ?_) ?_ | split)
  all_goals simp +contextual (maxDischargeDepth := 20) [hs]

@[simp] theorem State.reply_sound (s : State) (p : Packet) (b : PBody) (hs : s.Sound) :
    (State.reply s p b).Sound := by
  unfold State.reply
  all_goals simp [hs]

@[simp] theorem State.readLine_sound (s : State) (pa size : Nat) (lu : Bool) (evp : Evp) (sp : Space) (src : Agent) (hs : s.Sound) :
    (State.readLine s pa size lu evp sp src).2.2.Sound := by
  unfold State.readLine
  repeat' (first | dsimp only | with_reducible refine OkSound.bind' fun _ _ => ?_ | split)
  all_goals simp +contextual (maxDischargeDepth := 20) [hs]

@[simp] theorem execHomeSliceRead_sound (pkt : Nat) (s : State) (hs : s.Sound) :
    OutSound (execHomeSliceRead pkt s) := by
  unfold execHomeSliceRead
  repeat' (first | dsimp only | split)
  all_goals simp +contextual (maxDischargeDepth := 20) [hs]

@[simp] theorem State.writeLine_sound (s : State) (pa : Nat) (bs : List (Option Byte)) (bad : List Nat) (evp : Evp) (sp : Space) (hs : s.Sound) :
    (State.writeLine s pa bs bad evp sp).Sound := by
  unfold State.writeLine
  repeat' (first | dsimp only | split)
  all_goals simp +contextual (maxDischargeDepth := 20) [hs]

@[simp] theorem State.propagate_sound (s : State) (p : Packet) (op pa : Nat) (bs : List (Option Byte)) (bad : List Nat) (tag : BitVec 32) (old : Option (BitVec 128)) (hs : s.Sound) :
    (State.propagate s p op pa bs bad tag old).Sound := by
  unfold State.propagate
  repeat' (first | dsimp only | with_reducible refine sound_foldl (fun _ _ _ => ?_) ?_ | with_reducible refine wf_foldl (fun _ _ _ => ?_) ?_ | with_reducible refine sound_foldl_snd (fun _ _ _ => ?_) ?_)
  all_goals first | with_reducible assumption | (simp +contextual (maxDischargeDepth := 20) [hs]) | simp +contextual (maxDischargeDepth := 20) [*]

@[simp] theorem State.noticeTail_sound (s : State) (host : Bool) (a n : Nat) (hs : s.Sound) :
    (State.noticeTail s host a n).Sound := by
  unfold State.noticeTail
  repeat' (first | dsimp only | split)
  all_goals simp [hs]

@[simp] theorem execHomeSliceWrite_sound (pkt : Nat) (s : State) (hs : s.Sound) :
    OutSound (execHomeSliceWrite pkt s) := by
  unfold execHomeSliceWrite
  repeat' (first | dsimp only | split)
  all_goals simp +contextual (maxDischargeDepth := 20) [hs]

@[simp] theorem execHomeSliceAtomic_sound (pkt : Nat) (s : State) (hs : s.Sound) :
    OutSound (execHomeSliceAtomic pkt s) := by
  unfold execHomeSliceAtomic
  repeat' (first | dsimp only | split)
  all_goals simp +contextual (maxDischargeDepth := 20) [hs]

@[simp] theorem execHomeSlicePref_sound (pkt : Nat) (s : State) (hs : s.Sound) :
    OutSound (execHomeSlicePref pkt s) := by
  unfold execHomeSlicePref
  repeat' (first | dsimp only | split)
  all_goals simp +contextual (maxDischargeDepth := 20) [hs]

@[simp] theorem execBackInvalidationAck_sound (line : Nat) (s : State) (hs : s.Sound) :
    OutSound (execBackInvalidationAck line s) := by
  unfold execBackInvalidationAck
  all_goals simp [hs]

@[simp] theorem execWaycfgRequest_sound (pkt : Nat) (s : State) (hs : s.Sound) :
    OutSound (execWaycfgRequest pkt s) := by
  unfold execWaycfgRequest
  repeat' (first | dsimp only | split)
  all_goals simp +contextual (maxDischargeDepth := 20) [hs]

@[simp] theorem execWayConversionComplete_sound (slice : Nat) (s : State) (hs : s.Sound) :
    OutSound (execWayConversionComplete slice s) := by
  unfold execWayConversionComplete
  repeat' (first | dsimp only | split)
  all_goals simp +contextual (maxDischargeDepth := 20) [hs]

@[simp] theorem State.sliceFault_sound (s : State) (o : Op) (slice : Agent) (code : Nat) (hs : s.Sound) :
    (State.sliceFault s o slice code).Sound := by
  unfold State.sliceFault
  repeat' (first | dsimp only | split)
  all_goals simp [hs]

@[simp] theorem State.landTag_sound (s : State) (core : Nat) (o : Op) (tag : BitVec 32) (hs : s.Sound) :
    (State.landTag s core o tag).Sound := by
  unfold State.landTag
  repeat' (first | dsimp only | with_reducible refine State.onCore_sound ?_ ?_ | split)
  all_goals simp +contextual (maxDischargeDepth := 20) [hs]

@[simp] theorem execWriteAckArrival_sound (pkt : Nat) (s : State) (hs : s.Sound) :
    OutSound (execWriteAckArrival pkt s) := by
  unfold execWriteAckArrival
  repeat' (first | dsimp only | split)
  all_goals simp +contextual (maxDischargeDepth := 20) [hs]

@[simp] theorem execUpdateAcceptanceArrival_sound (pkt : Nat) (s : State) (hs : s.Sound) :
    OutSound (execUpdateAcceptanceArrival pkt s) := by
  unfold execUpdateAcceptanceArrival
  repeat' (first | dsimp only | with_reducible refine sound_foldl (fun _ _ _ => ?_) ?_ | with_reducible refine wf_foldl (fun _ _ _ => ?_) ?_ | with_reducible refine sound_foldl_snd (fun _ _ _ => ?_) ?_ | with_reducible refine State.onCore_sound ?_ ?_ | split)
  all_goals simp +contextual (maxDischargeDepth := 20) [hs]

@[simp] theorem execGldLanding_sound (pkt : Nat) (s : State) (hs : s.Sound) :
    OutSound (execGldLanding pkt s) := by
  unfold execGldLanding
  repeat' (first | dsimp only | with_reducible refine State.onCore_sound ?_ ?_ | split)
  all_goals simp +contextual (maxDischargeDepth := 20) [hs]

@[simp] theorem State.dropCode_sound (s : State) (f : ICLine → Bool) (hs : s.Sound) :
    (State.dropCode s f).Sound := by
  unfold State.dropCode
  repeat' dsimp only
  all_goals simp [hs]

@[simp] theorem State.dropTlb_sound (s : State) (f : Tlb → Bool) (hs : s.Sound) : (s.dropTlb f).Sound := by
  simp [State.dropTlb, hs]

@[simp] theorem State.passBarrier_sound (s : State) (core : Nat) (b : Barrier) (hs : s.Sound) :
    (State.passBarrier s core b).Sound := by
  unfold State.passBarrier
  repeat' (first | dsimp only | split)
  all_goals simp [hs]

@[simp] theorem execBarrierConditionMet_sound (core idx : Nat) (s : State) (hs : s.Sound) :
    OutSound (execBarrierConditionMet core idx s) := by
  unfold execBarrierConditionMet
  repeat' (first | dsimp only | with_reducible refine State.onCore_sound ?_ ?_ | split)
  all_goals simp +contextual (maxDischargeDepth := 20) [hs]

@[simp] theorem execCombinerTimeout_sound (core chiplet : Nat) (s : State) (hs : s.Sound) :
    OutSound (execCombinerTimeout core chiplet s) := by
  unfold execCombinerTimeout
  repeat' (first | dsimp only | with_reducible refine sound_foldl (fun _ _ _ => ?_) ?_ | with_reducible refine wf_foldl (fun _ _ _ => ?_) ?_ | with_reducible refine sound_foldl_snd (fun _ _ _ => ?_) ?_ | with_reducible refine State.onCore_sound ?_ ?_ | split)
  all_goals simp +contextual (maxDischargeDepth := 20) [hs]

@[simp] theorem execUpdatePacketAccept_sound (pkt : Nat) (s : State) (hs : s.Sound) :
    OutSound (execUpdatePacketAccept pkt s) := by
  unfold execUpdatePacketAccept
  repeat' (first | dsimp only | split)
  all_goals simp +contextual (maxDischargeDepth := 20) [hs]

@[simp] theorem State.directApply_sound (s : State) (m bid oper line : Nat) (hs : s.Sound) :
    (State.directApply s m bid oper line).Sound := by
  unfold State.directApply
  repeat' (first | dsimp only | split)
  all_goals simp [hs]

@[simp] theorem State.evictBins_sound (s : State) (m bid : Nat) (bs : List Bin) (hs : s.Sound) :
    (State.evictBins s m bid bs).Sound := by
  unfold State.evictBins
  repeat' (first | dsimp only | with_reducible refine OkSound.bind' fun _ _ => ?_ | with_reducible refine sound_foldl (fun _ _ _ => ?_) ?_ | with_reducible refine wf_foldl (fun _ _ _ => ?_) ?_ | with_reducible refine sound_foldl_snd (fun _ _ _ => ?_) ?_ | split)
  all_goals first | with_reducible assumption | (simp +contextual (maxDischargeDepth := 20) [hs]) | simp +contextual (maxDischargeDepth := 20) [*]

@[simp] theorem State.evict_sound (s : State) (m bid : Nat) (hs : s.Sound) :
    (State.evict s m bid).Sound := by
  unfold State.evict
  all_goals simp [hs]

@[simp] theorem State.makeRoom_sound (m bid n : Nat) : ∀ s : State, s.Sound → (s.makeRoom m bid n).Sound := by
  induction n with
  | zero => intro s hs; exact hs
  | succ n ih =>
    intro s hs; unfold State.makeRoom
    repeat' split
    · exact ih _ (by simp [hs])
    · exact hs
    · exact hs
    · exact ih _ (by simp [hs])

@[simp] theorem State.sortPair_sound (s : State) (m : Nat) (p : UPair) (hs : s.Sound) :
    (State.sortPair s m p).Sound := by
  unfold State.sortPair
  repeat' (first | dsimp only | split)
  all_goals simp +contextual (maxDischargeDepth := 20) [hs]

@[simp] theorem execSortBatch_sound (unit : Nat) (s : State) (hs : s.Sound) :
    OutSound (execSortBatch unit s) := by
  unfold execSortBatch
  repeat' (first | dsimp only | with_reducible refine sound_foldl (fun _ _ _ => ?_) ?_ | with_reducible refine wf_foldl (fun _ _ _ => ?_) ?_ | with_reducible refine sound_foldl_snd (fun _ _ _ => ?_) ?_)
  all_goals simp +contextual (maxDischargeDepth := 20) [hs]

@[simp] theorem execMergeApply_sound (unit bid : Nat) (s : State) (hs : s.Sound) :
    OutSound (execMergeApply unit bid s) := by
  unfold execMergeApply
  repeat' (first | dsimp only | split)
  all_goals simp [hs]

@[simp] theorem State.uapplyOn_sound (s : State) (core k : Nat) (o : Op) (va left n : Nat) (t : Tlb) (hs : s.Sound) :
    (State.uapplyOn s core k o va left n t).Sound := by
  unfold State.uapplyOn
  repeat' (first | dsimp only | split)
  all_goals simp [hs]

@[simp] theorem State.uapplyAt_sound (s : State) (core k : Nat) (o : Op) (va left : Nat) (t : Tlb) (hs : s.Sound) :
    (State.uapplyAt s core k o va left t).Sound := by
  unfold State.uapplyAt
  repeat' (first | dsimp only | with_reducible refine OkSound.bind' fun _ _ => ?_ | split)
  all_goals simp [hs]

@[simp] theorem execUapplyLineApply_sound (core idx : Nat) (s : State) (hs : s.Sound) :
    OutSound (execUapplyLineApply core idx s) := by
  unfold execUapplyLineApply
  repeat' (first | dsimp only | with_reducible refine State.onCore_sound ?_ ?_ | split)
  all_goals simp +contextual (maxDischargeDepth := 20) [hs]

@[simp] theorem Core.readAhead_sound (c : Core) (cmd use addr unit : Nat) (hc : Memory.wf c.lmem = true) :
    Memory.wf (Core.readAhead c cmd use addr unit).lmem = true := by
  unfold Core.readAhead
  repeat' (first | dsimp only | split)
  all_goals simp [hc]

@[simp] theorem Core.forgetUse_sound (c : Core) (cmd : Nat) (p : Seen → Bool) (hc : Memory.wf c.lmem = true) :
    Memory.wf (Core.forgetUse c cmd p).lmem = true := by
  unfold Core.forgetUse
  simp [hc]

@[simp] theorem Core.forgetNibbles_sound (c : Core) (cmd n : Nat) (hc : Memory.wf c.lmem = true) :
    Memory.wf (Core.forgetNibbles c cmd n).lmem = true := Core.forgetUse_sound _ _ _ hc

@[simp] theorem Core.forgetRow_sound (c : Core) (cmd next : Nat) (hc : Memory.wf c.lmem = true) :
    Memory.wf (Core.forgetRow c cmd next).lmem = true := Core.forgetUse_sound _ _ _ hc

@[simp] theorem Core.forget_sound (c : Core) (cmd : Nat) (hc : Memory.wf c.lmem = true) :
    Memory.wf (Core.forget c cmd).lmem = true := by
  unfold Core.forget
  simp [hc]

@[simp] theorem Core.putPart_sound (c : Core) (a : Nat) (bs : List Byte) (bad : List Nat) (u : Nat × Nat) (hc : Memory.wf c.lmem = true) :
    Memory.wf (Core.putPart c a bs bad u).lmem = true := by
  unfold Core.putPart
  all_goals simp [hc]

@[simp] theorem Core.layAhead_sound (c : Core) (x : Laid) (unit : Nat) (bs : List Byte) (bad : List Nat) (hc : Memory.wf c.lmem = true) :
    Memory.wf (Core.layAhead c x unit bs bad).lmem = true := by
  unfold Core.layAhead
  repeat' (first | dsimp only | split)
  all_goals simp [hc]

@[simp] theorem Core.layRest_sound (c : Core) (core cmd pos unit a : Nat) (bs : List Byte) (bad : List Nat) (hc : Memory.wf c.lmem = true) :
    Memory.wf (Core.layRest c core cmd pos unit a bs bad).lmem = true := by
  unfold Core.layRest
  repeat' (first | dsimp only | with_reducible refine sound_foldl (fun _ _ _ => ?_) ?_ | with_reducible refine wf_foldl (fun _ _ _ => ?_) ?_ | with_reducible refine sound_foldl_snd (fun _ _ _ => ?_) ?_ | split)
  all_goals first | with_reducible assumption | (simp +contextual (maxDischargeDepth := 20) [hc]) | simp +contextual (maxDischargeDepth := 20) [*]

@[simp] theorem Core.publish_sound (c : Core) (k : CopyCmd) (hc : Memory.wf c.lmem = true) :
    Memory.wf (Core.publish c k).lmem = true := by
  unfold Core.publish
  repeat' (first | dsimp only | split)
  all_goals simp [hc]

@[simp] theorem Core.publishEnded_sound (c : Core) (k : CopyCmd) (hc : Memory.wf c.lmem = true) :
    Memory.wf (Core.publishEnded c k).lmem = true := by
  unfold Core.publishEnded
  repeat' (first | dsimp only | split)
  all_goals simp [hc]

@[simp] theorem State.endCopy_sound (s : State) (core : Nat) (k : CopyCmd) (hs : s.Sound) :
    (State.endCopy s core k).Sound := by
  unfold State.endCopy
  repeat' (first | dsimp only | with_reducible refine State.onCore_sound ?_ ?_ | split)
  all_goals simp +contextual (maxDischargeDepth := 20) [hs]

@[simp] theorem State.settleCopy_sound (s : State) (core id : Nat) (hs : s.Sound) :
    (State.settleCopy s core id).Sound := by
  unfold State.settleCopy
  repeat' (first | dsimp only | with_reducible refine State.onCore_sound ?_ ?_ | split)
  all_goals simp +contextual (maxDischargeDepth := 20) [hs]

@[simp] theorem State.settleCopies_sound (s : State) (core : Nat) (hs : s.Sound) :
    (State.settleCopies s core).Sound := by
  unfold State.settleCopies
  repeat' (first | dsimp only | with_reducible refine sound_foldl (fun _ _ _ => ?_) ?_ | with_reducible refine wf_foldl (fun _ _ _ => ?_) ?_ | with_reducible refine sound_foldl_snd (fun _ _ _ => ?_) ?_)
  all_goals first | with_reducible assumption | (simp +contextual (maxDischargeDepth := 20) [hs]) | simp +contextual (maxDischargeDepth := 20) [*]

@[simp] theorem State.pieceDone_sound (s : State) (core cmd pos bytes : Nat) (hs : s.Sound) :
    (State.pieceDone s core cmd pos bytes).Sound := by
  unfold State.pieceDone
  repeat' (first | dsimp only | with_reducible refine State.onCore_sound ?_ ?_ | split)
  all_goals simp +contextual (maxDischargeDepth := 20) [hs]

@[simp] theorem State.pieceFail_sound (s : State) (core cmd pos code addr : Nat) (hs : s.Sound) :
    (State.pieceFail s core cmd pos code addr).Sound := by
  unfold State.pieceFail
  repeat' (first | dsimp only | with_reducible refine State.onCore_sound ?_ ?_)
  all_goals simp +contextual (maxDischargeDepth := 20) [hs]

@[simp] theorem execCopyCommandStart_sound (core : Nat) (s : State) (hs : s.Sound) :
    OutSound (execCopyCommandStart core s) := by
  unfold execCopyCommandStart
  repeat' (first | dsimp only | with_reducible refine State.onCore_sound ?_ ?_ | split)
  all_goals simp +contextual (maxDischargeDepth := 20) [hs]

@[simp] theorem State.chargeCopy_sound (s : State) (core r n : Nat) (hs : s.Sound) :
    (State.chargeCopy s core r n).Sound := by
  unfold State.chargeCopy
  repeat' (first | dsimp only | split)
  all_goals simp [hs]

@[simp] theorem State.engineOp_sound (s : State) (core : Nat) (k : CopyCmd) (body : OpBody) (hs : s.Sound) :
    (State.engineOp s core k body).Sound := by
  unfold State.engineOp
  repeat' (first | dsimp only | with_reducible refine State.onCore_sound ?_ ?_)
  all_goals simp +contextual (maxDischargeDepth := 20) [hs]

@[simp] theorem State.addPiece_sound (s : State) (core : Nat) (k : CopyCmd) (len bytes left : Nat) (hs : s.Sound) :
    (State.addPiece s core k len bytes left).Sound := by
  unfold State.addPiece
  all_goals simp +contextual (maxDischargeDepth := 20) [hs]

@[simp] theorem State.issueElement_sound (s : State) (core : Nat) (k : CopyCmd) (hs : s.Sound) :
    (State.issueElement s core k).Sound := by
  unfold State.issueElement
  repeat' (first | dsimp only | with_reducible refine State.onCore_sound ?_ ?_ | split)
  all_goals simp +contextual (maxDischargeDepth := 20) [hs]

@[simp] theorem State.issueMulticast_sound (s : State) (core : Nat) (k : CopyCmd) (hs : s.Sound) :
    (State.issueMulticast s core k).Sound := by
  unfold State.issueMulticast
  repeat' (first | dsimp only | with_reducible refine sound_foldl (fun _ _ _ => ?_) ?_ | with_reducible refine wf_foldl (fun _ _ _ => ?_) ?_ | with_reducible refine sound_foldl_snd (fun _ _ _ => ?_) ?_ | with_reducible refine State.onCore_sound ?_ ?_ | split)
  all_goals first | with_reducible assumption | (simp +contextual (maxDischargeDepth := 20) [hs]) | simp +contextual (maxDischargeDepth := 20) [*]

@[simp] theorem execCopyPieceIssue_sound (core : Nat) (s : State) (hs : s.Sound) :
    OutSound (execCopyPieceIssue core s) := by
  unfold execCopyPieceIssue
  repeat' (first | dsimp only | with_reducible refine State.onCore_sound ?_ ?_ | split)
  all_goals simp +contextual (maxDischargeDepth := 20) [hs]

@[simp] theorem State.landPiece_sound (s : State) (core : Nat) (k : CopyCmd) (pos at_ src : Nat) (bs : List Byte) (bad : List Nat) (hs : s.Sound) :
    (State.landPiece s core k pos at_ src bs bad).Sound := by
  unfold State.landPiece
  repeat' (first | dsimp only | with_reducible refine State.onCore_sound ?_ ?_ | split)
  all_goals simp +contextual (maxDischargeDepth := 20) [hs]

@[simp] theorem State.pieceWritten_sound (s : State) (core cmd pos n : Nat) (bad : List Nat) (hs : s.Sound) :
    (State.pieceWritten s core cmd pos n bad).Sound := by
  unfold State.pieceWritten
  repeat' split
  all_goals simp [hs]

@[simp] theorem State.pieceRead_sound (s : State) (core : Nat) (k : CopyCmd) (pos : Nat) (bs : List Byte) (bad : List Nat) (hs : s.Sound) :
    (State.pieceRead s core k pos bs bad).Sound := by
  unfold State.pieceRead
  dsimp only
  split
  · exact State.onCore_sound (State.newSeq_sound _ _ hs) ((State.newSeq_sound _ _ hs).core _)
  · exact State.landPiece_sound _ _ _ _ _ _ _ _ hs

@[simp] theorem execCopyPieceComplete_sound (pkt : Nat) (s : State) (hs : s.Sound) :
    OutSound (execCopyPieceComplete pkt s) := by
  unfold execCopyPieceComplete
  repeat' (first | dsimp only | with_reducible refine OkSound.bind' fun _ _ => ?_ | with_reducible refine State.onCore_sound ?_ ?_ | split)
  all_goals simp +contextual (maxDischargeDepth := 20) [hs]

@[simp] theorem State.receiverFault_sound (s : State) (core sender cmd region code addr : Nat) (hs : s.Sound) :
    (State.receiverFault s core sender cmd region code addr).Sound := by
  unfold State.receiverFault
  repeat' (first | dsimp only | with_reducible refine State.onCore_sound ?_ ?_ | split)
  all_goals simp +contextual (maxDischargeDepth := 20) [hs]

@[simp] theorem execMulticastPieceArrival_sound (pkt : Nat) (s : State) (hs : s.Sound) :
    OutSound (execMulticastPieceArrival pkt s) := by
  unfold execMulticastPieceArrival
  repeat' (first | dsimp only | with_reducible refine State.onCore_sound ?_ ?_ | split)
  all_goals simp +contextual (maxDischargeDepth := 20) [hs]

@[simp] theorem execGatherRequestArrival_sound (pkt : Nat) (s : State) (hs : s.Sound) :
    OutSound (execGatherRequestArrival pkt s) := by
  unfold execGatherRequestArrival
  repeat' (first | dsimp only | split)
  all_goals simp +contextual (maxDischargeDepth := 20) [hs]

@[simp] theorem State.landElement_sound (s : State) (core : Nat) (o : Op) (bs : List Byte) (bad : List Nat) (fail : Nat) (hs : s.Sound) :
    (State.landElement s core o bs bad fail).Sound := by
  unfold State.landElement
  repeat' (first | dsimp only | split)
  all_goals simp [hs]

@[simp] theorem execGatherElementReturn_sound (pkt : Nat) (s : State) (hs : s.Sound) :
    OutSound (execGatherElementReturn pkt s) := by
  unfold execGatherElementReturn
  repeat' (first | dsimp only | split)
  all_goals simp +contextual (maxDischargeDepth := 20) [hs]

@[simp] theorem State.copyAhead_sound (s : State) (core cmd addr : Nat) (hs : s.Sound) :
    (State.copyAhead s core cmd addr).Sound := by
  unfold State.copyAhead
  repeat' (first | dsimp only | with_reducible refine State.onCore_sound ?_ ?_ | split)
  all_goals simp +contextual (maxDischargeDepth := 20) [hs]

@[simp] theorem State.landAhead_sound (s : State) (pkt addr : Nat) (hs : s.Sound) :
    (State.landAhead s pkt addr).Sound := by
  unfold State.landAhead
  repeat' (first | dsimp only | with_reducible refine OkSound.bind' fun _ _ => ?_ | with_reducible refine State.onCore_sound ?_ ?_ | split)
  all_goals simp +contextual (maxDischargeDepth := 20) [hs]

@[simp] theorem Core.clearEngine_sound (c : Core) (owner : Nat) (hc : Memory.wf c.lmem = true) :
    Memory.wf (Core.clearEngine c owner).lmem = true := by
  unfold Core.clearEngine
  repeat' (first | dsimp only | split)
  all_goals simp [hc]

@[simp] theorem Core.onTile_sound (c : Core) (id : Nat) (f : TileCmd → TileCmd) (hc : Memory.wf c.lmem = true) :
    Memory.wf (Core.onTile c id f).lmem = true := by
  unfold Core.onTile
  repeat' (first | dsimp only | split)
  all_goals simp [hc]

@[simp] theorem State.chargeTile_sound (s : State) (core r n : Nat) (hs : s.Sound) :
    (State.chargeTile s core r n).Sound := by
  unfold State.chargeTile
  repeat' (first | dsimp only | split)
  all_goals simp [hs]

@[simp] theorem State.leaveTile_sound (s : State) (core : Nat) (k : TileCmd) (hs : s.Sound) :
    (State.leaveTile s core k).Sound := by
  unfold State.leaveTile
  repeat' (first | dsimp only | with_reducible refine State.onCore_sound ?_ ?_ | split)
  all_goals simp +contextual (maxDischargeDepth := 20) [hs]

@[simp] theorem State.settleTile_sound (s : State) (core id : Nat) (hs : s.Sound) :
    (State.settleTile s core id).Sound := by
  unfold State.settleTile
  repeat' (first | dsimp only | split)
  all_goals simp [hs]

@[simp] theorem State.settleTiles_sound (s : State) (core : Nat) (hs : s.Sound) :
    (State.settleTiles s core).Sound := by
  unfold State.settleTiles
  repeat' (first | dsimp only | with_reducible refine sound_foldl (fun _ _ _ => ?_) ?_ | with_reducible refine wf_foldl (fun _ _ _ => ?_) ?_ | with_reducible refine sound_foldl_snd (fun _ _ _ => ?_) ?_)
  all_goals first | with_reducible assumption | (simp +contextual (maxDischargeDepth := 20) [hs]) | simp +contextual (maxDischargeDepth := 20) [*]

@[simp] theorem State.endTile_sound (s : State) (core : Nat) (k : TileCmd) (hs : s.Sound) :
    (State.endTile s core k).Sound := by
  unfold State.endTile
  all_goals simp +contextual (maxDischargeDepth := 20) [hs]

@[simp] theorem State.failTile_sound (s : State) (core : Nat) (k : TileCmd) (code addr : Nat) (hs : s.Sound) :
    (State.failTile s core k code addr).Sound := by
  unfold State.failTile
  all_goals simp [hs]

@[simp] theorem State.takeEngine_sound (s : State) (core r : Nat) (hs : s.Sound) :
    (State.takeEngine s core r).Sound := by
  unfold State.takeEngine
  repeat' (first | dsimp only | with_reducible refine State.onCore_sound ?_ ?_ | split)
  all_goals simp +contextual (maxDischargeDepth := 20) [hs]

@[simp] theorem execTileCommandStart_sound (core : Nat) (s : State) (hs : s.Sound) :
    OutSound (execTileCommandStart core s) := by
  unfold execTileCommandStart
  repeat' (first | dsimp only | with_reducible refine State.onCore_sound ?_ ?_ | split)
  all_goals simp +contextual (maxDischargeDepth := 20) [hs]

@[simp] theorem State.accImage_sound (s : State) (core : Nat) (k : TileCmd) (sc sat : Bool) (rm : RMode) (tag : Tag) (a : Nat) (hs : s.Sound) :
    (State.accImage s core k sc sat rm tag a).2.2.Sound := by
  unfold State.accImage
  repeat' (first | dsimp only | split)
  all_goals simp [hs]

@[simp] theorem execAccumulatorTransferDone_sound (core : Nat) (s : State) (hs : s.Sound) :
    OutSound (execAccumulatorTransferDone core s) := by
  unfold execAccumulatorTransferDone
  repeat' (first | dsimp only | with_reducible refine State.onCore_sound ?_ ?_ | split)
  all_goals simp +contextual (maxDischargeDepth := 20) [hs]

@[simp] theorem State.pairStarted_sound (s : State) (core : Nat) (hs : s.Sound) :
    (State.pairStarted s core).Sound := by
  unfold State.pairStarted
  repeat' dsimp only
  all_goals simp [hs]

@[simp] theorem execTilePairStart_sound (core : Nat) (s : State) (hs : s.Sound) :
    OutSound (execTilePairStart core s) := by
  unfold execTilePairStart
  repeat' (first | dsimp only | with_reducible refine OkSound.bind' fun _ _ => ?_ | with_reducible refine State.onCore_sound ?_ ?_ | split)
  all_goals simp +contextual (maxDischargeDepth := 20) [hs]

@[simp] theorem State.contribute_sound (s : State) (p : Pair) (bsA bsB tr : Bool) (a b : List Byte) (acc : List (BitVec 32))
    (hs : s.Sound) : (State.contribute s p bsA bsB tr a b acc).2.Sound := by
  unfold State.contribute
  split
  · exact hs
  · refine foldl_keeps (fun r : List (BitVec 32) × State => r.2.Sound) _ (fun r x h => ?_) _ _ hs
    dsimp only
    split
    · exact State.choose_sound _ _ h
    · exact h

@[simp] theorem Core.popPair_sound (c : Core) (qa qb : Nat) (hc : Memory.wf c.lmem = true) :
    Memory.wf (Core.popPair c qa qb).lmem = true := by
  unfold Core.popPair
  repeat' (first | dsimp only | split)
  all_goals simp [hc]

@[simp] theorem execTilePairRetire_sound (core : Nat) (s : State) (hs : s.Sound) :
    OutSound (execTilePairRetire core s) := by
  unfold execTilePairRetire
  repeat' (first | dsimp only | with_reducible refine State.onCore_sound ?_ ?_ | split)
  all_goals simp +contextual (maxDischargeDepth := 20) [hs]

@[simp] theorem execMmgRowComplete_sound (core : Nat) (s : State) (hs : s.Sound) :
    OutSound (execMmgRowComplete core s) := by
  unfold execMmgRowComplete
  repeat' (first | dsimp only | with_reducible refine State.onCore_sound ?_ ?_ | split)
  all_goals simp +contextual (maxDischargeDepth := 20) [hs]

@[simp] theorem State.tileAhead_sound (s : State) (core cmd addr use : Nat) (hs : s.Sound) :
    (State.tileAhead s core cmd addr use).Sound := by
  unfold State.tileAhead
  repeat' (first | dsimp only | with_reducible refine State.onCore_sound ?_ ?_ | split)
  all_goals simp +contextual (maxDischargeDepth := 20) [hs]

@[simp] theorem State.storeAhead_sound (s : State) (core addr : Nat) (hs : s.Sound) :
    (State.storeAhead s core addr).Sound := by
  unfold State.storeAhead
  repeat' (first | dsimp only | with_reducible refine State.onCore_sound ?_ ?_ | split)
  all_goals simp +contextual (maxDischargeDepth := 20) [hs]

@[simp] theorem State.readAhead_sound (s : State) (core cmd addr use : Nat) (hs : s.Sound) :
    (State.readAhead s core cmd addr use).Sound := by
  unfold State.readAhead
  repeat' (first | dsimp only | split)
  all_goals simp [hs]

@[simp] theorem State.onFe_sound (s : State) (b : Nat) (f : FrontEnd → FrontEnd) (hs : s.Sound) :
    (State.onFe s b f).Sound := by
  unfold State.onFe
  all_goals simp [hs]

@[simp] theorem State.onQueue_sound (s : State) (q : Nat) (f : Queue → Queue) (hs : s.Sound) :
    (State.onQueue s q f).Sound := by
  unfold State.onQueue
  all_goals simp [hs]

@[simp] theorem State.feRead_sound (s : State) (host : Bool) (a n : Nat) (hs : s.Sound) :
    (State.feRead s host a n).2.2.Sound := by
  unfold State.feRead
  repeat' (first | dsimp only | split)
  all_goals simp [hs]

@[simp] theorem State.feWrite_sound (s : State) (host : Bool) (a : Nat) (bs : List Byte) (hs : s.Sound) :
    (State.feWrite s host a bs).Sound := by
  unfold State.feWrite
  repeat' (first | dsimp only | split)
  all_goals simp [hs]

@[simp] theorem State.writeErrw_sound (s : State) (q : Nat) (hs : s.Sound) :
    (State.writeErrw s q).Sound := by
  unfold State.writeErrw
  repeat' (first | dsimp only | split)
  all_goals simp [hs]

@[simp] theorem State.breakQueue_sound (s : State) (q : Nat) (hs : s.Sound) :
    (State.breakQueue s q).Sound := by
  unfold State.breakQueue
  repeat' dsimp only
  all_goals simp +contextual (maxDischargeDepth := 20) [hs]

@[simp] theorem execTailNotification_sound (q : Nat) (s : State) (hs : s.Sound) :
    OutSound (execTailNotification q s) := by
  unfold execTailNotification
  repeat' (first | dsimp only | split)
  all_goals simp +contextual (maxDischargeDepth := 20) [hs]

@[simp] theorem State.entryFault_sound (s : State) (fe : Nat) (src : EntrySrc) (region code addr : Nat) (detail : Word) (hs : s.Sound) :
    (State.entryFault s fe src region code addr detail).Sound := by
  unfold State.entryFault
  repeat' (first | dsimp only | split)
  all_goals simp +contextual (maxDischargeDepth := 20) [hs]

@[simp] theorem State.headBack_sound (s : State) (q : Nat) (hs : s.Sound) :
    (State.headBack s q).Sound := by
  unfold State.headBack
  repeat' (first | dsimp only | split)
  all_goals simp [hs]

@[simp] theorem execQueueEntryFetch_sound (q : Nat) (s : State) (hs : s.Sound) :
    OutSound (execQueueEntryFetch q s) := by
  unfold execQueueEntryFetch
  repeat' (first | dsimp only | split)
  all_goals simp +contextual (maxDischargeDepth := 20) [hs]

@[simp] theorem State.dropEntry_sound (s : State) (fe i : Nat) (hs : s.Sound) :
    (State.dropEntry s fe i).Sound := by
  unfold State.dropEntry
  all_goals simp [hs]

@[simp] theorem State.messageEntry_sound (s : State) (fe : Nat) (e : FeEntry) (hs : s.Sound) :
    (State.messageEntry s fe e).Sound := by
  unfold State.messageEntry
  split
  all_goals
    rename _ = (_, _) => h
    have hz := sound_of_pair h (by simp [hs])
    simp [hz]

@[simp] theorem execActiveMessageEntry_sound (fe idx : Nat) (s : State) (hs : s.Sound) :
    OutSound (execActiveMessageEntry fe idx s) := by
  unfold execActiveMessageEntry
  repeat' (first | dsimp only | split)
  all_goals simp [hs]

@[simp] theorem State.setTrigger_sound (s : State) (fe t : Nat) (x : Trigger) (hs : s.Sound) :
    (State.setTrigger s fe t x).Sound := by
  unfold State.setTrigger
  all_goals simp [hs]

@[simp] theorem State.disarmTrigger_sound (s : State) (fe t : Nat) (hs : s.Sound) : (State.disarmTrigger s fe t).Sound := by
  unfold State.disarmTrigger
  simp [hs]

@[simp] theorem State.fireNested_sound (s : State) (fe t : Nat) (hs : s.Sound) : (State.fireNested s fe t).Sound := by
  unfold State.fireNested
  repeat' (first | dsimp only | split)
  all_goals simp [hs]

theorem State.armWith_sound {fire : State → Nat → Nat → State} (hf : ∀ s fe t, s.Sound → (fire s fe t).Sound) (s : State)
    (fe t region thresh : Nat) (cmd : List Word) (hs : s.Sound) : OkSound (State.armWith fire s fe t region thresh cmd) := by
  unfold State.armWith
  repeat' (first | dsimp only | split)
  all_goals simp [hs, hf]

theorem State.armEntry_sound {fire : State → Nat → Nat → State} (hf : ∀ s fe t, s.Sound → (fire s fe t).Sound) (s : State)
    (fe : Nat) (e : FeEntry) (hs : s.Sound) : (State.armEntry fire s fe e).Sound := by
  unfold State.armEntry
  repeat' (first | dsimp only | split)
  all_goals first
    | exact sound_of_ok ‹_› (State.armWith_sound hf _ _ _ _ _ _ (State.feRead_sound _ _ _ _ hs))
    | simp [hs]

@[simp] theorem State.fireTrigger_sound (s : State) (fe t : Nat) (hs : s.Sound) : (State.fireTrigger s fe t).Sound := by
  unfold State.fireTrigger
  repeat' (first | dsimp only | split)
  all_goals first
    | exact State.armEntry_sound State.fireNested_sound _ _ _ (State.disarmTrigger_sound _ _ _ hs)
    | simp [hs]

@[simp] theorem State.armTrigger_sound (s : State) (fe t region thresh : Nat) (cmd : List Word) (hs : s.Sound) :
    OkSound (State.armTrigger s fe t region thresh cmd) := State.armWith_sound State.fireTrigger_sound _ _ _ _ _ _ hs

@[simp] theorem execTriggerArmEntry_sound (fe idx : Nat) (s : State) (hs : s.Sound) :
    OutSound (execTriggerArmEntry fe idx s) := by
  unfold execTriggerArmEntry
  repeat' (first | dsimp only | split)
  all_goals simp [hs, State.armEntry_sound State.fireTrigger_sound]

@[simp] theorem execTriggerArming_sound (pkt : Nat) (s : State) (hs : s.Sound) :
    OutSound (execTriggerArming pkt s) := by
  unfold execTriggerArming
  repeat' (first | dsimp only | split)
  all_goals (first | with_reducible assumption | (simp +contextual (maxDischargeDepth := 20) [hs]; done)
                   | (rename _ = Except.ok _ => e; have hz := sound_of_ok e (by simp +contextual (maxDischargeDepth := 20) [hs]); simp +contextual (maxDischargeDepth := 20) [hz]))

@[simp] theorem execTriggerSignal_sound (pkt : Nat) (s : State) (hs : s.Sound) :
    OutSound (execTriggerSignal pkt s) := by
  unfold execTriggerSignal
  repeat' (first | dsimp only | split)
  all_goals simp +contextual (maxDischargeDepth := 20) [hs]

@[simp] theorem execRegionControlEntry_sound (fe idx : Nat) (s : State) (hs : s.Sound) :
    OutSound (execRegionControlEntry fe idx s) := by
  unfold execRegionControlEntry
  repeat' (first | dsimp only | split)
  all_goals simp +contextual (maxDischargeDepth := 20) [hs]

@[simp] theorem execQueueFence_sound (fe idx : Nat) (s : State) (hs : s.Sound) :
    OutSound (execQueueFence fe idx s) := by
  unfold execQueueFence
  repeat' (first | dsimp only | with_reducible refine OkSound.bind fun _ _ => ?_ | split)
  all_goals simp +contextual (maxDischargeDepth := 20) [hs]

@[simp] theorem State.readTable_sound (s : State) (a n : Nat) (hs : s.Sound) :
    (State.readTable s a n).2.Sound := by
  unfold State.readTable
  repeat' (first | dsimp only | split)
  all_goals simp [hs]

@[simp] theorem State.readRcb_sound (s : State) (a : Nat) (hs : s.Sound) :
    (State.readRcb s a).2.Sound := by
  unfold State.readRcb
  repeat' (first | dsimp only | with_reducible refine sound_foldl (fun _ _ _ => ?_) ?_ | with_reducible refine wf_foldl (fun _ _ _ => ?_) ?_ | with_reducible refine sound_foldl_snd (fun _ _ _ => ?_) ?_ | split)
  all_goals first | with_reducible assumption | (simp +contextual (maxDischargeDepth := 20) [hs]) | simp +contextual (maxDischargeDepth := 20) [*]

@[simp] theorem State.planAct_sound (s : State) (rcb pid : Nat) (win : Word) (hs : s.Sound) :
    (State.planAct s rcb pid win).2.Sound := by
  unfold State.planAct
  repeat' (first | dsimp only | with_reducible refine OkSound.bind' fun _ _ => ?_ | split)
  all_goals simp [hs]

@[simp] theorem State.planCfg_sound (s : State) (r : Nat) (win : Word) (hs : s.Sound) :
    (State.planCfg s r win).2.Sound := by
  unfold State.planCfg
  repeat' (first | dsimp only | with_reducible refine OkSound.bind' fun _ _ => ?_ | with_reducible refine sound_foldl (fun _ _ _ => ?_) ?_ | with_reducible refine wf_foldl (fun _ _ _ => ?_) ?_ | with_reducible refine sound_foldl_snd (fun _ _ _ => ?_) ?_ | split)
  all_goals first | with_reducible assumption | (simp +contextual (maxDischargeDepth := 20) [hs]) | simp +contextual (maxDischargeDepth := 20) [*]

@[simp] theorem State.applyBinding_sound (s : State) (bid : Nat) (hs : s.Sound) :
    (State.applyBinding s bid).Sound := by
  unfold State.applyBinding
  repeat' (first | dsimp only | with_reducible refine sound_foldl (fun _ _ _ => ?_) ?_ | with_reducible refine wf_foldl (fun _ _ _ => ?_) ?_ | with_reducible refine sound_foldl_snd (fun _ _ _ => ?_) ?_)
  all_goals first | with_reducible assumption | (simp +contextual (maxDischargeDepth := 20) [hs]) | simp +contextual (maxDischargeDepth := 20) [*]

@[simp] theorem State.releaseBinding_sound (s : State) (bid : Nat) (hs : s.Sound) :
    (State.releaseBinding s bid).Sound := by
  unfold State.releaseBinding
  repeat' (first | dsimp only | with_reducible refine OkSound.bind' fun _ _ => ?_)
  all_goals simp [hs]

@[simp] theorem State.shrinkBins_sound (m cells n : Nat) : ∀ s : State, s.Sound → (s.shrinkBins m cells n).Sound := by
  induction n with
  | zero => intro s hs; exact hs
  | succ n ih =>
    intro s hs; unfold State.shrinkBins
    repeat' split
    · exact hs
    · exact hs
    · exact ih _ (by simp [hs])

@[simp] theorem State.setAllot_sound (s : State) (e : Nat) (hs : s.Sound) :
    (State.setAllot s e).Sound := by
  unfold State.setAllot
  repeat' (first | dsimp only | with_reducible refine sound_foldl (fun _ _ _ => ?_) ?_ | with_reducible refine wf_foldl (fun _ _ _ => ?_) ?_ | with_reducible refine sound_foldl_snd (fun _ _ _ => ?_) ?_ | split)
  all_goals simp +contextual (maxDischargeDepth := 20) [hs]

@[simp] theorem State.setBindings_sound (s : State) (bs : SMap Binding) (hs : s.Sound) :
    (State.setBindings s bs).Sound := by
  unfold State.setBindings
  repeat' (first | dsimp only | with_reducible refine OkSound.bind' fun _ _ => ?_ | with_reducible refine sound_foldl (fun _ _ _ => ?_) ?_ | with_reducible refine wf_foldl (fun _ _ _ => ?_) ?_ | with_reducible refine sound_foldl_snd (fun _ _ _ => ?_) ?_)
  all_goals simp +contextual (maxDischargeDepth := 20) [hs]

@[simp] theorem State.onCores_sound {s : State} {f : Nat → State → State} (hf : ∀ n s, s.Sound → (f n s).Sound)
    (hs : s.Sound) : (s.onCores f).Sound := sound_foldl (fun s n h => hf n s h) hs

@[simp] theorem State.abortIn_sound (s : State) (r : Nat) (f : Parked → Bool) (hs : s.Sound) :
    (State.abortIn s r f).Sound := by
  unfold State.abortIn
  all_goals simp +contextual (maxDischargeDepth := 20) [hs]

@[simp] theorem State.startWindow_sound (s : State) (r : Nat) (hs : s.Sound) :
    (State.startWindow s r).Sound := by
  unfold State.startWindow
  all_goals simp [hs]

@[simp] theorem State.resumeRegion_sound (s : State) (r : Nat) (hs : s.Sound) :
    (State.resumeRegion s r).Sound := by
  unfold State.resumeRegion
  repeat' (first | dsimp only | with_reducible refine sound_foldl (fun _ _ _ => ?_) ?_ | with_reducible refine wf_foldl (fun _ _ _ => ?_) ?_ | with_reducible refine sound_foldl_snd (fun _ _ _ => ?_) ?_ | with_reducible refine State.onCore_sound ?_ ?_ | split)
  all_goals first | with_reducible assumption | (simp +contextual (maxDischargeDepth := 20) [hs]) | simp +contextual (maxDischargeDepth := 20) [*]

@[simp] theorem State.spillRegion_sound (s : State) (r : Nat) (hs : s.Sound) :
    (State.spillRegion s r).Sound := by
  unfold State.spillRegion
  all_goals simp +contextual (maxDischargeDepth := 20) [hs]

@[simp] theorem State.claimCores_sound (s : State) (g : Region) (tenant : Nat) (hs : s.Sound) :
    (State.claimCores s g tenant).Sound := by
  unfold State.claimCores
  repeat' (first | dsimp only | with_reducible refine sound_foldl (fun _ _ _ => ?_) ?_ | with_reducible refine wf_foldl (fun _ _ _ => ?_) ?_ | with_reducible refine sound_foldl_snd (fun _ _ _ => ?_) ?_ | split)
  all_goals first | with_reducible assumption | (simp +contextual (maxDischargeDepth := 20) [hs]) | simp +contextual (maxDischargeDepth := 20) [*]

@[simp] theorem State.forgetAff_sound (s : State) (ids : List Nat) (hs : s.Sound) :
    (State.forgetAff s ids).Sound := by
  unfold State.forgetAff
  repeat' dsimp only
  all_goals simp [hs]

@[simp] theorem State.activate_sound (s : State) (p : Plan) (id : Nat) (win : Nat) (hs : s.Sound) :
    (State.activate s p id win).Sound := by
  unfold State.activate
  repeat' (first | dsimp only | with_reducible refine OkSound.bind' fun _ _ => ?_ | split)
  all_goals simp +contextual (maxDischargeDepth := 20) [hs]

@[simp] theorem State.reconfigure_sound (s : State) (p : Plan) (r : Nat) (win : Nat) (hs : s.Sound) :
    (State.reconfigure s p r win).Sound := by
  unfold State.reconfigure
  refine State.startWindow_sound _ _ (State.onRegion_sound _ _ _ (sound_foldl (fun t i ht => ?_) ?_))
  · split
    · exact State.claimCores_sound _ _ _ ht
    · exact ht
  · have h := State.forgetAff_sound _ (s.subtree r) (State.setBindings_sound s p.bindings hs)
    exact State.sound_of h.mem h.hostMem h.cores

@[simp] theorem execScratchZeroingComplete_sound (core : Nat) (s : State) (hs : s.Sound) :
    OutSound (execScratchZeroingComplete core s) := by
  unfold execScratchZeroingComplete
  repeat' (first | dsimp only | split)
  all_goals simp +contextual (maxDischargeDepth := 20) [hs]

@[simp] theorem State.dropOverflow_sound (s : State) (r : Nat) (hs : s.Sound) :
    (State.dropOverflow s r).Sound := by
  unfold State.dropOverflow
  repeat' (first | dsimp only | with_reducible refine sound_foldl (fun _ _ _ => ?_) ?_ | with_reducible refine wf_foldl (fun _ _ _ => ?_) ?_ | with_reducible refine sound_foldl_snd (fun _ _ _ => ?_) ?_ | split)
  all_goals first | with_reducible assumption | (simp +contextual (maxDischargeDepth := 20) [hs]) | simp +contextual (maxDischargeDepth := 20) [*]

@[simp] theorem State.discardWork_sound (s : State) (r : Nat) (hs : s.Sound) :
    (State.discardWork s r).Sound := by
  unfold State.discardWork
  repeat' (first | dsimp only | with_reducible refine State.onCore_sound ?_ ?_)
  all_goals simp +contextual (maxDischargeDepth := 20) [hs]

@[simp] theorem State.disableQueue_sound (s : State) (q : Nat) (hs : s.Sound) :
    (State.disableQueue s q).Sound := by
  unfold State.disableQueue
  repeat' dsimp only
  all_goals simp [hs]

@[simp] theorem State.destroy_sound (s : State) (r : Nat) (hs : s.Sound) :
    (State.destroy s r).Sound := by
  unfold State.destroy
  repeat' (first | dsimp only | with_reducible refine OkSound.bind' fun _ _ => ?_ | with_reducible refine sound_foldl (fun _ _ _ => ?_) ?_ | with_reducible refine wf_foldl (fun _ _ _ => ?_) ?_ | with_reducible refine sound_foldl_snd (fun _ _ _ => ?_) ?_ | with_reducible refine State.onCore_sound ?_ ?_ | split)
  all_goals simp +contextual (maxDischargeDepth := 20) [hs]

@[simp] theorem State.enterRetention_sound (s : State) (hs : s.Sound) :
    (State.enterRetention s).Sound := by
  unfold State.enterRetention
  repeat' (first | dsimp only | with_reducible refine OkSound.bind' fun _ _ => ?_ | with_reducible refine sound_foldl (fun _ _ _ => ?_) ?_ | with_reducible refine wf_foldl (fun _ _ _ => ?_) ?_ | with_reducible refine sound_foldl_snd (fun _ _ _ => ?_) ?_)
  all_goals simp +contextual (maxDischargeDepth := 20) [hs]

@[simp] theorem State.answer_sound (s : State) (code : Nat) (result : MailResult) (events : List LogEvent) (hs : s.Sound) :
    (State.answer s code result events).Sound := by
  unfold State.answer
  repeat' dsimp only
  all_goals simp [hs]

@[simp] theorem State.finishOp_sound (s : State) (o : RgnOp) (status : Nat) (hs : s.Sound) :
    (State.finishOp s o status).Sound := by
  unfold State.finishOp
  repeat' (first | dsimp only | split)
  all_goals simp +contextual (maxDischargeDepth := 20) [hs]

@[simp] theorem State.setPhase_sound (s : State) (o : RgnOp) (n : Nat) (hs : s.Sound) :
    (State.setPhase s o n).Sound := by
  unfold State.setPhase
  repeat' dsimp only
  all_goals simp [hs]

@[simp] theorem State.drainFor_sound (s : State) (o : RgnOp) (rs : List Nat) (hs : s.Sound) :
    (State.drainFor s o rs).Sound := by
  unfold State.drainFor
  repeat' dsimp only
  all_goals simp [hs]

@[simp] theorem State.performOp_sound (s : State) (o : RgnOp) (hs : s.Sound) :
    (State.performOp s o).Sound := by
  unfold State.performOp
  repeat' (first | dsimp only | split)
  all_goals simp +contextual (maxDischargeDepth := 20) [hs]

@[simp] theorem execRegionControlPerform_sound (s : State) (hs : s.Sound) :
    OutSound (execRegionControlPerform s) := by
  unfold execRegionControlPerform
  repeat' (first | dsimp only | with_reducible refine OkSound.bind' fun _ _ => ?_ | split)
  all_goals simp [hs]

@[simp] theorem execPeriodStart_sound (s : State) (hs : s.Sound) :
    OutSound (execPeriodStart s) := by
  unfold execPeriodStart
  repeat' (first | dsimp only | split)
  all_goals simp +contextual (maxDischargeDepth := 20) [hs]

@[simp] theorem execMonitorWindowEnd_sound (region : Nat) (s : State) (hs : s.Sound) :
    OutSound (execMonitorWindowEnd region s) := by
  unfold execMonitorWindowEnd
  repeat' (first | dsimp only | with_reducible refine sound_foldl (fun _ _ _ => ?_) ?_ | with_reducible refine wf_foldl (fun _ _ _ => ?_) ?_ | with_reducible refine sound_foldl_snd (fun _ _ _ => ?_) ?_ | split)
  all_goals simp +contextual (maxDischargeDepth := 20) [hs]

@[simp] theorem execWeirRateUpdate_sound (port rate : Nat) (s : State) (hs : s.Sound) :
    OutSound (execWeirRateUpdate port rate s) := by
  unfold execWeirRateUpdate
  repeat' (first | dsimp only | split)
  all_goals simp [hs]

@[simp] theorem State.evalInterval_sound (s : State) (basin : Nat) (hs : s.Sound) :
    (State.evalInterval s basin).Sound := by
  unfold State.evalInterval
  repeat' (first | dsimp only | split)
  all_goals simp [hs]

@[simp] theorem execTileIntervalEval_sound (basin : Nat) (s : State) (hs : s.Sound) :
    OutSound (execTileIntervalEval basin s) := by
  unfold execTileIntervalEval
  all_goals simp [hs]

@[simp] theorem execHousekeepingWork_sound (ctl : Nat) (kind : HkKind) (busy : Nat) (s : State) (hs : s.Sound) :
    OutSound (execHousekeepingWork ctl kind busy s) := by
  unfold execHousekeepingWork
  repeat' (first | dsimp only | split)
  all_goals simp [hs]

@[simp] theorem State.readRp_sound (s : State) (hs : s.Sound) :
    (State.readRp s).Sound := by
  unfold State.readRp
  repeat' dsimp only
  all_goals simp [hs]

@[simp] theorem State.writeTrace_sound (s : State) (w0 w1 : Word) (hs : s.Sound) :
    (State.writeTrace s w0 w1).Sound := by
  unfold State.writeTrace
  repeat' (first | dsimp only | split)
  all_goals simp +contextual (maxDischargeDepth := 20) [hs]

@[simp] theorem execTraceRecordWrite_sound (pkt : Nat) (s : State) (hs : s.Sound) :
    OutSound (execTraceRecordWrite pkt s) := by
  unfold execTraceRecordWrite
  repeat' (first | dsimp only | split)
  all_goals simp [hs]

@[simp] theorem execTraceRpRead_sound (s : State) (hs : s.Sound) :
    OutSound (execTraceRpRead s) := by
  unfold execTraceRpRead
  repeat' (first | dsimp only | split)
  all_goals simp [hs]

@[simp] theorem State.mailbox_sound {s : State} {i : Instr} {f : State → State} (hf : ∀ s, s.Sound → (f s).Sound)
    (hs : s.Sound) : (s.mailbox i f).Sound := by
  unfold State.mailbox
  repeat' split
  · exact hs
  · simp [hs]
  · exact hf _ hs

@[simp] theorem State.loadQueue_sound (s : State) (q : Nat) (ws : List Word) (hs : s.Sound) :
    (State.loadQueue s q ws).Sound := by
  unfold State.loadQueue
  all_goals simp [hs]

@[simp] theorem execQueueSet_sound (q : Nat) (entry : BitVec 512) (s : State) (hs : s.Sound) :
    OutSound (execQueueSet q entry s) := by
  unfold execQueueSet
  repeat' (first | with_reducible refine (OutSound.next _).2 ?_ | with_reducible refine State.mailbox_sound (fun _ _ => ?_) ?_ | dsimp only | split)
  all_goals first | with_reducible assumption | (simp +contextual (maxDischargeDepth := 20) [hs]) | simp +contextual (maxDischargeDepth := 20) [*]

@[simp] theorem execQueueState_sound (q : Nat) (enable : Bool) (s : State) (hs : s.Sound) :
    OutSound (execQueueState q enable s) := by
  unfold execQueueState
  repeat' (first | with_reducible refine (OutSound.next _).2 ?_ | with_reducible refine State.mailbox_sound (fun _ _ => ?_) ?_ | dsimp only | split)
  all_goals first | with_reducible assumption | (simp +contextual (maxDischargeDepth := 20); done) | simp +contextual (maxDischargeDepth := 20) [*]

@[simp] theorem execTraceBuf_sound (base size ctl : Word) (s : State) (hs : s.Sound) :
    OutSound (execTraceBuf base size ctl s) := by
  unfold execTraceBuf
  rw [OutSound.next]
  refine State.mailbox_sound (fun z hz => ?_) hs
  dsimp only
  split
  · refine State.answer_sound _ _ _ _ (sound_ite (State.feWrite_sound _ _ _ _ ?_) ?_)
    all_goals exact State.sound_of hz.mem hz.hostMem hz.cores
  · split
    · exact State.answer_sound _ _ _ _ (State.feWrite_sound _ _ _ _ (State.sound_of hz.mem hz.hostMem hz.cores))
    · exact State.answer_sound _ _ _ _ hz

@[simp] theorem State.discardPacket_sound (s : State) (p : Packet) (hs : s.Sound) :
    (State.discardPacket s p).Sound := by
  unfold State.discardPacket
  repeat' (first | dsimp only | with_reducible refine State.onCore_sound ?_ ?_ | split)
  all_goals simp +contextual (maxDischargeDepth := 20) [hs]

@[simp] theorem State.releaseWaiting_sound (s : State) (module : Nat) (hs : s.Sound) :
    (State.releaseWaiting s module).Sound := by
  unfold State.releaseWaiting
  repeat' (first | dsimp only | with_reducible refine sound_foldl (fun _ _ _ => ?_) ?_ | with_reducible refine wf_foldl (fun _ _ _ => ?_) ?_ | with_reducible refine sound_foldl_snd (fun _ _ _ => ?_) ?_ | split)
  all_goals first | with_reducible assumption | (simp +contextual (maxDischargeDepth := 20) [hs]) | simp +contextual (maxDischargeDepth := 20) [*]

@[simp] theorem execBrieloSet_sound (number : BitVec 8) (table : BitVec 2048) (s : State) (hs : s.Sound) :
    OutSound (execBrieloSet number table s) := by
  unfold execBrieloSet
  repeat' (first | with_reducible refine (OutSound.next _).2 ?_ | with_reducible refine State.mailbox_sound (fun _ _ => ?_) ?_ | dsimp only | with_reducible refine sound_foldl (fun _ _ _ => ?_) ?_ | with_reducible refine wf_foldl (fun _ _ _ => ?_) ?_ | with_reducible refine sound_foldl_snd (fun _ _ _ => ?_) ?_ | split)
  all_goals first | with_reducible assumption | (simp +contextual (maxDischargeDepth := 20); done) | simp +contextual (maxDischargeDepth := 20) [*]

@[simp] theorem execRouteChangeDrain_sound (module : Nat) (s : State) (hs : s.Sound) :
    OutSound (execRouteChangeDrain module s) := by
  unfold execRouteChangeDrain
  repeat' (first | dsimp only | split)
  all_goals simp [hs]

@[simp] theorem execLinkLevelConfirmation_sound (port module : Nat) (s : State) (hs : s.Sound) :
    OutSound (execLinkLevelConfirmation port module s) := by
  unfold execLinkLevelConfirmation
  repeat' (first | dsimp only | split)
  all_goals simp [hs]

@[simp] theorem State.failRequest_sound (s : State) (port core : Nat) (o : Op) (hs : s.Sound) :
    (State.failRequest s port core o).Sound := by
  unfold State.failRequest
  repeat' (first | dsimp only | with_reducible refine State.onCore_sound ?_ ?_ | split)
  all_goals simp +contextual (maxDischargeDepth := 20) [hs]

@[simp] theorem State.failPacket_sound (s : State) (port : Nat) (p : Packet) (hs : s.Sound) :
    (State.failPacket s port p).Sound := by
  unfold State.failPacket
  repeat' (first | dsimp only | split)
  all_goals simp [hs]

@[simp] theorem execBrieloPortFailure_sound (port : Nat) (s : State) (hs : s.Sound) :
    OutSound (execBrieloPortFailure port s) := by
  unfold execBrieloPortFailure
  repeat' (first | dsimp only | with_reducible refine sound_foldl (fun _ _ _ => ?_) ?_ | with_reducible refine wf_foldl (fun _ _ _ => ?_) ?_ | with_reducible refine sound_foldl_snd (fun _ _ _ => ?_) ?_ | split)
  all_goals simp +contextual (maxDischargeDepth := 20) [hs]

@[simp] theorem execLifecycle_sound (target : Lifecycle) (tokenOk : Bool) (s : State) (hs : s.Sound) :
    OutSound (execLifecycle target tokenOk s) := by
  unfold execLifecycle
  repeat' (first | with_reducible refine (OutSound.next _).2 ?_ | with_reducible refine State.mailbox_sound (fun _ _ => ?_) ?_ | dsimp only | split)
  all_goals first | with_reducible assumption | (simp +contextual (maxDischargeDepth := 20) [hs]) | simp +contextual (maxDischargeDepth := 20) [*]

@[simp] theorem execFwUpdate_sound (version : Nat) (signatureOk : Bool) (s : State) (hs : s.Sound) :
    OutSound (execFwUpdate version signatureOk s) := by
  unfold execFwUpdate
  repeat' (first | with_reducible refine (OutSound.next _).2 ?_ | with_reducible refine State.mailbox_sound (fun _ _ => ?_) ?_ | dsimp only | split)
  all_goals first | with_reducible assumption | (simp +contextual (maxDischargeDepth := 20) [hs]) | simp +contextual (maxDischargeDepth := 20) [*]

@[simp] theorem execEventLog_sound (s : State) (hs : s.Sound) :
    OutSound (execEventLog s) := by
  unfold execEventLog
  all_goals simp +contextual (maxDischargeDepth := 20) [hs]

@[simp] theorem execMailboxUnsupported_sound (code : BitVec 16) (s : State) (hs : s.Sound) :
    OutSound (execMailboxUnsupported code s) := by
  unfold execMailboxUnsupported
  repeat' (first | with_reducible refine (OutSound.next _).2 ?_ | with_reducible refine State.mailbox_sound (fun _ _ => ?_) ?_ | dsimp only | split)
  all_goals first | with_reducible assumption | (simp +contextual (maxDischargeDepth := 20) [hs]) | simp +contextual (maxDischargeDepth := 20) [*]

@[simp] theorem execSpdmRequest_sound (req : SpdmReq) (s : State) (hs : s.Sound) :
    OutSound (execSpdmRequest req s) := by
  unfold execSpdmRequest
  repeat' (first | with_reducible refine (OutSound.next _).2 ?_ | with_reducible refine State.mailbox_sound (fun _ _ => ?_) ?_ | dsimp only)
  all_goals first | with_reducible assumption | (simp +contextual (maxDischargeDepth := 20); done) | simp +contextual (maxDischargeDepth := 20) [*]

@[simp] theorem State.deviceUp_sound (s : State) (hs : s.Sound) :
    (State.deviceUp s).Sound := by
  unfold State.deviceUp
  all_goals simp [hs]

@[simp] theorem State.writeTables_sound (s : State) (hs : s.Sound) : s.writeTables.Sound :=
  State.store_sound _ _ _ (State.store_sound _ _ _ (State.store_sound _ _ _ (State.zeroRange_sound _ _ _ hs)))

@[simp] theorem State.enterLife_sound (s : State) (l : Lifecycle) (hs : s.Sound) :
    (State.enterLife s l).Sound := by
  unfold State.enterLife
  repeat' (first | dsimp only | split)
  all_goals simp [hs]

@[simp] theorem State.afterReset_sound (s : State) (hs : s.Sound) :
    (State.afterReset s).Sound := by
  unfold State.afterReset
  repeat' dsimp only
  all_goals simp +contextual (maxDischargeDepth := 20) [hs]

@[simp] theorem execModuleReset_sound (failStep : Nat) (s : State) (hs : s.Sound) :
    OutSound (execModuleReset failStep s) := by
  unfold execModuleReset
  repeat' (first | dsimp only | split)
  all_goals simp +contextual (maxDischargeDepth := 20) [hs]

@[simp] theorem execPowerState_sound (retention : Bool) (s : State) (hs : s.Sound) :
    OutSound (execPowerState retention s) := by
  unfold execPowerState
  repeat' (first | with_reducible refine (OutSound.next _).2 ?_ | with_reducible refine State.mailbox_sound (fun _ _ => ?_) ?_ | dsimp only | split)
  all_goals first | with_reducible assumption | (simp +contextual (maxDischargeDepth := 20); done) | simp +contextual (maxDischargeDepth := 20) [*]

@[simp] theorem execRetentionExit_sound (s : State) (hs : s.Sound) :
    OutSound (execRetentionExit s) := by
  unfold execRetentionExit
  repeat' (first | dsimp only | split)
  all_goals simp +contextual (maxDischargeDepth := 20) [hs]

@[simp] theorem execModulePowerLoss_sound (s : State) (hs : s.Sound) :
    OutSound (execModulePowerLoss s) := by
  unfold execModulePowerLoss
  repeat' dsimp only
  all_goals simp +contextual (maxDischargeDepth := 20) [hs]

@[simp] theorem State.freeze_sound (s : State) (core region fid slot structure_ : Nat) (hs : s.Sound) :
    (State.freeze s core region fid slot structure_).Sound := by
  unfold State.freeze
  repeat' dsimp only
  all_goals simp [hs]

@[simp] theorem execUncorrectableEcc_sound (target : EccTarget) (s : State) (hs : s.Sound) :
    OutSound (execUncorrectableEcc target s) := by
  unfold execUncorrectableEcc
  repeat' (first | dsimp only | with_reducible refine OkSound.bind fun _ _ => ?_ | with_reducible refine OkSound.bind' fun _ _ => ?_ | split)
  all_goals simp [hs]

@[simp] theorem execServiceCoreRestartComplete_sound (s : State) (hs : s.Sound) :
    OutSound (execServiceCoreRestartComplete s) := by
  unfold execServiceCoreRestartComplete
  repeat' (first | dsimp only | with_reducible refine OkSound.bind fun _ _ => ?_)
  all_goals simp [hs]

end Sys2Proof.Machine
end

