-- ==== Sys2Proof/Laws/SoundTurns.lean ====
section
/-! SUPPORT. The memories stay canonical: the turns of a step, and the time that passes after it. -/

namespace Sys2Proof.Machine

open Sys2Proof

@[simp] theorem State.nextInstr_sound (s : State) (core : Nat) (r : Run) (hs : s.Sound) :
    (State.nextInstr s core r).2.Sound := by
  unfold State.nextInstr
  repeat' (first | dsimp only | split)
  all_goals (first | with_reducible assumption | (simp +contextual (maxDischargeDepth := 20) [hs])
                   | (rename _ = (_, _) => e; have hz := sound_of_pair e (by simp +contextual (maxDischargeDepth := 20) [hs]); simp +contextual (maxDischargeDepth := 20) [hz]))

@[simp] theorem State.issueTurn_sound (s : State) (core : Nat) (hs : s.Sound) :
    ActSound (State.issueTurn s core) := by
  unfold State.issueTurn
  repeat' (first | dsimp only | split)
  all_goals (first | with_reducible assumption | (simp +contextual (maxDischargeDepth := 20) [hs]; done)
                   | (rename _ = (_, _) => e; have hz := sound_of_pair e (by simp +contextual (maxDischargeDepth := 20) [hs]); simp +contextual (maxDischargeDepth := 20) [hz]))

@[simp] theorem State.arriveOutside_sound (s : State) (p : Packet) (hs : s.Sound) :
    (State.arriveOutside s p).Sound := by
  unfold State.arriveOutside
  repeat' (first | dsimp only | split)
  all_goals simp [hs]

@[simp] theorem State.writeRecord_sound (s : State) (r : ConfigRecord) (hs : s.Sound) :
    (State.writeRecord s r).Sound := by
  unfold State.writeRecord
  repeat' (first | dsimp only | split)
  all_goals simp [hs]

@[simp] theorem State.countCorrected_sound (s : State) (counter : Nat) (hs : s.Sound) :
    (State.countCorrected s counter).Sound := by
  unfold State.countCorrected
  repeat' (first | dsimp only | split)
  all_goals simp [hs]

@[simp] theorem State.takeTurn_sound (s : State) (t : Turn) (hs : s.Sound) :
    ActSound (State.takeTurn s t) := by
  unfold State.takeTurn
  repeat' (first | dsimp only | split)
  all_goals simp +contextual (maxDischargeDepth := 20) [hs]

theorem State.forced_sound (s : State) (hs : s.Sound) : ∀ b ∈ s.forced, b.1.Sound := by
  intro b hb
  unfold State.forced at hb
  dsimp only at hb
  repeat' split at hb
  all_goals first | (injection hb with hb; subst hb; exact hs) | cases hb

@[simp] theorem State.ownTurn_sound (s : State) (hs : s.Sound) :
    ActSound (State.ownTurn s) := by
  unfold State.ownTurn
  repeat' (first | dsimp only | split)
  all_goals simp [hs]

@[simp] theorem State.plan_sound (s : State) (hs : s.Sound) : ActSound s.plan := by
  unfold State.plan
  split
  · exact sound_of_someFst ‹_› (State.forced_sound s hs)
  · split
    · exact State.takeTurn_sound _ _ (by simp [hs])
    · exact State.ownTurn_sound _ hs

@[simp] theorem State.tick_sound (s : State) (hs : s.Sound) : s.tick.Sound := by
  unfold State.tick State.chargeRun
  refine (State.sound_mk ..).2 ⟨hs.mem, hs.hostMem, CoresOk.map hs.cores fun e he => ?_⟩
  dsimp only
  repeat' split
  all_goals exact he

@[simp] theorem State.ageCore_sound (s : State) (n : Nat) (hs : s.Sound) : (State.ageCore s n).Sound := by
  unfold State.ageCore
  split
  all_goals simp [hs]

@[simp] theorem State.stopPairs_sound (s : State) (n : Nat) (hs : s.Sound) : (State.stopPairs s n).Sound := by
  unfold State.stopPairs
  repeat' (first | dsimp only | with_reducible refine State.onCore_sound ?_ ?_ | split)
  all_goals simp +contextual (maxDischargeDepth := 20) [hs]

@[simp] theorem State.wakeCore_sound (s : State) (n : Nat) (hs : s.Sound) :
    (State.wakeCore s n).Sound := by
  unfold State.wakeCore
  repeat' (first | dsimp only | with_reducible refine State.stopPairs_sound _ _ ?_ | with_reducible refine sound_foldl (fun _ _ _ => ?_) ?_ | with_reducible refine wf_foldl (fun _ _ _ => ?_) ?_ | with_reducible refine sound_foldl_snd (fun _ _ _ => ?_) ?_)
  all_goals simp +contextual (maxDischargeDepth := 20) [hs]

@[simp] theorem State.after_sound (s : State) (hs : s.Sound) :
    (State.after s).Sound := by
  unfold State.after
  repeat' (first | dsimp only | with_reducible refine sound_foldl (fun _ _ _ => ?_) ?_ | with_reducible refine wf_foldl (fun _ _ _ => ?_) ?_ | with_reducible refine sound_foldl_snd (fun _ _ _ => ?_) ?_)
  all_goals first | with_reducible assumption | (simp +contextual (maxDischargeDepth := 20) [hs]) | simp +contextual (maxDischargeDepth := 20) [*]

end Sys2Proof.Machine
end

