-- ==== Sys2Proof/Tests/Slice0.lean ====
section
/-! SUPPORT. Tests on fixed values: words written out from the spec's encodings, terms that the well-formedness checks refuse,
and, for each statement with hypotheses, a state and operands that meet them. -/

namespace Sys2Proof.Tests

open Sys2Proof Sys2Proof.Machine

set_option Elab.async false

/-! ## Small states -/

/-- An unconditional guard. -/
def g0 : Guard := ⟨0, false⟩

/-- A step recorded on a chain. -/
def chainStep : ChainStep :=
  { op := .add, dbl := false, sat := false, rm := .rne, pos := 0, k1 := 1, k2 := 0, block := 0x100000, index := 0, iter := none }

/-- Registers of every kind: x1-x4 known, x5 and x6 forms over symbol 0, x7 and x8 chains over symbol 1, x9 a form over
symbol 2; x10-x16 known, x20-x27 a group of known words. -/
def regs : SMap RVal :=
  [(1, .known 7), (2, .known (BitVec.allOnes 64)), (3, .known 0), (4, .known 0x8000000000000000), (5, .form 0 1 0),
   (6, .form 0 3 5), (7, .chain 1 [chainStep]), (8, .chain 1 (List.replicate 4 chainStep)), (9, .form 2 1 0),
   (10, .known 0x5008), (11, .known 0x6000), (12, .known 0x10), (13, .known 0x20000), (14, .known 64),
   (15, .known 0x1000000000000000), (16, .known 0x300), (20, .known 3), (21, .known 0x40000), (22, .known 128),
   (23, .known 2), (24, .known 64), (25, .known 64), (26, .known 0), (27, .known 0)]

/-- A threadlet of the device region in frame 5, with a park area at word 8. -/
def run : Run :=
  { tid := 1, fid := 5, slot := 4, region := 1, level := 0, sel := 0, block := 0x100000, len := 20, parkw := 8, vuse := false,
    priv := true, idx := 0, x := regs, p := 2, m := [], v := [], fpst := 0, rep := none, runleft := 65536, ran := 0,
    bpSkip := 0 }

/-- A Resident frame of class 2 at local address 0x400, with its first arena slot. -/
def frame : Frame :=
  { cls := 2, region := 1, base := 0x400, st := .resident, arena := 0x20000000, zero := false, snap := none, used := 0,
    parked := none, freeing := false, ownFree := [], asked := 0, admitted := false, placed := false, armed := [], handler := 0 }

/-- A Held threadlet. -/
def heldP : Parked :=
  { tid := 1, slot := 4, level := 0, cause := 6, wait := .faultDomain, priv := true, block := 0x100000,
    len := 20, hold := none, ready := false, bpSkip := 0, since := 10 }

/-- A pending symbol of the threadlet. -/
def sym : Sym := { st := .pending, tid := 1, fid := 5, region := 1, acq := false, born := 0, org := run.origin }

/-- Core 0 with that threadlet and its frame. -/
def core0 : Core := { Core.init with run := some run, frames := [(5, frame)], syms := [(0, sym), (1, sym), (2, sym)] }

/-- An active module with the device region, and one core that has work. -/
def module_ (c : Core) : State :=
  { State.reset with cores := [(0, c)], regions := [(1, Flash.init.deviceRegion)], power := .active,
                     service := { State.reset.service with
                       measured := { State.reset.service.measured with record := Flash.init.record } } }

/-- The module of most tests. -/
def st : State := module_ core0

/-- The same with another threadlet. -/
def stRun (r : Run) : State := module_ { core0 with run := some r }

/-- Does an instruction or event complete at a state, with a next state of which a test holds? -/
def yields (i : Instr) (s : State) (p : State → Bool) : Bool :=
  match exec i s with
  | .next t => p t
  | .fault _ => false
  | .refused _ => false

/-! ## Words of each family: the spec's own encodings (R326-R417) decode to what they stand for -/

theorem test_words_integer :
    decode (bytesOfWord 0x00030880) = .ok (.add g0 3 1 2) ∧ decode (bytesOfWord 0x00030881) = .ok (.sub g0 3 1 2) ∧
    decode (bytesOfWord 0x0006308C) = .ok (.mul g0 6 6 2) ∧ decode (bytesOfWord 0x00030887) = .ok (.sar g0 3 1 2) ∧
    decode (bytesOfWord 0x00431FF0) = .ok (.andi g0 3 3 (-16)) ∧ decode (bytesOfWord 0x00A62807) = .ok (.shli g0 6 5 7) ∧
    decode (bytesOfWord 0x00E42988) = .ok (.sel g0 4 5 6 1) ∧
    decode (bytesOfWord 0x0E440800 ++ bytesOfWord 0x0000080C) = .ok (.bfx g0 4 1 8 12) := by decide +kernel

theorem test_words_predicates_and_floats :
    decode (bytesOfWord 0x02022146) = .ok (.setp g0 .ltu 2 4 5) ∧
    decode (bytesOfWord 0x02611902) = .ok (.fsetp g0 .s .lt 1 3 4) ∧
    decode (bytesOfWord 0x02830880) = .ok (.plog g0 .and 3 1 2) ∧
    decode (bytesOfWord 0x036838C0) = .ok (.ffma g0 .s false .rne 8 7 3) ∧
    decode (bytesOfWord 0x038508A1) = .ok (.fdiv g0 .d false .rtz 5 1 2) ∧
    decode (bytesOfWord 0x03E20940) = .ok (.fcvt g0 .bfS false .rne 2 1) := by decide +kernel

theorem test_words_control_and_system :
    decode (bytesOfWord 0x041FFFFE) = .ok (.br g0 (-2)) ∧ decode (bytesOfWord 0x04406000) = .ok (.jr g0 12) ∧
    decode (bytesOfWord 0x04400001) = .ok (.ret g0) ∧ decode (bytesOfWord 0x04601003) = .ok (.rep g0 2 3) ∧
    decode (bytesOfWord 0x04800000) = .ok (.fin g0) ∧ decode (bytesOfWord 0x04800001) = .ok (.park g0 0) ∧
    decode (bytesOfWord 0x04800002) = .ok (.nop g0) ∧ decode (bytesOfWord 0x04800143) = .ok (.brk g0 5) ∧
    decode (bytesOfWord 0x0D050018) = .ok (.rdsr g0 5 0x018) ∧ decode (bytesOfWord 0x0D200010) = .ok (.wrsr g0 0 0x010) ∧
    decode (bytesOfWord 0x0D444802) = .ok (.rgnctlSusp g0 4 9) ∧ decode (bytesOfWord 0x0D602980) = .ok (.tlbinvPg g0 5 6) ∧
    decode (bytesOfWord 0x0DA92800) = .ok (.symq g0 9 5) := by decide +kernel

theorem test_words_slots_and_memory :
    decode (bytesOfWord 0x05050002) = .ok (.falloc g0 5 2) ∧ decode (bytesOfWord 0x0525F001) = .ok (.slotr g0 5 30) ∧
    decode (bytesOfWord 0x05422206) = .ok (.sigd g0 true false 4 8 2) ∧
    decode (bytesOfWord 0x054020C8) = .ok (.sigv g0 false false 4 3 0) ∧
    decode (bytesOfWord 0x0569F002) = .ok (.sref g0 9 30 2) ∧ decode (bytesOfWord 0x05880000) = .ok (.amsg g0 8) ∧
    decode (bytesOfWord 0x0604FC08) = .ok (.ld g0 .w false 4 31 8) ∧
    decode (bytesOfWord 0x0622FE06) = .ok (.st g0 .d 2 31 6) ∧
    decode (bytesOfWord 0x070A680E) = .ok (.gld g0 false .normal .d true false 10 13) ∧
    decode (bytesOfWord 0x07250C00) = .ok (.ldl g0 .w false 5 1 0) ∧
    decode (bytesOfWord 0x07420F01) = .ok (.gst g0 .d true 2 1 1) ∧
    decode (bytesOfWord 0x07631101) = .ok (.gstv g0 3 2 1 1) ∧
    decode (bytesOfWord 0x07812880) = .ok (.pref g0 .keep 5 128) ∧
    decode (bytesOfWord 0x07A40889) = .ok (.cas g0 .rlx .d 4 1 2) ∧
    decode (bytesOfWord 0x07A22997) = .ok (.cas2 g0 .acqRel 2 5 6) := by decide +kernel

theorem test_words_order_and_engines :
    decode (bytesOfWord 0x08000001) = .ok (.fence g0 true false false .l) ∧
    decode (bytesOfWord 0x08000017) = .ok (.fence g0 true true true .s) ∧
    decode (bytesOfWord 0x08200004) = .ok (.fenceqCt g0) ∧ decode (bytesOfWord 0x08200001) = .ok (.fenceqTc g0) ∧
    decode (bytesOfWord 0x08402980) = .ok (.iflush g0 5 6) ∧ decode (bytesOfWord 0x08603200) = .ok (.upd g0 6 8 0) ∧
    decode (bytesOfWord 0x08860899) = .ok (.updv g0 6 1 2 3 1) ∧
    decode (bytesOfWord 0x09224800) = .ok (.cpy2 g0 ⟨false, .normal, 0, false, .gl, false, false⟩ 2 9) ∧
    decode (bytesOfWord 0x0A030001) = .ok (.rcfg g0 1 3) ∧ decode (bytesOfWord 0x0A240001) = .ok (.radv g0 1 4) ∧
    decode (bytesOfWord 0x0AA43101) = .ok (.accld g0 false 1 4 6) ∧
    decode (bytesOfWord 0x0AC84804) = .ok (.accst g0 false false false .rne .bf16 0 8 9) := by decide +kernel

theorem test_words_vectors :
    decode (bytesOfWord 0x0B020043) = .ok (.vfma g0 .f32 2 0 1 0) ∧ decode (bytesOfWord 0x0BC3088B) = .ok (.vselW g0 3 1 2 1) ∧
    decode (bytesOfWord 0x0BE42994) = .ok (.vshrI16 g0 4 5 6 2) ∧ decode (bytesOfWord 0x0C240882) = .ok (.vexp2 g0 .bf16 4 1 0) ∧
    decode (bytesOfWord 0x0C25018C) = .ok (.viota g0 .i32 5 1) ∧ decode (bytesOfWord 0x0C470800) = .ok (.vredAdd g0 .f32 7 1 0) ∧
    decode (bytesOfWord 0x0C4610CC) = .ok (.vdotBf16 g0 6 2 3 1) ∧ decode (bytesOfWord 0x0C612001) = .ok (.vbcast g0 .w 1 4) ∧
    decode (bytesOfWord 0x0C63125A) = .ok (.vext g0 .d 3 2 9) ∧ decode (bytesOfWord 0x0C81F802) = .ok (.vld g0 1 31 2) ∧
    decode (bytesOfWord 0x0CC208C3) = .ok (.mlog g0 .andn 2 1 3) ∧ decode (bytesOfWord 0x0CC71005) = .ok (.mcnt g0 7 2) ∧
    decode (bytesOfWord 0x0E830888 ++ bytesOfWord 0x000005A9) = .ok (.vx g0 (.add .bf16) true .rtz 3 1 2 1) ∧
    decode (bytesOfWord 0x0EA20800 ++ bytesOfWord 0x00002000) = .ok (.vcvt g0 .bf16 .f32 false .rne 2 1 0) := by
  decide +kernel

/-- No instruction: the all-zero and the all-ones word (R110), a reserved opcode, and a nonzero field of NOP. -/
theorem test_words_refused : decode (bytesOfWord 0) = .error .allZeroWord ∧
    decode (bytesOfWord 0xFFFFFFFF) = .error .allOnesWord ∧ (decode (bytesOfWord 0x0FC00000)).toOption = none ∧
    (decode (bytesOfWord 0x04800042)).toOption = none := by decide +kernel

/-! ## Ill-formed terms, one for each check of WellFormed -/

theorem test_wf_refuses : ∀ i ∈ ([.add g0 0 0 0, .setp g0 .eq 0 1 2, .setpiA g0 .eq 0 1 0, .setpiB g0 .ltu 0 1 0,
    .fsetp g0 .s .eq 0 1 2, .plog g0 .and 0 1 1, .plog g0 .not 1 1 1, .rep g0 1 0, .falloc g0 1 5, .amsg g0 25, .arm g0 30,
    .ld g0 .d true 1 1 0, .gld g0 false .normal .b false false 0 0, .ldl g0 .d true 1 1 0, .gst g0 .w true 31 1 0,
    .cas2 g0 .rlx 3 1 2, .cas2 g0 .rlx 2 1 3, .cas2 g0 .rlx 0 1 2, .fence g0 false false false .l,
    .cpy g0 ⟨false, .normal, 1, false, .gl, false, false⟩ 1 0, .cpy g0 ⟨false, .normal, 0, false, .gl, false, false⟩ 30 0,
    .cpy2 g0 ⟨false, .normal, 0, true, .gl, false, false⟩ 27 0, .cpym g0 false false 28 0,
    .gthr g0 ⟨false, .normal, 1, false, .i32, false, false⟩ 1 0, .rcfg g0 0 0, .radv g0 0 0, .mma g0 false false 0 0 0 0 0,
    .mmas g0 0 false 0 0 0 0 0, .mmg g0 .bf16 .f32 false 28 0, .accld g0 false 0 0 0,
    .accst g0 false false false .rne .fp32 0 31 0, .sscfg g0 0 31, .vcmp g0 .f32 .eq 0 1 1, .vcmp g0 .f32 .ltu 1 1 1,
    .vcmp g0 .i8 .un 1 1 1, .mlog g0 .and 0 1 1, .mlog g0 .not 1 1 1, .rgnctlAct g0 31 0, .rgnctlCfg g0 31 0,
    .rgnctlSusp g0 31 0, .rgnctlRes g0 31 0, .rgnctlDel g0 31 0, .bfx g0 1 1 0 0, .bfi g0 1 1 60 5,
    .vx g0 (.add .i32) false .rtz 1 1 1 0, .vx g0 (.abs .f32) false .rne 1 1 1 0, .vcvt g0 .f32 .f32 false .rne 1 1 0] :
    List Instr), i.wf = false := by decide +kernel

/-! ## Witnesses: for each statement with hypotheses, states and operands that meet them, one for each clause -/

theorem test_issues : st.Issues run g0 := ⟨rfl, rfl⟩

theorem test_mayIssue : st.MayIssue run := by unfold State.MayIssue; decide +kernel

theorem witness_StepRunsDecoded :
    let s := State.reset.withFetchWord 32 0x00030880
    let r := fetchRun
    let t := fetchPage
    s.forced = none ∧ s.agenda = .issue 0 :: [] ∧ s.power = .active ∧ (s.core 0).run = some r ∧
      (s.suspended r.region = false ∨ r.parkw = 0) ∧ r.runleft ≠ 0 ∧ s.breakDetail 0 r = none ∧ r.idx + 1 ≤ r.len + 1 ∧
      decode (bytesOfWord 0x00030880 ++ bytesOfWord 0) = .ok (.add g0 3 1 2) ∧ (Instr.add g0 3 1 2).words = 1 ∧
      ({ s with agenda := [], cur := 0 } : State).codeAt 0 (s.asid r.region) (r.wordVa 0) = .words [0x00030880] false ∧
      (r.wordVa 0 < 2 ^ 52 ∧ s.lookup 0 (s.asid r.region) (r.wordVa 0) = .leaf t ∧
        s.codeRoute 0 t (r.wordVa 0) = .to (.slice 0) 0x100000 .wb ∧ 0x100000 % 128 = 0 ∧
        s.bindingAt 0x100000 = none ∧ s.anyLost 0x100000 128 = false ∧
        ((s.chip 0).icache.any fun l => l.asid == s.asid r.region && l.line == r.wordVa 0 / 128) = false) ∧
      (((s.cacheCode 0 (s.asid r.region) (r.wordVa 0)).chip 0).icache.find? fun l =>
        l.asid == s.asid r.region && l.line == r.wordVa 0 / 128).isSome = true := by
  and_intros <;> decide +kernel

theorem witness_EncodeDecode :
    let i : Instr := .bfx g0 4 1 8 12
    i.wf = true ∧ i.isEvent = false := by decide +kernel

theorem witness_StepKeepsMemoryForm : st.Sound ∧ ∃ t, step st = .next t := by
  refine ⟨⟨?_, ?_, ?_⟩, ?_⟩
  · decide +kernel
  · decide +kernel
  · decide +kernel
  · cases h : step st with
    | next t => exact ⟨t, rfl⟩
    | fault e =>
      have : (match step st with | .next _ => true | _ => false) = true := by decide +kernel
      simp [h] at this
    | refused e =>
      have : (match step st with | .next _ => true | _ => false) = true := by decide +kernel
      simp [h] at this

theorem witness_FalseGuard :
    let g : Guard := ⟨0, true⟩
    (st.core st.cur).run = some run ∧ run.holds g = false ∧
    (∀ i ∈ ([.add g 3 1 2, .limm g 3 5, .rdsr g 3 0x010, .tlbinvAll g, .rep g 1 2, .sig g false false 10] : List Instr),
      i.guard = some g ∧ i.checkedFirst st run = .ok () ∧ i.nullsFalseGuard = false) := by
  decide +kernel

theorem witness_GuardsAndZeroRegister : (1 : PReg) ≠ 0 ∧ (3 : XReg) ≠ 0 ∧ (4 : XReg) ≠ 3 := by decide

/-- Core 0 with the first `k` hold entries in use, and a threadlet without a park area. -/
def stHold (k : Nat) : State :=
  module_ { core0 with run := some { run with parkw := 0 },
                       hold := (List.range k).map fun j => (j, { fid := 40 + j, words := [] }) }

theorem witness_PreciseFault :
    ((0 : Nat) < 2048 ∧ run.fid < 65536 ∧ (st.core 0).run = some run ∧ (st.core 0).frame run.fid = some frame ∧
      st.domainOf run.region = some 1 ∧ run.parkw ≠ 0) ∧
    (∀ k ≤ 4, let s := stHold k
      let r : Run := { run with parkw := 0 }
      (s.core 0).run = some r ∧ (s.core 0).frame r.fid = some frame ∧ s.domainOf r.region = some 1 ∧ r.parkw = 0 ∧
      (k < 4 → SMap.has (s.core 0).hold k = false) ∧ (∀ j < k, SMap.has (s.core 0).hold j = true)) ∧
    frame.ownFree = [] := by
  decide +kernel

/-- What the operands of the scalar witnesses hold: known words with both signs, zero and the least number, forms over two
symbols and one symbol twice, and chains of one and of four steps. -/
theorem test_operands :
    run.get 1 = .known 7 ∧ run.get 2 = .known (BitVec.allOnes 64) ∧ run.get 3 = .known 0 ∧
    run.get 4 = .known 0x8000000000000000 ∧ run.get 5 = .form 0 1 0 ∧ run.get 6 = .form 0 3 5 ∧
    (run.get 7).asChain = some (1, [chainStep]) ∧ run.get 9 = .form 2 1 0 ∧
    (run.get 8).asChain = some (1, List.replicate 4 chainStep) := by decide +kernel

theorem witness_BitwiseRegister :
    st.Issues run g0 ∧ run.get 1 = .known 7 ∧ run.get 2 = .known (BitVec.allOnes 64) ∧ (run.get 5).isLate :=
  ⟨test_issues, by decide +kernel, by decide +kernel, by unfold RVal.isLate; decide +kernel⟩

theorem witness_BitwiseImmediate : st.Issues run g0 ∧ run.get 1 = .known 7 ∧ (run.get 5).isLate :=
  ⟨test_issues, by decide +kernel, by unfold RVal.isLate; decide +kernel⟩

theorem witness_CountBits :
    st.Issues run g0 ∧ run.get 1 = .known 7 ∧ run.get 3 = .known 0 ∧ (run.get 5).isLate ∧ (1 : XReg) ≠ 0 ∧
    (19 ≤ (19 : BitVec 6).toNat ∧ (21 : BitVec 6).toNat ≤ 21) :=
  ⟨test_issues, by decide +kernel, by decide +kernel, by unfold RVal.isLate; decide +kernel, by decide, by decide⟩

theorem witness_Division :
    st.Issues run g0 ∧ (run.get 1 = .known 7 ∧ run.get 3 = .known 0) ∧
    (run.get 4 = .known 0x8000000000000000 ∧ (0x8000000000000000 : Word).toInt = -2 ^ 63 ∧
      run.get 2 = .known (BitVec.allOnes 64) ∧ (BitVec.allOnes 64).toInt = -1) ∧
    ((7 : Word) ≠ 0 ∧ ¬ ((0x8000000000000000 : Word).toInt = -2 ^ 63 ∧ (7 : Word).toInt = -1)) ∧ (run.get 5).isLate :=
  ⟨test_issues, by and_intros <;> first | decide +kernel | (unfold RVal.isLate; decide +kernel)⟩

theorem witness_IntegerResults :
    st.Issues run g0 ∧ run.get 1 = .known 7 ∧ run.get 2 = .known (BitVec.allOnes 64) ∧ (run.get 5).isLate ∧
    (run.get 9).isLate :=
  ⟨test_issues, by and_intros <;> first | decide +kernel | (unfold RVal.isLate; decide +kernel)⟩

theorem test_covers (v : RVal) : st.Covers run 11 v ∧ st.Covers run 7 v := by
  constructor <;> cases v <;> exact Nat.le_of_ble_eq_true rfl

theorem witness_Folding :
    st.Issues run g0 ∧ run.get 6 = .form 0 3 5 ∧ run.get 1 = .known 7 ∧ (∀ v : RVal, st.Covers run 11 v) ∧
    run.get 5 = .form 0 1 0 ∧ run.get 9 = .form 2 1 0 :=
  ⟨test_issues, by decide +kernel, by decide +kernel, fun v => (test_covers v).1, by decide +kernel, by decide +kernel⟩

/-- A core whose pool is full: it covers no symbolic register, and a folding instruction parks. -/
theorem witness_Folding_parks :
    let s := module_ { core0 with pool := (List.range 256).map fun k => (k, ⟨0, run.origin, .effect (.sig false 1) [.form 0 1 0]⟩) }
    s.Issues run g0 ∧ ¬ s.Covers run 11 (.form 0 3 12) ∧ (run.get 6).isLate ∧ (run.get 8).asChain.isSome = true :=
  ⟨⟨rfl, rfl⟩, fun h => absurd (Nat.ble_eq_true_of_le h) (by decide +kernel), by unfold RVal.isLate; decide +kernel,
    by decide +kernel⟩

theorem witness_BitFields :
    st.Issues run g0 ∧ bitFieldOk 8 12 = true ∧ bitFieldOk 0 64 = true ∧ bitFieldOk 63 2 = false ∧ run.get 1 = .known 7 ∧
    run.get 2 = .known (BitVec.allOnes 64) ∧ (run.get 5).isLate :=
  ⟨test_issues, by and_intros <;> first | decide +kernel | (unfold RVal.isLate; decide +kernel)⟩

theorem witness_Select :
    st.Issues run g0 ∧ run.pred 1 = true ∧ run.pred 2 = false ∧ ¬ (run.get 1).isLate ∧ st.Covers run 11 (run.get 5) :=
  ⟨test_issues, by decide +kernel, by decide +kernel, by unfold RVal.isLate; decide +kernel, (test_covers _).1⟩

theorem witness_Predicates :
    st.Issues run g0 ∧ (3 : PReg) ≠ 0 ∧ run.get 1 = .known 7 ∧ run.get 2 = .known (BitVec.allOnes 64) ∧
    (run.get 5).isLate ∧ (Fmt.f32.decode 0x7FA00000).isNan = true ∧ (Fmt.f32.decode 0).isZero = true ∧
    (Fmt.f32.decode 0x80000000).isZero = true :=
  ⟨test_issues, by and_intros <;> first | decide +kernel | (unfold RVal.isLate; decide +kernel)⟩

theorem witness_FloatingPoint :
    st.Issues run g0 ∧ run.get 1 = .known 7 ∧ run.get 2 = .known (BitVec.allOnes 64) ∧ run.get 4 = .known 0x8000000000000000 ∧
    (run.get 5).isLate ∧ (Fmt.f64.decode 0x7FF8000000000000).isNan = true :=
  ⟨test_issues, by and_intros <;> first | decide +kernel | (unfold RVal.isLate; decide +kernel)⟩

theorem witness_FpSpecialCases :
    (Fmt.f32.decode 0x7FC00000).isNan = true ∧ (Fmt.f32.decode 0xC0400000).isFinite = true ∧
    (Fmt.f32.decode 0xC0400000).isZero = false ∧ (Fmt.f32.decode 0xC0400000).neg = true ∧
    (Fmt.f32.decode 0x7F800000).isInf = true ∧ (Fmt.f32.decode 0xFF800000).isInf = true ∧
    (Fmt.f32.decode 0x7F800000).neg ≠ (Fmt.f32.decode 0xFF800000).neg ∧ (Fmt.f32.decode 0).isZero = true ∧
    (Fmt.f32.decode 0x7F800001).isSnan = true ∧ (Fmt.f32.decode 0xC0400000).isNan = false ∧
    (Fmt.f32.decode 0x7F800000).neg ≠ xor (Fmt.f32.decode 0x7F800000).neg (Fmt.f32.decode 0xC0400000).neg := by
  decide +kernel

theorem witness_Recording :
    st.Issues run g0 ∧ (run.get 7).asChain = some (1, [chainStep]) ∧ run.get 1 = .known 7 ∧ run.get 2 = .known (BitVec.allOnes 64) ∧
    (∀ v : RVal, st.Covers run 11 v ∧ st.Covers run 7 v) ∧ (run.get 8).asChain = some (1, List.replicate 4 chainStep) ∧
    4 ≤ (List.replicate 4 chainStep).length ∧ run.get 11 = .known 0x6000 := by
  refine ⟨test_issues, ?_, ?_, ?_, test_covers, ?_⟩
  all_goals decide +kernel

/-- The same module with the code page translated, a block of the threadlet at 0x100000 whose word 3 is a long form, and another
block at 0x100200. -/
def stCode (r : Run) : State :=
  { module_ { core0 with run := some r, tlb := [fetchPage] } with
    mem := Cells.write (Cells.write [] 0x10001C (bytesOfWord 0x0E020000)) 0x100200
      (bytesOfWord 0xB5200003 ++ bytesOfWord 0x00000008 ++ bytesOfWord 0 ++ bytesOfWord 0 ++ bytesOfWord 0x0E020000) }

/-- The header of the other block. -/
def other : Header := { fcls := 1, loff := 0, live := 0, len := 3, parkw := 8, priv := false, vuse := false }

/-- Page tables: the first GiB of address space 1 has the leaf `leaf`, and nothing else is mapped. -/
def tablesWith (leaf : Nat) : List Host.Cell :=
  Cells.write (Cells.write (Cells.write [] 0x3000000 (bytesOf 8 (0x8000000000000000 + 0x3100000))) 0x3100000 (bytesOf 8 leaf))
    (asTable + 8) (bytesOf 8 (0x8000000000000000 + 0x3000000))

/-- The module without translations, its code in a page that is still to be zeroed (ZS = 1). -/
def stUnzeroed (r : Run) : State := { module_ { core0 with run := some r } with mem := tablesWith 0xC600000000000000 }

theorem witness_Branches :
    let s := stCode run
    let rd (x i : Nat) := s.readEntry s.cur (s.asid run.region) x i
    (s.core s.cur).run = some run ∧ run.holds g0 = true ∧ run.block + 2 ^ 24 < 2 ^ 64 ∧ run.len < 128 ∧
    ((run.idx : Int) + (20 : BitVec 21).toInt = (20 : Nat) ∧ 20 ≤ run.len ∧ (rd run.block 20).secondWord run run.block 20 = false) ∧
    ((run.idx : Int) + (4 : BitVec 21).toInt = (4 : Nat) ∧ (rd run.block 4).secondWord run run.block 4 = true) ∧
    ((run.block : Int) + 16 + 4 * ((run.idx : Int) + (0x7C : BitVec 21).toInt) = (0x100200 : Nat) ∧
      run.block + 16 + 4 * run.len < 0x100200 ∧
      (rd 0x100200 0).checkEntry s.cur run.region (s.runWords run) 0x100200 = .ok other) ∧
    ((run.block : Int) + 16 + 4 * ((run.idx : Int) + (0x7D : BitVec 21).toInt) = (0x100204 : Nat) ∧
      (rd 0x100204 0).checkEntry s.cur run.region (s.runWords run) 0x100204 = .error (.fault 0x15)) ∧
    (((stUnzeroed run).readEntry 0 1 0x100200 0).checkEntry 0 run.region (s.runWords run) 0x100200
        = .error (.page (some ⟨0x3100000, 0xC600000000000000, 0, 2 ^ 30, 0, [(1, 0)]⟩)) ∧
      (stUnzeroed run).asid run.region = 1 ∧ (stUnzeroed run).core 0 = { core0 with run := some run } ∧
      (stUnzeroed run).runWords run = s.runWords run ∧ (stUnzeroed run).cur = 0) ∧
    ((run.block : Int) + 16 + 4 * ((run.idx : Int) + (21 : BitVec 21).toInt) = (0x100064 : Nat) ∧
      run.block + 16 + 4 * run.len < 0x100064) := by decide +kernel

/-- The threadlet with a word in x10 and in the link register. -/
def runPtr (w : Word) : Run := (run.write 10 (.known w)).write 29 (.known w)

theorem witness_PointerJumps :
    let s := stCode run
    let ptr (b i : Nat) : Word := BitVec.ofNat 64 (b / 16 * 2 ^ 12 + i)
    let rd (t : State) (b i : Nat) := t.readEntry t.cur (t.asid run.region) b i
    (∀ w, run.holds g0 = (runPtr w).holds g0 ∧ (runPtr w).block = 0x100000 ∧ (runPtr w).len = 20) ∧
    (∀ i ∈ [0, 20, 21, 255], let r := runPtr (ptr 0x100000 i)
      r.get 10 = .known (ptr 0x100000 i) ∧ r.get 29 = .known (ptr 0x100000 i) ∧
      (i ≤ r.len → (rd (stCode r) 0x100000 i).secondWord r 0x100000 i = false)) ∧
    (∀ i ∈ [1, 3, 4], (rd s 0x100200 i).checkEntry s.cur run.region (s.runWords run) 0x100200 = .ok other ∧
      (rd s 0x100200 i).secondWord run 0x100200 i = decide (i = 1) ∧ decide (i ≤ other.len) = decide (i ≠ 4)) ∧
    ((rd (stCode (runPtr (ptr 0x100000 4))) 0x100000 4).secondWord (runPtr (ptr 0x100000 4)) 0x100000 4 = true ∧
      (rd s 0x100300 1).checkEntry s.cur run.region (s.runWords run) 0x100300 = .error (.fault 0x15)) ∧
    (∀ b ∈ [0x100200, 0x100300], ∀ i ∈ [1, 3, 4], let q := runPtr (ptr b i)
      q.get 10 = .known (ptr b i) ∧ q.get 29 = .known (ptr b i)) ∧
    (rd (stUnzeroed run) 0x100200 3).checkEntry 0 run.region (s.runWords run) 0x100200
      = .error (.page (some ⟨0x3100000, 0xC600000000000000, 0, 2 ^ 30, 0, [(1, 0)]⟩)) ∧
    ((0x1000000000000000 : Word).extractLsb' 60 4 ≠ 0 ∧ (0x100 : Word).extractLsb' 8 4 ≠ 0) ∧
    (run.get 5).symbol ≠ none ∧ ((run.write 29 (.form 0 1 0)).get 29).symbol ≠ none := by
  refine ⟨fun _ => ⟨rfl, rfl, rfl⟩, ?_⟩
  decide +kernel

/-- A REP in progress. -/
def rep : Rep := ⟨1, 2, 3, 0⟩

theorem witness_Repeat :
    let s := stCode run
    (s.core s.cur).run = some run ∧ run.holds g0 = true ∧ repBodyOk 20 s run = .ok () ∧ run.rep = none ∧
    (run.get 3 = .known 0 ∧ run.get 1 = .known 7 ∧ (7 : Word).toNat < 2 ^ 24 ∧
      run.get 15 = .known 0x1000000000000000 ∧ 2 ^ 24 ≤ (0x1000000000000000 : Word).toNat) ∧ (run.get 5).symbol ≠ none ∧
    (let r : Run := { run with rep := some rep }
     repBodyOk 2 (stCode r) r = .ok () ∧ r.rep ≠ none) ∧
    run.len < run.idx + (21 : BitVec 7).toNat ∧
    (({ run with rep := some rep, idx := 2 } : Run).idx + 1 = rep.start + rep.nw ∧ rep.iter + 1 < rep.count ∧
      ({ rep with iter := 2 } : Rep).count ≤ 2 + 1) := by decide +kernel

theorem witness_Finish :
    st.Issues run g0 ∧ (st.core st.cur).frame run.fid = some frame ∧ frame.ownFree = [] ∧
    (let s := module_ { core0 with frames := [(5, { frame with ownFree := [1] })] }
     s.Issues run g0 ∧ (s.core s.cur).frame run.fid = some { frame with ownFree := [1] } ∧ run.tid ∈ [1] ∧
       SMap.Rising (s.core s.cur).frames) :=
  ⟨test_issues, by decide +kernel, by decide, ⟨rfl, rfl⟩, by decide +kernel, by decide, by unfold SMap.Rising; decide⟩

theorem witness_ParkInstruction :
    st.Issues run g0 ∧ 4 ≤ run.parkw ∧ Memory.wf (st.core st.cur).lmem = true ∧
    (st.core st.cur).frame run.fid = some frame ∧ run.get 3 = .known 0 ∧
    (∀ t ∈ ([0, 1000, 2 ^ 48 - 1] : List Nat), (runPtr (BitVec.ofNat 64 (2 ^ 62 + t))).get 10
      = .known (BitVec.ofNat 64 (2 ^ 62 + t))) ∧
    (runPtr (BitVec.ofNat 64 (2 * 2 ^ 62))).get 10 = .known (BitVec.ofNat 64 (2 * 2 ^ 62)) ∧
    (run.get 2 = .known (BitVec.allOnes 64) ∧ (BitVec.allOnes 64).extractLsb' 48 14 ≠ 0) ∧
    (run.get 1 = .known 7 ∧ (7 : Word).extractLsb' 62 2 ≠ 1 ∧ (7 : Word).extractLsb' 0 48 ≠ 0) ∧
    (run.get 5).symbol ≠ none ∧ ({ run with parkw := 0 } : Run).parkw = 0 :=
  ⟨test_issues, by decide +kernel⟩

theorem witness_SoftwareTrapsAndNop :
    st.Issues run g0 ∧ st.debugOf run.region = Flash.init.deviceRegion.debug ∧
    (∀ d ∈ [1, 2, 3, 4], ({ st with regions := [(1, { Flash.init.deviceRegion with debug := d })] } : State).debugOf run.region = d) ∧
    (1 : BitVec 15) ≠ 0 :=
  ⟨test_issues, by decide +kernel⟩

/-- The device region with an arena of one slot, which the threadlet's frame holds. -/
def stFull : State := { st with regions := [(1, { Flash.init.deviceRegion with spillcap := 1 })] }

theorem witness_AllocateFrame :
    st.Issues run g0 ∧ Memory.wf (st.core st.cur).lmem = true ∧ st.region run.region = some Flash.init.deviceRegion ∧
    st.arenaSlot st.cur Flash.init.deviceRegion = some 0x20001000 ∧ (st.core st.cur).freeFid = some 1 ∧ (1 : Nat) < 65536 ∧
    (st.core st.cur).residentOf run.region < Flash.init.deviceRegion.fquota ∧ st.freeRun st.cur 2 = some 0 ∧
    (stFull.Issues run g0 ∧ stFull.region run.region = some { Flash.init.deviceRegion with spillcap := 1 } ∧
      stFull.arenaSlot stFull.cur { Flash.init.deviceRegion with spillcap := 1 } = none) ∧
    (let g := { Flash.init.deviceRegion with fquota := 2 }
     let s : State := { module_ { core0 with frames := [(5, frame), (6, { frame with base := 0x800, arena := 0x20001000 })] }
       with regions := [(1, g)] }
     s.region run.region = some g ∧ g.fquota ≤ (s.core s.cur).residentOf run.region ∧ s.victim s.cur run.region 2 true = some 6 ∧
       (s.core s.cur).frame 6 = some { frame with base := 0x800, arena := 0x20001000 } ∧ SMap.Rising (s.core s.cur).frames) := by
  unfold SMap.Rising
  refine ⟨test_issues, ?_⟩
  and_intros
  all_goals decide +kernel

/-- An operation of frame 6 that brings data into it. -/
def opGld : Op :=
  { id := 0, seq := 0, org := { run.origin with fid := 6, tid := 9 }, deferred := false, far := false,
    body := .gld 0x5000 0x820 8 false .normal 0 false }

/-- Core 0 with frames 5, 6 and 8 of the region, data on its way into frame 6, and frame 7 of another region, and with a
handle in x10. -/
def stFrames (h : Nat) : State :=
  module_ { core0 with
    run := some (runPtr (BitVec.ofNat 64 h))
    frames := [(5, frame), (6, { frame with base := 0x800, arena := 0x20001000 }),
               (7, { frame with base := 0xC00, arena := 0x20002000, region := 2 }),
               (8, { frame with base := 0x1000, arena := 0x20003000 })]
    outst := [opGld] }

theorem witness_FreeFrame :
    (∀ fid ∈ [5, 6, 7, 8, 9], let r := runPtr (BitVec.ofNat 64 (fid * 4096))
      ((stFrames (fid * 4096)).core 0).run = some r ∧ r.holds g0 = true ∧ r.get 10 = .known (BitVec.ofNat 64 (fid * 4096)) ∧
      r.fid = 5) ∧
    (∀ fid ∈ [5, 6, 8], ∃ f, ((stFrames (fid * 4096)).core 0).frame fid = some f ∧ f.region = run.region ∧
      (stFrames (fid * 4096)).frameBusy 0 fid f = false ∧
      ((stFrames (fid * 4096)).core 0).splitPhase (stFrames 0).fstore fid = decide (fid = 6)) ∧
    SMap.Rising ((stFrames 0).core 0).frames ∧ ((stFrames 0).core 0).frame 9 = none ∧
    (∃ f, ((stFrames 0).core 0).frame 7 = some f ∧ f.region ≠ run.region) ∧ (run.get 5).symbol ≠ none ∧
    (let f : Frame := { frame with parked := some heldP }
     let s := (stFrames 0x5000).setCore 0 { (stFrames 0x5000).core 0 with frames := [(5, f)], ready := [⟨6, 4, 1, 0, 0, 0, false⟩] }
     (s.core 0).frame 5 = some f ∧ f.region = run.region ∧ s.frameBusy 0 5 f = true ∧ s.frameBusy 0 6 frame = true) ∧
    run.get 15 = .known 0x1000000000000000 ∧ (0x1000000000000000 : Word).extractLsb' 28 36 ≠ 0 := by
  refine ⟨by decide +kernel, ?_, ?_, by decide +kernel, ⟨_, rfl, by decide +kernel⟩, by decide +kernel⟩
  · intro fid h
    fin_cases h <;> exact ⟨_, rfl, rfl, by decide +kernel, by decide +kernel⟩
  · unfold SMap.Rising; decide +kernel

/-- An arrival at a slot of a frame. -/
def arrivalTo (fid : Nat) : Arrival :=
  { fid := fid, slot := 6, dec := 1, data := .none, err := false, region := 1, sloti := none }

/-- The threadlet with a slot handle in x10 and a slot word in x11. -/
def runSlot (slot : Nat) (x : Slot) : Run :=
  (run.write 10 (.known (BitVec.ofNat 64 (5 * 4096 + slot)))).write 11 (.known x.word)

theorem witness_SlotWords :
    (∀ slot ∈ [4, 6, 127], ∀ x ∈ ([⟨2 ^ 28 - 1, 3, true, false, 2 ^ 24 - 1⟩, ⟨0x10020, 1, false, false, 1⟩,
        ⟨0x10020, 0, false, true, 0⟩] : List Slot),
      let s := stRun (runSlot slot x)
      (s.core s.cur).run = some (runSlot slot x) ∧ (runSlot slot x).holds g0 = true ∧ slot < frameWords frame.cls ∧
      (runSlot slot x).get 10 = .known (BitVec.ofNat 64 (5 * 4096 + slot)) ∧ (runSlot slot x).get 11 = .known x.word ∧
      (s.core s.cur).frame 5 = some frame ∧ frame.region = run.region ∧ frame.st = .resident ∧
      Memory.wf (s.core s.cur).lmem = true ∧ s.intakeStopped s.cur = false ∧ (s.core s.cur).ready.length < 1024 ∧
      ∀ y ∈ (s.core s.cur).refq, y.fid ≠ 5) ∧
    (∀ slot ∈ [3, 128], (runSlot slot ⟨0, 0, false, false, 0⟩).get 10 = .known (BitVec.ofNat 64 (5 * 4096 + slot)) ∧
      (slot < 4 ∨ frameWords frame.cls ≤ slot)) ∧
    (let s := (stRun run).setCore 0 { core0 with refq := List.replicate 31 (arrivalTo 6), blocked := some (arrivalTo 5) }
     s.intakeStopped s.cur = true ∧ (s.core s.cur).refq.length < 32) ∧
    (let s := (stRun run).setCore 0 { core0 with refq := List.replicate 32 (arrivalTo 5), frames := [(5, { frame with st := .spilled })] }
     (s.core s.cur).frame 5 = some { frame with st := .spilled } ∧ 32 ≤ (s.core s.cur).refq.length ∧
       ∃ y ∈ (s.core s.cur).refq, y.fid = 5) ∧
    ((0x1000000000000000 : Word).extractLsb' 60 4 ≠ 0 ∧ (0x10000000 : Word).extractLsb' 28 4 ≠ 0 ∧
      run.get 15 = .known 0x1000000000000000 ∧ (0x1000000000000000 : Word).extractLsb' 28 36 ≠ 0 ∧
      (st.core st.cur).frame 9 = none ∧ (run.get 5).symbol ≠ none ∧ run.priv = true ∧
      ({ frame with region := 2 } : Frame).region ≠ run.region ∧ ({ run with priv := false } : Run).priv = false) := by
  decide +kernel

theorem witness_SlotReference :
    st.Issues run g0 ∧ (runPtr (BitVec.ofNat 64 (65535 * 4096 + 4095))).get 10 = .known (BitVec.ofNat 64 (65535 * 4096 + 4095)) ∧
    st.cur < 2048 ∧ st.brielo.number < 256 ∧
    (run.get 15 = .known 0x1000000000000000 ∧ (0x1000000000000000 : Word).extractLsb' 28 36 ≠ 0) ∧ (run.get 5).symbol ≠ none :=
  ⟨test_issues, by decide +kernel⟩

/-- A reference to slot 6 of frame 5 of core 0, and one whose slot index has bits beyond it. -/
def goodRef : Word := refWord 0 0 5 6
def badRef : Word := 1

/-- An earlier store that is not acknowledged, and an earlier load. -/
def opStore : Op :=
  { id := 0, seq := 0, org := run.origin, deferred := false, far := false, body := .gst 0x5000 8 7 none }

/-- The module with a reference in x10, and another with an unacknowledged store of the threadlet besides. -/
def stRef (w : Word) : State := stRun (runPtr w)
def stRefBusy (w : Word) : State := module_ { core0 with run := some (runPtr w), outst := [opStore], nextSeq := 1 }

theorem test_reaches (s : State) (a : Agent) (h : s.brielo.drain = []) : s.Reaches a := by
  intro m _; simp [h, SMap.has, SMap.find]

theorem witness_Signals :
    ((stRef goodRef).Issues (runPtr goodRef) g0 ∧ (runPtr goodRef).get 10 = .known goodRef ∧ (runPtr goodRef).get 1 = .known 7 ∧
      (stRef goodRef).refOk goodRef = true ∧ (stRef goodRef).Reaches ((stRef goodRef).refAgent (Ref.of goodRef)) ∧
      (stRef goodRef).MayIssue (runPtr goodRef)) ∧
    (∀ b ∈ [false, true], let s := if b then stRefBusy goodRef else stRef goodRef
      let r := runPtr goodRef
      (s.core s.cur).acqPending r.tid = [] ∧ s.effectsResolved r = .ok () ∧ s.stageRoom r = .ok () ∧ (s.core s.cur).comb = [] ∧
      ((s.core s.cur).barrierMet ⟨(s.core s.cur).nextSeq, r.origin,
        .release (s.opOf r (.signal goodRef 1 .none true false)), []⟩) = !b) ∧
    ((stRef badRef).Issues (runPtr badRef) g0 ∧ (runPtr badRef).get 10 = .known badRef ∧ (stRef badRef).refOk badRef = false) := by
  unfold State.MayIssue
  refine ⟨⟨⟨rfl, rfl⟩, ?_, ?_, ?_, test_reaches _ _ rfl, ?_⟩, ?_, ⟨rfl, rfl⟩, ?_⟩
  all_goals decide +kernel

theorem witness_NullSignals :
    (∀ b ∈ [false, true], let w := if b then goodRef else 0
      ((stRef w).core 0).run = some (runPtr w) ∧ (runPtr w).holds ⟨0, true⟩ = false ∧
      ((stRef w).core 0).acqPending 1 = [] ∧ ((stRef w).core 0).mustWait 1 0 = false ∧
      (runPtr w).get 10 = .known w ∧ (runPtr w).get 0 = .known 0) ∧
    (run.reg (20 + 1) = .known 0x40000 ∧ run.reg (20 + 2) = .known 128 ∧ run.reg (20 + 3) = .known 2) ∧
    ((stRef goodRef).refOk goodRef = true ∧ (stRef badRef).refOk badRef = false ∧ run.get 6 = .form 0 3 5 ∧
      (stRef 0).supply (runPtr 0) 0 1 = .ok () ∧ SMap.firstFree ((stRef 0).core 0).pool 0 256 = some 0 ∧
      (stRef 0).effectsResolved (runPtr 0) = .ok ()) ∧
    (∀ b ∈ [false, true], let s := if b then stRefBusy goodRef else stRef goodRef
      let r := runPtr goodRef
      s.effectsResolved r = .ok () ∧ s.stageRoom r = .ok () ∧ (s.core s.cur).comb = [] ∧
      ((s.core s.cur).barrierMet ⟨(s.core s.cur).nextSeq, r.origin,
        .release (s.opOf r (.signal goodRef 1 .none true false)), []⟩) = !b) ∧ ∀ w, (stRef w).Reaches ((stRef w).refAgent (Ref.of w)) := by
  refine ⟨?_, ?_, ?_, ?_, fun _ => test_reaches _ _ rfl⟩
  all_goals decide +kernel

/-- The threadlet with the words of a message, or of a command of an engine, from x20 on. -/
def runGrp (ws : List Word) : Run :=
  { run with x := (SMap.set run.x 10 (.known goodRef)).filter (fun e => !(decide (20 ≤ e.1 ∧ e.1 ≤ 27))) ++
      ((List.range 8).map fun j => (20 + j, RVal.known (wordAt ws j))) }

/-- A reference to trigger 9 of front end 0. -/
def trigRef : Word := 0x8000000000048000

/-- The module with a word in the first entry of the region's affinity table, and with the same entry in a state where a fence
waits for a store. -/
def stAff (ws : List Word) (e : Nat) : State :=
  { stRun (runGrp ws) with mem := Cells.write [] Flash.init.deviceRegion.afftab (bytesOf 2 e) }
def stFenced (ws : List Word) : State :=
  module_ { core0 with run := some (runGrp ws), barriers := [⟨0, run.origin, .fence true true true .s, []⟩], outst := [opStore],
                       nextSeq := 1 }

/-- An address hashes to what the region's affinity table holds, where nothing is cached, bound or lost. -/
theorem test_hashes {s : State} {a : Agent} {addr : Word} {e : Nat} (hr : s.region 1 = some Flash.init.deviceRegion)
    (hl : s.lost = []) (hb : s.bindings = []) (hc : s.affCache a = [])
    (hm : natOf (Cells.read s.mem (Flash.init.deviceRegion.afftab + 2 * ((addr.extractLsb' 0 52).toNat
      / 2 ^ Flash.init.deviceRegion.affg % Flash.init.deviceRegion.affm)) 2) = e) : s.Hashes a 1 addr e :=
  ⟨_, hr, hl, fun _ _ => by unfold State.bindingAt; rw [hb]; rfl, hm, fun _ hv => by simp [hc] at hv⟩

/-- Entry 0 names core 0; entry 2,048 has bit 11 set, which no entry may have. -/
theorem test_owns {s : State} (hr : s.region 1 = some Flash.init.deviceRegion) : s.Owns 1 0 ∧ ¬ s.Owns 1 2048 :=
  ⟨⟨by decide, _, hr, by decide +kernel⟩, fun h => absurd h.1 (by decide)⟩

theorem witness_MessagesAndTriggers_owner (ws : List Word) :
    ((stAff ws 0).Hashes (.core 0) 1 0x5000 0 ∧ (stAff ws 0).Owns 1 0) ∧
    (stAff ws 2048).Hashes (.core 0) 1 0x5000 2048 ∧ ¬ (stAff ws 2048).Owns 1 2048 :=
  ⟨⟨test_hashes rfl rfl rfl rfl (by simp only [stAff]; decide +kernel), (test_owns rfl).1⟩,
    test_hashes rfl rfl rfl rfl (by simp only [stAff]; decide +kernel), (test_owns rfl).2⟩

theorem witness_MessagesAndTriggers :
    (let ws : List Word := [3, 0x5000, 1, 2, 3, 4, 5, 6]
     (∀ s ∈ [stAff ws 0, stAff ws 2048, stFenced ws], (s.core s.cur).run = some (runGrp ws) ∧
       (s.core s.cur).acqPending 1 = [] ∧ s.domainOf 1 = some 1) ∧
     ((stAff ws 0).core 0).mustWait 1 0 = false ∧ ((stAff ws 2048).core 0).mustWait 1 0 = false ∧
     ((stFenced ws).core 0).mustWait 1 1 = true ∧ ((stFenced ws).core 0).stageOpen = true ∧
     (runGrp ws).holds g0 = true ∧ ws.length = 8 ∧ (runGrp ws).group 20 8 = ws.map .known ∧
     (runGrp ws).get 20 = .known (wordAt ws 0) ∧ (wordAt ws 0).extractLsb' 28 36 = 0 ∧ wordAt ws 1 = 0x5000) ∧
    (runGrp [0x10000000]).get 20 = .known 0x10000000 ∧ (0x10000000 : Word).extractLsb' 28 36 ≠ 0 ∧
    (run.get 1 = .known 7 ∧ (7 : Word).extractLsb' 28 36 = 0 ∧ (run.group 1 8).any (fun v => v.symbol.isSome) = true) := by
  decide +kernel

/-- The same threadlet with a poisoned word at 0x50040. -/
def stPoisoned (ws : List Word) : State := module_ { core0 with run := some (runGrp ws), lpoison := [0xA008] }

/-- The threadlet with those words from x20 on runs. -/
def fits (ws : List Word) (s : State) : Bool :=
  decide ((s.core s.cur).run = some (runGrp ws) ∧ (runGrp ws).group 20 3 = (ws.take 3).map .known ∧
    (runGrp ws).reg 20 = .known (wordAt ws 0) ∧ (runGrp ws).reg 21 = .known (wordAt ws 1) ∧
    (runGrp ws).reg 22 = .known (wordAt ws 2))

theorem witness_MessagesAndTriggers_arm :
    (fits [goodRef, 0, 0] (stRun (runGrp [goodRef, 0, 0])) = true ∧ (Ref.of goodRef).t = false ∧
      fits [badRef, 0, 0] (stRun (runGrp [badRef, 0, 0])) = true ∧ st.refOk badRef = false ∧
      st.refOk trigRef = true ∧ (Ref.of trigRef).t = true) ∧
    (∀ n ∈ [0x1000000, 0xFFFFFF], ∀ p ∈ [0x170020, 0x180000, 0x50040, 0x170000],
      let ws : List Word := [trigRef, BitVec.ofNat 64 n, BitVec.ofNat 64 p]
      fits ws (stPoisoned ws) = true ∧ fits ws (stFenced ws) = true ∧ decide (n < 2 ^ 24) = decide (n = 0xFFFFFF) ∧
      decide (p % 64 = 0) = decide (p ≠ 0x170020) ∧
      (p = 0x170020 ∨ (stPoisoned ws).localOk 0 5 p 64 false = decide (p ≠ 0x180000)) ∧
      touches ((stPoisoned ws).core 0).lpoison p 64 = decide (p = 0x50040)) ∧
    ((run.write 10 (.known trigRef)).write 11 (.known 5)).group 10 3 = [.known trigRef, .known 5, .known 0x10] ∧
    (((run.write 4 (.known trigRef)).group 4 3).any fun v => v.symbol.isSome) = true := by
  decide +kernel

/-- The module with three bytes in scratch and a poisoned word behind them. -/
def stLocal (a : Nat) : State :=
  module_ { core0 with run := some (runPtr (BitVec.ofNat 64 a)), lmem := [(0x50000, 0x11), (0x50001, 0x22), (0x50003, 0x80)],
                       lpoison := [0xA008] }

theorem witness_LocalLoads :
    (∀ a ∈ [0x50000, 0x50001, 0x50040, 0x180000, 0x41C, 0x400], let s := stLocal a
      let r := runPtr (BitVec.ofNat 64 a)
      (s.core s.cur).run = some r ∧ r.holds g0 = true ∧ r.get 10 = .known (BitVec.ofNat 64 a) ∧
      (BitVec.ofNat 64 a + BitVec.ofInt 64 ((0 : BitVec 8).toInt * 4)).toNat = a) ∧
    0x50001 % 4 ≠ 0 ∧ (stLocal 0).localOk 0 5 0x180000 4 false = false ∧ (stLocal 0).localOk 0 5 0x3FC 4 false = false ∧
    (stLocal 0).localOk 0 5 0x400 4 false = true ∧
    ((stLocal 0).localOk 0 5 0x50040 4 false = true ∧ touches ((stLocal 0).core 0).lpoison 0x50040 4 = true) ∧
    ((stLocal 0).localOk 0 5 0x50000 64 false = true ∧ touches ((stLocal 0).core 0).lpoison 0x50000 64 = false) ∧
    (Cells.read ((stLocal 0).core 0).lmem 0x60000 (chunkBytes 0).length = chunkBytes 0 ∧ (chunkBytes 0).length = 4 ∧
      (stLocal 0).localOk 0 5 0x60000 4 false = true ∧ touches ((stLocal 0).core 0).lpoison 0x60000 4 = false) ∧
    (run.get 5).symbol ≠ none := by decide +kernel

/-- The threadlet with a chunk's address in x10 and a limit in x11, and chunks at the end of the local memory, before a poisoned
word, with padding that is not zero, and of two elements. -/
def stChunk (p lim : Nat) : State :=
  module_ { core0 with run := some ((run.write 10 (.known (BitVec.ofNat 64 p))).write 11 (.known (BitVec.ofNat 64 lim)))
                       lmem := Cells.write (Cells.write (Cells.write (Cells.write [] 0x5003C [3]) 0x51000 [1, 0, 0, 0, 9, 0, 7])
                         0x52000 [3, 0, 0, 0, 9, 0, 7]) 0x17FFFC [3]
                       lpoison := [0xA008] }

theorem witness_LocalLoads_chunks :
    (∀ x ∈ [(0x51002, 0x60000), (0x51000, 0x51003), (0x17FFFC, 0x200000), (0x52000, 0x52007), (0x51000, 0x51008),
        (0x52000, 0x52008)], let s := stChunk x.1 x.2
      s.Issues ((run.write 10 (.known (BitVec.ofNat 64 x.1))).write 11 (.known (BitVec.ofNat 64 x.2))) g0) ∧
    (let s := stChunk 0 0
     s.localOk 0 5 0x180000 4 false = false ∧ s.localOk 0 5 0x50040 4 false = true ∧
     (∀ p ∈ [0x5003C, 0x51000, 0x52000, 0x17FFFC], s.localOk 0 5 p 4 false = true ∧ touches (s.core 0).lpoison p 4 = false) ∧
     touches (s.core 0).lpoison 0x50040 4 = true ∧ s.localOk 0 5 0x17FFFC 8 false = false ∧
     s.localOk 0 5 0x5003C 8 false = true ∧ touches (s.core 0).lpoison 0x5003C 8 = true ∧
     natOf (Cells.read (s.core 0).lmem 0x51000 4) = 1 ∧ natOf (Cells.read (s.core 0).lmem 0x51006 2) ≠ 0 ∧
     natOf (Cells.read (s.core 0).lmem 0x52000 4) = 3 ∧ touches (s.core 0).lpoison 0x52000 8 = false) ∧
    (0x50001 % 64 ≠ 0 ∧ (stLocal 0).localOk 0 5 0x180000 64 false = false ∧ (stLocal 0).localOk 0 5 0x50040 64 false = true ∧
      touches ((stLocal 0).core 0).lpoison 0x50040 64 = true) :=
  ⟨fun x _ => ⟨rfl, rfl⟩, by decide +kernel, by decide +kernel⟩

theorem witness_LocalStores :
    (∀ a ∈ [0x50000, 0x60000, 0x420, 0x400, 0x41F], let s := stLocal a
      let r := runPtr (BitVec.ofNat 64 a)
      (s.core s.cur).run = some r ∧ r.holds g0 = true ∧ r.get 10 = .known (BitVec.ofNat 64 a) ∧ r.get 1 = .known 7 ∧
      Memory.wf (s.core s.cur).lmem = true ∧ (scaled (BitVec.ofNat 64 a) 0 1).toNat % 1 = 0) ∧
    ((scaled 0x50000 0 8).toNat % 8 = 0 ∧ (stLocal 0).localOk 0 5 0x50000 8 true = true ∧
      (stLocal 0).localOk 0 5 0x420 8 true = true ∧ (stLocal 0).localOk 0 5 0x418 8 true = false) ∧
    ((0x50000 + BitVec.ofInt 64 ((0 : BitVec 11).toInt * 64) : Word).toNat % 64 = 0 ∧
      (stLocal 0).localOk 0 5 0x50000 64 true = true) ∧
    ((0x60000 : Word).toNat % 4 = 0 ∧ (0x60000 : Word).toNat + (chunkBytes (run.vec 0)).length ≤ (0x60004 : Word).toNat ∧
      (0x60003 : Word).toNat < (0x60000 : Word).toNat + (chunkBytes (run.vec 0)).length) ∧
    (((stLocal 0).core 0).frame 5 = some frame ∧ frame.base ≤ 0x41F ∧ 0x41F < frame.base + 32 ∧
      frame.base + 32 ≤ (stLocal 0).fstore ∧ (stLocal 0).fstore ≤ localEnd) ∧
    ((scaled 0x50001 0 8).toNat % 8 ≠ 0 ∧ (0x50001 : Word).toNat % 64 ≠ 0 ∧ (0x50001 : Word).toNat % 4 ≠ 0 ∧
      (stLocal 0).localOk 0 5 0x400 64 true = false ∧ (stLocal 0).localOk 0 5 0x41C 4 true = false ∧
      (chunkBytes (run.vec 0)).length = 4 ∧ (run.get 5).symbol ≠ none) := by decide +kernel

theorem test_reaches_all : st.MayIssue run ∧ ∀ a, st.Reaches a := ⟨test_mayIssue, fun _ => test_reaches _ _ rfl⟩

theorem witness_GlobalLoads :
    st.Issues run g0 ∧ st.MayIssue run ∧
    (let ws : List Word := [0x60000, 0xFFFFFFFFFFFF8]
     let s := stRun (runGrp ws)
     let r := runGrp ws
     (s.core s.cur).run = some r ∧ r.holds g0 = true ∧ r.group 20 2 = [.known 0x60000, .known 0xFFFFFFFFFFFF8] ∧
     r.get 10 = .known goodRef ∧ s.refOk goodRef = true ∧ (0xFFFFFFFFFFFF8 : Word).toNat < 2 ^ 52 ∧
     0xFFFFFFFFFFFF8 % 8 = 0 ∧ s.localOk s.cur r.fid 0x60000 8 true = true ∧
     s.watch r false [(0xFFFFFFFFFFFF8, 8)] = .ok () ∧ s.routed r [0xFFFFFFFFFFFF8] = .ok ()) ∧
    (∀ b ∈ [(0x60000, 2 ^ 52), (0x60000, 0x5004), (0x60004, 0x5008), (0x180000, 0x5008)],
      let ws : List Word := [BitVec.ofNat 64 b.1, BitVec.ofNat 64 b.2]
      (runGrp ws).group 20 2 = ws.map .known ∧ (runGrp ws).get 10 = .known goodRef) ∧
    (0x5004 % 8 ≠ 0 ∧ 0x5008 % 8 = 0 ∧ 0x60004 % 8 ≠ 0 ∧ 0x180000 % 8 = 0 ∧ st.localOk 0 5 0x180000 8 true = false ∧
      run.get 1 = .known 7 ∧ (scaled 7 0 8).toNat < 2 ^ 52 ∧ (scaled 7 0 8).toNat % 8 ≠ 0) ∧
    (run.get 10 = .known 0x5008 ∧ (scaled 0x5008 0 8).toNat = 0x5008 ∧ st.watch run false [(0x5008, 8)] = .ok () ∧
      st.watch run false [(0x5008, 1)] = .ok () ∧ st.routed run [0x5008] = .ok () ∧ st.supply run 0 0 = .ok () ∧
      SMap.firstFree (st.core st.cur).syms 0 64 = some 3 ∧ st.supply (run.write 11 (.form 3 1 0)) 1 0 = .ok ()) ∧
    (run.get 15 = .known 0x1000000000000000 ∧ 2 ^ 52 ≤ (scaled 0x1000000000000000 0 8).toNat ∧
      2 ^ 52 ≤ (0x1000000000000000 + BitVec.ofInt 64 (0 : BitVec 11).toInt : Word).toNat) :=
  ⟨test_issues, test_mayIssue, by and_intros <;> decide +kernel⟩

theorem witness_GlobalStores :
    st.Issues run g0 ∧ st.MayIssue run ∧ run.get 11 = .known 0x6000 ∧ run.get 1 = .known 7 ∧
    ((scaled 0x6000 0 8).toNat = 0x6000 ∧ st.watch run true [(0x6000, 8)] = .ok () ∧ st.routed run [0x6000] = .ok ()) ∧
    (run.get 12 = .known 0x10 ∧ run.reg (12 + 1) = .known 0x20000 ∧ (0x20000 : Word).toNat % 4 = 0) ∧
    (run.get 15 = .known 0x1000000000000000 ∧ 2 ^ 52 ≤ (scaled 0x1000000000000000 0 8).toNat) ∧
    (run.get 1 = .known 7 ∧ (scaled 7 0 8).toNat % 8 ≠ 0 ∧ (scaled 7 0 64).toNat % 64 ≠ 0 ∧
      (scaled 0x1000000000000000 0 64).toNat % 64 = 0 ∧ 2 ^ 52 ≤ (scaled 0x1000000000000000 0 64).toNat) ∧
    ((scaled 0x6000 0 64).toNat = 0x6000 ∧ ((run.mask 0).setWidth 16 : BitVec 16) ≠ 0 ∧
      ((run.mask 1).setWidth 16 : BitVec 16) = 0 ∧
      st.watch run true ((List.range 16).map fun i => (0x6000 + 4 * i, 4)) = .ok ()) :=
  ⟨test_issues, test_mayIssue, by decide +kernel⟩

theorem witness_Atomics :
    st.Issues run g0 ∧ st.MayIssue run ∧ run.get 11 = .known 0x6000 ∧ run.get 1 = .known 7 ∧
    st.watch run true [(0x6000, 8)] = .ok () ∧ st.routed run [0x6000] = .ok () ∧ st.supply run 0 0 = .ok () ∧
    SMap.firstFree (st.core st.cur).syms 0 64 = some 3 ∧ st.supply (run.write 13 (.form 3 1 0)) 1 0 = .ok () ∧
    run.get 13 = .known 0x20000 ∧
    (run.get 12 = .known 0x10 ∧ run.reg (12 + 1) = .known 0x20000 ∧ run.get 2 = .known (BitVec.allOnes 64) ∧
      run.reg (2 + 1) = .known 0 ∧ 0x6000 % 16 = 0 ∧ st.watch run true [(0x6000, 16)] = .ok () ∧
      SMap.has (st.core st.cur).syms 4 = false ∧ (∀ j, j < 4 → 3 < j → SMap.has (st.core st.cur).syms j = true) ∧
      st.supply ((run.write 12 (.form 3 1 0)).write 13 (.form 4 1 0)) 2 0 = .ok ()) ∧
    (run.get 10 = .known 0x5008 ∧ 0x5008 % 8 = 0 ∧ 0x5009 % 8 ≠ 0) :=
  ⟨test_issues, test_mayIssue, by decide +kernel⟩

/-- A deferred effect of the threadlet over symbol 0. -/
def poolSig : PoolEntry := ⟨0, run.origin, .effect (.sig false 1) [.form 0 1 0]⟩

/-- Core 0 with an unacknowledged store, behind a fence, with a symbol of an .ACQ atomic, with an open deferred effect, with a full
order stage behind a fence, and without a free symbol. -/
def coresAtomic : List Core :=
  let fence : Barrier := ⟨0, run.origin, .fence true true true .s, []⟩
  [{ core0 with outst := [opStore], nextSeq := 1 }, { core0 with barriers := [fence], outst := [opStore], nextSeq := 1 },
   { core0 with syms := [(0, sym), (2, { sym with acq := true })] }, { core0 with pool := [(0, poolSig)], nextSeq := 1 },
   { core0 with barriers := [fence], stage := List.replicate 32 opStore, nextSeq := 1 },
   { core0 with syms := (List.range 64).map fun k => (k, sym) }]

theorem witness_Atomics_orders :
    (acquires .rlx = false ∧ releases .rlx = false ∧ acquires .acqRel = true ∧ releases .acqRel = true) ∧
    (let body : OpBody := .atom .faa 0x6000 8 7 0 none none
     (coresAtomic.map fun c => let s := module_ c
       (c.mustWait 1 c.nextSeq, c.stageOpen, c.acqPending 1, c.effectsOpen 1 c.nextSeq,
        c.barrierMet ⟨c.nextSeq, run.origin, .release (s.opOf run body), []⟩)) =
      [(false, true, [], false, false), (true, true, [], false, false), (false, true, [2], false, true),
       (false, true, [], true, false), (true, false, [], false, false), (false, true, [], false, true)] ∧
     (st.core st.cur).mustWait 1 0 = false ∧
     (st.core st.cur).barrierMet ⟨0, run.origin, .release (st.opOf run body), []⟩ = true) ∧
    (∀ c ∈ coresAtomic.take 2, (module_ c).effectsResolved run = .ok () ∧ (module_ c).stageRoom run = .ok () ∧ c.comb = []) ∧
    (∀ c ∈ coresAtomic.take 5, (module_ c).supply (run.write 13 (.form 64 1 0)) 1 0 = .ok ()) ∧
    64 < 1 + (coresAtomic.getD 5 core0).syms.length ∧
    (run.get 15 = .known 0x1000000000000000 ∧ 2 ^ 52 ≤ (0x1000000000000000 : Word).toNat ∧ run.get 1 = .known 7 ∧
      (7 : Word).toNat % 8 ≠ 0 ∧ (0x5008 : Word).toNat % 16 ≠ 0) ∧ (run.get 5).symbol ≠ none ∧
    (∀ x ∈ [run.get 11, run.get 1, run.get 13, run.reg (2 + 1)], x.symbol = none) := by decide +kernel

theorem witness_DeferredEffects :
    st.Issues run g0 ∧ (st.core st.cur).acqPending run.tid = [] ∧ st.supply run 0 1 = .ok () ∧
    SMap.firstFree (st.core st.cur).pool 0 256 = some 0 ∧ run.get 6 = .form 0 3 5 ∧ run.get 12 = .known 0x10 ∧
    run.reg (12 + 1) = .known 0x20000 ∧ run.group 4 2 = [.known 0x8000000000000000, .form 0 1 0] ∧
    SMap.find (st.core st.cur).syms 0 = some sym ∧ sym.st ≠ .awaiting ∧
    SMap.firstFree (st.core st.cur).syms 0 64 = some 3 ∧ st.supply (run.write 11 (.form 3 1 0)) 1 1 = .ok () ∧
    st.effectsResolved run = .ok () ∧ (run.get 1 = .known 7 ∧ st.refOk 7 = false) ∧ (1 : XReg) ≠ 0 ∧
    ((runPtr goodRef).get 10 = .known goodRef ∧ st.refOk goodRef = true) ∧ st.streamOf run.region 2 = none ∧
    (run.get 15 = .known 0x1000000000000000 ∧ 2 ^ 52 ≤ (scaled 0x1000000000000000 0 8).toNat ∧
      (scaled 7 0 8).toNat % 8 ≠ 0 ∧ (scaled 7 0 8).toNat < 2 ^ 52 ∧ (scaled 0x10 0 8).toNat % 8 = 0 ∧
      (0x10 : Word).toNat % 4 = 0 ∧ (0x20000 : Word).toNat % 4 = 0 ∧ (7 : Word).toNat % 4 ≠ 0) ∧
    (∀ v : Word, ((run.write 20 (.known v)).write 21 (.form 0 3 5)).group 20 2 = [.known v, .form 0 3 5] ∧
      ((run.write 20 (.form 0 3 5)).write 21 (.known v)).group 20 2 = [.form 0 3 5, .known v]) ∧
    (st.localOk st.cur run.fid 0x60000 8 true = true ∧ st.localOk st.cur run.fid 0x180000 8 true = false ∧
      0x60000 % 8 = 0 ∧ 0x180000 % 8 = 0) := by
  refine ⟨test_issues, ?_⟩
  and_intros
  all_goals first | exact fun _ => ⟨rfl, rfl⟩ | decide +kernel

theorem witness_Fences :
    st.Issues run g0 ∧ st.effectsResolved run = .ok () ∧
    (st.core st.cur).barrierMet ⟨0, run.origin, .fence true true true .s, []⟩ = true ∧
    (let s := stRefBusy 0
     (s.core s.cur).barrierMet ⟨1, (runPtr 0).origin, .fence true true true .s, []⟩ = false ∧ (s.core s.cur).comb = [] ∧
     s.effectsResolved (runPtr 0) = .ok ()) ∧
    (let c : Core := { core0 with pool := [(0, poolSig)], nextSeq := 1 }
     (0, poolSig) ∈ c.pool ∧ poolSig.org.tid = run.tid ∧ poolSig.isEffect = true ∧ (poolSig.seq < c.nextSeq) ∧
       0 ∈ poolSig.symbols ∧ c.symOpen 0 = true) ∧
    (run.get 11 = .known 0x6000 ∧ run.get 12 = .known 0x10 ∧ 0x6000 + 0x10 ≤ 2 ^ 52 ∧
      run.get 15 = .known 0x1000000000000000 ∧ 2 ^ 52 < (0x1000000000000000 : Word).toNat + 0x10) ∧
    (run.get 5).symbol ≠ none :=
  ⟨test_issues, by decide +kernel⟩

/-- A binding of the region's stream 2: 32-bit addition over the megabyte at 1 MiB. -/
def bind : Binding :=
  { desc := 0, base := 0x100000, length := 0x100000, logBase := 0x4000000, logMb := 1, binLim := 0, binW := 0, oper := 0,
    stream := 2 }

/-- The module with that binding in the region's first place. -/
def stBound : State :=
  { st with regions := [(1, { Flash.init.deviceRegion with ubind := [some 4, none, none, none, none, none, none, none] })],
            bindings := [(4, bind)], allot := 1 }

theorem witness_Updates :
    (stBound.Issues run g0 ∧ stBound.MayIssue run) ∧
    (run.get 11 = .known 0x6000 ∧ run.get 1 = .known 7 ∧ stBound.streamOf run.region 2 = some (4, bind) ∧
      stBound.streamOf run.region 3 = none ∧ operSize bind.oper = 4) ∧
    ((0x6000 : Word).toNat % 4 = 0 ∧ stBound.watch run true [(0x6000, 4)] = .ok () ∧ (7 : Word).toNat % 4 ≠ 0 ∧
      run.get 15 = .known 0x1000000000000000 ∧ (0x1000000000000000 : Word).toNat % 4 = 0 ∧
      2 ^ 52 ≤ (0x1000000000000000 : Word).toNat) ∧
    (updPairs 4 0x6000 (run.vec 0) (run.vec 0) (run.mask 1) = [] ∧
      (let ps := updPairs 4 0x6000 (run.vec 0) (run.vec 0) (run.mask 0)
       ps ≠ [] ∧ (ps.all fun q => decide (q.1.toNat % 4 = 0 ∧ q.1.toNat < 2 ^ 52)) = true ∧
       stBound.watch run true (ps.map fun q => (q.1.toNat, 4)) = .ok ()) ∧
      (∃ i < 16, (run.mask 0).getLsbD i = true) ∧ (∀ i < 16, (run.mask 1).getLsbD i = false) ∧
      ∀ y ∈ (stBound.core stBound.cur).barriers, y.org.tid ≠ run.tid) ∧
    (run.get 3 = .known 0 ∧ run.get 12 = .known 0x10 ∧ (0x6000 : Word).toNat + 0x10 ≤ 2 ^ 52 ∧
      (stBound.region run.region).isSome = true) ∧ (run.get 5).symbol ≠ none := by
  refine ⟨⟨⟨rfl, rfl⟩, ?_⟩, by decide +kernel⟩
  unfold State.MayIssue; decide +kernel

/-- A late operand of an update beside a known one: bound, misaligned, and beyond the address bits. -/
theorem witness_DeferredEffects_bound :
    stBound.Issues run g0 ∧ stBound.streamOf run.region 2 = some (4, bind) ∧ run.get 5 = .form 0 1 0 ∧
    (7 : Word).toNat % operSize bind.oper ≠ 0 ∧ (0x6000 : Word).toNat % operSize bind.oper = 0 ∧
    (0x1000000000000000 : Word).toNat % operSize bind.oper = 0 ∧ 2 ^ 52 ≤ (0x1000000000000000 : Word).toNat ∧
    stBound.supply run 0 1 = .ok () := ⟨⟨rfl, rfl⟩, by decide +kernel⟩

/-- A copy command, and a tile command. -/
def cmdC : CopyCmd :=
  { id := 0, seq := 0, org := run.origin, kind := .cpym false, grp := [], y := 0, started := false, pos := 0, pieces := [],
    counted := 0, recv := [], reported := [], resv := none, fault := none, err := false, told := false, held := false, published := false }
def cmdT : TileCmd :=
  { id := 0, seq := 0, org := run.origin, kind := .fenceq, grp := [], y := 0, started := false, left := 0, pair := none,
    row := 0, recAt := 0, err := false, fault := none, bad := false, done := false }

/-- The module with an operand group from x20, queues of `n` commands, and ring 1 configured with two tiles of four. -/
def stEng (n : Nat) (ws : List Word) : State :=
  module_ { core0 with run := some (runGrp ws), copyq := List.replicate n cmdC, tileq := List.replicate n cmdT,
                       rings := [(1, ⟨0x50000, 4, false, 0x60000, 0, 2, 0⟩), (2, ⟨0x50000, 4, false, 0x60000, 0, 2, 1⟩)] }

theorem witness_EngineCommands :
    (∀ n ∈ [0, 31, 32], let ws : List Word := [0x60000, 2, 0x80000, 4, 5, 6]
      let s := stEng n ws
      let r := runGrp ws
      (s.core s.cur).run = some r ∧ r.holds g0 = true ∧
      (∀ k ∈ [1, 2, 3, 5, 6], (ws.take k).length = k ∧ r.group 20 k = (ws.take k).map .known) ∧
      r.get 10 = .known goodRef ∧ r.get 3 = .known 0 ∧ s.refOk goodRef = true ∧ (s.core s.cur).acqPending r.tid = [] ∧
      (s.core s.cur).copyq.length = n ∧ (s.core s.cur).tileq.length = n) ∧
    (run.get 1 = .known 7 ∧ st.refOk 7 = false) ∧ ((run.group 4 2).any fun v => v.symbol.isSome) = true ∧
    (∀ b ∈ [(2, true), (64, true), (1, false), (65, false)],
      let ws : List Word := [0x60000, BitVec.ofNat 64 b.1, 0x80000]
      let r := runGrp ws
      let s := stEng 0 ws
      r.group 20 3 = ws.map .known ∧ r.reg 20 = .known 0x60000 ∧ r.reg 21 = .known (BitVec.ofNat 64 b.1) ∧
      r.reg 22 = .known 0x80000 ∧ 0x60000 % 512 = 0 ∧ b.1 < 128 ∧ 0x80000 % 8 = 0 ∧ s.fstore ≤ 0x60000 ∧
      0x60000 + 512 * b.1 ≤ localEnd ∧ 0x80000 + 8 * b.1 ≤ localEnd ∧ 0x60000 + 512 * b.1 ≤ 0x80000 ∧
      decide (2 ≤ b.1 ∧ b.1 ≤ 64) = b.2) ∧
    (∀ len ∈ [0, 4, 0x120000], let ws : List Word := [0x60000, BitVec.ofNat 64 len]
      let r := runGrp ws
      r.group 20 2 = ws.map .known ∧ r.reg 20 = .known 0x60000 ∧ r.reg 21 = .known (BitVec.ofNat 64 len) ∧
      0x60000 + len ≤ localEnd) ∧
    (let c := (stEng 0 []).core 0
     SMap.find c.rings 0 = none ∧ SMap.find c.rings 1 = some ⟨0x50000, 4, false, 0x60000, 0, 2, 0⟩ ∧
     SMap.find c.rings 2 = some ⟨0x50000, 4, false, 0x60000, 0, 2, 1⟩ ∧
     (∀ b ∈ [false, true], (runGrp [if b then 2 else 3]).get 20 = .known (if b then 2 else 3)) ∧
     (runGrp [0]).get 20 = .known 0) := by
  decide +kernel

theorem witness_VectorArithmetic :
    st.Issues run g0 ∧ (1 ≤ 8 ∧ 0xFF < 2 ^ 8 ∧ 0x80 < 2 ^ 8 ∧ 0 < 2 ^ 8) ∧ 0xFFFFFFFF < 2 ^ Fmt.f32.width ∧
    (Fmt.f32 ∈ ([.f32, .f16, .bf16] : List Fmt) ∧ Fmt.f32.infCode = some 0x7F800000) :=
  ⟨test_issues, by decide +kernel⟩

theorem witness_VectorLanes :
    st.Issues run g0 ∧ run.get 1 = .known 7 ∧ run.get 2 = .known (BitVec.allOnes 64) ∧ (run.get 5).symbol ≠ none :=
  ⟨test_issues, by decide +kernel⟩

theorem witness_VectorResults :
    st.Issues run g0 ∧ (2 : MReg) ≠ 0 ∧ VType.i8 ∈ ([.i32, .i16, .i8] : List VType) ∧ run.mask 1 = 0 ∧
    (1 ≤ 8 ∧ 0xFF < 2 ^ 8 ∧ 0x80 < 2 ^ 8) :=
  ⟨test_issues, by decide +kernel⟩

theorem test_next {i : Instr} {s : State} {p : State → Bool} (h : yields i s p = true) :
    ∃ t, exec i s = .next t ∧ p t = true := by
  unfold yields at h
  split at h
  · exact ⟨_, by assumption, h⟩
  · simp at h
  · simp at h

theorem witness_InstructionFrame :
    let s := stLocal 0x50000
    ∃ r t r', (Instr.st g0 .d 1 10 0).isEvent = false ∧ (s.core s.cur).run = some r ∧ exec (.st g0 .d 1 10 0) s = .next t ∧
      (t.core s.cur).run = some r' := by
  obtain ⟨t, h, h'⟩ := test_next (i := .st g0 .d 1 10 0) (s := stLocal 0x50000) (p := fun t => (t.core 0).run.isSome)
    (by decide +kernel)
  obtain ⟨r', h'⟩ := Option.isSome_iff_exists.1 h'
  exact ⟨_, t, r', rfl, rfl, h, h'⟩

theorem witness_InstructionFrame_reads :
    let s := stCode run
    (Instr.br g0 20).readsNow = true ∧ Memory.wf s.mem = true ∧ s.bindingAt 0x100000 = none ∧
    ∃ t r', exec (.br g0 20) s = .next t ∧ (t.core s.cur).run = some r' ∧ t.zeroing = s.zeroing := by
  obtain ⟨t, h, h'⟩ := test_next (i := .br g0 20) (s := stCode run)
    (p := fun t => (t.core 0).run.isSome && decide (t.zeroing = [])) (by decide +kernel)
  simp only [Bool.and_eq_true, decide_eq_true_eq] at h'
  obtain ⟨r', hr⟩ := Option.isSome_iff_exists.1 h'.1
  exact ⟨by decide, by decide +kernel, by decide +kernel, t, r', h, hr, h'.2⟩

theorem witness_SpecialRegisters :
    st.Issues run g0 ∧ run.get 1 = .known 7 ∧ (run.get 5).symbol ≠ none ∧ run.priv = true ∧
    st.debugOf run.region = 3 ∧
    (let r : Run := { run with priv := false }
     let s : State := { stRun r with regions := [(1, { Flash.init.deviceRegion with debug := 1 })] }
     (s.core s.cur).run = some r ∧ r.priv = false ∧ s.debugOf r.region ≠ 3 ∧ s.debugOf r.region ≠ 4) ∧
    (∀ n ∈ ([0x004, 0x012, 0x01D, 0x03F, 0x064, 0x067, 0x06A, 0x7FF] : List Nat),
      n ∉ ([0x000, 0x001, 0x002, 0x003, 0x008, 0x009, 0x010, 0x011, 0x018, 0x019, 0x01A, 0x01B, 0x01C] : List Nat) ∧
      ¬ (0x040 ≤ n ∧ n ≤ 0x05F) ∧ ¬ (0x060 ≤ n ∧ n ≤ 0x063) ∧ ¬ (0x068 ≤ n ∧ n ≤ 0x069)) :=
  ⟨test_issues, by decide +kernel⟩

/-- A region below the device region that takes its own faults, with the threadlet in it. -/
def stChild (r : Run) : State :=
  let g : Region := { Flash.init.deviceRegion with parent := 1, rcb := 0x10500000, faultrcb := 0x10500000, asid := 33 }
  { stRun r with regions := [(1, Flash.init.deviceRegion), (9, g)] }

theorem witness_SystemInstructions :
    (({ run with priv := false } : Run).priv = false) ∧ st.Issues run g0 ∧ run.priv = true ∧ run.get 1 = .known 7 ∧
    run.get 6 = .form 0 3 5 ∧ run.get 8 = .chain 1 (List.replicate 4 chainStep) ∧ run.get 5 = .form 0 1 0 ∧
    (run.group 12 2 = [.known 0x10, .known 0x20000] ∧ (runPtr goodRef).get 10 = .known goodRef ∧
      st.refOk goodRef = true ∧ st.refOk 7 = false ∧ (st.core st.cur).acqPending run.tid = [] ∧
      st.effectsResolved run = .ok () ∧ (st.core st.cur).comb = [] ∧
      (st.core st.cur).barrierMet ⟨0, run.origin, .release (st.opOf run (.rgnctl 0 0x10 0x20000 goodRef)), []⟩ = true ∧
      ((stRefBusy goodRef).core 0).barrierMet
        ⟨1, run.origin, .release ((stRefBusy goodRef).opOf run (.rgnctl 0 0x10 0x20000 goodRef)), []⟩ = false ∧
      (stRefBusy goodRef).stageRoom run = .ok ()) ∧
    (∀ f ∈ [1, 2], let t := BitVec.ofNat 64 (f * 2 ^ 62 + 7 * 2 ^ 32 + 5 * 2 ^ 16)
      (runPtr t).get 10 = .known t ∧ t.extractLsb' 43 19 = 0 ∧ t.extractLsb' 5 3 = 0 ∧ (t.extractLsb' 62 2).toNat = f) ∧
    (∀ n ∈ [1, 33, 65535], (runPtr (BitVec.ofNat 64 n)).get 10 = .known (BitVec.ofNat 64 n)) ∧
    ((0 : Word).extractLsb' 0 16 = 0 ∧ (0x10000 : Word).extractLsb' 16 48 ≠ 0 ∧ run.get 11 = .known 0x6000 ∧
      2 ^ 52 ≤ (0x1000000000000000 : Word).toNat ∧ run.region = 1) ∧
    (let r : Run := { run with region := 9 }
     ((stChild r).core 0).run = some r ∧ r.region ≠ 1 ∧ (∃ x ∈ (stChild r).regions, x.2.asid = 33 ∧
       (stChild r).domainOf x.1 = some 9) ∧ (∀ x ∈ (stChild r).regions, x.2.asid = 34 → (stChild r).domainOf x.1 ≠ some 9)) ∧
    (∀ x ∈ [0, 9, 10, 19, 1, 31], (runPtr (BitVec.ofNat 64 (x + 32 * 31))).get 10 = .known (BitVec.ofNat 64 (x + 32 * 31))) ∧
    (run.get 3 = .known (BitVec.ofNat 64 0)) ∧ (run.write 11 (.known 12)).get 11 = .known (BitVec.ofNat 64 12) ∧
    (run.write 11 (.known 13)).get 11 = .known (BitVec.ofNat 64 13) :=
  ⟨rfl, test_issues, by decide +kernel⟩

/-! ## Witnesses for the events, with what the step gives on them -/

/-- The last packet is a record with a code and a source. -/
def reports (t : State) (code src : Nat) : Bool :=
  match t.net.getLast? with
  | some ⟨.sig, _, .service, 1, .record 1 0 ws⟩ => (wordAt ws 0).extractLsb' 52 12 == BitVec.ofNat 12 (16 * code + src)
  | _ => false

/-- An AMSG to the core that its entry names, and one with a bad entry: the record names the AMSG. -/
theorem test_amsg :
    let ws : List Word := [3, 0x5000, 1, 2, 3, 4, 5, 6]
    (yields (.amsg g0 20) (stAff ws 0) (fun t => decide (t.net
        = [⟨.sig, .core 0, .core 0, 1, .amsg 3 0x5000 [1, 2, 3, 4, 5, 6] none⟩] ∧ (t.core 0).aff = [(4096, 0)])) &&
      yields (.amsg g0 20) (stAff ws 2048) (fun t => decide (t.net.length = 1) && reports t 9 8)) = true := by decide +kernel

theorem test_arm : yields (.arm g0 20) (stPoisoned [trigRef, 5, 0x170000])
    (fun t => decide (t.net = [⟨.sig, .core 0, .frontEnd 0, 1, .arm trigRef 5 (List.replicate 8 0) run.origin none⟩])) = true := by
  decide +kernel

/-- The module with packets in the network. -/
def State.with (s : State) (ps : List PBody) (c : PClass) (a b : Agent) (rgn : Nat) : State :=
  { s with net := ps.map fun p => ⟨c, a, b, rgn, p⟩ }

/-- Core 0 without a Running threadlet and with a slot word at slot 6 of frame 5, and a signal of decrement 2 to it. -/
def stSlot (x : Slot) (fid : Nat) : State :=
  State.with (module_ { core0 with run := none, lmem := Cells.write [] 0x430 (bytesOf 8 x.word.toNat) })
    [.signal (refWord 0 0 fid 6) 2 .none false true] .sig (.core 3) (.core 0) 1

theorem witness_ArrivalEvents_signal :
    (∀ x ∈ ([⟨0x10020, 1, false, true, 5⟩, ⟨0x10020, 1, true, true, 2⟩, ⟨0x10020, 1, false, false, 2⟩,
        ⟨0x10020, 1, false, true, 1⟩] : List Slot),
      let s := stSlot x 5
      s.packet 0 = some ⟨.sig, .core 3, .core 0, 1, .signal (refWord 0 0 5 6) 2 .none false true⟩ ∧
      (Ref.of (refWord 0 0 5 6)).fid = 5 ∧ (Ref.of (refWord 0 0 5 6)).slot = 6 ∧ (s.core 0).frame 5 = some frame ∧
      6 < frameWords frame.cls ∧ (∀ y ∈ (s.core 0).refq, y.fid ≠ 5) ∧
      touches (s.core 0).lpoison (frame.base + 8 * 6) 8 = false ∧ Memory.wf (s.core 0).lmem = true ∧
      (s.core 0).word (frame.base + 8 * 6) = x.word ∧ (s.core 0).ready.length < 1024 ∧ s.domainOf frame.region = some 1) ∧
    (stSlot ⟨0, 0, false, false, 0⟩ 77).packet 0
      = some ⟨.sig, .core 3, .core 0, 1, .signal (refWord 0 0 77 6) 2 .none false true⟩ ∧
    ((stSlot ⟨0, 0, false, false, 0⟩ 77).core 0).frame (Ref.of (refWord 0 0 77 6)).fid = none := by decide +kernel

theorem test_signal_counts : yields (.signalArrival 0) (stSlot ⟨0x10020, 1, false, true, 5⟩ 5)
    (fun t => decide (t.net = [] ∧ (t.core 0).word 0x430 = Slot.word ⟨0x10020, 1, true, true, 3⟩ ∧
    (t.core 0).ready = [])) = true := by decide +kernel

theorem test_signal_fires : yields (.signalArrival 0) (stSlot ⟨0x10020, 1, true, true, 2⟩ 5)
    (fun t => decide ((t.core 0).word 0x430 = Slot.word ⟨0x10020, 1, true, false, 0⟩ ∧
    (t.core 0).ready.length = 1)) = true := by decide +kernel

/-- A message of handler 0x20 for core 0, whose block stands at 0x100200, and one of a handler without a block. -/
def stMsg (handler : Nat) : State :=
  State.with { stCode run with cores := [(0, { core0 with run := none, tlb := [fetchPage] })] }
    [.amsg handler 0x5000 [1, 2, 3, 4, 5, 6] none] .sig (.core 3) (.core 0) 1

theorem witness_ArrivalEvents_message :
    (∀ h ∈ [0x20, 0x40], (stMsg h).packet 0
      = some ⟨.sig, .core 3, .core 0, 1, .amsg h 0x5000 [1, 2, 3, 4, 5, 6] none⟩ ∧ (stMsg h).domainOf 1 = some 1) ∧
    (let s := stMsg 0x20
     s.checkHandler 0 1 (s.handlerVa 1 0x20) = .ok other ∧ s.frameToSpare 0 1 = true ∧ (s.core 0).ready.length < 1024 ∧
     Memory.wf (s.core 0).lmem = true ∧ s.region 1 = some Flash.init.deviceRegion ∧
     s.arenaSlot 0 Flash.init.deviceRegion = some 0x20001000 ∧ (s.core 0).freeFid = some 1 ∧
     (s.core 0).residentOf 1 < Flash.init.deviceRegion.fquota ∧ s.freeRun 0 other.fcls = some 0) ∧
    (let s := stMsg 0x40
     s.checkHandler 0 1 (s.handlerVa 1 0x40) = .error (.fault 0x15)) ∧
    (let s : State := { stMsg 0x20 with cores := [(0, { core0 with run := none })], mem := tablesWith 0xC600000000000000 }
     s.checkHandler 0 1 (s.handlerVa 1 0x20) = .error (.page (some ⟨0x3100000, 0xC600000000000000, 0, 2 ^ 30, 0, [(1, 0)]⟩)) ∧
     s.packet 0 = (stMsg 0x20).packet 0) := by decide +kernel

theorem test_message : yields (.activeMessageDelivery 0) (stMsg 0x20)
    (fun t => decide (((t.core 0).frame 1).map (fun f => (f.st, f.region, f.base, f.handler))
    = some (.resident, 1, 0, 0x20) ∧ Cells.read (t.core 0).lmem 32 56 = bytesOfWords [0x5000, 1, 2, 3, 4, 5, 6] ∧
    (t.core 0).ready.map (fun e => (e.fid, e.slot)) = [(1, 0)])) = true := by decide +kernel

/-- Core 0 with a Held threadlet in frame 5, and a RESUME for it on its way. -/
def tokenOf (fid : Nat) : Word := BitVec.ofNat 64 (2 ^ 62 + 0 * 2 ^ 32 + fid * 2 ^ 16)
def stHeld (form fid : Nat) : State :=
  State.with (module_ { core0 with run := none, frames := [(5, { frame with parked := some heldP })] })
    [.resume form (tokenOf fid) run.origin, .record 1 0 [1, 2, 3]] .req (.core 3) (.core 0) 1

theorem witness_ArrivalEvents_others :
    (∀ form ∈ [0, 1], ∀ fid ∈ [5, 9], (stHeld form fid).packet 0
      = some ⟨.req, .core 3, .core 0, run.origin.region, .resume form (tokenOf fid) run.origin⟩) ∧
    (let s := stHeld 0 5
     (s.core 0).frame 5 = some { frame with parked := some heldP } ∧ heldP.wait = .faultDomain ∧ heldP.ready = false ∧
     frame.snap = none ∧ frame.st = .resident ∧ Memory.wf (s.core 0).lmem = true ∧ (s.core 0).ready.length < 1024 ∧ frame.ownFree = [] ∧ (s.core 0).frame 9 = none ∧ s.domainOf 1 = some 1 ∧
     run.origin.region = 1) ∧
    (State.with st [.record 1 0 [1, 2, 3]] .sig (.core 0) .service 1).packet 0
      = some ⟨.sig, .core 0, .service, 1, .record 1 0 [1, 2, 3]⟩ := by decide +kernel

theorem test_resume : yields (.resumeAct 0) (stHeld 0 5)
    (fun t => decide ((t.core 0).frame 5 = some { frame with parked := some { heldP with ready := true } } ∧
    (t.core 0).ready.map (·.resume) = [true])) = true := by decide +kernel

theorem test_resume_abort : yields (.resumeAct 0) (stHeld 1 5)
    (fun t => decide ((t.core 0).frame 5 = some frame)) = true := by decide +kernel

/-- An overflow segment of core 0 with one start entry, with `h` in a reserved byte of its header and `e` in one of the entry. -/
def stSegBad (h e : Nat) : State :=
  let a := Flash.init.deviceRegion.segment 0
  { module_ { core0 with run := none } with
    mem := Cells.write (Cells.write (Cells.write (Cells.write [] (a + 8) (bytesOf 8 1)) (a + 20) (bytesOf 1 h)) (a + 128)
      (bytesOfWords [BitVec.ofNat 64 (2 * 2 ^ 58 + 1 * 2 ^ 32 + 5 * 2 ^ 16 + 6), 77])) (a + 128 + 120) (bytesOf 1 e) }
def stSeg : State := stSegBad 0 0

theorem witness_ArrivalEvents_overflow :
    stSeg.region 1 = some Flash.init.deviceRegion ∧ (stSeg.core 0).ready.length < 1024 ∧
    (stSeg.segmentEntry Flash.init.deviceRegion 0 0).map (·.take 2)
      = some [BitVec.ofNat 64 (2 * 2 ^ 58 + 1 * 2 ^ 32 + 5 * 2 ^ 16 + 6), BitVec.ofNat 64 77] ∧
    (∀ b ∈ [(0, 1), (1, 0)], let s := stSegBad b.1 b.2
      s.segmentOk Flash.init.deviceRegion 0 = decide (b.1 = 0) ∧ s.domainOf 1 = some 1 ∧
      (s.segmentEntry Flash.init.deviceRegion 0 0).map (fun ws => (entryOk ws, (ws.headD 0).extractLsb' 60 4))
        = some (decide (b.2 = 0), 0)) := by decide +kernel

/-- A segment with a reserved field of its header, and one with a reserved field of its entry, takes no start. -/
theorem test_overflow_reserved : (yields (.overflowEntryTake 0 1 0) (stSegBad 1 0)
    (fun t => decide ((t.core 0).ready = [])) && yields (.overflowEntryTake 0 1 0) (stSegBad 0 1)
    (fun t => decide ((t.core 0).ready = []))) = true := by decide +kernel

theorem test_overflow : yields (.overflowEntryTake 0 1 0) stSeg
    (fun t => decide ((t.core 0).ready.map (fun e => (e.fid, e.slot, e.region, e.level, e.pushed, e.resume))
    = [(5, 6, 1, 2, 77, false)])) = true := by decide +kernel

/-- Core 0 with a ready entry of slot 6 of frame 5, whose block, with two live registers from word 4 on, stands at 0x100400. -/
def stReady : State :=
  { module_ { core0 with run := none, syms := [], tlb := [fetchPage], ready := [⟨5, 6, 1, 1, 1, 0, false⟩],
                         lmem := Cells.write (Cells.write [] 0x430 (bytesOf 8 (Slot.word ⟨0x30, 1, false, false, 0⟩).toNat))
                           0x420 (bytesOf 8 0x1234) } with
    mem := Cells.write [] 0x100300 (bytesOfWord 0xB5004203 ++ bytesOfWord 0x00000008)
    regions := [(1, { Flash.init.deviceRegion with cycbud := 0xFFFF })] }

/-- The header of that block. -/
def live2 : Header := { fcls := 0, loff := 4, live := 2, len := 3, parkw := 8, priv := false, vuse := false }

theorem witness_ThreadletEvents_select :
    let s := stReady
    (0 : Nat) < 2048 ∧ (s.core 0).zeroing = false ∧ (s.core 0).run = none ∧ (s.core 0).ready = [⟨5, 6, 1, 1, 1, 0, false⟩] ∧
    (s.core 0).drr = [] ∧ (∃ g, s.region 1 = some g ∧ g.cycbud = 0xFFFF ∧ 1 ≤ g.rqw) ∧ s.suspended 1 = false ∧
    (s.core 0).frame 5 = some frame ∧ (s.core 0).lpoison = [] ∧
    (s.core 0).word (frame.base + 8 * 6) = Slot.word ⟨0x30, 1, false, false, 0⟩ ∧ s.codebase 1 + 16 * 0x30 < 2 ^ 64 ∧
    s.checkEntry 0 1 (frameWords frame.cls) (s.codebase 1 + 16 * 0x30) = .ok live2 ∧ live2.live ≤ 8 ∧
    live2.loff + live2.live ≤ frameWords frame.cls ∧
    (∀ i < 4, (s.core 0).word (frame.base + 8 * i) = 0) ∧ s.domainOf 1 = some 1 := by
  refine ⟨by decide, ?_, ?_, ?_, ?_, ⟨_, rfl, rfl, by decide⟩, ?_⟩
  all_goals decide +kernel

/-- The same entry in a frame whose header has a nonzero reserved bit: the start ends with the format fault. -/
theorem test_select_header : (List.range 4).all (fun i => yields (.readyEntrySelect 0)
    (stReady.setCore 0 { stReady.core 0 with lmem := Cells.write (stReady.core 0).lmem (0x400 + 8 * i + 7) [0x80] })
    (fun t => (t.core 0).run.isNone && reports t 7 3)) = true := by decide +kernel

theorem test_select : yields (.readyEntrySelect 0) stReady
    (fun t => match (t.core 0).run with
    | some r => decide (r.reg 1 = .known 0x1234 ∧ r.reg 30 = .known 0x5006 ∧ r.reg 31 = .known 0x400 ∧ r.block = 0x100300 ∧
        r.len = 3 ∧ r.parkw = 8 ∧ r.runleft = 65536 ∧ r.tid = 1 ∧ r.fid = 5 ∧ r.slot = 6)
    | none => false) = true := by decide +kernel

/-- A threadlet parked until time 1,000. -/
def parkedT : Parked := { heldP with cause := 2, wait := .time 1000 }
def stPark (cycle : Nat) : State :=
  { module_ { core0 with run := none, frames := [(5, { frame with parked := some parkedT })] } with cycle := cycle }

/-- A frame with a write-out, one with a refill, and one whose FFREE waits. -/
def stFrame (f : Frame) (ops : List Op) : State :=
  { module_ { core0 with run := none, frames := [(5, f)], outst := ops } with mem := [(0x20000000, 0x77)] }

theorem witness_ThreadletEvents_others :
    (∀ n ∈ [0, 1], let s := stRun { run with runleft := n }
      (s.core 0).run = some { run with runleft := n }) ∧
    ((stPark 0).core 0).frame 5 = some { frame with parked := some parkedT } ∧ parkedT.wait = .time 1000 ∧
    parkedT.ready = false ∧ (stPark 2999).time < 1000 ∧ 1000 ≤ (stPark 3000).time ∧ ((stPark 0).core 0).ready.length < 1024 ∧
    (let f : Frame := { frame with snap := some ([1, 2, 3], [1]) }
     let s := stFrame f []
     (s.core 0).frame 5 = some f ∧ Memory.wf s.mem = true ∧ s.hkMay 2 (s.stacksOf f.arena f.bytes) = true ∧
     (∀ x ∈ (s.core 0).frames, x.2.zero = false) ∧ (∀ l ∈ linesOf f.arena 3, s.bindingAt (l * 128) = none)) ∧
    (let f : Frame := { frame with st := .refilling, placed := true }
     let s := stFrame f []
     (s.core 0).frame 5 = some f ∧ f.snap = none ∧ f.zero = false ∧ f.parked = none ∧
     (s.core 0).othersIn 5 f.base f.bytes = [] ∧ (∀ x ∈ (s.core 0).refq, x.fid ≠ 5) ∧ s.lost = [] ∧
     Memory.wf (s.core 0).lmem = true ∧ s.hkMay 1 (s.stacksOf f.arena f.bytes) = true ∧
     ∀ l ∈ linesOf f.arena f.bytes, s.bindingAt (l * 128) = none) ∧
    (∀ b ∈ [false, true], let f : Frame := { frame with freeing := true }
      let s := stFrame f (if b then [{ opGld with org := run.origin }] else [])
      (s.core 0).frame 5 = some f ∧ (s.core 0).splitPhase s.fstore 5 = b ∧
      ((s.core 0).frames.map (·.1)).Pairwise (· < ·)) := by decide +kernel

theorem test_park_time : yields (.parkTimeExpiry 0 5) (stPark 3000)
    (fun t => decide ((t.core 0).ready.map (fun e => (e.fid, e.resume)) = [(5, true)])) = true := by decide +kernel

theorem test_write_out : yields (.spillWriteOutComplete 0 5) (stFrame { frame with snap := some ([1, 2, 3], [1]) } [])
    (fun t => decide (Cells.read t.mem 0x20000000 3 = [1, 2, 3] ∧ t.poison = [0x4000001] ∧
    (t.core 0).frame 5 = some frame)) = true := by decide +kernel

theorem test_refill : yields (.refillComplete 0 5) (stFrame { frame with st := .refilling, placed := true } [])
    (fun t => decide (Cells.get (t.core 0).lmem 0x400 = 0x77 ∧ (t.core 0).frame 5 = some frame)) = true := by decide +kernel

theorem test_release : yields (.frameRelease 0 5) (stFrame { frame with freeing := true } [])
    (fun t => decide ((t.core 0).frame 5 = none)) = true := by decide +kernel


/-! ### What comes back to a core -/

/-- An outstanding operation of the threadlet with number 40. -/
def opBack (b : OpBody) : Op := { id := 40, seq := 0, org := run.origin, deferred := false, far := false, body := b }

/-- The module with an outstanding operation and its reply on the way. -/
def stBack (b : OpBody) (p : PBody) : State :=
  State.with (module_ { core0 with outst := [opBack b], upds := [(8, ⟨0, 1, 2⟩), (9, ⟨0, 1, 1⟩)] }) [p] .rsp (.slice 3) (.core 0) 1

theorem witness_ReturnEvents_values :
    (let s := stBack (.ldl 0x5000 4 false (some 0)) (.readRsp 40 [1, 2, 3, 0xFF] [] 0)
     s.packet 0 = some ⟨.rsp, .slice 3, .core 0, 1, .readRsp 40 [1, 2, 3, 0xFF] [] 0⟩ ∧
     (s.core 0).outstanding 40 = some (opBack (.ldl 0x5000 4 false (some 0))) ∧ SMap.find (s.core 0).syms 0 = some sym ∧
     (s.core 0).run = some run ∧ (run.x.map (·.1)).Pairwise (· < ·) ∧ run.reg 6 = .form 0 3 5 ∧
     (run.reg 9).symbol ≠ some 0) ∧
    (let b : OpBody := .atom .faa 0x5000 8 1 0 (some 0) none
     let s := stBack b (.atomRsp 40 77 false 12)
     s.packet 0 = some ⟨.rsp, .slice 3, .core 0, 1, .atomRsp 40 77 false 12⟩ ∧
     (s.core 0).outstanding 40 = some (opBack b)) := by decide +kernel

theorem test_symbol_value :
    yields (.symbolValueArrival 0) (stBack (.ldl 0x5000 4 false (some 0)) (.readRsp 40 [1, 2, 3, 0xFF] [] 0))
      (fun t => decide ((t.core 0).outst = [] ∧
        ((t.core 0).run.map fun r => (r.reg 5, r.reg 6, r.reg 9, r.reg 1))
          = some (.known 0xFFFFFFFFFF030201, .known 0xFFFFFFFFFD090608, .form 2 1 0, .known 7))) = true := by decide +kernel

theorem test_atomic_value :
    yields (.symbolValueArrival 0) (stBack (.atom .faa 0x5000 8 1 0 (some 0) none) (.atomRsp 40 77 false 12))
      (fun t => decide (SMap.find (t.core 0).taglast 1 = some 12 ∧ ((t.core 0).run.map fun r => (r.reg 5, r.reg 6))
        = some (.known 77, .known 236))) = true := by decide +kernel

/-- Core 0 with a resolved symbol, a deferred effect over it, and no Running threadlet. -/
def stPool (e : Effect) (ops : List RVal) : State :=
  module_ { core0 with run := none, syms := [(0, { sym with st := .resolving goodRef })],
                       pool := [(2, ⟨4, run.origin, .effect e ops⟩)], nextSeq := 6 }

theorem witness_ReturnEvents_effects :
    (∀ b ∈ [false, true],
      let s := if b then stPool (.gst .d false) [.form 0 0 0x6000, .known 9] else stPool (.sig false 1) [.form 0 1 0]
      SMap.find (s.core 0).syms 0 = some { sym with st := .resolving goodRef } ∧ (s.core 0).run = none ∧
      (∀ x ∈ (s.core 0).barriers, x.org.tid ≠ run.origin.tid) ∧ (s.core 0).wp = [] ∧ s.refOk (1 * goodRef + 0) = true ∧
      s.brielo.drain = []) ∧ ((0 * goodRef + 0x6000 : Word).toNat < 2 ^ 52 ∧ (0 * goodRef + 0x6000 : Word).toNat % 8 = 0) := by
  decide +kernel

theorem test_effect_signal : yields (.deferredEffectPerform 0) (stPool (.sig false 1) [.form 0 1 0])
    (fun t => decide ((t.core 0).pool = [] ∧
      t.net = [⟨.sig, .core 0, .core 0, 1, .signal goodRef 1 .none false false⟩])) = true := by decide +kernel

theorem test_effect_store : yields (.deferredEffectPerform 0) (stPool (.gst .d false) [.form 0 0 0x6000, .known 9])
    (fun t => decide ((t.core 0).pool = [] ∧ (t.core 0).src =
      [{ id := 6, seq := 4, org := run.origin, deferred := true, far := false, body := .gst 0x6000 8 9 none }])) = true := by
  decide +kernel

/-- A failed late load of the Running threadlet. -/
def stFail : State := module_ { core0 with syms := [(0, { sym with st := .failed 4 0x5000 })] }

theorem witness_ReturnEvents_others :
    (SMap.find (stFail.core 0).syms 0 = some { sym with st := .failed 4 0x5000 } ∧ (stFail.core 0).run = some run ∧
      run.tid = sym.tid ∧ run.parkw ≠ 0 ∧ (stFail.core 0).frame run.fid = some frame ∧ stFail.domainOf run.region = some 1) ∧
    (∀ a ∈ ([none, some 0x60000] : List (Option Nat)), let s := stBack (.gst 0x5000 8 7 a) (.ack 40 (some 5) 0)
      s.packet 0 = some ⟨.rsp, .slice 3, .core 0, 1, .ack 40 (some 5) 0⟩ ∧
      (s.core 0).outstanding 40 = some (opBack (.gst 0x5000 8 7 a)) ∧ Memory.wf (s.core 0).lmem = true ∧
      s.localOk 0 5 0x60000 4 true = true) ∧
    (∀ u ∈ [8, 9], let s := stBack (.pref 0 .normal) (.accepted [u])
      s.packet 0 = some ⟨.rsp, .slice 3, .core 0, 1, .accepted [u]⟩ ∧
      SMap.find (s.core 0).upds u = some ⟨0, 1, 10 - u⟩ ∧ ((s.core 0).upds.map (·.1)).Pairwise (· < ·)) ∧
    (∀ y ∈ [(0 : Word).toNat, goodRef.toNat],
      let y := BitVec.ofNat 64 y
      let s := stBack (.gld 0x5000 0x60000 4 false .normal y true) (.readRsp 40 [1, 2, 3, 4] [] 0)
      s.packet 0 = some ⟨.rsp, .slice 3, .core 0, 1, .readRsp 40 [1, 2, 3, 4] [] 0⟩ ∧
      (s.core 0).outstanding 40 = some (opBack (.gld 0x5000 0x60000 4 false .normal y true)) ∧
      s.localOk 0 5 0x60000 4 true = true ∧ s.routeOk (Ref.of goodRef).module = true ∧ s.brielo.drain = []) := by decide +kernel

theorem test_late_load_fails : yields (.lateLoadFail 0 0) stFail
    (fun t => (t.core 0).run.isNone && reports t 4 0 &&
      decide ((((t.core 0).frame 5).bind (·.parked)).map (fun p => (p.cause, p.wait)) = some (6, .faultDomain))) = true := by
  decide +kernel

theorem test_write_ack : yields (.writeAckArrival 0) (stBack (.gst 0x5000 8 7 (some 0x60000)) (.ack 40 (some 5) 0))
    (fun t => decide ((t.core 0).outst = [] ∧ SMap.find (t.core 0).taglast 1 = some 5 ∧
      Cells.read (t.core 0).lmem 0x60000 4 = bytesOf 4 5)) = true := by decide +kernel

theorem test_acceptance : yields (.updateAcceptanceArrival 0) (stBack (.pref 0 .normal) (.accepted [8]))
    (fun t => decide ((t.core 0).upds = [(8, ⟨0, 1, 1⟩), (9, ⟨0, 1, 1⟩)])) = true := by decide +kernel

theorem test_landing :
    yields (.gldLanding 0) (stBack (.gld 0x5000 0x60000 4 false .normal goodRef true) (.readRsp 40 [1, 2, 3, 4] [] 0))
      (fun t => decide (Cells.read (t.core 0).lmem 0x60000 4 = [1, 2, 3, 4] ∧ (t.core 0).outst = [] ∧
        t.net = [⟨.rsp, .core 0, .core 0, 1, .signal goodRef 4 .none false false⟩])) = true := by decide +kernel

/-- The module with one barrier, and with a combiner buffer for unit 3 that took its last pair 16 core cycles ago. -/
def stBar (k : BarrierKind) (ops : List Op) : State :=
  { module_ { core0 with barriers := [⟨1, run.origin, k, []⟩], outst := ops, tlb := [fetchPage],
                         comb := [(3, [⟨8, 1, 4, 0x5000, 9⟩])], combAt := [(3, 100)] } with cycle := 116 }

/-- A signal that an earlier release injects. -/
def opSig : Op := opBack (.signal goodRef 1 .none true false)

theorem witness_ReturnEvents_barriers :
    (∀ k ∈ ([.fence true true true .s, .iflushAll, .tlbinvAll, .release opSig] : List BarrierKind),
      (let s := stBar k []
       (s.core 0).barriers[0]? = some ⟨1, run.origin, k, []⟩ ∧ (s.core 0).barrierMet ⟨1, run.origin, k, []⟩ = true ∧
       (s.core 0).stage = [] ∧ s.routeOk (Ref.of goodRef).module = true ∧ s.brielo.drain = []) ∧
      ((stBar k [opStore]).core 0).barrierMet ⟨1, run.origin, k, []⟩ = false) ∧
    (SMap.find ((stBar .iflushAll []).core 0).comb 3).isSome = true ∧
    (((stBar .iflushAll []).core 0).comb.map (·.1)).Pairwise (· < ·) ∧
    SMap.get ((stBar .iflushAll []).core 0).combAt 3 0 + 16 = (stBar .iflushAll []).cycle := by decide +kernel

/-- A walk whose page is still to be zeroed: a TLBINV does not pass. -/
theorem witness_ReturnEvents_zeroing :
    let s : State := { stBar .tlbinvAll [] with zeroing := [⟨0x3100000, 0xC600000000000000, 0, 2 ^ 30, 0, [(1, 0)]⟩] }
    (s.core 0).barriers[0]? = some ⟨1, run.origin, .tlbinvAll, []⟩ ∧ (s.core 0).barrierMet ⟨1, run.origin, .tlbinvAll, []⟩ = true ∧
    (s.core 0).stage = [] ∧ ∃ z ∈ s.zeroing, z.walks ≠ [] := by
  refine ⟨?_, ?_, ?_, _, List.mem_singleton.2 rfl, ?_⟩ <;> decide +kernel

theorem test_barriers_pass :
    (yields (.barrierConditionMet 0 0) (stBar (.fence true true true .s) [])
      (fun t => decide (t = (stBar (.fence true true true .s) []).setCore 0
        { (stBar (.fence true true true .s) []).core 0 with barriers := [] })) &&
    yields (.barrierConditionMet 0 0) (stBar .tlbinvAll []) (fun t => decide ((t.core 0).barriers = [] ∧ (t.core 0).tlb = [])) &&
    yields (.barrierConditionMet 0 0) (stBar (.release opSig) []) (fun t => decide ((t.core 0).barriers = [] ∧
      t.net = [⟨.sig, .core 0, .core 0, 1, .signal goodRef 1 .none true false⟩])) &&
    yields (.combinerTimeout 0 3) (stBar .iflushAll []) (fun t => decide ((t.core 0).comb = [] ∧
      t.net = [⟨.upd, .core 0, .eddy 3, 1, .updates [⟨8, 1, 4, 0x5000, 9⟩]⟩]))) = true := by decide +kernel

/-! ### Memory and translation -/

/-- A request from core 0 to slice 9, at a module with some bytes of memory and of host memory. -/
def stReq (p : PBody) (dst : Agent) : State :=
  State.with { module_ core0 with mem := [(0x4000, 1), (0x4001, 2), (0x4005, 0x80)], hostMem := [(0x4000, 9)] }
    [p] .req (.core 0) dst 1

theorem witness_MemoryEvents_slices :
    (∀ p ∈ ([.read 7 0x4000 8 false .normal .wb, .write 7 0x4000 ([5, 6].map some) [] .normal .wb,
        .atomic 7 .faa 0x4000 8 1 0 .wb, .pref 0x4000 .keep .wb, .waycfg 7 3] : List PBody),
      let s := stReq p (.slice 9)
      s.packet 0 = some ⟨.req, .core 0, .slice 9, 1, p⟩ ∧ s.bindings = [] ∧ s.lost = [] ∧ 0x4000 + 8 ≤ asTable ∧
      Memory.wf s.mem = true ∧ s.hostLines.contains (lineOf 0x4000) = false ∧ s.badAt 0x4000 8 = [] ∧
      (s.slice 9).lines = [] ∧ (s.slice 9).conv = none ∧ s.domainOf 1 = some 1) ∧
    (stReq (.read 7 0x4000 8 false .normal .wb) .host).packet 0
      = some ⟨.req, .core 0, .host, 1, .read 7 0x4000 8 false .normal .wb⟩ ∧
    (∀ w ∈ [0, 12, 13], decide (12 < w + (stReq (.waycfg 7 w) (.slice 9)).allot) = decide (12 < w)) := by decide +kernel

theorem test_slice_read : yields (.homeSliceRead 0) (stReq (.read 7 0x4000 8 false .normal .wb) (.slice 9))
    (fun t => decide (t.net = [⟨.rsp, .slice 9, .core 0, 1, .readRsp 7 [1, 2, 0, 0, 0, 0x80, 0, 0] [] 0⟩])) = true := by
  decide +kernel

theorem test_slice_write : yields (.homeSliceWrite 0) (stReq (.write 7 0x4000 ([5, 6].map some) [] .normal .wb) (.slice 9))
    (fun t => decide (Cells.read t.mem 0x4000 6 = [5, 6, 0, 0, 0, 0x80] ∧ (t.slice 9).seq = 1 ∧
      t.net = [⟨.rsp, .slice 9, .core 0, 1, .ack 7 (some 1) 0⟩])) = true := by decide +kernel

theorem test_slice_atomic : yields (.homeSliceAtomic 0) (stReq (.atomic 7 .faa 0x4000 8 1 0 .wb) (.slice 9))
    (fun t => decide (Cells.read t.mem 0x4000 8 = [2, 2, 0, 0, 0, 0x80, 0, 0] ∧
      t.net = [⟨.rsp, .slice 9, .core 0, 1, .atomRsp 7 0x800000000201 false 1⟩])) = true := by decide +kernel

theorem test_slice_pref : yields (.homeSlicePref 0) (stReq (.pref 0x4000 .keep .wb) (.slice 9))
    (fun t => decide (t.net = [] ∧ (t.slice 9).lines.map (fun l => (l.line, l.evp)) = [(0x80, .keep)])) = true := by
  decide +kernel

theorem test_waycfg :
    (yields (.waycfgRequest 0) (stReq (.waycfg 7 13) (.slice 9)) (fun t => reports t 7 5 || decide ((t.slice 9).conv = none)) &&
    yields (.waycfgRequest 0) (stReq (.waycfg 7 12) (.slice 9))
      (fun t => decide ((t.slice 9).conv = some ⟨12, .core 0, 7, 1⟩ ∧ t.net = [])) &&
    yields (.waycfgRequest 0) (stReq (.waycfg 7 0) (.slice 9))
      (fun t => decide ((t.slice 9).w = 0 ∧ t.net = [⟨.rsp, .slice 9, .core 0, 1, .ack 7 none 0⟩]))) = true := by decide +kernel

/-- A slice with a conversion in hand, and bytes where its ways stand. -/
def stConv : State :=
  { st with slices := [(9, { Slice.init with conv := some ⟨3, .core 0, 7, 1⟩ })],
            mem := [(winBase + 9 * 0x400000 + 5, 1), (winBase + 9 * 0x400000 + 3 * 0x40000, 2)] }

/-- Page tables: address space 1 maps its first GiB for writes and its second for reads, and nothing more. -/
def tables : List Host.Cell :=
  Cells.write (tablesWith 0xC200000000000000) 0x3100008 (bytesOf 8 0xC000000040000000)

/-- The module with those tables and one operation at core 0's source interface. -/
def stSrc (b : OpBody) : State := { module_ { core0 with src := [opBack b] } with mem := tables }

/-- The translation of the first GiB. -/
def pageRW : Tlb := { asid := 1, va := 0, size := 2 ^ 30, pa := 0, type := 0, w := true, sup := false, host := false }

theorem witness_MemoryEvents_walks :
    (∀ va ∈ [0x5000, 0x40005000, 0x80005000], let s := stSrc (.gst va 8 7 none)
      (s.core 0).src = [opBack (.gst va 8 7 none)] ∧ (s.core 0).replay = [] ∧ (s.core 0).fwait = [] ∧
      s.cached 0 (s.asid 1) va = none ∧ s.domainOf 1 = some 1) ∧
    (let s := stSrc (.gst 0x5000 8 7 none)
     s.walk (s.asid 1) 0x5000 = .leaf pageRW ∧ pageRW.phys 0x5000 < hbmEnd ∧
     s.walk (s.asid 1) 0x40005000 = .leaf { pageRW with va := 2 ^ 30, pa := 2 ^ 30, w := false } ∧
     s.walk (s.asid 1) 0x80005000 = .fault 0 1) ∧
    ((stConv.slice 9).conv = some ⟨3, .core 0, 7, 1⟩ ∧ Memory.wf stConv.mem = true) := by decide +kernel

theorem test_walk_store : yields (.translationWalkComplete 0 0) (stSrc (.gst 0x5000 8 7 none))
    (fun t => decide ((t.core 0).src = [] ∧ pageRW ∈ (t.core 0).tlb ∧ t.net = [⟨.req, .core 0, .slice 66, 1,
      .write 40 0x5000 ((bytesOf 8 7).map some) [] .normal .wb⟩])) = true := by decide +kernel

theorem test_walk_faults :
    (yields (.translationWalkComplete 0 0) (stSrc (.gst 0x40005000 8 7 none))
      (fun t => reports t 5 0 && (t.core 0).src.isEmpty) &&
    yields (.translationWalkComplete 0 0) (stSrc (.gst 0x80005000 8 7 none))
      (fun t => reports t 4 0 && decide (((SMap.find (t.core 0).replay 0).map fun x => (x.va, x.kind, x.level))
        = some (0x80005000, 0, 1)))) = true := by decide +kernel

theorem test_conversion : yields (.wayConversionComplete 9) stConv
    (fun t => decide (t.mem = [(winBase + 9 * 0x400000 + 3 * 0x40000, 2)] ∧ (t.slice 9).w = 3 ∧ (t.slice 9).conv = none ∧
      t.net = [⟨.rsp, .slice 9, .core 0, 1, .ack 7 none 0⟩])) = true := by decide +kernel

/-- A page of 64 KiB being zeroed, and an operation on the fault-wait list with 32 replay entries, one of them free. -/
def zeroP : Zeroing := ⟨0x3200000, 0xC800000000050000, 0x50000, 0x10000, 0, []⟩
def stZero : State :=
  { st with
    zeroing := [zeroP]
    mem := Cells.write [(0x4FFFF, 1), (0x50000, 2), (0x5FFFF, 3), (0x60000, 4)] 0x3200000 (bytesOf 8 0xC800000000050000) }
def replay7 : Replay := ⟨opBack (.gst 0x80005000 8 7 none), 0, 0x80005000, 0, 1, 0⟩
def stWait : State :=
  module_ { core0 with fwait := [replay7], replay := ((List.range 32).filter (· != 6)).map fun k => (k, replay7) }

theorem witness_MemoryEvents_others :
    (stZero.zeroing = [zeroP] ∧ zeroP.type ≠ 1 ∧ Memory.wf stZero.mem = true ∧ zeroP.pa + zeroP.size ≤ zeroP.entry ∧
      stZero.hkMay 3 (stZero.stacksOf zeroP.pa zeroP.size) = true ∧
      ∀ l ∈ linesOf zeroP.entry 8, stZero.bindingAt (l * 128) = none) ∧
    ((stWait.core 0).fwait = [replay7] ∧ SMap.firstFree (stWait.core 0).replay 0 32 = some 6 ∧
      stWait.domainOf replay7.op.org.region = some 1) := by decide +kernel

theorem test_page_zeroed : yields (.pageZeroingComplete 0x3200000) stZero
    (fun t => decide (t.zeroing = [] ∧ Cells.get t.mem 0x50000 = 0 ∧ Cells.get t.mem 0x5FFFF = 0 ∧ Cells.get t.mem 0x4FFFF = 1 ∧
      Cells.get t.mem 0x60000 = 4 ∧ Cells.read t.mem 0x3200000 8 = bytesOf 8 0xC000000000050000)) = true := by decide +kernel

theorem test_fault_wait : yields (.faultWaitPromote 0) stWait
    (fun t => decide ((t.core 0).fwait = []) && reports t 4 0 &&
      decide (((SMap.find (t.core 0).replay 6).map (·.op)) = some replay7.op)) = true := by decide +kernel

/-! ### Updates -/

/-- The bound module with an Eddy unit in hand: pairs waiting, bins and runs. -/
def stEddy (e : Eddy) (n : List Packet) : State :=
  { stBound with eddies := [(4, e)], net := n, mem := tables, bindings := [(4, { bind with base := 0 })] }

/-- Two pairs of one word of a line, and their packet. -/
def pairA : UPair := ⟨8, 1, 4, 0x9004, 0xFFFFFFFF⟩
def pairB : UPair := ⟨8, 1, 4, 0x9004, 3⟩
def updPkt : Packet := ⟨.upd, .core 0, .eddy 4, 1, .updates [pairA, pairB]⟩

/-- A bin with one record for that word. -/
def binA : Bin := { bid := 4, line := 0x120, accs := [(1, .word 6)], pairs := 1, used := 0, bad := false }

theorem witness_UpdateEvents_units :
    (let s := stEddy Eddy.init [updPkt]
     s.packet 0 = some updPkt ∧ s.brielo.drain = []) ∧
    (let s := stEddy { Eddy.init with waiting := [[pairA, pairB]] } []
     (s.eddy 4).waiting = [[pairA, pairB]] ∧ (s.eddy 4).bins = [] ∧ pairB.bid = pairA.bid ∧ pairB.pa = pairA.pa ∧
     SMap.find s.bindings 4 = some { bind with base := 0 } ∧ bind.oper = 0 ∧ bind.binLim = 0 ∧ 1 ≤ s.allot) ∧
    (let s := stEddy { Eddy.init with merging := [4], logs := [(4, ⟨512, 3⟩)] } []
     (s.eddy 4).merging.contains 4 = true ∧ (s.eddy 4).runs = []) ∧
    (let s := stEddy { Eddy.init with merging := [4], runs := [⟨4, 1, 0x4000000, [binA]⟩], logs := [(4, ⟨512, 3⟩)] } []
     (s.eddy 4).merging.contains 4 = true ∧ (s.eddy 4).runs = [⟨4, 1, 0x4000000, [binA]⟩] ∧ (s.eddy 4).bins = [] ∧
     (s.eddy 4).waiting = [] ∧ binA.bad = false ∧ s.bindingAt (binA.line * 128) = some (4, { bind with base := 0 }) ∧
     s.homeChiplet (binA.line * 128) = 4 ∧ s.lost = [] ∧ Memory.wf s.mem = true ∧ s.mergeMay 4 = true) := by decide +kernel

theorem test_update_accept : yields (.updatePacketAccept 0) (stEddy Eddy.init [updPkt])
    (fun t => decide ((t.eddy 4).waiting = [[pairA, pairB]] ∧ t.net = [⟨.rsp, .eddy 4, .core 0, 1, .accepted [8, 8]⟩])) = true := by
  decide +kernel

theorem test_sort : yields (.sortBatch 4) (stEddy { Eddy.init with waiting := [[pairA, pairB]] } [])
    (fun t => decide ((t.eddy 4).waiting = [] ∧ (t.eddy 4).bins.map (fun x => (x.bid, x.line, x.accs, x.pairs))
      = [(4, 0x120, [(1, .word 2)], 2)])) = true := by decide +kernel

theorem test_merge_apply :
    (yields (.mergeApply 4 4) (stEddy { Eddy.init with merging := [4], logs := [(4, ⟨512, 3⟩)] } [])
      (fun t => decide ((t.eddy 4).merging = [] ∧ (SMap.find (t.eddy 4).logs 4).map (·.used) = some 0)) &&
    yields (.mergeApply 4 4)
      (stEddy { Eddy.init with merging := [4], runs := [⟨4, 1, 0x4000000, [binA]⟩], logs := [(4, ⟨512, 3⟩)] } [])
      (fun t => decide ((t.eddy 4).runs = [] ∧ Cells.read t.mem 0x9000 12 = [0, 0, 0, 0, 6, 0, 0, 0, 0, 0, 0, 0]))) = true := by
  decide +kernel

/-- A UAPPLY at the source interface, at an address with the bin's binding or without a binding. -/
def stApply (va : Nat) : State :=
  let s := stEddy { Eddy.init with bins := [binA] } []
  s.setCore 0 { s.core 0 with src := [opBack (.uapply va 0x20000 none)] }

theorem witness_UpdateEvents_apply :
    (∀ va ∈ [0x9004, 0x180010], let s := stApply va
      (s.core 0).src = [opBack (.uapply va 0x20000 none)] ∧ (s.core 0).replay = [] ∧ (s.core 0).fwait = [] ∧
      s.cached 0 (s.asid 1) va = none ∧ s.walk (s.asid 1) va = .leaf pageRW ∧ pageRW.phys va = va ∧
      va + 0x20000 < pageRW.va + pageRW.size ∧ s.inDram va 1 = true ∧ va < winBase ∧
      (s.region 1).map (fun g => g.ubind.contains (some 4)) = some true) ∧
    (let s := stApply 0x9004
     s.bindingAt 0x9004 = some (4, { bind with base := 0 }) ∧ binA.line = 0x9004 / 128 ∧ s.homeChiplet (binA.line * 128) = 4 ∧
     (s.eddy 4).bins = [binA] ∧ (s.eddy 4).runs = [] ∧ (s.eddy 4).waiting = [] ∧ s.lost = [] ∧ Memory.wf s.mem = true ∧
     s.bindingAt 0x180010 = none) ∧
    (let s : State := { stApply 0x9004 with mem := tablesWith 0xF200000000000000 }
     let l : Tlb := { pageRW with type := 3 }
     s.cached 0 (s.asid 1) 0x9004 = none ∧ s.walk (s.asid 1) 0x9004 = .leaf l ∧
     l.phys 0x9004 / 2 ^ 48 % 256 = s.brielo.number ∧ l.phys 0x9004 % 2 ^ 48 = 0x9004 ∧
     s.bindingAt 0x9004 = some (4, { bind with base := 0 })) := by decide +kernel

theorem test_uapply :
    (yields (.uapplyLineApply 0 0) (stApply 0x9004) (fun t => decide ((t.eddy 4).bins = [] ∧
      (t.core 0).src.map (·.body) = [.uapply 0x9080 (0x20000 - 0x7C) (some pageRW)] ∧ Cells.read t.mem 0x9004 4 = [6, 0, 0, 0])) &&
    yields (.uapplyLineApply 0 0) (stApply 0x180010) (fun t => decide ((t.eddy 4).bins = [binA] ∧
      (t.core 0).src.map (·.body) = [.uapply 0x190000 (0x20000 - 0xFFF0) (some pageRW)]))) = true := by decide +kernel

/-! ### The copy engine -/

/-- A CPY of a direction, alone in core 0's queue. -/
def cpyFn (d : CopyDir) : CopyFn := { dir := d, lu := false, evp := .normal, q := 0, byt := false, n := false, r := false }
def cpy (d : CopyDir) (grp : List Word) (started : Bool) (pos : Nat) (ps : List Piece) : CopyCmd :=
  { cmdC with kind := .cpy (cpyFn d), grp := grp, started := started, pos := pos, pieces := ps }
def stCopy (k : CopyCmd) (ops : List Op) (ps : List PBody) : State :=
  State.with (module_ { core0 with copyq := [k], outst := ops, lmem := [(0x50002, 0x33)] }) ps .rsp (.slice 3) (.core 0) 1

theorem witness_CopyEvents_issue :
    (∀ k ∈ [cpy .gl [0x60000, 0x5000, 0x100] false 0 [], cpy .gl [0x60000, 0x5000, 0x1000001] false 0 []],
      let s := stCopy k [] []
      (s.core 0).copyq = [k] ∧ (s.core 0).zeroing = false ∧ (s.core 0).barriers = [] ∧ s.suspended k.org.region = false ∧
      k.held = false ∧ k.resv = none ∧ k.fault = none ∧ k.told = false ∧ k.y = 0 ∧ s.domainOf k.org.region = some 1) ∧
    (0 < (0x100 : Word).toNat ∧ (0x100 : Word).toNat < 2 ^ 24 ∧ (0x5000 : Word).toNat + 0x100 ≤ 2 ^ 52 ∧
      (0x60000 : Word).toNat + 0x100 ≤ 0x180000 ∧ 2 ^ 24 < (0x1000001 : Word).toNat) ∧
    (∀ d ∈ ([.gl, .lg, .ll] : List CopyDir), let k := cpy d [0x60000, 0x50010, 0x100] true 0x20 []
      let s := stCopy k [] []
      (s.core 0).copyq = [k] ∧ (s.core 0).seen = [] ∧ k.pos < (0x100 : Word).toNat ∧ s.region k.org.region = some Flash.init.deviceRegion ∧
      Flash.init.deviceRegion.copybud = 0xFFFFFFFF) := by decide +kernel

theorem test_copy_start :
    (yields (.copyCommandStart 0) (stCopy (cpy .gl [0x60000, 0x5000, 0x100] false 0 []) [] [])
      (fun t => decide ((t.core 0).copyq = [cpy .gl [0x60000, 0x5000, 0x100] true 0 []])) &&
    yields (.copyCommandStart 0) (stCopy (cpy .gl [0x60000, 0x5000, 0x1000001] false 0 []) [] [])
      (fun t => decide ((t.core 0).copyq = []) && reports t 7 1)) = true := by decide +kernel

theorem test_copy_pieces :
    (yields (.copyPieceIssue 0) (stCopy (cpy .gl [0x60000, 0x50010, 0x100] true 0x20 []) [] [])
      (fun t => decide ((t.core 0).src.map (·.body) = [.pieceRead 0 0x20 0x50 0x50030 false .normal] ∧
        (t.core 0).copyq.map (fun k => (k.pos, k.pieces)) = [(0x70, [⟨0x20, 0x50, 1⟩])])) &&
    yields (.copyPieceIssue 0) (stCopy (cpy .lg [0x60000, 0x50000, 4] true 0 []) [] [])
      (fun t => decide ((t.core 0).src.map (·.body) = [.pieceWrite 0 0 0x60000 [0, 0, 0x33, 0] [] .normal])) &&
    yields (.copyPieceIssue 0) (stCopy (cpy .ll [0x60000, 0x50000, 4] true 0 []) [] [])
      (fun t => decide (t.net.map (·.body) = [.readRsp 0 [0, 0, 0x33, 0] [] 0]))) = true := by decide +kernel

/-- A gather of two elements of four bytes, with the second one outstanding. -/
def gth (y : Word) : CopyCmd :=
  { cmdC with kind := .gthr { lu := false, evp := .normal, q := 0, iw := .i32, byt := false, n := false, r := false },
              grp := [0x50000, 2, 0x5000, 4, 0x60000], y := y, started := true, pos := 2, pieces := [⟨1, 4, 1⟩] }

/-- The last piece of a CPY, outstanding. -/
def lastCpy (d : CopyDir) (y : Word) : CopyCmd := { cpy d [0x60000, 0x5000, 0x24] true 0x24 [⟨0x20, 4, 1⟩] with y := y }

theorem witness_CopyEvents_land :
    (∀ d ∈ ([.gl, .ll] : List CopyDir), ∀ n ∈ [0, goodRef.toNat], let k := lastCpy d (BitVec.ofNat 64 n)
      let o := opBack (.pieceRead 0 0x20 4 0x5020 false .normal)
      let s := stCopy k [o] [.readRsp 40 [1, 2, 3, 4] [] 0]
      s.packet 0 = some ⟨.rsp, .slice 3, .core 0, 1, .readRsp 40 [1, 2, 3, 4] [] 0⟩ ∧ (s.core 0).outstanding 40 = some o ∧
      (s.core 0).copyq = [k] ∧ k.fault = none ∧ k.err = false ∧ k.held = false ∧ k.resv = none ∧ k.pos = k.total ∧
      k.total ≠ 0 ∧ (s.core 0).laid = [] ∧ Memory.wf (s.core 0).lmem = true ∧ s.localOk 0 k.org.fid 0x60020 4 true = true ∧
      s.routeOk (Ref.of goodRef).module = true ∧ s.brielo.drain = []) ∧
    (let k := gth goodRef
     let o := opBack (.element 0 1 4 0x5004 false .normal)
     let s := stCopy k [o] [.element 0 1 [1, 2, 3, 4] [] 0]
     s.packet 0 = some ⟨.rsp, .slice 3, .core 0, 1, .element k.id 1 [1, 2, 3, 4] [] 0⟩ ∧ (s.core 0).outst = [o] ∧
     (s.core 0).copyq = [k] ∧ k.pos = k.total ∧ k.total ≠ 0 ∧ (s.core 0).laid = [] ∧ s.localOk 0 k.org.fid (0x60000 + 1 * 4) 4 true = true) := by
  decide +kernel

theorem test_copy_lands :
    (yields (.copyPieceComplete 0) (stCopy (lastCpy .gl goodRef) [opBack (.pieceRead 0 0x20 4 0x5020 false .normal)]
        [.readRsp 40 [1, 2, 3, 4] [] 0])
      (fun t => decide ((t.core 0).copyq = [] ∧ Cells.read (t.core 0).lmem 0x60020 4 = [1, 2, 3, 4] ∧
        t.net = [⟨.rsp, .core 0, .core 0, 1, .signal goodRef 1 .none false false⟩])) &&
    yields (.gatherElementReturn 0) (stCopy (gth goodRef) [opBack (.element 0 1 4 0x5004 false .normal)]
        [.element 0 1 [1, 2, 3, 4] [] 0])
      (fun t => decide ((t.core 0).copyq = [] ∧ Cells.read (t.core 0).lmem 0x60004 4 = [1, 2, 3, 4] ∧
        t.net = [⟨.rsp, .core 0, .core 0, 1, .signal goodRef 1 .none false false⟩]))) = true := by decide +kernel

/-- A multicast piece for landing channel 3, open or closed, and a gather request. -/
def stMcast (ref : Word) : State :=
  State.with (module_ { core0 with land := if ref = 0 then [] else [(6, ref), (7, 0x60000)] })
    [.mcast 5 0x40 0x100 3 [1, 2, 3, 4] []] .req (.core 1) (.core 0) 1
def stGather : State := State.with st [.gather 5 2 0x4000 8 false .normal 0 .wb] .req (.core 0) (.gather 7) 1

theorem witness_CopyEvents_units :
    (∀ n ∈ [0, goodRef.toNat], let s := stMcast (BitVec.ofNat 64 n)
      s.packet 0 = some ⟨.req, .core 1, .core 0, 1, .mcast 5 0x40 0x100 3 [1, 2, 3, 4] []⟩ ∧
      (s.core 0).laid = [] ∧ SMap.get (s.core 0).land (2 * 3) 0 = BitVec.ofNat 64 n) ∧
    (let s := stMcast goodRef
     SMap.get (s.core 0).land (2 * 3 + 1) 0 = 0x60000 ∧ s.onCoreRef 0 goodRef = true ∧ (0x60000 : Word).toNat < 2 ^ 21 ∧
     s.fstore ≤ 0x60000 + 0x100 + 0x40 ∧ 0x60000 + 0x100 + 0x40 + 4 ≤ 0x180000 ∧ Memory.wf (s.core 0).lmem = true) ∧
    ((stMcast 0).domainOf 1 = some 1 ∧ ((stMcast 0).core 1).copyq.find? (·.id == 5) = none) ∧
    stGather.packet 0 = some ⟨.req, .core 0, .gather 7, 1, .gather 5 2 0x4000 8 false .normal 0 .wb⟩ ∧
    (SMap.get stGather.gathers 7 []).length < 64 := by decide +kernel

theorem test_units :
    (yields (.multicastPieceArrival 0) (stMcast goodRef) (fun t => decide (Cells.read (t.core 0).lmem 0x60140 4 = [1, 2, 3, 4] ∧
      t.net = [⟨.sig, .core 0, .core 0, 1, .count goodRef 4 false 1 5 0x40⟩])) &&
    yields (.multicastPieceArrival 0) (stMcast 0) (fun t => decide (t.net.length = 2 ∧ (t.core 0).lmem = [] ∧
      t.net.getLast? = some ⟨.rsp, .core 0, .core 1, 1, .mcastAck 5 0x40 false⟩)) &&
    yields (.gatherRequestArrival 0) stGather (fun t => decide (SMap.get t.gathers 7 [] = [⟨5, 2, 0⟩] ∧
      t.net = [⟨.req, .gather 7, .slice (stGather.homeSlice 0x4000), 1, .gather 5 2 0x4000 8 false .normal 0 .wb⟩]))) = true := by
  decide +kernel

/-! ### The tile engine -/

/-- Rings of four tiles, with one tile of ones at head 1 and with two tiles. -/
def ringA : Ring := ⟨0x50000, 4, false, 0x60000, 1, 1, 0⟩
def ringB : Ring := ⟨0x52000, 4, false, 0x60100, 0, 2, 0⟩

/-- A tile command alone in its queue on a core that its region owns: INT8 tiles with one element each, 3 and -2, descriptors
of those tiles, an accumulator of 200, a row of MMG and a source of it. `desc` is the second descriptor. -/
def stTile (k : TileCmd) (desc : Nat) : State :=
  let l := Cells.write (Cells.write (Cells.write [(0x50200, 3), (0x52000, 0xFE)] 0x60008 (bytesOf 8 6)) 0x60100 (bytesOf 8 desc))
    0x70000 ([5, 1, 0x3F80, 2, 0xFFFF].flatMap (bytesOf 2))
  { module_ { core0 with run := none, tileq := [k], owner := 1, accs := [(2, List.replicate 256 200)],
                         rings := [(0, ringA), (1, ringB)], lmem := Cells.write l 0x71008 (bytesOf 4 0x3FC00000) } with
    cycle := 50 }

/-- Commands of one kind, not started and started. -/
def tc (k : TileKind) (grp : List Word) : TileCmd := { cmdT with kind := k, grp := grp }
def tcOn (k : TileKind) (grp : List Word) (left : Nat) : TileCmd := { tc k grp with started := true, left := left }

/-- The pair of those tiles, ready to retire. -/
def pair0 : Pair :=
  { da := 6, db := 6, expA := none, poison := false, dense := false, due := 50, skip := none }
def cmdPair : TileCmd := { tcOn (.mma false 1 0 2) [1] 1 with pair := some pair0 }

/-- A row of MMG: its record at 0x70000, its source at 0x71000, its result to 0x72000. -/
def cmdRow : TileCmd :=
  { tcOn (.mmg .bf16 .f32) [0x70000, 1, 0x71000, 4, 0x72000] 1 with recAt := 0x70000 }

theorem witness_TileEvents_start :
    (∀ k ∈ [tc .fenceq [], tc (.rcfg 3) [0x50000, 0x104, 0x60200], tc (.sscfg 1) [0x60000, 64], tc (.accz 2) [],
        tc (.accld 2) [0x50000], tc (.mma false 1 0 2) [2], tc (.mma false 1 5 2) [2]],
      let s := stTile k 6
      (s.core 0).tileq = [k] ∧ (s.core 0).owner = k.org.region ∧ (s.core 0).lpoison = [] ∧ (s.core 0).accBad = [] ∧
      s.region k.org.region = some Flash.init.deviceRegion ∧ Flash.init.deviceRegion.tilebud = 0xFFFF ∧
      (s.core 0).seen = [] ∧ (s.core 0).laid = [] ∧ k.done = false ∧ s.suspended k.org.region = false ∧ k.y = 0 ∧ k.fault = none ∧ k.err = false ∧ k.bad = false ∧ k.started = false ∧
      k.left = 0 ∧ (s.core 0).zeroing = false ∧ (s.core 0).barriers = [] ∧ (s.core 0).copyq = [] ∧
      ((s.core 0).accs.map (·.1)).Pairwise (· < ·) ∧ SMap.find (s.core 0).rings 0 = some ringA ∧
      SMap.find (s.core 0).rings 1 = some ringB ∧ SMap.find (s.core 0).rings 5 = none ∧ s.domainOf k.org.region = some 1) ∧
    (0x50000 % 64 = 0 ∧ 0x50000 + 1024 ≤ 0x180000 ∧ (2 : Nat) ≠ run.origin.region) := by decide +kernel

theorem witness_TileEvents_run :
    (∀ d ∈ [6, 0], let k := tcOn (.mma false 1 0 2) [1] 1
      let s := stTile k d
      (s.core 0).tileq = [k] ∧ k.started = true ∧ k.pair = none ∧ SMap.find (s.core 0).rings 0 = some ringA ∧
      SMap.find (s.core 0).rings 1 = some ringB ∧ 1 ≤ ringA.count ∧ ringA.head < ringA.depth ∧
      tagPairOk (descTag ((s.core 0).word (ringA.desc + 8 * ringA.head))) (descTag ((s.core 0).word ringB.desc))
        = decide (d = 6) ∧
      ((s.core 0).word (ringA.desc + 8 * ringA.head)).extractLsb' 4 28 = 0 ∧ ((s.core 0).word ringB.desc).extractLsb' 4 28 = 0) ∧
    (let s := stTile cmdPair 6
     (s.core 0).tileq = [cmdPair] ∧ cmdPair.pair = some pair0 ∧ pair0.da = 6 ∧ pair0.db = 6 ∧ pair0.expA = none ∧
     pair0.poison = false ∧ pair0.due ≤ s.cycle ∧ cmdPair.left = 1 ∧ ((s.core 0).acc 2).length = 256) ∧
    (let s := stTile cmdRow 6
     (s.core 0).tileq = [cmdRow] ∧ cmdRow.left = 1 ∧ cmdRow.row = 0 ∧ s.fstore ≤ cmdRow.recAt ∧
     ((List.range 5).map fun j => natOf (Cells.read (s.core 0).lmem (0x70000 + 2 * j) 2)) = [5, 1, 0x3F80, 2, 0xFFFF] ∧
     natOf (Cells.read (s.core 0).lmem (0x71000 + 4 * 2) 4) = 0x3FC00000 ∧ 1 ≤ 0x3FC00000 / 2 ^ 23 % 256 ∧
     0x3FC00000 / 2 ^ 23 % 256 ≤ 254 ∧ Memory.wf (s.core 0).lmem = true) ∧
    (∀ k ∈ [tcOn (.accld 2) [0x50200] 0, tcOn (.accst false false .rne .fp32 2) [0x60200, 0] 0,
        tcOn (.accst false true .rne .int8 2) [0x60200, 0] 0],
      (((stTile k 6).core 0).tileq = [k] ∧ k.started = true ∧ k.grp.length ≤ 2)) := by decide +kernel

theorem test_tile_start :
    (yields (.tileCommandStart 0) (stTile (tc (.rcfg 3) [0x50000, 0x104, 0x60200]) 6) (fun t => decide ((t.core 0).tileq = [] ∧
      SMap.find (t.core 0).rings 3 = some ⟨0x50000, 4, true, 0x60200, 0, 0, 0⟩)) &&
    yields (.tileCommandStart 0) (stTile (tc (.sscfg 1) [0x60000, 64]) 6) (fun t => decide ((t.core 0).tileq = [] ∧
      SMap.find (t.core 0).skips 1 = some ⟨0x60000, false, 0x60040⟩)) &&
    yields (.tileCommandStart 0) (stTile (tc (.accz 2) []) 6) (fun t => decide ((t.core 0).acc 2 = List.replicate 256 0)) &&
    yields (.tileCommandStart 0) (stTile (tc (.mma false 1 0 2) [2]) 6)
      (fun t => decide ((t.core 0).tileq = [tcOn (.mma false 1 0 2) [2] 2])) &&
    yields (.tileCommandStart 0) (stTile (tc (.mma false 1 5 2) [2]) 6)
      (fun t => decide ((t.core 0).tileq = []) && reports t 0x0C 1) &&
    yields (.tileCommandStart 0) ((stTile (tc .fenceq []) 6).setCore 0 { (stTile (tc .fenceq []) 6).core 0 with owner := 2 })
      (fun t => decide ((t.core 0).tileq = [] ∧ (t.core 0).owner = 1 ∧ (t.core 0).rings = [] ∧ (t.core 0).accs = []))) = true := by
  decide +kernel

theorem test_tile_pair :
    (yields (.tilePairStart 0) (stTile (tcOn (.mma false 1 0 2) [1] 1) 6) (fun t => decide (((t.core 0).tileq.map fun k =>
      k.pair.map fun p => (p.da, p.db, p.due)) = [some (6, 6, 54)] ∧ t.pairCores = [(0, [0])])) &&
    yields (.tilePairStart 0) (stTile (tcOn (.mma false 1 0 2) [1] 1) 0)
      (fun t => decide ((t.core 0).tileq = []) && reports t 7 1) &&
    yields (.tilePairRetire 0) (stTile cmdPair 6) (fun t => decide ((t.core 0).tileq = [] ∧
      ((t.core 0).acc 2).take 2 = [194, 200]))) = true := by
  decide +kernel

theorem test_mmg_row :
    (yields (.mmgRowComplete 0) (stTile cmdRow 6) (fun t => decide ((t.core 0).tileq = [] ∧
      Cells.read (t.core 0).lmem 0x72000 4 = bytesOf 4 0x3FC00000)) ) = true := by
  decide +kernel

/-! ### The front ends and the service core -/

/-- Queue 7 of front end 0: entries at host address 0x10000, a tail at host address 0x20000, region 1, enabled. -/
def queue7 (head : Nat) : Queue :=
  { Queue.init with entry := [0x8000000000010000, 0x8000000000020000, 0, 0x0001000106000001, 0, 0, 0, 0], state := 1, head := head,
                    tail := head + 1 }

theorem test_queue_fields : (queue7 3).size = 64 ∧ (queue7 3).region = 1 ∧ (queue7 3).pending = 1 := by decide +kernel

/-- The module with queue 7, and host memory with an entry in its slot 3 and a tail. -/
def stQueue (ws : List Word) (tail : Nat) : State :=
  { st with queues := [(7, { queue7 3 with noticed := true })],
            hostMem := Cells.write (Cells.write [] (0x10000 + 3 * 64) (bytesOfWords ws)) 0x20000 (bytesOf 4 tail) }

/-- Front end 0 with one entry of queue 7, and triggers 9 (armed) and 10 (not armed). -/
def stFe (ws : List Word) (wrote : Bool) : State :=
  { stQueue [] 4 with
    queues := [(7, { queue7 4 with busy := true })],
    fes := [(0, { FrontEnd.init with pend := [⟨.queue 7 3, 1, ws, wrote⟩], trig := [(9, ⟨true, 1, 5, 5, [0x100000]⟩)] })] }

/-- References to triggers 9 and 10 of front end 0. -/
def trig10 : Word := 0x8000000000050000

theorem witness_FrontEndEvents_queues :
    (∀ tail ∈ [3, 67, 68, 2], let s := stQueue [] tail
      s.queue 7 = { queue7 3 with noticed := true } ∧ st.queue 7 = Queue.init ∧ (queue7 3).noticed = false ∧ (queue7 3).state = 1 ∧ (wordAt (queue7 3).entry 1).getLsbD 63 = true ∧
      natOf (Cells.read s.hostMem 0x20000 4) = tail ∧
      decide ((tail + (2 ^ 32 - (queue7 3).head)) % 2 ^ 32 ≤ (queue7 3).size) = decide (3 ≤ tail ∧ tail ≤ 67)) ∧
    (∀ k ∈ [0, 4, 255], let ws := [BitVec.ofNat 64 (0x20 * 2 ^ 16 + k), 1, 2, 3, 4, 5, 6, 7]
      let s := stQueue ws 4
      s.queues = [(7, { queue7 3 with noticed := true })] ∧ (queue7 3).busy = false ∧ (queue7 3).pending ≠ 0 ∧
      (wordAt (queue7 3).entry 0).getLsbD 63 = true ∧
      wordsOfBytes 8 (Cells.read s.hostMem (0x10000 + (queue7 3).head % (queue7 3).size * 64) 64) = ws ∧
      (wordAt (queue7 3).entry 3).getLsbD 32 = true ∧ (s.region 1).isSome = true ∧ s.domainOf 1 = some 1) := by decide +kernel

theorem test_queue :
    (yields (.tailNotification 7) (stQueue [] 67) (fun t => decide (t.queue 7 = { queue7 3 with tail := 67, noticed := false })) &&
    yields (.tailNotification 7) { stQueue [] 67 with queues := [(7, queue7 3)] } (fun t => decide (t.queue 7 = queue7 3)) &&
    yields (.tailNotification 7) (stQueue [] 68)
      (fun t => decide ((t.queue 7).state = 2 ∧ t.service.log = [.brokenQueue 7])) &&
    yields (.queueEntryFetch 7) (stQueue [0x200000, 1, 2, 3, 4, 5, 6, 7] 4) (fun t => decide ((t.queue 7).head = 4 ∧
      (t.fe 0).last = 7 ∧ (t.fe 0).pend = [⟨.queue 7 3, 1, [0x200000, 1, 2, 3, 4, 5, 6, 7], false⟩])) &&
    yields (.queueEntryFetch 7) (stQueue [4, 1, 2, 3, 4, 5, 6, 7] 4)
      (fun t => decide ((t.queue 7).head = 4 ∧ (t.fe 0).pend = []) && reports t 0x15 4)) = true := by decide +kernel

theorem witness_FrontEndEvents_entries :
    (let ws : List Word := [0x200000, 0x5000, 1, 2, 3, 4, 5, 6]
     let s := stFe ws false
     (s.fe 0).pend = [⟨.queue 7 3, 1, ws, false⟩] ∧ (wordAt ws 0).toNat % 256 = 0 ∧ s.domainOf 1 = some 1 ∧
     s.hostPoison = []) ∧
    (let ws : List Word := [1, trig10, 0xFFFFFF, 0x8000000000030000, 0, 0, 0, 0]
     let s := stFe ws false
     (wordAt ws 0).toNat % 256 = 1 ∧ (Ref.of trig10).module = s.brielo.number ∧ 0 < (wordAt ws 2).toNat ∧
     (wordAt ws 2).toNat < 2 ^ 24 ∧ (wordAt ws 3).getLsbD 63 = true ∧ (Ref.of trig10).frontEnd = 0 ∧
     (s.trigger 0 (Ref.of trig10).slot).armed = false) ∧
    (∀ r ∈ [1, 9], let rcb := if r = 1 then 0x10400000 else 0x10500000
      let ws : List Word := [0x30002, BitVec.ofNat 64 rcb, 0, 0, 0, 0, 0, 0]
      let f : FrontEnd := { FrontEnd.init with pend := [⟨.queue 7 3, r, ws, false⟩] }
      let s : State := { stFe ws false with regions := (stChild run).regions, fes := [(0, f)] }
      (wordAt ws 0).toNat % 256 = 2 ∧ (wordAt ws 0).extractLsb' 16 3 ≠ 0 ∧ s.regionOfRcb rcb = some r ∧
      (s.ancestry 8 r).contains r = true ∧ (s.ancestry 8 1).contains 9 = false ∧ s.domainOf 1 = some 1) ∧
    (let s := stFe [0x30002, 0x10600000, 0, 0, 0, 0, 0, 0] false
     s.regionOfRcb 0x10600000 = none ∧ s.domainOf 1 = some 1) ∧
    (∀ a ∈ [0, 0x6000], let ws : List Word := [3, goodRef, BitVec.ofNat 64 a, 77, 0, 0, 0, 0]
      let s := stFe ws false
      (wordAt ws 0).toNat % 256 = 3 ∧ s.undelivered 7 = false ∧ (wordAt ws 2).getLsbD 63 = false ∧ s.bindings = [] ∧
      s.lost = [] ∧ Memory.wf s.mem = true ∧ s.routeOk (Ref.of goodRef).module = true ∧ s.brielo.drain = []) ∧
    (let s : State := { stFe [3, goodRef, 0, 0, 0, 0, 0, 0] false with
       net := [⟨.sig, .frontEnd 0, .core 0, 1, .amsg 0x20 0x5000 [] (some 7)⟩] }
     s.undelivered 7 = true) := by decide +kernel

theorem test_entries :
    (yields (.activeMessageEntry 0 0) (stFe [0x200000, 0x5000, 1, 2, 3, 4, 5, 6] false) (fun t => decide
      (t.net = [⟨.sig, .frontEnd 0, .core 0, 1, .amsg 0x20 0x5000 [1, 2, 3, 4, 5, 6] (some 7)⟩])) &&
    yields (.triggerArmEntry 0 0) (stFe [1, trig10, 0xFFFFFF, 0x8000000000030000, 0, 0, 0, 0] false) (fun t => decide
      ((t.fe 0).pend = [] ∧ t.trigger 0 10 = ⟨true, 1, 0xFFFFFF, 0xFFFFFF, List.replicate 8 0⟩)) &&
    yields (.regionControlEntry 0 0) (stFe [0x30002, 0x10400000, 0, 0, 0, 0, 0, 0] false) (fun t => decide
      ((t.fe 0).pend = [] ∧ t.service.ops = [⟨3, 0x10400000, 0, 0, 1, some (7, 3), 0, []⟩])) &&
    yields (.regionControlEntry 0 0) (stFe [0x30002, 0x10600000, 0, 0, 0, 0, 0, 0] false) (fun t => decide
      (t.service.ops = [] ∧ (t.queue 7).busy = false) && reports t 2 4) &&
    yields (.queueFence 0 0) (stFe [3, goodRef, 0x6000, 77, 0, 0, 0, 0] false) (fun t => decide
      ((t.fe 0).pend.map (·.wrote) = [true] ∧ Cells.read t.mem 0x6000 8 = bytesOf 8 77 ∧ t.net = [])) &&
    yields (.queueFence 0 0) (stFe [3, goodRef, 0x6000, 77, 0, 0, 0, 0] true) (fun t => decide
      ((t.fe 0).pend = [] ∧ (t.queue 7).busy = false ∧
        t.net = [⟨.sig, .frontEnd 0, .core 0, 1, .signal goodRef 1 .none true false⟩]))) = true := by decide +kernel

/-- An ARM for trigger 10, and a signal to trigger 9 (armed with 5) or 10. -/
def stArm (thresh : Nat) : State :=
  State.with (stFe [] false) [.arm trig10 thresh (List.replicate 8 7) run.origin none] .sig (.core 0) (.frontEnd 0) 1
def stTrig (ref : Word) (dec : Nat) : State :=
  State.with (stFe [] false) [.signal ref dec .none false false] .sig (.core 0) (.frontEnd 0) 1

theorem witness_FrontEndEvents_triggers :
    (∀ n ∈ [1, 2 ^ 24 - 1, 2 ^ 24], (stArm n).packet 0
        = some ⟨.sig, .core 0, .frontEnd 0, 1, .arm trig10 n (List.replicate 8 7) run.origin none⟩ ∧
      ((stArm n).trigger 0 (Ref.of trig10).slot).armed = false ∧ (stArm n).domainOf 1 = some 1) ∧
    (∀ dec ∈ [1, 4, 5], (stTrig trigRef dec).packet 0
        = some ⟨.sig, .core 0, .frontEnd 0, 1, .signal trigRef dec .none false false⟩ ∧
      (stTrig trigRef dec).trigger 0 (Ref.of trigRef).slot = ⟨true, 1, 5, 5, [BitVec.ofNat 64 (0x10 * 2 ^ 16)]⟩ ∧
      ((stTrig trigRef dec).region 1).isSome = true) ∧
    (let s : State := { stTrig trig10 1 with fes := [(0, { FrontEnd.init with trig := [(10, ⟨false, 1, 0, 5, []⟩)] })] }
     (s.trigger 0 (Ref.of trig10).slot).armed = false ∧ (s.trigger 0 (Ref.of trig10).slot).region = 1) := by decide +kernel

/-- Trigger 9 with a command that arms it anew with a threshold of 7 and a command of host memory, and the same entry whose
affinity entry is bad. -/
def stRearm : State :=
  { stTrig trigRef 5 with
    fes := [(0, { FrontEnd.init with trig := [(9, ⟨true, 1, 5, 5, [1, trigRef, 7, BitVec.ofNat 64 (2 ^ 63 + 0x30000), 0, 0, 0, 0]⟩)] })] }
def stFeBad : State :=
  { stFe [0x200000, 0x5000, 1, 2, 3, 4, 5, 6] false with mem := Cells.write [] Flash.init.deviceRegion.afftab (bytesOf 2 2048) }

theorem witness_FrontEndEvents_owners :
    (let s := stFe [0x200000, 0x5000, 1, 2, 3, 4, 5, 6] false
     s.Hashes (.frontEnd 0) 1 0x5000 0 ∧ s.Owns 1 0) ∧ (stFeBad.Hashes (.frontEnd 0) 1 0x5000 2048 ∧ ¬ stFeBad.Owns 1 2048) ∧
    ((stTrig trigRef 5).Hashes (.frontEnd 0) 1 (wordAt [0x100000] 1) 0 ∧ (stTrig trigRef 5).Owns 1 0) :=
  ⟨⟨test_hashes rfl rfl rfl rfl (by decide +kernel), (test_owns rfl).1⟩,
    ⟨test_hashes rfl rfl rfl rfl (by decide +kernel), (test_owns rfl).2⟩,
    test_hashes rfl rfl rfl rfl (by decide +kernel), (test_owns rfl).1⟩

theorem witness_FrontEndEvents_rearm :
    stRearm.packet 0 = some ⟨.sig, .core 0, .frontEnd 0, 1, .signal trigRef 5 .none false false⟩ ∧
    stRearm.refOk trigRef = true ∧ (Ref.of trigRef).t = true ∧ (Ref.of trigRef).module = stRearm.brielo.number ∧
    (Ref.of trigRef).frontEnd = 0 ∧ (stRearm.region 1).isSome = true ∧ stRearm.hostPoison = [] := by decide +kernel

theorem test_triggers_arm :
    (yields (.triggerArming 0) (stArm 6)
      (fun t => decide (t.net = [] ∧ t.trigger 0 10 = ⟨true, 1, 6, 6, List.replicate 8 7⟩)) &&
    yields (.triggerArming 0) (stArm (2 ^ 24)) (fun t => decide ((t.trigger 0 10).armed = false) && reports t 7 4)) = true := by
  decide +kernel

theorem test_triggers :
    (yields (.triggerSignal 0) (stTrig trigRef 4) (fun t => decide (t.trigger 0 9 = ⟨true, 1, 1, 5, [0x100000]⟩ ∧ t.net = [])) &&
    yields (.triggerSignal 0) (stTrig trigRef 5) (fun t => decide (t.trigger 0 9 = ⟨false, 1, 0, 5, [0x100000]⟩ ∧
      (t.fe 0).pend.length = 1 ∧ t.net.map (fun p => (p.dst, p.body)) = [(.core 0, .amsg 0x10 0 [] none)])) &&
    yields (.triggerSignal 0) stRearm
      (fun t => decide (t.trigger 0 9 = ⟨true, 1, 7, 7, List.replicate 8 0⟩ ∧ t.net = [])) &&
    yields (.activeMessageEntry 0 0) stFeBad (fun t => reports t 9 4) &&
    yields (.triggerSignal 0) (stTrig trig10 1) (fun t => reports t 8 4 || reports t 9 4)) = true := by decide +kernel

/-- The service core with one operation, whose region's RCB stands where the device region's does, number 1 in it. -/
def stOp (o : RgnOp) : State :=
  { stChild run with service := { st.service with ops := [o] }, mem := Cells.write [] 0x1040000E (bytesOf 2 1) }
def rgnOp (op : Nat) (arg : Word) (phase : Nat) : RgnOp := ⟨op, 0x10400000, arg, goodRef, 1, none, phase, []⟩

theorem witness_FrontEndEvents_control :
    (∀ o ∈ [rgnOp 0 0 0, rgnOp 3 0 0, rgnOp 2 0 0, rgnOp 2 0 1, rgnOp 3 2 0], let s := stOp o
      s.service.down = false ∧ s.service.ops = [o] ∧ o.queue = none ∧ o.issuer = 1 ∧ o.ref ≠ 0 ∧ o.rcb.toNat % 256 = 0 ∧
      o.rcb.toNat + 256 ≤ asTable ∧ s.routeOk (Ref.of o.ref).module = true ∧ s.brielo.drain = [] ∧
      s.regionOfRcb o.rcb.toNat = some 1 ∧ s.suspended 1 = false ∧ s.busyIn 9 = false) ∧
    (stOp { rgnOp 1 0 0 with rcb := 0x10600000 }).regionOfRcb 0x10600000 = none ∧
    (let s := State.with st [.rgnctl 0 0x10400000 0 0 run.origin] .req (.core 0) .service 1
     s.service.down = false ∧ s.service.ops = [] ∧ s.net.length = 1 ∧
     s.packet 0 = some ⟨.req, .core 0, .service, 1, .rgnctl 0 0x10400000 0 0 run.origin⟩) ∧
    ({ st.service with down := true }).down = true := by decide +kernel

/-- The completion signal of an operation with a status. -/
def done (st : Nat) : Packet :=
  ⟨.sig, .service, .core 0, 1, .signal goodRef 1 (.words 0 [BitVec.ofNat 64 (st * 2 ^ 56 + 1)]) true false⟩

theorem test_control :
    (yields .regionControlPerform (stOp (rgnOp 0 0 0)) (fun t => decide (t.service.ops = [] ∧ t.net = [done 11])) &&
    yields .regionControlPerform (stOp (rgnOp 3 0 0)) (fun t => decide (t.service.ops = [] ∧ t.net = [done 0])) &&
    yields .regionControlPerform (stOp (rgnOp 3 2 0)) (fun t => decide (t.service.ops = [] ∧ t.net = [done 2])) &&
    yields .regionControlPerform (stOp (rgnOp 2 0 0)) (fun t => decide (t.service.ops = [rgnOp 2 0 1] ∧ t.net = [] ∧
      (t.region 1).map (·.susp) = some true)) &&
    yields .regionControlPerform (State.with st [.rgnctl 0 0x10400000 0 0 run.origin] .req (.core 0) .service 1)
      (fun t => decide (t.service.ops = [⟨0, 0x10400000, 0, 0, 1, none, 0, []⟩] ∧ t.net = []))) = true := by decide +kernel

/-! ### Periods, the tracer and firmware -/

/-- The module at the end of budget period 1, with a debt of a region on core 0 and, with `b`, budgets to come. -/
def stPeriod (b : Bool) : State :=
  let g : Region := { Flash.init.deviceRegion with cycbud := 7, copybud := 11, nextBud := if b then some (1, 2, 3) else none }
  { module_ { core0 with budgets := [(1, ⟨-5, -2, 3⟩)] } with cycle := 30000, regions := [(1, g)] }

/-- A monitored region's window at its end: with `g` progress, and a slot armed in frame 5. -/
def stWindow (g : Nat) : State :=
  { module_ { core0 with frames := [(5, { frame with armed := [6] })] } with cycle := 3000000, regions := [(1, { Flash.init.deviceRegion with progress := g })] }

/-- Stack 4 of basin 1 with refreshes banked: 256 of the basin's tile engines started a pair in the microsecond before, or none did
and the counter is exhausted while a read waits. -/
def stBusy (tile : Bool) (a : Nat) : State :=
  if tile then { st with cycle := 3000, pairCores := (List.range 256).map fun c => (512 + c, [0]), banked := [(4, a)] }
  else { State.with st [.read 7 0x800 8 false .normal .wb] .req (.core 0) (.slice 9) 1 with hkBud := [(4, 0)], banked := [(4, 3)] }

theorem witness_PeriodEvents :
    (∀ b ∈ [false, true], let s := stPeriod b
      s.period < s.cycle / 3 / 10000 ∧ ((s.region 1).map fun x => x.nextBud.isSome) = some b ∧
      SMap.find (s.core 0).budgets 1 = some ⟨-5, -2, 3⟩) ∧ st.cycle / 3 / 10000 ≤ st.period ∧
    (∀ g ∈ [0, 1], let s := stWindow g
      (s.region 1).map (fun x => (x.win, x.winStart, x.progress, x.winSusp)) = some (0, 0, g, false) ∧ 0 + 1000000 ≤ s.time ∧
      s.suspended 1 = false ∧ s.cores = [(0, s.core 0)] ∧ (s.core 0).frames = [(5, { frame with armed := [6] })] ∧
      frame.region = 1 ∧ s.domainOf 1 = some 1) ∧ st.time < 0 + 1000000 ∧
    (∀ m ∈ [0, 15], SMap.get st.hkBud m (st.hkbud : Int) = 1250 ∧ SMap.find st.tileIv (m / 4) = none ∧
      SMap.get st.banked m 0 = 0 ∧ ∀ kd ∈ [HkKind.fill, .mergeApply], st.hkMay (hkRank kd) [m] = true) ∧
    (∀ e ∈ [4, 32], 1 ≤ e ∧ e ≤ 32) ∧
    (let s := stBusy false 0
     SMap.get s.hkBud 4 (s.hkbud : Int) = 0 ∧ s.demandWaits 4 = true ∧ SMap.get s.banked 4 0 = 3 ∧
     SMap.find s.tileIv (4 / 4) = none) ∧
    (∀ a ∈ [0, 7, 8], let s := stBusy true a
      1 ≤ s.cycle / 3 / 1000 ∧ SMap.get s.banked 4 0 = a ∧
      (s.pairCores.filter fun c => c.1 / 512 == 4 / 4 && c.2.contains (s.cycle / 3 / 1000 - 1)).length = 256) := by
  decide +kernel

theorem test_periods :
    (yields .periodStart (stPeriod false) (fun t => decide (t.period = 1 ∧
      SMap.find (t.core 0).budgets 1 = some ⟨16 * 7 - 5, 16 * 0xFFFF - 2, 11⟩)) &&
    yields .periodStart (stPeriod true) (fun t =>
      decide ((t.region 1).map (fun x => (x.cycbud, x.tilebud, x.copybud)) = some (1, 2, 3))) &&
    yields (.monitorWindowEnd 1) (stWindow 1) (fun t => decide ((t.region 1).map
      (fun x => (x.winStart, x.progress, x.susp)) = some (1000000, 0, false) ∧ t.net = [])) &&
    yields (.monitorWindowEnd 1) (stWindow 0) (fun t => decide ((t.region 1).map (·.susp) = some true) && reports t 0x11 6)) = true := by
  decide +kernel

theorem test_housekeeping :
    (yields (.housekeepingWork 4 .scrub 50) (stBusy false 0) (fun t => decide (t.hkBud = [(4, 0)])) &&
    yields (.housekeepingWork 4 .refresh 50) (stBusy false 0) (fun t => decide (t.hkBud = [(4, 0)] ∧ t.banked = [(4, 2)])) &&
    yields (.housekeepingWork 4 .refresh 50) (stBusy true 7)
      (fun t => decide (t.hkBud = [(4, 1200)] ∧ t.banked = [(4, 8)] ∧ t.tileIv = [(1, 1)])) &&
    yields (.tileIntervalEval 1) (stBusy true 7) (fun t => decide (t.tileIv = [(1, 1)]))) = true := by decide +kernel

/-- A trace buffer of 4 KiB at 0x40000 with its control block, at write pointer `wp`, and a record on its way. -/
def stTrace (wp : Nat) : State :=
  State.with { st with tracer := ⟨0x40000, 4096, 0x50000, wp, 0, 0⟩ } [.trace 7 9] .sig (.core 0) .tracer 1

theorem witness_PeriodEvents_trace :
    (∀ wp ∈ [0, 4080, 4096], let s := stTrace wp
      s.packet 0 = some ⟨.sig, .core 0, .tracer, 1, .trace 7 9⟩ ∧ s.tracer.size ≠ 0 ∧ s.bindings = [] ∧ s.lost = [] ∧
      Memory.wf s.mem = true ∧ s.tracer.wp < 2 ^ 64 ∧ natOf (Cells.read s.mem (s.tracer.ctl + 16) 8) = 0 ∧
      0x40000 + wp % 4096 + 16 ≤ s.tracer.ctl ∧
      decide ((wp + (2 ^ 64 - 0)) % 2 ^ 64 ≤ s.tracer.size - 16) = decide (wp ≤ 4080)) ∧
    st.tracer.size = 0 ∧ ((st.core 0).zeroing = false ∧ ((module_ { core0 with zeroing := true }).core 0).zeroing = true ∧
      (core0).copyq = []) ∧
    ((stTrace 16).tracer.size ≠ 0 ∧ (stTrace 16).bindings = [] ∧ (stTrace 16).lost = []) := by decide +kernel

theorem test_trace :
    (yields (.traceRecordWrite 0) (stTrace 4080) (fun t => decide (Cells.read t.mem (0x40000 + 4080) 16
      = bytesOf 8 7 ++ bytesOf 8 9 ∧ t.tracer = ⟨0x40000, 4096, 0x50000, 4096, 0, 0⟩)) &&
    yields (.traceRecordWrite 0) (stTrace 4096) (fun t => decide (Cells.read t.mem 0x50000 8 = bytesOf 8 1 ∧
      t.tracer.drop = 1 ∧ t.tracer.wp = 4096)) &&
    yields (.scratchZeroingComplete 0) (module_ { core0 with zeroing := true, lmem := [(0x401, 1), (0x900, 1), (0x40000, 2)] })
      (fun t => decide ((t.core 0).lmem = [(0x401, 1)] ∧ (t.core 0).zeroing = false ∧ (t.core 0).land = []))) = true := by decide +kernel

theorem witness_FirmwareEvents_commands :
    st.power = .active ∧ st.service.down = false ∧ (∀ o ∈ st.service.ops, o.op ≠ 5) ∧
    (let ws := (queue7 3).entry
     st.tableEntryOk ws = true ∧ ((wordAt (List.replicate 8 0) 3).extractLsb' 24 5 : BitVec 5) = 0 ∧ 7 < 65536) ∧
    (∀ k ∈ [12, 30], (0x40000000 : Word).toNat % 2 ^ k = 0 ∧ (0x40000000 : Word).toNat + 2 ^ k ≤ hbmEnd ∧
      (0x50000 : Word).toNat % 64 = 0 ∧ (0x50000 : Word).toNat + 64 ≤ hbmEnd) ∧ st.bindings = [] ∧ Memory.wf st.mem = true ∧
    ((4095 : Word) ≠ 0 ∧ (4095 : Word).toNat < 4096) ∧ (st.brielo.drain = [] ∧ st.brielo.failed = []) ∧
    (∀ m < 256, (0x0F : BitVec 2048).toNat / 2 ^ (8 * m) % 256 < 16) ∧ 16 ≤ (0x10 : BitVec 2048).toNat / 2 ^ (8 * 0) % 256 ∧
    st.flash.lifecycle.mayBecome .authorisedDebug = true ∧ st.flash.lifecycle.mayBecome .provisioned = false ∧
    (0xC0FF : BitVec 16).toNat ∉ [0xC001, 0xC002, 0xC010, 0xC020, 0xC030, 0xC040, 0xC050, 0xC060] ∧
    st.flash.slotB = false ∧ ({ st.flash with slotB := true }).slotB = true := by decide +kernel

/-- A route to module 3 through port 2, with one packet unconfirmed and a change of it in hand. -/
def stRoute (c : Nat) : State :=
  { State.with st [.signal 0 1 .none false false] .sig (.core 0) (.peer 3) 1 with brielo := { st.brielo with routes := [(3, 2)], drain := [(3, 2)], unconfirmed := if c = 0 then [] else [(256 * 2 + 3, c)] } }

theorem witness_FirmwareEvents_others :
    ({ st with service := { st.service with down := true } } : State).service.down = true ∧
    ({ st with power := .retention } : State).power = .retention ∧ ({ st with power := .waking } : State).power = .waking ∧
    (∃ g, st.region 1 = some g) ∧
    (∀ c ∈ [0, 1], let s := stRoute c
      SMap.find s.brielo.drain 3 = some 2 ∧ (s.brielo.drain.map (·.1)).Pairwise (· < ·) ∧
      SMap.get s.brielo.unconfirmed (256 * 2 + 3) 0 = c ∧ s.brielo.waiting = []) ∧
    (let s := stRoute 1
     s.net = [⟨.sig, .core 0, .peer 3, 1, .signal 0 1 .none false false⟩] ∧
     SMap.find s.brielo.unconfirmed (256 * 2 + 3) = some (0 + 1)) ∧
    (7 < 8 ∧ 7 ∉ st.brielo.failed ∧ st.brielo.drain = []) ∧ (hbmEnd - 1 < hbmEnd ∧ 2047 < 2048 ∧ 0x17FFFF < 0x180000) ∧
    (let s := stReady
     (s.core 0).ready[0]? = some ⟨5, 6, 1, 1, 1, 0, false⟩ ∧ (s.region 1).isSome = true ∧ s.domainOf 1 = some 1) := by
  refine ⟨?_, ?_, ?_, ⟨_, rfl⟩, ?_⟩
  all_goals decide +kernel

theorem test_firmware :
    (yields (.queueSet 7 (BitVec.ofNat 512 (natOf (bytesOfWords (queue7 3).entry)))) st (fun t => decide
      ((t.queue 7).entry = (queue7 3).entry ∧ (t.queue 7).head = 0 ∧ t.service.mailbox = [⟨0xC001, .ok, []⟩])) &&
    yields (.queueSet 65536 0) st (fun t => decide (t.service.mailbox = [⟨0xC001, .refused, []⟩])) &&
    yields (.queueState 7 false) (stQueue [] 4)
      (fun t => decide ((t.queue 7).state = 0 ∧ t.service.mailbox = [⟨0xC002, .ok, []⟩])) &&
    yields (.traceBuf 0x40000000 4096 0x50000) st (fun t => decide (t.tracer = ⟨0x40000000, 4096, 0x50000, 0, 0, 0⟩ ∧
      t.service.mailbox = [⟨0xC010, .ok, []⟩])) &&
    yields (.traceBuf 0x40000000 0 0x50000) { st with mem := [(0x50003, 9), (0x50018, 8)] }
      (fun t => decide (t.tracer.size = 0 ∧ t.mem = [(0x50018, 8)])) &&
    yields (.lifecycle .authorisedDebug true) st (fun t => decide (t.flash.pendingLife = some .authorisedDebug)) &&
    yields (.spdmRequest .challenge) st (fun t => decide (t.service.spdm = [⟨.challenge, st.service.key,
      (st.flash.record.map (·.certificate)).getD [], st.service.measured⟩])) &&
    yields (.fwUpdate 4 true) st (fun t => decide (t.flash.imageB = some 4 ∧ t.flash.imageA = some 1)) &&
    yields (.mailboxUnsupported 0xC0FF) st (fun t => decide (t.service.mailbox = [⟨0xC0FF, .unsupported, []⟩]))) = true := by
  decide +kernel

theorem test_firmware_more :
    (yields (.routeChangeDrain 3) (stRoute 0) (fun t => decide (t.brielo.drain = [])) &&
    yields (.routeChangeDrain 3) (stRoute 1) (fun t => decide (t = stRoute 1)) &&
    yields (.linkLevelConfirmation 2 3) (stRoute 1)
      (fun t => decide (t.net = [] ∧ SMap.find t.brielo.unconfirmed (256 * 2 + 3) = some 0)) &&
    yields (.brieloPortFailure 7) st (fun t => decide (t.brielo.failed = [7] ∧ t.service.log = [.linkFailure 7])) &&
    yields (.uncorrectableEcc (.localWord 3 0x17FFFF)) st (fun t => decide (0x17FFFF / 8 ∈ (t.core 3).lpoison)) &&
    yields (.uncorrectableEcc (.queueTable 7)) (stQueue [] 4) (fun t => decide ((t.queue 7).state = 2)) &&
    yields (.uncorrectableEcc (.readyQueue 0 0)) stReady
      (fun t => decide ((t.region 1).map (·.susp) = some true) && reports t 0x14 3) &&
    yields .modulePowerLoss st (fun t => decide (t.power = .off ∧ t.cores = [] ∧ t.regions = []))) = true := by decide +kernel

theorem test_boot : yields (.moduleReset 0) State.reset
    (fun t => decide (t.power = .active ∧ t.regions.map (fun e => (e.1, e.2.fstore, e.2.prio, e.2.rqw)) = [(1, 4, 8, 16)])) = true := by
  decide +kernel


/-- The module with a boot-attempt record. -/
def stBoot (j n : Nat) : State := { st with flash := { st.flash with attempt := some (j, n), imageB := some 2 } }

theorem witness_ResetAndBoot :
    (st.flash.pendingLife = none ∧ st.flash.attempt = none ∧ st.flash.triedB = false ∧ st.flash.imageA = some 1 ∧
      st.flash.rollback ≤ 1 ∧ st.flash.record.isSome = true) ∧
    (∀ j ∈ [2, 4, 6, 7], let s := stBoot j 1
      s.flash.pendingLife = none ∧ s.flash.attempt = some (j, 1) ∧ s.flash.triedB = false ∧ s.flash.record.isSome = true ∧
      (if j = 2 then s.flash.imageB else s.flash.imageA) = some (if j = 2 then 2 else 1) ∧ s.flash.rollback ≤ 1) ∧
    (∀ e ∈ [(1, 1), (8, 1), (2, 2), (7, 2)], let s := stBoot e.1 e.2
      s.flash.pendingLife = none ∧ s.flash.attempt = some (e.1, e.2)) := by decide +kernel

theorem test_boot_again :
    (yields (.moduleReset 7) st (fun t => decide (t.power = .booting ∧ t.flash.attempt = some (7, 1) ∧ t.regions = [])) &&
    yields (.moduleReset 0) (stBoot 2 1) (fun t => decide (t.power = .active ∧ t.flash.slotB = true ∧ t.flash.attempt = none)) &&
    yields (.moduleReset 0) (stBoot 7 1) (fun t => decide (t.power = .active ∧ t.brielo.half = true)) &&
    yields (.moduleReset 0) (stBoot 7 2) (fun t => decide (t.power = .halted))) = true := by decide +kernel

end Sys2Proof.Tests
end

section
/-! SUPPORT. Memory, words and frames: what a written range reads, spills, and the cases of an allocation (R40-R44). -/

namespace Sys2Proof.Machine
open Sys2Proof

/-! ## Bytes and words -/

theorem Cells.write_append (m : List Host.Cell) (a : Nat) (xs ys : List Byte) :
    Cells.write m a (xs ++ ys) = Cells.write (Cells.write m a xs) (a + xs.length) ys := by
  induction xs generalizing m a with
  | nil => rfl
  | cons b xs ih => rw [List.cons_append, Cells.write, ih, Cells.write, List.length_cons]; congr 1; omega

/-- What a memory reads after a range of it is cleared. -/
theorem Cells.get_clear {m : List Host.Cell} (lo hi a : Nat) (h : Memory.wf m = true) :
    Cells.get (Cells.clear m lo hi) a = if lo ≤ a ∧ a < hi then 0 else Cells.get m a := by
  suffices ∀ l, Cells.wfFrom l m = true →
      Cells.get (Cells.clear m lo hi) a = if lo ≤ a ∧ a < hi then 0 else Cells.get m a from this 0 h
  clear h
  induction m with
  | nil => intro l _; simp [Cells.clear, Cells.get]
  | cons e m ih =>
    intro l h
    obtain ⟨k, v⟩ := e
    obtain ⟨-, -, hm⟩ := (Cells.wfFrom_cons ..).1 h
    have low (p : Host.Cell → Bool) (ha : a ≤ k) : Cells.get (m.filter p) a = 0 :=
      Cells.get_below (Cells.wfFrom_filter p hm) (by omega)
    have low' (ha : a ≤ k) : Cells.get m a = 0 := Cells.get_below hm (by omega)
    have ih := ih _ hm
    simp only [Cells.clear, List.filter_cons] at ih ⊢
    by_cases hk : k < lo ∨ hi ≤ k
    · simp only [Bool.or_eq_true, decide_eq_true_eq, hk, if_true, Cells.get]
      grind
    · simp only [Bool.or_eq_true, decide_eq_true_eq, hk, if_false, Cells.get]
      grind

theorem bytesOfWords_cons (w : Word) (ws : List Word) : bytesOfWords (w :: ws) = bytesOf 8 w.toNat ++ bytesOfWords ws := rfl

theorem bytesOfWords_length (ws : List Word) : (bytesOfWords ws).length = 8 * ws.length := by
  induction ws with
  | nil => rfl
  | cons w ws ih => rw [bytesOfWords_cons, List.length_append, bytesOf_length, ih, List.length_cons]; omega

/-- Words written one after the other change the core's local memory and its poison. -/
theorem Core.putWords_eq (ws : List Word) (c : Core) (a : Nat) :
    c.putWords a ws = { c with
      lmem := Cells.write c.lmem a (bytesOfWords ws), lpoison := (c.putWords a ws).lpoison } := by
  induction ws generalizing c a with
  | nil => rfl
  | cons w ws ih =>
    rw [Core.putWords, ih]
    simp only [Core.putWord, bytesOfWords_cons, Cells.write_append, bytesOf_length]

theorem place_twelve (fid : Nat) : place fid 12 = BitVec.ofNat 64 (fid * 4096) := by
  simp [place, Nat.shiftLeft_eq]

/-! ## Frames -/

theorem SMap.find_of_firstFree {α : Type} {m : SMap α} {k : Nat} : ∀ {i n : Nat}, SMap.firstFree m i n = some k →
    SMap.find m k = none
  | _, 0, h => by cases h
  | i, n + 1, h => by
    unfold SMap.firstFree at h
    split at h
    · exact SMap.find_of_firstFree h
    · next hi => cases h; simpa [SMap.has] using hi

/-- An identifier that may be given out names no frame (R40). -/
theorem Core.frame_of_freeFid {c : Core} {fid : Nat} (h : c.freeFid = some fid) : c.frame fid = none := by
  unfold Core.freeFid at h
  split at h
  · next i hi => cases h; exact SMap.find_of_firstFree hi
  · exact SMap.find_of_firstFree h

/-- A rising map finds at its key what it lists there. -/
theorem SMap.find_of_mem {α : Type} {m : SMap α} (h : SMap.Rising m) {e : Nat × α} (he : e ∈ m) :
    SMap.find m e.1 = some e.2 := by
  unfold SMap.Rising at h
  induction m with
  | nil => cases he
  | cons x m ih =>
    rw [List.map_cons, List.pairwise_cons] at h
    rcases List.mem_cons.1 he with rfl | he
    · simp [SMap.find]
    · have : x.1 < e.1 := h.1 _ (List.mem_map_of_mem he)
      rw [SMap.find, if_neg (by omega), if_neg (by omega)]
      exact ih h.2 he

/-- A spill changes its frame, where that is Resident, and nothing else of the core (R44). -/
theorem Core.spill_eq (c : Core) (fid : Nat) : c.spill fid = { c with frames := (c.spill fid).frames } := by
  unfold Core.spill
  split
  · rfl
  · split
    · unfold Core.onFrame; split <;> rfl
    · rfl

theorem Core.spillRun_eq (c : Core) (base bytes : Nat) :
    c.spillRun base bytes = { c with frames := (c.spillRun base bytes).frames } :=
  foldl_keeps (fun d : Core => d = { c with frames := d.frames }) _
    (fun d e hd => by
      split
      · rw [Core.spill_eq, hd]
      · exact hd) _ _ rfl

/-- A Resident frame of a core as its spill leaves it: its bytes in a snapshot (R44). -/
def Core.spilled (c : Core) (f : Frame) : Frame :=
  { f with st := .spilled
           snap := some (Cells.read c.lmem f.base f.bytes,
             (c.lpoison.filter fun p => decide (f.base ≤ p * 8 ∧ p * 8 < f.base + f.bytes)).map (· - f.base / 8)) }

/-- What a spill makes of a frame: only a Resident one has a spill to start. -/
def Core.spillOf (c : Core) (f : Frame) : Frame := if f.st = .resident then c.spilled f else f

theorem Core.spillOf_spillOf (c : Core) (f : Frame) : c.spillOf (c.spillOf f) = c.spillOf f := by
  unfold Core.spillOf
  split <;> simp_all [Core.spilled]

theorem Core.frame_spill (c : Core) (fid k : Nat) :
    (c.spill fid).frame k = if k = fid then (c.frame k).map c.spillOf else c.frame k := by
  unfold Core.spill
  split
  · next h => split <;> simp_all
  · next f h =>
    split
    · next hst => rw [Core.frame_onFrame]; split <;> simp_all [Core.spilled, Core.spillOf]
    · next hst => split <;> simp_all [Core.spillOf]

/-- A run spilled: every frame listed in it is (R42). -/
theorem Core.frame_spillRun (c : Core) (base bytes v : Nat) :
    (c.spillRun base bytes).frame v =
      if c.frames.any (fun e => e.1 == v && e.2.inRun base bytes) then (c.frame v).map c.spillOf else c.frame v := by
  suffices ∀ (l : List (Nat × Frame)) (d : Core), d = { c with frames := d.frames } →
      (l.foldl (fun c' e => if e.2.inRun base bytes then c'.spill e.1 else c') d).frame v =
        if l.any (fun e => e.1 == v && e.2.inRun base bytes) then (d.frame v).map c.spillOf else d.frame v from
    this c.frames c rfl
  intro l
  induction l with
  | nil => intro d _; rfl
  | cons e l ih =>
    intro d hd
    rw [List.foldl_cons, List.any_cons]
    by_cases he : e.2.inRun base bytes = true
    · have hs : d.spillOf = c.spillOf := by rw [hd]; rfl
      rw [if_pos he, ih (d.spill e.1) (by rw [Core.spill_eq, hd]), Core.frame_spill, hs]
      by_cases hv : v = e.1
      · simp only [hv, he, if_true, Option.map_map, beq_self_eq_true, Bool.and_true, Bool.true_or]
        split
        · exact congrArg (Option.map · _) (funext fun f => c.spillOf_spillOf f)
        · rfl
      · simp only [if_neg hv, beq_eq_false_iff_ne.2 (Ne.symm hv), Bool.false_and, Bool.false_or]
    · rw [if_neg he, ih d hd]
      simp only [he, Bool.and_false, Bool.false_or]

/-! ## Allocation (R40, R42, R43) -/

/-- A frame as it is first entered in the table: Spilled with a zero image, at no place yet (R42). -/
def newFrame (c : Core) (region cls arena : Nat) : Frame :=
  { cls := cls, region := region, base := 0, st := .spilled, arena := arena, zero := true, snap := none,
    used := c.stamp + 1, parked := none, freeing := false, ownFree := [], admitted := false, asked := 0, placed := false,
    armed := [], handler := 0 }

/-- A core that has given out a frame identifier. -/
def Core.gave (c : Core) (fid : Nat) : Core := { c with fptr := (fid + 1) % 65536, stamp := c.stamp + 1 }

section Alloc

variable {s : State} {n region cls arena fid : Nat} {g : Region}

/-- With room under FQUOTA and a free run, the new frame is Resident there. -/
theorem State.allocFrame_resident {b : Nat} (hg : s.region region = some g) (ha : s.arenaSlot n g = some arena)
    (hf : (s.core n).freeFid = some fid) (hq : (s.core n).residentOf region < g.fquota) (hb : s.freeRun n cls = some b) :
    s.allocFrame n region cls = some (fid, s.setCore n
      (Core.zeroFrame { (s.core n).gave fid with
          frames := SMap.set (s.core n).frames fid
            { newFrame (s.core n) region cls arena with base := b, st := .resident, zero := false } } b
        (256 * granules cls) fid cls region)) := by
  have run : (if (s.core n).residentOf region < g.fquota then s.freeRun n cls else none) = some b := (if_pos hq).trans hb
  simp only [State.allocFrame, hg, ha, hf]
  split
  · next b' hb' => cases hb'.symm.trans run; rfl
  · next h => cases h.symm.trans run

variable (hn : g.fquota ≤ (s.core n).residentOf region ∨ s.freeRun n cls = none)
include hn

/-- No run is taken without the room or the run. -/
theorem State.noRun_of : (if (s.core n).residentOf region < g.fquota then s.freeRun n cls else none) = none := by
  rcases hn with hn | hn
  · exact if_neg (by omega)
  · rw [hn]; exact ite_self _

/-- A frame that R42 chooses makes room for the new one then. -/
theorem State.allocFrame_spilling {v : Nat} (hg : s.region region = some g) (ha : s.arenaSlot n g = some arena)
    (hf : (s.core n).freeFid = some fid)
    (hv : s.victim n region cls (decide (g.fquota ≤ (s.core n).residentOf region)) = some v) :
    let b := runFor ((((s.core n).frame v).map (·.base)).getD 0) cls
    let c := ((s.core n).gave fid).spillRun b (256 * granules cls)
    s.allocFrame n region cls = some (fid, s.setCore n
      { c with
        frames := SMap.set c.frames fid
          { newFrame (s.core n) region cls arena with base := b, st := .refilling, admitted := true, placed := true } }) := by
  simp only [State.allocFrame, hg, ha, hf]
  split
  · next b hb => cases hb.symm.trans (State.noRun_of hn)
  · split
    · next v' hv' => cases hv'.symm.trans hv; rfl
    · next h => cases h.symm.trans hv

/-- Where there is none to choose, the new frame stays Spilled. -/
theorem State.allocFrame_spilled (hg : s.region region = some g) (ha : s.arenaSlot n g = some arena)
    (hf : (s.core n).freeFid = some fid)
    (hv : s.victim n region cls (decide (g.fquota ≤ (s.core n).residentOf region)) = none) :
    s.allocFrame n region cls = some (fid, s.setCore n
      { (s.core n).gave fid with frames := SMap.set (s.core n).frames fid (newFrame (s.core n) region cls arena) }) := by
  simp only [State.allocFrame, hg, ha, hf]
  split
  · next b hb => cases hb.symm.trans (State.noRun_of hn)
  · split
    · next v hv' => cases hv'.symm.trans hv
    · rfl

end Alloc

/-- No frame is allocated without an arena slot or an identifier (R43). -/
theorem State.allocFrame_none {s : State} {n region : Nat} {g : Region} (cls : Nat) (hg : s.region region = some g)
    (h : s.arenaSlot n g = none ∨ (s.core n).freeFid = none) : s.allocFrame n region cls = none := by
  simp only [State.allocFrame, hg]
  split
  · next ha hf => simp [ha, hf] at h
  · rfl

/-- Bytes zeroed and a header written change the core's local memory and its poison (R345). -/
theorem Core.zeroFrame_eq (c : Core) (base bytes fid cls region : Nat) :
    c.zeroFrame base bytes fid cls region = { c with
      lmem := Cells.write (Cells.clear c.lmem base (base + bytes)) base (bytesOfWords (headerWords fid cls region 0))
      lpoison := (c.zeroFrame base bytes fid cls region).lpoison } := Core.putWords_eq ..

theorem headerBytes_length (fid cls region : Nat) : (bytesOfWords (headerWords fid cls region 0)).length = 32 :=
  bytesOfWords_length _

/-- A frame made anew holds its header, zero behind it, and leaves what stands elsewhere (R345). -/
theorem zeroFrame_lmem {m : List Host.Cell} (h : Memory.wf m = true) (base bytes fid cls region : Nat) (hb : 32 ≤ bytes) :
    let m' := Cells.write (Cells.clear m base (base + bytes)) base (bytesOfWords (headerWords fid cls region 0))
    Cells.read m' base 32 = bytesOfWords (headerWords fid cls region 0) ∧
      (∀ a, base + 32 ≤ a → a < base + bytes → Cells.get m' a = 0) ∧
      ∀ a, a < base ∨ base + bytes ≤ a → Cells.get m' a = Cells.get m a := by
  have hc := Memory.wf_clear base (base + bytes) h
  have hl := headerBytes_length fid cls region
  refine ⟨?_, fun a h1 h2 => ?_, fun a ha => ?_⟩
  · rw [← hl]; exact Cells.read_write _ _ hc
  · rw [Cells.get_write_outside _ _ _ hc (by omega), Cells.get_clear _ _ _ h, if_pos (by omega)]
  · rw [Cells.get_write_outside _ _ _ hc (by omega), Cells.get_clear _ _ _ h, if_neg (by omega)]

/-- What FALLOC leaves: the core that the allocation left, with the handle in the destination. -/
theorem falloc_step {s : State} {r : Run} {g : Guard} {d : XReg} {cls : BitVec 3} {fid : Nat} {c : Core} (h : s.Issues r g)
    (ha : s.allocFrame s.cur r.region cls.toNat = some (fid, s.setCore s.cur c)) (hc : c.run = some r) :
    exec (.falloc g d cls) s = .next (s.setCore s.cur
      { c with run := some ((r.write d (.known (BitVec.ofNat 64 (fid * 4096)))).past 1) }) := by
  have hr : ((s.setCore s.cur c).core (s.setCore s.cur c).cur).run = some r := by simpa using hc
  rw [exec_falloc, execFalloc, guarded_ok h (t := (s.setCore s.cur c).writeX d (place fid 12)) (by rw [ha]),
    State.writeX_eq hr, place_twelve]
  exact congrArg _ ((State.next_setRun ..).trans (by simp [State.setRun, State.onCore]))

/-- A frame chosen to be spilled is Resident (R42). -/
theorem State.victim_spillable {s : State} {n region cls v : Nat} {own : Bool} (h : s.victim n region cls own = some v) :
    ∃ x, (v, x) ∈ (s.core n).frames ∧ x.st = .resident := by
  unfold State.victim at h
  obtain ⟨b, hb, rfl⟩ := Option.map_eq_some_iff.1 h
  refine List.foldlRecOn (motive := fun o : Option (Nat × Nat) => ∀ p, o = some p →
    ∃ x, (p.1, x) ∈ (s.core n).frames ∧ x.st = .resident) _ _ (fun p hp => by cases hp) (fun o ho e he q hq => ?_) b hb
  have he := List.mem_filter.1 he
  have hst : e.2.st = .resident := by
    simp only [Core.spillable, Bool.and_eq_true, beq_iff_eq] at he
    exact he.2.1.1.1.1
  split at hq
  · cases hq; exact ⟨e.2, he.1, hst⟩
  · split at hq
    · cases hq; exact ⟨e.2, he.1, hst⟩
    · exact ho q hq

/-- The run made for a frame of a class holds the first granule of the frame chosen for it. -/
theorem Frame.inRun_runFor {x : Frame} (h : x.st = .resident) (cls : Nat) :
    x.inRun (runFor x.base cls) (256 * granules cls) = true := by
  have hp : 0 < 256 * granules cls := by simp [granules]
  have hx : 0 < x.bytes := by simp [Frame.bytes]
  have meet : x.base < runFor x.base cls + 256 * granules cls ∧ runFor x.base cls < x.base + x.bytes := by
    unfold runFor
    generalize 256 * granules cls = k at hp ⊢
    have h1 := Nat.div_mul_le_self x.base k
    have h2 := Nat.lt_div_mul_add hp (a := x.base)
    omega
  simp [Frame.inRun, Frame.occupies, h, runsMeet, meet]

/-- The frame that R42 chooses is spilled with its bytes (R44). -/
theorem State.victim_spilled {s : State} {n region cls v : Nat} {own : Bool} {x : Frame} (fid : Nat)
    (hv : s.victim n region cls own = some v) (hr : SMap.Rising (s.core n).frames) (hx : (s.core n).frame v = some x) :
    (((s.core n).gave fid).spillRun (runFor x.base cls) (256 * granules cls)).frame v = some ((s.core n).spilled x) := by
  obtain ⟨y, hy, hst⟩ := State.victim_spillable hv
  obtain rfl : x = y := Option.some.inj (hx.symm.trans (SMap.find_of_mem hr hy))
  have hin : ((s.core n).gave fid).frames.any
      (fun e => e.1 == v && e.2.inRun (runFor x.base cls) (256 * granules cls)) = true :=
    List.any_eq_true.2 ⟨_, hy, by simp [Frame.inRun_runFor hst]⟩
  rw [Core.frame_spillRun, if_pos hin]
  change ((s.core n).frame v).map (s.core n).spillOf = _
  simp [hx, Core.spillOf, hst]

/-- Bytes that one core's new content keeps are all kept. -/
theorem State.sameBytes_setCore (s : State) {n : Nat} {c : Core} (h : c.lmem = (s.core n).lmem) : s.SameBytes (s.setCore n c) := by
  refine ⟨fun _ => rfl, fun _ => rfl, fun m a => ?_⟩
  rw [State.core_setCore]
  split
  · next e => rw [h, e]
  · rfl

/-- What an allocation for a region makes of a core and of the new frame (R40, R42, R43): the frame is Resident in the run
`freeRun` gives while FQUOTA has room, and otherwise one that R42 chooses is spilled for it. -/
structure Allocated (s : State) (n region cls fid arena : Nat) (g : Region) (c : Core) (f : Frame) : Prop where
  step : s.allocFrame n region cls = some (fid, s.setCore n c)
  core : c = { s.core n with
    lmem := c.lmem, lpoison := c.lpoison, frames := c.frames, fptr := (fid + 1) % 65536, stamp := (s.core n).stamp + 1 }
  frame : c.frame fid = some f
  form : f = { newFrame (s.core n) region cls arena with
    base := f.base, st := f.st, zero := f.zero, admitted := f.admitted, placed := f.placed }
  resident : ∀ base, (s.core n).residentOf region < g.fquota → s.freeRun n cls = some base →
    f.st = .resident ∧ f.base = base ∧ c.lmem = Cells.write (Cells.clear (s.core n).lmem base (base + 256 * 2 ^ cls)) base
      (bytesOfWords (headerWords fid cls region 0))
  waits : g.fquota ≤ (s.core n).residentOf region ∨ s.freeRun n cls = none →
    f.st ≠ .resident ∧ f.zero = true ∧ c.lmem = (s.core n).lmem ∧
      ∀ v x, s.victim n region cls (decide (g.fquota ≤ (s.core n).residentOf region)) = some v →
        SMap.Rising (s.core n).frames → (s.core n).frame v = some x → c.frame v = some ((s.core n).spilled x)

section Allocated

variable {s : State} {n region cls fid arena : Nat} {g : Region} (hg : s.region region = some g)
  (ha : s.arenaSlot n g = some arena) (hf : (s.core n).freeFid = some fid)
include hg ha hf

theorem allocated_resident {b : Nat} (hq : (s.core n).residentOf region < g.fquota) (hb : s.freeRun n cls = some b) :
    ∃ c f, Allocated s n region cls fid arena g c f := by
  have step := State.allocFrame_resident hg ha hf hq hb
  have hc := Core.zeroFrame_eq { (s.core n).gave fid with
    frames := SMap.set (s.core n).frames fid
      { newFrame (s.core n) region cls arena with base := b, st := .resident, zero := false } } b
    (256 * granules cls) fid cls region
  generalize Core.zeroFrame _ b (256 * granules cls) fid cls region = c at step hc
  refine ⟨c, { newFrame (s.core n) region cls arena with base := b, st := .resident, zero := false }, step, ?core, ?frame,
    rfl, fun base _ hb' => ?resident, fun h => ?waits⟩
  case core =>
    rw [hc]
    dsimp only [Core.gave]
  case frame => rw [hc]; simp [Core.frame]
  case resident =>
    cases hb.symm.trans hb'
    exact ⟨rfl, rfl, by rw [hc]; dsimp only [Core.gave, granules]⟩
  case waits =>
    rcases h with h | h
    · omega
    · cases hb.symm.trans h

theorem allocated_waits (hn : g.fquota ≤ (s.core n).residentOf region ∨ s.freeRun n cls = none) :
    ∃ c f, Allocated s n region cls fid arena g c f := by
  have never (base : Nat) (hq : (s.core n).residentOf region < g.fquota) (hb : s.freeRun n cls = some base) : False := by
    rcases hn with hn | hn
    · omega
    · cases hn.symm.trans hb
  cases hv : s.victim n region cls (decide (g.fquota ≤ (s.core n).residentOf region)) with
  | none =>
    exact ⟨_, _, State.allocFrame_spilled hn hg ha hf hv, rfl, (SMap.find_set ..).trans (if_pos rfl), rfl,
      fun b hq hb => (never b hq hb).elim, fun _ => ⟨nofun, rfl, rfl, fun v x hv' => by cases hv.symm.trans hv'⟩⟩
  | some v =>
    have hc := Core.spillRun_eq ((s.core n).gave fid) (runFor ((((s.core n).frame v).map (·.base)).getD 0) cls)
      (256 * granules cls)
    refine ⟨_, _, State.allocFrame_spilling hn hg ha hf hv, by rw [hc]; rfl, (SMap.find_set ..).trans (if_pos rfl), rfl,
      fun b hq hb => (never b hq hb).elim, fun _ => ⟨nofun, rfl, by rw [hc]; rfl, fun v' x hv' hr hx => ?_⟩⟩
    cases hv.symm.trans hv'
    have hne : v ≠ fid := by rintro rfl; cases hx.symm.trans (Core.frame_of_freeFid hf)
    have hx' : (((s.core n).frame v).map (·.base)).getD 0 = x.base := by rw [hx]; rfl
    exact (SMap.find_set ..).trans ((if_neg hne).trans (hx' ▸ State.victim_spilled fid hv hr hx))

/-- With an arena slot and an identifier an allocation succeeds. -/
theorem allocated : ∃ c f, Allocated s n region cls fid arena g c f := by
  by_cases hn : g.fquota ≤ (s.core n).residentOf region ∨ s.freeRun n cls = none
  · exact allocated_waits hg ha hf hn
  · rw [not_or, Nat.not_le] at hn
    obtain ⟨b, hb⟩ := Option.ne_none_iff_exists'.1 hn.2
    exact allocated_resident hg ha hf hn.1 hb

end Allocated

theorem headerRoom (cls : Nat) : 32 ≤ 256 * 2 ^ cls := by
  have := Nat.one_le_two_pow (n := cls)
  omega

/-- Settles O29: the cases of an allocation (`Allocated`), with the handle written and the threadlet moved on. -/
theorem allocateFrame : Obligations.AllocateFrame := by
  refine ⟨fun s r g d cls rg arena fid h hm _ hg ha hf => ?_, fun s r g d cls rg h hg hn => ?_⟩
  · obtain ⟨c, f, k⟩ := allocated (cls := cls.toNat) hg ha hf
    refine ⟨_, f, falloc_step h k.step (by rw [k.core]; exact h.1), ?_⟩
    simp only [State.core_setCore, if_true, State.mem_setCore]
    refine ⟨trivial, k.frame, by rw [k.form]; rfl, by rw [k.form]; rfl, by rw [k.form]; rfl, by rw [k.form]; rfl,
      by rw [k.core], trivial, fun base hq hb => ?_, fun hn => ?_⟩
    · obtain ⟨hst, hbase, hl⟩ := k.resident base hq hb
      rw [hl]
      exact ⟨hst, hbase, zeroFrame_lmem hm base _ fid cls.toNat r.region (headerRoom _)⟩
    · obtain ⟨hst, hz, hl, hv⟩ := k.waits hn
      exact ⟨hst, hz, State.sameBytes_setCore s hl, fun v x hv' hr hx => ⟨_, _, hv v x hv' hr hx, rfl, rfl⟩⟩
  · rw [State.Faults, exec_falloc, execFalloc,
      guarded_error h (e := .fault 0x0A 0 0) (by rw [State.allocFrame_none _ hg hn])]
    rfl

end Sys2Proof.Machine
end

section
/-! SUPPORT. Fields of words, the wrappers' faults, and FFREE (R46, R350). -/

namespace Sys2Proof.Machine

open Sys2Proof

/-! ## Fields -/

theorem field_eq (w : Word) (hi lo : Nat) : field w hi lo = (w.extractLsb' lo (hi + 1 - lo)).toNat :=
  (BitVec.extractLsb'_toNat ..).symm

theorem field_eq_zero (w : Word) (hi lo : Nat) : field w hi lo = 0 ↔ w.extractLsb' lo (hi + 1 - lo) = 0 := by
  rw [field_eq, ← BitVec.toNat_inj]; simp

/-- The frame that a handle names. -/
theorem field_handle {fid slot : Nat} (h : fid < 65536) (hs : slot < 4096) :
    field (BitVec.ofNat 64 (fid * 4096 + slot)) 27 12 = fid ∧ field (BitVec.ofNat 64 (fid * 4096 + slot)) 63 28 = 0 := by
  simp only [field, BitVec.toNat_ofNat, Nat.shiftRight_eq_div_pow]
  omega

/-! ## Faults -/

/-- What faults before it has any effect. -/
theorem guarded_faults {g : Guard} {n : Nat} {f : Meaning} {s : State} {r : Run} {code addr : Nat} {detail : Word}
    (h : s.Issues r g) (hc : code ≠ 0x12) (hf : f s r = .error (.fault code addr detail)) :
    guarded g n f s = .next (s.takeFault s.cur { r with bpSkip := 0 } r.origin 0 code addr detail) := by
  rw [guarded_error h hf, State.settle, if_neg hc]

/-! ## Finite maps without a key -/

theorem SMap.find_none_of_lt {α : Type} {m : SMap α} {i : Nat} (h : ∀ e ∈ m, i < e.1) : SMap.find m i = none := by
  cases m with
  | nil => rfl
  | cons e m =>
    have := h e (by simp)
    rw [SMap.find, if_neg (by omega), if_pos (by omega)]

theorem SMap.find_del {α : Type} {m : SMap α} (h : SMap.Rising m) (i k : Nat) :
    SMap.find (SMap.del m i) k = if k = i then none else SMap.find m k := by
  unfold SMap.Rising at h
  induction m with
  | nil => simp [SMap.del]
  | cons e m ih =>
    obtain ⟨j, v⟩ := e
    rw [List.map_cons, List.pairwise_cons] at h
    obtain ⟨hlt, hm⟩ := h
    have below {i : Nat} (hi : i ≤ j) : SMap.find m i = none :=
      SMap.find_none_of_lt fun e he => lt_of_le_of_lt hi (hlt e.1 (List.mem_map_of_mem he))
    have ih := ih hm
    unfold SMap.del
    split
    · next e =>
      subst e
      split
      · next e => rw [e]; exact below le_rfl
      · next hk =>
        rw [SMap.find, if_neg (Ne.symm hk)]
        split
        · next hl => exact below (by omega)
        · rfl
    · split
      · next hij hl =>
        split
        · next e => rw [e, SMap.find, if_neg (Ne.symm hij), if_pos hl]
        · rfl
      · simp only [SMap.find, ih]
        grind

/-! ## Releasing a frame (R46) -/

@[simp] theorem State.cores_acknowledge (s : State) (n : Nat) (a : Arrival) : (s.acknowledge n a).cores = s.cores := by
  unfold State.acknowledge; split <;> simp
@[simp] theorem State.mem_acknowledge (s : State) (n : Nat) (a : Arrival) : (s.acknowledge n a).mem = s.mem := by
  unfold State.acknowledge; split <;> simp
@[simp] theorem State.hostMem_acknowledge (s : State) (n : Nat) (a : Arrival) : (s.acknowledge n a).hostMem = s.hostMem := by
  unfold State.acknowledge; split <;> simp
@[simp] theorem State.cur_acknowledge (s : State) (n : Nat) (a : Arrival) : (s.acknowledge n a).cur = s.cur := by
  unfold State.acknowledge; split <;> simp

/-- The states hold the same cores, the same memories, and the same core is current: they differ in packets, regions and
the like. -/
structure State.SameStores (s t : State) : Prop where
  cores : t.cores = s.cores
  mem : t.mem = s.mem
  hostMem : t.hostMem = s.hostMem
  cur : t.cur = s.cur

theorem State.SameStores.refl (s : State) : s.SameStores s := ⟨rfl, rfl, rfl, rfl⟩

theorem State.SameStores.trans {s t u : State} (h : s.SameStores t) (k : t.SameStores u) : s.SameStores u :=
  ⟨k.cores.trans h.cores, k.mem.trans h.mem, k.hostMem.trans h.hostMem, k.cur.trans h.cur⟩

theorem State.SameStores.core {s t : State} (h : s.SameStores t) (n : Nat) : t.core n = s.core n :=
  State.core_of_cores h.cores n

theorem State.SameStores.sameBytes {s t : State} (h : s.SameStores t) : s.SameBytes t :=
  ⟨fun _ => by rw [h.mem], fun _ => by rw [h.hostMem], fun _ _ => by rw [h.core]⟩

theorem State.SameBytes.trans {s t u : State} (h : s.SameBytes t) (k : t.SameBytes u) : s.SameBytes u :=
  ⟨fun a => (k.1 a).trans (h.1 a), fun a => (k.2.1 a).trans (h.2.1 a), fun n a => (k.2.2 n a).trans (h.2.2 n a)⟩

/-- Many steps that keep the stores keep them together. -/
theorem State.SameStores.foldl {α : Type} (f : State → α → State) (h : ∀ (s : State) (a : α), s.SameStores (f s a)) (l : List α)
    (s : State) : s.SameStores (l.foldl f s) := foldl_keeps (fun t => s.SameStores t) f (fun t a k => k.trans (h t a)) l s (.refl s)

theorem State.sendRecord_sameStores (s : State) (d : Nat) (r : Rec) : s.SameStores (s.sendRecord d r) := by
  constructor <;> simp

theorem State.acknowledge_sameStores (s : State) (n : Nat) (a : Arrival) : s.SameStores (s.acknowledge n a) := by
  constructor <;> simp

/-- The ready queue's lists brought in step are all that changes. -/
theorem State.syncDrr_setCore (s : State) (n : Nat) (c : Core) :
    (s.setCore n c).syncDrr n = s.setCore n { c with drr := (((s.setCore n c).syncDrr n).core n).drr } := by
  simp [State.syncDrr]

/-- A frame's release leaves its core without the frame, its ready entries and its queued arrivals; the rest is packets and
claims (R46, R61). -/
theorem State.releaseFrame_eq (s : State) (n fid : Nat) : ∃ drr freed,
    (s.setCore n { s.core n with
      frames := SMap.del (s.core n).frames fid, refq := (s.core n).refq.filter (·.fid != fid)
      ready := (s.core n).ready.filter (·.fid != fid), freed := freed, drr := drr }).SameStores (s.releaseFrame n fid) := by
  unfold State.releaseFrame
  dsimp only
  rw [State.syncDrr_setCore]
  exact ⟨_, _, .foldl _ (fun t a => (t.sendRecord_sameStores ..).trans (State.acknowledge_sameStores ..)) _ _⟩

theorem State.releaseFrame_sameBytes (s : State) (n fid : Nat) : s.SameBytes (s.releaseFrame n fid) := by
  obtain ⟨drr, freed, h⟩ := s.releaseFrame_eq n fid
  exact .trans (State.sameBytes_setCore s (by rfl)) h.sameBytes

theorem State.frame_releaseFrame {s : State} {n : Nat} (fid : Nat) (h : SMap.Rising (s.core n).frames) :
    ((s.releaseFrame n fid).core n).frame fid = none := by
  obtain ⟨drr, freed, k⟩ := s.releaseFrame_eq n fid
  rw [k.core, State.core_setCore, if_pos rfl]
  exact (SMap.find_del h fid fid).trans (if_pos rfl)

theorem State.run_releaseFrame (s : State) (n fid : Nat) : ((s.releaseFrame n fid).core n).run = (s.core n).run := by
  obtain ⟨drr, freed, k⟩ := s.releaseFrame_eq n fid
  rw [k.core, State.core_setCore, if_pos rfl]

theorem State.cur_releaseFrame (s : State) (n fid : Nat) : (s.releaseFrame n fid).cur = s.cur := by
  obtain ⟨drr, freed, k⟩ := s.releaseFrame_eq n fid
  exact k.cur

/-! ## FFREE (R46, R350) -/

section Ffree

variable {s : State} {r : Run}

theorem State.handleFrame_ok {fid : Nat} {f : Frame} {w : Word} {any : Bool} (hw : field w 27 12 = fid) (hz : field w 63 28 = 0)
    (hf : (s.core s.cur).frame fid = some f) (hr : f.region = r.region) : s.handleFrame r w any = .ok f := by
  simp [State.handleFrame, hw, hf, hz, hr]

/-- A handle with nonzero reserved bits, of no frame, or of another region's is a bad reference. -/
theorem State.handleFrame_bad {w : Word} (h : field w 63 28 ≠ 0 ∨ (s.core s.cur).frame (field w 27 12) = none ∨
    ∃ f, (s.core s.cur).frame (field w 27 12) = some f ∧ f.region ≠ r.region) :
    s.handleFrame r w false = .error (.fault 0x09 0 0) := by
  unfold State.handleFrame
  split
  · rfl
  · next f hf =>
    refine if_pos ?_
    rcases h with h | h | ⟨f', hf', hr⟩
    · exact .inl h
    · cases hf.symm.trans h
    · cases hf.symm.trans hf'; exact .inr ⟨hr, rfl⟩

end Ffree

/-- What an instruction leaves that changes one frame of its own core, or marks it. -/
theorem onFrame_next {s : State} {r : Run} (h : (s.core s.cur).run = some r) (fid : Nat) (f : Frame → Frame) (n : Nat) :
    (((s.onCore s.cur fun c => c.onFrame fid f).next n).core s.cur).run = some (r.past n) ∧
      (((s.onCore s.cur fun c => c.onFrame fid f).next n).core s.cur).frame fid = ((s.core s.cur).frame fid).map f := by
  have hr : ((s.onCore s.cur fun c => c.onFrame fid f).core (s.onCore s.cur fun c => c.onFrame fid f).cur).run = some r := by
    simp [State.onCore_eq, h]
  rw [State.next_eq hr]
  have hcur : (s.onCore s.cur fun c => c.onFrame fid f).cur = s.cur := rfl
  rw [hcur, State.core_setRun, if_pos rfl, State.core_onCore, if_pos rfl]
  exact ⟨rfl, (Core.frame_onFrame ..).trans (if_pos rfl)⟩

/-- What FFREE makes of a frame that it may free: the issuer's own is marked for its FIN, one with results to come is marked,
and any other is released (R46). -/
def State.freed (s : State) (r : Run) (fid : Nat) : State :=
  if fid = r.fid then s.onCore s.cur fun c => c.onFrame fid fun f => { f with ownFree := insertNat f.ownFree r.tid }
  else if (s.core s.cur).splitPhase s.fstore fid then s.onCore s.cur fun c => c.onFrame fid fun f => { f with freeing := true }
  else s.releaseFrame s.cur fid

section Free

variable {s : State} {r : Run} {g : Guard} {a : XReg} {w : Word} (h : s.Issues r g) (hw : r.get a = .known w)
include h hw

theorem ffree_frees {f : Frame} (hh : s.handleFrame r w false = .ok f) (hb : s.frameBusy s.cur (field w 27 12) f = false) :
    exec (.ffree g a) s = .next ((s.freed r (field w 27 12)).next 1) := by
  refine (exec_ffree ..).trans (guarded_ok h ?_)
  simp only [Run.known_eq hw, hh, bind, Except.bind, hb, Bool.false_eq_true, if_false, State.freed]
  split
  · rfl
  · split <;> rfl

theorem ffree_busy {f : Frame} (hh : s.handleFrame r w false = .ok f) (hb : s.frameBusy s.cur (field w 27 12) f = true) :
    s.Faults (.ffree g a) r 0x09 0 0 :=
  (exec_ffree ..).trans (guarded_faults h (by decide) (by simp only [Run.known_eq hw, hh, bind, Except.bind, hb, if_true]))

theorem ffree_bad (hb : s.handleFrame r w false = .error (.fault 0x09 0 0)) : s.Faults (.ffree g a) r 0x09 0 0 :=
  (exec_ffree ..).trans (guarded_faults h (by decide) (by simp only [Run.known_eq hw, hb, bind, Except.bind]))

end Free

/-- A frame is busy that has a Ready entry or a Parked or Held threadlet. -/
theorem State.frameBusy_of {s : State} {n fid : Nat} {f : Frame}
    (h : f.parked ≠ none ∨ ∃ e ∈ (s.core n).ready, e.fid = fid) : s.frameBusy n fid f = true := by
  unfold State.frameBusy
  rcases h with h | ⟨e, he, hf⟩
  · simp [Option.isSome_iff_ne_none.2 h]
  · have : (s.core n).ready.any (·.fid == fid) = true := List.any_eq_true.2 ⟨e, he, by simp [hf]⟩
    simp [this]

/-- Settles O30: a good handle's frame is marked, kept for its results or released; a bad one or a busy frame faults. -/
theorem freeFrame : Obligations.FreeFrame := by
  intro s r g a h
  refine ⟨fun fid f hfid hw hf hr => ?good, fun fid hfid hw hbad => ?foreign, fun w hw hz => ?reserved, fun hl => ?late⟩
  case good =>
    obtain ⟨h1, h2⟩ := field_handle (slot := 0) hfid (by omega)
    rw [Nat.add_zero] at h1 h2
    have hh := State.handleFrame_ok (any := false) h1 h2 hf hr
    refine ⟨fun hb => ?_, fun hb => ffree_busy h hw hh (h1.symm ▸ hb), State.frameBusy_of⟩
    have step := ffree_frees h hw hh (h1.symm ▸ hb)
    rw [h1, State.freed] at step
    refine ⟨fun hown => ?own, fun hne hsp => ?results, fun hne hsp hri => ?released⟩
    case own =>
      rw [if_pos hown] at step
      obtain ⟨hrun, hfr⟩ := onFrame_next h.1 fid (fun f => { f with ownFree := insertNat f.ownFree r.tid }) 1
      exact ⟨_, step, hrun, hfr.trans (by rw [hf]; rfl)⟩
    case results =>
      rw [if_neg hne, if_pos hsp] at step
      obtain ⟨hrun, hfr⟩ := onFrame_next h.1 fid (fun f => { f with freeing := true }) 1
      exact ⟨_, step, hrun, hfr.trans (by rw [hf]; rfl)⟩
    case released =>
      rw [if_neg hne, if_neg (by simp [hsp])] at step
      have hcur := s.cur_releaseFrame s.cur fid
      rw [State.next_eq (r := r) (by rw [hcur, State.run_releaseFrame]; exact h.1), hcur] at step
      refine ⟨_, step, by simp, ?_, .trans (s.releaseFrame_sameBytes s.cur fid) (State.sameBytes_setCore _ rfl)⟩
      rw [State.core_setRun, if_pos rfl]
      exact State.frame_releaseFrame fid hri
  case foreign =>
    obtain ⟨h1, -⟩ := field_handle (slot := 0) hfid (by omega)
    rw [Nat.add_zero] at h1
    exact ffree_bad h hw (State.handleFrame_bad (.inr (h1.symm ▸ hbad)))
  case reserved => exact ffree_bad h hw (State.handleFrame_bad (.inl (mt (field_eq_zero ..).1 hz)))
  case late =>
    exact (exec_ffree ..).trans (guarded_parks h (vs := [r.get a]) (by simp only [Run.known_late hl, bind, Except.bind]))

end Sys2Proof.Machine
end

section
/-! SUPPORT. Packets, records and operations as they issue (R59, R221, R281, R299-R302), and AMSG and ARM (R284, R333, R336). -/

namespace Sys2Proof.Machine

open Sys2Proof

/-! ## Packets and records -/

/-- A packet goes into the network at once where no route change holds its agent's packets (R319). -/
theorem State.net_send {s : State} {p : Packet} (h : s.Reaches p.dst) : (s.send p).net = s.net ++ [p] := by
  unfold State.send
  split
  · next m hm =>
    have := h m hm
    simp [this]
  · rfl

theorem State.reaches_of_local {s : State} {a : Agent} (h : ∀ m, a ≠ .peer m) : s.Reaches a := fun m e => absurd e (h m)

theorem State.net_inject {s : State} {n region : Nat} {cls : PClass} {dst : Agent} {b : PBody} (h : s.Reaches dst) :
    (s.inject n region cls dst b).net = s.net ++ [⟨cls, .core n, dst, region, b⟩] := by
  rw [State.inject, State.net_progress, State.net_send h]

/-- A record of a region of the device region's fault domain goes to the service core (R300). -/
theorem State.sendRecord_device {s : State} {region : Nat} (h : s.domainOf region = some 1) (r : Rec) :
    s.sendRecord region r = { s with net := s.net ++ [⟨.sig, r.loc, .service, 1, .record 1 0 (s.recordWords r)⟩] } := by
  simp [State.sendRecord, h, State.send]

theorem place_zero (v : Nat) : place v 0 = BitVec.ofNat 64 v := by simp [place]

/-- A number placed above another is a sum. -/
theorem place_or {v lo w : Nat} (h : w < 2 ^ lo) : place v lo ||| BitVec.ofNat 64 w = BitVec.ofNat 64 (v * 2 ^ lo + w) := by
  rw [place, ← BitVec.ofNat_or, ← Nat.shiftLeft_add_eq_or_of_lt h, Nat.shiftLeft_eq]

/-- A field of a word that is written as a number. -/
theorem extractLsb'_ofNat {m p n : Nat} (w : Nat) (h : p + n ≤ m) :
    (BitVec.ofNat m w).extractLsb' p n = BitVec.ofNat n (w / 2 ^ p) := by
  apply BitVec.eq_of_getLsbD_eq
  intro i hi
  have : p + i < m := by omega
  rw [BitVec.getLsbD_extractLsb', BitVec.getLsbD_ofNat, BitVec.getLsbD_ofNat, Nat.testBit_div_two_pow]
  simp [hi, this, Nat.add_comm]

/-- The first word of a record says its code and its source (Table 13-2). -/
theorem State.recordWords_code (s : State) (r : Rec) (hs : r.src < 16) :
    (wordAt (s.recordWords r) 0).extractLsb' 52 12 = BitVec.ofNat 12 (16 * r.code + r.src) := by
  simp only [wordAt, State.recordWords, List.getD_cons_zero]
  rw [BitVec.or_assoc, BitVec.or_assoc, BitVec.or_assoc, place_zero, place_or (by omega), place_or (by omega),
    place_or (by omega), place_or (by omega), extractLsb'_ofNat _ (by decide)]
  congr 1
  omega

/-- The third word of a record of an instruction says where it stands (Table 13-2). -/
theorem State.recordWords_at (s : State) (r : Rec) {b i : Nat} (h : r.at_ = some (b, i)) :
    wordAt (s.recordWords r) 2 = BitVec.ofNat 64 (s.blockField r.region b * 2 ^ 32 + i % 256) := by
  simp only [wordAt, State.recordWords, h, List.getD_cons_succ, List.getD_cons_zero]
  rw [place_zero, place_or (by omega)]

/-- A record sent to the device region's fault domain is reported (R300). -/
theorem State.sendRecord_reports {s : State} {region code src : Nat} {loc : Agent} {r : Rec} (h : s.domainOf region = some 1)
    (hc : r.code = code) (hs : r.src = src) (hl : r.loc = loc) (hsrc : src < 16) :
    (s.sendRecord region r).Reports code src loc := by
  subst hc hs hl
  rw [State.sendRecord_device h]
  exact ⟨_, List.getLast?_concat .., s.recordWords_code r hsrc⟩

theorem State.region_of {s t : State} (h : t.regions = s.regions) (r : Nat) : t.region r = s.region r := by
  rw [State.region, h]; rfl

theorem State.domainOf_of {s t : State} (h : t.regions = s.regions) (r : Nat) : t.domainOf r = s.domainOf r := by
  simp only [State.domainOf, State.region, State.regionOfRcb, h]

theorem State.blockField_of {s t : State} (h : t.regions = s.regions) (r b : Nat) : t.blockField r b = s.blockField r b := by
  simp only [State.blockField, State.codebase, State.region, h]

/-! ## Operations as they issue (R221, R226) -/

/-- The current core with one place of the issue order taken. -/
def State.numbered (s : State) : State := s.setCore s.cur { s.core s.cur with nextSeq := (s.core s.cur).nextSeq + 1 }

section Issue

variable {s : State} {r : Run} (body : OpBody)

theorem State.acquired_ok (h : (s.core s.cur).acqPending r.tid = []) : s.acquired r = .ok () := by
  simp [State.acquired, h]

/-- What nothing keeps back leaves the order stage at once. -/
theorem State.issueOp_sent (h : s.MayIssue r) : s.issueOp r body = .ok (s.numbered.launch s.cur (s.opOf r body)) := by
  obtain ⟨ha, hw⟩ := h
  have hw' : (s.numbered.core s.cur).mustWait r.tid (s.core s.cur).nextSeq = false := by
    rw [State.numbered, State.core_setCore, if_pos rfl]; exact hw
  have room : s.stageRoom r = .ok () := by simp [State.stageRoom, hw]
  rw [State.issueOp, State.acquired_ok ha, room]
  refine congrArg Except.ok ?_
  exact if_neg (ne_true_of_eq_false hw')

/-- What a barrier keeps back stands at the end of the order stage, while that has room (R221). -/
theorem State.issueOp_staged (ha : (s.core s.cur).acqPending r.tid = [])
    (hw : (s.core s.cur).mustWait r.tid (s.core s.cur).nextSeq = true) (ho : (s.core s.cur).stageOpen = true) :
    s.issueOp r body = .ok (s.setCore s.cur { s.core s.cur with
      nextSeq := (s.core s.cur).nextSeq + 1, stage := (s.core s.cur).stage ++ [s.opOf r body] }) := by
  have hw' : (s.numbered.core s.cur).mustWait r.tid (s.core s.cur).nextSeq = true := by
    rw [State.numbered, State.core_setCore, if_pos rfl]; exact hw
  have room : s.stageRoom r = .ok () := by simp [State.stageRoom, ho]
  rw [State.issueOp, State.acquired_ok ha, room]
  refine congrArg Except.ok ((if_pos hw').trans ?_)
  simp [State.onCore_eq]
  rfl

theorem stages_of {i : Instr} {g : Guard} {f : Meaning} {body : OpBody} (h : s.Issues r g) (hi : exec i s = guarded g 1 f s)
    (hf : f s r = s.issueOp r body) (ha : (s.core s.cur).acqPending r.tid = [])
    (hw : (s.core s.cur).mustWait r.tid (s.core s.cur).nextSeq = true) (ho : (s.core s.cur).stageOpen = true) :
    s.Stages i r body := by
  refine hi.trans ((guarded_ok h (hf.trans (State.issueOp_staged body ha hw ho))).trans ?_)
  rw [State.next_eq (r := r) (by simpa using h.1)]
  simp [State.setRun, State.onCore_eq, State.issued]

end Issue

/-- A state that a step over the Running threadlet leaves, moved on: its core is the one before with the threadlet moved. -/
theorem State.next_of_core {s t : State} {r : Run} {c : Core} (hc : t.core s.cur = c) (hr : c.run = some r) (hcur : t.cur = s.cur)
    (n : Nat) : t.next n = t.setRun s.cur (r.past n) := by
  rw [State.next_eq (r := r) (by rw [hcur, hc]; exact hr), hcur]

/-- What sends a packet, its operation numbered: nothing else of the state changes but the progress counted. -/
theorem sends_of {s : State} {r : Run} {i : Instr} {g : Guard} {f : Meaning} {cls : PClass} {dst : Agent} {b : PBody}
    (h : s.Issues r g) (hi : exec i s = guarded g 1 f s) (hd : s.Reaches dst)
    (hf : f s r = .ok (s.numbered.inject s.cur r.region cls dst b)) : s.Sends i r cls dst b := by
  have hcore : (s.numbered.inject s.cur r.region cls dst b).core s.cur
      = { s.core s.cur with nextSeq := (s.core s.cur).nextSeq + 1 } := by simp [State.numbered]
  have step := (hi.trans (guarded_ok h hf)).trans (congrArg _ (State.next_of_core hcore h.1 (by simp [State.numbered]) 1))
  refine ⟨_, step, ?_, ?_, fun m hm => ?_, ?_⟩
  · rw [State.net_setRun]; exact State.net_inject (s := s.numbered) hd
  · rw [State.core_setRun, if_pos rfl, hcore]; rfl
  · rw [State.core_setRun, if_neg hm]; simp [State.numbered, hm]
  · refine ⟨fun _ => by simp [State.numbered], fun _ => by simp [State.numbered], fun m a => ?_⟩
    by_cases hm : m = s.cur <;> simp [State.numbered, hm]

/-! ## Hashing (R59, R281) -/

/-- Lines that no stream is bound to have nothing to apply. -/
theorem State.applyLines_of {s : State} {a n : Nat} (hb : ∀ l ∈ linesOf a n, s.bindingAt (l * 128) = none) : s.applyLines a n = s := by
  unfold State.applyLines
  generalize linesOf a n = l at hb
  induction l with
  | nil => rfl
  | cons l ls ih =>
    have : s.applyLine l = s := by simp [State.applyLine, hb l (by simp)]
    rw [List.foldl_cons, this]
    exact ih fun x hx => hb x (by simp [hx])

/-- Bytes read where no stream is bound and no line has been dropped are those of memory, and nothing changes but the lines'
use (R199). -/
theorem State.fetch_plain {s : State} {a n : Nat} (hl : s.anyLost a n = false)
    (hb : ∀ l ∈ linesOf a n, s.bindingAt (l * 128) = none) :
    s.fetch a n = (Cells.read s.mem a n, s.badAt a n, s.touchLines a n false) := by
  simp [State.fetch, State.readMem, State.applyLines_of hb, State.readRaw, hl]

theorem State.anyLost_nil {s : State} (h : s.lost = []) (a n : Nat) : s.anyLost a n = false := by simp [State.anyLost, h]

/-- Two states differ in memory's own state, with the same bytes, and in what an agent has cached of affinity tables. -/
structure State.Hashed (s : State) (a : Agent) (t : State) : Prop where
  cores : ∀ n, t.core n = { s.core n with aff := (t.core n).aff }
  others : ∀ n, a ≠ .core n → t.core n = s.core n
  mem : t.mem = s.mem
  hostMem : t.hostMem = s.hostMem
  cur : t.cur = s.cur
  net : t.net = s.net
  regions : t.regions = s.regions
  brielo : t.brielo = s.brielo
  service : t.service = s.service
  cycle : t.cycle = s.cycle
  queues : t.queues = s.queues
  fes : ∀ k, t.fe k = { s.fe k with aff := (t.fe k).aff }

theorem State.MemoryOnly.hashed {s t : State} (h : s.MemoryOnly t) (hm : t.mem = s.mem) (a : Agent) : s.Hashed a t where
  cores n := by rw [State.core_of_cores h.cores]
  others n _ := State.core_of_cores h.cores n
  mem := hm
  hostMem := h.hostMem
  cur := h.cur
  net := h.net
  regions := h.regions
  brielo := h.brielo
  service := h.service
  cycle := h.cycle
  queues := h.queues
  fes k := by simp [State.fe, h.fes]

theorem State.Hashed.setAffCache {s t : State} {a : Agent} (h : s.Hashed a t) (l : List (Nat × Nat)) :
    s.Hashed a (t.setAffCache a l) := by
  obtain ⟨hc, ho, hm, hh, hcur, hn, hr, hb, hs, hcy, hq, hf⟩ := h
  cases a with
  | core n =>
    refine ⟨fun m => ?_, fun m hm' => ?_, hm, hh, hcur, hn, hr, hb, hs, hcy, hq, hf⟩
    · simp only [State.setAffCache, State.core_onCore]
      split
      · next e => rw [hc n, e]
      · exact hc m
    · simp only [State.setAffCache, State.core_onCore]
      rw [if_neg (by rintro rfl; exact hm' rfl)]
      exact ho m hm'
  | frontEnd b =>
    refine ⟨hc, ho, hm, hh, hcur, hn, hr, hb, hs, hcy, hq, fun k => ?_⟩
    have := hf k
    simp only [State.fe, State.setAffCache, SMap.get_set] at this ⊢
    split
    · next e => subst e; rw [this]
    · exact this
  | _ => exact ⟨hc, ho, hm, hh, hcur, hn, hr, hb, hs, hcy, hq, hf⟩

theorem natOf_lt (bs : List Byte) : natOf bs < 2 ^ (8 * bs.length) := by
  induction bs with
  | nil => simp [natOf]
  | cons b bs ih =>
    have := b.isLt
    rw [natOf, List.length_cons, Nat.mul_succ, Nat.pow_add]
    omega

theorem Cells.read_length (m : List Host.Cell) (a n : Nat) : (Cells.read m a n).length = n := by
  induction n generalizing a with
  | zero => rfl
  | succ n ih => simp [Cells.read, ih]

/-- The affinity entry read is the table's, where the cache agrees with that or holds none (R281). -/
theorem State.affEntry_hashes {s : State} {a : Agent} {g : Region} {region i e : Nat} (hl : s.lost = [])
    (hb : ∀ l ∈ linesOf (g.afftab + 2 * i) 2, s.bindingAt (l * 128) = none)
    (he : natOf (Cells.read s.mem (g.afftab + 2 * i) 2) = e) (hc : ∀ v, (4096 * region + i, v) ∈ s.affCache a → v = e) :
    (s.affEntry a g region i).1 = e ∧ s.Hashed a (s.affEntry a g region i).2 := by
  have read : s.Hashed a (s.touchLines (g.afftab + 2 * i) 2 false) := (s.touchLines_only ..).hashed (by simp) a
  simp only [State.affEntry, State.fetch_plain (State.anyLost_nil hl ..) hb, he]
  split
  · exact ⟨rfl, read.setAffCache _⟩
  · next k old hf =>
    have hk : k = 4096 * region + i := by simpa using List.find?_some hf
    rw [if_pos (hc old (hk ▸ List.mem_of_find?_eq_some hf))]
    exact ⟨rfl, read⟩

/-- The owning core of an address whose affinity entry is `e`: the one it names, where it may (R59). -/
theorem State.ownerOf_hashes {s : State} {a : Agent} {region e : Nat} {addr : Word} (h : s.Hashes a region addr e) :
    (s.Owns region e → (s.ownerOf a region addr).1 = some e) ∧ (¬ s.Owns region e → (s.ownerOf a region addr).1 = none) ∧
      s.Hashed a (s.ownerOf a region addr).2 := by
  obtain ⟨g, hg, hl, hb, he, hc⟩ := h
  obtain ⟨k1, k2⟩ := State.affEntry_hashes hl hb he hc
  have hlt : e < 65536 := by
    have := natOf_lt (Cells.read s.mem (g.afftab + 2 * ((addr.extractLsb' 0 52).toNat / 2 ^ g.affg % g.affm)) 2)
    rwa [he, Cells.read_length] at this
  have own : s.Owns region e ↔ e < 2048 ∧ g.coreset.getLsbD e = true := by
    constructor
    · rintro ⟨h0, g', hg', hs⟩
      cases hg.symm.trans hg'
      have hm : e % 2 ^ 11 = e := by omega
      exact ⟨by omega, by rwa [hm] at hs⟩
    · rintro ⟨h0, hs⟩
      have hm : e % 2 ^ 11 = e := by omega
      exact ⟨by omega, g, hg, by rwa [hm]⟩
  simp only [State.ownerOf, hg, field_eq]
  rw [own]
  split
  · next ho => exact ⟨fun _ => by rw [k1], fun hn => absurd (k1 ▸ ho) hn, k2⟩
  · next ho => exact ⟨fun hn => absurd (k1.symm ▸ hn) ho, fun _ => rfl, k2⟩

/-! ## Groups of operands (R68, R298) -/

theorem insertNat_ne_nil (l : List Nat) (i : Nat) : insertNat l i ≠ [] := by
  cases l with
  | nil => exact nofun
  | cons k l => unfold insertNat; split <;> [exact nofun; split <;> exact nofun]

theorem symbolsOf_eq_nil (vs : List RVal) : symbolsOf vs = [] ↔ ∀ v ∈ vs, ¬ v.isLate := by
  have fold (l : List Nat) : l.foldl insertNat [] = [] ↔ l = [] := by
    cases l with
    | nil => simp
    | cons i l =>
      refine iff_of_false (foldl_keeps (· ≠ []) _ (fun a b _ => insertNat_ne_nil a b) l _ (insertNat_ne_nil [] i)) nofun
  simp [symbolsOf, fold, RVal.isLate, List.filterMap_eq_nil_iff]

theorem allKnown_known (ws : List Word) : allKnown (ws.map .known) = .ok ws := by
  have : symbolsOf (ws.map .known) = [] := (symbolsOf_eq_nil _).2 (by simp)
  simp [allKnown, this, List.filterMap_map]

theorem allKnown_late {vs : List RVal} (h : ∃ v ∈ vs, v.isLate) : allKnown vs = .error (waitFor vs) := by
  have : symbolsOf vs ≠ [] := fun e => by
    obtain ⟨v, hv, hl⟩ := h
    exact (symbolsOf_eq_nil vs).1 e v hv hl
  simp [allKnown, this]

@[simp] theorem onKnown_known (w : Word) (check : Word → Except Stop Unit) : onKnown (.known w) check = check w := rfl

/-- A check that every known value passes is passed. -/
theorem onKnown_ok {v : RVal} {check : Word → Except Stop Unit} (h : ∀ w, v = .known w → check w = .ok ()) :
    onKnown v check = .ok () := by
  cases v with
  | known w => exact h w rfl
  | _ => rfl

@[simp] theorem need_true (code addr : Nat) : need true code addr = .ok () := rfl
@[simp] theorem need_false (code addr : Nat) : need false code addr = .error (.fault code addr 0) := rfl

/-! ## AMSG (R59, R333) -/

section Amsg

variable {s : State} {r : Run} {g : Guard} {xg : XReg}

/-- AMSG whose group is known issues its message. -/
theorem amsg_issues {ws : List Word} (hg : r.group xg 8 = ws.map .known) (h0 : r.get xg = .known (wordAt ws 0))
    (hz : (wordAt ws 0).extractLsb' 28 36 = 0) : ∃ f : Meaning, exec (.amsg g xg) s = guarded g 1 f s ∧
      f s r = s.issueOp r (.amsg ((wordAt ws 0).extractLsb' 0 28).toNat (wordAt ws 1) (ws.drop 2)) := by
  have hz' : field (wordAt ws 0) 63 28 = 0 := (field_eq_zero _ 63 28).2 hz
  have hh : field (wordAt ws 0) 27 0 = ((wordAt ws 0).extractLsb' 0 28).toNat := field_eq ..
  refine ⟨_, exec_amsg .., ?_⟩
  simp only [h0, onKnown_known, hz', hh, beq_self_eq_true, need_true, hg, allKnown_known, bind, Except.bind]

/-- A message that leaves: the affinity table has been read, and the message or a record of a bad entry has been sent. -/
theorem State.launch_amsg {n e : Nat} {o : Op} {addr : Word} {handler : Nat} {payload : List Word}
    (hb : o.body = .amsg handler addr payload) (he : s.Hashes (.core n) o.org.region addr e) :
    ∃ u, s.Hashed (.core n) u ∧ u.SameStores (s.launch n o) ∧
      (s.Owns o.org.region e → s.launch n o = u.inject n o.org.region .sig (.core e) (.amsg handler addr payload none)) ∧
      (¬ s.Owns o.org.region e → s.launch n o = u.sendRecord o.org.region (Rec.of 0x09 8 (.core n) o.org 0 0)) := by
  obtain ⟨k1, k2, k3⟩ := State.ownerOf_hashes he
  refine ⟨_, k3, ?_⟩
  unfold State.launch
  simp only [hb]
  by_cases ho : s.Owns o.org.region e
  · have := k1 ho
    split
    · next m u hu =>
      rw [hu] at this ⊢
      cases this
      exact ⟨⟨by simp, by simp, by simp, by simp⟩, fun _ => rfl, fun hn => absurd ho hn⟩
    · next u hu => rw [hu] at this; cases this
  · have := k2 ho
    split
    · next m u hu => rw [hu] at this; cases this
    · next u hu =>
      rw [hu] at this ⊢
      exact ⟨u.sendRecord_sameStores .., fun hn => absurd hn ho, fun _ => rfl⟩

end Amsg

/-- An AMSG whose message is not kept back: the message is on its way to its owner, or a record tells of a bad entry. -/
theorem amsg_sent {s : State} {r : Run} {g : Guard} {xg : XReg} {ws : List Word} {e : Nat} (h : s.Issues r g)
    (hg : r.group xg 8 = ws.map .known) (h0 : r.get xg = .known (wordAt ws 0)) (hz : (wordAt ws 0).extractLsb' 28 36 = 0)
    (hm : s.MayIssue r) (he : s.Hashes (.core s.cur) r.region (wordAt ws 1) e) :
      ∃ t, exec (.amsg g xg) s = .next t ∧ s.SameBytes t ∧ (∀ m, m ≠ s.cur → t.core m = s.core m) ∧
        t.core s.cur = { s.issued r 1 with aff := (t.core s.cur).aff } ∧
        (s.Owns r.region e → t.net = s.net ++ [⟨.sig, .core s.cur, .core e, r.region,
          .amsg ((wordAt ws 0).extractLsb' 0 28).toNat (wordAt ws 1) (ws.drop 2) none⟩]) ∧
        (¬ s.Owns r.region e → s.domainOf r.region = some 1 → t.Reports 0x09 8 (.core s.cur) ∧
          ∃ rec, t.net = s.net ++ [⟨.sig, .core s.cur, .service, 1, .record 1 0 rec⟩] ∧
            wordAt rec 2 = BitVec.ofNat 64 (s.blockField r.region r.block * 2 ^ 32 + r.idx % 256)) := by
  obtain ⟨f, hf, hfs⟩ := amsg_issues (s := s) (g := g) hg h0 hz
  have he' : s.numbered.Hashes (.core s.cur) r.region (wordAt ws 1) e := by
    have hc : s.numbered.affCache (.core s.cur) = s.affCache (.core s.cur) := by simp [State.affCache, State.numbered]
    unfold State.Hashes
    rw [hc]
    exact he
  obtain ⟨u, hu, hs, ho, hno⟩ := State.launch_amsg (s := s.numbered)
    (o := s.opOf r (.amsg ((wordAt ws 0).extractLsb' 0 28).toNat (wordAt ws 1) (ws.drop 2))) rfl he'
  have step := hf.trans (guarded_ok h (hfs.trans (State.issueOp_sent _ hm)))
  generalize s.numbered.launch s.cur _ = t at step hs ho hno
  have hcore : t.core s.cur = { s.core s.cur with nextSeq := (s.core s.cur).nextSeq + 1, aff := (u.core s.cur).aff } := by
    rw [hs.core, hu.cores]; simp [State.numbered]
  have hothers (m : Nat) (hm : m ≠ s.cur) : t.core m = s.core m := by
    rw [hs.core, hu.others m (by rintro ⟨⟩; exact hm rfl)]; simp [State.numbered, hm]
  have hregions : u.regions = s.regions := hu.regions
  rw [State.next_of_core hcore h.1 (hs.cur.trans hu.cur)] at step
  refine ⟨_, step, ⟨fun a => ?_, fun a => ?_, fun m a => ?_⟩, fun m hm => ?_, ?_, fun hown => ?_, fun hown hd => ?_⟩
  · rw [State.mem_setRun, hs.mem, hu.mem]; rfl
  · rw [State.hostMem_setRun, hs.hostMem, hu.hostMem]; rfl
  · rw [State.core_setRun]
    split
    · next e => rw [hcore, e]
    · next hm => rw [hothers m hm]
  · rw [State.core_setRun, if_neg hm, hothers m hm]
  · rw [State.core_setRun, if_pos rfl, hcore]; rfl
  · rw [State.net_setRun, ho hown, State.net_inject (State.reaches_of_local fun _ e => by cases e), hu.net]; rfl
  · have hd' : u.domainOf r.region = some 1 := (State.domainOf_of hregions _).trans hd
    have ht := hno hown
    refine ⟨?_, u.recordWords (Rec.of 0x09 8 (.core s.cur) r.origin 0 0), ?_, ?_⟩
    · exact ht ▸ State.sendRecord_reports hd' rfl rfl rfl (by decide)
    · rw [State.net_setRun, ht]
      exact (congrArg State.net (State.sendRecord_device hd' _)).trans (by rw [hu.net]; rfl)
    · rw [State.recordWords_at _ _ rfl, ← State.blockField_of hregions]; rfl

/-! ## ARM (R284, R336) -/

/-- The three operands of an ARM. -/
theorem Run.group_three (r : Run) (xg : XReg) :
    r.group xg 3 = [r.reg (xg.toNat + 0), r.reg (xg.toNat + 1), r.reg (xg.toNat + 2)] := rfl

/-- What ARM checks of its operands, in the order of the checks. -/
def State.armChecks (s : State) (r : Run) (xg : XReg) : Except Stop Unit := do
  onKnown (r.reg (xg.toNat + 0)) fun ref => need (s.refOk ref && (Ref.of ref).t) 0x09 0
  onKnown (r.reg (xg.toNat + 1)) fun th => need (field th 63 24 == 0) 0x07 0
  onKnown (r.reg (xg.toNat + 2)) fun p => do
    need (p.toNat % 64 == 0) 0x03 p.toNat
    need (s.localOk s.cur r.fid p.toNat 64 false) 0x05 p.toNat
    need (!touches (s.core s.cur).lpoison p.toNat 64) 0x06 p.toNat

section Arm

variable {s : State} {r : Run} {g : Guard} {xg : XReg}

/-- ARM checks its operands, then takes their values, then issues. -/
theorem exec_arm_eq : exec (.arm g xg) s = guarded g 1 (fun s r => do
    s.armChecks r xg
    let ws ← allKnown (r.group xg 3)
    s.issueOp r (.arm (wordAt ws 0) (wordAt ws 1).toNat
      (wordsOfBytes 8 (Cells.read (s.core s.cur).lmem (wordAt ws 2).toNat 64)))) s := by
  rw [exec_arm, execArm]
  congr 1
  funext s r
  simp only [State.armChecks, bind_assoc]

theorem faults_of_armChecks {code addr : Nat} (h : s.Issues r g) (hc : code ≠ 0x12)
    (he : s.armChecks r xg = .error (.fault code addr 0)) : s.Faults (.arm g xg) r code addr 0 :=
  exec_arm_eq.trans (guarded_faults h hc (by rw [he]; rfl))

/-- An operand that is known keeps the check of its value, one that is late the next (R298). -/
theorem refs_pass (h : ∀ w, r.reg (xg.toNat + 0) = .known w → s.refOk w = true ∧ (Ref.of w).t = true) :
    onKnown (r.reg (xg.toNat + 0)) (fun ref => need (s.refOk ref && (Ref.of ref).t) 0x09 0) = .ok () :=
  onKnown_ok fun w hw => by simp [h w hw]

theorem threshold_fits (w : Word) : (field w 63 24 == 0) = decide (w.toNat < 2 ^ 24) := by
  have := w.isLt
  simp only [field, Nat.shiftRight_eq_div_pow, beq_eq_decide]
  congr 1
  apply propext
  omega

theorem thresholds_pass (h : ∀ w, r.reg (xg.toNat + 1) = .known w → w.toNat < 2 ^ 24) :
    onKnown (r.reg (xg.toNat + 1)) (fun th => need (field th 63 24 == 0) 0x07 0) = .ok () :=
  onKnown_ok fun w hw => by rw [threshold_fits, decide_eq_true (h w hw)]; rfl

/-- A control block that may be read passes its checks. -/
theorem blocks_pass (h : ∀ p, r.reg (xg.toNat + 2) = .known p → p.toNat % 64 = 0 ∧ s.localOk s.cur r.fid p.toNat 64 false = true ∧
      touches (s.core s.cur).lpoison p.toNat 64 = false) :
    onKnown (r.reg (xg.toNat + 2)) (fun p => do
      need (p.toNat % 64 == 0) 0x03 p.toNat
      need (s.localOk s.cur r.fid p.toNat 64 false) 0x05 p.toNat
      need (!touches (s.core s.cur).lpoison p.toNat 64) 0x06 p.toNat) = .ok () :=
  onKnown_ok fun p hp => by
    obtain ⟨h1, h2, h3⟩ := h p hp
    simp [h1, h2, h3, bind, Except.bind]

end Arm

/-- Settles O35: a message leaves for its owner or waits behind a barrier (R59, R221), and ARM's checks come in their order
(R284, R336). -/
theorem messagesAndTriggers : Obligations.MessagesAndTriggers := by
  refine ⟨fun s r g xg ws h hl hg h0 hz => ⟨fun e hm he => amsg_sent h hg h0 hz hm he, fun ha hw ho => ?_⟩,
    fun s r g xg h => ⟨fun w hw hz => ?_, fun hh hlate => ?_⟩,
    fun s r g xg h => ⟨fun w hw hbad => ?_, fun hrefs w hw hlt => ?_, fun hrefs hth p hp => ?_, fun hrefs hth hok => ?_⟩⟩
  · obtain ⟨f, hf, hfs⟩ := amsg_issues (s := s) (g := g) hg h0 hz
    exact stages_of h hf hfs ha hw ho
  · have hz' : (field w 63 28 == 0) = false := beq_eq_false_iff_ne.2 (mt (field_eq_zero _ 63 28).1 hz)
    exact (exec_amsg ..).trans (guarded_faults h (by decide) (by
      simp only [hw, onKnown_known, hz', need_false, bind, Except.bind]))
  · have pass : onKnown (r.get xg) (fun h => need (field h 63 28 == 0) 0x09 0) = .ok () :=
      onKnown_ok fun w hw => by rw [(field_eq_zero _ 63 28).2 (hh w hw)]; rfl
    exact (exec_amsg ..).trans (guarded_parks h (vs := r.group xg 8) (by
      simp only [pass, allKnown_late hlate, bind, Except.bind]))
  · have hbad' : (s.refOk w && (Ref.of w).t) = false := by
      rcases hbad with hb | hb <;> simp [hb]
    exact faults_of_armChecks h (by decide) (by rw [State.armChecks, hw, onKnown_known, hbad', need_false]; rfl)
  · have hlt' : (field w 63 24 == 0) = false := by rw [threshold_fits]; exact decide_eq_false (Nat.not_lt.2 hlt)
    exact faults_of_armChecks h (by decide) (by rw [State.armChecks, refs_pass hrefs, hw, onKnown_known, hlt', need_false]; rfl)
  · have checks (x : Except Stop Unit) (hx : (do
        need (p.toNat % 64 == 0) 0x03 p.toNat
        need (s.localOk s.cur r.fid p.toNat 64 false) 0x05 p.toNat
        need (!touches (s.core s.cur).lpoison p.toNat 64) 0x06 p.toNat) = x) : s.armChecks r xg = x := by
      rw [State.armChecks, refs_pass hrefs, thresholds_pass hth, hp]; exact hx
    refine ⟨fun hal => ?_, fun hal hre => ?_, fun hal hre hcl => ?_⟩
    · have hal' : (p.toNat % 64 == 0) = false := beq_eq_false_iff_ne.2 hal
      exact faults_of_armChecks h (by decide) (checks _ (by simp only [hal', need_false, bind, Except.bind]))
    · have hal' : (p.toNat % 64 == 0) = true := beq_iff_eq.2 hal
      have hre' : s.localOk s.cur r.fid p.toNat 64 false = false := eq_false_of_ne_true hre
      exact faults_of_armChecks h (by decide) (checks _ (by simp only [hal', hre', need_true, need_false, bind, Except.bind]))
    · have hal' : (p.toNat % 64 == 0) = true := beq_iff_eq.2 hal
      have hre' : s.localOk s.cur r.fid p.toNat 64 false = true := hre
      have hcl' : touches (s.core s.cur).lpoison p.toNat 64 = true := eq_true_of_ne_false hcl
      exact faults_of_armChecks h (by decide) (checks _ (by
        simp only [hal', hre', hcl', need_true, need_false, Bool.not_true, bind, Except.bind]))
  · have checks : s.armChecks r xg = .ok () := by
      rw [State.armChecks, refs_pass hrefs, thresholds_pass hth]; exact blocks_pass hok
    refine ⟨fun hlate => ?_, fun ref thresh p hr ht hp => ?_⟩
    · exact exec_arm_eq.trans (guarded_parks h (by simp only [checks, allKnown_late hlate, bind, Except.bind]))
    · have operands : r.group xg 3 = [ref, thresh, p].map .known := by rw [Run.group_three, hr, ht, hp]; rfl
      have issues : (do
          s.armChecks r xg
          let ws ← allKnown (r.group xg 3)
          s.issueOp r (.arm (wordAt ws 0) (wordAt ws 1).toNat
            (wordsOfBytes 8 (Cells.read (s.core s.cur).lmem (wordAt ws 2).toNat 64)))) =
          s.issueOp r (.arm ref thresh.toNat (wordsOfBytes 8 (Cells.read (s.core s.cur).lmem p.toNat 64))) := by
        rw [checks, operands, allKnown_known]; rfl
      have hroute : s.numbered.routeOk (Ref.of ref).module = true := (Bool.and_eq_true_iff.1 (hrefs ref hr).1).2
      exact ⟨fun hm hre => sends_of h exec_arm_eq hre
          ((issues.trans (State.issueOp_sent _ hm)).trans (congrArg Except.ok (if_pos hroute))),
        fun ha hw ho => stages_of h exec_arm_eq issues ha hw ho⟩

end Sys2Proof.Machine
end

section
/-! PROOF. O1: a step runs the instruction that the fetched words decode to. -/

namespace Sys2Proof.Machine

open Sys2Proof

/-! ## Instructions of one and of two words (R88) -/

/-- Every instruction that a decoder may give takes `n` words. -/
def GivesWords (n : Nat) (d : Except DecodeError Instr) : Prop := ∀ i, d = .ok i → i.words = n

theorem givesWords_ok {n : Nat} {i : Instr} (h : i.words = n) : GivesWords n (.ok i) := fun _ e => by cases e; exact h

theorem givesWords_error {n : Nat} {e : DecodeError} : GivesWords n (.error e) := fun _ h => by cases h

theorem givesWords_bind {n : Nat} {α : Type} {x : Except DecodeError α} {f : α → Except DecodeError Instr}
    (h : ∀ a, GivesWords n (f a)) : GivesWords n (x >>= f) := by
  cases x with
  | error e => exact givesWords_error
  | ok a => exact h a

theorem decLong_givesWords (f : Fields) (w : BitVec 32) : GivesWords 2 (decLong f w) := by
  unfold decLong decVx decVcvt
  dsimp only
  repeat' first
    | exact givesWords_ok rfl
    | exact givesWords_error
    | refine givesWords_bind fun _ => ?_
    | split

theorem decShort_givesWords (f : Fields) : GivesWords 1 (decShort f) := by
  unfold decShort decInt decShiftImm decSel decSetp decSetpiA decSetpiB decFsetp decPlog decFadd decFsub decFmul decFfma decFdiv
    decFsqrt decFminmax decFcvt decJump decRep decControl decFrame decSlot decSig decAmsg decArm decLd decSt decLdz decStz
    decGld decLdl decGst decGstv decPref decAtomic decFence decFenceq decIflush decUpd decUpdv decUapply decCpy decCpy2 decCpym
    decGthr decRcfg decRadv decMma decMmas decMmg decAcc decAccst decSscfg decVarith decVlogic decVshift decVcmp decVfunc
    decVred decVmove decVld decVst decMlog decRdsr decWrsr decRgnctl decTlbinv decWaycfg decSymq decResume
  dsimp only
  repeat' first
    | exact givesWords_ok rfl
    | exact givesWords_error
    | refine givesWords_bind fun _ => ?_
    | split

/-! ## The issue -/

/-- The words of an instruction are one or two, as its OP says, and the all-ones word is none (R88, R123). -/
theorem decode_words {w0 w1 : BitVec 32} {i : Instr} (h : decode (bytesOfWord w0 ++ bytesOfWord w1) = .ok i) :
    w0 ≠ BitVec.allOnes 32 ∧ (isLongOp (w0.extractLsb' 21 7) = true ∧ i.words = 2 ∨
      isLongOp (w0.extractLsb' 21 7) = false ∧ i.words = 1) := by
  have e : decode (bytesOfWord w0 ++ bytesOfWord w1) = decodeWords w0 (some w1) := by
    simpa using decode_two w0 w1
  have hop : (Fields.split w0).op = w0.extractLsb' 21 7 := rfl
  rw [e, decodeWords] at h
  split at h
  · cases h
  · next hne =>
    refine ⟨fun k => hne (beq_iff_eq.2 k), ?_⟩
    simp only [hop] at h
    split at h
    · next hl => exact .inl ⟨hl, decLong_givesWords _ _ i h⟩
    · next hl => exact .inr ⟨eq_false_of_ne_true hl, decShort_givesWords _ i h⟩

/-- A word that is the only one a fetch may find is fetched, and its line cached. -/
theorem State.fetchWord_only {s : State} {core asid va : Nat} {w : BitVec 32} {sup : Bool}
    (h : s.codeAt core asid va = .words [w] sup) : s.fetchWord core asid va = (.ok w, s.cacheCode core asid va) := by
  simp [State.fetchWord, h]

/-- The instruction at a threadlet's index, where the fetches find one word each. -/
theorem State.nextInstr_decoded {s : State} {n : Nat} {r : Run} {i : Instr} {w0 w1 : BitVec 32} {sup : Bool}
    (hlen : r.idx + i.words ≤ r.len + 1) (hd : decode (bytesOfWord w0 ++ bytesOfWord w1) = .ok i) (hw : i.words = 1 → w1 = 0)
    (h0 : s.codeAt n (s.asid r.region) (r.wordVa 0) = .words [w0] sup)
    (h1 : i.words ≠ 1 → ∃ sup, (s.cacheCode n (s.asid r.region) (r.wordVa 0)).codeAt n (s.asid r.region) (r.wordVa 1)
      = .words [w1] sup) :
    s.nextInstr n r = (.ok i, if i.words = 1 then s.cacheCode n (s.asid r.region) (r.wordVa 0)
      else (s.cacheCode n (s.asid r.region) (r.wordVa 0)).cacheCode n (s.asid r.region) (r.wordVa 1)) := by
  obtain ⟨hones, hlong⟩ := decode_words hd
  have hidx : ¬ r.len < r.idx := by rcases hlong with ⟨-, hl⟩ | ⟨-, hl⟩ <;> omega
  rw [State.nextInstr, if_neg hidx, State.fetchWord_only h0]
  rcases hlong with ⟨hop, hl⟩ | ⟨hop, hl⟩
  · obtain ⟨sup', h1⟩ := h1 (by omega)
    have hne : r.len ≠ r.idx := by omega
    simp [hop, hl, hne, State.fetchWord_only h1, hd]
  · have hd' : decode (bytesOfWord w0 ++ bytesOfWord 0) = .ok i := hw hl ▸ hd
    simp only [hop, hl, hd', if_true, Bool.false_eq_true, false_and, if_false]

/-- An issue with nothing that comes before it runs the next instruction. -/
theorem State.issueTurn_decoded {s t : State} {n : Nat} {r : Run} {i : Instr} (hr : (s.core n).run = some r)
    (hs : s.suspended r.region = false ∨ r.parkw = 0) (hl : r.runleft ≠ 0) (hb : s.breakDetail n r = none)
    (hi : ({ s with cur := n } : State).nextInstr n r = (.ok i, t)) : s.issueTurn n = .run t i := by
  have hs' : (s.suspended r.region && r.parkw != 0) = false := by rcases hs with hs | hs <;> simp [hs]
  rw [State.issueTurn, hr]
  simp only [hs', Bool.false_eq_true, if_false, hl, hb, hi]

/-- With an issue next on the agenda and nothing that comes before it, the step is what the issue runs. -/
theorem step_issue {s t : State} {n : Nat} {rest : List Turn} {i : Instr} (hf : s.forced = none)
    (ha : s.agenda = .issue n :: rest) (hp : s.power = .active)
    (hi : ({ s with agenda := rest } : State).issueTurn n = .run t i) :
    step s = match exec i t with
      | .next u => .next u.after
      | .fault e => .fault e
      | .refused e => .refused e := by
  have hplan : s.plan = .run t i := by
    rw [State.plan, hf, ha]
    exact (if_pos hp).trans hi
  unfold step
  split
  · next h => cases hplan.symm.trans h
  · next h =>
    cases hplan.symm.trans h
    rfl

/-! ## What a fetch finds (R198) -/

/-- The bytes of a range stand in its number where they stand in the range. -/
theorem natOf_read_window (m : List Host.Cell) (a : Nat) {i k n : Nat} (h : i + k ≤ n) :
    natOf (Cells.read m a n) / 2 ^ (8 * i) % 2 ^ (8 * k) = natOf (Cells.read m (a + i) k) := by
  induction n generalizing a i k with
  | zero =>
    obtain ⟨rfl, rfl⟩ : i = 0 ∧ k = 0 := by omega
    simp [Cells.read, natOf]
  | succ n ih =>
    cases i with
    | succ i =>
      have hx := ih (a + 1) (i := i) (k := k) (by omega)
      have hb := (Cells.get m a).isLt
      rw [show a + 1 + i = a + (i + 1) by omega] at hx
      rw [← hx, show 8 * (i + 1) = 8 + 8 * i by omega, pow_add, ← Nat.div_div_eq_div_mul]
      congr 2
      simp only [Cells.read, natOf]
      omega
    | zero =>
      cases k with
      | zero => simp [Cells.read, natOf, Nat.mod_one]
      | succ k =>
        have hx := ih (a + 1) (i := 0) (k := k) (by omega)
        have hb := (Cells.get m a).isLt
        simp only [Nat.mul_zero, pow_zero, Nat.div_one, Nat.add_zero, Cells.read, natOf] at hx ⊢
        have hmod : ((Cells.get m a).toNat + 256 * natOf (Cells.read m (a + 1) n)) % 2 ^ 8 = (Cells.get m a).toNat := by omega
        have hdiv : ((Cells.get m a).toNat + 256 * natOf (Cells.read m (a + 1) n)) / 2 ^ 8
          = natOf (Cells.read m (a + 1) n) := by omega
        rw [← hx, show 8 * (k + 1) = 8 + 8 * k by omega, pow_add, Nat.mod_mul, hmod, hdiv]
        rfl

theorem imageWord_read (m : List Host.Cell) (a : Nat) {k : Nat} (h : k < 32) :
    imageWord (BitVec.ofNat 1024 (natOf (Cells.read m a 128))) k = BitVec.ofNat 32 (natOf (Cells.read m (a + 4 * k) 4)) := by
  have hw := natOf_read_window m a (i := 4 * k) (k := 4) (n := 128) (by omega)
  rw [imageWord, extractLsb'_ofNat _ (by omega)]
  apply BitVec.eq_of_toNat_eq
  rw [BitVec.toNat_ofNat, BitVec.toNat_ofNat, ← hw, show 8 * (4 * k) = 32 * k by omega, Nat.mod_mod_of_dvd _ (by decide)]

/-- A line of code that no update waits for and no byte of which is dropped reads as memory holds it. -/
theorem State.codeLine_slice {s : State} {sl pa : Nat} (ha : pa % 128 = 0) (hb : s.bindingAt pa = none)
    (hl : s.anyLost pa 128 = false) :
    (s.codeLine (.slice sl) pa).1 = BitVec.ofNat 1024 (natOf (Cells.read s.mem pa 128)) := by
  have hline : lineOf pa * 128 = pa := by simp only [lineOf]; omega
  have hlines : linesOf pa 128 = [lineOf pa] := by
    simp only [linesOf, lineOf, OfNat.ofNat_ne_zero, if_false]
    rw [show (pa + 128 - 1) / 128 + 1 - pa / 128 = 1 by omega]
    rfl
  have hfetch : (s.fetch pa 128).1 = Cells.read s.mem pa 128 := by
    rw [State.fetch_plain hl (by simp [hlines, hline, hb])]
  exact congrArg (fun bs => BitVec.ofNat 1024 (natOf bs)) hfetch

/-- Settles O1: the turn is an issue, the fetches find the words, and the words say what is executed (R91, R198, R289). -/
theorem stepRunsDecoded : Obligations.StepRunsDecoded := by
  refine ⟨fun s n rest r i w0 w1 hf ha hp hr hs hl hb hlen hd hw => ?_, fun s n asid va sl pa sp t hva hlook hroute hsp => ?_⟩
  · rintro s0 s1 s2 ⟨sup, h0⟩ h1
    have hi : s0.nextInstr n r = (.ok i, s2) := State.nextInstr_decoded hlen hd hw h0 h1
    refine ⟨?_, step_issue hf ha hp (State.issueTurn_decoded hr hs hl hb hi)⟩
    have hs1 : s0.SameButCode s1 := State.cacheCode_sameButCode ..
    by_cases h : i.words = 1
    · rwa [show s2 = s1 from if_pos h]
    · rw [show s2 = s1.cacheCode n (s.asid r.region) (r.wordVa 1) from if_neg h]
      exact hs1.trans (State.cacheCode_sameButCode ..)
  · have found : s.codeAt n asid va
        = .words (((s.images n asid va (.slice sl) pa).map fun im => imageWord im (va / 4 % 32)).eraseDups) t.sup := by
      simp only [State.codeAt, Nat.not_le.2 hva, hlook, hroute, hsp, if_false]
    refine ⟨fun l hl => ?_, fun hno ha hb hlost => ?_⟩
    · rw [found, State.images, hl]
    · have hno' : ((s.chip (chipOf n)).icache.find? fun l => l.asid == asid && l.line == va / 128) = none := by
        rw [List.find?_eq_none]
        exact fun l hl hx => by simpa [hx] using List.any_eq_false.1 hno l hl
      rw [found, State.images, hno']
      simp [State.codeLine_slice ha hb hlost, imageWord_read s.mem pa (Nat.mod_lt (va / 4) (by decide : 0 < 32)),
        List.eraseDups_cons]

end Sys2Proof.Machine
end

section
/-! PROOF. O7: module reset, and the boot it makes (R319, R320). -/

namespace Sys2Proof.Machine

open Sys2Proof

/-- Firmware's tables go into memory, and change nothing else. -/
theorem State.writeTables_only (s : State) : s.MemoryOnly s.writeTables :=
  (((s.zeroRange_only ..).trans (State.store_only ..)).trans (State.store_only ..)).trans (State.store_only ..)

/-- The state that the steps of a boot find, with no transition of the lifecycle pending (R322). -/
theorem afterReset_flash (s : State) : s.afterReset.flash = s.flash := rfl

section Boot

variable {s : State} {k : Nat}

/-- A reset whose boot-attempt record has no way on halts the module (R320). -/
theorem moduleReset_halts (hp : s.flash.pendingLife = none) (hh : s.flash.halts = true) :
    exec (.moduleReset k) s = .next { s.afterReset with power := .halted } := by
  rw [exec_moduleReset]
  simp only [execModuleReset, afterReset_flash, hp, hh, if_true]

/-- A reset whose boot is the first to fail, and fails at step `j`, records the step (R320). -/
theorem moduleReset_fails {j : Nat} (hp : s.flash.pendingLife = none) (ha : s.flash.attempt = none)
    (hf : s.flash.failing k = some j) :
    exec (.moduleReset k) s = .next { s.afterReset with flash := { s.flash with
      attempt := some (j, 1), triedB := s.flash.triedB || (s.flash.loadsB && decide (2 < j)) } } := by
  have hh : s.flash.halts = false := by simp [Flash.halts, ha]
  rw [exec_moduleReset]
  simp only [execModuleReset, afterReset_flash, hp, hh, hf, ha, Bool.false_eq_true, if_false]

/-- What a module that has booted holds (R38, R320, Table 2-9). -/
structure Booted (f : Flash) (t : State) : Prop where
  power : t.power = .active
  attempt : t.flash.attempt = none
  slotB : t.flash.slotB = f.loadsB
  regions : t.regions = [(1, f.deviceRegion)]
  reservoir : t.reservoir = !f.recorded 6
  half : t.brielo.half = f.recorded 7
  log : t.service.log = [.bootReport f.deviceRcb (if f.recorded 6 then [6] else [])]

/-- Firmware's tables leave it so. -/
theorem Booted.writeTables {f : Flash} {u : State} (h : Booted f u) : Booted f u.writeTables := by
  have tables := u.writeTables_only
  obtain ⟨h1, h2, h3, h4, h5, h6, h7⟩ := h
  exact ⟨tables.power.trans h1, by rw [tables.flash, h2], by rw [tables.flash, h3], tables.regions.trans h4,
    tables.reservoir.trans h5, by rw [tables.brielo, h6], by rw [tables.service, h7]⟩

/-- A reset none of whose boot steps fails boots the module. -/
theorem moduleReset_boots (hp : s.flash.pendingLife = none) (hh : s.flash.halts = false) (hf : s.flash.failing k = none) :
    ∃ t, exec (.moduleReset k) s = .next t ∧ Booted s.flash t := by
  rw [exec_moduleReset]
  simp only [execModuleReset, afterReset_flash, hp, hh, hf, Bool.false_eq_true, if_false]
  refine ⟨_, rfl, ?_⟩
  exact Booted.writeTables ⟨rfl, rfl, rfl, rfl, rfl, rfl, rfl⟩

end Boot

/-! ## Which steps fail -/

/-- The search for a value among those that pass a test finds that value alone. -/
theorem find_beq_and (l : List Nat) (k : Nat) (q : Nat → Bool) :
    (l.find? fun x => x == k && q x) = if k ∈ l ∧ q k = true then some k else none := by
  split
  · next h =>
    obtain ⟨a, ha⟩ := Option.isSome_iff_exists.1 (List.find?_isSome.2 ⟨k, h.1, by simp [h.2]⟩ : (l.find? fun x => x == k && q x).isSome)
    have hk : a = k ∧ q a = true := by simpa using List.find?_some ha
    rw [ha, hk.1]
  · next h =>
    rw [List.find?_eq_none]
    rintro x hx hk
    obtain ⟨rfl, hq⟩ : x = k ∧ q x = true := by simpa using hk
    exact h ⟨hx, hq⟩

/-- The failing step of a boot whose image and configuration record are there: the one the environment names, unless it is
the step that is left out. -/
theorem Flash.failing_eq {f : Flash} (k : Nat) (hi : f.imageOk = true) (hr : f.record.isNone = false) :
    f.failing k = if (1 ≤ k ∧ k ≤ 8) ∧ (!(k == 6 && f.recorded 6)) = true then some k else none := by
  have hk : k ∈ List.range' 1 8 ↔ 1 ≤ k ∧ k ≤ 8 := by simp [List.mem_range'_1]; omega
  simp only [Flash.failing, hi, hr, Bool.not_true, Bool.and_false, Bool.or_false]
  exact (find_beq_and _ k fun x => !(x == 6 && f.recorded 6)).trans (if_congr (and_congr_left' hk) rfl rfl)

/-- An image to load that is not below the anti-rollback counter is valid (R320). -/
theorem Flash.imageOk_of {f : Flash} {v : Nat} (h : (if f.loadsB then f.imageB else f.imageA) = some v) (hv : f.rollback ≤ v) :
    f.imageOk = true := by
  rw [Flash.imageOk, h]
  simpa using hv

/-- Settles O7: the reset state is as Table 14-4 leaves it, and a reset boots, records a failed step or halts (R320). -/
theorem resetAndBoot : Obligations.ResetAndBoot := by
  refine ⟨fun n => ⟨rfl, rfl, rfl, fun k => rfl⟩, fun k => rfl, rfl, fun k => rfl, rfl, rfl, fun a => rfl,
    fun s k v c hp ha hb him hv hrec => ?_, fun s j v c hp ha hb hv hrec him hj => ?_, fun s j n k hp ha hj => ?_⟩
  · have hh : s.flash.halts = false := by simp [Flash.halts, ha]
    have hn (j : Nat) : s.flash.recorded j = false := by simp [Flash.recorded, ha]
    have hB : s.flash.loadsB = false := by simp [Flash.loadsB, hb, hn]
    have hf := Flash.failing_eq (f := s.flash) k (Flash.imageOk_of (by simpa [hB] using him) hv) (by simp [hrec])
    refine ⟨fun hk => ?_, fun h1 h8 => ?_⟩
    · obtain ⟨t, ht, b⟩ := moduleReset_boots hp hh (hf.trans (if_neg (by omega)))
      refine ⟨t, ht, b.power, b.attempt, by rw [b.reservoir, hn]; rfl, by rw [b.half, hn], _, b.regions, ?_⟩
      have hstore : s.flash.deviceRegion.fstore = c.fstore := by simp [Flash.deviceRegion, Flash.fstore, hrec]
      exact ⟨rfl, hstore, rfl, rfl, rfl, rfl, rfl, rfl, rfl, rfl, rfl, rfl, rfl, rfl, rfl, rfl, rfl, rfl⟩
    · exact ⟨_, moduleReset_fails hp ha (hf.trans (if_pos ⟨⟨h1, h8⟩, by simp [hn]⟩)), rfl, rfl, rfl⟩
  · have hn (i : Nat) : s.flash.recorded i = decide (j = i) := by simp [Flash.recorded, ha, beq_eq_decide]
    have hh : s.flash.halts = false := by
      rcases hj with rfl | rfl | rfl | rfl <;> simp [Flash.halts, ha, hb]
    have hB : s.flash.loadsB = decide (j = 2) := by simp [Flash.loadsB, hb, hn]
    have hf := Flash.failing_eq (f := s.flash) 0 (Flash.imageOk_of (by simpa [hB] using him) hv) (by simp [hrec])
    obtain ⟨t, ht, b⟩ := moduleReset_boots hp hh (hf.trans (if_neg (by omega)))
    exact ⟨t, ht, b.power, b.attempt, by rw [b.slotB, hB], by rw [b.reservoir, hn]; simp, by rw [b.half, hn],
      by rw [b.log, hn]; simp⟩
  · have hh : s.flash.halts = true := by
      rcases hj with (rfl | rfl | rfl | rfl) | ⟨rfl | rfl | rfl, hn⟩ <;> simp [Flash.halts, ha] <;> omega
    exact ⟨_, moduleReset_halts hp hh, rfl, rfl, rfl⟩

end Sys2Proof.Machine
end

section
/-! SUPPORT. Words of memory and of slots, the ready queue, and what a packet's arrival at a core does (R48, R52, R60). -/

namespace Sys2Proof.Machine

open Sys2Proof

/-! ## Words -/

theorem natOf_bytesOf (n v : Nat) : natOf (bytesOf n v) = v % 2 ^ (8 * n) := by
  induction n generalizing v with
  | zero => simp [bytesOf, natOf, Nat.mod_one]
  | succ n ih =>
    simp only [bytesOf, natOf, ih]
    rw [show 8 * (n + 1) = 8 + 8 * n by omega, pow_add, Nat.mod_mul]
    simp

/-- A word reads back as it was written. -/
theorem wordOf_bytesOf (w : Word) : wordOf (bytesOf 8 w.toNat) = w := by
  have := w.isLt
  rw [wordOf, natOf_bytesOf, Nat.mod_eq_of_lt (by omega), BitVec.ofNat_toNat, BitVec.setWidth_eq]

theorem Cells.word_write {m : List Host.Cell} (h : Memory.wf m = true) (a : Nat) (w : Word) :
    wordOf (Cells.read (Cells.write m a (bytesOf 8 w.toNat)) a 8) = w := by
  have hr := Cells.read_write (m := m) a (bytesOf 8 w.toNat) h
  rw [bytesOf_length] at hr
  rw [hr, wordOf_bytesOf]

theorem Cells.get_word_outside {m : List Host.Cell} (h : Memory.wf m = true) {a i : Nat} (w : Word) (hi : i < a ∨ a + 8 ≤ i) :
    Cells.get (Cells.write m a (bytesOf 8 w.toNat)) i = Cells.get m i :=
  Cells.get_write_outside a i _ h (by rwa [bytesOf_length])

/-- A field of a word that is written as a number. -/
theorem field_ofNat {v : Nat} (hi lo : Nat) (h : v < 2 ^ 64) :
    field (BitVec.ofNat 64 v) hi lo = v / 2 ^ lo % 2 ^ (hi + 1 - lo) := by
  rw [field, BitVec.toNat_ofNat, Nat.mod_eq_of_lt h, Nat.shiftRight_eq_div_pow]

theorem bitAt_ofNat (v : Nat) {i : Nat} (h : i < 64) : bitAt (BitVec.ofNat 64 v) i = decide (v / 2 ^ i % 2 = 1) := by
  rw [bitAt, BitVec.getLsbD_ofNat, decide_eq_true h, Bool.true_and, Nat.testBit_eq_decide_div_mod_eq]

/-! ## Slot words (Table 2-4) -/

/-- The parts of a slot word stand in their fields. -/
structure Slot.Fits (x : Slot) : Prop where
  entry : x.entry < 2 ^ 28
  pcls : x.pcls < 4
  count : x.count < 2 ^ 24

theorem Slot.word_eq {x : Slot} (h : x.Fits) :
    x.word = BitVec.ofNat 64 (x.entry * 2 ^ 32 + (x.pcls * 2 ^ 26 + (x.err.toNat * 2 ^ 25 + (x.armed.toNat * 2 ^ 24 + x.count)))) := by
  obtain ⟨h1, h2, h3⟩ := h
  have hb (b : Bool) : bitOf b = b.toNat := by cases b <;> rfl
  have he := Bool.toNat_lt x.err
  have ha := Bool.toNat_lt x.armed
  rw [Slot.word, BitVec.or_assoc, BitVec.or_assoc, BitVec.or_assoc, hb, hb, place_zero, place_or (by omega), place_or (by omega),
    place_or (by omega), place_or (by omega)]

theorem Slot.of_word {x : Slot} (h : x.Fits) : Slot.of x.word = x := by
  obtain ⟨h1, h2, h3⟩ := id h
  have he := Bool.toNat_lt x.err
  have ha := Bool.toNat_lt x.armed
  have hbit (b : Bool) : decide (b.toNat = 1) = b := by cases b <;> rfl
  rw [Slot.of, Slot.word_eq h, field_ofNat _ _ (by omega), field_ofNat _ _ (by omega), field_ofNat _ _ (by omega),
    bitAt_ofNat _ (by decide), bitAt_ofNat _ (by decide)]
  congr 1
  · omega
  · omega
  · refine Eq.trans (congrArg (fun n => decide (n = 1)) ?_) (hbit x.err)
    omega
  · refine Eq.trans (congrArg (fun n => decide (n = 1)) ?_) (hbit x.armed)
    omega
  · omega

theorem slotWordOk_word {x : Slot} (h : x.Fits) : slotWordOk x.word = true := by
  obtain ⟨h1, h2, h3⟩ := id h
  have he := Bool.toNat_lt x.err
  have ha := Bool.toNat_lt x.armed
  rw [slotWordOk, Slot.word_eq h, field_ofNat _ _ (by omega), field_ofNat _ _ (by omega)]
  simp
  omega

/-! ## The ready queue (R62, R288, R289) -/

theorem Core.onFrame_eq (c : Core) (fid : Nat) (f : Frame → Frame) :
    c.onFrame fid f = { c with frames := (c.onFrame fid f).frames } := by
  unfold Core.onFrame; split <;> rfl

@[simp] theorem Core.ready_onFrame (c : Core) (fid : Nat) (f : Frame → Frame) : (c.onFrame fid f).ready = c.ready := by
  rw [Core.onFrame_eq]

@[simp] theorem Core.lmem_touch (c : Core) (fid : Nat) : (c.touch fid).lmem = c.lmem := by
  rw [Core.touch, Core.onFrame_eq]

@[simp] theorem Core.ready_touch (c : Core) (fid : Nat) : (c.touch fid).ready = c.ready := by
  rw [Core.touch, Core.onFrame_eq]

/-- With room in the ready queue an entry joins its end, and the levels' lists follow. -/
theorem State.pushReady_room {s : State} {n : Nat} (region fid slot level : Nat) (resume : Bool)
    (h : (s.core n).ready.length < 1024) : ∃ drr, s.pushReady n region fid slot level resume = s.setCore n { s.core n with
      ready := (s.core n).ready ++ [⟨fid, slot, region, level, level, s.time, resume⟩], drr := drr } := by
  rw [State.pushReady, if_pos h, State.syncDrr_setCore]
  exact ⟨_, rfl⟩

/-- An entry of the ready queue, aged (R288). -/
def State.aged (s : State) (e : ReadyEntry) : ReadyEntry := { e with lvl := min 3 (e.level + (s.time - e.pushed) / 2000) }

theorem State.ageEntries_eq (s : State) (n : Nat) : ∃ drr, s.ageEntries n = s.setCore n { s.core n with
    ready := (s.core n).ready.map s.aged, drr := drr } := by
  rw [State.ageEntries, State.onCore_eq, State.syncDrr_setCore]
  exact ⟨_, rfl⟩

theorem State.canPush_room {s : State} {n : Nat} (region : Nat) (h : (s.core n).ready.length < 1024) :
    s.canPush n region = true := by
  simp [State.canPush, h]

theorem State.syncDrr_eq (s : State) (n : Nat) : ∃ drr, s.syncDrr n = s.setCore n { s.core n with drr := drr } := ⟨_, rfl⟩

/-! ## Parked and Held threadlets (R54, R64, R371) -/

/-- A Parked or Held threadlet of a Resident frame becomes Ready, where the ready queue has room. -/
theorem State.unpark_room {s : State} {n fid : Nat} {f : Frame} {p : Parked} (hf : (s.core n).frame fid = some f)
    (hp : f.parked = some p) (hr : p.ready = false) (hst : f.st = .resident) (hroom : (s.core n).ready.length < 1024) :
    ((s.unpark n fid).core n).frame fid = some { f with parked := some { p with ready := true } } ∧
      ((s.unpark n fid).core n).ready = (s.core n).ready ++ [⟨fid, p.slot, f.region, p.level, p.level, s.time, true⟩] := by
  have hframe : ((s.core n).onFrame fid fun f => { f with parked := some { p with ready := true } }).frame fid
      = some { f with parked := some { p with ready := true } } := by simp [hf]
  have hready : ((s.core n).onFrame fid fun f => { f with parked := some { p with ready := true } }).ready = (s.core n).ready :=
    Core.ready_onFrame ..
  have step : s.unpark n fid = (s.setCore n ((s.core n).onFrame fid fun f => { f with parked := some { p with ready := true } })).pushReady
      n f.region fid p.slot p.level true := by
    rw [State.unpark, hf]
    simp only [hp, hr, hst, State.canPush_room f.region hroom, State.onCore_eq, Bool.false_eq_true, if_false, and_self, if_true]
  rw [step]
  generalize (s.core n).onFrame fid _ = c at hframe hready
  obtain ⟨drr, hpush⟩ := State.pushReady_room (s := s.setCore n c) (n := n) f.region fid p.slot p.level true
    (by rw [State.core_setCore, if_pos rfl, hready]; exact hroom)
  rw [hpush, State.core_setCore, if_pos rfl, State.core_setCore, if_pos rfl]
  exact ⟨hframe, by rw [hready]; rfl⟩

end Sys2Proof.Machine
end

section
/-! PROOF. O51: what arrives at a core and at the service core, and the entries of an overflow segment. -/

namespace Sys2Proof.Machine

open Sys2Proof

/-! ## Signals (R48, R52) -/

/-- A signal without data that arrives at a slot. -/
def signalAt (fid slot dec region : Nat) (err : Bool) : Arrival :=
  { fid := fid, slot := slot, dec := dec, data := .none, err := err, region := region, sloti := none }

theorem exec_signalArrival_signal {s : State} {k n rgn dec : Nat} {cls : PClass} {src : Agent} {ref : Word} {d : SigData} {rel err : Bool}
    (hp : s.packet k = some ⟨cls, src, .core n, rgn, .signal ref dec d rel err⟩) :
    exec (.signalArrival k) s = .next ((s.drop k).arrive n { signalAt (Ref.of ref).fid (Ref.of ref).slot dec rgn err with data := d }) := by
  rw [exec_signalArrival, execSignalArrival, hp]
  rfl

section Slot

variable {s : State} {n fid slot dec region : Nat} {err : Bool} {f : Frame} {x : Slot}

/-- The slot word as a signal leaves it, before it fires. -/
def Slot.counted (x : Slot) (dec : Nat) (err : Bool) : Slot := { x with count := x.count - dec, err := x.err || err }

/-- The core after a signal was counted. -/
def Core.counted (c : Core) (fid at_ : Nat) (x : Slot) : Core :=
  Core.touch { c with lmem := Cells.write c.lmem at_ (bytesOf 8 x.word.toNat) } fid

section Arrives

variable (h4 : 4 ≤ slot) (hp : touches (s.core n).lpoison (f.base + 8 * slot) 8 = false)
  (hw : (s.core n).word (f.base + 8 * slot) = x.word) (hx : x.Fits)
include h4 hp hw hx

/-- The step of a signal on its slot word: reported where the slot is not armed or holds too little, counted otherwise, and
fired at zero. -/
theorem State.slotStep_signal : s.slotStep n f (signalAt fid slot dec region err) =
    if x.armed = false ∨ x.count < dec then
      s.sendRecord f.region { Rec.plain 0x08 3 f.region (.core n) with fid := fid, slot := slot }
    else
      let s1 := s.setCore n ((s.core n).counted fid (f.base + 8 * slot) (x.counted dec err))
      if x.count - dec = 0 then s1.fireSlot n fid slot f (x.counted dec err) else s1 := by
  have h0 : slot ≠ 0 := by omega
  have hof := Slot.of_word hx
  have hok := slotWordOk_word hx
  rw [← hw] at hof hok
  simp only [State.slotStep, signalAt, h0, hp, hok, hof, SigData.fits, if_false, Bool.not_true, Bool.false_eq_true]
  by_cases h : x.armed = false ∨ x.count < dec
  · rw [if_pos h, if_pos (by simpa using h)]
  · rw [if_neg h, if_neg (by simpa using h)]
    rfl

variable (hf : (s.core n).frame fid = some f) (hst : f.st = .resident) (hs : slot < frameWords f.cls)
  (hq : ∀ a ∈ (s.core n).refq, a.fid ≠ fid)
include hf hst hs hq

/-- A signal arrives at a slot of a Resident frame with nothing queued: it is performed, where its slot would not fire or its
entry finds room. -/
theorem State.arrive_slot (hroom : x.armed = true ∧ x.count = dec → (s.core n).ready.length < 1024) :
    s.arrive n (signalAt fid slot dec region err) = s.slotStep n f (signalAt fid slot dec region err) := by
  have hq' : ((s.core n).refq.any fun a => a.fid == fid) = false := by simpa using hq
  have hwait : (s.wouldFire n f (signalAt fid slot dec region err) && !s.canPush n f.region) = false := by
    by_cases h : x.armed = true ∧ x.count = dec
    · simp [State.canPush_room f.region (hroom h)]
    · have : s.wouldFire n f (signalAt fid slot dec region err) = false := by
        simp only [State.wouldFire, signalAt, hw, Slot.of_word hx]
        rcases not_and_or.1 h with ha | hc <;> simp [*]
      simp [this]
  have hrange : ¬ (slot < 4 ∨ frameWords f.cls ≤ slot) := by omega
  simp only [State.arrive, signalAt, hf, hrange, hst, hq'] at hwait ⊢
  simp [hwait, State.applySignal, State.acknowledge]

end Arrives

/-- The core with the word of a slot that fires, before its entry is pushed. -/
def Core.fired (c : Core) (fid slot at_ : Nat) (x : Slot) : Core :=
  ((c.touch fid).putWord at_ ({ x with armed := false, count := 0 } : Slot).word).onFrame fid fun f =>
    { f with armed := eraseNat f.armed slot }

theorem State.fireSlot_eq (s : State) (n fid slot : Nat) (f : Frame) (x : Slot) : s.fireSlot n fid slot f x
    = ((s.setCore n ((s.core n).fired fid slot (f.base + 8 * slot) x)).pushReady n f.region fid slot
        (s.levelOf f.region x.pcls) false).progress f.region := rfl

/-- A slot that fires, with room in the ready queue: its entry joins the queue, and its word is no longer armed (R48). -/
theorem State.fireSlot_room (h : (s.core n).ready.length < 1024) :
    ((s.fireSlot n fid slot f x).core n).ready
      = (s.core n).ready ++ [⟨fid, slot, f.region, s.levelOf f.region x.pcls, s.levelOf f.region x.pcls, s.time, false⟩] ∧
    ((s.fireSlot n fid slot f x).core n).lmem
      = Cells.write (s.core n).lmem (f.base + 8 * slot) (bytesOf 8 ({ x with armed := false, count := 0 } : Slot).word.toNat) := by
  have hready : ((s.core n).fired fid slot (f.base + 8 * slot) x).ready = (s.core n).ready := by simp [Core.fired, Core.putWord]
  have hlmem : ((s.core n).fired fid slot (f.base + 8 * slot) x).lmem = Cells.write (s.core n).lmem (f.base + 8 * slot)
      (bytesOf 8 ({ x with armed := false, count := 0 } : Slot).word.toNat) := by simp [Core.fired, Core.putWord]
  rw [State.fireSlot_eq]
  generalize (s.core n).fired fid slot (f.base + 8 * slot) x = c at hready hlmem
  obtain ⟨drr, hpush⟩ := State.pushReady_room (s := s.setCore n c) (n := n) f.region fid slot (s.levelOf f.region x.pcls) false
    (by rw [State.core_setCore, if_pos rfl, hready]; exact h)
  simp only [hpush, State.core_progress, State.core_setCore, if_true, hready, hlmem, and_true]
  rfl

end Slot

theorem exec_signalArrival_slot {s : State} {k n rgn dec : Nat} {src : Agent} {ref : Word} {rel err : Bool} {f : Frame} {x : Slot}
    (hp : s.packet k = some ⟨.sig, src, .core n, rgn, .signal ref dec .none rel err⟩)
    (hf : (s.core n).frame (Ref.of ref).fid = some f) (hst : f.st = .resident) (h4 : 4 ≤ (Ref.of ref).slot)
    (hs : (Ref.of ref).slot < frameWords f.cls) (hq : ∀ a ∈ (s.core n).refq, a.fid ≠ (Ref.of ref).fid)
    (hpo : touches (s.core n).lpoison (f.base + 8 * (Ref.of ref).slot) 8 = false)
    (hw : (s.core n).word (f.base + 8 * (Ref.of ref).slot) = x.word) (hx : x.Fits)
    (hroom : x.armed = true ∧ x.count = dec → (s.core n).ready.length < 1024) :
    exec (.signalArrival k) s = .next (if x.armed = false ∨ x.count < dec then
        (s.drop k).sendRecord f.region
          { Rec.plain 0x08 3 f.region (.core n) with fid := (Ref.of ref).fid, slot := (Ref.of ref).slot }
      else
        let s1 := (s.drop k).setCore n ((s.core n).counted (Ref.of ref).fid (f.base + 8 * (Ref.of ref).slot) (x.counted dec err))
        if x.count - dec = 0 then s1.fireSlot n (Ref.of ref).fid (Ref.of ref).slot f (x.counted dec err) else s1) :=
  (exec_signalArrival_signal hp).trans (congrArg _
    ((State.arrive_slot (s := s.drop k) h4 hpo hw hx hf hst hs hq hroom).trans (State.slotStep_signal (s := s.drop k) h4 hpo hw hx)))

/-- What a signal's arrival leaves of its slot and of the ready queue (R48, R52). -/
theorem signal_arrives {s : State} {k n rgn dec : Nat} {src : Agent} {ref : Word} {rel err : Bool} {f : Frame} {x : Slot}
    (hp : s.packet k = some ⟨.sig, src, .core n, rgn, .signal ref dec .none rel err⟩)
    (hf : (s.core n).frame (Ref.of ref).fid = some f) (hst : f.st = .resident) (h4 : 4 ≤ (Ref.of ref).slot)
    (hs : (Ref.of ref).slot < frameWords f.cls) (hq : ∀ a ∈ (s.core n).refq, a.fid ≠ (Ref.of ref).fid)
    (hpo : touches (s.core n).lpoison (f.base + 8 * (Ref.of ref).slot) 8 = false) (hm : Memory.wf (s.core n).lmem = true)
    (hw : (s.core n).word (f.base + 8 * (Ref.of ref).slot) = x.word) (hx : x.Fits) :
    let at_ := f.base + 8 * (Ref.of ref).slot
    (x.armed = true → dec < x.count → ∃ t, exec (.signalArrival k) s = .next t ∧ t.net = s.net.eraseIdx k ∧
      (t.core n).word at_ = Slot.word ⟨x.entry, x.pcls, x.err || err, true, x.count - dec⟩ ∧
      (∀ a, a < at_ ∨ at_ + 8 ≤ a → Cells.get (t.core n).lmem a = Cells.get (s.core n).lmem a) ∧
      (t.core n).ready = (s.core n).ready ∧ t.mem = s.mem) ∧
    (x.armed = true → dec = x.count → (s.core n).ready.length < 1024 → ∃ t, exec (.signalArrival k) s = .next t ∧
      (t.core n).word at_ = Slot.word ⟨x.entry, x.pcls, x.err || err, false, 0⟩ ∧
      (t.core n).ready = (s.core n).ready ++ [⟨(Ref.of ref).fid, (Ref.of ref).slot, f.region, s.levelOf f.region x.pcls,
        s.levelOf f.region x.pcls, s.time, false⟩]) ∧
    (x.armed = false ∨ x.count < dec → s.domainOf f.region = some 1 → ∃ t, exec (.signalArrival k) s = .next t ∧
      t.SameCores s ∧ t.Reports 0x08 3 (.core n)) := by
  intro at_
  have step := exec_signalArrival_slot hp hf hst h4 hs hq hpo hw hx
  refine ⟨fun ha hd => ?_, fun ha hd hroom => ?_, fun h hdom => ?_⟩
  · have hno : ¬ (x.armed = false ∨ x.count < dec) := by simp [ha]; omega
    have hstep : exec (.signalArrival k) s
        = .next ((s.drop k).setCore n ((s.core n).counted (Ref.of ref).fid at_ (x.counted dec err))) :=
      (step (by omega)).trans (congrArg _ ((if_neg hno).trans (if_neg (by omega))))
    refine ⟨_, hstep, rfl, ?_, fun a hout => ?_, ?_, rfl⟩
    · rw [State.core_setCore, if_pos rfl, Core.word, Core.counted, Core.lmem_touch, Cells.word_write hm, ← ha]
      rfl
    · rw [State.core_setCore, if_pos rfl, Core.counted, Core.lmem_touch, Cells.get_word_outside hm _ hout]
    · rw [State.core_setCore, if_pos rfl, Core.counted, Core.ready_touch]
  · have hno : ¬ (x.armed = false ∨ x.count < dec) := by simp [ha]; omega
    have hstep : exec (.signalArrival k) s
        = .next (((s.drop k).setCore n ((s.core n).counted (Ref.of ref).fid at_ (x.counted dec err))).fireSlot n (Ref.of ref).fid
            (Ref.of ref).slot f (x.counted dec err)) :=
      (step fun _ => hroom).trans (congrArg _ ((if_neg hno).trans (if_pos (by omega))))
    have hcore : ((s.drop k).setCore n ((s.core n).counted (Ref.of ref).fid at_ (x.counted dec err))).core n
        = (s.core n).counted (Ref.of ref).fid at_ (x.counted dec err) := (State.core_setCore ..).trans (if_pos rfl)
    obtain ⟨hready, hlmem⟩ := State.fireSlot_room
      (s := (s.drop k).setCore n ((s.core n).counted (Ref.of ref).fid at_ (x.counted dec err))) (n := n) (fid := (Ref.of ref).fid)
      (slot := (Ref.of ref).slot) (f := f) (x := x.counted dec err) (by rw [hcore, Core.counted, Core.ready_touch]; exact hroom)
    refine ⟨_, hstep, ?_, ?_⟩
    · rw [Core.word, hlmem, Cells.word_write (by rw [hcore, Core.counted, Core.lmem_touch]; exact Memory.wf_write _ _ hm)]
      rfl
    · rw [hready, hcore, Core.counted, Core.ready_touch]
      rfl
  · have hnot : ¬ (x.armed = true ∧ x.count = dec) := by rcases h with h | h <;> simp [h]; omega
    exact ⟨_, (step fun k => (hnot k).elim).trans (congrArg _ (if_pos h)),
      fun m => by rw [State.core_sendRecord]; rfl,
      State.sendRecord_reports (s := s.drop k) hdom rfl rfl rfl (by decide)⟩

/-- A signal to a frame that does not exist is reported (R52). -/
theorem State.arrive_noFrame {s : State} {n : Nat} {a : Arrival} (hf : (s.core n).frame a.fid = none) (ha : a.ack = none) :
    s.arrive n a = s.sendRecord a.region { Rec.plain 0x09 3 a.region (.core n) with fid := a.fid, slot := a.slot } := by
  rw [State.arrive, hf]
  simp only [State.acknowledge, ha]

/-! ## Messages (R60, R61) -/

section Message

variable {s : State} {k n rgn handler : Nat} {src : Agent} {addr : Word} {payload : List Word} {q : Option Nat}

/-- The packet of a message. -/
def message (src : Agent) (n rgn handler : Nat) (addr : Word) (payload : List Word) (q : Option Nat) : Packet :=
  ⟨.sig, src, .core n, rgn, .amsg handler addr payload q⟩

theorem exec_activeMessageDelivery_message (hp : s.packet k = some (message src n rgn handler addr payload q)) :
    exec (.activeMessageDelivery k) s = .next (s.deliverMessage k n (message src n rgn handler addr payload q)) := by
  rw [exec_activeMessageDelivery, execActiveMessageDelivery, hp]
  rfl

/-- The state in which a message is taken up: out of the network, its handler's header read. -/
def State.taken (s : State) (k n rgn handler : Nat) : State :=
  (s.drop k).readEntry n (s.asid rgn) (s.handlerVa rgn handler) 0

theorem State.taken_sameButCode (s : State) (k n rgn handler : Nat) : (s.drop k).SameButCode (s.taken k n rgn handler) :=
  State.readEntry_sameButCode ..

/-- A message whose handler waits for no page is taken up. -/
theorem State.deliverMessage_taken {chk : Except CodeStop Header} {t : State}
    (hc : s.checkHandler n rgn (s.handlerVa rgn handler) = chk) (hz : ∀ z, chk ≠ .error (.page z))
    (ht : (s.taken k n rgn handler).takeMessage n (message src n rgn handler addr payload q) chk = some t) :
    s.deliverMessage k n (message src n rgn handler addr payload q) = t := by
  have hchk : s.handlerOf n (message src n rgn handler addr payload q) = chk := hc
  have hpage : s.handlerPage n (message src n rgn handler addr payload q) = none := by
    unfold State.handlerPage
    rw [hchk]
    split
    · exact (hz _ rfl).elim
    · rfl
  have hread : (s.drop k).readHandler n (message src n rgn handler addr payload q) = s.taken k n rgn handler := rfl
  unfold State.deliverMessage
  simp only [hpage, hchk, hread, ht]

/-- A message whose handler waits for a page waits for it (R205). -/
theorem State.deliverMessage_page {z : Option Zeroing}
    (hc : s.checkHandler n rgn (s.handlerVa rgn handler) = .error (.page z)) :
    s.deliverMessage k n (message src n rgn handler addr payload q) = s.awaitPage z := by
  have hpage : s.handlerPage n (message src n rgn handler addr payload q) = some z := by
    unfold State.handlerPage
    rw [show s.handlerOf n (message src n rgn handler addr payload q) = .error (.page z) from hc]
  unfold State.deliverMessage
  simp only [hpage]

/-- A message whose handler's header fails a check is reported (R90). -/
theorem message_refused {code : Nat} (hp : s.packet k = some (message src n rgn handler addr payload q))
    (hc : s.checkHandler n rgn (s.handlerVa rgn handler) = .error (.fault code)) (hd : s.domainOf rgn = some 1) :
    ∃ t, exec (.activeMessageDelivery k) s = .next t ∧ t.SameCores s ∧ t.Reports 0x15 3 (.core n) := by
  have hu := (s.taken_sameButCode k n rgn handler).1
  refine ⟨_, (exec_activeMessageDelivery_message hp).trans (congrArg _ (State.deliverMessage_taken hc nofun rfl)), fun m => ?_, ?_⟩
  · rw [message, State.badHandler, State.core_sendRecord, hu]
    rfl
  · exact State.sendRecord_reports (s := s.taken k n rgn handler) (by rw [hu]; exact hd) rfl rfl rfl (by decide)

/-- Without its queue and its segment, a core after a message went into a new frame of it: the handler noted, and the message's
words from frame word 4 on (R60). -/
def Core.withMessage (c : Core) (fid : Nat) (f : Frame) (handler : Nat) (body : List Word) : Core :=
  (c.onFrame fid fun f => { f with handler := handler }).putData { f with handler := handler } 0 (.words 3 body)

theorem Core.lmem_withMessage (c : Core) (fid : Nat) (f : Frame) (handler : Nat) (body : List Word) :
    (c.withMessage fid f handler body).lmem = Cells.write c.lmem (f.base + 32) (bytesOfWords body) := by
  simp [Core.withMessage, Core.putData, Core.put]

theorem Core.ready_withMessage (c : Core) (fid : Nat) (f : Frame) (handler : Nat) (body : List Word) :
    (c.withMessage fid f handler body).ready = c.ready := by
  simp [Core.withMessage, Core.putData, Core.put, Core.disarm]

theorem Core.frame_withMessage {c : Core} {fid : Nat} {f : Frame} (hf : c.frame fid = some f) (handler : Nat) (body : List Word) :
    ∃ armed, (c.withMessage fid f handler body).frame fid = some { f with handler := handler, armed := armed } := by
  obtain ⟨g, hg⟩ := (c.onFrame fid fun f => { f with handler := handler }).frame_disarm (f.base + 8 * (0 + 1 + 3))
    (bytesOfWords body).length fid
  refine ⟨g f.armed, hg.trans ?_⟩
  simp [hf]

theorem State.deliver_resident {d : Delivery} {h : Header} {fid : Nat} {c : Core} {f : Frame}
    (hroom : (s.core n).ready.length < 1024) (ha : s.allocFrame n d.region h.fcls = some (fid, s.setCore n c))
    (hf : c.frame fid = some f) (hst : f.st = .resident) :
    s.deliver n d h = some ((((s.setCore n (c.withMessage fid f d.handler d.body)).pushReady n d.region fid 0
      (s.levelOf d.region 0) false).progress d.region)) := by
  have hf' : (c.onFrame fid fun f => { f with handler := d.handler }).frame fid = some { f with handler := d.handler } := by
    simp [hf]
  rw [State.deliver, State.canPush_room d.region hroom, ha]
  simp only [Bool.not_true, Bool.false_eq_true, if_false, State.onCore_eq, State.core_setCore, if_true, State.setCore_setCore, hf', hst]
  rfl

/-- A message is delivered into a new frame (R60). -/
theorem message_delivered {h : Header} {fid base arena : Nat} {rg : Region}
    (hp : s.packet k = some (message src n rgn handler addr payload q)) (hl : payload.length = 6)
    (hc : s.checkHandler n rgn (s.handlerVa rgn handler) = .ok h) (hroom : (s.core n).ready.length < 1024)
    (hspare : s.frameToSpare n rgn = true) (hm : Memory.wf (s.core n).lmem = true) (hg : s.region rgn = some rg)
    (ha : s.arenaSlot n rg = some arena) (hfid : (s.core n).freeFid = some fid)
    (hq : (s.core n).residentOf rgn < rg.fquota) (hb : s.freeRun n h.fcls = some base) :
    ∃ t f, exec (.activeMessageDelivery k) s = .next t ∧ (t.core n).frame fid = some f ∧ f.st = .resident ∧
      f.region = rgn ∧ f.cls = h.fcls ∧ f.base = base ∧ f.handler = handler ∧
      Cells.read (t.core n).lmem (base + 32) 56 = bytesOfWords (addr :: payload) ∧
      (t.core n).ready = (s.core n).ready ++ [⟨fid, 0, rgn, s.levelOf rgn 0, s.levelOf rgn 0, s.time, false⟩] := by
  have hu := (s.taken_sameButCode k n rgn handler).1
  generalize hs1 : s.taken k n rgn handler = u at hu
  have hcore : u.core n = s.core n := by rw [hu]; rfl
  have hlevel : u.levelOf rgn 0 = s.levelOf rgn 0 := by rw [hu]; rfl
  have htime : u.time = s.time := by rw [hu]; rfl
  obtain ⟨c, f, k'⟩ := allocated_resident (s := u) (n := n) (region := rgn) (cls := h.fcls) (fid := fid) (arena := arena) (g := rg)
    (b := base) (by rw [hu]; exact hg) (by rw [hu]; exact ha) (by rw [hcore]; exact hfid) (by rw [hcore]; exact hq)
    (by rw [hu]; exact hb)
  obtain ⟨hst, hbase, hlmem⟩ := k'.resident base (by rw [hcore]; exact hq) (by rw [hu]; exact hb)
  have hready : c.ready = (s.core n).ready := by rw [k'.core, hcore]
  have hspare' : u.frameToSpare n rgn = true := by rw [hu]; exact hspare
  have hfree : u.frameFree n rgn h.fcls = true := by simp [State.frameFree, k'.step]
  have deliver : u.deliver n ⟨rgn, handler, addr :: payload⟩ h
      = some (((u.setCore n (c.withMessage fid f handler (addr :: payload))).pushReady n rgn fid 0 (u.levelOf rgn 0) false).progress rgn) :=
    State.deliver_resident (s := u) (n := n) (d := ⟨rgn, handler, addr :: payload⟩) (h := h) (by rw [hcore]; exact hroom)
      k'.step k'.frame hst
  have take : u.takeMessage n (message src n rgn handler addr payload q) (.ok h)
      = u.deliver n ⟨rgn, handler, addr :: payload⟩ h := by
    simp only [State.takeMessage, message, State.receive, hfree, hspare', Bool.and_self, if_true]
  have step := (exec_activeMessageDelivery_message hp).trans
    (congrArg _ (State.deliverMessage_taken hc nofun (by rw [hs1]; exact take.trans deliver)))
  obtain ⟨armed, hframe⟩ := Core.frame_withMessage k'.frame handler (addr :: payload)
  obtain ⟨drr, hpush⟩ := State.pushReady_room (s := u.setCore n (c.withMessage fid f handler (addr :: payload))) (n := n) rgn fid 0
    (u.levelOf rgn 0) false (by rw [State.core_setCore, if_pos rfl, Core.ready_withMessage, hready]; exact hroom)
  have hread : Cells.read (c.withMessage fid f handler (addr :: payload)).lmem (base + 32) 56 = bytesOfWords (addr :: payload) := by
    have hlen : (bytesOfWords (addr :: payload)).length = 56 := by rw [bytesOfWords_length, List.length_cons, hl]
    rw [Core.lmem_withMessage, hbase, ← hlen]
    refine Cells.read_write _ _ ?_
    rw [hlmem, hcore]
    exact Memory.wf_write _ _ (Memory.wf_clear _ _ hm)
  refine ⟨_, { f with handler := handler, armed := armed }, step, ?_, hst, by rw [k'.form]; rfl, by rw [k'.form]; rfl, hbase, rfl, ?_, ?_⟩
  all_goals rw [State.core_progress, hpush, State.core_setCore, if_pos rfl, State.core_setCore, if_pos rfl]
  · exact hframe
  · exact hread
  · rw [Core.ready_withMessage, hready, hlevel, ← htime]
    rfl

end Message

/-! ## Records for the service core (R282) -/

theorem record_kept {s : State} {k rgn dom h : Nat} {src : Agent} {ws : List Word}
    (hp : s.packet k = some ⟨.sig, src, .service, rgn, .record dom h ws⟩) : ∃ t, exec (.faultRecordDelivery k) s = .next t ∧
      t.service.records = s.service.records ++ [ws] ∧ t.SameCores s ∧ t.net = s.net.eraseIdx k := by
  refine ⟨_, by rw [exec_faultRecordDelivery, execFaultRecordDelivery, hp], ?_⟩
  dsimp only
  split
  · exact ⟨rfl, fun _ => rfl, rfl⟩
  · refine ⟨?_, fun m => by rw [State.core_progress]; rfl, by rw [State.net_progress]; rfl⟩
    rw [State.progress, State.onRegion]
    split <;> rfl

/-! ## RESUME at the holding core (R305) -/

/-- A word of a frame changed where it stands: in local memory of a Resident frame. -/
theorem State.core_changeWord {s : State} {n fid : Nat} {f : Frame} (hf : (s.core n).frame fid = some f) (hs : f.snap = none) (off : Nat)
    (g : Word → Word) : ∃ lmem, (s.changeWord n fid off g).core n = { s.core n with lmem := lmem } ∧
      (f.st = .resident → lmem = Cells.write (s.core n).lmem (f.base + 8 * off)
        (bytesOf 8 (g ((s.core n).word (f.base + 8 * off))).toNat)) := by
  unfold State.changeWord
  rw [hf]
  dsimp only
  split
  · exact ⟨_, (State.core_onCore ..).trans (if_pos rfl), fun _ => rfl⟩
  · next hst =>
    rw [hs]
    exact ⟨_, State.core_of_cores (State.store_only ..).cores n, fun h => absurd h hst⟩

/-- A threadlet that has not freed its own frame is Retired and leaves its core as it is. -/
theorem State.core_retire {s : State} {n fid tid : Nat} {f : Frame} (region : Nat) (hf : (s.core n).frame fid = some f)
    (ho : tid ∉ f.ownFree) : (s.retire n fid region (some tid)).core n = s.core n := by
  have hcore : ((s.trace n region fid 4).progress region).core n = s.core n := by simp
  unfold State.retire
  simp only [hcore, hf, Option.any_some]
  rw [if_neg (by simpa using ho), hcore]

/-- The core without what an aborted threadlet had, its frame's threadlet gone. -/
def Core.aborted (c : Core) (fid : Nat) (p : Parked) (hold : SMap HoldEntry) : Core :=
  ({ c.discard p.tid with hold := hold, ready := c.ready.filter fun e => !(e.fid == fid && e.resume) } : Core).onFrame fid fun f =>
    { f with parked := none }

/-- A Parked or Held threadlet aborted leaves its frame, no entry that resumes it, and no PARKOFF in a Resident frame. -/
theorem State.abortParked_leaves {s : State} {n fid : Nat} {f : Frame} {p : Parked} (hf : (s.core n).frame fid = some f)
    (hp : f.parked = some p) (ho : p.tid ∉ f.ownFree) (hs : f.snap = none) :
    ((s.abortParked n fid).core n).frame fid = some { f with parked := none } ∧
      (f.st = .resident → ((s.abortParked n fid).core n).lmem = Cells.write (s.core n).lmem (f.base + 16) (bytesOf 8 0)) ∧
      ((s.abortParked n fid).core n).ready = (s.core n).ready.filter fun e => !(e.fid == fid && e.resume) := by
  obtain ⟨lmem, hc, hl⟩ := State.core_changeWord hf hs 2 fun _ => 0
  have step : ∃ hold, s.abortParked n fid = (((s.changeWord n fid 2 fun _ => 0).setCore n
      (((s.changeWord n fid 2 fun _ => 0).core n).aborted fid p hold)).retire n fid f.region (some p.tid)).syncDrr n := by
    rw [State.abortParked, hf]
    simp only [hp]
    exact ⟨_, rfl⟩
  obtain ⟨hold, step⟩ := step
  have hframe : (((s.changeWord n fid 2 fun _ => 0).core n).aborted fid p hold).frame fid = some { f with parked := none } := by
    rw [hc, Core.aborted, Core.frame_onFrame, if_pos rfl]
    exact congrArg (Option.map _) hf
  have hlmem : (((s.changeWord n fid 2 fun _ => 0).core n).aborted fid p hold).lmem = lmem := by
    rw [hc, Core.aborted, Core.lmem_onFrame]; rfl
  have hready : (((s.changeWord n fid 2 fun _ => 0).core n).aborted fid p hold).ready
      = (s.core n).ready.filter fun e => !(e.fid == fid && e.resume) := by
    rw [hc, Core.aborted, Core.ready_onFrame]
  generalize ((s.changeWord n fid 2 fun _ => 0).core n).aborted fid p hold = c at step hframe hlmem hready
  generalize s.changeWord n fid 2 (fun _ => 0) = u at step
  have hcore : ((u.setCore n c).core n) = c := (State.core_setCore ..).trans (if_pos rfl)
  obtain ⟨drr, hsync⟩ := State.syncDrr_eq ((u.setCore n c).retire n fid f.region (some p.tid)) n
  have hret := State.core_retire (s := u.setCore n c) (n := n) (tid := p.tid) (f := { f with parked := none }) f.region
    (by rw [hcore]; exact hframe) ho
  rw [step, hsync, State.core_setCore, if_pos rfl, hret, hcore]
  exact ⟨hframe, fun hst => hlmem.trans (hl hst), hready⟩

section Resume

variable {s : State} {k n fid form : Nat} {src : Agent} {token : Word} {org : Origin}
  (hp : s.packet k = some ⟨.req, src, .core n, org.region, .resume form token org⟩) (hfid : field token 31 16 = fid) (hform : form ≤ 1)
include hp hfid hform

/-- RESUME or RESUME.ABT by the device region, of a Held threadlet. -/
theorem resume_held {f : Frame} {p : Parked} (hreg : org.region = 1) (hf : (s.core n).frame fid = some f) (hpk : f.parked = some p)
    (hw : p.wait = .faultDomain) (hr : p.ready = false) :
    exec (.resumeAct k) s = .next (if form = 0 then (s.drop k).unpark n fid else (s.drop k).abortParked n fid) := by
  have hf' : ((s.drop k).core n).frame fid = some f := hf
  rw [exec_resumeAct, execResumeAct, hp]
  have hheld : (f.parked.any fun p => p.wait == .faultDomain && !p.ready) = true := by simp [hpk, hw, hr]
  simp only [hform, hfid, hf', hheld, hreg, State.mayResume, if_true]
  simp

/-- A token that names no frame is a bad reference. -/
theorem resume_noFrame (hf : (s.core n).frame fid = none) :
    exec (.resumeAct k) s = .next ((s.drop k).sendRecord org.region (Rec.of 0x09 9 (.core n) org 0 token)) := by
  have hf' : ((s.drop k).core n).frame fid = none := hf
  rw [exec_resumeAct, execResumeAct, hp]
  simp only [hform, hfid, hf', if_true]

end Resume

theorem token_fid {n fid : Nat} (hn : n < 2048) (hf : fid < 65536) :
    field (BitVec.ofNat 64 (2 ^ 62 + n * 2 ^ 32 + fid * 2 ^ 16)) 31 16 = fid := by
  rw [field_ofNat _ _ (by omega)]
  omega

/-! ## Overflow segments (R63, R6) -/

theorem State.bumpHead_only (s : State) (g : Region) (n : Nat) : s.MemoryOnly (s.bumpHead g n) := s.store_only ..

theorem State.advanceHead_only (s : State) (g : Region) (n k : Nat) : s.MemoryOnly (s.advanceHead g n k) := by
  refine .foldl _ (fun t _ => ?_) _ _
  split
  · exact t.bumpHead_only g n
  · exact .refl t

/-- Taking an entry writes global memory alone. -/
theorem State.takeEntry_only (s : State) (g : Region) (n k : Nat) : s.MemoryOnly (s.takeEntry g n k) := by
  refine State.MemoryOnly.trans ?_ (State.advanceHead_only _ g n _)
  split
  · exact s.bumpHead_only g n
  · exact s.store_only ..

section Overflow

variable {s : State} {n rgn : Nat} {g : Region} {ws : List Word} (hg : s.region rgn = some g)
  (he : s.segmentEntry g n 0 = some ws) (hk : entryKind ws ≠ 15)
include hg he hk

/-- A segment whose header has a nonzero reserved field gives no entry. -/
theorem overflow_badHeader (hs : s.segmentOk g n = false) :
    exec (.overflowEntryTake n rgn 0) s = .next (s.segmentFault n rgn) := by
  have first : ¬ (s.earlierEntry g n 0 ws = true ∨ entryKind ws = 15) := not_or.2 ⟨nofun, hk⟩
  rw [exec_overflowEntryTake, execOverflowEntryTake, hg]
  simp only [he, if_neg first, hs, Bool.not_false, if_true]

/-- An entry with a nonzero reserved field is taken and discarded. -/
theorem overflow_badEntry (hs : s.segmentOk g n = true) (ho : entryOk ws = false) :
    ∃ waitq, exec (.overflowEntryTake n rgn 0) s
      = .next (((s.takeEntry g n 0).onCore n fun c => { c with waitq := waitq }).segmentFault n rgn) := by
  have first : ¬ (s.earlierEntry g n 0 ws = true ∨ entryKind ws = 15) := not_or.2 ⟨nofun, hk⟩
  rw [exec_overflowEntryTake, execOverflowEntryTake, hg]
  simp only [he, if_neg first, hs, ho, Bool.not_true, Bool.not_false, Bool.false_eq_true, if_false, if_true]
  exact ⟨_, rfl⟩

/-- The ready entry of a start or resume entry of a segment (Table 2-11). -/
def startEntry (ws : List Word) : ReadyEntry :=
  { fid := field (wordAt ws 0) 31 16, slot := field (wordAt ws 0) 11 0, region := entryRegion ws
    level := field (wordAt ws 0) 59 58, lvl := field (wordAt ws 0) 59 58, pushed := (wordAt ws 1).toNat
    resume := entryKind ws == 1 }

/-- A start or resume entry joins the ready queue while it has room. -/
theorem overflow_start (hs : s.segmentOk g n = true) (ho : entryOk ws = true) (hstart : entryKind ws ≤ 1)
    (hroom : (s.core n).ready.length < 1024) : exec (.overflowEntryTake n rgn 0) s
      = .next (((s.takeEntry g n 0).onCore n fun c => { c with ready := c.ready ++ [startEntry ws] }).ageEntries n) := by
  have first : ¬ (s.earlierEntry g n 0 ws = true ∨ entryKind ws = 15) := not_or.2 ⟨nofun, hk⟩
  rw [exec_overflowEntryTake, execOverflowEntryTake, hg]
  simp only [he, if_neg first, hs, ho, hstart, hroom, Bool.not_true, Bool.false_eq_true, if_false, if_true]
  rfl

end Overflow

/-- The words of a start entry name its frame, slot, region, level and time. -/
theorem startEntry_eq {ws : List Word} {fid slot rgn lvl time : Nat} (hf : fid < 65536) (hs : slot < 4096) (hl : lvl < 4)
    (hr : rgn < 65536) (ht : time < 2 ^ 64)
    (hw : ws.take 2 = [BitVec.ofNat 64 (lvl * 2 ^ 58 + rgn * 2 ^ 32 + fid * 2 ^ 16 + slot), BitVec.ofNat 64 time]) :
    entryKind ws = 0 ∧ startEntry ws = ⟨fid, slot, rgn, lvl, lvl, time, false⟩ := by
  have h0 : wordAt ws 0 = wordAt (ws.take 2) 0 := by cases ws <;> rfl
  have h1 : wordAt ws 1 = wordAt (ws.take 2) 1 := by rcases ws with _ | ⟨a, _ | ⟨b, l⟩⟩ <;> rfl
  rw [hw] at h0 h1
  simp only [wordAt, List.getD_cons_zero, List.getD_cons_succ] at h0 h1
  have hfield (hi lo : Nat) : field (wordAt ws 0) hi lo
      = (lvl * 2 ^ 58 + rgn * 2 ^ 32 + fid * 2 ^ 16 + slot) / 2 ^ lo % 2 ^ (hi + 1 - lo) := by
    rw [wordAt, h0, field_ofNat _ _ (by omega)]
  have hkind : entryKind ws = 0 := by rw [entryKind, hfield]; omega
  refine ⟨hkind, ?_⟩
  rw [startEntry, hkind, entryRegion, hfield, hfield, hfield, hfield, wordAt, h1, BitVec.toNat_ofNat, Nat.mod_eq_of_lt ht]
  congr 1 <;> omega

/-- A start entry returns to the ready queue, at its end. -/
theorem overflow_returns {s : State} {n rgn fid slot lvl time : Nat} {g : Region} {ws : List Word} (hg : s.region rgn = some g)
    (he : s.segmentEntry g n 0 = some ws) (hs : s.segmentOk g n = true) (ho : entryOk ws = true)
    (hkind : entryKind ws = 0) (hstart : startEntry ws = ⟨fid, slot, rgn, lvl, lvl, time, false⟩)
    (hroom : (s.core n).ready.length < 1024) : ∃ t e, exec (.overflowEntryTake n rgn 0) s = .next t ∧
      (t.core n).ready.length = (s.core n).ready.length + 1 ∧ (t.core n).ready.getLast? = some e ∧
      e.fid = fid ∧ e.slot = slot ∧ e.region = rgn ∧ e.level = lvl ∧ e.pushed = time ∧ e.resume = false := by
  have step := overflow_start hg he (by omega) hs ho (by omega) hroom
  have hcore := State.core_of_cores (s.takeEntry_only g n 0).cores n
  generalize s.takeEntry g n 0 = u at step hcore
  generalize hv : (u.onCore n fun c => { c with ready := c.ready ++ [startEntry ws] }) = v at step
  have hready : (v.core n).ready = (s.core n).ready ++ [⟨fid, slot, rgn, lvl, lvl, time, false⟩] := by
    rw [← hv, State.core_onCore, if_pos rfl, hcore, hstart]
  obtain ⟨drr, hage⟩ := State.ageEntries_eq v n
  have haged : ((v.ageEntries n).core n).ready
      = (s.core n).ready.map v.aged ++ [v.aged ⟨fid, slot, rgn, lvl, lvl, time, false⟩] := by
    rw [hage, State.core_setCore, if_pos rfl, hready, List.map_append]
    rfl
  exact ⟨_, v.aged ⟨fid, slot, rgn, lvl, lvl, time, false⟩, step, by simp [haged], by simp [haged], rfl, rfl, rfl, rfl, rfl, rfl⟩

/-- Settles O51: what each arrival leaves (R48, R52, R60, R63, R282, R305). -/
theorem arrivalEvents : Obligations.ArrivalEvents := by
  refine ⟨?signals, ?noFrame, ?messages, fun s k rgn dom h src ws hp => record_kept hp, ?resumes, ?segments⟩
  case signals =>
    intro s k n rgn dec fid slot entry pcls count src ref rel err e armed f hp hfid hslot hf hst h4 hs hq hpo hm he hpc hc hw
    subst hfid hslot
    exact signal_arrives hp hf hst h4 hs hq hpo hm (x := ⟨entry, pcls, e, armed, count⟩) hw ⟨he, hpc, hc⟩
  case noFrame =>
    intro s k n rgn dec src ref d rel err hp hf hd
    have step := (exec_signalArrival_signal hp).trans (congrArg _ (State.arrive_noFrame (s := s.drop k) hf rfl))
    exact ⟨_, step, fun m => (State.core_sendRecord (s.drop k) ..).symm, State.sendRecord_reports (s := s.drop k) hd rfl rfl rfl (by decide)⟩
  case messages =>
    intro s k n rgn handler fid base src addr payload q rg arena hp hl
    exact ⟨fun code hc hd => message_refused hp hc hd,
      fun z hc => (exec_activeMessageDelivery_message hp).trans (congrArg _ (State.deliverMessage_page hc)),
      fun h hc hroom hspare hm hg ha hfid hq hb => message_delivered hp hl hc hroom hspare hm hg ha hfid hq hb⟩
  case resumes =>
    intro s k n fid src token org form hp hreg htok hn hfid
    have htf : field token 31 16 = fid := htok ▸ token_fid hn hfid
    refine ⟨fun f p hf hpk hw hr => ⟨fun h0 hst hroom => ?_, fun h1 ho hs => ?_⟩, fun hf hform hd => ?_⟩
    · exact ⟨_, (resume_held hp htf (by omega) hreg hf hpk hw hr).trans (congrArg _ (if_pos h0)),
        State.unpark_room (s := s.drop k) hf hpk hr hst hroom⟩
    · obtain ⟨hframe, hlmem, hready⟩ := State.abortParked_leaves (s := s.drop k) (n := n) hf hpk ho hs
      refine ⟨_, (resume_held hp htf (by omega) hreg hf hpk hw hr).trans (congrArg _ (if_neg (by omega))), hframe,
        fun hst hm => ?_, fun e hmem => ?_⟩
      · rw [Core.word, hlmem hst]
        exact Cells.word_write hm _ 0
      · rw [hready] at hmem
        rintro ⟨h1, h2⟩
        simpa [h1, h2] using (List.mem_filter.1 hmem).2
    · exact ⟨_, resume_noFrame hp htf hform hf, fun m => (State.core_sendRecord (s.drop k) ..).symm,
        State.sendRecord_reports (s := s.drop k) (by rw [hreg]; exact hd) rfl rfl rfl (by decide)⟩
  case segments =>
    intro s n rgn g ws hg he hk
    have hk' : entryKind ws ≠ 15 := by
      rw [entryKind, field_eq]
      intro h
      have hhead : ws.headD 0 = wordAt ws 0 := by cases ws <;> rfl
      exact hk (BitVec.eq_of_toNat_eq (hhead ▸ h))
    refine ⟨fun hs hd => ?_, fun hs ho hd => ?_, fun fid slot lvl time hs ho hf hsl hl hr ht hw hroom => ?_⟩
    · exact ⟨_, overflow_badHeader hg he hk' hs, fun m => (State.core_sendRecord ..).symm, (State.sendRecord_sameStores ..).sameBytes,
        State.sendRecord_reports hd rfl rfl rfl (by decide)⟩
    · obtain ⟨waitq, step⟩ := overflow_badEntry hg he hk' hs ho
      have only := s.takeEntry_only g n 0
      have hcore := State.core_of_cores only.cores n
      refine ⟨_, step, ?_, ?_, State.sendRecord_reports ?_ rfl rfl rfl (by decide)⟩
      · rw [State.segmentFault, State.core_sendRecord, State.core_onCore, if_pos rfl, hcore]
      · rw [State.segmentFault, State.core_sendRecord, State.core_onCore, if_pos rfl, hcore]
      · exact (State.domainOf_of (s := s) only.regions rgn).trans hd
    · obtain ⟨hkind, hstart⟩ := startEntry_eq hf hsl hl hr ht hw
      exact overflow_returns hg he hs ho hkind hstart hroom

end Sys2Proof.Machine
end

section
/-! SUPPORT. What an entry's checks read of the state (R90, R198, R206): nothing of a core but its cached translations. -/

namespace Sys2Proof.Machine

open Sys2Proof

/-! ## Reads of memory -/

/-- The states agree but for their cores, the caches of their chiplets and the lines their slices hold. -/
def State.Agrees (s t : State) : Prop := t = { s with cores := t.cores, chips := t.chips, slices := t.slices }

theorem State.Agrees.trans {s t u : State} (h : s.Agrees t) (k : t.Agrees u) : s.Agrees u := by
  rw [State.Agrees] at *
  rw [k, h]

theorem State.touchLine_eq (s : State) (i line : Nat) (evp : Evp) (write : Bool) :
    ∃ l, s.touchLine i line evp write = { s with slices := l } := by
  unfold State.touchLine
  repeat' (first | dsimp only | split)
  all_goals exact ⟨_, rfl⟩

theorem State.touchLines_eq (s : State) (a n : Nat) (write : Bool) : ∃ l, s.touchLines a n write = { s with slices := l } := by
  unfold State.touchLines
  split
  · exact ⟨_, rfl⟩
  · refine foldl_keeps (fun t => ∃ l, t = { s with slices := l }) _ (fun t line h => ?_) _ _ ⟨s.slices, rfl⟩
    obtain ⟨l, rfl⟩ := h
    obtain ⟨l', h'⟩ := State.touchLine_eq { s with slices := l } (State.homeSlice { s with slices := l } (line * 128)) line .normal write
    exact ⟨l', h'⟩

section Agrees

variable {s t : State} (h : s.Agrees t)
include h

theorem State.Agrees.touchLines (a n : Nat) (write : Bool) : (s.touchLines a n write).Agrees (t.touchLines a n write) := by
  obtain ⟨l, hs⟩ := s.touchLines_eq a n write
  obtain ⟨k, ht⟩ := t.touchLines_eq a n write
  rw [hs, ht, h]
  rfl

theorem State.Agrees.invalidateHost (a n : Nat) : (s.invalidateHost a n).Agrees (t.invalidateHost a n) := by
  rw [h]; rfl

theorem State.Agrees.setEddy (m : Nat) (e : Eddy) : (s.setEddy m e).Agrees (t.setEddy m e) := by
  rw [h]; rfl

theorem State.Agrees.writeMem (a : Nat) (bs : List (Option Byte)) (bad : List Nat) :
    (s.writeMem a bs bad).Agrees (t.writeMem a bs bad) := by
  rw [h]; rfl

theorem State.Agrees.struck (l : List Nat) : ({ s with struck := l } : State).Agrees { t with struck := l } := by
  rw [h]; rfl

theorem State.Agrees.readRaw (a n : Nat) : (t.readRaw a n).1 = (s.readRaw a n).1 ∧ (s.readRaw a n).2.Agrees (t.readRaw a n).2 := by
  have hl : t.anyLost a n = s.anyLost a n := by rw [h]; rfl
  unfold State.readRaw
  rw [hl]
  cases s.anyLost a n with
  | true => rw [h]; exact ⟨rfl, rfl⟩
  | false => exact ⟨by rw [h]; rfl, h⟩

theorem State.Agrees.applyOne (oper line i : Nat) (parts : List Bin) : (s.applyOne oper line i parts).Agrees (t.applyOne oper line i parts) := by
  have hbad (a n : Nat) : t.badAt a n = s.badAt a n := by rw [h]; rfl
  obtain ⟨hbs, hr⟩ := h.readRaw (line * 128 + i * operSize oper) (operSize oper)
  unfold State.applyOne
  dsimp only
  rw [hbad, hbs]
  split
  · exact h
  · have hw := hr.writeMem (line * 128 + i * operSize oper) ((bytesOf (operSize oper)
      (applyElem oper (wordOf (s.readRaw (line * 128 + i * operSize oper) (operSize oper)).1)
        (parts.filterMap fun b => SMap.find b.accs i)).toNat).map some) []
    split
    · rw [hw]; rfl
    · exact hw

theorem State.Agrees.applyParts (oper line : Nat) (parts : List Bin) : (s.applyParts oper line parts).Agrees (t.applyParts oper line parts) := by
  have start := (h.invalidateHost (line * 128) 128).touchLines (line * 128) 128 true
  unfold State.applyParts
  generalize (s.invalidateHost (line * 128) 128).touchLines (line * 128) 128 true = u at start
  generalize (t.invalidateHost (line * 128) 128).touchLines (line * 128) 128 true = v at start
  generalize List.range (128 / operSize oper) = l
  induction l generalizing u v with
  | nil => exact start
  | cons i l ih => exact ih _ _ (start.applyOne oper line i parts)

theorem State.Agrees.applyLine (line : Nat) : (s.applyLine line).Agrees (t.applyLine line) := by
  have hb : t.bindingAt (line * 128) = s.bindingAt (line * 128) := by rw [h]; rfl
  have hm : t.homeChiplet (line * 128) = s.homeChiplet (line * 128) := by rw [h]; rfl
  have he (m : Nat) : t.eddy m = s.eddy m := by rw [h]; rfl
  unfold State.applyLine
  rw [hb]
  split
  · exact h
  · next bid b _ =>
    dsimp only
    rw [hm, he]
    split
    · exact h
    · have hp := h.applyParts b.oper line ((s.eddy (s.homeChiplet (line * 128))).partsOf bid line b.oper)
      have he' (m : Nat) : (t.applyParts b.oper line ((s.eddy (s.homeChiplet (line * 128))).partsOf bid line b.oper)).eddy m
        = (s.applyParts b.oper line ((s.eddy (s.homeChiplet (line * 128))).partsOf bid line b.oper)).eddy m := by rw [hp]; rfl
      rw [he']
      exact hp.setEddy ..

theorem State.Agrees.applyLines (a n : Nat) : (s.applyLines a n).Agrees (t.applyLines a n) := by
  unfold State.applyLines
  generalize linesOf a n = l
  induction l generalizing s t with
  | nil => exact h
  | cons i l ih => exact ih (h.applyLine i)

/-- The bytes a read finds do not depend on cores or caches. -/
theorem State.Agrees.fetch (a n : Nat) : (t.fetch a n).1 = (s.fetch a n).1 := ((h.applyLines a n).readRaw a n).1

end Agrees

/-! ## Code -/

section Code

variable {s : State} {cs : SMap Core} {n : Nat} (htlb : (({ s with cores := cs } : State).core n).tlb = (s.core n).tlb)

theorem walkFrom_cores (s : State) (cs : SMap Core) (asid va fuel level table : Nat) :
    ({ s with cores := cs } : State).walkFrom asid va fuel level table = s.walkFrom asid va fuel level table := by
  induction fuel generalizing level table with
  | zero => rfl
  | succ fuel ih =>
    simp only [State.walkFrom, ih]
    rfl

theorem walk_cores (s : State) (cs : SMap Core) (asid va : Nat) : ({ s with cores := cs } : State).walk asid va = s.walk asid va := by
  unfold State.walk
  simp only [walkFrom_cores]
  rfl

theorem codeLine_cores (s : State) (cs : SMap Core) (dst : Agent) (pa : Nat) :
    (({ s with cores := cs } : State).codeLine dst pa).1 = (s.codeLine dst pa).1 := by
  have h : s.Agrees { s with cores := cs } := rfl
  cases dst with
  | slice i => exact congrArg (fun bs => BitVec.ofNat 1024 (natOf bs)) (h.fetch pa 128)
  | _ => rfl

theorem images_cores (s : State) (cs : SMap Core) (n asid va : Nat) (dst : Agent) (pa : Nat) :
    ({ s with cores := cs } : State).images n asid va dst pa = s.images n asid va dst pa := by
  unfold State.images
  rw [codeLine_cores]
  rfl

include htlb

theorem lookup_cores (asid va : Nat) : ({ s with cores := cs } : State).lookup n asid va = s.lookup n asid va := by
  have hc : ({ s with cores := cs } : State).cached n asid va = s.cached n asid va := by
    unfold State.cached
    rw [htlb]
    rfl
  unfold State.lookup
  rw [hc, walk_cores]

theorem codeAt_cores (asid va : Nat) : ({ s with cores := cs } : State).codeAt n asid va = s.codeAt n asid va := by
  unfold State.codeAt
  rw [lookup_cores htlb]
  simp only [images_cores]
  rfl

/-- The checks of an entry depend on no core but by the translations it has cached. -/
theorem checkEntry_cores (region words va : Nat) :
    ({ s with cores := cs } : State).checkEntry n region words va = s.checkEntry n region words va := by
  unfold State.checkEntry State.header State.codePeek
  simp only [codeAt_cores htlb]
  rfl

end Code

end Sys2Proof.Machine
end

section
/-! PROOF. O52, support: how a core selects and starts an entry (R53, R288, R289). -/

namespace Sys2Proof.Machine

open Sys2Proof

/-! ## Fault domains (R300) -/

theorem SMap.find?_set {α : Type} {m : SMap α} {k : Nat} {x y : α} (P : Nat × α → Bool) (h : SMap.find m k = some x)
    (hP : P (k, y) = P (k, x)) : ((SMap.set m k y).find? P).map (·.1) = (m.find? P).map (·.1) := by
  induction m with
  | nil => cases h
  | cons e m ih =>
    obtain ⟨i, v⟩ := e
    rw [SMap.find] at h
    rw [SMap.set]
    split at h
    · next he =>
      cases h
      subst he
      simp only [lt_irrefl, if_false, if_true, List.find?_cons, hP]
      split <;> rfl
    · next hne =>
      split at h
      · cases h
      · next hlt =>
        rw [if_neg hlt, if_neg (Ne.symm hne), List.find?_cons, List.find?_cons]
        split
        · rfl
        · exact ih h

/-- What keeps a region's RCB and its handler's RCB keeps every fault domain. -/
theorem State.domainOf_onRegion (s : State) (r : Nat) (f : Region → Region) (hf : ∀ g, (f g).faultrcb = g.faultrcb ∧ (f g).rcb = g.rcb)
    (k : Nat) : (s.onRegion r f).domainOf k = s.domainOf k := by
  unfold State.onRegion
  split
  · rfl
  · next g hg =>
    have hrcb (rcb : Nat) : ({ s with regions := SMap.set s.regions r (f g) } : State).regionOfRcb rcb = s.regionOfRcb rcb :=
      SMap.find?_set _ hg (by simp [(hf g).2])
    simp only [State.domainOf, State.region, SMap.find_set, hrcb]
    split
    · next h =>
      subst h
      rw [show SMap.find s.regions k = some g from hg]
      simp [(hf g).1]
    · rfl

theorem State.domainOf_progress (s : State) (r k : Nat) : (s.progress r).domainOf k = s.domainOf k :=
  s.domainOf_onRegion r (fun g => { g with progress := g.progress + 1 }) (fun _ => ⟨rfl, rfl⟩) k

theorem State.domainOf_trace (s : State) (n r fid ev k : Nat) : (s.trace n r fid ev).domainOf k = s.domainOf k := by
  unfold State.trace
  split
  · rw [State.inject, State.domainOf_progress]
    exact State.domainOf_of (State.regions_send ..) k
  · rfl

/-! ## The selection of the one entry there is (R288, R289) -/

/-- The lists of the levels with one entry in the queue. -/
def drrOf (e : ReadyEntry) (q : Int) : SMap Drr :=
  (List.range 4).map fun l => (l, if e.lvl = l then ⟨[(e.region, q)], some e.region⟩ else Drr.init)

theorem State.syncDrr_single {s : State} {n : Nat} {e : ReadyEntry} (hr : (s.core n).ready = [e]) (hd : (s.core n).drr = []) :
    s.syncDrr n = s.setCore n { s.core n with drr := drrOf e (s.quantum e.region) } := by
  simp [State.syncDrr, hr, hd, drrOf, SMap.get, Drr.init, Drr.join]

/-- The one entry there is, of an eligible region with a positive quantum, is selected. -/
theorem State.select_single {s : State} {n : Nat} {e : ReadyEntry} (hr : (s.core n).ready = [e]) (hl : e.lvl ≤ 3)
    (hd : (s.core n).drr = drrOf e (s.quantum e.region)) (hq : 0 < s.quantum e.region) (he : s.eligible n e.region = true)
    (ht : (s.core n).takeable e = true) :
    ∃ drr, s.select n = some (e, s.setCore n { s.core n with drr := drr }) := by
  have hlvl : ([3, 2, 1, 0].find? fun l => [e].any (·.lvl == l)) = some e.lvl := by
    have : e.lvl = 0 ∨ e.lvl = 1 ∨ e.lvl = 2 ∨ e.lvl = 3 := by omega
    rcases this with h | h | h | h <;> simp [h]
  have hget : SMap.get (drrOf e (s.quantum e.region)) e.lvl Drr.init = ⟨[(e.region, s.quantum e.region)], some e.region⟩ := by
    have : e.lvl = 0 ∨ e.lvl = 1 ∨ e.lvl = 2 ∨ e.lvl = 3 := by omega
    rcases this with h | h | h | h <;> simp [drrOf, SMap.get, h, List.range_succ, SMap.find]
  have hpick (ok : Nat → Bool) (hok : ok e.region = true) (fuel : Nat) (hfuel : fuel ≠ 0) :
      Drr.pick ok (s.eligible n) s.quantum fuel ⟨[(e.region, s.quantum e.region)], some e.region⟩ e.region
        = some (e.region, ⟨[(e.region, s.quantum e.region)], some e.region⟩) := by
    obtain ⟨k, rfl⟩ := Nat.exists_eq_succ_of_ne_zero hfuel
    simp [Drr.pick, hok, hq]
  unfold State.select
  simp only [hr, List.filter_cons, List.filter_nil, he, ht, Bool.and_self, if_true, hlvl, beq_self_eq_true, hd, hget, Option.bind_some]
  rw [hpick _ (by simp) _ (by decide)]
  exact ⟨SMap.set (drrOf e (s.quantum e.region)) e.lvl ⟨[(e.region, s.quantum e.region)], some e.region⟩, by
    simp only [beq_self_eq_true, if_true, oldest, List.foldl_cons, List.foldl_nil, Option.map_some]⟩

/-- With nothing in the queue nothing is selected. -/
theorem State.select_none {s : State} {n : Nat} (hr : (s.core n).ready = []) : s.select n = none := by
  simp [State.select, hr]

/-! ## The entry taken (R53, R90) -/

section Start

variable {s : State} {n : Nat} {e : ReadyEntry} {f : Frame} {x : Slot}

/-- The block of a start entry is the one its slot names. -/
theorem State.entryVa_start (hres : e.resume = false) (hs : e.slot ≠ 0) (hw : (s.core n).word (f.base + 8 * e.slot) = x.word)
    (hx : x.Fits) (hlt : s.codebase e.region + 16 * x.entry < 2 ^ 64) :
    s.entryVa n e f = s.codebase e.region + 16 * x.entry := by
  simp only [State.entryVa, hres, hs, if_false, hw, Slot.of_word hx, vaOf]
  omega

/-- An entry whose block passes its checks leaves the queue and starts. -/
theorem State.take_start {h : Header} (hres : e.resume = false) (hf : (s.core n).frame e.fid = some f) (hst : f.st = .resident)
    (hc : s.checkEntry n e.region (frameWords f.cls) (s.entryVa n e f) = .ok h) :
    s.take n e = ({ (s.readEntry n (s.asid e.region) (s.entryVa n e f) 0).onCore n (fun c => { c with ready := c.ready.erase e }) with
      cur := n } : State).startRun n e f (.ok h) := by
  unfold State.take
  simp only [hf, hst, hc, hres, ne_eq, not_true_eq_false, if_false]

/-- A frame's header has no reserved bit set (Table 2-2). -/
def Core.headerClean (c : Core) (f : Frame) : Prop :=
  (c.word (f.base + 8 * 0)).extractLsb' 19 45 = 0 ∧ (c.word (f.base + 8 * 1)).extractLsb' 16 48 = 0 ∧
    (c.word (f.base + 8 * 2)).extractLsb' 16 48 = 0 ∧ c.word (f.base + 8 * 3) = 0

theorem Core.frameHeaderOk_iff (c : Core) (f : Frame) : c.frameHeaderOk f = true ↔ c.headerClean f := by
  simp only [Core.frameHeaderOk, Core.headerClean, Bool.and_eq_true, beq_iff_eq, field_eq_zero, and_assoc]
  rfl

/-- The threadlet that a start entry starts (R53). -/
def startedRun (c : Core) (e : ReadyEntry) (f : Frame) (h : Header) (block : Nat) : Run :=
  { tid := c.nextTid, fid := e.fid, slot := e.slot, region := e.region, level := e.level, sel := e.lvl,
    block := block, len := h.len, parkw := h.parkw, vuse := h.vuse, priv := h.priv, idx := 0
    x := SMap.set (SMap.set ((List.range h.live).map fun i => (i + 1, .known (c.word (f.base + 8 * (h.loff + i))))) 30
      (.known (place e.fid 12 ||| place e.slot 0))) 31 (.known (BitVec.ofNat 64 f.base))
    p := 0, m := [], v := [], fpst := 0, rep := none, runleft := 65536, ran := 0, bpSkip := 0 }

/-- An entry of a frame with a clean header starts its threadlet. -/
theorem State.startRun_clean {h : Header} (hp : (s.core n).lpoison = []) (hw : (s.core n).word (f.base + 8 * e.slot) = x.word)
    (hx : x.Fits) (hclean : (s.core n).headerClean f) (hfit : h.loff + h.live ≤ frameWords f.cls) :
    s.startRun n e f (.ok h) = (s.setCore n { s.core n with
      run := some (startedRun (s.core n) e f h (s.entryVa n e f)), nextTid := (s.core n).nextTid + 1 }).trace n e.region e.fid 0 := by
  have hok := (Core.frameHeaderOk_iff ..).2 hclean
  have hslot := slotWordOk_word hx
  have hno (a k : Nat) : touches [] a k = false := rfl
  unfold State.startRun
  simp only [hp, hno, hok, hw, hslot, Bool.not_true, Bool.and_false, Bool.or_self, Bool.false_eq_true, if_false, Nat.not_lt.2 hfit]
  rfl

/-- An entry of a frame with a reserved bit in its header ends with the format fault (R6). -/
theorem State.startRun_reserved {chk : Except CodeStop Header} (hp : (s.core n).lpoison = [])
    (hclean : ¬ (s.core n).headerClean f) :
    s.startRun n e f chk = s.consume n e 0x07 (s.entryVa n e f) 0 (s.entryVa n e f) none := by
  have hok : (s.core n).frameHeaderOk f = false := eq_false_of_ne_true (mt (Core.frameHeaderOk_iff ..).1 hclean)
  have hno (a k : Nat) : touches [] a k = false := rfl
  unfold State.startRun
  simp only [hp, hno, hok, Bool.and_false, Bool.or_self, Bool.false_eq_true, if_false, Bool.not_false, Bool.true_or, if_true]

end Start

/-- A start entry that is consumed is reported, and leaves the cores as they are. -/
theorem State.consume_start {s : State} {n code block addr : Nat} {e : ReadyEntry} (hres : e.resume = false)
    (hd : s.domainOf e.region = some 1) :
    (∀ m, (s.consume n e code block 0 addr none).core m = s.core m) ∧
      (s.consume n e code block 0 addr none).Reports code 3 (.core n) := by
  have hretire : s.retire n e.fid e.region none = (s.trace n e.region e.fid 4).progress e.region := by
    unfold State.retire
    simp only [Option.any_none, Bool.false_eq_true, if_false]
    split <;> rfl
  have hdom : ((s.trace n e.region e.fid 4).progress e.region).domainOf e.region = some 1 := by
    rw [State.domainOf_progress, State.domainOf_trace, hd]
  rw [State.consume, if_neg (by simp [hres]), hretire]
  exact ⟨fun m => by rw [State.core_sendRecord, State.core_progress, State.core_trace],
    State.sendRecord_reports hdom rfl rfl rfl (by decide)⟩

theorem State.selectEntry_empty {s : State} {n : Nat} (hr : (s.core n).ready = []) (k : Nat) : s.selectEntry n k = s := by
  cases k with
  | zero => rfl
  | succ k =>
    rw [State.selectEntry, State.select_none hr]
    exact ite_self s

/-- With one entry in the queue, the entries are selected at most once. -/
theorem State.selectEntry_once {s s1 : State} {n : Nat} {e : ReadyEntry} (hrun : (s.core n).run = none)
    (hsel : s.select n = some (e, s1)) (hend : ((s1.take n e).core n).ready = []) (k : Nat) :
    s.selectEntry n (k + 1) = s1.take n e := by
  rw [State.selectEntry, hrun, hsel]
  exact State.selectEntry_empty hend k

/-- A core with another ready queue. -/
def Core.queued (c : Core) (ready : List ReadyEntry) (drr : SMap Drr) : Core := { c with ready := ready, drr := drr }

theorem State.eligible_setCore {s : State} {r : Nat} {rg : Region} (hrg : s.region r = some rg) (hsus : s.suspended r = false)
    (hcyc : rg.cycbud = 0xFFFF) (n : Nat) (c : Core) : (s.setCore n c).eligible n r = true := by
  have hr : (s.setCore n c).region r = some rg := hrg
  have hs : (s.setCore n c).suspended r = false := hsus
  simp [State.eligible, State.hasCycles, hr, hs, hcyc]

theorem State.quantum_pos {s : State} {r : Nat} {rg : Region} (hrg : s.region r = some rg) (hq : 1 ≤ rg.rqw) : 0 < s.quantum r := by
  simp only [State.quantum, hrg, Option.map_some, Option.getD_some]
  omega

theorem State.ageEntries_single {s : State} {n : Nat} {e : ReadyEntry} (hr : (s.core n).ready = [e]) (hd : (s.core n).drr = []) :
    s.ageEntries n = s.setCore n ((s.core n).queued [s.aged e] (drrOf (s.aged e) (s.quantum e.region))) := by
  have hsync := State.syncDrr_single (s := s.setCore n { s.core n with ready := [s.aged e] }) (n := n) (e := s.aged e)
    (by rw [State.core_setCore, if_pos rfl]) (by rw [State.core_setCore, if_pos rfl]; exact hd)
  rw [State.setCore_setCore, State.core_setCore, if_pos rfl] at hsync
  rw [State.ageEntries, State.onCore_eq, hr]
  exact hsync

section Select

variable {s : State} {n : Nat} {e : ReadyEntry} {f : Frame} {rg : Region} {x : Slot} {h : Header}

/-- The one entry of a core is selected, aged, where its region is eligible and its frame Resident. -/
theorem State.select_aged (hr : (s.core n).ready = [e]) (hd : (s.core n).drr = []) (hrg : s.region e.region = some rg)
    (hsus : s.suspended e.region = false) (hcyc : rg.cycbud = 0xFFFF) (hq : 1 ≤ rg.rqw) (hf : (s.core n).frame e.fid = some f)
    (hst : f.st = .resident) :
    ∃ drr, (s.ageEntries n).select n = some (s.aged e, s.setCore n ((s.core n).queued [s.aged e] drr)) := by
  have hage := State.ageEntries_single hr hd
  have hcore : (s.ageEntries n).core n = (s.core n).queued [s.aged e] (drrOf (s.aged e) (s.quantum e.region)) := by
    rw [hage, State.core_setCore, if_pos rfl]
  have hframe : ((s.core n).queued [s.aged e] (drrOf (s.aged e) (s.quantum e.region))).frame (s.aged e).fid = some f := hf
  obtain ⟨drr, hsel⟩ := State.select_single (s := s.ageEntries n) (n := n) (e := s.aged e) (by rw [hcore]; rfl)
    (Nat.min_le_left ..) (by rw [hcore, hage]; rfl) (by rw [hage]; exact State.quantum_pos hrg hq)
    (by rw [hage]; exact State.eligible_setCore hrg hsus hcyc n _) (by rw [hcore, Core.takeable, hframe]; simp [hst])
  rw [hcore] at hsel
  refine ⟨drr, hsel.trans ?_⟩
  rw [hage, State.setCore_setCore]
  rfl

/-- The state in which a selected entry is started: its queue empty, its block's header read. -/
def State.selected (s : State) (n va : Nat) (e : ReadyEntry) (drr : SMap Drr) : State :=
  { ((s.setCore n ((s.core n).queued [e] drr)).readEntry n (s.asid e.region) va 0).onCore n (fun c => { c with ready := c.ready.erase e })
    with cur := n }

theorem State.core_selected (s : State) (n va : Nat) (e : ReadyEntry) (drr : SMap Drr) :
    (s.selected n va e drr).core n = (s.core n).queued [] drr := by
  have hread : ((s.setCore n ((s.core n).queued [e] drr)).readEntry n (s.asid e.region) va 0).core n = (s.core n).queued [e] drr := by
    rw [State.core, State.cores_readEntry]
    exact (State.core_setCore ..).trans (if_pos rfl)
  unfold State.selected
  rw [State.onCore_eq, hread]
  refine (State.core_setCore ..).trans ((if_pos rfl).trans ?_)
  simp [Core.queued]

theorem State.regions_selected (s : State) (n va : Nat) (e : ReadyEntry) (drr : SMap Drr) :
    (s.selected n va e drr).regions = s.regions := State.regions_readEntry ..

/-- A selected start entry whose block passes its checks starts. -/
theorem State.take_selected (hres : e.resume = false) (hf : (s.core n).frame e.fid = some f) (hst : f.st = .resident)
    (hs : e.slot ≠ 0) (hw : (s.core n).word (f.base + 8 * e.slot) = x.word) (hx : x.Fits)
    (hlt : s.codebase e.region + 16 * x.entry < 2 ^ 64)
    (hc : s.checkEntry n e.region (frameWords f.cls) (s.codebase e.region + 16 * x.entry) = .ok h) (drr : SMap Drr) :
    (s.setCore n ((s.core n).queued [e] drr)).take n e
      = (s.selected n (s.codebase e.region + 16 * x.entry) e drr).startRun n e f (.ok h) := by
  have hcore : (s.setCore n ((s.core n).queued [e] drr)).core n = (s.core n).queued [e] drr := by rw [State.core_setCore, if_pos rfl]
  have hva : (s.setCore n ((s.core n).queued [e] drr)).entryVa n e f = s.codebase e.region + 16 * x.entry :=
    State.entryVa_start hres hs (by rw [hcore]; exact hw) hx hlt
  have hcheck : (s.setCore n ((s.core n).queued [e] drr)).checkEntry n e.region (frameWords f.cls)
      (s.codebase e.region + 16 * x.entry) = .ok h :=
    (checkEntry_cores (cs := (s.setCore n ((s.core n).queued [e] drr)).cores) (by
      rw [show (({ s with cores := (s.setCore n ((s.core n).queued [e] drr)).cores } : State).core n) = _ from hcore]; rfl) ..).trans hc
  rw [State.take_start hres (by rw [hcore]; exact hf) hst (by rw [hva]; exact hcheck), hva]
  rfl

/-- The only entry of an idle core is a start entry of an eligible region, whose frame is Resident and whose slot names a block
that passes its entry checks. -/
structure Startable (s : State) (n : Nat) (e : ReadyEntry) (f : Frame) (x : Slot) (h : Header) : Prop where
  online : n < 2048 ∧ (s.core n).zeroing = false
  idle : (s.core n).run = none
  ready : (s.core n).ready = [e]
  drr : (s.core n).drr = []
  start : e.resume = false ∧ e.slot ≠ 0
  eligible : ∃ rg, s.region e.region = some rg ∧ s.suspended e.region = false ∧ rg.cycbud = 0xFFFF ∧ 1 ≤ rg.rqw
  frame : (s.core n).frame e.fid = some f
  resident : f.st = .resident
  slot : (s.core n).word (f.base + 8 * e.slot) = x.word ∧ x.Fits
  inSpace : s.codebase e.region + 16 * x.entry < 2 ^ 64
  checked : s.checkEntry n e.region (frameWords f.cls) (s.codebase e.region + 16 * x.entry) = .ok h

/-- A core whose one entry may be selected and passes its checks starts it, aged (R288, R289). -/
theorem Startable.exec_readyEntrySelect (H : Startable s n e f x h) :
    ∃ u drr, State.core u n = (s.core n).queued [] drr ∧ u.regions = s.regions ∧
      u.entryVa n (s.aged e) f = s.codebase e.region + 16 * x.entry ∧
      (((u.startRun n (s.aged e) f (.ok h)).core n).ready = [] →
        exec (.readyEntrySelect n) s = .next ((u.startRun n (s.aged e) f (.ok h)).syncDrr n)) := by
  obtain ⟨⟨hn, hz⟩, hrun, hr, hd, ⟨hres, hs⟩, ⟨rg, hrg, hsus, hcyc, hq⟩, hf, hst, ⟨hw, hx⟩, hlt, hc⟩ := H
  obtain ⟨drr, hsel⟩ := State.select_aged hr hd hrg hsus hcyc hq hf hst
  have htake := State.take_selected (e := s.aged e) hres hf hst hs hw hx hlt hc drr
  have hage : (s.ageEntries n).core n = (s.core n).queued [s.aged e] (drrOf (s.aged e) (s.quantum e.region)) := by
    rw [State.ageEntries_single hr hd, State.core_setCore, if_pos rfl]
  have hcore := s.core_selected n (s.codebase e.region + 16 * x.entry) (s.aged e) drr
  have hreg := s.regions_selected n (s.codebase e.region + 16 * x.entry) (s.aged e) drr
  have hbase : (s.selected n (s.codebase e.region + 16 * x.entry) (s.aged e) drr).codebase e.region = s.codebase e.region := by
    rw [State.codebase, State.region_of hreg]; rfl
  refine ⟨s.selected n (s.codebase e.region + 16 * x.entry) (s.aged e) drr, drr, hcore, hreg, ?_, fun hend => ?_⟩
  · exact (State.entryVa_start hres hs (by rw [hcore]; exact hw) hx (by exact hbase.symm ▸ hlt)).trans
      (congrArg (· + 16 * x.entry) hbase)
  · have honce := State.selectEntry_once (s := s.ageEntries n) (by rw [hage]; exact hrun) hsel (by rw [htake]; exact hend)
    rw [Sys2Proof.Machine.exec_readyEntrySelect, execReadyEntrySelect, if_neg (by simp [hz]; omega)]
    exact congrArg (fun v : State => Host.Outcome.next (v.syncDrr n)) ((honce _).trans htake)

/-- Where the frame's header has a reserved bit the entry is consumed with the format fault (R6). -/
theorem Startable.reserved (H : Startable s n e f x h) (hp : (s.core n).lpoison = []) (hclean : ¬ (s.core n).headerClean f)
    (hd : s.domainOf e.region = some 1) : ∃ t, exec (.readyEntrySelect n) s = .next t ∧ (t.core n).run = none ∧
      (t.core n).ready = [] ∧ t.Reports 0x07 3 (.core n) := by
  obtain ⟨u, drr, hcore, hreg, -, hstep⟩ := H.exec_readyEntrySelect
  have hstart := State.startRun_reserved (s := u) (n := n) (e := s.aged e) (f := f) (chk := .ok h) (by rw [hcore]; exact hp)
    (by rw [hcore]; exact hclean)
  obtain ⟨hcores, hrep⟩ := State.consume_start (s := u) (n := n) (code := 0x07) (block := u.entryVa n (s.aged e) f)
    (addr := u.entryVa n (s.aged e) f) (e := s.aged e) H.start.1 ((State.domainOf_of hreg _).trans hd)
  rw [← hstart] at hcores hrep
  have hc := (hcores n).trans hcore
  generalize u.startRun n (s.aged e) f (.ok h) = v at hc hrep hstep
  refine ⟨_, hstep (by rw [hc]; rfl), ?_, ?_, hrep⟩
  · rw [State.syncDrr, State.core_setCore, if_pos rfl]
    exact (congrArg Core.run hc).trans H.idle
  · rw [State.syncDrr, State.core_setCore, if_pos rfl]
    exact congrArg Core.ready hc

/-- Otherwise its threadlet starts (R53). -/
theorem Startable.starts (H : Startable s n e f x h) (hp : (s.core n).lpoison = []) (hclean : (s.core n).headerClean f)
    (hfit : h.loff + h.live ≤ frameWords f.cls) : ∃ t, exec (.readyEntrySelect n) s = .next t ∧
      (t.core n).run = some (startedRun (s.core n) (s.aged e) f h (s.codebase e.region + 16 * x.entry)) ∧
      (t.core n).ready = [] ∧ (t.core n).nextTid = (s.core n).nextTid + 1 := by
  obtain ⟨u, drr, hcore, -, hva, hstep⟩ := H.exec_readyEntrySelect
  have hstart := State.startRun_clean (s := u) (n := n) (e := s.aged e) (f := f) (x := x) (h := h) (by rw [hcore]; exact hp)
    (by rw [hcore]; exact H.slot.1) H.slot.2 (by rw [hcore]; exact hclean) hfit
  have hc : (u.startRun n (s.aged e) f (.ok h)).core n = { (s.core n).queued [] drr with
      run := some (startedRun (s.core n) (s.aged e) f h (s.codebase e.region + 16 * x.entry)), nextTid := (s.core n).nextTid + 1 } := by
    rw [hstart, State.core_trace, State.core_setCore, if_pos rfl, hcore, hva]
    rfl
  generalize u.startRun n (s.aged e) f (.ok h) = v at hc hstep
  refine ⟨_, hstep (by rw [hc]; rfl), ?_, ?_, ?_⟩ <;> rw [State.syncDrr, State.core_setCore, if_pos rfl]
  · exact congrArg Core.run hc
  · exact congrArg Core.ready hc
  · exact congrArg Core.nextTid hc

end Select

/-! ## The registers of a start (R53) -/

section Registers

variable (c : Core) (e : ReadyEntry) (f : Frame) (h : Header) (block : Nat)

theorem SMap.find_range' {α : Type} (g : Nat → α) (n i a : Nat) :
    SMap.find ((List.range' a n).map fun k => (k + 1, g k)) i = if a + 1 ≤ i ∧ i ≤ a + n then some (g (i - 1)) else none := by
  induction n generalizing a with
  | zero => rw [if_neg (by omega)]; rfl
  | succ n ih =>
    rw [List.range'_succ, List.map_cons, SMap.find, ih]
    rcases Nat.lt_trichotomy i (a + 1) with hlt | rfl | hgt
    · rw [if_neg (by omega), if_pos hlt, if_neg (by omega)]
    · rw [if_pos rfl, if_pos (by omega), Nat.add_sub_cancel]
    · rw [if_neg (by omega), if_neg (by omega)]
      exact if_congr (by omega) rfl rfl

theorem SMap.find_range {α : Type} (g : Nat → α) (n i : Nat) :
    SMap.find ((List.range n).map fun k => (k + 1, g k)) i = if 1 ≤ i ∧ i ≤ n then some (g (i - 1)) else none := by
  rw [List.range_eq_range', SMap.find_range', Nat.zero_add, Nat.zero_add]

theorem startedRun_live (hl : h.live ≤ 8) {i : Nat} (h1 : 1 ≤ i) (h2 : i ≤ h.live) :
    (startedRun c e f h block).reg i = .known (c.word (f.base + 8 * (h.loff + (i - 1)))) := by
  rw [Run.reg, if_neg (by omega), startedRun]
  simp only [SMap.get_set, if_neg (show i ≠ 31 by omega), if_neg (show i ≠ 30 by omega)]
  rw [SMap.get, SMap.find_range, if_pos ⟨h1, h2⟩]
  rfl

theorem startedRun_rest {i : Nat} (h1 : h.live < i) (h2 : i < 30) : (startedRun c e f h block).reg i = .known 0 := by
  rw [Run.reg, if_neg (by omega), startedRun]
  simp only [SMap.get_set, if_neg (show i ≠ 31 by omega), if_neg (show i ≠ 30 by omega)]
  rw [SMap.get, SMap.find_range, if_neg (by omega)]
  rfl

theorem startedRun_handle : (startedRun c e f h block).reg 30
    = .known (BitVec.ofNat 64 (e.fid * 2 ^ 12) ||| BitVec.ofNat 64 e.slot) := by
  rw [Run.reg, if_neg (by omega), startedRun]
  simp only [SMap.get_set, if_neg (show 30 ≠ 31 by omega), if_true, place_zero, place_twelve]
  rfl

theorem startedRun_base : (startedRun c e f h block).reg 31 = .known (BitVec.ofNat 64 f.base) := by
  rw [Run.reg, if_neg (by omega), startedRun]
  simp only [SMap.get_set, if_true]

end Registers

end Sys2Proof.Machine
end

section
/-! PROOF. O52: threadlets start, age, expire and wake, and frames spill, refill and go. -/

namespace Sys2Proof.Machine

open Sys2Proof

/-! ## Memory under no binding -/

theorem Cells.writeSome_some (m : List Host.Cell) (a : Nat) (bs : List Byte) :
    Cells.writeSome m a (bs.map some) = Cells.write m a bs := by
  induction bs generalizing m a with
  | nil => rfl
  | cons b bs ih => exact ih ..

/-- A write to lines that no stream is bound to writes its bytes and no others. -/
theorem State.store_plain {s : State} {a : Nat} {bs : List Byte} (hb : ∀ l ∈ linesOf a bs.length, s.bindingAt (l * 128) = none) :
    (s.store a bs).mem = Cells.write s.mem a bs := by
  have tags (l : List Nat) (t : State) : (l.foldl (fun t l => (t.nextTag (t.homeSlice (l * 128))).2) t).mem = t.mem := by
    induction l generalizing t with
    | nil => rfl
    | cons l ls ih => exact (ih _).trans rfl
  unfold State.store
  simp only [State.applyLines_of hb, tags, State.touchLines_mem]
  exact Cells.writeSome_some ..

/-- Housekeeping charges change the controllers' counters alone (R293). -/
theorem State.hkCharge_leaves (s : State) (ctls : List Nat) :
    (s.hkCharge ctls).cores = s.cores ∧ (s.hkCharge ctls).mem = s.mem ∧ (s.hkCharge ctls).poison = s.poison := by
  unfold State.hkCharge
  induction ctls generalizing s with
  | nil => exact ⟨rfl, rfl, rfl⟩
  | cons c cs ih => exact ih _

theorem mem_insertNat {l : List Nat} {i k : Nat} : k ∈ insertNat l i ↔ k = i ∨ k ∈ l := by
  induction l with
  | nil => simp [insertNat]
  | cons x l ih =>
    rw [insertNat]
    split
    · simp
    · split
      · next h => simp [h]
      · simp only [List.mem_cons, ih]
        tauto

theorem mem_foldl_insertNat (g : Nat → Nat) (bad l : List Nat) {k : Nat} :
    k ∈ bad.foldl (fun l i => insertNat l (g i)) l ↔ k ∈ l ∨ ∃ i ∈ bad, g i = k := by
  induction bad generalizing l with
  | nil => simp
  | cons b bs ih =>
    rw [List.foldl_cons, ih, mem_insertNat]
    simp only [List.mem_cons, exists_eq_or_imp]
    constructor
    · rintro ((rfl | h) | h)
      · exact .inr (.inl rfl)
      · exact .inl h
      · exact .inr (.inr h)
    · rintro (h | rfl | h)
      · exact .inl (.inr h)
      · exact .inl (.inl rfl)
      · exact .inr h

section Frames

variable {s : State} {n fid : Nat} {f : Frame}

/-! ## The write-out of a spill (R44) -/

/-- The state after the snapshot of a frame is written out. -/
def State.writtenOut (s : State) (n fid : Nat) (f : Frame) (bs : List Byte) (bad : List Nat) : State :=
  let s1 := (s.store f.arena bs).hkCharge (s.stacksOf f.arena f.bytes)
  { s1 with poison := bad.foldl (fun l k => insertNat l (f.arena / 8 + k)) s1.poison }.onCore n fun c =>
    c.onFrame fid fun f => { f with snap := none }

theorem State.core_writtenOut (bs : List Byte) (bad : List Nat) :
    (s.writtenOut n fid f bs bad).core n = (s.core n).onFrame fid fun f => { f with snap := none } := by
  have hcore : ((s.store f.arena bs).hkCharge (s.stacksOf f.arena f.bytes)).core n = s.core n := by
    rw [State.core, (State.hkCharge_leaves ..).1, (s.store_only f.arena bs).cores]; rfl
  rw [← hcore]
  exact (State.core_onCore ..).trans (if_pos rfl)

theorem State.mem_writtenOut {bs : List Byte} (bad : List Nat) (hb : ∀ l ∈ linesOf f.arena bs.length, s.bindingAt (l * 128) = none) :
    (s.writtenOut n fid f bs bad).mem = Cells.write s.mem f.arena bs :=
  ((State.hkCharge_leaves ..).2.1).trans (State.store_plain hb)

theorem State.poison_writtenOut (bs : List Byte) {bad : List Nat} {i : Nat} (h : i ∈ bad) :
    f.arena / 8 + i ∈ (s.writtenOut n fid f bs bad).poison :=
  (mem_foldl_insertNat ..).2 (.inr ⟨i, h, rfl⟩)

/-- With no new frame about, the write-out of a snapshot is all that happens. -/
theorem spill_written {bs : List Byte} {bad : List Nat} (hf : (s.core n).frame fid = some f) (hsnap : f.snap = some (bs, bad))
    (hmay : s.hkMay 2 (s.stacksOf f.arena f.bytes) = true) (hz : ∀ x ∈ (s.core n).frames, x.2.zero = false) :
    exec (.spillWriteOutComplete n fid) s = .next (s.writtenOut n fid f bs bad) := by
  have hframes : ((s.writtenOut n fid f bs bad).core n).frames = SMap.set (s.core n).frames fid { f with snap := none } := by
    rw [State.core_writtenOut, Core.onFrame, hf]
  have hdone : ((s.writtenOut n fid f bs bad).core n).frames.filter (fun e => e.2.zero &&
      ((s.writtenOut n fid f bs bad).core n).refillReady e.1 e.2) = [] := by
    rw [List.filter_eq_nil_iff, hframes]
    intro e he
    have : e.2.zero = false := by
      rcases SMap.mem_set he with rfl | he
      · exact hz (fid, f) (SMap.mem_of_find hf)
      · exact hz e he
    simp [this]
  rw [exec_spillWriteOutComplete, execSpillWriteOutComplete, hf]
  simp only [hsnap, hmay, Bool.not_true, Bool.false_eq_true, if_false]
  exact congrArg (fun l : List (Nat × Frame) => Host.Outcome.next
    (l.foldl (fun s e => s.finishRefill n e.1 e.2) (s.writtenOut n fid f bs bad))) hdone

/-! ## A refill (R45) -/

/-- A core with a frame's bytes in their place, the frame Resident. -/
def Core.refilled (c : Core) (fid : Nat) (f : Frame) (bs : List Byte) (bad : List Nat) : Core :=
  ({ c with lmem := Cells.write c.lmem f.base bs, lpoison := carry (heal c.lpoison f.base f.bytes) f.base bad } : Core).onFrame fid
    fun f => { f with st := .resident, placed := false, zero := false }

theorem State.applyQueue_none (h : ∀ x ∈ (s.core n).refq, x.fid ≠ fid) (k : Nat) : s.applyQueue n fid k = s := by
  have hnone : (s.core n).refq.find? (·.fid == fid) = none := List.find?_eq_none.2 fun x hx => by simp [h x hx]
  cases k with
  | zero => rfl
  | succ k =>
    rw [State.applyQueue, hnone]
    split <;> simp_all

theorem Core.refq_refilled (c : Core) (bs : List Byte) (bad : List Nat) : (c.refilled fid f bs bad).refq = c.refq := by
  rw [Core.refilled, Core.onFrame_eq]

theorem Core.lmem_refilled (c : Core) (bs : List Byte) (bad : List Nat) :
    (c.refilled fid f bs bad).lmem = Cells.write c.lmem f.base bs := by
  rw [Core.refilled, Core.onFrame_eq]

theorem Core.frame_refilled {c : Core} (hf : c.frame fid = some f) (hz : f.zero = false) (bs : List Byte) (bad : List Nat) :
    (c.refilled fid f bs bad).frame fid = some { f with st := .resident, placed := false } := by
  rw [Core.refilled, Core.frame_onFrame, if_pos rfl]
  exact (congrArg _ hf).trans (by rw [Option.map_some, hz])

/-- A frame's bytes are read from its arena slot into its place. -/
theorem State.core_loadFrame (hzero : f.zero = false) (hlost : s.lost = [])
    (hb : ∀ l ∈ linesOf f.arena f.bytes, s.bindingAt (l * 128) = none) :
    ((s.loadFrame n fid f).onCore n fun c => c.onFrame fid fun f => { f with st := .resident, placed := false, zero := false }).core n
      = (s.core n).refilled fid f (Cells.read s.mem f.arena f.bytes) (s.badAt f.arena f.bytes) := by
  have hcore : (s.touchLines f.arena f.bytes false).core n = s.core n := by
    rw [State.core, (s.touchLines_only ..).cores]; rfl
  rw [State.loadFrame, if_neg (by simp [hzero]), State.fetch_plain (State.anyLost_nil hlost ..) hb]
  simp only [State.onCore_eq, State.setCore_setCore, State.core_setCore, if_true, hcore]
  rfl

/-- A refill whose place is clear, with nothing queued for its frame and no threadlet Parked in it, loads the frame. -/
theorem refill_written (hf : (s.core n).frame fid = some f) (hst : f.st = .refilling) (hsnap : f.snap = none)
    (hplaced : f.placed = true) (hzero : f.zero = false) (hpark : f.parked = none) (hothers : (s.core n).othersIn fid f.base f.bytes = [])
    (hq : ∀ x ∈ (s.core n).refq, x.fid ≠ fid) (hlost : s.lost = []) (hmay : s.hkMay 1 (s.stacksOf f.arena f.bytes) = true)
    (hb : ∀ l ∈ linesOf f.arena f.bytes, s.bindingAt (l * 128) = none) :
    ∃ t, exec (.refillComplete n fid) s = .next t ∧
      t.core n = (s.core n).refilled fid f (Cells.read s.mem f.arena f.bytes) (s.badAt f.arena f.bytes) := by
  have hready : (s.core n).refillReady fid f = true := by
    simp only [Core.refillReady, hst, hplaced, hsnap, Option.isNone_none, beq_self_eq_true, Bool.and_true, Bool.true_and,
      List.all_eq_true]
    intro e he
    have hno := List.filter_eq_nil_iff.1 hothers e he
    grind
  have hcore := State.core_loadFrame (s := s) (n := n) (fid := fid) hzero hlost hb
  have hfinish : s.finishRefill n fid f = (s.loadFrame n fid f).onCore n fun c =>
      c.onFrame fid fun f => { f with st := .resident, placed := false, zero := false } := by
    unfold State.finishRefill
    simp only [hpark, Option.any_none, Bool.false_eq_true, if_false]
    exact State.applyQueue_none (by rw [hcore, Core.refq_refilled]; exact hq) _
  refine ⟨(s.finishRefill n fid f).hkCharge (s.stacksOf f.arena f.bytes), ?_, ?_⟩
  · rw [exec_refillComplete, execRefillComplete, hf]
    simp only [hst, hsnap, hplaced, hzero, hready, hmay, hf, Option.isSome_none, Bool.false_eq_true, if_false, if_true, or_self,
      not_true_eq_false, ne_eq, Bool.and_self]
  · rw [State.core, (State.hkCharge_leaves ..).1, hfinish]
    exact hcore

/-! ## A PARK until a TIME (R371) -/

theorem exec_parkTimeExpiry_time {p : Parked} {time : Nat} (hf : (s.core n).frame fid = some f) (hp : f.parked = some p)
    (hw : p.wait = .time time) :
    exec (.parkTimeExpiry n fid) s = .next (if time ≤ s.time then s.unpark n fid else s) := by
  rw [exec_parkTimeExpiry, execParkTimeExpiry, hf, Option.bind_some, hp]
  simp only [hw]

/-! ## A release (R46) -/

theorem release_done (hf : (s.core n).frame fid = some f) (hfree : f.freeing = true) (hsp : (s.core n).splitPhase s.fstore fid = false) :
    exec (.frameRelease n fid) s = .next (s.releaseFrame n fid) := by
  rw [exec_frameRelease, execFrameRelease, hf]
  simp only [hfree, hsp, Bool.not_false, Bool.and_self, if_true]

theorem release_waits (hf : (s.core n).frame fid = some f) (hsp : (s.core n).splitPhase s.fstore fid = true) :
    exec (.frameRelease n fid) s = .next s := by
  rw [exec_frameRelease, execFrameRelease, hf]
  simp only [hsp, Bool.not_true, Bool.and_false, Bool.false_eq_true, if_false]

end Frames

/-- Settles O52, event by event: the one entry of a core is followed from its selection to its first registers; the others change a
queue, a frame or its bytes. -/
theorem threadletEvents : Obligations.ThreadletEvents := by
  unfold Obligations.ThreadletEvents
  refine ⟨fun s n e f rg h entry pcls count er ar hn hz hrun hr hd hres hrg hsus hcyc hq hf hst hs hp he hpc hct hw hlt hc hl hfit => ?_,
    fun s n => ?_, fun s n r hr => ⟨fun h0 => ?_, fun h0 => ?_⟩, fun s n fid time f p hf hp hw hr => ⟨fun hlt => ?_, fun hle hst hroom => ?_⟩,
    fun s n fid f bs bad hf hsnap hm hmay hz hb => ?_,
    fun s n fid f hf hst hsnap hpl hz hpk ho hq hl hm hmay hb => ?_, fun s n fid f hf hfree hris => ⟨fun hsp => ?_, release_waits hf⟩⟩
  · have H : Startable s n e f ⟨entry, pcls, er, ar, count⟩ h :=
      ⟨⟨hn, hz⟩, hrun, hr, hd, ⟨hres, hs⟩, ⟨rg, hrg, hsus, hcyc, hq⟩, hf, hst, ⟨hw, he, hpc, hct⟩, hlt, hc⟩
    refine ⟨H.reserved hp, fun hclean => ?_⟩
    obtain ⟨t, hstep, hrun', hready, htid⟩ := H.starts hp hclean hfit
    exact ⟨t, _, hstep, hrun', hready, rfl, htid, rfl, rfl, rfl, rfl, rfl, rfl, rfl, rfl, rfl, rfl, rfl, rfl, rfl, rfl,
      fun i => startedRun_live _ _ _ _ _ hl, fun i => startedRun_rest _ _ _ _ _, startedRun_handle .., startedRun_base ..,
      fun m hm => by rw [Run.mask, if_neg hm]; rfl, fun v => rfl⟩
  · obtain ⟨drr, hage⟩ := s.ageEntries_eq n
    refine ⟨_, exec_entryAging .., ?_⟩
    rw [hage, State.core_setCore, if_pos rfl]
    rfl
  · rw [exec_runleftExpiry, execRunleftExpiry, hr]
    exact congrArg _ (if_pos h0)
  · rw [exec_runleftExpiry, execRunleftExpiry, hr]
    exact congrArg _ (if_neg h0)
  · exact (exec_parkTimeExpiry_time hf hp hw).trans (congrArg _ (if_neg (by omega)))
  · exact ⟨_, (exec_parkTimeExpiry_time hf hp hw).trans (congrArg _ (if_pos hle)), State.unpark_room hf hp hr hst hroom⟩
  · refine ⟨_, spill_written hf hsnap hmay hz, ?_, ?_, fun a ha => ?_, fun i hi => State.poison_writtenOut bs hi⟩
    · rw [State.core_writtenOut, Core.frame_onFrame, if_pos rfl, hf]; rfl
    · rw [State.mem_writtenOut bad hb, Cells.read_write _ _ hm]
    · rw [State.mem_writtenOut bad hb, Cells.get_write_outside _ _ _ hm ha]
  · obtain ⟨t, hstep, hcore⟩ := refill_written hf hst hsnap hpl hz hpk ho hq hl hmay hb
    have hlen := Cells.read_length s.mem f.arena f.bytes
    refine ⟨t, hstep, ?_, ?_, fun a ha => ?_⟩ <;> rw [hcore]
    · exact Core.frame_refilled hf hz ..
    · have := Cells.read_write f.base (Cells.read s.mem f.arena f.bytes) hm
      rwa [hlen, ← Core.lmem_refilled (fid := fid)] at this
    · rw [Core.lmem_refilled, Cells.get_write_outside _ _ _ hm (by rwa [hlen])]
  · exact ⟨_, release_done hf hfree hsp, State.frame_releaseFrame fid hris, State.releaseFrame_sameBytes ..⟩

end Sys2Proof.Machine
end

section
/-! PROOF. O58, support: what a front end's reads, writes and faults leave unchanged (R273, R275, R280). -/

namespace Sys2Proof.Machine

open Sys2Proof

/-! ## Front ends and queues -/

@[simp] theorem State.queue_onQueue (s : State) (q k : Nat) (f : Queue → Queue) :
    (s.onQueue q f).queue k = if k = q then f (s.queue q) else s.queue k := by
  simp only [State.queue, State.onQueue, SMap.get_set]

@[simp] theorem State.fe_onFe (s : State) (b k : Nat) (f : FrontEnd → FrontEnd) :
    (s.onFe b f).fe k = if k = b then f (s.fe b) else s.fe k := by
  simp only [State.fe, State.onFe, SMap.get_set]

@[simp] theorem State.trigger_setTrigger (s : State) (b t c u : Nat) (x : Trigger) :
    (s.setTrigger b t x).trigger c u = if c = b ∧ u = t then x else s.trigger c u := by
  rw [State.trigger, State.setTrigger, State.fe_onFe]
  by_cases hc : c = b
  · subst hc
    by_cases hu : u = t <;> simp [hu, State.trigger]
  · simp [hc, State.trigger]

theorem State.pend_setTrigger (s : State) (b t c : Nat) (x : Trigger) : ((s.setTrigger b t x).fe c).pend = (s.fe c).pend := by
  rw [State.setTrigger, State.fe_onFe]
  split
  · next h => rw [h]
  · rfl

theorem isHost_eq (w : Word) : isHost w = w.getLsbD 63 := rfl

theorem placeOf_eq (w : Word) : placeOf w = (w.extractLsb' 0 56).toNat := field_eq w 55 0

/-! ## What the bytes a front end writes leave unchanged -/

/-- Two states differ in memory, in the host's memory and in what stands beside them, at most. -/
structure State.Wrote (s t : State) : Prop where
  cores : t.cores = s.cores
  net : t.net = s.net
  fes : t.fes = s.fes
  queues : t.queues = s.queues
  service : t.service = s.service
  regions : t.regions = s.regions
  brielo : t.brielo = s.brielo

theorem State.Wrote.refl (s : State) : s.Wrote s := ⟨rfl, rfl, rfl, rfl, rfl, rfl, rfl⟩

theorem State.Wrote.trans {s t u : State} (h : s.Wrote t) (k : t.Wrote u) : s.Wrote u where
  cores := k.cores.trans h.cores
  net := k.net.trans h.net
  fes := k.fes.trans h.fes
  queues := k.queues.trans h.queues
  service := k.service.trans h.service
  regions := k.regions.trans h.regions
  brielo := k.brielo.trans h.brielo

theorem State.MemoryOnly.wrote {s t : State} (h : s.MemoryOnly t) : s.Wrote t :=
  ⟨h.cores, h.net, h.fes, h.queues, h.service, h.regions, h.brielo⟩

section Wrote

variable {s t : State}

theorem State.Wrote.queue (h : s.Wrote t) (q : Nat) : t.queue q = s.queue q := by rw [State.queue, h.queues]; rfl

theorem State.Wrote.fe (h : s.Wrote t) (b : Nat) : t.fe b = s.fe b := by rw [State.fe, h.fes]; rfl

theorem State.Wrote.core (h : s.Wrote t) (n : Nat) : t.core n = s.core n := State.core_of_cores h.cores n

theorem State.Wrote.domainOf (h : s.Wrote t) (r : Nat) : t.domainOf r = s.domainOf r := State.domainOf_of h.regions r

end Wrote

theorem State.feWrite_wrote (s : State) (host : Bool) (a : Nat) (bs : List Byte) : s.Wrote (s.feWrite host a bs) := by
  unfold State.feWrite
  split
  · exact ⟨rfl, rfl, rfl, rfl, rfl, rfl, rfl⟩
  · exact (s.store_only a bs).wrote

theorem State.writeErrw_wrote (s : State) (q : Nat) : s.Wrote (s.writeErrw q) := by
  unfold State.writeErrw
  dsimp only
  split
  · exact .refl s
  · exact s.feWrite_wrote ..

/-- Host memory without poison is read as it is. -/
theorem State.feRead_host {s : State} {w : Word} (hw : w.getLsbD 63 = true) (hp : s.hostPoison = []) (n : Nat) :
    s.feRead (isHost w) (placeOf w) n = (Cells.read s.hostMem (w.extractLsb' 0 56).toNat n, false, s) := by
  have hbad : s.hostBad (placeOf w) n = [] := by simp [State.hostBad, badOffsets, hp]
  rw [State.feRead, isHost_eq, hw, if_pos rfl, hbad, placeOf_eq]
  rfl

/-! ## Faulted entries (R280) -/

/-- What a faulted entry leaves: but for what is written, its error word in its queue alone. -/
structure State.Faulted (s t : State) : Prop where
  cores : t.cores = s.cores
  fes : t.fes = s.fes
  queue : ∀ q, ∃ w, t.queue q = { s.queue q with errw := w }

theorem State.send_keeps (s : State) (p : Packet) : (s.send p).fes = s.fes ∧ (s.send p).queues = s.queues := by
  unfold State.send
  dsimp only
  repeat' split
  all_goals exact ⟨rfl, rfl⟩

theorem State.onRegion_keeps (s : State) (r : Nat) (g : Region → Region) :
    (s.onRegion r g).fes = s.fes ∧ (s.onRegion r g).queues = s.queues := by
  unfold State.onRegion
  split <;> exact ⟨rfl, rfl⟩

theorem State.undeliverable_keeps (s : State) (r : Nat) (loc : Agent) (ws : List Word) :
    (s.undeliverable r loc ws).fes = s.fes ∧ (s.undeliverable r loc ws).queues = s.queues :=
  ⟨(State.onRegion_keeps ..).1.trans (State.send_keeps ..).1, (State.onRegion_keeps ..).2.trans (State.send_keeps ..).2⟩

theorem State.sendRecord_keeps (s : State) (d : Nat) (r : Rec) :
    (s.sendRecord d r).fes = s.fes ∧ (s.sendRecord d r).queues = s.queues := by
  unfold State.sendRecord
  dsimp only
  split
  · exact s.undeliverable_keeps ..
  · split
    · exact s.send_keeps ..
    · split
      · exact s.undeliverable_keeps ..
      · split
        · exact s.undeliverable_keeps ..
        · exact s.send_keeps ..

/-- The state with an entry's fault noted in its queue. -/
def State.faultNoted (s : State) (src : EntrySrc) (code : Nat) : State :=
  match src with
  | .queue q idx => (s.onQueue q fun x =>
      { x with errw := place idx 32 ||| place code 8 ||| place (bitOf (x.state == 2)) 0 }).writeErrw q
  | .trigger _ => s

section Fault

variable {s : State} {fe region code addr : Nat} {src : EntrySrc} {detail : Word}

theorem State.entryFault_eq : s.entryFault fe src region code addr detail = (s.faultNoted src code).sendRecord region
    { Rec.plain code 4 region (.frontEnd fe) with addr := addr, detail := detail } := by
  cases src <;> rfl

theorem State.faultNoted_regions : (s.faultNoted src code).regions = s.regions := by
  cases src with
  | queue q i => exact (State.writeErrw_wrote ..).regions
  | trigger t => rfl

/-- A faulted entry of the device region's domain is reported. -/
theorem State.entryFault_reports (hd : s.domainOf region = some 1) :
    (s.entryFault fe src region code addr detail).Reports code 4 (.frontEnd fe) := by
  rw [State.entryFault_eq]
  exact State.sendRecord_reports ((State.domainOf_of State.faultNoted_regions _).trans hd) rfl rfl rfl (by decide)

theorem State.faultNoted_faulted : s.Faulted (s.faultNoted src code) := by
  cases src with
  | queue q i =>
    have hw := State.writeErrw_wrote (s.onQueue q fun x =>
      { x with errw := place i 32 ||| place code 8 ||| place (bitOf (x.state == 2)) 0 }) q
    refine ⟨hw.cores, hw.fes, fun k => ?_⟩
    have hk := hw.queue k
    rw [State.queue_onQueue] at hk
    split at hk
    · next h => exact ⟨_, hk.trans (by rw [h])⟩
    · exact ⟨_, hk⟩
  | trigger t => exact ⟨rfl, rfl, fun q => ⟨_, rfl⟩⟩

theorem State.entryFault_faulted : s.Faulted (s.entryFault fe src region code addr detail) := by
  obtain ⟨hc, hf, hq⟩ := s.faultNoted_faulted (src := src) (code := code)
  rw [State.entryFault_eq]
  refine ⟨(State.cores_sendRecord ..).trans hc, (State.sendRecord_keeps ..).1.trans hf, fun q => ?_⟩
  rw [State.queue, (State.sendRecord_keeps ..).2]
  exact hq q

theorem State.faultNoted_sent : (s.faultNoted src code).net = s.net ∧ (s.faultNoted src code).service = s.service := by
  cases src with
  | queue q i => exact ⟨(State.writeErrw_wrote ..).net, (State.writeErrw_wrote ..).service⟩
  | trigger t => exact ⟨rfl, rfl⟩

/-- A faulted entry of the device region's domain sends one packet. -/
theorem State.entryFault_sent (hd : s.domainOf region = some 1) :
    (s.entryFault fe src region code addr detail).net.length = s.net.length + 1 ∧
      (s.entryFault fe src region code addr detail).service = s.service := by
  obtain ⟨hn, hs⟩ := s.faultNoted_sent (src := src) (code := code)
  rw [State.entryFault_eq, State.sendRecord_device ((State.domainOf_of State.faultNoted_regions _).trans hd)]
  exact ⟨by rw [List.length_append, hn]; rfl, hs⟩

end Fault

end Sys2Proof.Machine
end

section
/-! PROOF. O58, support: host queues and the entries of a front end (R59, R274-R280). -/

namespace Sys2Proof.Machine

open Sys2Proof

/-! ## The tail line (R274, R275) -/

section Tail

variable {s : State} {q : Nat}

theorem tail_unnoticed (h : (s.queue q).noticed = false) : exec (.tailNotification q) s = .next s := by
  rw [exec_tailNotification, execTailNotification]
  exact congrArg _ (if_pos (.inr h))

/-- A queue broken: its state, the log's event, and what is written of it. -/
theorem State.breakQueue_breaks (s : State) (q : Nat) : ((s.breakQueue q).queue q).state = 2 ∧
    (s.breakQueue q).service.log = s.service.log ++ [.brokenQueue q] := by
  let s1 := s.onQueue q fun x => { x with state := 2, errw := x.errw ||| 1 }
  have hw (a : Nat) (bs : List Byte) : s1.Wrote ((s1.store a bs).writeErrw q) :=
    (s1.store_only ..).wrote.trans (State.writeErrw_wrote ..)
  have hq : (s1.queue q).state = 2 := by rw [State.queue_onQueue, if_pos rfl]
  exact ⟨(congrArg Queue.state ((hw _ _).queue q)).trans hq, congrArg (fun v : Service => v.log ++ [.brokenQueue q]) (hw _ _).service⟩

theorem exec_tailNotification_noticed (hs : (s.queue q).state = 1) (hn : (s.queue q).noticed = true)
    (hw : (wordAt (s.queue q).entry 1).getLsbD 63 = true) :
    exec (.tailNotification q) s = .next (
      let s1 := s.onQueue q fun x => { x with noticed := false }
      let tail := natOf (Cells.read s.hostMem ((wordAt (s.queue q).entry 1).extractLsb' 0 56).toNat 4)
      if (s.queue q).size < (tail + (2 ^ 32 - (s.queue q).head)) % 2 ^ 32 then s1.breakQueue q
      else s1.onQueue q fun x => { x with tail := tail }) := by
  rw [exec_tailNotification, execTailNotification]
  dsimp only
  rw [if_neg (by simp [hs, hn]), State.feRead, isHost_eq, hw, if_pos rfl, placeOf_eq]
  rfl

end Tail

/-! ## An entry fetched (R275) -/

theorem State.headBack_keeps (s : State) (q : Nat) : (s.headBack q).net = s.net ∧ (s.headBack q).fes = s.fes ∧
    (s.headBack q).regions = s.regions ∧ ((s.headBack q).queue q).head = (s.queue q).head := by
  unfold State.headBack
  dsimp only
  split
  · split
    · exact ⟨rfl, rfl, rfl, by rw [State.queue_onQueue, if_pos rfl]⟩
    · have hw := State.feWrite_wrote (s.onQueue q fun x => { x with unwritten := 0 }) (isHost (wordAt (s.queue q).entry 2))
        (placeOf (wordAt (s.queue q).entry 2)) (bytesOf 8 (s.queue q).head)
      exact ⟨hw.net, hw.fes, hw.regions, by rw [hw.queue, State.queue_onQueue, if_pos rfl]⟩
  · exact ⟨rfl, rfl, rfl, rfl⟩

section Fetch

variable {s : State} {q : Nat} {x : Queue}

/-- A queue's HEAD advanced, and the queue noted as its front end's last. -/
def State.advanced (s : State) (q : Nat) : State :=
  (s.onQueue q fun x => { x with head := ((s.queue q).head + 1) % 2 ^ 32, unwritten := x.unwritten + 1 }).onFe (queueFe q)
    fun f => { f with last := q }

/-- The state after the entry at HEAD is read: HEAD advanced and written to the table. -/
def State.fetched (s : State) (q : Nat) : State :=
  ((s.advanced q).store (s.tableAt q + 32) (bytesOf 8 (((s.queue q).head + 1) % 2 ^ 32))).headBack q

theorem State.fetched_keeps (s : State) (q : Nat) : (s.fetched q).net = s.net ∧ (s.fetched q).regions = s.regions ∧
    ((s.fetched q).queue q).head = ((s.queue q).head + 1) % 2 ^ 32 ∧
    (s.fetched q).fe (queueFe q) = { s.fe (queueFe q) with last := q } := by
  have hw := ((s.advanced q).store_only (s.tableAt q + 32) (bytesOf 8 (((s.queue q).head + 1) % 2 ^ 32))).wrote
  obtain ⟨hn, hf, hr, hq⟩ := State.headBack_keeps ((s.advanced q).store (s.tableAt q + 32)
    (bytesOf 8 (((s.queue q).head + 1) % 2 ^ 32))) q
  have hhead : ((s.advanced q).queue q).head = ((s.queue q).head + 1) % 2 ^ 32 :=
    congrArg Queue.head ((State.queue_onQueue (f := fun x =>
      { x with head := ((s.queue q).head + 1) % 2 ^ 32, unwritten := x.unwritten + 1 }) ..).trans (if_pos rfl))
  have hfe : (s.fetched q).fe (queueFe q) = (s.advanced q).fe (queueFe q) := by
    rw [State.fe, State.fetched, hf, hw.fes]
    rfl
  exact ⟨hn.trans hw.net, hr.trans hw.regions, hq.trans ((congrArg Queue.head (hw.queue q)).trans hhead),
    hfe.trans ((State.fe_onFe ..).trans (if_pos rfl))⟩

/-- The only queue is served when it waits. -/
theorem State.nextQueue_only (hq : s.queues = [(q, x)]) (hx : x.waiting = true) : s.nextQueue (queueFe q) = some q := by
  unfold State.nextQueue
  simp only [hq, List.filter_cons, List.filter_nil, beq_self_eq_true, hx, Bool.and_self, if_true, List.map_cons, List.map_nil,
    List.head?_cons]
  by_cases h : (s.fe (queueFe q)).last < q <;> simp [h]

/-- An entry fetched, with what its checks answered: faulted, or put in hand. -/
def State.entryTaken (s : State) (q : Nat) (x : Queue) (ws : List Word) : Option Nat → State
  | some code => s.entryFault (queueFe q) (.queue q x.head) x.region code (placeOf (wordAt x.entry 0) + x.head % x.size * 64) 0
  | none =>
    let s1 := s.onFe (queueFe q) fun f => { f with pend := f.pend ++ [⟨.queue q x.head, x.region, ws, false⟩] }
    if kindOf ws = 2 ∨ kindOf ws = 3 then s1.onQueue q fun x => { x with busy := true } else s1

/-- The entry at HEAD is fetched: faulted where it does not parse or is not permitted, and put in hand otherwise. -/
theorem exec_queueEntryFetch_entry (hq : s.queues = [(q, x)]) (hx : x.waiting = true) (hw : (wordAt x.entry 0).getLsbD 63 = true)
    (hp : s.hostPoison = []) {ws : List Word} (hws : wordsOfBytes 8
      (Cells.read s.hostMem (((wordAt x.entry 0).extractLsb' 0 56).toNat + x.head % x.size * 64) 64) = ws) :
    exec (.queueEntryFetch q) s = .next ((s.fetched q).entryTaken q x ws
      ((s.fetched q).entryCheck ws x.region (bitAt (wordAt x.entry 3) (32 + kindOf ws)))) := by
  have hqx : s.queue q = x := by simp [State.queue, hq, SMap.get, SMap.find]
  have hbad (a n : Nat) : s.hostBad a n = [] := by simp [State.hostBad, badOffsets, hp]
  rw [exec_queueEntryFetch, execQueueEntryFetch]
  simp only [State.nextQueue_only hq hx, hqx, State.feRead, isHost_eq, hw, if_true, hbad, placeOf_eq, hws]
  simp only [ne_eq, not_true_eq_false, if_false, List.isEmpty_nil, Bool.not_true, Bool.false_eq_true]
  unfold State.fetched State.advanced
  rw [hqx]
  rfl

end Fetch

/-! ## The checks of an entry (R276, R277, R280) -/

theorem kindOf_eq (ws : List Word) : kindOf ws = (wordAt ws 0).toNat % 256 := by
  rw [kindOf, field_eq, BitVec.extractLsb'_toNat]
  simp

theorem badEntry_kind {ws : List Word} (h : 4 ≤ kindOf ws) : badEntry ws = true := by
  unfold badEntry
  dsimp only
  split <;> simp_all

theorem State.entryCheck_kind (s : State) {ws : List Word} (h : 4 ≤ kindOf ws) (region : Nat) (perm : Bool) :
    s.entryCheck ws region perm = some 0x15 := by
  rw [State.entryCheck, if_pos (badEntry_kind h)]

theorem kindOf_message {ws : List Word} {h : Nat} (hw : wordAt ws 0 = BitVec.ofNat 64 (h * 2 ^ 16)) :
    kindOf ws = 0 := by
  rw [kindOf_eq, hw, BitVec.toNat_ofNat]
  omega

/-- The entry of an active message passes its checks where its queue permits it and its region is active. -/
theorem State.entryCheck_message {s : State} {ws : List Word} {h region : Nat} (hw : wordAt ws 0 = BitVec.ofNat 64 (h * 2 ^ 16))
    (hh : h < 2 ^ 28) (hr : (s.region region).isSome = true) : s.entryCheck ws region true = none := by
  have hk := kindOf_message hw
  have hres : field (wordAt ws 0) 15 8 = 0 := by
    rw [hw, field_ofNat 15 8 (by omega)]
    omega
  have hhandler : field (wordAt ws 0) 63 16 = h := by
    rw [hw, field_ofNat 63 16 (by omega)]
    omega
  have hbad : badEntry ws = false := by
    simp only [badEntry, hk, hres, hhandler]
    simpa using hh
  simp only [State.entryCheck, hbad, hk]
  simp [Option.isSome_iff_ne_none.1 hr]

/-! ## What a fetch comes to (R275, R280) -/

section Fetch

variable {s : State} {q : Nat} {x : Queue} {ws : List Word}

theorem State.entryTaken_message (hk : kindOf ws = 0) :
    s.entryTaken q x ws none = s.onFe (queueFe q) fun f => { f with pend := f.pend ++ [⟨.queue q x.head, x.region, ws, false⟩] } := by
  rw [State.entryTaken]
  exact if_neg (by omega)

variable (hq : s.queues = [(q, x)]) (hx : x.waiting = true) (hw : (wordAt x.entry 0).getLsbD 63 = true) (hp : s.hostPoison = [])
  (hws : wordsOfBytes 8
    (Cells.read s.hostMem (((wordAt x.entry 0).extractLsb' 0 56).toNat + x.head % x.size * 64) 64) = ws)
include hq hx hw hp hws

/-- A message's entry goes in hand. -/
theorem fetch_message {h : Nat} (hword : wordAt ws 0 = BitVec.ofNat 64 (h * 2 ^ 16)) (hh : h < 2 ^ 28)
    (hperm : (wordAt x.entry 3).getLsbD 32 = true) (hr : (s.region x.region).isSome = true) :
    ∃ t, exec (.queueEntryFetch q) s = .next t ∧ (t.queue q).head = (x.head + 1) % 2 ^ 32 ∧ (t.fe (queueFe q)).last = q ∧
      (t.fe (queueFe q)).pend = (s.fe (queueFe q)).pend ++ [⟨.queue q x.head, x.region, ws, false⟩] := by
  have hqx : s.queue q = x := by simp [State.queue, hq, SMap.get, SMap.find]
  have hstep := exec_queueEntryFetch_entry hq hx hw hp hws
  have hk := kindOf_message hword
  obtain ⟨-, hreg, hhead, hfe⟩ := s.fetched_keeps q
  rw [hqx] at hhead
  generalize s.fetched q = u at hstep hreg hhead hfe
  have hcheck : u.entryCheck ws x.region (bitAt (wordAt x.entry 3) (32 + kindOf ws)) = none := by
    rw [hk, bitAt, hperm]
    exact State.entryCheck_message hword hh (by rw [State.region_of hreg]; exact hr)
  rw [hcheck, State.entryTaken_message hk] at hstep
  refine ⟨_, hstep, hhead, ?_, ?_⟩ <;> rw [State.fe_onFe, if_pos rfl, hfe]

/-- An entry of a reserved KIND is the bad-block fault. -/
theorem fetch_reserved (hk : 4 ≤ kindOf ws) (hd : s.domainOf x.region = some 1) :
    ∃ t, exec (.queueEntryFetch q) s = .next t ∧ (t.queue q).head = (x.head + 1) % 2 ^ 32 ∧
      (t.fe (queueFe q)).pend = (s.fe (queueFe q)).pend ∧ t.Reports 0x15 4 (.frontEnd (queueFe q)) := by
  have hqx : s.queue q = x := by simp [State.queue, hq, SMap.get, SMap.find]
  have hstep := exec_queueEntryFetch_entry hq hx hw hp hws
  obtain ⟨-, hreg, hhead, hfe⟩ := s.fetched_keeps q
  rw [hqx] at hhead
  generalize s.fetched q = u at hstep hreg hhead hfe
  rw [u.entryCheck_kind hk] at hstep
  have hf := u.entryFault_faulted (fe := queueFe q) (src := .queue q x.head) (region := x.region) (code := 0x15)
    (addr := placeOf (wordAt x.entry 0) + x.head % x.size * 64) (detail := 0)
  obtain ⟨w, hqueue⟩ := hf.queue q
  refine ⟨_, hstep, ?_, ?_, State.entryFault_reports ((State.domainOf_of hreg _).trans hd)⟩
  · rw [State.entryTaken, hqueue]
    exact hhead
  · rw [State.entryTaken, State.fe, hf.fes]
    show (u.fe (queueFe q)).pend = _
    rw [hfe]

end Fetch

/-! ## Entries in hand -/

theorem State.entry_single {s : State} {f : Nat} {e : FeEntry} (h : (s.fe f).pend = [e]) : s.entry f 0 = some e := by
  simp [State.entry, h]

theorem State.fe_dropEntry {s : State} {f : Nat} {e : FeEntry} (h : (s.fe f).pend = [e]) :
    (s.dropEntry f 0).fe f = { s.fe f with pend := [] } := by
  rw [State.dropEntry, State.fe_onFe, if_pos rfl, h]
  rfl

/-- An address hashes alike where memory, the region's affinity table and its cache are the same. -/
theorem State.Hashes.of {s t : State} {a : Agent} {r e : Nat} {addr : Word} (h : s.Hashes a r addr e)
    (hr : ∀ g, s.region r = some g → ∃ g', t.region r = some g' ∧ g'.affg = g.affg ∧ g'.affm = g.affm ∧ g'.afftab = g.afftab)
    (hl : t.lost = s.lost) (hb : t.bindings = s.bindings) (hm : t.mem = s.mem) (ha : t.affCache a = s.affCache a) :
    t.Hashes a r addr e := by
  obtain ⟨g, hg, hlost, hk⟩ := h
  obtain ⟨g', hg', h1, h2, h3⟩ := hr g hg
  have hba (x : Nat) : t.bindingAt x = s.bindingAt x := by simp only [State.bindingAt, hb]
  refine ⟨g', hg', hl.trans hlost, ?_⟩
  simpa only [h1, h2, h3, hba, hm, ha] using hk

/-- The packet of an entry's message to core `n`. -/
def FeEntry.message (e : FeEntry) (f n : Nat) : Packet :=
  ⟨.sig, .frontEnd f, .core n, e.region,
    .amsg (field (wordAt e.words 0) 43 16) (wordAt e.words 1) ((e.words.drop 2).take 6) e.queue⟩

section Message

variable {s : State} {f n : Nat} {e : FeEntry}

theorem State.Hashed.sameBytes {s t : State} {a : Agent} (h : s.Hashed a t) : s.SameBytes t :=
  ⟨fun _ => by rw [h.mem], fun _ => by rw [h.hostMem], fun n _ => by rw [h.cores n]⟩

/-- A message entry goes to the core that its region's affinity entry names (R59). -/
theorem State.messageEntry_owned (h : s.Hashes (.frontEnd f) e.region (wordAt e.words 1) n) (ho : s.Owns e.region n) :
    ∃ t, s.Hashed (.frontEnd f) t ∧ s.messageEntry f e = { t with net := s.net ++ [e.message f n] } := by
  obtain ⟨h1, -, h3⟩ := State.ownerOf_hashes h
  have h1 := h1 ho
  refine ⟨(s.ownerOf (.frontEnd f) e.region (wordAt e.words 1)).2, h3, ?_⟩
  rw [← h3.net]
  unfold State.messageEntry
  generalize s.ownerOf (.frontEnd f) e.region (wordAt e.words 1) = o at h1
  obtain ⟨o, u⟩ := o
  cases h1
  rfl

/-- One whose affinity entry is bad sends a record alone (R277, R280). -/
theorem State.messageEntry_unowned (h : s.Hashes (.frontEnd f) e.region (wordAt e.words 1) n) (ho : ¬ s.Owns e.region n) :
    ∃ t, s.Hashed (.frontEnd f) t ∧ s.messageEntry f e = t.entryFault f e.src e.region 0x09 0 0 := by
  obtain ⟨-, h2, h3⟩ := State.ownerOf_hashes h
  have h2 := h2 ho
  refine ⟨(s.ownerOf (.frontEnd f) e.region (wordAt e.words 1)).2, h3, ?_⟩
  unfold State.messageEntry
  generalize s.ownerOf (.frontEnd f) e.region (wordAt e.words 1) = o at h2
  obtain ⟨o, u⟩ := o
  cases h2
  rfl

end Message

end Sys2Proof.Machine
end

section
/-! PROOF. O58, support: message, region-control and fence entries, and what a trigger does (R59, R277-R279, R284-R287). -/

namespace Sys2Proof.Machine

open Sys2Proof

section Entry

variable {s : State} {f : Nat} {e : FeEntry}

/-! ## Active messages (R59, R277) -/

theorem exec_activeMessageEntry_single (hp : (s.fe f).pend = [e]) (hk : kindOf e.words = 0) :
    exec (.activeMessageEntry f 0) s = .next ((s.dropEntry f 0).messageEntry f e) := by
  rw [exec_activeMessageEntry, execActiveMessageEntry, State.entry_single hp]
  exact congrArg _ (if_neg (by simp [hk]))

theorem State.affCache_dropEntry (s : State) (f i : Nat) : (s.dropEntry f i).affCache (.frontEnd f) = s.affCache (.frontEnd f) := by
  show ((s.dropEntry f i).fe f).aff = (s.fe f).aff
  rw [State.dropEntry, State.fe_onFe, if_pos rfl]

theorem State.Hashes.dropEntry {r n : Nat} {addr : Word} (h : s.Hashes (.frontEnd f) r addr n) (i : Nat) :
    (s.dropEntry f i).Hashes (.frontEnd f) r addr n :=
  h.of (fun g hg => ⟨g, hg, rfl, rfl, rfl⟩) rfl rfl rfl (s.affCache_dropEntry f i)

/-- An active-message entry goes to the core that its region's affinity entry names, and a bad entry sends a record alone. -/
theorem message_entry {n : Nat} (hp : (s.fe f).pend = [e]) (hk : kindOf e.words = 0)
    (h : s.Hashes (.frontEnd f) e.region (wordAt e.words 1) n) :
    ∃ t, exec (.activeMessageEntry f 0) s = .next t ∧ (t.fe f).pend = [] ∧ t.SameCores s ∧
      (s.Owns e.region n → s.SameBytes t ∧ t.net = s.net ++ [e.message f n]) ∧
      (¬ s.Owns e.region n → s.domainOf e.region = some 1 →
        t.net.length = s.net.length + 1 ∧ t.Reports 0x09 4 (.frontEnd f)) := by
  have hd := h.dropEntry 0
  have hpend (t : State) (ht : (s.dropEntry f 0).Hashed (.frontEnd f) t) : (t.fe f).pend = [] := by
    rw [ht.fes, State.fe_dropEntry hp]
  refine ⟨_, exec_activeMessageEntry_single hp hk, ?_⟩
  by_cases ho : s.Owns e.region n
  · obtain ⟨t, ht, heq⟩ := State.messageEntry_owned hd ho
    rw [heq]
    exact ⟨hpend t ht, fun m => (ht.others m nofun).symm, fun _ => ⟨ht.sameBytes, rfl⟩, fun hn => absurd ho hn⟩
  · obtain ⟨t, ht, heq⟩ := State.messageEntry_unowned hd ho
    rw [heq]
    have hf := t.entryFault_faulted (fe := f) (src := e.src) (region := e.region) (code := 0x09) (addr := 0) (detail := 0)
    refine ⟨?_, fun m => ?_, fun h => absurd h ho, fun _ hdom => ?_⟩
    · rw [State.fe, hf.fes]
      exact hpend t ht
    · exact ((ht.others m nofun).symm.trans (State.core_of_cores hf.cores m).symm)
    · have hdom : t.domainOf e.region = some 1 := (State.domainOf_of ht.regions _).trans hdom
      exact ⟨(State.entryFault_sent hdom).1.trans (by rw [ht.net]; rfl), State.entryFault_reports hdom⟩

/-! ## Triggers armed (R284, R286) -/

theorem State.armWith_arms {fire : State → Nat → Nat → State} {b t region thresh : Nat} {cmd : List Word} (h0 : 0 < thresh)
    (h24 : thresh < 2 ^ 24) (ha : (s.trigger b t).armed = false) (hc : cmd.length = 8) :
    s.armWith fire b t region thresh cmd = .ok (s.setTrigger b t ⟨true, region, thresh, thresh, cmd⟩) := by
  have hpad : padWords 8 cmd = cmd := by simp [padWords, ← hc]
  simp only [State.armWith, if_neg (show ¬ 2 ^ 24 ≤ thresh by omega), ha, Bool.false_and, Bool.false_eq_true, if_false,
    if_neg (show thresh ≠ 0 by omega), hpad]

theorem State.armWith_large {fire : State → Nat → Nat → State} {b t region thresh : Nat} {cmd : List Word} (h : 2 ^ 24 ≤ thresh) :
    s.armWith fire b t region thresh cmd = .error 0x07 := if_pos h

theorem wordsOfBytes_length (n : Nat) (bs : List Byte) : (wordsOfBytes n bs).length = n := by
  induction n generalizing bs with
  | zero => rfl
  | succ n ih => simp [wordsOfBytes, ih]

/-- The trigger that an arming entry or command of this module leaves, with its command from host memory. -/
def FeEntry.armed (e : FeEntry) (m : List Host.Cell) : Trigger :=
  ⟨true, e.region, (wordAt e.words 2).toNat, (wordAt e.words 2).toNat,
    wordsOfBytes 8 (Cells.read m ((wordAt e.words 3).extractLsb' 0 56).toNat 64)⟩

/-- A trigger of this module is armed with a command from host memory. -/
theorem State.armEntry_here (fire : State → Nat → Nat → State) (hm : (Ref.of (wordAt e.words 1)).module = s.brielo.number)
    (h0 : 0 < (wordAt e.words 2).toNat) (h24 : (wordAt e.words 2).toNat < 2 ^ 24) (hh : (wordAt e.words 3).getLsbD 63 = true)
    (hp : s.hostPoison = []) (ha : (s.trigger (Ref.of (wordAt e.words 1)).frontEnd (Ref.of (wordAt e.words 1)).slot).armed = false) :
    s.armEntry fire f e
      = s.setTrigger (Ref.of (wordAt e.words 1)).frontEnd (Ref.of (wordAt e.words 1)).slot (e.armed s.hostMem) := by
  simp only [State.armEntry, State.feRead_host hh hp, hm, if_true, Bool.false_eq_true, if_false,
    State.armWith_arms h0 h24 ha (wordsOfBytes_length ..)]
  rfl

theorem armed_of_armEntry (hp : (s.fe f).pend = [e]) (hk : kindOf e.words = 1)
    (hm : (Ref.of (wordAt e.words 1)).module = s.brielo.number)
    (h0 : 0 < (wordAt e.words 2).toNat) (h24 : (wordAt e.words 2).toNat < 2 ^ 24) (hh : (wordAt e.words 3).getLsbD 63 = true)
    (hpo : s.hostPoison = []) (ha : (s.trigger (Ref.of (wordAt e.words 1)).frontEnd (Ref.of (wordAt e.words 1)).slot).armed = false) :
    ∃ t, exec (.triggerArmEntry f 0) s = .next t ∧ (t.fe f).pend = [] ∧
      t.trigger (Ref.of (wordAt e.words 1)).frontEnd (Ref.of (wordAt e.words 1)).slot = e.armed s.hostMem := by
  have htrig (b u : Nat) : (s.dropEntry f 0).trigger b u = s.trigger b u := by
    rw [State.trigger, State.dropEntry, State.fe_onFe]
    split
    · next h => rw [h]; rfl
    · rfl
  have hstep : exec (.triggerArmEntry f 0) s = .next ((s.dropEntry f 0).armEntry State.fireTrigger f e) := by
    rw [exec_triggerArmEntry, execTriggerArmEntry, State.entry_single hp]
    exact congrArg _ (if_neg (by simp [hk]))
  rw [State.armEntry_here (s := s.dropEntry f 0) _ hm h0 h24 hh hpo (by rw [htrig]; exact ha)] at hstep
  refine ⟨_, hstep, ?_, ?_⟩
  · rw [State.pend_setTrigger, State.fe_dropEntry hp]
  · rw [State.trigger_setTrigger, if_pos ⟨rfl, rfl⟩]
    rfl

/-! ## Region control (R278) -/

section Control

variable {q i : Nat}

/-- The region that a region control names: its target, for ACT its PARENT (R278). -/
def State.named (s : State) (e : FeEntry) : Option Nat :=
  s.regionOfRcb (if (wordAt e.words 0).extractLsb' 16 3 = 0 then (s.peek64 (wordAt e.words 1).toNat).toNat else (wordAt e.words 1).toNat)

/-- The operation that a region-control entry asks for. -/
def FeEntry.control (e : FeEntry) (q i : Nat) : RgnOp :=
  ⟨((wordAt e.words 0).extractLsb' 16 3).toNat, wordAt e.words 1, wordAt e.words 2, 0, e.region, some (q, i), 0, []⟩

theorem exec_regionControlEntry_single (hp : (s.fe f).pend = [e]) (hk : kindOf e.words = 2) (hsrc : e.src = .queue q i) :
    exec (.regionControlEntry f 0) s = .next (
      let s1 := s.dropEntry f 0
      if (s.named e).any fun r => s.within r e.region then
        { s1 with service := { s1.service with ops := s1.service.ops ++ [e.control q i] } }
      else (s1.onQueue q fun x => { x with busy := false }).entryFault f e.src e.region 0x02 0 0) := by
  have hop : field (wordAt e.words 0) 18 16 = ((wordAt e.words 0).extractLsb' 16 3).toNat := field_eq ..
  have hzero : (((wordAt e.words 0).extractLsb' 16 3).toNat = 0) = ((wordAt e.words 0).extractLsb' 16 3 = 0) := by
    simp [← BitVec.toNat_inj]
  rw [exec_regionControlEntry, execRegionControlEntry, State.entry_single hp]
  simp only [hk, hsrc, hop, hzero]
  rfl

/-- A target at or below the entry's region is handed to the service core. -/
theorem control_entry {r : Nat} (hp : (s.fe f).pend = [e]) (hk : kindOf e.words = 2) (hsrc : e.src = .queue q i)
    (hr : s.named e = some r) (hw : (s.ancestry 8 r).contains e.region = true) :
    ∃ t, exec (.regionControlEntry f 0) s = .next t ∧ (t.fe f).pend = [] ∧ t.service.ops = s.service.ops ++ [e.control q i] := by
  refine ⟨_, (exec_regionControlEntry_single hp hk hsrc).trans (congrArg _ (if_pos ?_)), ?_, rfl⟩
  · rw [hr]; exact hw
  · exact congrArg FrontEnd.pend (State.fe_dropEntry hp)

/-- Any other target is the privileged fault. -/
theorem control_refused (hp : (s.fe f).pend = [e]) (hk : kindOf e.words = 2) (hsrc : e.src = .queue q i)
    (hr : ∀ r, s.named e = some r → (s.ancestry 8 r).contains e.region = false) (hd : s.domainOf e.region = some 1) :
    ∃ t, exec (.regionControlEntry f 0) s = .next t ∧ t.service.ops = s.service.ops ∧ (t.queue q).busy = false ∧
      t.Reports 0x02 4 (.frontEnd f) := by
  have hd' : ((s.dropEntry f 0).onQueue q fun x => { x with busy := false }).domainOf e.region = some 1 := hd
  have hnot : ¬ ((s.named e).any fun r => s.within r e.region) = true := by
    cases h : s.named e with
    | none => simp
    | some r => simp only [Option.any_some, State.within, hr r h, Bool.false_eq_true, not_false_eq_true]
  refine ⟨_, (exec_regionControlEntry_single hp hk hsrc).trans (congrArg _ (if_neg hnot)), ?_, ?_, State.entryFault_reports hd'⟩
  · rw [(State.entryFault_sent hd').2]
    rfl
  · obtain ⟨w, hw⟩ := (State.entryFault_faulted (s := (s.dropEntry f 0).onQueue q fun x => { x with busy := false }) (fe := f)
      (src := e.src) (region := e.region) (code := 0x02) (addr := 0) (detail := 0)).queue q
    rw [hw, State.queue_onQueue, if_pos rfl]

end Control

/-! ## Fences (R279) -/

theorem State.send_sameStores (s : State) (p : Packet) : s.SameStores (s.send p) := by constructor <;> simp

section Fence

variable {q i : Nat}

/-- The state after a fence is over: its entry gone, its queue going on. -/
def State.fenced (s : State) (f q : Nat) : State := (s.dropEntry f 0).onQueue q fun x => { x with busy := false }

theorem State.fenced_keeps (hp : (s.fe f).pend = [e]) : ((s.fenced f q).fe f).pend = [] ∧ ((s.fenced f q).queue q).busy = false :=
  ⟨congrArg FrontEnd.pend (State.fe_dropEntry hp), by rw [State.fenced, State.queue_onQueue, if_pos rfl]⟩

theorem fence_waits (hp : (s.fe f).pend = [e]) (hk : kindOf e.words = 3) (hsrc : e.src = .queue q i) (hu : s.undelivered q = true) :
    exec (.queueFence f 0) s = .next s := by
  rw [exec_queueFence, execQueueFence, State.entry_single hp]
  simp only [hk, hsrc, hu, if_true]

/-- The write of a fence to a place of the device. -/
theorem exec_queueFence_write (hp : (s.fe f).pend = [e]) (hk : kindOf e.words = 3) (hsrc : e.src = .queue q i)
    (hu : s.undelivered q = false) (hw : wordAt e.words 2 ≠ 0) (hwrote : e.wrote = false) (hh : (wordAt e.words 2).getLsbD 63 = false) :
    exec (.queueFence f 0) s = .next ((s.store ((wordAt e.words 2).extractLsb' 0 56).toNat (bytesOf 8 (wordAt e.words 3).toNat)).onFe f
      fun x => { x with pend := setAt x.pend 0 { e with wrote := true } }) := by
  rw [exec_queueFence, execQueueFence, State.entry_single hp]
  simp only [hk, hsrc, hu, hw, hwrote, isHost_eq, hh, placeOf_eq, State.feWrite, ne_eq, not_false_eq_true, and_self, if_true,
    Bool.false_eq_true, if_false]

theorem fence_writes (hp : (s.fe f).pend = [e]) (hk : kindOf e.words = 3) (hsrc : e.src = .queue q i) (hu : s.undelivered q = false)
    (hw : wordAt e.words 2 ≠ 0) (hwrote : e.wrote = false) (hh : (wordAt e.words 2).getLsbD 63 = false) (hb : s.bindings = [])
    (hm : Memory.wf s.mem = true) :
    ∃ t, exec (.queueFence f 0) s = .next t ∧ (t.fe f).pend = [{ e with wrote := true }] ∧ t.net = s.net ∧
      Cells.read t.mem ((wordAt e.words 2).extractLsb' 0 56).toNat 8 = bytesOf 8 (wordAt e.words 3).toNat ∧
      ∀ b, b < ((wordAt e.words 2).extractLsb' 0 56).toNat ∨ ((wordAt e.words 2).extractLsb' 0 56).toNat + 8 ≤ b →
        Cells.get t.mem b = Cells.get s.mem b := by
  have hstep := exec_queueFence_write hp hk hsrc hu hw hwrote hh
  generalize ((wordAt e.words 2).extractLsb' 0 56).toNat = a at hstep
  have hkeep := (s.store_only a (bytesOf 8 (wordAt e.words 3).toNat)).wrote
  have hmem : (s.store a (bytesOf 8 (wordAt e.words 3).toNat)).mem = Cells.write s.mem a (bytesOf 8 (wordAt e.words 3).toNat) :=
    (State.store_mem hb ..).trans (Cells.writeSome_some ..)
  have hlen := bytesOf_length 8 (wordAt e.words 3).toNat
  refine ⟨_, hstep, ?_, hkeep.net, ?_, fun b hb' => ?_⟩
  · rw [State.fe_onFe, if_pos rfl, hkeep.fe, hp]
    rfl
  · have := Cells.read_write a (bytesOf 8 (wordAt e.words 3).toNat) hm
    rw [hlen, ← hmem] at this
    exact this
  · exact (congrArg (Cells.get · b) hmem).trans (Cells.get_write_outside _ _ _ hm (by rwa [hlen]))

/-- The signal of a fence. -/
def FeEntry.signal (e : FeEntry) (s : State) (f : Nat) : Packet :=
  ⟨.sig, .frontEnd f, s.refAgent (Ref.of (wordAt e.words 1)), e.region, .signal (wordAt e.words 1) 1 .none true false⟩

/-- The end of a fence with nothing to write, or after its write. -/
theorem fence_ends (hp : (s.fe f).pend = [e]) (hk : kindOf e.words = 3) (hsrc : e.src = .queue q i) (hu : s.undelivered q = false)
    (hw : wordAt e.words 2 = 0 ∨ e.wrote = true) (hr : wordAt e.words 1 ≠ 0 → s.routeOk (Ref.of (wordAt e.words 1)).module = true ∧
      s.Reaches (s.refAgent (Ref.of (wordAt e.words 1)))) :
    ∃ t, exec (.queueFence f 0) s = .next t ∧ (t.fe f).pend = [] ∧ (t.queue q).busy = false ∧ s.SameBytes t ∧
      t.net = s.net ++ if wordAt e.words 1 = 0 then [] else [e.signal s f] := by
  have hnot : ¬ (wordAt e.words 2 ≠ 0 ∧ e.wrote = false) := by rcases hw with h | h <;> simp [h]
  obtain ⟨hpend, hbusy⟩ := State.fenced_keeps (q := q) hp
  have hbytes : s.SameBytes (s.fenced f q) := ⟨fun _ => rfl, fun _ => rfl, fun _ _ => rfl⟩
  by_cases h1 : wordAt e.words 1 = 0
  · have hstep : exec (.queueFence f 0) s = .next (s.fenced f q) := by
      rw [exec_queueFence, execQueueFence, State.entry_single hp]
      simp only [hk, hsrc, hu, hnot, h1, if_true, if_false, Bool.false_eq_true]
      rfl
    exact ⟨_, hstep, hpend, hbusy, hbytes, by rw [if_pos h1, List.append_nil]; rfl⟩
  · obtain ⟨hroute, hreach⟩ := hr h1
    have hstep : exec (.queueFence f 0) s = .next ((s.fenced f q).send (e.signal s f)) := by
      rw [exec_queueFence, execQueueFence, State.entry_single hp]
      simp only [hk, hsrc, hu, hnot, h1, hroute, if_true, if_false, Bool.false_eq_true]
      rfl
    refine ⟨_, hstep, ?_, ?_, ?_, ?_⟩
    · rw [State.fe, (State.send_keeps ..).1]
      exact hpend
    · rw [State.queue, (State.send_keeps ..).2]
      exact hbusy
    · exact hbytes.trans (State.send_sameStores ..).sameBytes
    · refine (State.net_send (s := s.fenced f q) (p := e.signal s f) hreach).trans ?_
      rw [if_neg h1]
      rfl

end Fence

end Entry

end Sys2Proof.Machine
end

section
/-! PROOF. O58, support: ARM packets and signals at a trigger (R284, R286, R287). -/

namespace Sys2Proof.Machine

open Sys2Proof

/-! ## ARM (R284, R286) -/

section Arming

variable {s : State} {k f rgn thresh : Nat} {cls : PClass} {src : Agent} {ref : Word} {cmd : List Word} {org : Origin} {of_ : Option Nat}

/-- An ARM arms its trigger. -/
theorem arming_arms (hp : s.packet k = some ⟨cls, src, .frontEnd f, rgn, .arm ref thresh cmd org of_⟩) (hc : cmd.length = 8)
    (h0 : 0 < thresh) (h24 : thresh < 2 ^ 24) (ha : (s.trigger f (Ref.of ref).slot).armed = false) :
    exec (.triggerArming k) s = .next ((s.drop k).setTrigger f (Ref.of ref).slot ⟨true, rgn, thresh, thresh, cmd⟩) := by
  rw [exec_triggerArming, execTriggerArming, hp]
  simp only [State.armTrigger, State.armWith_arms (s := s.drop k) h0 h24 ha hc]

/-- A threshold too large is reported. -/
theorem arming_refused (hp : s.packet k = some ⟨cls, src, .frontEnd f, rgn, .arm ref thresh cmd org of_⟩) (h24 : 2 ^ 24 ≤ thresh) :
    exec (.triggerArming k) s = .next ((s.drop k).sendRecord org.region (Rec.of 0x07 4 (.frontEnd f) org 0 0)) := by
  rw [exec_triggerArming, execTriggerArming, hp]
  simp only [State.armTrigger, State.armWith_large (s := s.drop k) h24]

end Arming

/-! ## A region's progress counted (R296) -/

theorem State.onRegion_eq (s : State) (r : Nat) (g : Region → Region) :
    s.onRegion r g = { s with regions := (s.onRegion r g).regions } := by
  unfold State.onRegion
  split <;> rfl

theorem State.region_onRegion (s : State) (r k : Nat) (g : Region → Region) :
    (s.onRegion r g).region k = if k = r then (s.region k).map g else s.region k := by
  unfold State.onRegion
  split
  · next h =>
    split
    · next hk => rw [hk, h]; rfl
    · rfl
  · next x h =>
    refine (SMap.find_set ..).trans ?_
    split
    · next hk => rw [hk, h]; rfl
    · rfl

/-! ## A trigger's signal (R287) -/

section Signal

variable {s : State} {f t : Nat} {x : Trigger}

theorem State.affCache_setTrigger (s : State) (b t : Nat) (x : Trigger) :
    (s.setTrigger b t x).affCache (.frontEnd b) = s.affCache (.frontEnd b) := by
  show ((s.setTrigger b t x).fe b).aff = (s.fe b).aff
  rw [State.setTrigger, State.fe_onFe, if_pos rfl]

/-- Firing a trigger disarms it and counts its region's progress: nothing else changes before its command. -/
structure State.Disarmed (s : State) (f t : Nat) (x : Trigger) (u : State) : Prop where
  trigger : u.trigger f t = { x with armed := false, count := 0 }
  pend : ∀ c, (u.fe c).pend = (s.fe c).pend
  aff : u.affCache (.frontEnd f) = s.affCache (.frontEnd f)
  net : u.net = s.net
  mem : u.mem = s.mem
  host : u.hostMem = s.hostMem ∧ u.hostPoison = s.hostPoison
  brielo : u.brielo = s.brielo
  streams : u.lost = s.lost ∧ u.bindings = s.bindings
  region : ∀ r g, s.region r = some g → ∃ n, u.region r = some { g with progress := n }

theorem State.disarmTrigger_disarmed (hx : s.trigger f t = x) : s.Disarmed f t x (s.disarmTrigger f t) := by
  have hregion (r : Nat) (g : Region) (hg : s.region r = some g) : ∃ n, (s.disarmTrigger f t).region r = some { g with progress := n } := by
    have hg' : (s.setTrigger f t { s.trigger f t with armed := false, count := 0 }).region r = some g := hg
    rw [State.disarmTrigger, State.progress, State.region_onRegion, hg']
    split
    · exact ⟨_, rfl⟩
    · exact ⟨g.progress, rfl⟩
  have heq : s.disarmTrigger f t = { s.setTrigger f t { x with armed := false, count := 0 } with regions := (s.disarmTrigger f t).regions } := by
    rw [State.disarmTrigger, hx]
    exact State.onRegion_eq ..
  generalize s.disarmTrigger f t = u at hregion heq
  generalize u.regions = l at heq
  subst heq
  exact ⟨(State.trigger_setTrigger ..).trans (if_pos ⟨rfl, rfl⟩), fun c => State.pend_setTrigger .., State.affCache_setTrigger .., rfl, rfl,
    ⟨rfl, rfl⟩, rfl, ⟨rfl, rfl⟩, hregion⟩

theorem State.Disarmed.isSome {u : State} (h : s.Disarmed f t x u) {r : Nat} (hr : (s.region r).isSome = true) :
    (u.region r).isSome = true := by
  obtain ⟨g, hg⟩ := Option.isSome_iff_exists.1 hr
  obtain ⟨n, hn⟩ := h.region r g hg
  rw [hn]; rfl

theorem State.Disarmed.hashes {u : State} (h : s.Disarmed f t x u) {r n : Nat} {addr : Word} (hh : s.Hashes (.frontEnd f) r addr n) :
    u.Hashes (.frontEnd f) r addr n :=
  hh.of (fun g hg => by obtain ⟨m, hm⟩ := h.region r g hg; exact ⟨_, hm, rfl, rfl, rfl⟩) h.streams.1 h.streams.2 h.mem h.aff

theorem State.Disarmed.owns {u : State} (h : s.Disarmed f t x u) {r n : Nat} (ho : s.Owns r n) : u.Owns r n := by
  obtain ⟨h0, g, hg, hs⟩ := ho
  obtain ⟨m, hm⟩ := h.region r g hg
  exact ⟨h0, _, hm, hs⟩

/-- A command without a fault is performed as the entry it is. -/
theorem State.fireTrigger_entry (hx : s.trigger f t = x) (hc : (s.disarmTrigger f t).commandFault x = none) :
    s.fireTrigger f t = if kindOf x.cmd = 0 then (s.disarmTrigger f t).messageEntry f (x.entry t)
      else (s.disarmTrigger f t).armEntry State.fireNested f (x.entry t) := by
  rw [State.fireTrigger, hx]
  simp only [hc]

/-- A trigger that fires a message (R59, R287). -/
theorem State.fireTrigger_message {h n : Nat} (hx : s.trigger f t = x) (hw : wordAt x.cmd 0 = BitVec.ofNat 64 (h * 2 ^ 16)) (hh : h < 2 ^ 28)
    (hash : s.Hashes (.frontEnd f) x.region (wordAt x.cmd 1) n) (ho : s.Owns x.region n) :
    (s.fireTrigger f t).trigger f t = { x with armed := false, count := 0 } ∧ ((s.fireTrigger f t).fe f).pend = (s.fe f).pend ∧
      (s.fireTrigger f t).net = s.net ++
        [⟨.sig, .frontEnd f, .core n, x.region, .amsg h (wordAt x.cmd 1) ((x.cmd.drop 2).take 6) none⟩] := by
  have hk := kindOf_message hw
  have hd := State.disarmTrigger_disarmed hx
  have hsome : (s.region x.region).isSome = true := by
    obtain ⟨g, hg, -⟩ := hash
    rw [hg]; rfl
  have hfault : (s.disarmTrigger f t).commandFault x = none := by
    rw [State.commandFault, hk]
    exact State.entryCheck_message hw hh (hd.isSome hsome)
  have hfield : field (wordAt x.cmd 0) 43 16 = h := by
    rw [hw, field_ofNat 43 16 (by omega)]
    omega
  obtain ⟨u, hu, heq⟩ := State.messageEntry_owned (f := f) (e := x.entry t) (hd.hashes hash) (hd.owns ho)
  rw [State.fireTrigger_entry hx hfault, if_pos hk, heq]
  have hfe := hu.fes f
  refine ⟨?_, ?_, ?_⟩
  · exact (congrArg (fun v : FrontEnd => SMap.get v.trig t Trigger.init) hfe).trans hd.trigger
  · exact (congrArg FrontEnd.pend hfe).trans (hd.pend f)
  · show (s.disarmTrigger f t).net ++ [_] = _
    rw [hd.net, FeEntry.message, Trigger.entry, hfield]
    rfl

/-- The command of a trigger that arms itself anew passes its checks. -/
theorem State.entryCheck_rearm {self : Word} {region thresh p : Nat} (h24 : thresh < 2 ^ 24) (hp : p < 2 ^ 56) (hp64 : p % 64 = 0)
    (hok : s.refOk self = true) (ht : (Ref.of self).t = true) (hr : (s.region region).isSome = true) :
    s.entryCheck [1, self, BitVec.ofNat 64 thresh, BitVec.ofNat 64 (2 ^ 63 + p), 0, 0, 0, 0] region true = none := by
  have hplace : field (BitVec.ofNat 64 (2 ^ 63 + p)) 62 56 = 0 := by
    rw [field_ofNat 62 56 (by omega)]
    omega
  have halign : field (BitVec.ofNat 64 (2 ^ 63 + p)) 5 0 = 0 := by
    rw [field_ofNat 5 0 (by omega)]
    omega
  have hthresh : field (BitVec.ofNat 64 thresh) 63 24 = 0 := by
    rw [field_ofNat 63 24 (by omega)]
    omega
  have hhost : isHost (BitVec.ofNat 64 (2 ^ 63 + p)) = true := by
    rw [isHost, bitAt_ofNat _ (by decide)]
    simp
    omega
  have hkind : kindOf [1, self, BitVec.ofNat 64 thresh, BitVec.ofNat 64 (2 ^ 63 + p), 0, 0, 0, 0] = 1 := rfl
  have hone : field (1 : Word) 15 8 = 0 ∧ field (1 : Word) 63 16 = 0 := by decide
  have hbad : badEntry [1, self, BitVec.ofNat 64 thresh, BitVec.ofNat 64 (2 ^ 63 + p), 0, 0, 0, 0] = false := by
    simp only [badEntry, hkind, wordAt, List.getD_cons_zero, List.getD_cons_succ, hone, hplace, halign]
    rfl
  simp only [State.entryCheck, hbad, hkind, wordAt, List.getD_cons_zero, List.getD_cons_succ, hok, ht, hthresh, State.entryPlaceOk, hhost]
  simp [Option.isSome_iff_ne_none.1 hr]

/-- The command that arms a trigger anew, from a place of host memory. -/
def rearm (self : Word) (thresh p : Nat) : List Word := [1, self, BitVec.ofNat 64 thresh, BitVec.ofNat 64 (2 ^ 63 + p), 0, 0, 0, 0]

/-- A trigger whose command arms it anew is armed in the same step (R287). -/
theorem State.fireTrigger_rearm {self : Word} {thresh p : Nat} (hx : s.trigger f t = x) (hcmd : x.cmd = rearm self thresh p)
    (h0 : 0 < thresh) (h24 : thresh < 2 ^ 24) (hp : p < 2 ^ 56) (hp64 : p % 64 = 0) (hok : s.refOk self = true)
    (ht : (Ref.of self).t = true) (hm : (Ref.of self).module = s.brielo.number) (hf : (Ref.of self).frontEnd = f)
    (hs : (Ref.of self).slot = t) (hr : (s.region x.region).isSome = true) (hpo : s.hostPoison = []) :
    (s.fireTrigger f t).trigger f t = ⟨true, x.region, thresh, thresh, wordsOfBytes 8 (Cells.read s.hostMem p 64)⟩ ∧
      ((s.fireTrigger f t).fe f).pend = (s.fe f).pend ∧ (s.fireTrigger f t).net = s.net := by
  have hd := State.disarmTrigger_disarmed hx
  have hkind : kindOf x.cmd = 1 := by rw [hcmd]; rfl
  have hok' : (s.disarmTrigger f t).refOk self = true := by rw [State.refOk, State.routeOk, hd.brielo]; exact hok
  have hfault : (s.disarmTrigger f t).commandFault x = none := by
    rw [State.commandFault, hkind, hcmd]
    exact State.entryCheck_rearm h24 hp hp64 hok' ht (hd.isSome hr)
  have hself : wordAt (x.entry t).words 1 = self := by rw [Trigger.entry, hcmd]; rfl
  have hthresh : (wordAt (x.entry t).words 2).toNat = thresh := by
    rw [Trigger.entry, hcmd]
    exact BitVec.toNat_ofNat .. |>.trans (Nat.mod_eq_of_lt (by omega))
  have hplace : ((wordAt (x.entry t).words 3).extractLsb' 0 56).toNat = p ∧ (wordAt (x.entry t).words 3).getLsbD 63 = true := by
    have : wordAt (x.entry t).words 3 = BitVec.ofNat 64 (2 ^ 63 + p) := by rw [Trigger.entry, hcmd]; rfl
    rw [this]
    constructor
    · rw [extractLsb'_ofNat _ (by decide), BitVec.toNat_ofNat]
      omega
    · show bitAt _ 63 = true
      rw [bitAt_ofNat _ (by decide), decide_eq_true_eq]
      omega
  rw [State.fireTrigger_entry hx hfault, if_neg (by omega), State.armEntry_here (s := s.disarmTrigger f t) State.fireNested
    (by rw [hself, hd.brielo, hm]) (by omega) (by omega) hplace.2 (hd.host.2.trans hpo) (by rw [hself, hf, hs, hd.trigger]), hself, hf, hs]
  refine ⟨?_, (State.pend_setTrigger ..).trans (hd.pend f), hd.net⟩
  rw [State.trigger_setTrigger, if_pos ⟨rfl, rfl⟩, FeEntry.armed, hthresh, hplace.1, hd.host.1]
  rfl

/-- The step of a signal at a trigger: reported where the trigger is not armed or holds too little, counted otherwise, and
fired at zero. -/
theorem exec_triggerSignal_signal {k rgn dec : Nat} {cls : PClass} {src : Agent} {ref : Word} {d : SigData} {rel err : Bool}
    (hp : s.packet k = some ⟨cls, src, .frontEnd f, rgn, .signal ref dec d rel err⟩) (hx : s.trigger f (Ref.of ref).slot = x)
    (hr : x.region = rgn) : exec (.triggerSignal k) s = .next (
      if x.armed = false ∨ x.count < dec then (s.drop k).sendRecord rgn
        { Rec.plain 0x08 4 rgn (.frontEnd f) with slot := (Ref.of ref).slot, detail := place x.thresh 0 }
      else
        let s1 := (s.drop k).setTrigger f (Ref.of ref).slot { x with count := x.count - dec }
        if x.count = dec then s1.fireTrigger f (Ref.of ref).slot else s1) := by
  rw [exec_triggerSignal, execTriggerSignal, hp]
  simp only [hx, hr, ne_eq, not_true_eq_false, and_false, if_false]

end Signal

end Sys2Proof.Machine
end

section
/-! PROOF. O58: the service core's operations, and the obligation from its parts (R278, R307, R378, R380). -/

namespace Sys2Proof.Machine

open Sys2Proof

/-! ## A region resumed (R307) -/

/-- Two states hold the same bytes, packets, routes and service core: they differ in regions and in their cores' queues. -/
structure State.KeepsBytes (s t : State) : Prop where
  mem : t.mem = s.mem
  hostMem : t.hostMem = s.hostMem
  lmem : ∀ n, (t.core n).lmem = (s.core n).lmem
  net : t.net = s.net
  brielo : t.brielo = s.brielo
  service : t.service = s.service

theorem State.KeepsBytes.refl (s : State) : s.KeepsBytes s := ⟨rfl, rfl, fun _ => rfl, rfl, rfl, rfl⟩

theorem State.KeepsBytes.trans {s t u : State} (h : s.KeepsBytes t) (k : t.KeepsBytes u) : s.KeepsBytes u where
  mem := k.mem.trans h.mem
  hostMem := k.hostMem.trans h.hostMem
  lmem n := (k.lmem n).trans (h.lmem n)
  net := k.net.trans h.net
  brielo := k.brielo.trans h.brielo
  service := k.service.trans h.service

theorem State.onRegion_keepsBytes (s : State) (r : Nat) (g : Region → Region) : s.KeepsBytes (s.onRegion r g) := by
  rw [State.onRegion_eq]
  exact ⟨rfl, rfl, fun _ => rfl, rfl, rfl, rfl⟩

theorem State.onCore_keepsBytes (s : State) (n : Nat) (f : Core → Core) (h : (f (s.core n)).lmem = (s.core n).lmem) :
    s.KeepsBytes (s.onCore n f) := by
  refine ⟨rfl, rfl, fun m => ?_, rfl, rfl, rfl⟩
  rw [State.core_onCore]
  split
  · next hm => rw [h, hm]
  · rfl

/-- The SUSP bit of a region. -/
def State.susp (s : State) (r : Nat) : Option Bool := (s.region r).map (·.susp)

theorem State.susp_onRegion (s : State) (r k : Nat) (g : Region → Region) :
    (s.onRegion r g).susp k = if k = r then (s.region k).map fun x => (g x).susp else s.susp k := by
  rw [State.susp, State.region_onRegion]
  split
  · rw [Option.map_map]; rfl
  · rfl

theorem State.resumeRegion_keeps {s : State} {r : Nat} {g : Region} (hr : s.region r = some g) :
    s.KeepsBytes (s.resumeRegion r) ∧ (s.resumeRegion r).susp r = some false := by
  have h1 : s.KeepsBytes (s.onRegion r fun g => { g with susp := false }) ∧
      (s.onRegion r fun g => { g with susp := false }).susp r = some false :=
    ⟨s.onRegion_keepsBytes .., by rw [State.susp_onRegion, if_pos rfl, hr]; rfl⟩
  refine foldl_keeps (fun t => s.KeepsBytes t ∧ t.susp r = some false) _ (fun t i h => ?_) _ _
    (foldl_keeps (fun t => s.KeepsBytes t ∧ t.susp r = some false) _ (fun t n h => ?_) _ _ h1)
  · split
    · exact h
    · refine ⟨h.1.trans (t.onRegion_keepsBytes ..), ?_⟩
      rw [State.startWindow, State.susp_onRegion]
      split
      · exact h.2
      · exact h.2
  · exact ⟨h.1.trans (t.onCore_keepsBytes n _ rfl), h.2⟩

/-! ## The status of an operation (R380) -/

/-- The region number in the RCB of an operation. -/
def RgnOp.number (o : RgnOp) (m : List Host.Cell) : Nat := natOf (Cells.read m (o.rcb.toNat + 14) 2)

/-- The signal that carries an operation's status to its issuer. -/
def RgnOp.answer (o : RgnOp) (s : State) (st : Nat) : Packet :=
  ⟨.sig, .service, s.refAgent (Ref.of o.ref), 1, .signal o.ref 1 (.words 0 [BitVec.ofNat 64 (st * 2 ^ 56 + o.number s.mem)]) true false⟩

/-- An operation of the device region with an RCB of HBM4, at the head of the service core's work, whose status can be sent. -/
structure Answerable (s : State) (o : RgnOp) : Prop where
  ops : s.service.ops = [o]
  queue : o.queue = none
  issuer : o.issuer = 1
  ref : o.ref ≠ 0
  rcb : o.rcb.toNat % 256 = 0 ∧ o.rcb.toNat + 256 ≤ asTable
  route : s.routeOk (Ref.of o.ref).module = true
  reach : s.Reaches (s.refAgent (Ref.of o.ref))

section Answer

variable {s : State} {o : RgnOp}

theorem Answerable.rcbOk (h : Answerable s o) : s.rcbOk o.rcb.toNat = true := by
  have : o.rcb.toNat + 256 ≤ hbmEnd := h.rcb.2.trans (by decide)
  simp [State.rcbOk, h.rcb.1, State.inMap, State.inDram, inHbm, this]

theorem Answerable.of {t : State} (h : Answerable s o) (k : s.KeepsBytes t) : Answerable t o where
  ops := by rw [k.service, h.ops]
  queue := h.queue
  issuer := h.issuer
  ref := h.ref
  rcb := h.rcb
  route := by rw [State.routeOk, k.brielo]; exact h.route
  reach := by
    have : t.refAgent (Ref.of o.ref) = s.refAgent (Ref.of o.ref) := by simp only [State.refAgent, k.brielo]
    rw [this, State.Reaches, k.brielo]
    exact h.reach

theorem number_field (m : List Host.Cell) (a : Nat) : field (wordOf (Cells.read m (a + 8) 8)) 63 48 = natOf (Cells.read m (a + 14) 2) := by
  have hlt := natOf_lt (Cells.read m (a + 8) 8)
  rw [Cells.read_length] at hlt
  rw [wordOf, field_ofNat 63 48 hlt]
  exact natOf_read_window m (a + 8) (i := 6) (k := 2) (n := 8) (by decide)

/-- The service core without the operation at its head. -/
def State.served (s : State) : State := { s with service := { s.service with ops := s.service.ops.drop 1 } }

theorem State.service_send (s : State) (p : Packet) : (s.send p).service = s.service := by
  unfold State.send
  dsimp only
  repeat' split
  all_goals rfl

/-- The operation at the head ends: its status goes to its issuer, and nothing else changes. -/
theorem Answerable.finishOp (h : Answerable s o) (st : Nat) : (s.finishOp o st).service.ops = [] ∧ s.SameStores (s.finishOp o st) ∧
    (s.finishOp o st).net = s.net ++ [o.answer s st] ∧ (s.finishOp o st).regions = s.regions := by
  have hnum : o.number s.mem < 2 ^ 56 := by
    have := natOf_lt (Cells.read s.mem (o.rcb.toNat + 14) 2)
    rw [Cells.read_length] at this
    exact this.trans (by decide)
  have hword : place st 56 ||| place (o.number s.mem) 0 = BitVec.ofNat 64 (st * 2 ^ 56 + o.number s.mem) := by
    rw [place_zero, place_or hnum]
  have hroute : s.served.routeOk (Ref.of o.ref).module = true := h.route
  have heq : s.finishOp o st = s.served.send (o.answer s st) := by
    rw [State.finishOp, h.queue, h.issuer]
    simp only [h.ref, h.rcbOk, if_true, if_false, State.peek64, number_field]
    refine (if_neg fun hf => Bool.noConfusion (hroute.symm.trans hf)).trans ?_
    rw [RgnOp.answer, ← hword]
    rfl
  rw [heq]
  refine ⟨?_, (show s.SameStores s.served from ⟨rfl, rfl, rfl, rfl⟩).trans (s.served.send_sameStores (o.answer s st)),
    State.net_send (s := s.served) (p := o.answer s st) h.reach, State.regions_send ..⟩
  rw [State.service_send, State.served, h.ops]
  rfl

/-! ## Operations performed (R378, R380) -/

variable {r : Nat} {g : Region}

theorem exec_regionControlPerform_head (hd : s.service.down = false) (ho : s.service.ops = [o]) :
    exec .regionControlPerform s = .next (s.performOp o) := by
  rw [exec_regionControlPerform, execRegionControlPerform]
  simp only [hd, ho, Bool.false_eq_true, if_false]

theorem performOp_refused {st : Nat} (h5 : o.op ≠ 5) (hp : o.phase = 0) (hc : s.opCheck o = .error st) :
    s.performOp o = s.finishOp o st := by
  rw [State.performOp, if_neg h5, hp]
  simp only [hc]

/-- An operation on a region that is not active is refused, unless it activates. -/
theorem Answerable.opCheck_inactive (h : Answerable s o) (h0 : 1 ≤ o.op) (hr : s.regionOfRcb o.rcb.toNat = none) :
    s.opCheck o = .error 11 := by
  obtain ⟨k, hk⟩ := Nat.exists_eq_add_of_le' h0
  simp only [State.opCheck, h.rcbOk, h.issuer, hr, hk, ne_eq, not_true_eq_false, false_and, if_false, Bool.true_eq_false]

theorem Answerable.opCheck_active (h : Answerable s o) (h0 : o.op = 0) (hr : s.regionOfRcb o.rcb.toNat = some r) :
    s.opCheck o = .error 11 := by
  simp only [State.opCheck, h.rcbOk, h.issuer, hr, h0, ne_eq, not_true_eq_false, false_and, if_false, Bool.true_eq_false]

/-- SUSP and RES take an active region, and an ARG without reserved bits. -/
theorem Answerable.opCheck_suspRes (h : Answerable s o) (hop : o.op = 2 ∨ o.op = 3) (hr : s.regionOfRcb o.rcb.toNat = some r) :
    (o.arg = 0 → s.opCheck o = .ok r) ∧ (2 ≤ o.arg.toNat → s.opCheck o = .error 2) := by
  have hfield : 2 ≤ o.arg.toNat → field o.arg 63 1 ≠ 0 := fun ha => by
    have := o.arg.isLt
    rw [field_eq, BitVec.extractLsb'_toNat, Nat.shiftRight_eq_div_pow]
    omega
  have hne : 2 ≤ o.arg.toNat → ¬ o.arg = 0#64 := fun ha h0 => by simp [h0] at ha
  have hzero : field (0#64) 63 1 = 0 := by decide
  rcases hop with hop | hop <;> constructor <;> intro ha
  · simp [State.opCheck, h.rcbOk, h.issuer, hr, hop, ha, hzero]
  · simp [State.opCheck, h.rcbOk, h.issuer, hr, hop, hfield ha]
  · simp [State.opCheck, h.rcbOk, h.issuer, hr, hop, ha]
  · simp [State.opCheck, h.rcbOk, h.issuer, hr, hop, hne ha]

/-- The status of an operation that ends, as the obligation has it. -/
def State.Ends (s : State) (o : RgnOp) (st : Nat) (t : State) : Prop :=
  t.service.ops = [] ∧ s.SameBytes t ∧ t.net = s.net ++ [o.answer s st]

theorem Answerable.ends (h : Answerable s o) (st : Nat) : s.Ends o st (s.finishOp o st) := by
  obtain ⟨hops, hstores, hnet, -⟩ := h.finishOp st
  exact ⟨hops, hstores.sameBytes, hnet⟩

theorem performOp_res (hop : o.op = 3) (hp : o.phase = 0) (hc : s.opCheck o = .ok r) (hr : s.region r = some g) :
    s.performOp o = (if g.susp then s.resumeRegion r else s).finishOp o 0 := by
  rw [State.performOp, if_neg (by omega), hp]
  simp only [hc, hop, hr, Option.map_some, Option.getD_some]

theorem performOp_susp (hop : o.op = 2) (hp : o.phase = 0) (hc : s.opCheck o = .ok r) (hs : s.suspended r = false) :
    s.performOp o = (s.suspend r).setPhase o 1 := by
  rw [State.performOp, if_neg (by omega), hp]
  simp only [hc, hop, hs, Bool.false_eq_true, if_false]

theorem performOp_suspended (hop : o.op = 2) (hp : o.phase = 1) (harg : o.arg = 0) (hr : s.regionOfRcb o.rcb.toNat = some r)
    (hb : s.busyIn r = false) : s.performOp o = s.finishOp o 0 := by
  have hbit : bitAt (0 : Word) 0 = false := by decide
  rw [State.performOp, if_neg (by omega), hp]
  simp only [hop, hr, hb, harg, hbit, Bool.false_eq_true, if_false]

/-- RES ends with the region's SUSP bit clear (R307). -/
theorem Answerable.res (h : Answerable s o) (hop : o.op = 3) (hp : o.phase = 0) (hc : s.opCheck o = .ok r) (hr : s.region r = some g) :
    s.Ends o 0 (s.performOp o) ∧ (s.performOp o).susp r = some false := by
  rw [performOp_res hop hp hc hr]
  have hu : s.KeepsBytes (if g.susp then s.resumeRegion r else s) ∧ (if g.susp then s.resumeRegion r else s).susp r = some false := by
    split
    · exact State.resumeRegion_keeps hr
    · next hs => exact ⟨.refl s, by rw [State.susp, hr, Option.map_some, eq_false_of_ne_true hs]⟩
  generalize (if g.susp then s.resumeRegion r else s) = u at hu
  obtain ⟨hk, hsusp⟩ := hu
  obtain ⟨hops, hstores, hnet, hreg⟩ := (h.of hk).finishOp 0
  refine ⟨⟨hops, ?_, ?_⟩, ?_⟩
  · exact .trans ⟨fun _ => by rw [hk.mem], fun _ => by rw [hk.hostMem], fun n _ => by rw [hk.lmem]⟩ hstores.sameBytes
  · rw [hnet, hk.net]
    simp only [RgnOp.answer, State.refAgent, hk.brielo, hk.mem]
  · rw [State.susp, State.region_of hreg]
    exact hsusp

/-- SUSP sets the region's SUSP bit and waits for what runs there (R307). -/
theorem performOp_susp_waits (ho : s.service.ops = [o]) (hop : o.op = 2) (hp : o.phase = 0) (hc : s.opCheck o = .ok r)
    (hs : s.suspended r = false) (hr : s.region r = some g) :
    (s.performOp o).service.ops = [{ o with phase := 1 }] ∧ (s.performOp o).susp r = some true ∧ (s.performOp o).net = s.net := by
  have hk := s.onRegion_keepsBytes r fun g => { g with susp := true, winSusp := true }
  have hsusp := s.susp_onRegion r r fun g => { g with susp := true, winSusp := true }
  rw [if_pos rfl, hr] at hsusp
  rw [performOp_susp hop hp hc hs]
  refine ⟨?_, hsusp, hk.net⟩
  show _ :: ((s.suspend r).service.ops.drop 1) = _
  rw [State.suspend, hk.service, ho]
  rfl

end Answer

/-! ## A request taken (R378) -/

/-- The state with the packet at the network's head taken as the operation in hand. -/
def State.requested (s : State) (o : RgnOp) : State := { s.drop 0 with service := { s.service with ops := [o] } }

theorem request_taken {s : State} {cls : PClass} {src : Agent} {rgn op : Nat} {rcb arg ref : Word} {org : Origin}
    (hd : s.service.down = false) (ho : s.service.ops = []) (hn : s.net.length = 1)
    (hp : s.packet 0 = some ⟨cls, src, .service, rgn, .rgnctl op rcb arg ref org⟩) :
    exec .regionControlPerform s = .next (s.requested ⟨op, rcb, arg, ref, org.region, none, 0, []⟩) := by
  rw [exec_regionControlPerform, execRegionControlPerform]
  simp only [hd, ho, hn, Bool.false_eq_true, if_false, List.range_one, List.findSome?_cons, hp, Option.bind_some]
  rfl

theorem State.net_drop_single {s : State} (hn : s.net.length = 1) : (s.drop 0).net = [] := by
  obtain ⟨p, hp⟩ := List.length_eq_one_iff.1 hn
  rw [State.drop, hp]
  rfl

theorem State.requested_eq {s : State} (hn : s.net.length = 1) (o : RgnOp) :
    s.requested o = { s with net := [], bucket := (s.requested o).bucket, service := { s.service with ops := [o] } } := by
  rw [← State.net_drop_single hn]
  rfl

/-- Settles O58: the front ends' queues, entries and triggers, then the service core's operations, each by the lemma of its event. -/
theorem frontEndEvents : Obligations.FrontEndEvents := by
  unfold Obligations.FrontEndEvents
  refine ⟨fun s q x hx hst hh => ⟨fun hno => ?_, fun hno => ⟨fun hle => ?_, fun hlt => ?_⟩⟩,
    fun s q h x hq hst hb hpend hh hpo => ?_, fun s f e hp => ⟨fun hk n hash => ?_, fun hk hm h0 h24 hh hpo ha => ?_,
      fun q i hsrc => ⟨fun hk => ?_, fun hk => ?_⟩⟩, ?_, ?_, ?_, ?_, ?_⟩
  · exact tail_unnoticed (hx ▸ hno)
  · subst hx
    refine ⟨_, (exec_tailNotification_noticed hst hno hh).trans (congrArg _ (if_neg (by omega))), ?_,
      ⟨fun _ => rfl, fun _ => rfl, fun _ _ => rfl⟩, rfl⟩
    simp only [State.queue_onQueue, if_true]
  · subst hx
    refine ⟨_, (exec_tailNotification_noticed hst hno hh).trans (congrArg _ (if_pos hlt)), (State.breakQueue_breaks ..).1,
      (State.breakQueue_breaks ..).2⟩
  · have hwait : x.waiting = true := by simp [Queue.waiting, hst, hb, hpend]
    exact ⟨fun hw hh' hperm hsome => fetch_message hq hwait hh hpo rfl hw hh' hperm hsome,
      fun hkind hd => fetch_reserved hq hwait hh hpo rfl ((kindOf_eq _).symm ▸ hkind) hd⟩
  · obtain ⟨t, hstep, hpend, hcores, hown, hbad⟩ := message_entry hp ((kindOf_eq _).trans hk) hash
    refine ⟨t, hstep, hpend, hcores, fun ho => ⟨(hown ho).1, (hown ho).2.trans ?_⟩, hbad⟩
    rw [FeEntry.message, field_eq]
  · exact armed_of_armEntry hp ((kindOf_eq _).trans hk) hm h0 h24 hh hpo ha
  · have hk := (kindOf_eq _).trans hk
    refine ⟨fun hnone hd => ?_, fun r hr => ⟨fun hw => control_entry hp hk hsrc hr hw, fun hw hd => ?_⟩⟩
    · exact control_refused hp hk hsrc (fun r hr => by cases hnone.symm.trans hr) hd
    · exact control_refused hp hk hsrc (fun r' hr' => by cases hr.symm.trans hr'; exact hw) hd
  · have hk := (kindOf_eq _).trans hk
    exact ⟨fence_waits hp hk hsrc, fun hu => ⟨fun hw hwrote hh hb _ hm => fence_writes hp hk hsrc hu hw hwrote hh hb hm,
      fun hw hr => fence_ends hp hk hsrc hu hw hr⟩⟩
  · intro s k f rgn thresh cls src ref cmd org of_ hp hc
    refine ⟨fun h0 h24 ha => ⟨_, arming_arms hp hc h0 h24 ha, rfl, ⟨fun _ => rfl, fun _ => rfl, fun _ _ => rfl⟩, ?_⟩,
      fun h24 hd => ⟨_, arming_refused hp h24, ?_, ?_⟩⟩
    · exact (State.trigger_setTrigger ..).trans (if_pos ⟨rfl, rfl⟩)
    · rw [State.trigger, State.fe, (State.sendRecord_keeps ..).1]
      rfl
    · exact State.sendRecord_reports (s := s.drop k) hd rfl rfl rfl (by decide)
  · intro s k f rgn dec h cls src ref d rel err x hp hx hr
    have hstep := exec_triggerSignal_signal hp hx hr
    have hx' : (s.drop k).trigger f (Ref.of ref).slot = x := hx
    have hno : ∀ h : x.armed = true, dec ≤ x.count → ¬ (x.armed = false ∨ x.count < dec) := fun h hle => by simp [h]; omega
    have hset (y : Trigger) : ((s.drop k).setTrigger f (Ref.of ref).slot y).trigger f (Ref.of ref).slot = y :=
      (State.trigger_setTrigger ..).trans (if_pos ⟨rfl, rfl⟩)
    refine ⟨fun ha hlt => ?_, fun ha he hw hh n hash ho => ?_, fun thresh p self ha he hcmd h0 h24 hp56 hp64 hok ht hm hf hsl hsome hpo => ?_,
      fun ha hd => ?_⟩
    · rw [if_neg (hno ha (by omega))] at hstep
      exact ⟨_, hstep.trans (congrArg _ (if_neg (by omega))), rfl, hset _, State.pend_setTrigger ..⟩
    · rw [if_neg (hno ha (by omega))] at hstep
      subst hr
      obtain ⟨htrig, hpend, hnet⟩ := State.fireTrigger_message (hset { x with count := x.count - dec }) hw hh
        (hash.of (fun g hg => ⟨g, hg, rfl, rfl, rfl⟩) rfl rfl rfl (State.affCache_setTrigger ..)) ho
      exact ⟨_, hstep.trans (congrArg _ (if_pos he.symm)), htrig, hpend.trans (State.pend_setTrigger ..), hnet⟩
    · rw [if_neg (hno ha (by omega))] at hstep
      subst hr
      obtain ⟨htrig, hpend, hnet⟩ := State.fireTrigger_rearm (hset { x with count := x.count - dec }) hcmd h0 h24 hp56 hp64
        hok ht hm hf hsl hsome hpo
      exact ⟨_, hstep.trans (congrArg _ (if_pos he.symm)), hnet, hpend.trans (State.pend_setTrigger ..), htrig⟩
    · rw [if_pos (.inl ha)] at hstep
      refine ⟨_, hstep, ?_, State.sendRecord_reports (s := s.drop k) hd rfl rfl rfl (by decide)⟩
      rw [State.trigger, State.fe, (State.sendRecord_keeps ..).1]
      exact hx
  · intro s hd
    rw [exec_regionControlPerform, execRegionControlPerform, if_pos hd]
  · intro s cls src rgn op rcb arg ref org hd ho hn hp
    exact ⟨_, request_taken hd ho hn hp, State.requested_eq hn _⟩
  · intro s o hd ho hq hi hr0 hrcb hlt hroute hreach
    have H : Answerable s o := ⟨ho, hq, hi, hr0, ⟨hrcb, hlt⟩, hroute, hreach⟩
    have hstep := exec_regionControlPerform_head hd ho
    refine ⟨fun hp h0 h4 hr => ?_, fun r g hr hg => ⟨fun hp h0 => ?_, fun hp hop harg => ?_, fun hp hop harg hs => ?_,
      fun hp hop harg hb => ?_, fun hp hop harg => ?_⟩⟩
    · exact ⟨_, hstep, performOp_refused (by omega) hp (H.opCheck_inactive h0 hr) ▸ H.ends 11⟩
    · exact ⟨_, hstep, performOp_refused (by omega) hp (H.opCheck_active h0 hr) ▸ H.ends 11⟩
    · exact ⟨_, hstep, H.res hop hp ((H.opCheck_suspRes (.inr hop) hr).1 harg) hg⟩
    · exact ⟨_, hstep, performOp_susp_waits ho hop hp ((H.opCheck_suspRes (.inl hop) hr).1 harg) hs hg⟩
    · exact ⟨_, hstep, performOp_suspended hop hp harg hr hb ▸ H.ends 0⟩
    · exact ⟨_, hstep, performOp_refused (by omega) hp ((H.opCheck_suspRes hop hr).2 harg) ▸ H.ends 2⟩

end Sys2Proof.Machine
end

section
/-! SUPPORT. Recording a floating-point step on a late operand (R69). -/

namespace Sys2Proof.Machine

open Sys2Proof

/-- The instruction records a step on `v` for its destination `d`, where the supplies allow it (R69, R74). -/
def State.RecordsStep (s : State) (r : Run) (g : Guard) (ins : Instr) (d : XReg) (op : ChainOp) (prec : Prec) (sat : Bool)
    (rm : RMode) (pos : Nat) (v : RVal) (k1 k2 : Word) : Prop :=
  ∃ m : Meaning, exec ins s = guarded g 1 m s ∧
    m s r = (record r.origin op prec sat rm pos v k1 k2).bind (s.writeForm r d)

section Recorded

variable {s : State} {r : Run} {g : Guard} {ins : Instr} {op : ChainOp} {prec : Prec} {sat : Bool} {rm : RMode}
  {pos i : Nat} {v : RVal} {k1 k2 : Word} {d : XReg} {st : List ChainStep}

/-- On a chain of fewer than four steps the destination takes the chain with the step appended. -/
theorem State.RecordsStep.becomes (hs : s.RecordsStep r g ins d op prec sat rm pos v k1 k2) (h : s.Issues r g)
    (hc : v.asChain = some (i, st)) (hl : st.length < 4) (hcov : ∀ w, s.Covers r d w) :
    ∃ x : ChainStep, (x.op = op ∧ x.dbl = (prec == .d) ∧ x.sat = sat ∧ x.rm = rm ∧ x.pos = pos ∧ x.k1 = k1 ∧ x.k2 = k2) ∧
      s.Becomes ins ((r.write d (.chain i (st ++ [x]))).past 1) := by
  obtain ⟨m, hi, hm⟩ := hs
  rw [record_ok hc hl, Except.bind, writeForm_eq h.1 (.inr (hcov _))] at hm
  exact ⟨_, ⟨rfl, rfl, rfl, rfl, rfl, rfl, rfl⟩, hi.trans (guarded_run h hm)⟩

/-- A chain of four steps takes no fifth: the instruction parks. -/
theorem State.RecordsStep.parks (hs : s.RecordsStep r g ins d op prec sat rm pos v k1 k2) (h : s.Issues r g)
    (hc : v.asChain = some (i, st)) (hl : 4 ≤ st.length) : s.Parks ins r [v] := by
  obtain ⟨m, hi, hm⟩ := hs
  rw [record_err hc hl] at hm
  exact hi.trans (guarded_parks h hm)

end Recorded

section Ffma

variable {s : State} {r : Run} (g : Guard) (prec : Prec) (sat : Bool) (rnd : Rnd) {d a b : XReg} {x y : Word}

/-- FFMA records on its first factor. -/
theorem ffma_records_first (ha : (r.get a).isLate) (hb : r.get b = .known x) (hd : r.get d = .known y) :
    s.RecordsStep r g (.ffma g prec sat rnd d a b) d .fma prec sat (s.rounding r rnd) 0 (r.get a) x y := by
  refine ⟨_, exec_ffma .., ?_⟩
  cases hv : r.get a <;> simp_all

/-- FFMA records on its second factor. -/
theorem ffma_records_second (ha : r.get a = .known x) (hb : (r.get b).isLate) (hd : r.get d = .known y) :
    s.RecordsStep r g (.ffma g prec sat rnd d a b) d .fma prec sat (s.rounding r rnd) 1 (r.get b) x y := by
  refine ⟨_, exec_ffma .., ?_⟩
  cases hv : r.get b <;> simp_all

/-- FFMA records on its addend. -/
theorem ffma_records_addend (ha : r.get a = .known x) (hb : r.get b = .known y) (hd : (r.get d).isLate) :
    s.RecordsStep r g (.ffma g prec sat rnd d a b) d .fma prec sat (s.rounding r rnd) 2 (r.get d) x y := by
  refine ⟨_, exec_ffma .., ?_⟩
  cases hv : r.get d <;> simp_all

end Ffma

/-- Settles O22: each instruction records the step at its position (`RecordsStep`), and what that leaves depends on the steps
the source holds. -/
theorem recording : Obligations.Recording := by
  intro s r g prec sat rnd d a b i st k l h hc hk
  have hlate := asChain_late hc
  have add0 : s.RecordsStep r g (.fadd g prec sat rnd d a b) d .add prec sat (s.rounding r rnd) 0 (r.get a) k 0 :=
    ⟨_, exec_fadd .., fp2_pos0 hlate hk⟩
  have add1 : s.RecordsStep r g (.fadd g prec sat rnd d b a) d .add prec sat (s.rounding r rnd) 1 (r.get a) k 0 :=
    ⟨_, exec_fadd .., fp2_pos1 hlate hk⟩
  have sub0 : s.RecordsStep r g (.fsub g prec sat rnd d a b) d .sub prec sat (s.rounding r rnd) 0 (r.get a) k 0 :=
    ⟨_, exec_fsub .., fp2_pos0 hlate hk⟩
  have sub1 : s.RecordsStep r g (.fsub g prec sat rnd d b a) d .sub prec sat (s.rounding r rnd) 1 (r.get a) k 0 :=
    ⟨_, exec_fsub .., fp2_pos1 hlate hk⟩
  have mul0 : s.RecordsStep r g (.fmul g prec sat rnd d a b) d .mul prec sat (s.rounding r rnd) 0 (r.get a) k 0 :=
    ⟨_, exec_fmul .., fp2_pos0 hlate hk⟩
  have mul1 : s.RecordsStep r g (.fmul g prec sat rnd d b a) d .mul prec sat (s.rounding r rnd) 1 (r.get a) k 0 :=
    ⟨_, exec_fmul .., fp2_pos1 hlate hk⟩
  have fma0 (hd : r.get d = .known l) := ffma_records_first (s := s) g prec sat rnd hlate hk hd
  have fma1 (hd : r.get d = .known l) := ffma_records_second (s := s) g prec sat rnd hk hlate hd
  have fma2 (e : a = d) (c : XReg) (hv : r.get c = .known l) :
      s.RecordsStep r g (.ffma g prec sat rnd d b c) d .fma prec sat (s.rounding r rnd) 2 (r.get a) k l := by
    subst e
    exact ffma_records_addend g prec sat rnd hk hv hlate
  refine ⟨fun hl hcov => ?records, fun hl => ?parks⟩
  case records =>
    exact ⟨add0.becomes h hc hl hcov, add1.becomes h hc hl hcov, sub0.becomes h hc hl hcov, sub1.becomes h hc hl hcov,
      mul0.becomes h hc hl hcov, mul1.becomes h hc hl hcov,
      fun hd => ⟨(fma0 hd).becomes h hc hl hcov, (fma1 hd).becomes h hc hl hcov⟩,
      fun e c hv => (fma2 e c hv).becomes h hc hl hcov⟩
  case parks =>
    exact ⟨add0.parks h hc hl, add1.parks h hc hl, sub0.parks h hc hl, sub1.parks h hc hl, mul0.parks h hc hl,
      mul1.parks h hc hl, fun hd => ⟨(fma0 hd).parks h hc hl, (fma1 hd).parks h hc hl⟩, fun e c hv => (fma2 e c hv).parks h hc hl⟩

end Sys2Proof.Machine
end

section
/-! SUPPORT. Folding an integer operation over a late operand (R67, R68, R74, Table 3-2). -/

namespace Sys2Proof.Machine

open Sys2Proof

theorem formOf_of_ne {i : Nat} {a : Word} (b : Word) (h : a ≠ 0) : formOf i a b = .form i a b := if_neg h

/-- A form that finds no pool entry for its register is not written: the threadlet waits for supplies (R74). -/
theorem writeForm_short {s : State} {r : Run} {d : XReg} {i : Nat} {x y : Word} (h : ¬ s.Covers r d (.form i x y)) :
    s.writeForm r d (.form i x y) = .error (.park 4 (s.core s.cur).short) := by
  have hs : s.supply (r.write d (.form i x y)) 0 0 = .error (.park 4 (s.core s.cur).short) := by
    unfold State.supply
    exact if_neg fun k => h (by simpa [State.Covers] using k.2)
  simp only [State.writeForm, hs]
  rfl

/-- The instruction leaves `a·σ + b` in its destination, known where `a` is zero, or parks for want of a pool entry (R67,
R74). -/
def State.Folds (s : State) (r : Run) (d : XReg) (i : Nat) (ins : Instr) (x y : Word) : Prop :=
  (x = 0 ∨ s.Covers r d (formOf i x y) → s.Becomes ins ((r.write d (formOf i x y)).past 1)) ∧
    (x ≠ 0 → ¬ s.Covers r d (formOf i x y) → exec ins s = .next (s.park s.cur r 0 4 (s.core s.cur).short))

section Folds

variable {s : State} {r : Run} {g : Guard} {d a b : XReg} {i : Nat} {ins : Instr} {x y : Word}

/-- What writes a folded content folds. -/
theorem folds_of {m : Meaning} (h : s.Issues r g) (hi : exec ins s = guarded g 1 m s)
    (hm : m s r = s.writeForm r d (formOf i x y)) : s.Folds r d i ins x y := by
  refine ⟨fun hs => hi.trans (guarded_run h (hm.trans (writeForm_eq h.1 ?_))), fun hx hc => hi.trans ?_⟩
  · rcases hs with rfl | hs
    · exact .inl (by simp [formOf])
    · exact .inr hs
  · rw [formOf_of_ne y hx] at hm hc
    exact (guarded_error h (hm.trans (writeForm_short hc))).trans rfl

/-- A two-operand instruction whose operands fold. -/
theorem folds_of_aluFold {fold : RVal → RVal → Option RVal} (h : s.Issues r g)
    (hi : exec ins s = guarded g 1 (aluFold fold d a b) s) (hv : fold (r.get a) (r.get b) = some (formOf i x y)) :
    s.Folds r d i ins x y := folds_of h hi (by rw [aluFold, hv]; rfl)

/-- A two-operand instruction whose operands do not. -/
theorem parks_of_aluFold {fold : RVal → RVal → Option RVal} (h : s.Issues r g)
    (hi : exec ins s = guarded g 1 (aluFold fold d a b) s) (hv : fold (r.get a) (r.get b) = none) :
    s.Parks ins r [r.get a, r.get b] := hi.trans (aluFold_parks h hv)

/-- A product with a power of two is a shift. -/
theorem mul_two_pow (w : Word) (n : Nat) : w * BitVec.ofNat 64 (2 ^ n) = w <<< n := by
  apply BitVec.eq_of_toNat_eq
  simp [BitVec.toNat_mul, BitVec.toNat_shiftLeft, Nat.shiftLeft_eq]

/-- A left shift of a form by a known amount. -/
theorem folds_of_shiftLeft {m : Meaning} {p q k : Word} (h : s.Issues r g) (hi : exec ins s = guarded g 1 m s)
    (hm : m s r = shiftLeft d a (.known k) s r) (ha : r.get a = .form i p q) :
    s.Folds r d i ins (p <<< (k.toNat % 64)) (q <<< (k.toNat % 64)) := by
  refine folds_of h hi (hm.trans ?_)
  rw [shiftLeft, ha, ← mul_two_pow, ← mul_two_pow]
  rfl

/-- A left shift of a floating-point form parks. -/
theorem shiftLeft_chain {k : RVal} {st : List ChainStep} (ha : r.get a = .chain i st) :
    shiftLeft d a k s r = .error (waitFor [r.get a, k]) := by
  cases k with
  | known w => rw [shiftLeft, ha]; rfl
  | _ => rfl

theorem shiftLeft_late {k : RVal} (hk : k.isLate) : shiftLeft d a k s r = .error (waitFor [r.get a, k]) := by
  cases k with
  | known w => simp at hk
  | _ => rfl

/-- A known content beside a late one adds nothing to what the threadlet waits for. -/
theorem symbolsOf_known (v : RVal) (w : Word) : symbolsOf [v, .known w] = symbolsOf [v] := by
  cases v <;> rfl

end Folds

section Folding

variable {s : State} {r : Run} {g : Guard} (h : s.Issues r g) (d : XReg) {a b : XReg} {i : Nat} {p q k : Word}
  (ha : r.get a = .form i p q)
include h ha

/-- A form and a known value. -/
theorem folds_known (hb : r.get b = .known k) (imm : BitVec 11) (sh : BitVec 6) :
    (p ≠ 0 → s.Folds r d i (.add g d a b) p (q + k) ∧ s.Folds r d i (.add g d b a) p (k + q) ∧
      s.Folds r d i (.addi g d a imm) p (q + imm.signExtend 64) ∧ s.Folds r d i (.sub g d a b) p (q - k)) ∧
    s.Folds r d i (.sub g d b a) (-p) (k - q) ∧ s.Folds r d i (.mul g d a b) (p * k) (q * k) ∧
    s.Folds r d i (.shl g d a b) (p <<< (k.toNat % 64)) (q <<< (k.toNat % 64)) ∧
    s.Folds r d i (.shli g d a sh) (p <<< sh.toNat) (q <<< sh.toNat) ∧
    s.Parks (.shl g d b a) r [.known k, .form i p q] := by
  have hsh : (sh.zeroExtend 64).toNat % 64 = sh.toNat := by
    have := sh.isLt
    rw [BitVec.zeroExtend, BitVec.toNat_setWidth]
    omega
  refine ⟨fun hp => ⟨?_, ?_, ?_, ?_⟩, ?_, ?_, ?_, ?_, ?_⟩
  · exact folds_of_aluFold h (exec_add ..) (by rw [ha, hb, formOf_of_ne _ hp]; rfl)
  · exact folds_of_aluFold h (exec_add ..) (by rw [ha, hb, formOf_of_ne _ hp]; rfl)
  · exact folds_of h (exec_addi ..) (by rw [ha, formOf_of_ne _ hp]; rfl)
  · exact folds_of_aluFold h (exec_sub ..) (by rw [ha, hb, formOf_of_ne _ hp]; rfl)
  · exact folds_of_aluFold h (exec_sub ..) (by rw [ha, hb]; rfl)
  · exact folds_of_aluFold h (exec_mul ..) (by rw [ha, hb]; rfl)
  · exact folds_of_shiftLeft h (exec_shl ..) (by rw [hb]) ha
  · rw [← hsh]
    exact folds_of_shiftLeft h (exec_shli ..) rfl ha
  · refine (exec_shl ..).trans (guarded_parks h ?_)
    rw [shiftLeft_late (by rw [ha]; simp), ha, hb]

/-- Two forms. -/
theorem folds_forms {c : XReg} {j : Nat} {p' q' : Word} (hc : r.get c = .form j p' q') :
    (i = j → s.Folds r d i (.add g d a c) (p + p') (q + q') ∧ s.Folds r d i (.sub g d a c) (p - p') (q - q')) ∧
    (i ≠ j → s.Parks (.add g d a c) r [.form i p q, .form j p' q'] ∧ s.Parks (.sub g d a c) r [.form i p q, .form j p' q']) ∧
    s.Parks (.mul g d a c) r [.form i p q, .form j p' q'] := by
  rw [← ha, ← hc]
  refine ⟨fun e => ⟨?_, ?_⟩, fun e => ⟨?_, ?_⟩, ?_⟩
  · exact folds_of_aluFold h (exec_add ..) (by rw [ha, hc]; exact if_pos e)
  · exact folds_of_aluFold h (exec_sub ..) (by rw [ha, hc]; exact if_pos e)
  · exact parks_of_aluFold h (exec_add ..) (by rw [ha, hc]; exact if_neg e)
  · exact parks_of_aluFold h (exec_sub ..) (by rw [ha, hc]; exact if_neg e)
  · exact parks_of_aluFold h (exec_mul ..) (by rw [ha, hc]; rfl)

end Folding

/-- Nothing folds over a floating-point form. -/
theorem parks_chain {s : State} {r : Run} {g : Guard} (h : s.Issues r g) (d : XReg) {a : XReg} (b : XReg) {i : Nat} {st : List ChainStep}
    (ha : r.get a = .chain i st) (imm : BitVec 11) (sh : BitVec 6) :
    s.Parks (.add g d a b) r [r.get a, r.get b] ∧ s.Parks (.sub g d a b) r [r.get a, r.get b] ∧
      s.Parks (.mul g d a b) r [r.get a, r.get b] ∧ s.Parks (.shl g d a b) r [r.get a, r.get b] ∧
      s.Parks (.addi g d a imm) r [r.get a] ∧ s.Parks (.shli g d a sh) r [r.get a] := by
  refine ⟨?_, ?_, ?_, ?_, ?_, ?_⟩
  · exact parks_of_aluFold h (exec_add ..) (by rw [ha]; rfl)
  · exact parks_of_aluFold h (exec_sub ..) (by rw [ha]; rfl)
  · exact parks_of_aluFold h (exec_mul ..) (by rw [ha]; cases r.get b <;> rfl)
  · exact (exec_shl ..).trans (guarded_parks h (shiftLeft_chain ha))
  · rw [State.Parks, ← symbolsOf_known _ (imm.signExtend 64)]
    exact (exec_addi ..).trans (guarded_parks h (by rw [ha]; rfl))
  · rw [State.Parks, ← symbolsOf_known _ (sh.zeroExtend 64)]
    exact (exec_shli ..).trans (guarded_parks h (shiftLeft_chain ha))

/-- Settles O16: a form folds with a known value and with a form over its symbol, as the tables of `foldAdd`, `foldSub` and
`foldMul` say; every other late operand parks. -/
theorem folding : Obligations.Folding := by
  refine ⟨fun s r g d a b imm sh i p q k h ha hb => ?_, fun s r g d a b imm sh h => ⟨fun hl => ?_, fun hl => ?_, fun i st ha => ?_⟩⟩
  · obtain ⟨h1, h2, h3, h4, h5, h6⟩ := folds_known h d ha hb imm sh
    exact ⟨h1, h2, h3, h4, h5, h6, fun c j p' q' hc => folds_forms h d ha hc⟩
  · exact ⟨(exec_mulh ..).trans (alu2_parks h hl), (exec_mulhu ..).trans (alu2_parks h hl), (exec_shr ..).trans (alu2_parks h hl),
      (exec_sar ..).trans (alu2_parks h hl)⟩
  · exact ⟨(exec_shri ..).trans (alu1_parks h hl), (exec_sari ..).trans (alu1_parks h hl)⟩
  · exact parks_chain h d b ha imm sh

end Sys2Proof.Machine
end

section
/-! SUPPORT. Deferring an effect: what an instruction with a late operand checks, and the pool entry it takes (R72, R298). -/

namespace Sys2Proof.Machine

open Sys2Proof

/-! ## What an instruction comes to -/

/-- An instruction of one word that issues comes to `x`: an effect, from which it moves on, or what stops it. -/
def State.Meets (s : State) (r : Run) (i : Instr) (x : Except Stop State) : Prop :=
  exec i s = .next (s.settle r 1 (x.map (·.next 1)))

theorem meets_guarded {s : State} {r : Run} {g : Guard} {i : Instr} {f : Meaning} (h : s.Issues r g)
    (hi : exec i s = guarded g 1 f s) : s.Meets r i (f s r) := by
  refine hi.trans ?_
  simp only [guarded, State.running, h.1, h.2, if_true]

theorem meets_guardedN {s : State} {r : Run} {g : Guard} {i : Instr} {n : Bool} {f nul : Meaning} (h : s.Issues r g)
    (hi : exec i s = guardedN g n f nul s) : s.Meets r i (f s r) := by
  refine hi.trans ?_
  simp only [guardedN, State.running, h.1, h.2, if_true]

/-- What stops on a fault of a check takes it. -/
theorem State.Meets.faults {s : State} {r : Run} {i : Instr} {x : Except Stop State} {code addr : Nat} (hm : s.Meets r i x)
    (hx : x = .error (.fault code addr 0)) (hc : code ≠ 0x12) : s.Faults i r code addr 0 := by
  subst hx
  refine Eq.trans hm ?_
  simp only [Except.map, State.settle, if_neg hc]

/-- The current core's Running threadlet moved on, in whatever state its core stands. -/
theorem State.next_setCore {s : State} {r : Run} {c : Core} (hc : c.run = some r) (n : Nat) :
    (s.setCore s.cur c).next n = s.setCore s.cur { c with run := some (r.past n) } := by
  rw [State.next_of_core ((State.core_setCore ..).trans (if_pos rfl)) hc rfl, State.setRun, State.onCore_eq,
    State.setCore_setCore, State.core_setCore, if_pos rfl]

/-! ## Deferring (R72) -/

/-- Nothing keeps a late effect of the Running threadlet out of pool entry `j` (R74, R226). -/
structure State.MayDefer (s : State) (r : Run) (g : Guard) (j : Nat) : Prop where
  issues : s.Issues r g
  acquired : (s.core s.cur).acqPending r.tid = []
  supply : s.supply r 0 1 = .ok ()
  free : SMap.firstFree (s.core s.cur).pool 0 256 = some j

section Defer

variable {s : State} {r : Run} {g : Guard} {j : Nat} {i : Instr} {e : Effect} {ops ints : List RVal}

theorem State.MayDefer.defer (H : s.MayDefer r g j) (hd : deferrable ops ints = true) :
    s.defer r e ops ints = .ok (s.setCore s.cur { s.core s.cur with
      pool := SMap.set (s.core s.cur).pool j ⟨(s.core s.cur).nextSeq, r.origin, .effect e ops⟩
      nextSeq := (s.core s.cur).nextSeq + 1 }) := by
  simp [State.defer, State.acquired_ok H.acquired, H.supply, H.free, hd, bind, Except.bind]

/-- What comes to a late effect that may be deferred takes its pool entry and goes on. -/
theorem State.MayDefer.defers (H : s.MayDefer r g j) (hd : deferrable ops ints = true)
    (hm : s.Meets r i (s.defer r e ops ints)) : s.Defers i r j e ops := by
  rw [H.defer hd] at hm
  refine Eq.trans hm ?_
  change Host.Outcome.next ((s.setCore s.cur _).next 1) = _
  rw [State.next_setCore (r := r)]
  · rfl
  · exact H.issues.1

end Defer

/-! ## Checks of the operands that are known (R298) -/

theorem highVa_eq (a : Word) : highVa a = decide (2 ^ 52 ≤ a.toNat) := by
  have := a.isLt
  have : field a 63 52 = 0 ↔ ¬ 2 ^ 52 ≤ a.toNat := by
    simp only [field, Nat.shiftRight_eq_div_pow]
    omega
  simp only [highVa, bne, beq_eq_decide, this, decide_not, Bool.not_not]

theorem highVa_of_lt {a : Word} (h : a.toNat < 2 ^ 52) : highVa a = false := by
  rw [highVa_eq, decide_eq_false (by omega)]

theorem highVa_of_le {a : Word} (h : 2 ^ 52 ≤ a.toNat) : highVa a = true := by
  rw [highVa_eq, decide_eq_true h]

section Signal

variable {s : State} {r : Run} {rel : Bool} {e : Effect} {ops : List RVal}

/-- A signal whose reference is late or good is deferred once no earlier deferred effect keeps a release back (R386). -/
theorem State.deferSignal_defers {ref : RVal} (hw : ∀ w, ref = .known w → s.refOk w = true)
    (hrel : rel = true → s.effectsResolved r = .ok ()) : s.deferSignal r rel e ref ops = s.defer r e ops [ref] := by
  have hc : onKnown ref (fun w => (s.checkRef w).stop) = .ok () := onKnown_ok fun w h => by simp [State.checkRef, hw w h]; rfl
  cases rel with
  | false => simp [State.deferSignal, hc, bind, Except.bind]
  | true => simp [State.deferSignal, hc, hrel, bind, Except.bind]

theorem State.deferSignal_badRef {w : Word} (hw : s.refOk w = false) :
    s.deferSignal r rel e (.known w) ops = .error (.fault 0x09 0 0) := by
  simp [State.deferSignal, onKnown, State.checkRef, hw, Check.stop, Except.mapError, bind, Except.bind]

end Signal

section Updates

variable {s : State} {region k : Nat} {a v : Word}

theorem State.checkPairs_unbound (h : s.streamOf region k = none) :
    s.checkPairs region k (updPair a v) = .error (0x10, 0) := by
  simp [State.checkPairs, updPair, h]

theorem State.checkPairs_bound {bid : Nat} {x : Binding} (h : s.streamOf region k = some (bid, x)) :
    s.checkPairs region k (updPair a v) =
      if a.toNat % operSize x.oper ≠ 0 then .error (0x03, a.toNat)
      else if highVa a then .error (0x05, a.toNat)
      else .ok (bid, updPair a v (operSize x.oper)) := by
  by_cases ha : a.toNat % operSize x.oper = 0 <;> cases hv : highVa a <;>
    simp [State.checkPairs, updPair, h, ha, hv]

end Updates

/-- A store's address checked alone (R355). -/
theorem gstBody_ok {sz : Size} {p v : Word} (h : p.toNat < 2 ^ 52) (ha : p.toNat % sz.bytes = 0) :
    gstBody sz p v none = .ok (.gst p.toNat sz.bytes v none) := by
  simp [gstBody, highVa_of_lt h, ha]

theorem gstBody_high {sz : Size} {p v : Word} {tag : Option Word} (h : 2 ^ 52 ≤ p.toNat) :
    gstBody sz p v tag = .error (0x05, p.toNat) := by
  simp [gstBody, highVa_of_le h]

theorem gstBody_misaligned {sz : Size} {p v : Word} {tag : Option Word} (h : p.toNat < 2 ^ 52) (ha : p.toNat % sz.bytes ≠ 0) :
    gstBody sz p v tag = .error (0x03, p.toNat) := by
  simp [gstBody, highVa_of_lt h, ha]

theorem onKnown_form (i : Nat) (p q : Word) (check : Word → Except Stop Unit) : onKnown (.form i p q) check = .ok () := rfl

/-! ## Late loads whose address awaits a symbol (R66, R72) -/

theorem Run.reg_write (r : Run) (d : XReg) (v : RVal) (k : Nat) :
    (r.write d v).reg k = if d ≠ 0 ∧ k = d.toNat then v else r.reg k := by
  by_cases hd : d = 0
  · simp [Run.write, hd]
  · have hd' : d.toNat ≠ 0 := fun e => hd (BitVec.eq_of_toNat_eq e)
    rw [Run.write, if_neg hd, Run.reg, Run.reg, SMap.get_set]
    by_cases hk : k = d.toNat
    · rw [if_neg (by omega), if_pos hk, if_pos ⟨hd, hk⟩]
    · rw [if_neg hk, if_neg (c := d ≠ 0 ∧ _) fun e => hk e.2]

/-- Which symbol a register's form stands over does not change how many registers are symbolic. -/
theorem Run.symbolic_write_form (r : Run) (d : XReg) (i j : Nat) (a b a' b' : Word) :
    (r.write d (.form i a b)).symbolic = (r.write d (.form j a' b')).symbolic := by
  unfold Run.symbolic
  refine List.filter_congr fun k _ => ?_
  rw [Run.reg_write, Run.reg_write]
  split <;> rfl

theorem State.supply_write_form (s : State) (r : Run) (d : XReg) (i j : Nat) (a b a' b' : Word) (n m : Nat) :
    s.supply (r.write d (.form i a b)) n m = s.supply (r.write d (.form j a' b')) n m := by
  simp only [State.supply, Run.symbolic_write_form r d i j a b a' b']

/-- The symbol of a destination other than x0 is the lowest free one, and the register takes its identity form. -/
theorem State.symFor_takes {s : State} {r : Run} {d : XReg} {k : Nat} (hr : (s.core s.cur).run = some r) (hd : d ≠ 0)
    (hk : SMap.firstFree (s.core s.cur).syms 0 64 = some k) (st : SymState) (acq : Bool) :
    s.symFor r d.toNat st acq = (some k, s.setCore s.cur { s.core s.cur with
      run := some (r.write d (.form k 1 0))
      syms := SMap.set (s.core s.cur).syms k ⟨st, r.tid, r.fid, r.region, acq, (s.core s.cur).nextSeq, r.origin⟩ }) := by
  have hd' : d.toNat ≠ 0 := fun e => hd (BitVec.eq_of_toNat_eq e)
  simp [State.symFor, hd', State.takeSym, hk, State.writeR, State.onRun, State.onCore_eq, hr, BitVec.ofNat_toNat]


/-! ## The instructions on late operands -/

section Late

variable {s : State} {r : Run} {g : Guard} (h : s.Issues r g)
include h

theorem meets_sig {rel n : Bool} {a : XReg} (ha : (r.get a).isLate) :
    s.Meets r (.sig g rel n a) (s.deferSignal r rel (.sig rel 1) (r.get a) [r.get a]) := by
  have hm := meets_guardedN h (exec_sig g rel n a s)
  cases hv : r.get a <;> simp_all

theorem meets_sigd {rel n : Bool} {a b : XReg} {dw : BitVec 5} (hl : (r.get a).isLate ∨ (r.get b).isLate) :
    s.Meets r (.sigd g rel n a b dw) (s.deferSignal r rel (.sigd rel dw.toNat) (r.get a) [r.get a, r.get b]) := by
  have hm := meets_guardedN h (exec_sigd g rel n a b dw s)
  cases hv : r.get a <;> cases hw : r.get b <;> simp_all

theorem meets_upd {a b : XReg} {k : BitVec 3} (hl : (r.get a).isLate ∨ (r.get b).isLate) :
    s.Meets r (.upd g a b k) (do
      onKnown (r.get a) fun a => (s.checkPairs r.region k.toNat (updPair a 0)).stop.map fun _ => ()
      s.defer r (.upd k.toNat) [r.get a, r.get b] [r.get a]) := by
  have hm := meets_guarded h (exec_upd g a b k s)
  cases hv : r.get a <;> cases hw : r.get b <;> simp_all

theorem meets_updv {a : XReg} {va vb : VReg} {m : MReg} {k : BitVec 3} (ha : (r.get a).isLate) :
    s.Meets r (.updv g a va vb m k)
      (s.defer r (.updv k.toNat (r.vec va) (r.vec vb) (r.mask m)) [r.get a] [r.get a]) := by
  have hm := meets_guarded h (exec_updv g a va vb m k s)
  cases hv : r.get a <;> simp_all

end Late

/-- GST with a late operand: the checks of its address and of its tag's, and the effect deferred (R298, R355). -/
def State.gstLate (s : State) (r : Run) (sz : Size) (t : Bool) (addr val : RVal) (tag : List RVal) : Except Stop State := do
  onKnown addr fun p => (gstBody sz p 0 none).stop.map fun _ => ()
  onKnown (tag.headD (.known 0)) fun w => need (w.toNat % 4 == 0) 0x03 w.toNat
  s.defer r (.gst sz t) ([addr, val] ++ tag) (addr :: tag)

theorem meets_gst {s : State} {r : Run} {g : Guard} {sz : Size} {t : Bool} {c a : XReg} {off : BitVec 8} {addr : RVal}
    {tag : List RVal} (h : s.Issues r g) (haddr : addrOf (r.get a) (scaled 0 off sz.bytes) = addr)
    (htag : (if t then [r.reg (c.toNat + 1)] else []) = tag) (hl : anyForm ([addr, r.get c] ++ tag) = true)
    (hd : deferrable ([addr, r.get c] ++ tag) (addr :: tag) = true) :
    s.Meets r (.gst g sz t c a off) (s.gstLate r sz t addr (r.get c) tag) := by
  have hm := meets_guarded h (exec_gst g sz t c a off s)
  simp only [haddr, htag, hl, hd, if_true, Bool.not_true, Bool.false_eq_true, if_false] at hm
  exact hm

theorem Run.group_two (r : Run) (xg : XReg) : r.group xg 2 = [r.get xg, r.reg (xg.toNat + 1)] := rfl

theorem anyForm_of_late {vs : List RVal} (h : ∃ v ∈ vs, v.isLate) : anyForm vs = true := by
  obtain ⟨v, hv, hl⟩ := h
  have : symbolsOf vs ≠ [] := fun e => (symbolsOf_eq_nil vs).1 e v hv hl
  simp [anyForm, this]

/-- GLD with a late operand: the checks of those that are known, and the effect deferred, or a park where it cannot be (R298,
R354). -/
def State.gldLate (s : State) (r : Run) (lu : Bool) (evp : Evp) (sz : Size) (byt : Bool) (loc addr : RVal) (y : Option RVal) :
    Except Stop State := do
  s.gldKnown r sz loc addr y
  let ops := [loc, addr] ++ y.toList
  if !deferrable ops ops then onKnown addr (s.checkAccess r false sz.bytes)
  s.defer r (.gld lu evp sz byt) ops ops

theorem meets_gld {s : State} {r : Run} {g : Guard} (h : s.Issues r g) (lu : Bool) (evp : Evp) (sz : Size) (byt n : Bool) {xg : XReg}
    (y : XReg) {loc addr : RVal} (hg : r.group xg 2 = [loc, addr]) (hl : loc.isLate ∨ addr.isLate) :
    s.Meets r (.gld g lu evp sz byt n xg y)
      (s.gldLate r lu evp sz byt loc addr (if y = 0 then none else some (r.get y))) := by
  have hm := meets_guardedN h (exec_gld g lu evp sz byt n xg y s)
  have hops : (if y = 0 then [] else [r.get y]) = (if y = 0 then none else some (r.get y)).toList := by split <;> rfl
  have hform : anyForm ([loc, addr] ++ (if y = 0 then none else some (r.get y)).toList) = true :=
    anyForm_of_late (by rcases hl with hl | hl <;> exact ⟨_, by simp, hl⟩)
  rw [Run.group_two] at hg
  obtain ⟨hloc, haddr⟩ := List.cons.inj hg
  simp only [Run.group_two, hops, hloc, (List.cons.inj haddr).1, hform, if_true] at hm
  exact hm

/-! ## Each kind of effect beside known operands -/

section Effects

variable {s : State} {r : Run} {g : Guard} {i j : Nat} {p q w : Word} (H : s.MayDefer r g j)
include H

/-- Signals (R386): the reference late, or the data. -/
theorem signals_defer {a b : XReg} (rel n : Bool) (dw : BitVec 5) (ha : r.get a = .form i p q) (hb : r.get b = .known w)
    (hrel : rel = true → s.effectsResolved r = .ok ()) :
    s.Defers (.sig g rel n a) r j (.sig rel 1) [.form i p q] ∧
      s.Defers (.sigd g rel n a b dw) r j (.sigd rel dw.toNat) [.form i p q, .known w] ∧
      (s.refOk w = true → s.Defers (.sigd g rel n b a dw) r j (.sigd rel dw.toNat) [.known w, .form i p q]) := by
  have late : (r.get a).isLate := by rw [ha]; simp
  refine ⟨H.defers (ints := [.form i p q]) rfl ?_, H.defers (ints := [.form i p q]) rfl ?_,
    fun hw => H.defers (ints := [.known w]) rfl ?_⟩
  · have hm := meets_sig (rel := rel) (n := n) H.issues late
    rwa [ha, State.deferSignal_defers (fun _ e => by cases e) hrel] at hm
  · have hm := meets_sigd (rel := rel) (n := n) (dw := dw) (b := b) H.issues (.inl late)
    rwa [ha, hb, State.deferSignal_defers (fun _ e => by cases e) hrel] at hm
  · have hm := meets_sigd (rel := rel) (n := n) (dw := dw) (a := b) H.issues (.inr late)
    rwa [ha, hb, State.deferSignal_defers (fun v hv => by cases hv; exact hw) hrel] at hm

/-- A late datum does not keep a bad reference from its fault (R52). -/
theorem sigd_badRef {a b : XReg} (rel n : Bool) (dw : BitVec 5) (ha : r.get a = .form i p q) (hb : r.get b = .known w)
    (hw : s.refOk w = false) : s.Faults (.sigd g rel n b a dw) r 0x09 0 0 := by
  have hm := meets_sigd (rel := rel) (n := n) (dw := dw) (a := b) (b := a) H.issues (.inr (by rw [ha]; simp))
  rw [ha, hb, State.deferSignal_badRef hw] at hm
  exact hm.faults rfl (by decide)

/-- Updates (R243): with the address late nothing is checked; a known one is. -/
theorem upd_lateAddress {a b : XReg} (k : BitVec 3) (ha : r.get a = .form i p q) (hb : r.get b = .known w) :
    s.Defers (.upd g a b k) r j (.upd k.toNat) [.form i p q, .known w] := by
  have hm := meets_upd (b := b) (k := k) H.issues (.inl (show (r.get a).isLate by rw [ha]; simp))
  rw [ha, hb] at hm
  exact H.defers (ints := [.form i p q]) rfl hm

theorem upd_lateValue {a b : XReg} (k : BitVec 3) (ha : r.get a = .form i p q) (hb : r.get b = .known w) :
    (s.streamOf r.region k.toNat = none → s.Faults (.upd g b a k) r 0x10 0 0) ∧
    ∀ (bid : Nat) (x : Binding), s.streamOf r.region k.toNat = some (bid, x) →
      (w.toNat % operSize x.oper ≠ 0 → s.Faults (.upd g b a k) r 0x03 w.toNat 0) ∧
      (w.toNat % operSize x.oper = 0 → 2 ^ 52 ≤ w.toNat → s.Faults (.upd g b a k) r 0x05 w.toNat 0) ∧
      (w.toNat % operSize x.oper = 0 → w.toNat < 2 ^ 52 →
        s.Defers (.upd g b a k) r j (.upd k.toNat) [.known w, .form i p q]) := by
  have hm := meets_upd (a := b) (k := k) H.issues (.inr (show (r.get a).isLate by rw [ha]; simp))
  rw [ha, hb] at hm
  refine ⟨fun hs => hm.faults (by simp only [onKnown, State.checkPairs_unbound hs]; rfl) (by decide), fun bid x hs => ?_⟩
  simp only [onKnown, State.checkPairs_bound hs] at hm
  refine ⟨fun h3 => ?_, fun h3 h5 => ?_, fun h3 h5 => ?_⟩
  · rw [if_pos h3] at hm
    exact hm.faults rfl (by decide)
  · rw [if_neg (not_not.2 h3), if_pos (highVa_of_le h5)] at hm
    exact hm.faults rfl (by decide)
  · rw [if_neg (not_not.2 h3), highVa_of_lt h5] at hm
    exact H.defers (ints := [.known w]) rfl hm

/-- Stores (R355): with the address late, the address of the tag is checked where it is known. -/
theorem gst_lateAddress {a b : XReg} (sz : Size) (off : BitVec 8) (ha : r.get a = .form i p q) (hb : r.get b = .known w) :
    s.Defers (.gst g sz false b a off) r j (.gst sz false) [.form i p (q + scaled 0 off sz.bytes), .known w] ∧
    ∀ v : Word, r.reg (b.toNat + 1) = .known v →
      (v.toNat % 4 = 0 →
        s.Defers (.gst g sz true b a off) r j (.gst sz true) [.form i p (q + scaled 0 off sz.bytes), .known w, .known v]) ∧
      (v.toNat % 4 ≠ 0 → s.Faults (.gst g sz true b a off) r 0x03 v.toNat 0) := by
  have haddr : addrOf (r.get a) (scaled 0 off sz.bytes) = .form i p (q + scaled 0 off sz.bytes) := by rw [ha]; rfl
  refine ⟨?_, fun v hv => ?_⟩
  · have hm := meets_gst (c := b) (t := false) H.issues haddr rfl (by rw [hb]; rfl) (by rw [hb]; rfl)
    rw [hb] at hm
    exact H.defers (ints := [.form i p (q + scaled 0 off sz.bytes)]) rfl hm
  · have hm := meets_gst (c := b) (t := true) (tag := [.known v]) H.issues haddr (by rw [hv]; rfl) (by rw [hb]; rfl)
      (by rw [hb]; rfl)
    rw [hb] at hm
    refine ⟨fun h4 => H.defers (ints := [.form i p (q + scaled 0 off sz.bytes), .known v]) rfl ?_,
      fun h4 => hm.faults ?_ (by decide)⟩
    · simpa [State.gstLate, onKnown, need, h4, bind, Except.bind] using hm
    · simp [State.gstLate, onKnown, need, h4, bind, Except.bind]

/-- With the datum late, the address is checked. -/
theorem gst_lateValue {a b : XReg} (sz : Size) (off : BitVec 8) (ha : r.get a = .form i p q) (hb : r.get b = .known w) :
    let t := scaled w off sz.bytes
    (2 ^ 52 ≤ t.toNat → s.Faults (.gst g sz false a b off) r 0x05 t.toNat 0) ∧
    (t.toNat < 2 ^ 52 → t.toNat % sz.bytes ≠ 0 → s.Faults (.gst g sz false a b off) r 0x03 t.toNat 0) ∧
    (t.toNat < 2 ^ 52 → t.toNat % sz.bytes = 0 →
      s.Defers (.gst g sz false a b off) r j (.gst sz false) [.known t, .form i p q]) := by
  intro t
  have haddr : addrOf (r.get b) (scaled 0 off sz.bytes) = .known t := by
    rw [hb]
    exact congrArg RVal.known (by simp [t, scaled])
  have hm := meets_gst (c := a) (t := false) H.issues haddr rfl (by rw [ha]; rfl) (by rw [ha]; rfl)
  rw [ha] at hm
  refine ⟨fun h5 => hm.faults ?_ (by decide), fun h5 h3 => hm.faults ?_ (by decide),
    fun h5 h3 => H.defers (ints := [.known t]) rfl ?_⟩
  · simp only [State.gstLate, onKnown, gstBody_high h5]
    rfl
  · simp only [State.gstLate, onKnown, gstBody_misaligned h5 h3]
    rfl
  · simp only [State.gstLate, onKnown, gstBody_ok h5 h3] at hm
    exact hm

/-- Loads (R354): with the global address late, the local one and the reference are checked, in that order. -/
theorem gld_lateAddress {b xg : XReg} {v : Word} (lu byt n : Bool) (sz : Size) (evp : Evp) (hb : r.get b = .known w)
    (hg : r.group xg 2 = [.known v, .form i p q]) :
    let gld (y : XReg) : Instr := .gld g lu evp sz byt n xg y
    (v.toNat % sz.bytes ≠ 0 → ∀ y, s.Faults (gld y) r 0x03 v.toNat 0) ∧
    (v.toNat % sz.bytes = 0 → s.localOk s.cur r.fid v.toNat sz.bytes true = false → ∀ y, s.Faults (gld y) r 0x05 v.toNat 0) ∧
    (v.toNat % sz.bytes = 0 → s.localOk s.cur r.fid v.toNat sz.bytes true = true →
      s.Defers (gld 0) r j (.gld lu evp sz byt) [.known v, .form i p q] ∧
      (b ≠ 0 → s.refOk w = false → s.Faults (gld b) r 0x09 0 0) ∧
      (b ≠ 0 → s.refOk w = true → s.Defers (gld b) r j (.gld lu evp sz byt) [.known v, .form i p q, .known w])) := by
  intro gld
  have hm (y : XReg) : s.Meets r (gld y) _ := meets_gld H.issues lu evp sz byt n y hg (.inr (by simp))
  have hm' (h0 : b ≠ 0) : s.Meets r (gld b) (s.gldLate r lu evp sz byt (.known v) (.form i p q) (some (.known w))) := by
    have h := hm b
    rwa [if_neg h0, hb] at h
  refine ⟨fun h3 y => (hm y).faults ?_ (by decide), fun h3 h5 y => (hm y).faults ?_ (by decide),
    fun h3 h5 => ⟨H.defers (ints := [.known v, .form i p q]) rfl ?_, fun h0 h9 => (hm' h0).faults ?_ (by decide),
      fun h0 h9 => H.defers (ints := [.known v, .form i p q, .known w]) rfl ?_⟩⟩
  · simp [State.gldLate, State.gldKnown, onKnown, need, h3, bind, Except.bind]
  · simp [State.gldLate, State.gldKnown, onKnown, need, h3, h5, bind, Except.bind]
  · have hd : deferrable [.known v, .form i p q] [.known v, .form i p q] = true := rfl
    simpa [State.gldLate, State.gldKnown, onKnown, need, h3, h5, hd, bind, Except.bind] using hm 0
  · simp [State.gldLate, State.gldKnown, onKnown, need, h3, h5, h9, State.checkRef, Check.stop, Except.mapError, bind,
      Except.bind]
  · have hd : deferrable [.known v, .form i p q, .known w] [.known v, .form i p q, .known w] = true := rfl
    simpa [State.gldLate, State.gldKnown, onKnown, need, h3, h5, h9, hd, State.checkRef, Check.stop, Except.mapError,
      bind, Except.bind] using hm' h0

theorem gld_lateLocal {xg : XReg} {v : Word} (lu byt n : Bool) (sz : Size) (evp : Evp)
    (hg : r.group xg 2 = [.form i p q, .known v]) :
    let gld : Instr := .gld g lu evp sz byt n xg 0
    (2 ^ 52 ≤ v.toNat → s.Faults gld r 0x05 v.toNat 0) ∧
    (v.toNat < 2 ^ 52 → v.toNat % sz.bytes ≠ 0 → s.Faults gld r 0x03 v.toNat 0) ∧
    (v.toNat < 2 ^ 52 → v.toNat % sz.bytes = 0 → s.Defers gld r j (.gld lu evp sz byt) [.form i p q, .known v]) := by
  intro gld
  have hm : s.Meets r gld _ := meets_gld H.issues lu evp sz byt n 0 hg (.inl (by simp))
  have hd : deferrable [.form i p q, .known v] [.form i p q, .known v] = true := rfl
  refine ⟨fun h5 => hm.faults ?_ (by decide), fun h5 h3 => hm.faults ?_ (by decide),
    fun h5 h3 => H.defers (ints := [.form i p q, .known v]) rfl ?_⟩
  · simp [State.gldLate, State.gldKnown, onKnown, need, highVa_of_le h5, bind, Except.bind]
  · simp [State.gldLate, State.gldKnown, onKnown, need, highVa_of_lt h5, h3, bind, Except.bind]
  · simpa [State.gldLate, State.gldKnown, onKnown, need, highVa_of_lt h5, h3, hd, bind, Except.bind] using hm

end Effects

/-- A late load whose own address is late takes a symbol that awaits it, and a pool entry (R66, R72). -/
theorem ldl_awaits {s : State} {r : Run} {g : Guard} {i j k : Nat} {p q : Word} {x : Sym} {a d : XReg} (H : s.MayDefer r g j) (sz : Size)
    (u : Bool) (off : BitVec 8) (ha : r.get a = .form i p q) (hd : d ≠ 0) (hx : SMap.find (s.core s.cur).syms i = some x)
    (hst : x.st ≠ .awaiting) (hk : SMap.firstFree (s.core s.cur).syms 0 64 = some k)
    (hs : s.supply (r.write d (.form k 1 0)) 1 1 = .ok ()) :
    exec (.ldl g sz u d a off) s = .next (s.setCore s.cur
      { s.issued (r.write d (.form k 1 0)) 1 with
        syms := SMap.set (s.core s.cur).syms k ⟨.awaiting, r.tid, r.fid, r.region, false, (s.core s.cur).nextSeq, r.origin⟩,
        pool := SMap.set (s.core s.cur).pool j ⟨(s.core s.cur).nextSeq, r.origin,
          .address (some k) sz u (.form i p (q + scaled 0 off sz.bytes))⟩ }) := by
  have haddr : addrOf (r.get a) (scaled 0 off sz.bytes) = .form i p (q + scaled 0 off sz.bytes) := by rw [ha]; rfl
  have await : ((RVal.form i p (q + scaled 0 off sz.bytes)).symbol.bind fun i => SMap.find (s.core s.cur).syms i).any
      (fun x => x.st == .awaiting) = false := by
    simp [RVal.symbol, hx, hst]
  rw [State.supply_write_form s r d k 64 1 0 1 0] at hs
  have hm := meets_guarded H.issues (exec_ldl g sz u d a off s)
  simp only [haddr, State.acquired_ok H.acquired, await, hd, if_false, hs, State.symFor_takes H.issues.1 hd hk,
    State.core_setCore, if_true, H.free, State.setCore_setCore, RVal.isInt] at hm
  refine Eq.trans hm ?_
  change Host.Outcome.next ((s.setCore s.cur _).next 1) = _
  rw [State.next_setCore (r := r.write d (.form k 1 0))]
  · rfl
  · rfl

/-- Settles O41: each kind of effect is deferred once the checks of its known operands pass, and faults where one fails. -/
theorem deferredEffects : Obligations.DeferredEffects := by
  intro s r g a b xg d rel n u lu byt dw sz evp off k3 va vb m i j p q w h hacq hsup hfree ha hb
  have H : s.MayDefer r g j := ⟨h, hacq, hsup, hfree⟩
  obtain ⟨hnone, hbound⟩ := upd_lateValue H k3 ha hb
  obtain ⟨hgst, htag⟩ := gst_lateAddress H sz off ha hb
  refine ⟨signals_defer H rel n dw ha hb, sigd_badRef H rel n dw ha hb, upd_lateAddress H k3 ha hb, hnone, hbound, ?_, hgst, htag,
    gst_lateValue H sz off ha hb, fun v hg => gld_lateAddress H lu byt n sz evp hb hg,
    fun v hg => gld_lateLocal H lu byt n sz evp hg, fun k x hd hx hst hk hs => ldl_awaits H sz u off ha hd hx hst hk hs⟩
  have hm := meets_updv (va := va) (vb := vb) (m := m) (k := k3) h (show (r.get a).isLate by rw [ha]; simp)
  rw [ha] at hm
  exact H.defers (ints := [.form i p q]) rfl hm

end Sys2Proof.Machine
end

section
/-! SUPPORT. Values that come back: registers over a resolved symbol, operations that end, and what lands (R75, R86, R217, R218,
R245, R354). -/

namespace Sys2Proof.Machine

open Sys2Proof

/-! ## Registers over a resolved symbol (R75) -/

/-- A register of a threadlet that stands over a symbol takes its value; the flags of its replay are raised. -/
def Run.resolveReg (sym : Nat) (v : Word) (r : Run) (e : Nat × RVal) : Run :=
  if e.2.symbol = some sym then
    { r with x := SMap.set r.x e.1 (.known (e.2.resolve sym v).1), fpst := r.fpst ||| (e.2.resolve sym v).2 }
  else r

/-- The threadlet with every register over a symbol resolved. -/
def Run.resolved (r : Run) (sym : Nat) (v : Word) : Run := r.x.foldl (Run.resolveReg sym v) r

theorem Core.resolveRun_eq {c : Core} {r : Run} (h : c.run = some r) (sym : Nat) (v : Word) :
    c.resolveRun sym v = { c with run := some (r.resolved sym v) } := by
  simp only [Core.resolveRun, h]
  rfl

theorem Run.find_resolveReg (sym : Nat) (v : Word) (r : Run) (e : Nat × RVal) (j : Nat) :
    SMap.find (r.resolveReg sym v e).x j =
      if e.2.symbol = some sym ∧ j = e.1 then some (.known (e.2.resolve sym v).1) else SMap.find r.x j := by
  unfold Run.resolveReg
  split <;> simp [*]

/-- What a register holds once listed registers are resolved. -/
theorem Run.find_resolveRegs {l : SMap RVal} (hl : SMap.Rising l) (sym : Nat) (v : Word) (r : Run) (j : Nat) :
    SMap.find (l.foldl (Run.resolveReg sym v) r).x j =
      match (SMap.find l j).filter fun w => decide (w.symbol = some sym) with
      | some w => some (.known (w.resolve sym v).1)
      | none => SMap.find r.x j := by
  unfold SMap.Rising at hl
  induction l generalizing r with
  | nil => rfl
  | cons e l ih =>
    rw [List.map_cons, List.pairwise_cons] at hl
    have hnone (h : j ≤ e.1) : SMap.find l j = none :=
      SMap.find_none_of_lt fun x hx => Nat.lt_of_le_of_lt h (hl.1 _ (List.mem_map_of_mem hx))
    have hcons : SMap.find (e :: l) j = if e.1 = j then some e.2 else if j < e.1 then none else SMap.find l j := rfl
    rw [List.foldl_cons, ih hl.2, Run.find_resolveReg, hcons]
    by_cases hj : e.1 = j
    · rw [hnone (by omega)]
      by_cases hs : e.2.symbol = some sym <;> simp [hj, hs, Option.filter]
    · by_cases hlt : j < e.1
      · simp [hnone (by omega), hj, hlt, Ne.symm hj]
      · simp [hj, hlt, Ne.symm hj]

section Resolved

variable {r : Run} (h : SMap.Rising r.x) {sym : Nat} (v : Word)
include h

/-- A form over the symbol takes its value. -/
theorem Run.resolved_form {j : Nat} {p q : Word} (hj : 1 ≤ j) (hf : r.reg j = .form sym p q) :
    (r.resolved sym v).reg j = .known (p * v + q) := by
  rw [Run.reg, if_neg (by omega)] at hf ⊢
  have hfind : SMap.find r.x j = some (.form sym p q) := by
    rw [SMap.get] at hf
    cases hx : SMap.find r.x j with
    | none => rw [hx] at hf; cases hf
    | some w => rw [hx] at hf; exact congrArg some hf
  rw [SMap.get, Run.resolved, Run.find_resolveRegs h, hfind]
  simp [Option.filter, RVal.symbol, RVal.resolve]

/-- Every other register keeps what it held. -/
theorem Run.resolved_other {j : Nat} (hs : (r.reg j).symbol ≠ some sym) : (r.resolved sym v).reg j = r.reg j := by
  unfold Run.reg at hs ⊢
  split
  · rfl
  · next hj =>
    rw [if_neg hj, SMap.get] at hs
    rw [SMap.get, SMap.get, Run.resolved, Run.find_resolveRegs h]
    cases hx : SMap.find r.x j with
    | none => simp
    | some w =>
      rw [hx] at hs
      have hw : ¬ w.symbol = some sym := hs
      simp [Option.filter, hw]

end Resolved

/-- A symbol whose value arrives: the Running threadlet's registers over it take the value, and the symbols are all else
that changes. -/
theorem State.resolveSym_eq {s : State} {n sym : Nat} {x : Sym} {r : Run} (hx : SMap.find (s.core n).syms sym = some x)
    (hr : (s.core n).run = some r) (v : Word) :
    ∃ syms, s.resolveSym n sym v = s.setCore n { s.core n with run := some (r.resolved sym v), syms := syms } := by
  rw [State.resolveSym, State.onCore_eq]
  simp only [hx]
  rw [Core.resolveRun_eq (by exact hr)]
  exact ⟨_, rfl⟩

/-! ## Operations that end (R217, R218) -/

theorem Op.shadedBy_quiet {o : Op} (h : o.body.stores = false) (x : Op) : x.shadedBy o = x := by simp [Op.shadedBy, h]

/-- The core that an operation has left. -/
def Core.ended (c : Core) (o : Op) (tag : Option (BitVec 32)) : Core :=
  { c with
    outst := (c.outst.filter (·.id != o.id)).map (·.shadedBy o)
    taglast := match tag with | some t => SMap.set c.taglast o.org.tid t | none => c.taglast }

theorem State.endOp_eq (s : State) (n : Nat) (o : Op) (tag : Option (BitVec 32)) :
    s.endOp n o tag = s.setCore n ((s.core n).ended o tag) := rfl

/-- An operation that stores nothing leaves the others as they were. -/
theorem Core.outst_ended_quiet {o : Op} (h : o.body.stores = false) (c : Core) (tag : Option (BitVec 32)) :
    (c.ended o tag).outst = c.outst.filter (·.id != o.id) := by
  refine (List.map_congr_left fun x _ => Op.shadedBy_quiet h x).trans ?_
  exact List.map_id' _

@[simp] theorem State.core_drop (s : State) (k n : Nat) : (s.drop k).core n = s.core n := rfl

/-! ## A value's arrival (R75, R218, R331) -/

section Value

variable {s : State} {k n id i rgn : Nat} {src : Agent} {o : Op} {x : Sym} {r : Run}

/-- A late load's reply ends the operation and resolves its symbol. -/
theorem exec_symbolValueArrival_load {va size : Nat} {u : Bool} {data : List Byte}
    (hp : s.packet k = some ⟨.rsp, src, .core n, rgn, .readRsp id data [] 0⟩) (ho : (s.core n).outstanding id = some o)
    (hb : o.body = .ldl va size u (some i)) :
    exec (.symbolValueArrival k) s
      = .next (((s.drop k).endOp n o none).resolveSym n i (extend u size (natOf data))) := by
  rw [exec_symbolValueArrival, execSymbolValueArrival, hp]
  simp only [ho, hb]
  rfl

/-- So does an atomic's, which leaves its tag as well. -/
theorem exec_symbolValueArrival_atomic {va size : Nat} {kd : AtomKind} {a c old : BitVec 128} {tag : BitVec 32}
    (hp : s.packet k = some ⟨.rsp, src, .core n, rgn, .atomRsp id old false tag⟩) (ho : (s.core n).outstanding id = some o)
    (hb : o.body = .atom kd va size a c (some i) none) :
    exec (.symbolValueArrival k) s = .next (((s.drop k).endOp n o (some tag)).resolveSym n i
      (if size = 4 then (old.setWidth 32).setWidth 64 else old.setWidth 64)) := by
  rw [exec_symbolValueArrival, execSymbolValueArrival, hp]
  simp only [ho, hb]
  rfl

/-- What both leave of the core: the operation ended and the registers resolved. -/
theorem State.resolve_ended (hx : SMap.find (s.core n).syms i = some x) (hr : (s.core n).run = some r) (tag : Option (BitVec 32))
    (v : Word) : ∃ syms, ((s.drop k).endOp n o tag).resolveSym n i v = (s.drop k).setCore n
      { (s.core n).ended o tag with run := some (r.resolved i v), syms := syms } := by
  have hcore : ((s.drop k).endOp n o tag).core n = (s.core n).ended o tag := by
    rw [State.endOp_eq, State.core_setCore, if_pos rfl, State.core_drop]
  obtain ⟨syms, h⟩ := State.resolveSym_eq (s := (s.drop k).endOp n o tag) (n := n) (r := r) (by rw [hcore]; exact hx)
    (by rw [hcore]; exact hr) v
  rw [h, hcore, State.endOp_eq, State.setCore_setCore]
  exact ⟨syms, rfl⟩

/-- The value of an atomic of 4 or 8 bytes: the low bytes of what it read. -/
theorem atomic_value {size : Nat} (h : size = 4 ∨ size = 8) (old : BitVec 128) :
    (if size = 4 then (old.setWidth 32).setWidth 64 else old.setWidth 64) = BitVec.ofNat 64 (old.toNat % 2 ^ (8 * size)) := by
  apply BitVec.eq_of_toNat_eq
  rcases h with rfl | rfl <;> simp

end Value

/-! ## Deferred effects performed (R76) -/

section Effect

variable {s : State} {n k i seq : Nat} {org : Origin} {x : Sym} {v : Word} {f : Effect} {ops : List RVal}

/-- A pool entry alone in its pool is the next to be handled, if it can be. -/
theorem Core.nextEntry_single {c : Core} {e : PoolEntry} (hp : c.pool = [(k, e)]) (hh : c.handleable e = true) :
    c.nextEntry = some (k, e) := by
  simp [Core.nextEntry, hp, hh]

theorem Core.symValue_resolving {c : Core} (hx : SMap.find c.syms i = some x) (hs : x.st = .resolving v) : c.symValue i = some v := by
  simp [Core.symValue, hx, hs]

theorem Core.mustWait_none {c : Core} {tid : Nat} (h : ∀ b ∈ c.barriers, b.org.tid ≠ tid) (seq : Nat) : c.mustWait tid seq = false := by
  simp only [Core.mustWait, List.any_eq_false, Bool.and_eq_true, beq_iff_eq, not_and]
  exact fun b hb e => absurd e (h b hb)

/-- An effect over one resolved symbol, behind no barrier, can be handled. -/
theorem Core.handleable_effect {c : Core} (hv : c.symValue i = some v) (hb : ∀ b ∈ c.barriers, b.org.tid ≠ org.tid)
    (ho : symbolsOf ops = [i]) : c.handleable ⟨seq, org, .effect f ops⟩ = true := by
  have hr : c.symReady i = true := by simp [Core.symReady, hv]
  simp [Core.handleable, PoolEntry.symbols, ho, hr, Core.mustWait_none hb]

theorem Core.valueOf_form {c : Core} (hv : c.symValue i = some v) (p q : Word) : (c.valueOf (.form i p q)).1 = p * v + q := by
  simp [Core.valueOf, RVal.symbol, hv, RVal.resolve]

theorem Core.valueOf_known (c : Core) (w : Word) : (c.valueOf (.known w)).1 = w := rfl

/-- The core once its only pool entry is gone. -/
def Core.emptied (c : Core) : Core := { c with pool := [] }

/-- The one pool entry of a core performed: the effect with the values of its operands, where no replay raises a flag. -/
theorem exec_deferredEffectPerform_single {ws : List Word} (hp : (s.core n).pool = [(k, ⟨seq, org, .effect f ops⟩)])
    (hh : (s.core n).handleable ⟨seq, org, .effect f ops⟩ = true) (hw : (ops.map fun v => ((s.core n).valueOf v).1) = ws)
    (hraised : ops.flatMap (s.core n).raisedBy = []) :
    exec (.deferredEffectPerform n) s = .next
      (((s.setCore n (s.core n).emptied).performEffect n ⟨seq, org, .effect f ops⟩ f ws).onCore n Core.freeSyms) := by
  have hgone : (s.onCore n fun c => { c with pool := SMap.del c.pool k }) = s.setCore n (s.core n).emptied := by
    simp [State.onCore_eq, hp, SMap.del, Core.emptied]
  rw [exec_deferredEffectPerform, execDeferredEffectPerform, Core.nextEntry_single hp hh]
  simp only [State.handleEntry, hgone, hw, hraised]
  rfl

/-- What nothing keeps back leaves the order stage at the place of its pool entry (R76). -/
theorem State.perform_launch (hb : ∀ b ∈ (s.core n).barriers, b.org.tid ≠ org.tid) (body : OpBody) :
    s.perform n ⟨seq, org, .effect f ops⟩ body false = (s.setCore n { s.core n with nextSeq := (s.core n).nextSeq + 1 }).launch n
      { id := (s.core n).nextSeq, seq := seq, org := org, deferred := true, far := false, body := body } := by
  have hm : ({ s.core n with nextSeq := (s.core n).nextSeq + 1 } : Core).mustWait org.tid seq = false := Core.mustWait_none hb seq
  simp only [State.perform, State.newSeq, State.onCore_eq, State.submit, State.core_setCore, if_true, hm, Bool.false_eq_true, if_false,
    Bool.not_false]

theorem State.inject_sameStores (s : State) (n region : Nat) (cls : PClass) (dst : Agent) (b : PBody) :
    s.SameStores (s.inject n region cls dst b) := by
  constructor <;> simp

/-- A signal with a good reference leaves for its agent (R52). -/
theorem State.performEffect_sig {w : Word} (hb : ∀ b ∈ (s.core n).barriers, b.org.tid ≠ org.tid) (hok : s.refOk w = true) (dec : Nat) :
    s.performEffect n ⟨seq, org, .effect f ops⟩ (.sig false dec) [w]
      = (s.setCore n { s.core n with nextSeq := (s.core n).nextSeq + 1 }).inject n org.region .sig (s.refAgent (Ref.of w))
        (.signal w dec .none false false) := by
  have hroute : s.routeOk (Ref.of w).module = true := (Bool.and_eq_true_iff.1 hok).2
  have hcheck : s.checkRef (wordAt [w] 0) = .ok () := if_pos hok
  simp only [State.performEffect, hcheck, State.perform_launch hb]
  exact if_pos hroute

/-- A store with a good address enters the source interface, where no watchpoint is set (R313, R355). -/
theorem State.performEffect_gst {sz : Size} {a w : Word} (hb : ∀ b ∈ (s.core n).barriers, b.org.tid ≠ org.tid) (hwp : (s.core n).wp = [])
    (hlt : a.toNat < 2 ^ 52) (ha : a.toNat % sz.bytes = 0) :
    s.performEffect n ⟨seq, org, .effect f ops⟩ (.gst sz false) [a, w]
      = s.setCore n { s.core n with
          nextSeq := (s.core n).nextSeq + 1
          src := (s.core n).src ++ [{ id := (s.core n).nextSeq, seq := seq, org := org, deferred := true, far := false,
                                      body := .gst a.toNat sz.bytes w none }] } := by
  have hbody : gstBody sz (wordAt [a, w] 0) (wordAt [a, w] 1) none = .ok (.gst a.toNat sz.bytes w none) := gstBody_ok hlt ha
  have hwatch (l : List (Nat × Nat)) : s.watchDeferred n org true l = s := by
    have : ∀ x : Nat × Nat, s.watchDetail n org.region x.1 x.2 true = none := fun x => by
      simp [State.watchDetail, hwp]
    simp [State.watchDeferred, State.watchAll, this]
  simp only [State.performEffect, Bool.false_eq_true, if_false, hbody, hwatch, State.perform_launch hb, State.launch, State.onCore_eq,
    State.core_setCore, if_true, State.setCore_setCore]

end Effect

/-! ## A failed late load (R86) -/

@[simp] theorem State.chargeRun_frames (s : State) (k : Nat) (c : Core) : (s.chargeRun k c).frames = c.frames := by
  unfold State.chargeRun
  split
  · rfl
  · dsimp only
    repeat' split
    all_goals rfl

section Save

variable {s : State} {n : Nat} {r : Run}

/-- A threadlet saved in the park area of its frame leaves its core, and the frame holds what says how it waits (R56, R303). -/
theorem State.saveRun_parked {f : Frame} (hf : (s.core n).frame r.fid = some f) (cause : Nat) (wait : Wait) :
    ((s.saveRun n r cause wait none).core n).run = none ∧ ∃ f' p, ((s.saveRun n r cause wait none).core n).frame r.fid = some f' ∧
      f'.parked = some p ∧ p.cause = cause ∧ p.wait = wait ∧ p.tid = r.tid := by
  have hsave := ((s.endRun n r).core n).saveForms_keeps r
  obtain ⟨hrun, hframes, -, -⟩ := hsave
  have hend : (s.endRun n r).core n = (s.chargeRun s.stepCycles (s.core n)).endRun r := by
    rw [State.endRun, State.core_onCore, if_pos rfl]
  have hframe : ((((s.endRun n r).core n).saveForms r).1).frame r.fid = some f := by
    rw [Core.frame, hframes, hend]
    exact (congrArg (SMap.find · r.fid) (State.chargeRun_frames ..)).trans hf
  unfold State.saveRun
  dsimp only
  generalize ((s.endRun n r).core n).saveForms r = p at hrun hframe ⊢
  generalize parkWords r cause (s.blockField r.region r.block) p.2 r.vuse = ws
  simp only [State.core_setCore, if_true, Core.run_onFrame, Core.frame_onFrame, Core.putWord_run, Core.putWord_frame]
  have hwords := Core.putWords_keeps ws (p.1.disarm (((p.1.frame r.fid).map (·.base)).getD 0 + 8 * r.parkw) (8 * ws.length))
    (((p.1.frame r.fid).map (·.base)).getD 0 + 8 * r.parkw)
  obtain ⟨hwrun, hwframe, -⟩ := hwords
  obtain ⟨armed, harmed⟩ := Core.frame_disarm p.1 (((p.1.frame r.fid).map (·.base)).getD 0 + 8 * r.parkw) (8 * ws.length) r.fid
  refine ⟨hwrun.trans (hrun.trans (by rw [hend]; rfl)), _, _, by rw [hwframe, harmed, hframe]; rfl, rfl, rfl, rfl, rfl⟩

theorem State.regions_saveRun (s : State) (n : Nat) (r : Run) (cause : Nat) (wait : Wait) (hold : Option Nat) :
    (s.saveRun n r cause wait hold).regions = s.regions := rfl

/-- A threadlet with a park area that takes a fault is Held in its frame, and its fault domain gets the record (R299, R303). -/
theorem State.takeFault_held {f : Frame} {o : Origin} {src code addr : Nat} {detail : Word} (hp : r.parkw ≠ 0)
    (hf : (s.core n).frame r.fid = some f) (hd : s.domainOf r.region = some 1) (hsrc : src < 16) :
    let t := s.takeFault n r o src code addr detail
    (t.core n).run = none ∧ t.Reports code src (.core n) ∧ ∃ f' p, (t.core n).frame r.fid = some f' ∧ f'.parked = some p ∧ p.cause = 6 ∧
      p.wait = .faultDomain ∧ p.tid = r.tid := by
  have ht : s.takeFault n r o src code addr detail = ((s.saveRun n r 6 .faultDomain none).trace n r.region r.fid 3).sendRecord r.region
      { Rec.of code src (.core n) o addr detail with token := heldToken n r.fid } := by
    simp [State.takeFault, hp]
  have hcore : (s.takeFault n r o src code addr detail).core n = (s.saveRun n r 6 .faultDomain none).core n := by rw [ht]; simp
  obtain ⟨hrun, hpark⟩ := State.saveRun_parked hf 6 .faultDomain
  refine ⟨by rw [hcore]; exact hrun, ?_, by rw [hcore]; exact hpark⟩
  rw [ht]
  exact State.sendRecord_reports ((State.domainOf_trace ..).trans ((State.domainOf_of (State.regions_saveRun ..) _).trans hd)) rfl rfl
    rfl hsrc

end Save

/-- A threadlet whose registers over a failed symbol read zero. -/
def Run.lost (r : Run) (sym : Nat) : Run :=
  { r with x := r.x.map fun e => if e.2.symbol = some sym then (e.1, .known 0) else e }

/-- The Running owner of a failed late load takes the fault that its record names (R86). -/
theorem exec_lateLoadFail_running {s : State} {n i code addr : Nat} {x : Sym} {r : Run} (hx : SMap.find (s.core n).syms i = some x)
    (hst : x.st = .failed code addr) (hc : code ≠ 0) (hr : (s.core n).run = some r) (ht : r.tid = x.tid) (hp : r.parkw ≠ 0) :
    exec (.lateLoadFail n i) s = .next ((s.onCore n fun c => Core.freeSyms (c.dropSym i)).takeFault n (r.lost i) x.org
      (if code = 9 then 8 else if code = 0x14 then 5 else 0) code addr 0) := by
  have hrun : ((s.onCore n fun c => Core.freeSyms (c.dropSym i)).core n).run = some (r.lost i) := by
    rw [State.core_onCore, if_pos rfl]
    exact (congrArg (Option.map _) hr).trans rfl
  have hstand : ((s.onCore n fun c => Core.freeSyms (c.dropSym i)).core n).standing x.tid x.fid = .running := by
    rw [Core.standing, hrun]
    exact if_pos (beq_iff_eq.2 ht)
  rw [exec_lateLoadFail, execLateLoadFail, hx]
  simp only [hst, hc, if_false, hstand, hrun]
  rw [if_pos (by exact hp)]

/-! ## Acknowledgements and landings (R217, R218, R245, R354) -/

/-- Bytes put into local memory read back, and the others as before. -/
theorem Core.put_reads {c : Core} (h : Memory.wf c.lmem = true) (a : Nat) (bs : List Byte) (bad : List Nat) :
    Cells.read (c.put a bs bad).lmem a bs.length = bs ∧
      ∀ b, b < a ∨ a + bs.length ≤ b → Cells.get (c.put a bs bad).lmem b = Cells.get c.lmem b :=
  ⟨Cells.read_write a bs h, fun b hb => Cells.get_write_outside a b bs h hb⟩

section Landing

variable {s : State} {k n id rgn : Nat} {src : Agent} {o : Op}

/-- The acknowledgement of a store ends it with its tag, which has landed before (R194, R218). -/
theorem exec_writeAckArrival_store {va size : Nat} {data : Word} {tag : BitVec 32} {at_ : Option Nat}
    (hp : s.packet k = some ⟨.rsp, src, .core n, rgn, .ack id (some tag) 0⟩) (ho : (s.core n).outstanding id = some o)
    (hb : o.body = .gst va size data at_) (hl : ∀ a, at_ = some a → s.localOk n o.org.fid a 4 true = true) :
    exec (.writeAckArrival k) s = .next ((s.drop k).setCore n
      (((match at_ with | some a => (s.core n).put a (bytesOf 4 tag.toNat) [] | none => s.core n) : Core).ended o (some tag))) := by
  rw [exec_writeAckArrival, execWriteAckArrival, hp]
  simp only [ho, State.landTag, hb]
  cases at_ with
  | none => rfl
  | some a =>
    have hok : (s.drop k).localOk n o.org.fid a 4 true = true := hl a rfl
    simp only [hok, if_true, State.endOp_eq, State.onCore_eq, State.setCore_setCore, State.core_setCore]
    rfl

/-- An acceptance of one pair counts it in its update. -/
theorem exec_updateAcceptanceArrival_one {u : Nat} (hp : s.packet k = some ⟨.rsp, src, .core n, rgn, .accepted [u]⟩) :
    exec (.updateAcceptanceArrival k) s = .next ((s.drop k).setCore n ((s.core n).pairDone u)) := by
  rw [exec_updateAcceptanceArrival, execUpdateAcceptanceArrival, hp]
  rfl

theorem Core.upds_pairDone {c : Core} {u : Nat} {x : UpdInst} (hs : SMap.Rising c.upds) (hx : SMap.find c.upds u = some x) :
    SMap.find (c.pairDone u).upds u = (if x.left ≤ 1 then none else some { x with left := x.left - 1 }) ∧
      (c.pairDone u).lmem = c.lmem := by
  rw [Core.pairDone, hx]
  refine ⟨?_, rfl⟩
  dsimp only
  split
  · exact (SMap.find_del hs u u).trans (if_pos rfl)
  · exact (SMap.find_set ..).trans (if_pos rfl)

/-- GLD's data lands in local memory, and then its completion is sent (R354). -/
theorem exec_gldLanding_lands {va loc : Nat} {lu byt : Bool} {evp : Evp} {y : Word} {data : List Byte}
    (hp : s.packet k = some ⟨.rsp, src, .core n, rgn, .readRsp id data [] 0⟩) (ho : (s.core n).outstanding id = some o)
    (hb : o.body = .gld va loc data.length lu evp y byt) (hl : s.localOk n o.org.fid loc data.length true = true) :
    exec (.gldLanding k) s = .next
      (((s.drop k).setCore n (((s.core n).ended o none).put loc data [])).gldDone n o data.length y byt false) := by
  have hend : (s.drop k).endOp n o none = (s.drop k).setCore n ((s.core n).ended o none) := rfl
  have hframe : (((s.drop k).setCore n ((s.core n).ended o none)).core n).frame o.org.fid = (s.core n).frame o.org.fid := by
    rw [State.core_setCore, if_pos rfl]
    rfl
  have hok : ((s.drop k).setCore n ((s.core n).ended o none)).localOk n o.org.fid loc data.length true = true := by
    refine Eq.trans ?_ hl
    simp only [State.localOk, hframe]
    rfl
  rw [exec_gldLanding, execGldLanding, hp]
  simp only [ho, hb, hend, hok, State.onCore_eq, State.setCore_setCore, State.core_setCore, if_true]
  rfl

/-- A completion with a valid route is one packet more; no memory and no core changes (Table 1-2). -/
theorem State.gldDone_sends (o : Op) (size : Nat) {y : Word} (byt err : Bool)
    (hy : y ≠ 0 → s.routeOk (Ref.of y).module = true ∧ s.Reaches (s.refAgent (Ref.of y))) :
    s.SameStores (s.gldDone n o size y byt err) ∧ (y = 0 → (s.gldDone n o size y byt err).net = s.net) ∧
      (y ≠ 0 → (s.gldDone n o size y byt err).net = s.net ++ [⟨if s.refAgent (Ref.of y) = .core n then .rsp else .sig, .core n,
        s.refAgent (Ref.of y), o.org.region, .signal y (if byt then size else 1) .none false err⟩]) := by
  unfold State.gldDone
  by_cases h0 : y = 0
  · rw [if_pos h0]
    exact ⟨.refl s, fun _ => rfl, fun h => absurd h0 h⟩
  · obtain ⟨hroute, hreach⟩ := hy h0
    rw [if_neg h0, State.sendCompletion, if_pos hroute]
    exact ⟨State.inject_sameStores .., fun h => absurd h h0, fun _ => State.net_inject hreach⟩

end Landing

/-! ## Barriers (R205, R221, R358, R396) -/

section Barriers

variable {s : State} {n i : Nat} {b : Barrier}

/-- The core without a barrier. -/
def Core.unbarred (c : Core) (i : Nat) : Core := { c with barriers := c.barriers.eraseIdx i }

/-- With nothing in the order stage, nothing goes on. -/
theorem State.drainStage_empty (h : (s.core n).stage = []) : s.drainStage n = s.setCore n (s.core n) := by
  have hc : ({ s.core n with stage := [] } : Core) = s.core n := by rw [← h]
  simp only [State.drainStage, h, List.filter_nil, List.foldl_nil, hc]

theorem exec_barrierConditionMet_waits (hi : (s.core n).barriers[i]? = some b)
    (h : (s.core n).barrierMet b = false ∨ s.walksDone b = false) : exec (.barrierConditionMet n i) s = .next s := by
  rw [exec_barrierConditionMet, execBarrierConditionMet, hi]
  rcases h with h | h <;> simp [h]

/-- A barrier that is met passes, and with nothing in the order stage that is all (R221). -/
theorem exec_barrierConditionMet_passes (hi : (s.core n).barriers[i]? = some b) (hm : (s.core n).barrierMet b = true)
    (hw : s.walksDone b = true) : exec (.barrierConditionMet n i) s
      = .next (((s.setCore n ((s.core n).unbarred i)).passBarrier n b).drainStage n) := by
  rw [exec_barrierConditionMet, execBarrierConditionMet, hi]
  simp only [hm, hw, Bool.and_self, if_true]
  rfl

/-- A barrier that is no TLBINV waits for no walk. -/
theorem State.walksDone_of (h : ∀ asid va size, b.kind.coversWalk asid va size = false) : s.walksDone b = true := by
  simp [State.walksDone, h]

theorem State.walksDone_tlbinvAll (h : b.kind = .tlbinvAll) : s.walksDone b = true ↔ ∀ z ∈ s.zeroing, z.walks = [] := by
  simp [State.walksDone, h, BarrierKind.coversWalk, List.eq_nil_iff_forall_not_mem]

theorem SMap.get_map {α : Type} (m : SMap α) (f : α → α) (k : Nat) (d : α) :
    SMap.get (m.map fun e => (e.1, f e.2)) k (f d) = f (SMap.get m k d) := by
  simp only [SMap.get]
  induction m with
  | nil => rfl
  | cons e m ih =>
    simp only [List.map_cons, SMap.find]
    split
    · rfl
    · split
      · rfl
      · exact ih

/-- A fence passes and leaves nothing. -/
theorem barrier_fence {w u e : Bool} {sc : Scope} (hi : (s.core n).barriers[i]? = some b) (hm : (s.core n).barrierMet b = true)
    (hs : (s.core n).stage = []) (hk : b.kind = .fence w u e sc) :
    exec (.barrierConditionMet n i) s = .next (s.setCore n ((s.core n).unbarred i)) := by
  have hstage : ((s.setCore n ((s.core n).unbarred i)).core n).stage = [] := by rw [State.core_setCore, if_pos rfl]; exact hs
  rw [exec_barrierConditionMet_passes hi hm (State.walksDone_of fun _ _ _ => by rw [hk]; rfl)]
  simp only [State.passBarrier, hk, State.drainStage_empty hstage, State.setCore_setCore, State.core_setCore, if_true]

/-- IFLUSH.ALL empties every instruction cache (R358). -/
theorem barrier_iflushAll (hi : (s.core n).barriers[i]? = some b) (hm : (s.core n).barrierMet b = true) (hs : (s.core n).stage = [])
    (hk : b.kind = .iflushAll) : ∃ t, exec (.barrierConditionMet n i) s = .next t ∧
      (t.core n).barriers = (s.core n).barriers.eraseIdx i ∧ ∀ m, (t.chip m).icache = [] := by
  have hcore : ((s.setCore n ((s.core n).unbarred i)).dropCode fun _ => true).core n = (s.core n).unbarred i :=
    (State.core_setCore ..).trans (if_pos rfl)
  refine ⟨_, exec_barrierConditionMet_passes hi hm (State.walksDone_of fun _ _ _ => by rw [hk]; rfl), ?_⟩
  simp only [State.passBarrier, hk]
  rw [State.drainStage_empty (by rw [hcore]; exact hs), hcore]
  refine ⟨by rw [State.core_setCore, if_pos rfl]; rfl, fun m => ?_⟩
  have hempty := SMap.get_map s.chips (fun c => { c with icache := c.icache.filter fun _ => false }) m Chip.init
  exact (congrArg Chip.icache hempty).trans (List.filter_false _)

/-- TLBINV.ALL empties every translation cache (R396). -/
theorem barrier_tlbinvAll (hi : (s.core n).barriers[i]? = some b) (hm : (s.core n).barrierMet b = true) (hs : (s.core n).stage = [])
    (hk : b.kind = .tlbinvAll) (hz : ∀ z ∈ s.zeroing, z.walks = []) : ∃ t, exec (.barrierConditionMet n i) s = .next t ∧
      (t.core n).barriers = (s.core n).barriers.eraseIdx i ∧ (∀ m, (t.core m).tlb = []) ∧ ∀ m, (t.chip m).tlb = [] := by
  let u := (s.setCore n ((s.core n).unbarred i)).dropTlb fun _ => true
  have hcore (m : Nat) : u.core m = { (s.setCore n ((s.core n).unbarred i)).core m with
      tlb := ((s.setCore n ((s.core n).unbarred i)).core m).tlb.filter fun _ => false } :=
    SMap.get_map (s.setCore n ((s.core n).unbarred i)).cores (fun c => { c with tlb := c.tlb.filter fun _ => false }) m Core.init
  have htlb (m : Nat) : (u.core m).tlb = [] := by rw [hcore]; exact List.filter_false _
  have hn : (u.core n).stage = [] ∧ (u.core n).barriers = (s.core n).barriers.eraseIdx i := by
    rw [hcore, State.core_setCore, if_pos rfl]
    exact ⟨hs, rfl⟩
  refine ⟨_, exec_barrierConditionMet_passes hi hm ((State.walksDone_tlbinvAll hk).2 hz), ?_⟩
  simp only [State.passBarrier, hk]
  change (State.core (u.drainStage n) n).barriers = _ ∧ (∀ m, (State.core (u.drainStage n) m).tlb = []) ∧
    ∀ m, (State.chip (u.drainStage n) m).tlb = []
  rw [State.drainStage_empty hn.1]
  refine ⟨by rw [State.core_setCore, if_pos rfl]; exact hn.2, fun m => ?_, fun m => ?_⟩
  · rw [State.core_setCore]
    split <;> exact htlb _
  · have hempty := SMap.get_map s.chips (fun c => { c with tlb := c.tlb.filter fun _ => false }) m Chip.init
    exact (congrArg Chip.tlb hempty).trans (List.filter_false _)

/-- A release is injected (R223). -/
theorem barrier_release {o : Op} {ref : Word} {dec : Nat} {d : SigData} {rel err : Bool} (hi : (s.core n).barriers[i]? = some b)
    (hm : (s.core n).barrierMet b = true) (hs : (s.core n).stage = []) (hk : b.kind = .release o)
    (ho : o.body = .signal ref dec d rel err) (hroute : s.routeOk (Ref.of ref).module = true)
    (hreach : s.Reaches (s.refAgent (Ref.of ref))) : ∃ t, exec (.barrierConditionMet n i) s = .next t ∧
      (t.core n).barriers = (s.core n).barriers.eraseIdx i ∧
      t.net = s.net ++ [⟨.sig, .core n, s.refAgent (Ref.of ref), o.org.region, .signal ref dec d rel err⟩] := by
  have hlaunch : (s.setCore n ((s.core n).unbarred i)).launch n o = (s.setCore n ((s.core n).unbarred i)).inject n o.org.region .sig
      (s.refAgent (Ref.of ref)) (.signal ref dec d rel err) := by
    simp only [State.launch, ho]
    exact if_pos hroute
  have hcore : ((s.setCore n ((s.core n).unbarred i)).launch n o).core n = (s.core n).unbarred i := by
    rw [hlaunch, State.core_inject, State.core_setCore, if_pos rfl]
  refine ⟨_, exec_barrierConditionMet_passes hi hm (State.walksDone_of fun _ _ _ => by rw [hk]; rfl), ?_⟩
  simp only [State.passBarrier, hk]
  rw [State.drainStage_empty (by rw [hcore]; exact hs), hcore]
  refine ⟨by rw [State.core_setCore, if_pos rfl]; rfl, ?_⟩
  rw [State.net_setCore, hlaunch]
  exact State.net_inject (s := s.setCore n _) hreach

end Barriers

/-! ## The combiner (R244) -/

section Combiner

variable {s : State} {n m : Nat} {p : UPair} {buf : List UPair}

theorem exec_combinerTimeout_waits (hf : SMap.find (s.core n).comb m = some (p :: buf))
    (h : s.cycle < SMap.get (s.core n).combAt m 0 + 16) : exec (.combinerTimeout n m) s = .next s := by
  rw [exec_combinerTimeout, execCombinerTimeout, hf]
  simp [State.combinerIdle, h]

/-- A packet counted as progress of many regions changes none but them. -/
theorem State.net_progresses (l : List Nat) (s : State) : (l.foldl State.progress s).net = s.net :=
  foldl_keeps (fun t : State => t.net = s.net) _ (fun t r h => (State.net_progress t r).trans h) l s rfl

theorem State.progresses_sameStores (l : List Nat) (s : State) : s.SameStores (l.foldl State.progress s) :=
  .foldl _ (fun s r => by constructor <;> simp) l s

/-- An idle buffer leaves as one packet. -/
theorem combiner_sends (hf : SMap.find (s.core n).comb m = some (p :: buf)) (hr : SMap.Rising (s.core n).comb)
    (h : SMap.get (s.core n).combAt m 0 + 16 ≤ s.cycle) : ∃ t, exec (.combinerTimeout n m) s = .next t ∧
      SMap.find (t.core n).comb m = none ∧ t.net = s.net ++ [⟨.upd, .core n, .eddy m, p.region, .updates (p :: buf)⟩] ∧
      s.SameBytes t := by
  have hidle : s.combinerIdle n m = true := by simp [State.combinerIdle, h]
  rw [exec_combinerTimeout, execCombinerTimeout, hf]
  simp only [hidle, Bool.not_true, Bool.false_eq_true, if_false]
  refine ⟨_, rfl, ?_, ?_, ?_⟩
  · rw [(State.progresses_sameStores ..).core, State.core_send, State.core_onCore, if_pos rfl]
    exact (SMap.find_del hr m m).trans (if_pos rfl)
  · rw [State.net_progresses, State.net_send (State.reaches_of_local (a := .eddy m) nofun)]
    rfl
  · exact .trans (State.sameBytes_setCore s (by rfl)) ((State.send_sameStores ..).trans (State.progresses_sameStores ..)).sameBytes

end Combiner

/-! ## What each arrival leaves -/

/-- The bytes of every memory stand as they did, whatever packet the network has lost. -/
theorem State.sameBytes_drop {s t : State} {k : Nat} (h : (s.drop k).SameBytes t) : s.SameBytes t := h

/-- A late load's value reaches the registers over its symbol (R75). -/
theorem load_resolves {s : State} {k n id va size rgn i : Nat} {src : Agent} {u : Bool} {o : Op} {data : List Byte} {x : Sym} {r : Run}
    (hp : s.packet k = some ⟨.rsp, src, .core n, rgn, .readRsp id data [] 0⟩) (ho : (s.core n).outstanding id = some o)
    (hb : o.body = .ldl va size u (some i)) (hx : SMap.find (s.core n).syms i = some x) (hr : (s.core n).run = some r)
    (hrise : SMap.Rising r.x) :
    let v : Word := extend u size (natOf data)
    ∃ t r', exec (.symbolValueArrival k) s = .next t ∧ (t.core n).run = some r' ∧ s.SameBytes t ∧
      (t.core n).outst = (s.core n).outst.filter (·.id != o.id) ∧
      (∀ j p q, 1 ≤ j → r.reg j = .form i p q → r'.reg j = .known (p * v + q)) ∧
      ∀ j, (r.reg j).symbol ≠ some i → r'.reg j = r.reg j := by
  intro v
  obtain ⟨syms, h⟩ := State.resolve_ended (k := k) (o := o) hx hr none v
  refine ⟨_, r.resolved i v, (exec_symbolValueArrival_load hp ho hb).trans (congrArg _ h), ?_,
    State.sameBytes_drop (State.sameBytes_setCore _ (by rfl)), ?_, fun j p q hj hf => Run.resolved_form hrise v hj hf,
    fun j hs => Run.resolved_other hrise v hs⟩
  · rw [State.core_setCore, if_pos rfl]
  · rw [State.core_setCore, if_pos rfl]
    exact Core.outst_ended_quiet (by rw [hb]; rfl) (s.core n) none

/-- So does an atomic's, with its tag (R218, R331). -/
theorem atomic_resolves {s : State} {k n id va size rgn i : Nat} {src : Agent} {o : Op} {kd : AtomKind} {a c old : BitVec 128}
    {tag : BitVec 32} {x : Sym} {r : Run} (hp : s.packet k = some ⟨.rsp, src, .core n, rgn, .atomRsp id old false tag⟩)
    (ho : (s.core n).outstanding id = some o) (hb : o.body = .atom kd va size a c (some i) none) (hsize : size = 4 ∨ size = 8)
    (hx : SMap.find (s.core n).syms i = some x) (hr : (s.core n).run = some r) (hrise : SMap.Rising r.x) :
    ∃ t r', exec (.symbolValueArrival k) s = .next t ∧ (t.core n).run = some r' ∧
      SMap.find (t.core n).taglast o.org.tid = some tag ∧
      ∀ j p q, 1 ≤ j → r.reg j = .form i p q → r'.reg j = .known (p * BitVec.ofNat 64 (old.toNat % 2 ^ (8 * size)) + q) := by
  obtain ⟨syms, h⟩ := State.resolve_ended (k := k) (o := o) hx hr (some tag) (BitVec.ofNat 64 (old.toNat % 2 ^ (8 * size)))
  have hstep := exec_symbolValueArrival_atomic hp ho hb
  rw [atomic_value hsize, h] at hstep
  refine ⟨_, r.resolved i _, hstep, ?_, ?_, fun j p q hj hf => Run.resolved_form hrise _ hj hf⟩
  · rw [State.core_setCore, if_pos rfl]
  · rw [State.core_setCore, if_pos rfl]
    exact (SMap.find_set ..).trans (if_pos rfl)

section Performed

variable {s : State} {n k i seq : Nat} {org : Origin} {p q v : Word} {x : Sym} (hx : SMap.find (s.core n).syms i = some x)
  (hs : x.st = .resolving v) (hb : ∀ b ∈ (s.core n).barriers, b.org.tid ≠ org.tid)
include hx hs hb

/-- A deferred signal is sent once its reference is known (R76). -/
theorem deferredSignal_sent {dec : Nat} (hp : (s.core n).pool = [(k, ⟨seq, org, .effect (.sig false dec) [.form i p q]⟩)])
    (hok : s.refOk (p * v + q) = true) (hreach : s.Reaches (s.refAgent (Ref.of (p * v + q)))) :
    ∃ t, exec (.deferredEffectPerform n) s = .next t ∧
      t.net = s.net ++ [⟨.sig, .core n, s.refAgent (Ref.of (p * v + q)), org.region, .signal (p * v + q) dec .none false false⟩] ∧
      (t.core n).pool = [] ∧ s.SameBytes t := by
  have hval := Core.symValue_resolving hx hs
  have hstep := exec_deferredEffectPerform_single hp (Core.handleable_effect hval hb rfl) (ws := [p * v + q])
    (by simp [Core.valueOf_form hval]) rfl
  rw [State.performEffect_sig (s := s.setCore n (s.core n).emptied) (by rw [State.core_setCore, if_pos rfl]; exact hb) hok,
    State.setCore_setCore, State.core_setCore, if_pos rfl] at hstep
  refine ⟨_, hstep, (State.net_inject (s := s.setCore n _) hreach).trans rfl, ?_, ?_⟩
  · simp only [State.core_onCore, State.core_inject, State.core_setCore, if_true]
    rfl
  · exact ((State.sameBytes_setCore s (by rfl)).trans (State.inject_sameStores ..).sameBytes).trans
      (State.sameBytes_setCore _ (by rfl))

/-- A deferred store enters the source interface once its address is known (R76). -/
theorem deferredStore_enters {sz : Size} {w : Word}
    (hp : (s.core n).pool = [(k, ⟨seq, org, .effect (.gst sz false) [.form i p q, .known w]⟩)]) (hwp : (s.core n).wp = [])
    (hlt : (p * v + q).toNat < 2 ^ 52) (ha : (p * v + q).toNat % sz.bytes = 0) :
    ∃ t, exec (.deferredEffectPerform n) s = .next t ∧
      (t.core n).src = (s.core n).src ++ [
        { id := (s.core n).nextSeq, seq := seq, org := org, deferred := true, far := false,
          body := .gst (p * v + q).toNat sz.bytes w none }] ∧ (t.core n).pool = [] ∧ s.SameBytes t := by
  have hval := Core.symValue_resolving hx hs
  have hstep := exec_deferredEffectPerform_single hp (Core.handleable_effect hval hb rfl) (ws := [p * v + q, w])
    (by simp [Core.valueOf_form hval, Core.valueOf_known]) rfl
  rw [State.performEffect_gst (s := s.setCore n (s.core n).emptied) (by rw [State.core_setCore, if_pos rfl]; exact hb)
    (by rw [State.core_setCore, if_pos rfl]; exact hwp) hlt ha, State.setCore_setCore, State.core_setCore, if_pos rfl,
    State.onCore_eq, State.setCore_setCore, State.core_setCore, if_pos rfl] at hstep
  refine ⟨_, hstep, ?_, ?_, State.sameBytes_setCore s (by rfl)⟩ <;>
  · rw [State.core_setCore, if_pos rfl]
    rfl

end Performed

/-- A failed late load makes its owner Held, with its record (R86, R303). -/
theorem lateLoadFail_holds {s : State} {n i code addr : Nat} {x : Sym} {r : Run} {f : Frame}
    (hx : SMap.find (s.core n).syms i = some x) (hst : x.st = .failed code addr) (hc : 0 < code)
    (hr : (s.core n).run = some r) (ht : r.tid = x.tid) (hp : r.parkw ≠ 0) (hf : (s.core n).frame r.fid = some f)
    (hd : s.domainOf r.region = some 1) :
    ∃ t f' p, exec (.lateLoadFail n i) s = .next t ∧ (t.core n).run = none ∧ (t.core n).frame r.fid = some f' ∧
      f'.parked = some p ∧ p.cause = 6 ∧ p.wait = .faultDomain ∧ p.tid = r.tid ∧
      t.Reports code (if code = 9 then 8 else if code = 0x14 then 5 else 0) (.core n) := by
  have hheld := State.takeFault_held (s := s.onCore n fun c => Core.freeSyms (c.dropSym i)) (n := n) (r := r.lost i) (f := f)
    (o := x.org) (src := if code = 9 then 8 else if code = 0x14 then 5 else 0) (code := code) (addr := addr) (detail := 0) hp
    (by rw [State.core_onCore, if_pos rfl]; exact hf) hd (by split <;> [omega; split <;> omega])
  obtain ⟨hrun, hrep, f', p, hframe, hparked, hcause, hwait, htid⟩ := hheld
  exact ⟨_, f', p, exec_lateLoadFail_running hx hst (Nat.ne_of_gt hc) hr ht hp, hrun, hframe, hparked, hcause, hwait, htid, hrep⟩

/-- The acknowledgement of a store: the operation is gone, and its tag stands in TAGLAST and where the store asked for it
(R217, R218). -/
theorem writeAck_ends {s : State} {k n id va size rgn : Nat} {src : Agent} {o : Op} {data : Word} {tag : BitVec 32} {at_ : Option Nat}
    (hp : s.packet k = some ⟨.rsp, src, .core n, rgn, .ack id (some tag) 0⟩) (ho : (s.core n).outstanding id = some o)
    (hb : o.body = .gst va size data at_) (hm : Memory.wf (s.core n).lmem = true)
    (hl : ∀ a, at_ = some a → s.localOk n o.org.fid a 4 true = true) :
    ∃ t, exec (.writeAckArrival k) s = .next t ∧
      (t.core n).outst = ((s.core n).outst.filter (·.id != o.id)).map (·.shadedBy o) ∧
      SMap.find (t.core n).taglast o.org.tid = some tag ∧ (at_ = none → s.SameBytes t) ∧
      ∀ a, at_ = some a → Cells.read (t.core n).lmem a 4 = bytesOf 4 tag.toNat ∧
        ∀ b, b < a ∨ a + 4 ≤ b → Cells.get (t.core n).lmem b = Cells.get (s.core n).lmem b := by
  refine ⟨_, exec_writeAckArrival_store hp ho hb hl, ?_, ?_, ?_, ?_⟩
  · rw [State.core_setCore, if_pos rfl]
    cases at_ <;> rfl
  · rw [State.core_setCore, if_pos rfl]
    cases at_ <;> exact (SMap.find_set ..).trans (if_pos rfl)
  · rintro rfl
    exact State.sameBytes_drop (State.sameBytes_setCore _ (by rfl))
  · rintro a rfl
    rw [State.core_setCore, if_pos rfl]
    have hput := Core.put_reads hm a (bytesOf 4 tag.toNat) []
    rw [bytesOf_length] at hput
    exact hput

/-- An acceptance counts the pair of its update (R245). -/
theorem acceptance_counts {s : State} {k n u rgn : Nat} {src : Agent} {x : UpdInst} (hs : SMap.Rising (s.core n).upds)
    (hp : s.packet k = some ⟨.rsp, src, .core n, rgn, .accepted [u]⟩) (hx : SMap.find (s.core n).upds u = some x) :
    ∃ t, exec (.updateAcceptanceArrival k) s = .next t ∧ s.SameBytes t ∧
      SMap.find (t.core n).upds u = if x.left ≤ 1 then none else some { x with left := x.left - 1 } := by
  obtain ⟨hupds, hmem⟩ := Core.upds_pairDone hs hx
  refine ⟨_, exec_updateAcceptanceArrival_one hp, State.sameBytes_drop (State.sameBytes_setCore _ hmem), ?_⟩
  rw [State.core_setCore, if_pos rfl]
  exact hupds

/-- GLD's data lands, the operation is gone, and its completion is sent (R354, Table 1-2). -/
theorem gld_lands {s : State} {k n id va loc rgn : Nat} {src : Agent} {o : Op} {lu byt : Bool} {evp : Evp} {y : Word} {data : List Byte}
    (hp : s.packet k = some ⟨.rsp, src, .core n, rgn, .readRsp id data [] 0⟩) (ho : (s.core n).outstanding id = some o)
    (hb : o.body = .gld va loc data.length lu evp y byt) (hl : s.localOk n o.org.fid loc data.length true = true)
    (hm : Memory.wf (s.core n).lmem = true)
    (hy : y ≠ 0 → s.routeOk (Ref.of y).module = true ∧ s.Reaches (s.refAgent (Ref.of y))) :
    ∃ t, exec (.gldLanding k) s = .next t ∧ Cells.read (t.core n).lmem loc data.length = data ∧
      (∀ b, b < loc ∨ loc + data.length ≤ b → Cells.get (t.core n).lmem b = Cells.get (s.core n).lmem b) ∧
      t.mem = s.mem ∧ (t.core n).outst = (s.core n).outst.filter (·.id != o.id) ∧
      (y = 0 → t.net = s.net.eraseIdx k) ∧
      (y ≠ 0 → t.net = s.net.eraseIdx k ++ [⟨if s.refAgent (Ref.of y) = .core n then .rsp else .sig, .core n,
        s.refAgent (Ref.of y), o.org.region, .signal y (if byt then data.length else 1) .none false false⟩]) := by
  obtain ⟨hstores, hnone, hsent⟩ := State.gldDone_sends
    (s := (s.drop k).setCore n (((s.core n).ended o none).put loc data [])) (n := n) o data.length byt false hy
  obtain ⟨hread, hkeep⟩ := Core.put_reads (c := (s.core n).ended o none) hm loc data []
  refine ⟨_, exec_gldLanding_lands hp ho hb hl, ?_⟩
  rw [hstores.core, hstores.mem, State.core_setCore, if_pos rfl]
  exact ⟨hread, hkeep, rfl, Core.outst_ended_quiet (by rw [hb]; rfl) (s.core n) none, hnone, hsent⟩

/-- A barrier of TLBINV.ALL waits while a walk waits for its page to be zeroed (R205, R396). -/
theorem barrier_tlbinvAll_waits {s : State} {n i : Nat} {b : Barrier} {z : Zeroing} (hi : (s.core n).barriers[i]? = some b)
    (hz : z ∈ s.zeroing) (hw : z.walks ≠ []) (hk : b.kind = .tlbinvAll) : exec (.barrierConditionMet n i) s = .next s :=
  exec_barrierConditionMet_waits hi (.inr (eq_false_of_ne_true fun h => hw ((State.walksDone_tlbinvAll hk).1 h z hz)))

/-- Settles O53, a clause for each arrival, by the lemma that says what that arrival leaves. -/
theorem returnEvents : Obligations.ReturnEvents := by
  unfold Obligations.ReturnEvents
  refine ⟨?_, ?_, ?_, ?_, ?_, ?_, ?_, ?_, ?_⟩
  · exact fun s k n id va size rgn i src u o data x r hp ho hb hx hr hrise =>
      load_resolves hp ho hb hx hr hrise
  · exact fun s k n id va size rgn i src o kd a c old tag x r hp ho hb hsize hx hr hrise =>
      atomic_resolves hp ho hb hsize hx hr hrise
  · exact fun s n k i seq dec org p q v w x sz hx hs _ hb =>
      ⟨deferredSignal_sent hx hs hb, deferredStore_enters hx hs hb⟩
  · exact fun s n i code addr x r f _ hx hst hc _ hr ht hp hf hd =>
      lateLoadFail_holds hx hst hc hr ht hp hf hd
  · exact fun s k n id va size rgn src o data tag at_ hp ho hb hm hl =>
      writeAck_ends hp ho hb hm hl
  · exact fun s k n u rgn src x hs hp hx =>
      acceptance_counts hs hp hx
  · exact fun s k n id va loc rgn src o lu byt evp y data hp ho hb hl hm hy =>
      gld_lands hp ho hb hl hm hy
  · intro s n i b hi
    refine ⟨fun h => exec_barrierConditionMet_waits hi (.inl h), fun hm hs => ⟨?_, ?_, ?_, ?_, ?_⟩⟩
    · exact fun w u e sc hk => barrier_fence hi hm hs hk
    · exact fun hk => barrier_iflushAll hi hm hs hk
    · exact fun z hz hw hk => barrier_tlbinvAll_waits hi hz hw hk
    · exact fun hk hz => barrier_tlbinvAll hi hm hs hk hz
    · exact fun o ref dec d rel err hk ho hroute hreach => barrier_release hi hm hs hk ho hroute hreach
  · exact fun s n m p buf hf hr =>
      ⟨combiner_sends hf hr, exec_combinerTimeout_waits hf⟩

end Sys2Proof.Machine
end

section
/-! SUPPORT. What each wrapper of a meaning answers under a false guard, and when it stops. -/

namespace Sys2Proof.Machine

open Sys2Proof

/-! ## A false guard (R95, R96) -/

section FalseGuard

variable {g : Guard} {s : State} {r : Run} (h : (s.core s.cur).run = some r) (hg : r.holds g = false)
include h hg

theorem guardedJump_skip {f : Meaning} : guardedJump g f s = .next (s.setRun s.cur (r.past 1)) := by
  simp [guardedJump, State.running, h, hg, State.next_eq h]

theorem guardedEntry_skip {reads : Run → Option (Nat × Nat)} {f : State → Run → Except Stop Run} :
    guardedEntry g reads f s = .next (s.setRun s.cur (r.past 1)) := by
  simp [guardedEntry, State.running, h, hg, State.next_eq h]

theorem guardedN_skip {n : Bool} {f nul : Meaning} (hn : n = false) :
    guardedN g n f nul s = .next (s.setRun s.cur (r.past 1)) := by
  simp [guardedN, State.running, h, hg, hn, State.next_eq h]

/-- Under a false guard an instruction with N = 1 sends its null signal. -/
theorem guardedN_null {f nul : Meaning} {n : Bool} (hn : n = true) :
    guardedN g n f nul s = .next (s.settle r 1 ((nul s r).map (·.next 1))) := by
  simp [guardedN, State.running, h, hg, hn]

theorem guardedAfter_skip {check : State → Run → Except Stop Unit} {f : Meaning} (hc : check s r = .ok ()) :
    guardedAfter g check f s = .next (s.setRun s.cur (r.past 1)) := by
  simp [guardedAfter, State.running, h, hg, hc, State.next_eq h]

theorem rgnctl_skip {op : Nat} {xg y : XReg} (hc : needPriv s r = .ok ()) :
    rgnctl op g xg y s = .next (s.setRun s.cur (r.past 1)) := guardedAfter_skip h hg hc

theorem resumeForm_skip {form : Nat} {a : XReg} (hc : needPriv s r = .ok ()) :
    resumeForm form g a s = .next (s.setRun s.cur (r.past 1)) := guardedAfter_skip h hg hc

theorem execRep_skip {a : XReg} {n : BitVec 7} (hc : repBodyOk n s r = .ok ()) :
    execRep g a n s = .next (s.setRun s.cur (r.past 1)) := by
  simp [execRep, State.running, h, hg, hc, State.next_eq h]

end FalseGuard

end Sys2Proof.Machine
end

section
/-! SUPPORT. The frame of an instruction: what it may change of the threadlet, the core and the memories, and the shared
operations that keep to it (R53, R97, R98, R103). -/

namespace Sys2Proof.Machine

open Sys2Proof

/-! ## What an instruction keeps -/

/-- What an instruction keeps of its threadlet. -/
structure Run.Keeps (i : Instr) (r r' : Run) : Prop where
  regs : r.SameRegs r' i.dests
  flags : i.setsFlags = false → r.SameFlags r'
  who : r'.tid = r.tid ∧ r'.fid = r.fid ∧ r'.slot = r.slot ∧ r'.region = r.region ∧ r'.level = r.level ∧ r'.runleft = r.runleft

/-- What of a core no instruction changes but through its threadlet: the accumulators, TAGLAST and the hold entries; and the
landing channels and debug registers. -/
def Core.kept (c : Core) : (Option Run × SMap (List (BitVec 32)) × List Nat × SMap (BitVec 32) × SMap HoldEntry) ×
    SMap Word × SMap DebugReg × SMap DebugReg :=
  ((c.run, c.accs, c.accBad, c.taglast, c.hold), c.land, c.bp, c.wp)

/-- What an instruction keeps of the state while its threadlet is still Running. -/
structure State.Keeps (i : Instr) (s t : State) : Prop where
  cur : t.cur = s.cur
  run : ∀ r', (t.core s.cur).run = some r' → ∃ r, (s.core s.cur).run = some r ∧ r.Keeps i r'
  others : ∀ n, n ≠ s.cur → (t.core n).run = (s.core n).run
  accs : (t.core s.cur).accs = (s.core s.cur).accs
  accBad : (t.core s.cur).accBad = (s.core s.cur).accBad
  taglast : (t.core s.cur).taglast = (s.core s.cur).taglast
  hold : (t.core s.cur).hold = (s.core s.cur).hold
  debug : (∀ g a n, i ≠ .wrsr g a n) → (t.core s.cur).land = (s.core s.cur).land ∧ (t.core s.cur).bp = (s.core s.cur).bp ∧
    (t.core s.cur).wp = (s.core s.cur).wp
  bytes : i.storesNow = false → i.readsNow = false → s.SameBytes t

section Keeps

variable {i : Instr}

theorem Run.Keeps.refl (r : Run) : r.Keeps i r := ⟨fun _ _ => rfl, fun _ => ⟨rfl, rfl, rfl, rfl⟩, rfl, rfl, rfl, rfl, rfl, rfl⟩

theorem Run.Keeps.trans {r r' r'' : Run} (h : r.Keeps i r') (k : r'.Keeps i r'') : r.Keeps i r'' where
  regs j hj := (k.regs j hj).trans (h.regs j hj)
  flags hi := by
    obtain ⟨hp, hm, hv, hf⟩ := h.flags hi
    obtain ⟨kp, km, kv, kf⟩ := k.flags hi
    exact ⟨kp.trans hp, km.trans hm, kv.trans hv, kf.trans hf⟩
  who := by
    obtain ⟨h1, h2, h3, h4, h5, h6⟩ := h.who
    obtain ⟨k1, k2, k3, k4, k5, k6⟩ := k.who
    exact ⟨k1.trans h1, k2.trans h2, k3.trans h3, k4.trans h4, k5.trans h5, k6.trans h6⟩

theorem State.SameBytes.refl (s : State) : s.SameBytes s := ⟨fun _ => rfl, fun _ => rfl, fun _ _ => rfl⟩

theorem State.Keeps.trans {s t u : State} (h : s.Keeps i t) (k : t.Keeps i u) : s.Keeps i u where
  cur := k.cur.trans h.cur
  run r'' hr := by
    obtain ⟨r', hr', hk⟩ := k.run r'' (by rw [h.cur]; exact hr)
    obtain ⟨r, hr, hh⟩ := h.run r' (by rw [← h.cur]; exact hr')
    exact ⟨r, hr, hh.trans hk⟩
  others n hn := (k.others n (by rw [h.cur]; exact hn)).trans (h.others n hn)
  accs := by rw [← h.accs, ← h.cur, k.accs]
  accBad := by rw [← h.accBad, ← h.cur, k.accBad]
  taglast := by rw [← h.taglast, ← h.cur, k.taglast]
  hold := by rw [← h.hold, ← h.cur, k.hold]
  debug hi := by
    obtain ⟨h1, h2, h3⟩ := h.debug hi
    obtain ⟨k1, k2, k3⟩ := k.debug hi
    rw [h.cur] at k1 k2 k3
    exact ⟨k1.trans h1, k2.trans h2, k3.trans h3⟩
  bytes hs hr := (h.bytes hs hr).trans (k.bytes hs hr)

/-! ## Changes that no threadlet shows -/

/-- The same core is current, and of every core what no instruction changes is as it was. -/
structure State.Still (s t : State) : Prop where
  cur : t.cur = s.cur
  cores : ∀ n, (t.core n).kept = (s.core n).kept

/-- And every byte reads as before. -/
structure State.Quiet (s t : State) : Prop extends State.Still s t where
  bytes : s.SameBytes t

theorem State.Still.run {s t : State} (h : s.Still t) (n : Nat) : (t.core n).run = (s.core n).run :=
  congrArg (·.1.1) (h.cores n)

theorem State.Still.keeps {s t : State} (h : s.Still t) (hb : i.storesNow = false → i.readsNow = false → s.SameBytes t) :
    s.Keeps i t where
  cur := h.cur
  run r' hr := ⟨r', (h.run _).symm.trans hr, .refl r'⟩
  others n _ := h.run n
  accs := congrArg (·.1.2.1) (h.cores s.cur)
  accBad := congrArg (·.1.2.2.1) (h.cores s.cur)
  taglast := congrArg (·.1.2.2.2.1) (h.cores s.cur)
  hold := congrArg (·.1.2.2.2.2) (h.cores s.cur)
  debug _ := ⟨congrArg (·.2.1) (h.cores s.cur), congrArg (·.2.2.1) (h.cores s.cur), congrArg (·.2.2.2) (h.cores s.cur)⟩
  bytes := hb

/-- An instruction that stores may change bytes. -/
theorem State.Still.keeps_of_stores {s t : State} (h : s.Still t) (hi : i.storesNow = true) : s.Keeps i t :=
  h.keeps fun hn => absurd (hn.symm.trans hi) nofun

/-- So may one that reads memory as it issues (R252). -/
theorem State.Still.keeps_of_reads {s t : State} (h : s.Still t) (hi : i.readsNow = true) : s.Keeps i t :=
  h.keeps fun _ hn => absurd (hn.symm.trans hi) nofun

theorem State.Still.trans {s t u : State} (h : s.Still t) (k : t.Still u) : s.Still u :=
  ⟨k.cur.trans h.cur, fun n => (k.cores n).trans (h.cores n)⟩

theorem State.SameStores.quiet {s t : State} (h : s.SameStores t) : s.Quiet t :=
  ⟨⟨h.cur, fun n => by rw [h.core]⟩, h.sameBytes⟩

theorem State.MemoryOnly.still {s t : State} (h : s.MemoryOnly t) : s.Still t :=
  ⟨h.cur, fun n => by rw [State.core_of_cores h.cores]⟩

theorem State.Quiet.refl (s : State) : s.Quiet s := (State.SameStores.refl s).quiet

theorem State.Quiet.trans {s t u : State} (h : s.Quiet t) (k : t.Quiet u) : s.Quiet u :=
  ⟨h.toStill.trans k.toStill, h.bytes.trans k.bytes⟩

theorem State.Quiet.foldl {α : Type} (f : State → α → State) (h : ∀ (s : State) (a : α), s.Quiet (f s a)) (l : List α) (s : State) :
    s.Quiet (l.foldl f s) :=
  foldl_keeps (fun t => s.Quiet t) f (fun t a k => k.trans (h t a)) l s (.refl s)

theorem State.Quiet.keeps {s t : State} (h : s.Quiet t) : s.Keeps i t := h.toStill.keeps fun _ _ => h.bytes

theorem State.Keeps.refl (s : State) : s.Keeps i s := (State.Quiet.refl s).keeps

theorem State.setCore_still {s : State} {n : Nat} {c : Core} (hc : c.kept = (s.core n).kept) : s.Still (s.setCore n c) := by
  refine ⟨rfl, fun m => ?_⟩
  rw [State.core_setCore]
  split
  · next h => rw [hc, h]
  · rfl

theorem State.setCore_quiet {s : State} {n : Nat} {c : Core} (hc : c.kept = (s.core n).kept) (hl : c.lmem = (s.core n).lmem) :
    s.Quiet (s.setCore n c) := ⟨State.setCore_still hc, State.sameBytes_setCore s hl⟩

/-! ## The Running threadlet changed -/

theorem State.onRun_keeps (s : State) {f : Run → Run} (hf : ∀ r : Run, r.Keeps i (f r)) : s.Keeps i (s.onRun f) := by
  have hcore : ∀ n, (s.onRun f).core n = if n = s.cur then { s.core s.cur with run := (s.core s.cur).run.map f } else s.core n :=
    fun n => State.core_onCore ..
  have hself : (s.onRun f).core s.cur = { s.core s.cur with run := (s.core s.cur).run.map f } := (hcore _).trans (if_pos rfl)
  refine ⟨rfl, fun r' hr' => ?_, fun n hn => by rw [hcore, if_neg hn], ?_, ?_, ?_, ?_, fun _ => ?_, fun _ _ =>
    State.sameBytes_setCore s rfl⟩
  · rw [hself] at hr'
    obtain ⟨r, hr, rfl⟩ := Option.map_eq_some_iff.1 hr'
    exact ⟨r, hr, hf r⟩
  all_goals rw [hself]
  exact ⟨rfl, rfl, rfl⟩

theorem State.setRun_keeps {s : State} {r r' : Run} (hr : (s.core s.cur).run = some r) (h : r.Keeps i r') :
    s.Keeps i (s.setRun s.cur r') := by
  have hself : (s.setRun s.cur r').core s.cur = { s.core s.cur with run := some r' } := (State.core_setRun ..).trans (if_pos rfl)
  refine ⟨rfl, fun r'' hr'' => ⟨r, hr, ?_⟩, fun n hn => by rw [State.core_setRun, if_neg hn], ?_, ?_, ?_, ?_, fun _ => ?_, fun _ _ =>
    State.sameBytes_setCore s rfl⟩
  · rw [hself] at hr''
    exact Option.some.inj hr'' ▸ h
  all_goals rw [hself]
  exact ⟨rfl, rfl, rfl⟩

theorem Run.advance_keeps (r : Run) (n : Nat) : r.Keeps i (r.advance n) := by
  unfold Run.advance
  dsimp only
  repeat' split
  all_goals exact ⟨fun _ _ => rfl, fun _ => ⟨rfl, rfl, rfl, rfl⟩, rfl, rfl, rfl, rfl, rfl, rfl⟩

theorem Run.past_keeps (r : Run) (n : Nat) : r.Keeps i (r.past n) :=
  (r.advance_keeps n).trans ⟨fun _ _ => rfl, fun _ => ⟨rfl, rfl, rfl, rfl⟩, rfl, rfl, rfl, rfl, rfl, rfl⟩

theorem State.next_keeps (s : State) (n : Nat) : s.Keeps i (s.next n) := by
  unfold State.next
  split
  · exact .refl s
  · next r hr => exact State.setRun_keeps hr (r.past_keeps n)

/-- A write changes the scalar registers alone. -/
theorem Run.write_eq (r : Run) (d : XReg) (v : RVal) : r.write d v = { r with x := (r.write d v).x } := by
  unfold Run.write
  split <;> rfl

theorem Run.write_keeps {d : XReg} (hd : d.toNat ∈ i.dests) (v : RVal) (r : Run) : r.Keeps i (r.write d v) := by
  have hregs : r.SameRegs (r.write d v) i.dests := fun j hj => by
    rw [Run.reg_write, if_neg fun e : d ≠ 0 ∧ j = d.toNat => hj (e.2 ▸ hd)]
  rw [Run.write_eq] at hregs ⊢
  exact ⟨hregs, fun _ => ⟨rfl, rfl, rfl, rfl⟩, rfl, rfl, rfl, rfl, rfl, rfl⟩

/-- A change of predicates, masks, vectors or FPSTAT by an instruction that sets them. -/
theorem Run.flags_keeps (hi : i.setsFlags = true) {r r' : Run}
    (h : r' = { r with p := r'.p, m := r'.m, v := r'.v, fpst := r'.fpst }) : r.Keeps i r' := by
  rw [h]
  exact ⟨fun _ _ => rfl, fun hn => absurd (hn.symm.trans hi) nofun, rfl, rfl, rfl, rfl, rfl, rfl⟩

theorem State.writeR_keeps (s : State) {d : XReg} (hd : d.toNat ∈ i.dests) (v : RVal) : s.Keeps i (s.writeR d v) :=
  s.onRun_keeps (Run.write_keeps hd v)

theorem State.writeX_keeps (s : State) {d : XReg} (hd : d.toNat ∈ i.dests) (v : Word) : s.Keeps i (s.writeX d v) :=
  s.writeR_keeps hd _

section Flags

variable (hi : i.setsFlags = true)
include hi

theorem State.raise_keeps (s : State) (f : BitVec 8) : s.Keeps i (s.raise f) := s.onRun_keeps fun _ => Run.flags_keeps hi rfl

theorem State.writeV_keeps (s : State) (d : VReg) (w : VWord) : s.Keeps i (s.writeV d w) :=
  s.onRun_keeps fun _ => Run.flags_keeps hi rfl

theorem State.writeM_keeps (s : State) (d : MReg) (w : Word) : s.Keeps i (s.writeM d w) :=
  s.onRun_keeps fun _ => Run.flags_keeps hi (by split <;> rfl)

theorem State.writeP_keeps (s : State) (k : PReg) (b : Bool) : s.Keeps i (s.writeP k b) :=
  s.onRun_keeps fun _ => Run.flags_keeps hi (by split <;> rfl)

theorem State.writeLanes_keeps (s : State) (d : VReg) (res : VWord × BitVec 8) : s.Keeps i (s.writeLanes d res) :=
  (s.writeV_keeps hi d res.1).trans (State.raise_keeps hi _ _)

end Flags

end Keeps

end Sys2Proof.Machine
end

section
/-! SUPPORT. A stop leaves the core without a Running threadlet (R54, R55, R303), or waits for a page; and the wrappers of a
meaning keep what the meaning keeps. -/

namespace Sys2Proof.Machine

open Sys2Proof

/-! ## Threadlets that leave their core -/

theorem Core.kept_onFrame (c : Core) (fid : Nat) (f : Frame → Frame) : (c.onFrame fid f).kept = c.kept := by
  unfold Core.onFrame
  split <;> rfl

theorem Core.kept_spill (c : Core) (fid : Nat) : (c.spill fid).kept = c.kept := by
  unfold Core.spill
  split
  · rfl
  · split
    · exact c.kept_onFrame ..
    · rfl

theorem Core.lmem_spill (c : Core) (fid : Nat) : (c.spill fid).lmem = c.lmem := by
  unfold Core.spill
  split
  · rfl
  · split
    · exact c.lmem_onFrame ..
    · rfl

theorem Core.kept_stamp (c : Core) (q : Nat) : ({ c with stamp := q } : Core).kept = c.kept := rfl

theorem State.claimPlace_quiet (s : State) (n fid : Nat) (f : Frame) : s.Quiet (s.claimPlace n fid f) := by
  unfold State.claimPlace
  dsimp only
  split
  · exact State.setCore_quiet (Core.kept_onFrame ..) (Core.lmem_onFrame ..)
  · split
    · exact State.setCore_quiet ((Core.kept_onFrame ..).trans (Core.kept_spill ..))
        ((Core.lmem_onFrame ..).trans (Core.lmem_spill ..))
    · split
      · exact State.setCore_quiet (Core.kept_onFrame ..) (Core.lmem_onFrame ..)
      · exact .refl s

theorem State.requestRefill_quiet (s : State) (n fid : Nat) : s.Quiet (s.requestRefill n fid) := by
  unfold State.requestRefill
  split
  · exact .refl s
  · dsimp only
    split
    · refine .trans (State.setCore_quiet ?_ ?_) (State.claimPlace_quiet ..)
      · exact (Core.kept_stamp _ _).trans (Core.kept_onFrame ..)
      · exact Core.lmem_onFrame ..
    · exact .refl s

theorem State.run_saveRun (s : State) (n : Nat) (r : Run) (cause : Nat) (wait : Wait) (hold : Option Nat) :
    ((s.saveRun n r cause wait hold).core n).run = none := by
  have hsaved : (((s.endRun n r).core n).saveForms r).1.run = none := by
    rw [(Core.saveForms_keeps ..).1, State.endRun, State.core_onCore, if_pos rfl]
    rfl
  unfold State.saveRun
  dsimp only
  rw [State.core_setCore, if_pos rfl, Core.run_onFrame]
  split
  · exact hsaved
  · exact ((Core.putWord_run ..).trans (Core.putWords_keeps _ _ _).1).trans hsaved

theorem State.run_retire (s : State) (n fid region : Nat) (tid : Option Nat) :
    ((s.retire n fid region tid).core n).run = (s.core n).run := by
  unfold State.retire
  dsimp only
  repeat' split
  all_goals simp [State.run_releaseFrame]

theorem State.run_abortRun (s : State) (n : Nat) (r : Run) : ((s.abortRun n r).core n).run = none := by
  rw [State.abortRun, State.run_retire, State.core_onCore, if_pos rfl, State.endRun, State.core_onCore, if_pos rfl]
  rfl

/-- A precise fault leaves no Running threadlet (R303). -/
theorem State.run_takeFault (s : State) (n : Nat) (r : Run) (o : Origin) (src code addr : Nat) (detail : Word) :
    ((s.takeFault n r o src code addr detail).core n).run = none := by
  unfold State.takeFault
  extract_lets c hold rec_
  split
  · rw [State.core_sendRecord, State.core_trace, State.run_saveRun]
  · rw [State.core_sendRecord, State.run_abortRun]

/-- A park leaves no Running threadlet (R55). -/
theorem State.run_park (s : State) (n : Nat) (r : Run) (k cause : Nat) (wait : Wait) :
    ((s.park n r k cause wait).core n).run = none := by
  unfold State.park
  dsimp only
  split
  · exact State.run_takeFault ..
  · split
    · rw [(State.requestRefill_quiet ..).run, State.core_trace, State.run_saveRun]
    · rw [(State.requestRefill_quiet ..).run, State.core_trace, State.run_saveRun]
    · rw [State.core_trace, State.run_saveRun]

end Sys2Proof.Machine
end

section
/-! SUPPORT. Where an instruction's meaning ends: in a state, or in a stop; and what its wrapper then leaves (R95, R298, R303). -/

namespace Sys2Proof.Machine

open Sys2Proof

/-! ## Meanings that end in a state or in a stop -/

/-- The meaning ends in a value with a property, or in a stop that does not wait for a page. -/
def Leaves {α : Type} (P : α → Prop) : Except Stop α → Prop
  | .ok a => P a
  | .error (.page _) => False
  | .error _ => True

/-- A check does not wait for a page. -/
abbrev Checks {α : Type} (x : Except Stop α) : Prop := Leaves (fun _ => True) x

section Leaves

variable {α β : Type} {P : α → Prop}

theorem Leaves.mono {Q : α → Prop} {x : Except Stop α} (h : Leaves P x) (hpq : ∀ a, P a → Q a) : Leaves Q x := by
  match x, h with
  | .ok a, h => exact hpq a h
  | .error (.fault ..), _ => trivial
  | .error (.trap ..), _ => trivial
  | .error (.park ..), _ => trivial

theorem Leaves.bind {Q : β → Prop} {x : Except Stop α} {f : α → Except Stop β} (h : Leaves P x) (hf : ∀ a, P a → Leaves Q (f a)) :
    Leaves Q (x >>= f) := by
  match x, h with
  | .ok a, h => exact hf a h
  | .error (.fault ..), _ => trivial
  | .error (.trap ..), _ => trivial
  | .error (.park ..), _ => trivial

theorem Leaves.error {Q : β → Prop} {e : Stop} (h : Leaves P (.error e)) : Leaves Q (.error e) := by
  cases e with
  | page => exact h
  | _ => trivial

/-- What follows a check. -/
theorem Checks.bind {Q : β → Prop} {x : Except Stop α} {f : α → Except Stop β} (h : Checks x) (hf : ∀ a, Leaves Q (f a)) :
    Leaves Q (x >>= f) := Leaves.bind h fun a _ => hf a

theorem Checks.map {Q : β → Prop} {x : Except Stop α} {f : α → β} (h : Checks x) (hf : ∀ a, Q (f a)) : Leaves Q (x.map f) := by
  match x, h with
  | .ok a, _ => exact hf a
  | .error (.fault ..), _ => trivial
  | .error (.trap ..), _ => trivial
  | .error (.park ..), _ => trivial

end Leaves

/-! ## The checks that meanings share -/

theorem Run.known_checks (r : Run) (a : XReg) : Checks (r.known a) := by
  unfold Run.known
  split <;> trivial

theorem Run.known2_checks (r : Run) (a b : XReg) : Checks (r.known2 a b) := by
  unfold Run.known2
  split <;> trivial

theorem allKnown_checks (vs : List RVal) : Checks (allKnown vs) := by
  unfold allKnown
  split <;> trivial

theorem folded_checks (x y : RVal) (o : Option RVal) : Checks (folded x y o) := by
  unfold folded
  split <;> trivial

theorem record_checks (o : Origin) (op : ChainOp) (p : Prec) (sat : Bool) (rm : RMode) (pos : Nat) (v : RVal) (k1 k2 : Word) :
    Checks (record o op p sat rm pos v k1 k2) := by
  unfold record
  split
  · trivial
  · split <;> trivial

theorem need_checks (c : Bool) (code addr : Nat) : Checks (need c code addr) := by
  unfold need
  split <;> trivial

theorem onKnown_checks {v : RVal} {check : Word → Except Stop Unit} (h : ∀ w, Checks (check w)) : Checks (onKnown v check) := by
  unfold onKnown
  split
  · exact h _
  · trivial

/-- A check of the source interface stops with a fault. -/
theorem Check.stop_checks {α : Type} (x : Check α) : Checks x.stop := by cases x <;> trivial

theorem State.supply_checks (s : State) (r : Run) (syms entries : Nat) : Checks (s.supply r syms entries) := by
  unfold State.supply
  dsimp only
  split <;> trivial

theorem State.acquired_checks (s : State) (r : Run) : Checks (s.acquired r) := by
  unfold State.acquired
  dsimp only
  split <;> trivial

theorem State.stageRoom_checks (s : State) (r : Run) : Checks (s.stageRoom r) := by
  unfold State.stageRoom
  dsimp only
  split <;> trivial

theorem State.effectsResolved_checks (s : State) (r : Run) : Checks (s.effectsResolved r) := by
  unfold State.effectsResolved
  dsimp only
  split <;> trivial

theorem State.routed_checks (s : State) (r : Run) (vas : List Nat) : Checks (s.routed r vas) := by
  unfold State.routed
  split <;> trivial

theorem State.watch_checks (s : State) (r : Run) (write : Bool) (l : List (Nat × Nat)) : Checks (s.watch r write l) := by
  unfold State.watch
  split
  · trivial
  · split <;> trivial

theorem State.checkAccess_checks (s : State) (r : Run) (write : Bool) (n : Nat) (addr : Word) :
    Checks (s.checkAccess r write n addr) := (s.routed_checks ..).bind fun _ => s.watch_checks ..

theorem State.localAddr_checks (s : State) (r : Run) (a : Word) (n : Nat) (write : Bool) : Checks (s.localAddr r a n write) :=
  (need_checks ..).bind fun _ => need_checks ..

theorem State.localRead_checks (s : State) (a n : Nat) : Checks (s.localRead a n) := by
  unfold State.localRead
  dsimp only
  split <;> trivial

theorem State.handleFrame_checks (s : State) (r : Run) (h : Word) (anyRegion : Bool) : Checks (s.handleFrame r h anyRegion) := by
  unfold State.handleFrame
  split
  · trivial
  · split <;> trivial

theorem State.handleSlot_checks (s : State) (r : Run) (h : Word) (anyRegion : Bool) : Checks (s.handleSlot r h anyRegion) :=
  (s.handleFrame_checks ..).bind fun f => by
    dsimp only
    split <;> trivial

theorem State.cmdOperands_checks (s : State) (r : Run) (grp : List RVal) (y : XReg) : Checks (s.cmdOperands r grp y) := by
  have hrest : Checks (do
      let ws ← allKnown (grp ++ [r.get y])
      s.acquired r
      Except.ok (ws.take grp.length, wordAt ws grp.length)) :=
    (allKnown_checks _).bind fun _ => (s.acquired_checks r).bind fun _ => trivial
  unfold State.cmdOperands
  dsimp only
  split
  · exact (onKnown_checks fun _ => Check.stop_checks _).bind fun _ => hrest
  · exact hrest

/-! ## Wrappers -/

/-- A completed instruction leaves the core without a Running threadlet, or a state with a property. -/
def State.Completes (s : State) (P : State → Prop) (o : Host.Outcome State Fault Refusal) : Prop :=
  ∀ t, o = .next t → (t.core s.cur).run = none ∨ P t

section Wrappers

variable {s : State} {P : State → Prop} {g : Guard} {f : Meaning}

/-- How the wrappers settle a meaning that does not wait for a page: a fault and a park leave no Running threadlet. -/
theorem State.settle_completes {x : Except Stop State} (h : Leaves P x) (r : Run) (n : Nat) :
    ((s.settle r n x).core s.cur).run = none ∨ P (s.settle r n x) := by
  match x, h with
  | .ok t, h => exact .inr h
  | .error (.fault ..), _ => exact .inl (State.run_takeFault ..)
  | .error (.trap ..), _ => exact .inl (State.run_takeFault ..)
  | .error (.park ..), _ => exact .inl (State.run_park ..)

theorem State.running_completes {f : Run → State}
    (hf : ∀ r, (s.core s.cur).run = some r → ((f r).core s.cur).run = none ∨ P (f r)) : s.Completes P (s.running f) := by
  intro t ht
  unfold State.running at ht
  split at ht
  · cases ht
  · next r hr => exact Host.Outcome.next.inj ht ▸ hf r hr

theorem Leaves.next {x : Except Stop State} {n : Nat} (h : Leaves (fun t => P (t.next n)) x) : Leaves P (x.map (·.next n)) := by
  match x, h with
  | .ok _, h => exact h
  | .error (.fault ..), _ => trivial
  | .error (.trap ..), _ => trivial
  | .error (.park ..), _ => trivial

theorem guarded_completes {n : Nat} (hskip : P (s.next n))
    (hf : ∀ r, (s.core s.cur).run = some r → Leaves (fun t => P (t.next n)) (f s r)) : s.Completes P (guarded g n f s) :=
  State.running_completes fun r hr => by
    split
    · exact State.settle_completes (hf r hr).next r n
    · exact .inr hskip

variable {i : Instr}

/-- A meaning that keeps the frame still does once the threadlet has moved past its words. -/
theorem Leaves.past {x : Except Stop State} (h : Leaves (s.Keeps i) x) (n : Nat) : Leaves (fun t => s.Keeps i (t.next n)) x :=
  h.mono fun t k => k.trans (t.next_keeps n)

theorem guarded_framed {n : Nat} (hf : ∀ r, Leaves (s.Keeps i) (f s r)) : s.Completes (s.Keeps i) (guarded g n f s) :=
  guarded_completes (s.next_keeps n) fun r _ => (hf r).past n

theorem guardedN_framed {n : Bool} {nul : Meaning} (hf : ∀ r, Leaves (s.Keeps i) (f s r))
    (hn : ∀ r, Leaves (s.Keeps i) (nul s r)) : s.Completes (s.Keeps i) (guardedN g n f nul s) :=
  State.running_completes fun r _ => by
    split
    · exact State.settle_completes ((hf r).past 1).next r 1
    · split
      · exact State.settle_completes ((hn r).past 1).next r 1
      · exact .inr (s.next_keeps 1)

theorem guardedAfter_framed {check : State → Run → Except Stop Unit} (hc : ∀ r, Checks (check s r))
    (hf : ∀ r, Leaves (s.Keeps i) (f s r)) : s.Completes (s.Keeps i) (guardedAfter g check f s) :=
  State.running_completes fun r _ => by
    split
    · next e he => exact State.settle_completes (Leaves.error (he ▸ hc r)) r 1
    · split
      · exact State.settle_completes ((hf r).past 1).next r 1
      · exact .inr (s.next_keeps 1)

/-- A jump that is no transfer takes the threadlet off its core. -/
theorem guardedJump_framed (hf : ∀ r, Leaves (fun t => (t.core s.cur).run = none) (f s r)) :
    s.Completes (s.Keeps i) (guardedJump g f s) :=
  State.running_completes fun r _ => by
    split
    · exact (State.settle_completes (hf r) r 1).elim .inl .inl
    · exact .inr (s.next_keeps 1)

end Wrappers

/-! ## Transfers -/

theorem State.awaitPage_still (s : State) (z : Option Zeroing) : s.Still (s.awaitPage z) := by
  unfold State.awaitPage
  split
  · split
    · exact (State.SameStores.quiet (by constructor <;> rfl)).toStill
    · exact (s.store_only _ _).still.trans (State.SameStores.quiet (by constructor <;> rfl)).toStill
  · exact (State.Quiet.refl s).toStill

section Transfer

variable {s : State} {P : State → Prop} {g : Guard} {reads : Run → Option (Nat × Nat)} {f : State → Run → Except Stop Run}

/-- The state in which a transfer is made: the code that it reads is in the instruction caches. -/
def State.entryRead (s : State) (r : Run) : Option (Nat × Nat) → State
  | some b => s.readEntry s.cur (s.asid r.region) b.1 b.2
  | none => s

theorem State.entryRead_sameButCode (s : State) (r : Run) (b : Option (Nat × Nat)) : s.SameButCode (s.entryRead r b) := by
  cases b
  · exact .refl s
  · exact s.readEntry_sameButCode ..

theorem guardedEntry_eq : guardedEntry g reads f s = s.running fun r =>
    if r.holds g then (s.entryRead r (reads r)).settle r 1 ((f (s.entryRead r (reads r)) r).map ((s.entryRead r (reads r)).setRun s.cur))
    else s.next 1 := rfl

theorem State.SameButCode.cur {s t : State} (h : s.SameButCode t) : t.cur = s.cur := by rw [h.1]
theorem State.SameButCode.cores {s t : State} (h : s.SameButCode t) : t.cores = s.cores := by rw [h.1]

/-- A transfer goes on in the block it enters, or waits for its page; a fault and a park leave no Running threadlet. -/
theorem guardedEntry_completes (hskip : P (s.next 1))
    (hgo : ∀ r r', (s.core s.cur).run = some r → f (s.entryRead r (reads r)) r = .ok r' →
      P ((s.entryRead r (reads r)).setRun s.cur r'))
    (hwait : ∀ r z, (s.core s.cur).run = some r → P ((s.entryRead r (reads r)).awaitPage z)) :
    s.Completes P (guardedEntry g reads f s) := by
  rw [guardedEntry_eq]
  refine State.running_completes fun r hr => ?_
  have hcur := (s.entryRead_sameButCode r (reads r)).cur
  split
  · match hx : f (s.entryRead r (reads r)) r with
    | .ok r' => exact .inr (hgo r r' hr hx)
    | .error (.fault ..) => exact .inl (by rw [← hcur]; exact State.run_takeFault ..)
    | .error (.trap ..) => exact .inl (by rw [← hcur]; exact State.run_takeFault ..)
    | .error (.park ..) => exact .inl (by rw [← hcur]; exact State.run_park ..)
    | .error (.page z) => exact .inr (hwait r z hr)
  · exact .inr hskip

end Transfer

end Sys2Proof.Machine
end

section
/-! SUPPORT. What issues an operation, a barrier, a deferred effect or an engine command keeps every threadlet as it stands, and
every byte but those of the lines that an AMSG reads (R59, R72, R221-R226, R252, R258). -/

namespace Sys2Proof.Machine

open Sys2Proof

theorem Leaves.keeps {i : Instr} {s : State} {x : Except Stop State} (h : Leaves s.Quiet x) : Leaves (s.Keeps i) x :=
  h.mono fun _ k => k.keeps

/-! ## Packets and numbers -/

theorem State.newSeq_quiet (s : State) (n : Nat) : s.Quiet (s.newSeq n).2 := State.setCore_quiet rfl rfl

theorem State.launchSignal_quiet (s : State) (n : Nat) (o : Op) (ref : Word) (dec : Nat) (data : SigData) (rel err : Bool) :
    s.Quiet (s.launchSignal n o ref dec data rel err) := by
  unfold State.launchSignal
  split
  · exact (s.inject_sameStores ..).quiet
  · exact (s.sendRecord_sameStores ..).quiet

theorem State.setAffCache_quiet (s : State) (a : Agent) (l : List (Nat × Nat)) : s.Quiet (s.setAffCache a l) := by
  unfold State.setAffCache
  split
  · exact State.setCore_quiet rfl rfl
  · exact State.SameStores.quiet ⟨rfl, rfl, rfl, rfl⟩
  · exact .refl s

theorem State.choose_quiet (s : State) (n : Nat) : s.Quiet (s.choose n).2 := State.SameStores.quiet ⟨rfl, rfl, rfl, rfl⟩

theorem State.ownerOf_still (s : State) (a : Agent) (region : Nat) (addr : Word) : s.Still (s.ownerOf a region addr).2 := by
  have haff : ∀ g i, s.Still (s.affEntry a g region i).2 := by
    intro g i
    have hread := (s.fetch_only (g.afftab + 2 * i) 2).still
    unfold State.affEntry
    dsimp only
    split
    · exact hread.trans (State.setAffCache_quiet ..).toStill
    · split
      · exact hread
      · exact (hread.trans (State.choose_quiet _ 2).toStill).trans (State.setAffCache_quiet ..).toStill
  unfold State.ownerOf
  split
  · exact (State.Quiet.refl s).toStill
  · dsimp only
    split <;> exact haff ..

/-! ## Operations -/

/-- An operation that leaves the order stage changes no threadlet. -/
theorem State.launch_still (s : State) (n : Nat) (o : Op) : s.Still (s.launch n o) := by
  unfold State.launch
  split
  · exact (s.launchSignal_quiet ..).toStill
  · next addr _ _ =>
    have howner := s.ownerOf_still (.core n) o.org.region addr
    split
    · next hs1 => exact (hs1 ▸ howner).trans (State.inject_sameStores ..).quiet.toStill
    · next hs1 => exact (hs1 ▸ howner).trans (State.sendRecord_sameStores ..).quiet.toStill
  · split
    · exact (s.inject_sameStores ..).quiet.toStill
    · exact (s.sendRecord_sameStores ..).quiet.toStill
  · exact (s.inject_sameStores ..).quiet.toStill
  · exact (s.inject_sameStores ..).quiet.toStill
  · exact (State.setCore_still (by rfl)).trans (State.inject_sameStores ..).quiet.toStill
  · exact State.setCore_still rfl

/-- Nor a byte, unless it hashes an affinity entry. -/
theorem State.launch_quiet (s : State) (n : Nat) {o : Op} (h : ∀ hd a ws, o.body ≠ .amsg hd a ws) : s.Quiet (s.launch n o) := by
  refine ⟨s.launch_still n o, ?_⟩
  unfold State.launch
  split
  · exact (s.launchSignal_quiet ..).bytes
  · next hb => exact absurd hb (h _ _ _)
  · split
    · exact (s.inject_sameStores ..).sameBytes
    · exact (s.sendRecord_sameStores ..).sameBytes
  · exact (s.inject_sameStores ..).sameBytes
  · exact (s.inject_sameStores ..).sameBytes
  · exact (State.sameBytes_setCore s (by rfl)).trans (State.inject_sameStores ..).sameBytes
  · exact State.sameBytes_setCore s rfl

theorem State.submit_still (s : State) (n : Nat) (o : Op) : s.Still (s.submit n o) := by
  unfold State.submit
  split
  · exact State.setCore_still rfl
  · exact s.launch_still n o

theorem State.submit_quiet (s : State) (n : Nat) {o : Op} (h : ∀ hd a ws, o.body ≠ .amsg hd a ws) : s.Quiet (s.submit n o) := by
  unfold State.submit
  split
  · exact State.setCore_quiet rfl rfl
  · exact s.launch_quiet n h

theorem State.enter_still (s : State) (r : Run) (body : OpBody) : s.Still (s.enter r body) :=
  (s.newSeq_quiet s.cur).toStill.trans (State.submit_still ..)

theorem State.enter_quiet (s : State) (r : Run) {body : OpBody} (h : ∀ hd a ws, body ≠ .amsg hd a ws) : s.Quiet (s.enter r body) :=
  (s.newSeq_quiet s.cur).trans (State.submit_quiet _ _ h)

/-! ## Barriers -/

theorem State.flushCombiner_quiet (s : State) (n : Nat) : s.Quiet (s.flushCombiner n) := by
  unfold State.flushCombiner
  refine .trans (State.setCore_quiet (by rfl) (by rfl)) (.foldl _ (fun t e => ?_) _ _)
  exact ((t.send_sameStores _).trans (State.progresses_sameStores ..)).quiet

theorem State.addBarrier_quiet (s : State) (n : Nat) (b : Barrier) : s.Quiet (s.addBarrier n b) := by
  unfold State.addBarrier
  dsimp only
  split
  · exact (State.setCore_quiet (by rfl) (by rfl)).trans (State.flushCombiner_quiet ..)
  · exact State.setCore_quiet rfl rfl

theorem State.enterRelease_quiet (s : State) (r : Run) {body : OpBody} (h : ∀ hd a ws, body ≠ .amsg hd a ws) :
    s.Quiet (s.enterRelease r body) := by
  unfold State.enterRelease State.release
  refine (s.newSeq_quiet s.cur).trans ?_
  dsimp only
  split
  · exact State.launch_quiet _ _ h
  · exact State.addBarrier_quiet ..

theorem State.issueFence_quiet (s : State) (r : Run) (kind : BarrierKind) (cmds : List Nat) : s.Quiet (s.issueFence r kind cmds) := by
  have hpasses : ∀ (passes : Bool) (b : Barrier), s.Quiet (if passes then (s.newSeq s.cur).2 else (s.newSeq s.cur).2.addBarrier s.cur b) := by
    intro passes b
    split
    · exact s.newSeq_quiet s.cur
    · exact (s.newSeq_quiet s.cur).trans (State.addBarrier_quiet ..)
  exact hpasses _ _

/-! ## Issue -/

theorem State.issueOp_leaves (s : State) (r : Run) {P : State → Prop} {body : OpBody} (h : P (s.enter r body)) :
    Leaves P (s.issueOp r body) := (s.acquired_checks r).bind fun _ => (s.stageRoom_checks r).bind fun _ => h

theorem State.issueOp_quiet (s : State) (r : Run) {body : OpBody} (h : ∀ hd a ws, body ≠ .amsg hd a ws) :
    Leaves s.Quiet (s.issueOp r body) := s.issueOp_leaves r (s.enter_quiet r h)

theorem State.issueRelease_quiet (s : State) (r : Run) {body : OpBody} (h : ∀ hd a ws, body ≠ .amsg hd a ws) :
    Leaves s.Quiet (s.issueRelease r body) :=
  (s.acquired_checks r).bind fun _ => (s.effectsResolved_checks r).bind fun _ => (s.stageRoom_checks r).bind fun _ =>
    s.enterRelease_quiet r h

theorem State.defer_quiet (s : State) (r : Run) (e : Effect) (ops ints : List RVal) : Leaves s.Quiet (s.defer r e ops ints) := by
  have hrest : Leaves s.Quiet (do
      s.supply r 0 1
      match SMap.firstFree (s.core s.cur).pool 0 256 with
      | none => .error (.park 4 (s.core s.cur).short)
      | some k => .ok (s.setCore s.cur { s.core s.cur with
          pool := SMap.set (s.core s.cur).pool k ⟨(s.core s.cur).nextSeq, r.origin, .effect e ops⟩
          nextSeq := (s.core s.cur).nextSeq + 1 })) := by
    refine (s.supply_checks ..).bind fun _ => ?_
    split
    · trivial
    · exact State.setCore_quiet rfl rfl
  unfold State.defer
  refine (s.acquired_checks r).bind fun _ => ?_
  dsimp only
  split
  · trivial
  · exact hrest

theorem State.issueSignal_quiet (s : State) (r : Run) (ref : Word) (dec : Nat) (data : SigData) (rel : Bool) :
    Leaves s.Quiet (s.issueSignal r ref dec data rel) := by
  refine (Check.stop_checks _).bind fun _ => ?_
  split
  · exact s.issueRelease_quiet r nofun
  · exact s.issueOp_quiet r nofun

theorem State.deferSignal_quiet (s : State) (r : Run) (rel : Bool) (e : Effect) (ref : RVal) (ops : List RVal) :
    Leaves s.Quiet (s.deferSignal r rel e ref ops) := by
  refine (onKnown_checks fun _ => Check.stop_checks _).bind fun _ => ?_
  dsimp only
  split
  · exact (s.effectsResolved_checks r).bind fun _ => s.defer_quiet ..
  · exact s.defer_quiet ..

theorem nullSignal_quiet (a : XReg) (rel : Bool) (dec : Nat) (s : State) (r : Run) : Leaves s.Quiet (nullSignal a rel dec s r) := by
  unfold nullSignal
  split
  · exact State.Quiet.refl s
  · split
    · exact s.issueSignal_quiet ..
    · exact s.deferSignal_quiet ..

theorem nullBytes_quiet (y : XReg) (byt : Bool) (len : List RVal) (s : State) (r : Run) : Leaves s.Quiet (nullBytes y byt len s r) := by
  unfold nullBytes
  split
  · exact State.Quiet.refl s
  · split
    · exact (onKnown_checks fun _ => Check.stop_checks _).bind fun _ => (allKnown_checks _).bind fun _ => nullSignal_quiet ..
    · exact nullSignal_quiet ..

/-! ## Engine commands and updates -/

theorem State.issueCopy_quiet (s : State) (r : Run) (kind : CopyKind) (grp : List RVal) (y : XReg) :
    Leaves s.Quiet (s.issueCopy r kind grp y) := by
  refine (s.cmdOperands_checks r grp y).bind fun _ => ?_
  dsimp only
  split
  · trivial
  · exact (s.newSeq_quiet s.cur).trans (State.setCore_quiet rfl rfl)

theorem State.issueTile_quiet (s : State) (r : Run) (kind : TileKind) (grp : List RVal) (y : XReg) :
    Leaves s.Quiet (s.issueTile r kind grp y) := by
  refine (s.cmdOperands_checks r grp y).bind fun _ => ?_
  dsimp only
  split
  · trivial
  · exact (s.newSeq_quiet s.cur).trans (State.setCore_quiet rfl rfl)

theorem State.submitPairs_quiet (s : State) (n : Nat) (org : Origin) (at_ : Option Nat) (k : Nat) (ps : List (Word × Word)) :
    s.Quiet (s.submitPairs n org at_ k ps) := by
  unfold State.submitPairs
  split
  · exact .refl s
  · exact .trans (State.setCore_quiet (by rfl) (by rfl))
      (.foldl _ (fun t p => (t.newSeq_quiet n).trans (State.submit_quiet _ _ (by nofun))) _ _)

theorem State.issuePairs_quiet (s : State) (r : Run) (k : Nat) (pairs : Nat → List (Word × Word)) :
    Leaves s.Quiet (s.issuePairs r k pairs) := by
  refine (Check.stop_checks _).bind fun p => ?_
  dsimp only
  split
  · exact State.Quiet.refl s
  · exact (s.watch_checks ..).bind fun _ => (s.acquired_checks r).bind fun _ => (s.stageRoom_checks r).bind fun _ =>
      s.submitPairs_quiet ..

end Sys2Proof.Machine
end

section
/-! SUPPORT. The frame of the meanings that change registers, frames, slots and local memory (R40-R48, R66-R70, R98, R193). -/

namespace Sys2Proof.Machine

open Sys2Proof

section Registers

variable {i : Instr} {s : State} {r : Run} {d : XReg}

/-! ## Scalar registers -/

theorem State.writeForm_keeps (hd : d.toNat ∈ i.dests) (v : RVal) : Leaves (s.Keeps i) (s.writeForm r d v) := by
  unfold State.writeForm
  split
  · exact s.writeX_keeps hd _
  · exact (s.supply_checks ..).map fun _ => s.writeR_keeps hd _

theorem alu2_keeps {op : Word → Word → Word} {a b : XReg} (hd : d.toNat ∈ i.dests) : Leaves (s.Keeps i) (alu2 op d a b s r) :=
  (r.known2_checks a b).bind fun _ => s.writeX_keeps hd _

theorem alu1_keeps {op : Word → Word} {a : XReg} (hd : d.toNat ∈ i.dests) : Leaves (s.Keeps i) (alu1 op d a s r) :=
  (r.known_checks a).bind fun _ => s.writeX_keeps hd _

theorem aluFold_keeps {fold : RVal → RVal → Option RVal} {a b : XReg} (hd : d.toNat ∈ i.dests) :
    Leaves (s.Keeps i) (aluFold fold d a b s r) := (folded_checks ..).bind fun _ => State.writeForm_keeps hd _

theorem shiftLeft_keeps {a : XReg} {amount : RVal} (hd : d.toNat ∈ i.dests) : Leaves (s.Keeps i) (shiftLeft d a amount s r) := by
  unfold shiftLeft
  split
  · exact (folded_checks ..).bind fun _ => State.writeForm_keeps hd _
  · trivial

theorem record_keeps (hd : d.toNat ∈ i.dests) {o : Origin} {op : ChainOp} {p : Prec} {sat : Bool} {rm : RMode} {pos : Nat} {v : RVal}
    {k1 k2 : Word} : Leaves (s.Keeps i) ((record o op p sat rm pos v k1 k2).bind (s.writeForm r d)) :=
  (record_checks ..).bind fun _ => State.writeForm_keeps hd _

section Flags

variable (hi : i.setsFlags = true)
include hi

theorem State.writeFp_keeps (hd : d.toNat ∈ i.dests) (p : Prec) (res : Nat × BitVec 8) : s.Keeps i (s.writeFp d p res) :=
  (s.writeX_keeps hd _).trans (State.raise_keeps hi _ _)

theorem fp2_keeps {op : ChainOp} {f : Fmt → RMode → Bool → Nat → Nat → Nat × BitVec 8} {prec : Prec} {sat : Bool} {rnd : Rnd}
    {a b : XReg} (hd : d.toNat ∈ i.dests) : Leaves (s.Keeps i) (fp2 op f prec sat rnd d a b s r) := by
  unfold fp2
  dsimp only
  split
  · exact State.writeFp_keeps hi hd _ _
  · exact record_keeps hd
  · exact record_keeps hd
  · trivial

theorem fpPick_keeps {isMax : Bool} {prec : Prec} {a b : XReg} (hd : d.toNat ∈ i.dests) :
    Leaves (s.Keeps i) (fpPick isMax prec d a b s r) := (r.known2_checks a b).bind fun _ => State.writeFp_keeps hi hd _ _

/-! ## Predicates and vectors -/

theorem setImm_keeps {cond : Cond} {pd : PReg} {a : XReg} {imm : BitVec 11} : Leaves (s.Keeps i) (setImm cond pd a imm s r) :=
  (r.known_checks a).bind fun _ => s.writeP_keeps hi _ _

theorem varith_keeps {k : VFun} {t : CvtTy} {rm : RMode} {sat : Bool} {vd va vb : VReg} {m : MReg} :
    Leaves (s.Keeps i) (varith k t rm sat vd va vb m s r) := s.writeLanes_keeps hi _ _

theorem vmath_keeps {k : VMath} {f : Fmt} {rm : RMode} {sat : Bool} {vd va : VReg} {m : MReg} :
    Leaves (s.Keeps i) (vmath k f rm sat vd va m s r) := s.writeLanes_keeps hi _ _

theorem vbits_keeps {op : Nat → Nat → Nat} {vd va vb : VReg} {m : MReg} : Leaves (s.Keeps i) (vbits op vd va vb m s r) :=
  s.writeLanes_keeps hi _ _

theorem vselect_keeps {w : Nat} {vd va vb : VReg} {m : MReg} : Leaves (s.Keeps i) (vselect w vd va vb m s r) :=
  s.writeLanes_keeps hi _ _

theorem vshift_keeps {k : VShift} {w : Nat} {vd va vb : VReg} {m : MReg} : Leaves (s.Keeps i) (vshift k w vd va vb m s r) :=
  s.writeLanes_keeps hi _ _

theorem vreduce_keeps {k : VFun} {t : CvtTy} {va : VReg} {m : MReg} (hd : d.toNat ∈ i.dests) :
    Leaves (s.Keeps i) (vreduce k t d va m s r) := (s.writeX_keeps hd _).trans (State.raise_keeps hi _ _)

theorem vdot_keeps {f : Fmt} {va vb : VReg} {m : MReg} (hd : d.toNat ∈ i.dests) : Leaves (s.Keeps i) (vdot f d va vb m s r) :=
  (s.writeX_keeps hd _).trans (State.raise_keeps hi _ _)

end Flags

/-! ## Loads and atomics -/

/-- A symbol taken for a register changes that register alone. -/
theorem State.symFor_keeps {k : Nat} {st : SymState} {acq : Bool} (hk : k = 0 ∨ (BitVec.ofNat 5 k).toNat ∈ i.dests) :
    s.Keeps i (s.symFor r k st acq).2 := by
  unfold State.symFor
  split
  · exact .refl s
  · next h0 =>
    cases htake : s.takeSym r st acq with
    | none => exact .refl s
    | some p =>
      obtain ⟨j, hfree, rfl⟩ := Option.map_eq_some_iff.1 htake
      exact .trans (State.Quiet.keeps (State.setCore_quiet (by rfl) (by rfl))) (State.writeR_keeps _ (hk.resolve_left h0) _)

/-- An atomic handed over as its order says, every check made, behind an acquiring barrier where no register takes its result
(R223, R226). -/
theorem State.enterOrdered_keeps {t : State} {body : OpBody} {kind : BarrierKind} (rel acq : Bool) (h : s.Keeps i t)
    (hb : ∀ hd a ws, body ≠ .amsg hd a ws) :
    Leaves (s.Keeps i) (do
      s.acquired r
      if rel then s.effectsResolved r
      s.stageRoom r
      let u := if rel then t.enterRelease r body else t.enter r body
      Except.ok (if acq then u.issueFence r kind [] else u)) := by
  have henter : s.Keeps i (if rel then t.enterRelease r body else t.enter r body) := by
    split
    · exact h.trans (t.enterRelease_quiet r hb).keeps
    · exact h.trans (t.enter_quiet r hb).keeps
  generalize (if rel then t.enterRelease r body else t.enter r body) = u at henter ⊢
  have hend : Leaves (s.Keeps i) (.ok (if acq then u.issueFence r kind [] else u)) := by
    show s.Keeps i _
    split
    · exact henter.trans (State.issueFence_quiet ..).keeps
    · exact henter
  refine (s.acquired_checks r).bind fun _ => ?_
  cases rel
  · exact (s.stageRoom_checks r).bind fun _ => hend
  · exact (s.effectsResolved_checks r).bind fun _ => (s.stageRoom_checks r).bind fun _ => hend

theorem atomic_keeps {k : AtomKind} {n : Nat} {ord : Ord} {a b : XReg} (hd : d.toNat ∈ i.dests)
    (hd1 : n = 16 → (d + 1).toNat ∈ i.dests) : Leaves (s.Keeps i) (atomic k n ord d a b s r) := by
  have hsym : s.Keeps i (s.symFor r d.toNat .pending (acquires ord)).2 := State.symFor_keeps (.inr (by simpa using hd))
  have hsyms : s.Keeps i (if n = 16 then (s.symFor r d.toNat .pending (acquires ord)).2.symFor r (d.toNat + 1) .pending (acquires ord)
      else (none, (s.symFor r d.toNat .pending (acquires ord)).2)).2 := by
    split
    · next hn => exact hsym.trans (State.symFor_keeps (.inr (by simpa [BitVec.ofNat_add] using hd1 hn)))
    · exact hsym
  refine (onKnown_checks fun _ => (need_checks ..).bind fun _ => (need_checks ..).bind fun _ => s.checkAccess_checks ..).bind fun _ =>
    (allKnown_checks _).bind fun ws => (s.supply_checks ..).bind fun _ => ?_
  exact State.enterOrdered_keeps (releases ord) (acquires ord && d == 0) hsyms nofun

end Registers

end Sys2Proof.Machine
end

section
/-! SUPPORT. The frame of FALLOC, FFREE, SLOTI and LDL: a frame given or released, a slot's step, and a late load (R40-R48, R62,
R66). -/

namespace Sys2Proof.Machine

open Sys2Proof

/-! ## Frames -/

theorem Core.kept_putWords (ws : List Word) : ∀ (c : Core) (a : Nat), (c.putWords a ws).kept = c.kept := by
  induction ws with
  | nil => exact fun _ _ => rfl
  | cons w ws ih => exact fun c a => ih (c.putWord a w) (a + 8)

theorem Core.kept_zeroFrame (c : Core) (base bytes fid cls region : Nat) : (c.zeroFrame base bytes fid cls region).kept = c.kept :=
  Core.kept_putWords ..

theorem Core.kept_spillRun (c : Core) (base bytes : Nat) : (c.spillRun base bytes).kept = c.kept := by
  unfold Core.spillRun
  refine foldl_keeps (fun c' : Core => c'.kept = c.kept) _ (fun c' e h => ?_) _ _ rfl
  split
  · exact (Core.kept_spill ..).trans h
  · exact h

/-- A frame given changes no threadlet. -/
theorem State.allocFrame_still {s t : State} {n region cls fid : Nat} (h : s.allocFrame n region cls = some (fid, t)) : s.Still t := by
  unfold State.allocFrame at h
  split at h
  · cases h
  · dsimp only at h
    split at h
    · split at h
      · cases h
        exact State.setCore_still (Core.kept_zeroFrame ..)
      · split at h
        · cases h
          exact State.setCore_still (Core.kept_spillRun ..)
        · cases h
          exact State.setCore_still rfl
    · cases h

theorem State.releaseFrame_quiet (s : State) (n fid : Nat) : s.Quiet (s.releaseFrame n fid) := by
  obtain ⟨drr, freed, h⟩ := s.releaseFrame_eq n fid
  exact .trans (State.setCore_quiet (by rfl) (by rfl)) h.quiet

/-! ## The slot unit -/

theorem State.syncDrr_quiet (s : State) (n : Nat) : s.Quiet (s.syncDrr n) := State.setCore_quiet rfl rfl

theorem State.pushReady_still (s : State) (n region fid slot level : Nat) (resume : Bool) :
    s.Still (s.pushReady n region fid slot level resume) := by
  unfold State.pushReady
  dsimp only
  split
  · exact (State.setCore_still (by rfl)).trans (State.syncDrr_quiet ..).toStill
  · split
    · exact (State.Quiet.refl s).toStill
    · exact (s.store_only ..).still.trans (State.store_only ..).still

theorem Core.kept_touch (c : Core) (fid : Nat) : (c.touch fid).kept = c.kept := (Core.kept_stamp ..).trans (c.kept_onFrame ..)

theorem Core.kept_putData (c : Core) (f : Frame) (slot : Nat) (d : SigData) : (c.putData f slot d).kept = c.kept := by
  cases d <;> rfl

theorem Core.kept_lmem (c : Core) (m : List Host.Cell) : ({ c with lmem := m } : Core).kept = c.kept := rfl

theorem State.progress_sameStores (s : State) (r : Nat) : s.SameStores (s.progress r) := by constructor <;> simp

theorem State.fireSlot_still (s : State) (n fid slot : Nat) (f : Frame) (x : Slot) : s.Still (s.fireSlot n fid slot f x) := by
  have hcore : s.Still (s.onCore n fun c => ((c.touch fid).putWord (f.base + 8 * slot) { x with armed := false, count := 0 }.word).onFrame
      fid fun f => { f with armed := eraseNat f.armed slot }) :=
    State.setCore_still ((Core.kept_onFrame ..).trans (Core.kept_touch ..))
  exact (hcore.trans (State.pushReady_still ..)).trans (State.progress_sameStores ..).quiet.toStill

theorem State.slotStep_still (s : State) (n : Nat) (f : Frame) (a : Arrival) : s.Still (s.slotStep n f a) := by
  have hrecord : ∀ d r, s.Still (s.sendRecord d r) := fun d r => (s.sendRecord_sameStores d r).quiet.toStill
  unfold State.slotStep
  dsimp only
  split
  · exact State.setCore_still (Core.kept_putData ..)
  · split
    · have harmed : ∀ x g, s.Still (s.setCore n (((s.core n).putWord (f.base + 8 * a.slot) x).onFrame a.fid g)) :=
        fun x g => State.setCore_still (Core.kept_onFrame ..)
      split
      · exact (harmed _ _).trans (State.fireSlot_still ..)
      · exact harmed _ _
    · split
      · exact hrecord _ _
      · split
        · exact hrecord _ _
        · split
          · exact hrecord _ _
          · split
            · exact hrecord _ _
            · have hcounted : ∀ mem, s.Still (s.setCore n
                  (({ (s.core n).putData f a.slot a.data with lmem := mem } : Core).touch a.fid)) := fun mem =>
                State.setCore_still ((Core.kept_touch ..).trans ((Core.kept_lmem ..).trans (Core.kept_putData ..)))
              split
              · exact (hcounted _).trans (State.fireSlot_still ..)
              · exact hcounted _

theorem State.applySignal_still (s : State) (n : Nat) (f : Frame) (a : Arrival) : s.Still (s.applySignal n f a) :=
  (s.slotStep_still n f a).trans (State.acknowledge_sameStores ..).quiet.toStill

/-! ## Meanings -/

section Meanings

variable {i : Instr} {s : State} {r : Run} {d : XReg}

theorem State.localWrite_keeps (hi : i.storesNow = true) (s : State) (a : Nat) (bs : List Byte) : s.Keeps i (s.localWrite a bs) :=
  State.Still.keeps_of_stores (State.setCore_still (by rfl)) hi

theorem execFalloc_framed {g : Guard} {cls : BitVec 3} : s.Completes (s.Keeps (.falloc g d cls)) (execFalloc g d cls s) :=
  guarded_framed fun r => by
    split
    · trivial
    · next hgive => exact ((State.allocFrame_still hgive).keeps_of_stores rfl).trans (State.writeX_keeps _ (List.mem_singleton_self _) _)

theorem execFfree_framed {g : Guard} {a : XReg} : s.Completes (s.Keeps (.ffree g a)) (execFfree g a s) := by
  have honFrame : ∀ fid f, s.Quiet (s.onCore s.cur fun c => c.onFrame fid f) := fun fid f =>
    State.setCore_quiet (Core.kept_onFrame ..) (Core.lmem_onFrame ..)
  refine guarded_framed fun r => (r.known_checks a).bind fun h => (s.handleFrame_checks ..).bind fun f => ?_
  dsimp only
  split
  · trivial
  · split
    · exact (honFrame _ _).keeps
    · split
      · exact (honFrame _ _).keeps
      · exact (s.releaseFrame_quiet ..).keeps

theorem execSloti_framed {g : Guard} {a b : XReg} : s.Completes (s.Keeps (.sloti g a b)) (execSloti g a b s) := by
  refine guarded_framed fun r => (onKnown_checks fun _ => (s.handleSlot_checks ..).map fun _ => trivial).bind fun _ =>
    (onKnown_checks fun _ => by split <;> trivial).bind fun _ => (r.known2_checks a b).bind fun _ =>
    (s.handleSlot_checks ..).bind fun _ => ?_
  dsimp only
  split
  · split
    · exact ((State.setCore_quiet (by rfl) (by rfl)).trans (State.requestRefill_quiet ..)).keeps
    · trivial
  · split
    · trivial
    · exact (s.applySignal_still ..).keeps_of_stores rfl

theorem execSlotr_framed {g : Guard} {a : XReg} : s.Completes (s.Keeps (.slotr g d a)) (execSlotr g d a s) := by
  refine guarded_framed fun r => (r.known_checks a).bind fun h => (s.handleSlot_checks ..).bind fun _ => ?_
  dsimp only
  split
  · trivial
  · exact s.writeX_keeps (List.mem_singleton_self _) _

theorem execLdl_framed {g : Guard} {sz : Size} {u : Bool} {a : XReg} {off : BitVec 8} :
    s.Completes (s.Keeps (.ldl g sz u d a off)) (execLdl g sz u d a off s) := by
  have hsym : ∀ r st, s.Keeps (.ldl g sz u d a off) (s.symFor r d.toNat st false).2 := fun r st =>
    State.symFor_keeps (.inr (by simp [Instr.dests]))
  refine guarded_framed fun r => ?_
  dsimp only
  split
  · refine (Check.stop_checks _).bind fun _ => (s.checkAccess_checks ..).bind fun _ => (s.acquired_checks r).bind fun _ =>
      (s.supply_checks ..).bind fun _ => (s.stageRoom_checks r).bind fun _ => ?_
    exact (hsym _ _).trans (State.enter_quiet _ _ (by nofun)).keeps
  · refine (s.acquired_checks r).bind fun _ => ?_
    split
    · trivial
    · refine (s.supply_checks ..).bind fun _ => ?_
      split
      · trivial
      · exact (hsym _ _).trans (State.setCore_quiet (by rfl) (by rfl)).keeps

end Meanings

end Sys2Proof.Machine
end

section
/-! SUPPORT. The frame of the instructions whose meanings stand alone: control, signals, memory, engines and the system
instructions. -/

namespace Sys2Proof.Machine

open Sys2Proof

section Instructions

variable {s : State} {g : Guard}

/-! ## Control (R92, R93, R337, R351, R359, R371, R376) -/

theorem Run.setIdx_keeps {i : Instr} (r : Run) {r' : Run}
    (h : r' = { r with block := r'.block, len := r'.len, parkw := r'.parkw, vuse := r'.vuse, priv := r'.priv, idx := r'.idx,
                       rep := r'.rep, bpSkip := r'.bpSkip }) : r.Keeps i r' := by
  rw [h]
  exact ⟨fun _ _ => rfl, fun _ => ⟨rfl, rfl, rfl, rfl⟩, rfl, rfl, rfl, rfl, rfl, rfl⟩

/-- A branch changes where its threadlet stands. -/
theorem State.branch_keeps {i : Instr} {r r' : Run} {off : Int} (h : s.branch r off = .ok r') : r.Keeps i r' := by
  unfold State.branch at h
  dsimp only at h
  repeat' split at h
  all_goals cases h
  all_goals exact Run.setIdx_keeps r rfl

theorem State.jumpTo_keeps {i : Instr} {r r' : Run} {p : Word} (h : s.jumpTo r p = .ok r') : r.Keeps i r' := by
  unfold State.jumpTo at h
  dsimp only at h
  repeat' split at h
  all_goals cases h
  all_goals exact Run.setIdx_keeps r rfl

theorem guardedEntry_framed {i : Instr} {reads : Run → Option (Nat × Nat)} {f : State → Run → Except Stop Run}
    (hi : i.readsNow = true) (hf : ∀ t r r', f t r = .ok r' → r.Keeps i r') : s.Completes (s.Keeps i) (guardedEntry g reads f s) := by
  have hread : ∀ r, s.Still (s.entryRead r (reads r)) := fun r =>
    ⟨(s.entryRead_sameButCode r _).cur, fun n => by rw [State.core_of_cores (s.entryRead_sameButCode r _).cores]⟩
  refine guardedEntry_completes (s.next_keeps 1) (fun r r' hr hx => ?_) fun r z _ =>
    ((hread r).trans (State.awaitPage_still ..)).keeps_of_reads hi
  have hrun : ((s.entryRead r (reads r)).core (s.entryRead r (reads r)).cur).run = some r := by
    rw [(hread r).cur]; exact ((hread r).run _).trans hr
  have hset := State.setRun_keeps hrun (hf _ r r' hx)
  rw [(hread r).cur] at hset
  exact ((hread r).keeps_of_reads hi).trans hset

theorem execB_framed {off : BitVec 21} : s.Completes (s.Keeps (.br g off)) (execB g off s) :=
  guardedEntry_framed rfl fun _ _ _ => State.branch_keeps

/-- What a transfer computed from another result. -/
theorem exists_ok_of_bind {α β : Type} {x : Except Stop α} {f : α → Except Stop β} {b : β} (h : x.bind f = .ok b) :
    ∃ a, x = .ok a ∧ f a = .ok b := by
  cases x with
  | error e => cases h
  | ok a => exact ⟨a, rfl, h⟩

theorem execCall_framed {off : BitVec 21} : s.Completes (s.Keeps (.call g off)) (execCall g off s) :=
  guardedEntry_framed rfl fun t r r' h => by
    cases hr1 : t.branch r off.toInt with
    | error e => rw [hr1] at h; cases h
    | ok r1 =>
      rw [hr1] at h
      cases h
      exact (State.branch_keeps hr1).trans (Run.write_keeps (List.mem_singleton_self _) _ _)

theorem execJr_framed {a : XReg} : s.Completes (s.Keeps (.jr g a)) (execJr g a s) :=
  guardedEntry_framed rfl fun t r r' h => by
    obtain ⟨p, -, hp⟩ := exists_ok_of_bind h
    exact State.jumpTo_keeps hp

theorem execRet_framed : s.Completes (s.Keeps (.ret g)) (execRet g s) :=
  guardedEntry_framed rfl fun t r r' h => by
    obtain ⟨p, -, hp⟩ := exists_ok_of_bind h
    exact State.jumpTo_keeps hp

theorem execRep_framed {a : XReg} {n : BitVec 7} : s.Completes (s.Keeps (.rep g a n)) (execRep g a n s) :=
  State.running_completes fun r hr => by
    have hcheck : Checks (repBodyOk n s r) := by
      unfold repBodyOk
      dsimp only
      split <;> trivial
    split
    · next e he => exact State.settle_completes (Leaves.error (he ▸ hcheck)) r 1
    · split
      · refine State.settle_completes ?_ r 1
        split
        · trivial
        · refine (r.known_checks a).bind fun c => ?_
          dsimp only
          split
          · trivial
          · refine State.setRun_keeps hr ?_
            split <;> exact Run.setIdx_keeps r rfl
      · exact .inr (s.next_keeps 1)

theorem execFin_framed : s.Completes (s.Keeps (.fin g)) (execFin g s) :=
  guardedJump_framed fun r => (State.run_retire ..).trans (by rw [State.endRun, State.core_onCore, if_pos rfl]; rfl)

theorem execPark_framed {a : XReg} : s.Completes (s.Keeps (.park g a)) (execPark g a s) :=
  guardedJump_framed fun r => (r.known_checks a).bind fun w => by
    split
    · trivial
    · exact State.run_park ..

theorem execBrk_framed {code : BitVec 15} : s.Completes (s.Keeps (.brk g code)) (execBrk g code s) :=
  guarded_framed fun r => by
    split
    · trivial
    · exact State.Keeps.refl s

/-! ## Signals and triggers (R284, R333, R336, R384-R390) -/

theorem execSig_framed {rel n : Bool} {a : XReg} : s.Completes (s.Keeps (.sig g rel n a)) (execSig g rel n a s) := by
  refine guardedN_framed (fun r => ?_) fun _ => (nullSignal_quiet ..).keeps
  split
  · exact (s.issueSignal_quiet ..).keeps
  · exact (s.deferSignal_quiet ..).keeps

theorem execSigd_framed {rel n : Bool} {a b : XReg} {dw : BitVec 5} :
    s.Completes (s.Keeps (.sigd g rel n a b dw)) (execSigd g rel n a b dw s) := by
  refine guardedN_framed (fun r => ?_) fun _ => (nullSignal_quiet ..).keeps
  split
  · exact (s.issueSignal_quiet ..).keeps
  · exact (s.deferSignal_quiet ..).keeps

theorem execSigv_framed {rel n : Bool} {a : XReg} {vb : VReg} {dw : BitVec 5} :
    s.Completes (s.Keeps (.sigv g rel n a vb dw)) (execSigv g rel n a vb dw s) :=
  guardedN_framed (fun r => (r.known_checks a).bind fun _ => (s.issueSignal_quiet ..).keeps) fun _ => (nullSignal_quiet ..).keeps

theorem execSref_framed {d a : XReg} {imm : BitVec 11} : s.Completes (s.Keeps (.sref g d a imm)) (execSref g d a imm s) :=
  guarded_framed fun r => (r.known_checks a).bind fun h => by
    split
    · trivial
    · exact s.writeX_keeps (List.mem_singleton_self _) _

theorem execAmsg_framed {xg : XReg} : s.Completes (s.Keeps (.amsg g xg)) (execAmsg g xg s) :=
  guarded_framed fun r => (onKnown_checks fun _ => need_checks ..).bind fun _ => (allKnown_checks _).bind fun _ =>
    s.issueOp_leaves r ((s.enter_still r _).keeps_of_reads rfl)

theorem execArm_framed {xg : XReg} : s.Completes (s.Keeps (.arm g xg)) (execArm g xg s) :=
  guarded_framed fun r => (onKnown_checks fun _ => need_checks ..).bind fun _ => (onKnown_checks fun _ => need_checks ..).bind fun _ =>
    (onKnown_checks fun _ => (need_checks ..).bind fun _ => (need_checks ..).bind fun _ => need_checks ..).bind fun _ =>
    (allKnown_checks _).bind fun _ => (s.issueOp_quiet r (by nofun)).keeps

/-! ## Memory (R354-R356, R360, R373, R392, R413, R420) -/

theorem execStz_framed {vc : VReg} {a b : XReg} : s.Completes (s.Keeps (.stz g vc a b)) (execStz g vc a b s) := by
  refine guarded_framed fun r => (onKnown_checks fun _ => by split <;> trivial).bind fun _ => (r.known2_checks a b).bind fun _ => ?_
  dsimp only
  split
  · trivial
  · exact (need_checks ..).bind fun _ => (State.localWrite_keeps rfl ..).trans (State.writeX_keeps _ (List.mem_singleton_self _) _)

theorem execLdz_framed {vd : VReg} {a b : XReg} : s.Completes (s.Keeps (.ldz g vd a b)) (execLdz g vd a b s) := by
  refine guarded_framed fun r => (onKnown_checks fun _ => by split <;> trivial).bind fun _ => (r.known2_checks a b).bind fun _ => ?_
  dsimp only
  split
  · trivial
  · refine (need_checks ..).bind fun _ => (s.localRead_checks ..).bind fun m => ?_
    split
    · trivial
    · refine (need_checks ..).bind fun _ => (s.localRead_checks ..).bind fun bs => ?_
      split
      · trivial
      · exact (s.writeV_keeps rfl _ _).trans (State.writeX_keeps _ (List.mem_singleton_self _) _)

end Instructions

end Sys2Proof.Machine
end

section
/-! SUPPORT. The frame of the instructions of memory, of the engines and of the system, and of the vector and scalar
instructions that share no meaning. -/

namespace Sys2Proof.Machine

open Sys2Proof

section Instructions

variable {s : State} {g : Guard}

/-! ## Global memory (R354-R356, R373) -/

/-- The body of an operation that is no AMSG. -/
def OpBody.NoAmsg (b : OpBody) : Prop := ∀ hd a ws, b ≠ .amsg hd a ws

theorem gldBody_noAmsg {core fid : Nat} {lu : Bool} {evp : Evp} {sz : Size} {byt : Bool} {loc addr y : Word} :
    Leaves OpBody.NoAmsg (s.gldBody core fid lu evp sz byt loc addr y).stop := by
  unfold State.gldBody
  repeat' split
  case isFalse.isFalse.isFalse.isFalse => exact nofun
  all_goals trivial

theorem gstBody_noAmsg {sz : Size} {addr val : Word} {tag : Option Word} : Leaves OpBody.NoAmsg (gstBody sz addr val tag).stop := by
  unfold gstBody
  repeat' split
  · trivial
  · trivial
  · exact nofun
  · trivial
  · exact nofun

theorem State.gldKnown_checks (s : State) (r : Run) (sz : Size) (loc addr : RVal) (y : Option RVal) :
    Checks (s.gldKnown r sz loc addr y) :=
  (onKnown_checks fun _ => (need_checks ..).bind fun _ => need_checks ..).bind fun _ =>
    (onKnown_checks fun _ => (need_checks ..).bind fun _ => need_checks ..).bind fun _ => onKnown_checks fun w => by
      split
      · exact Check.stop_checks _
      · trivial

theorem execGld_framed {lu : Bool} {evp : Evp} {sz : Size} {byt n : Bool} {xg y : XReg} :
    s.Completes (s.Keeps (.gld g lu evp sz byt n xg y)) (execGld g lu evp sz byt n xg y s) := by
  refine guardedN_framed (fun r => Leaves.keeps ?_) fun _ => (nullSignal_quiet ..).keeps
  extract_lets ops
  split
  · refine (s.gldKnown_checks ..).bind fun _ => ?_
    split
    · exact (onKnown_checks fun _ => s.checkAccess_checks ..).bind fun _ => s.defer_quiet ..
    · exact s.defer_quiet ..
  · refine (allKnown_checks _).bind fun ws => gldBody_noAmsg.bind fun body hbody => ?_
    dsimp only
    split
    · exact (Check.stop_checks _).bind fun _ => (s.checkAccess_checks ..).bind fun _ => s.issueOp_quiet r hbody
    · exact (s.checkAccess_checks ..).bind fun _ => s.issueOp_quiet r hbody

theorem execGst_framed {sz : Size} {t : Bool} {c a : XReg} {off : BitVec 8} :
    s.Completes (s.Keeps (.gst g sz t c a off)) (execGst g sz t c a off s) := by
  refine guarded_framed fun r => Leaves.keeps ?_
  extract_lets addr tag ops
  split
  · refine (onKnown_checks fun _ => (Check.stop_checks _).map fun _ => trivial).bind fun _ =>
      (onKnown_checks fun _ => need_checks ..).bind fun _ => ?_
    split
    · exact (onKnown_checks fun _ => s.checkAccess_checks ..).bind fun _ => s.defer_quiet ..
    · exact s.defer_quiet ..
  · exact (allKnown_checks _).bind fun ws => gstBody_noAmsg.bind fun body hbody =>
      (s.checkAccess_checks ..).bind fun _ => s.issueOp_quiet r hbody

theorem execGstv_framed {vc : VReg} {a : XReg} {m : MReg} {off : BitVec 8} :
    s.Completes (s.Keeps (.gstv g vc a m off)) (execGstv g vc a m off s) := by
  refine guarded_framed fun r => Leaves.keeps ((r.known_checks a).bind fun _ => (need_checks ..).bind fun _ =>
    (need_checks ..).bind fun _ => ?_)
  dsimp only
  split
  · exact (s.routed_checks ..).bind fun _ => (s.watch_checks ..).bind fun _ => s.issueOp_quiet r (by nofun)
  · exact (s.watch_checks ..).bind fun _ => by
      split
      · exact .refl s
      · exact s.issueOp_quiet r (by nofun)

theorem execPref_framed {evp : Evp} {a : XReg} {off : BitVec 11} : s.Completes (s.Keeps (.pref g evp a off)) (execPref g evp a off s) :=
  guarded_framed fun r => Leaves.keeps ((r.known_checks a).bind fun _ => by
    dsimp only
    split
    · exact .refl s
    · exact (s.watch_checks ..).bind fun _ => s.issueOp_quiet r (by nofun))

/-! ## Local memory (R360, R392, R413) -/

theorem execLd_framed {sz : Size} {u : Bool} {d a : XReg} {off : BitVec 8} :
    s.Completes (s.Keeps (.ld g sz u d a off)) (execLd g sz u d a off s) :=
  guarded_framed fun r => (r.known_checks a).bind fun _ => (s.localAddr_checks ..).bind fun _ =>
    (s.localRead_checks ..).bind fun _ => s.writeX_keeps (List.mem_singleton_self _) _

theorem execSt_framed {sz : Size} {c a : XReg} {off : BitVec 8} : s.Completes (s.Keeps (.st g sz c a off)) (execSt g sz c a off s) :=
  guarded_framed fun r => (onKnown_checks fun _ => s.localAddr_checks ..).bind fun _ => (r.known2_checks a c).bind fun _ =>
    State.localWrite_keeps rfl ..

theorem execVld_framed {vd : VReg} {a : XReg} {imm : BitVec 11} : s.Completes (s.Keeps (.vld g vd a imm)) (execVld g vd a imm s) :=
  guarded_framed fun r => (r.known_checks a).bind fun _ => (s.localAddr_checks ..).bind fun _ =>
    (s.localRead_checks ..).bind fun _ => s.writeV_keeps rfl _ _

theorem execVst_framed {vc : VReg} {a : XReg} {imm : BitVec 11} : s.Completes (s.Keeps (.vst g vc a imm)) (execVst g vc a imm s) :=
  guarded_framed fun r => (r.known_checks a).bind fun _ => (s.localAddr_checks ..).bind fun _ => State.localWrite_keeps rfl ..

/-! ## Fences and updates (R348, R358, R397-R399) -/

theorem execFence_framed {w u e : Bool} {scope : Scope} : s.Completes (s.Keeps (.fence g w u e scope)) (execFence g w u e scope s) :=
  guarded_framed fun r => Leaves.keeps (by
    dsimp only
    split
    · exact (s.effectsResolved_checks r).bind fun _ => s.issueFence_quiet ..
    · exact s.issueFence_quiet ..)

theorem execIflush_framed {a b : XReg} : s.Completes (s.Keeps (.iflush g a b)) (execIflush g a b s) :=
  guarded_framed fun r => Leaves.keeps ((r.known2_checks a b).bind fun _ => by
    dsimp only
    split
    · trivial
    · exact s.issueFence_quiet ..)

theorem execUpd_framed {a b : XReg} {k : BitVec 3} : s.Completes (s.Keeps (.upd g a b k)) (execUpd g a b k s) :=
  guarded_framed fun r => Leaves.keeps (by
    split
    · exact s.issuePairs_quiet ..
    · exact (onKnown_checks fun _ => (Check.stop_checks _).map fun _ => trivial).bind fun _ => s.defer_quiet ..)

theorem execUpdv_framed {xd : XReg} {va vb : VReg} {m : MReg} {k : BitVec 3} :
    s.Completes (s.Keeps (.updv g xd va vb m k)) (execUpdv g xd va vb m k s) :=
  guarded_framed fun r => Leaves.keeps (by
    split
    · exact s.issuePairs_quiet ..
    · exact s.defer_quiet ..)

theorem execUapply_framed {a b : XReg} : s.Completes (s.Keeps (.uapply g a b)) (execUapply g a b s) :=
  guarded_framed fun r => Leaves.keeps ((r.known2_checks a b).bind fun _ => by
    dsimp only
    split
    · exact .refl s
    · split
      · trivial
      · exact s.issueOp_quiet r (by nofun))

/-! ## Engines (R341, R342, R357, R366-R368, R374, R391) -/

theorem copy_framed {i : Instr} {n byt : Bool} {kind : CopyKind} {grp len : Run → List RVal} {y : XReg} :
    s.Completes (s.Keeps i) (guardedN g n (fun s r => s.issueCopy r kind (grp r) y) (fun s r => nullBytes y byt (len r) s r) s) :=
  guardedN_framed (fun _ => (s.issueCopy_quiet ..).keeps) fun _ => (nullBytes_quiet ..).keeps

theorem tile_framed {i : Instr} {n : Bool} {kind : State → Run → TileKind} {grp : Run → List RVal} {y : XReg} :
    s.Completes (s.Keeps i) (guardedN g n (fun s r => s.issueTile r (kind s r) (grp r) y) (nullSignal y false 1) s) :=
  guardedN_framed (fun _ => (s.issueTile_quiet ..).keeps) fun _ => (nullSignal_quiet ..).keeps

theorem execRcfg_framed {q : BitVec 3} {xg : XReg} : s.Completes (s.Keeps (.rcfg g q xg)) (execRcfg g q xg s) :=
  guarded_framed fun _ => Leaves.keeps ((onKnown_checks fun _ => need_checks ..).bind fun _ => (onKnown_checks fun _ => need_checks ..).bind
    fun _ => (onKnown_checks fun _ => need_checks ..).bind fun _ =>
    (onKnown_checks fun _ => (onKnown_checks fun _ => need_checks ..).bind fun _ => onKnown_checks fun _ => need_checks ..).bind
    fun _ => (allKnown_checks _).bind fun _ => (need_checks ..).bind fun _ => s.issueTile_quiet ..)

theorem execRadv_framed {q : BitVec 3} {xg : XReg} : s.Completes (s.Keeps (.radv g q xg)) (execRadv g q xg s) :=
  guarded_framed fun r => Leaves.keeps (by
    split
    · trivial
    · exact (need_checks ..).bind fun _ => (r.known_checks xg).bind fun _ => (need_checks ..).bind fun _ =>
        State.setCore_quiet (by rfl) (by rfl))

theorem execSscfg_framed {ss : BitVec 2} {xg : XReg} : s.Completes (s.Keeps (.sscfg g ss xg)) (execSscfg g ss xg s) :=
  guarded_framed fun _ => Leaves.keeps ((onKnown_checks fun _ => need_checks ..).bind fun _ => (onKnown_checks fun _ => need_checks ..).bind
    fun _ => (allKnown_checks _).bind fun _ => (need_checks ..).bind fun _ => s.issueTile_quiet ..)

/-! ## The system instructions (R375, R378, R394, R395, R415, R417) -/

theorem needPriv_checks (s : State) (r : Run) : Checks (needPriv s r) := by
  unfold needPriv
  split <;> trivial

theorem State.mayWrite_checks (s : State) (r : Run) (n : Nat) : Checks (s.mayWrite r n) := by
  unfold State.mayWrite
  repeat' split
  all_goals trivial

theorem execRdsr_framed {d : XReg} {num : BitVec 11} : s.Completes (s.Keeps (.rdsr g d num)) (execRdsr g d num s) :=
  guardedAfter_framed (fun r => by split <;> trivial) fun r => s.writeX_keeps (List.mem_singleton_self _) _

/-- A change of the landing channels and debug registers by WRSR. -/
theorem State.wrsr_keeps {n : BitVec 11} {a : XReg} {f : Core → Core}
    (hf : (f (s.core s.cur)).kept.1 = (s.core s.cur).kept.1) (hl : (f (s.core s.cur)).lmem = (s.core s.cur).lmem) :
    s.Keeps (.wrsr g a n) (s.onCore s.cur f) := by
  have hself : (s.onCore s.cur f).core s.cur = f (s.core s.cur) := (State.core_onCore ..).trans (if_pos rfl)
  refine ⟨rfl, fun r' hr' => ⟨r', ?_, .refl r'⟩, fun n hn => by rw [State.core_onCore, if_neg hn], ?_, ?_, ?_, ?_, fun h => absurd rfl (h g a n),
    fun _ _ => State.sameBytes_setCore s hl⟩
  · rw [hself] at hr'
    exact (congrArg (·.1) hf).symm.trans hr'
  all_goals rw [hself]
  · exact congrArg (·.2.1) hf
  · exact congrArg (·.2.2.1) hf
  · exact congrArg (·.2.2.2.1) hf
  · exact congrArg (·.2.2.2.2) hf

theorem execWrsr_framed {a : XReg} {num : BitVec 11} : s.Completes (s.Keeps (.wrsr g a num)) (execWrsr g a num s) := by
  refine guardedAfter_framed (fun r => s.mayWrite_checks ..) fun r => (r.known_checks a).bind fun w => ?_
  show s.Keeps _ (s.writeSpecial r num.toNat w)
  unfold State.writeSpecial
  split
  · exact s.onRun_keeps fun _ => Run.flags_keeps rfl rfl
  · refine State.wrsr_keeps ?_ ?_
    all_goals
      repeat' split
      all_goals rfl

theorem rgnctl_framed {i : Instr} {op : Nat} {xg y : XReg} : s.Completes (s.Keeps i) (rgnctl op g xg y s) :=
  guardedAfter_framed (needPriv_checks s) fun r => Leaves.keeps ((s.cmdOperands_checks ..).bind fun _ =>
    s.issueRelease_quiet r (by nofun))

theorem resumeForm_framed {i : Instr} {form : Nat} {a : XReg} : s.Completes (s.Keeps i) (resumeForm form g a s) :=
  guardedAfter_framed (needPriv_checks s) fun r => Leaves.keeps ((r.known_checks a).bind fun _ => (need_checks ..).bind fun _ =>
    s.issueRelease_quiet r (by nofun))

theorem execTlbinvPg_framed {a b : XReg} : s.Completes (s.Keeps (.tlbinvPg g a b)) (execTlbinvPg g a b s) :=
  guardedAfter_framed (needPriv_checks s) fun r => Leaves.keeps ((onKnown_checks fun _ => need_checks ..).bind fun _ =>
    (onKnown_checks fun _ => need_checks ..).bind fun _ => (onKnown_checks fun _ => need_checks ..).bind fun _ =>
    (r.known2_checks a b).bind fun _ => s.issueFence_quiet ..)

theorem execTlbinvAs_framed {b : XReg} : s.Completes (s.Keeps (.tlbinvAs g b)) (execTlbinvAs g b s) :=
  guardedAfter_framed (needPriv_checks s) fun r => Leaves.keeps ((r.known_checks b).bind fun _ => (need_checks ..).bind fun _ =>
    (need_checks ..).bind fun _ => s.issueFence_quiet ..)

theorem execTlbinvAll_framed : s.Completes (s.Keeps (.tlbinvAll g)) (execTlbinvAll g s) :=
  guardedAfter_framed (needPriv_checks s) fun _ => Leaves.keeps ((need_checks ..).bind fun _ => s.issueFence_quiet ..)

theorem execWaycfg_framed {a b : XReg} : s.Completes (s.Keeps (.waycfg g a b)) (execWaycfg g a b s) :=
  guardedAfter_framed (needPriv_checks s) fun r => Leaves.keeps ((need_checks ..).bind fun _ =>
    (onKnown_checks fun _ => need_checks ..).bind fun _ => (onKnown_checks fun _ => need_checks ..).bind fun _ =>
    (onKnown_checks fun _ => need_checks ..).bind fun _ => (onKnown_checks fun _ => need_checks ..).bind fun _ =>
    (r.known2_checks a b).bind fun _ => s.issueOp_quiet r (by nofun))

/-! ## Scalars and vectors -/

theorem execFfma_framed {prec : Prec} {sat : Bool} {rnd : Rnd} {d a b : XReg} :
    s.Completes (s.Keeps (.ffma g prec sat rnd d a b)) (execFfma g prec sat rnd d a b s) := by
  have hd : d.toNat ∈ (Instr.ffma g prec sat rnd d a b).dests := List.mem_singleton_self _
  refine guarded_framed fun r => ?_
  dsimp only
  split
  · exact State.writeFp_keeps rfl hd _ _
  · exact record_keeps hd
  · exact record_keeps hd
  · exact record_keeps hd
  · trivial

theorem execVx_framed {op : Vop} {sat : Bool} {rnd : Rnd} {vd va vb : VReg} {m : MReg} :
    s.Completes (s.Keeps (.vx g op sat rnd vd va vb m)) (execVx g op sat rnd vd va vb m s) := by
  refine guarded_framed fun r => ?_
  cases op with
  | rcp | rsq | exp2 | log2 => exact vmath_keeps (rfl)
  | _ => exact varith_keeps rfl

end Instructions

end Sys2Proof.Machine
end

section
/-! SUPPORT. The instructions that read memory as they issue: AMSG and the transfers change no byte but in the lines whose
pending updates a read applies (R198, R205, R252). -/

namespace Sys2Proof.Machine

open Sys2Proof

/-- The bytes of local and host memory are as they were, and so are those of global memory in every line that no binding
covers (R252). -/
structure State.Reads (s t : State) : Prop where
  bindings : t.bindings = s.bindings
  hostMem : t.hostMem = s.hostMem
  lmem : ∀ n, (t.core n).lmem = (s.core n).lmem
  mem : Memory.wf s.mem = true → Memory.wf t.mem = true ∧
    ∀ a, s.bindingAt (a / 128 * 128) = none → Cells.get t.mem a = Cells.get s.mem a

namespace State.Reads

variable {s t u : State}

theorem refl (s : State) : s.Reads s := ⟨rfl, rfl, fun _ => rfl, fun h => ⟨h, fun _ _ => rfl⟩⟩

theorem trans (h : s.Reads t) (k : t.Reads u) : s.Reads u where
  bindings := k.bindings.trans h.bindings
  hostMem := k.hostMem.trans h.hostMem
  lmem n := (k.lmem n).trans (h.lmem n)
  mem hs := by
    obtain ⟨ht, hst⟩ := h.mem hs
    obtain ⟨hu, htu⟩ := k.mem ht
    refine ⟨hu, fun a ha => (htu a ?_).trans (hst a ha)⟩
    rw [State.bindingAt, h.bindings]
    exact ha

theorem of_sameButCode (h : s.SameButCode t) : s.Reads t where
  bindings := by rw [h.1]
  hostMem := by rw [h.1]
  lmem n := by rw [State.core_of_cores h.cores]
  mem := h.2.2

/-- Nothing is read where every memory is as it was. -/
theorem of_sameStores (h : s.SameStores t) (hb : t.bindings = s.bindings) : s.Reads t where
  bindings := hb
  hostMem := h.hostMem
  lmem n := by rw [h.core]
  mem hs := ⟨by rwa [h.mem], fun _ _ => by rw [h.mem]⟩

theorem of_setCore {n : Nat} {c : Core} (hl : c.lmem = (s.core n).lmem) : s.Reads (s.setCore n c) where
  bindings := rfl
  hostMem := rfl
  lmem m := by
    rw [State.core_setCore]
    split
    · next h => rw [hl, h]
    · rfl
  mem hs := ⟨hs, fun _ _ => rfl⟩

end State.Reads

section Reads

variable {s : State} {g : Guard}

theorem State.next_reads (s : State) (n : Nat) : s.Reads (s.next n) := by
  unfold State.next
  split
  · exact .refl s
  · exact .of_setCore rfl

/-! ## AMSG (R332) -/

theorem State.bindings_send (s : State) (p : Packet) : (s.send p).bindings = s.bindings := by
  unfold State.send
  split
  · dsimp only
    split <;> rfl
  · rfl

theorem State.sendRecord_reads (s : State) (d : Nat) (r : Rec) : s.Reads (s.sendRecord d r) := by
  refine .of_sameStores (s.sendRecord_sameStores d r) ?_
  have hundeliverable : ∀ l ws, (s.undeliverable d l ws).bindings = s.bindings := fun l ws => by
    simp only [State.undeliverable, State.suspend, State.onRegion]
    split
    · exact s.bindings_send _
    · exact s.bindings_send _
  unfold State.sendRecord
  dsimp only
  split
  · exact hundeliverable _ _
  · split
    · exact s.bindings_send _
    · split
      · exact hundeliverable _ _
      · split
        · exact hundeliverable _ _
        · exact s.bindings_send _

theorem State.inject_reads (s : State) (n region : Nat) (cls : PClass) (dst : Agent) (b : PBody) :
    s.Reads (s.inject n region cls dst b) := by
  refine .of_sameStores (s.inject_sameStores ..) ?_
  simp only [State.inject, State.progress, State.onRegion]
  split
  · exact s.bindings_send _
  · exact s.bindings_send _

theorem State.affEntry_reads (s : State) (a : Agent) (g : Region) (region i : Nat) : s.Reads (s.affEntry a g region i).2 := by
  have hread : s.Reads (s.fetch (g.afftab + 2 * i) 2).2.2 := .of_sameButCode (s.fetch_sameButCode ..)
  have hset : ∀ (t : State) l, t.Reads (t.setAffCache a l) := fun t l => by
    unfold State.setAffCache
    split
    · exact .of_setCore (by rfl)
    · exact .of_sameStores ⟨rfl, rfl, rfl, rfl⟩ rfl
    · exact .refl t
  unfold State.affEntry
  dsimp only
  split
  · exact hread.trans (hset ..)
  · split
    · exact hread
    · exact (hread.trans (.of_sameStores (t := (State.choose _ 2).2) ⟨rfl, rfl, rfl, rfl⟩ rfl)).trans (hset ..)

theorem State.ownerOf_reads (s : State) (a : Agent) (region : Nat) (addr : Word) : s.Reads (s.ownerOf a region addr).2 := by
  unfold State.ownerOf
  split
  · exact .refl s
  · dsimp only
    split <;> exact s.affEntry_reads ..

theorem State.launch_amsg_reads (s : State) (n : Nat) {o : Op} {handler : Nat} {addr : Word} {ws : List Word}
    (ho : o.body = .amsg handler addr ws) : s.Reads (s.launch n o) := by
  have howner := s.ownerOf_reads (.core n) o.org.region addr
  unfold State.launch
  rw [ho]
  dsimp only
  split
  · next h => exact (h ▸ howner).trans (State.inject_reads ..)
  · next h => exact (h ▸ howner).trans (State.sendRecord_reads ..)

theorem State.enter_amsg_reads (s : State) (r : Run) (handler : Nat) (addr : Word) (ws : List Word) :
    s.Reads (s.enter r (.amsg handler addr ws)) := by
  have hseq : s.Reads (s.newSeq s.cur).2 := .of_setCore rfl
  refine hseq.trans ?_
  show State.Reads _ (State.submit ..)
  unfold State.submit
  split
  · exact .of_setCore rfl
  · exact State.launch_amsg_reads _ _ rfl

theorem execAmsg_reads {xg : XReg} : s.Completes s.Reads (execAmsg g xg s) :=
  guarded_completes (s.next_reads 1) fun r _ => (onKnown_checks fun _ => need_checks ..).bind fun _ => (allKnown_checks _).bind fun _ =>
    s.issueOp_leaves r ((s.enter_amsg_reads ..).trans (State.next_reads ..))

/-! ## Transfers -/

/-- A transfer that waits for a page changes no byte, unless the page's zeroing begins with it (R205). -/
theorem State.awaitPage_reads (s : State) (z : Option Zeroing) (h : (s.awaitPage z).zeroing = s.zeroing) :
    s.Reads (s.awaitPage z) := by
  unfold State.awaitPage at h ⊢
  split at h
  · split
    · exact .of_sameStores ⟨rfl, rfl, rfl, rfl⟩ rfl
    · next hz =>
      rw [if_neg hz] at h
      exact absurd (congrArg List.length h) (by simp [State.beginZeroing])
  · exact .refl s

theorem guardedEntry_reads {reads : Run → Option (Nat × Nat)} {f : State → Run → Except Stop Run} :
    s.Completes (fun t => t.zeroing = s.zeroing → s.Reads t) (guardedEntry g reads f s) := by
  have hread : ∀ r, s.Reads (s.entryRead r (reads r)) := fun r => .of_sameButCode (s.entryRead_sameButCode ..)
  refine guardedEntry_completes (fun _ => s.next_reads 1) (fun r r' _ _ _ => (hread r).trans (.of_setCore rfl)) fun r z _ hz =>
    (hread r).trans (State.awaitPage_reads _ z (hz.trans ?_))
  rw [(s.entryRead_sameButCode r _).1]

theorem exec_reads {i : Instr} (hi : i.readsNow = true) (s : State) :
    s.Completes (fun t => t.zeroing = s.zeroing → s.Reads t) (exec i s) := by
  cases i with
  | br => rw [exec_br]; exact guardedEntry_reads
  | call => rw [exec_call]; exact guardedEntry_reads
  | jr => rw [exec_jr]; exact guardedEntry_reads
  | ret => rw [exec_ret]; exact guardedEntry_reads
  | amsg => rw [exec_amsg]; exact fun t ht => (execAmsg_reads t ht).imp_right fun h _ => h
  | _ => exact absurd hi nofun

end Reads

end Sys2Proof.Machine
end

section
/-! PROOF. O48: what every instruction leaves unchanged while its threadlet goes on Running. -/

namespace Sys2Proof.Machine

open Sys2Proof

/-- No atomic of one operand moves 16 bytes. -/
theorem atomicBytes_ne (sz : ASize) : sz.bytes ≠ 16 := by cases sz <;> decide

theorem sizedAtomic_framed {s : State} {g : Guard} {i : Instr} {k : AtomKind} {sz : ASize} {ord : Ord} {d a b : XReg}
    (hd : d.toNat ∈ i.dests) : s.Completes (s.Keeps i) (guarded g 1 (atomic k sz.bytes ord d a b) s) :=
  guarded_framed fun _ => atomic_keeps hd fun h => absurd h (atomicBytes_ne sz)

/-- Every instruction keeps to its frame, constructor by constructor, each through the operation it shares. -/
theorem exec_framed {i : Instr} (hi : i.isEvent = false) (s : State) : s.Completes (s.Keeps i) (exec i s) := by
  cases i with
  | add => rw [exec_add]; exact guarded_framed fun _ => aluFold_keeps (List.mem_singleton_self _)
  | sub => rw [exec_sub]; exact guarded_framed fun _ => aluFold_keeps (List.mem_singleton_self _)
  | and => rw [exec_and]; exact guarded_framed fun _ => alu2_keeps (List.mem_singleton_self _)
  | or => rw [exec_or]; exact guarded_framed fun _ => alu2_keeps (List.mem_singleton_self _)
  | xor => rw [exec_xor]; exact guarded_framed fun _ => alu2_keeps (List.mem_singleton_self _)
  | shl => rw [exec_shl]; exact guarded_framed fun _ => shiftLeft_keeps (List.mem_singleton_self _)
  | shr => rw [exec_shr]; exact guarded_framed fun _ => alu2_keeps (List.mem_singleton_self _)
  | sar => rw [exec_sar]; exact guarded_framed fun _ => alu2_keeps (List.mem_singleton_self _)
  | min => rw [exec_min]; exact guarded_framed fun _ => alu2_keeps (List.mem_singleton_self _)
  | max => rw [exec_max]; exact guarded_framed fun _ => alu2_keeps (List.mem_singleton_self _)
  | minu => rw [exec_minu]; exact guarded_framed fun _ => alu2_keeps (List.mem_singleton_self _)
  | maxu => rw [exec_maxu]; exact guarded_framed fun _ => alu2_keeps (List.mem_singleton_self _)
  | mul => rw [exec_mul]; exact guarded_framed fun _ => aluFold_keeps (List.mem_singleton_self _)
  | mulh => rw [exec_mulh]; exact guarded_framed fun _ => alu2_keeps (List.mem_singleton_self _)
  | mulhu => rw [exec_mulhu]; exact guarded_framed fun _ => alu2_keeps (List.mem_singleton_self _)
  | div => rw [exec_div]; exact guarded_framed fun _ => alu2_keeps (List.mem_singleton_self _)
  | divu => rw [exec_divu]; exact guarded_framed fun _ => alu2_keeps (List.mem_singleton_self _)
  | rem => rw [exec_rem]; exact guarded_framed fun _ => alu2_keeps (List.mem_singleton_self _)
  | remu => rw [exec_remu]; exact guarded_framed fun _ => alu2_keeps (List.mem_singleton_self _)
  | clz => rw [exec_clz]; exact guarded_framed fun _ => alu1_keeps (List.mem_singleton_self _)
  | ctz => rw [exec_ctz]; exact guarded_framed fun _ => alu1_keeps (List.mem_singleton_self _)
  | popc => rw [exec_popc]; exact guarded_framed fun _ => alu1_keeps (List.mem_singleton_self _)
  | addi =>
    rw [exec_addi]
    exact guarded_framed fun _ => (folded_checks ..).bind fun _ => State.writeForm_keeps (List.mem_singleton_self _) _
  | andi => rw [exec_andi]; exact guarded_framed fun _ => alu1_keeps (List.mem_singleton_self _)
  | ori => rw [exec_ori]; exact guarded_framed fun _ => alu1_keeps (List.mem_singleton_self _)
  | xori => rw [exec_xori]; exact guarded_framed fun _ => alu1_keeps (List.mem_singleton_self _)
  | shli => rw [exec_shli]; exact guarded_framed fun _ => shiftLeft_keeps (List.mem_singleton_self _)
  | shri => rw [exec_shri]; exact guarded_framed fun _ => alu1_keeps (List.mem_singleton_self _)
  | sari => rw [exec_sari]; exact guarded_framed fun _ => alu1_keeps (List.mem_singleton_self _)
  | sel => rw [exec_sel]; exact guarded_framed fun _ => State.writeForm_keeps (List.mem_singleton_self _) _
  | setp => rw [exec_setp]; exact guarded_framed fun r => (r.known2_checks ..).bind fun _ => s.writeP_keeps rfl _ _
  | setpiA => rw [exec_setpiA]; exact guarded_framed fun _ => setImm_keeps rfl
  | setpiB => rw [exec_setpiB]; exact guarded_framed fun _ => setImm_keeps rfl
  | fsetp =>
    rw [exec_fsetp]
    exact guarded_framed fun r => (r.known2_checks ..).bind fun _ => (s.writeP_keeps rfl _ _).trans (State.raise_keeps rfl _ _)
  | plog => rw [exec_plog]; exact guarded_framed fun _ => s.writeP_keeps rfl _ _
  | fadd => rw [exec_fadd]; exact guarded_framed fun _ => fp2_keeps rfl (List.mem_singleton_self _)
  | fsub => rw [exec_fsub]; exact guarded_framed fun _ => fp2_keeps rfl (List.mem_singleton_self _)
  | fmul => rw [exec_fmul]; exact guarded_framed fun _ => fp2_keeps rfl (List.mem_singleton_self _)
  | ffma => rw [exec_ffma]; exact execFfma_framed
  | fdiv =>
    rw [exec_fdiv]
    exact guarded_framed fun r => (r.known2_checks ..).bind fun _ => State.writeFp_keeps rfl (List.mem_singleton_self _) _ _
  | fsqrt =>
    rw [exec_fsqrt]
    exact guarded_framed fun r => (r.known_checks _).bind fun _ => State.writeFp_keeps rfl (List.mem_singleton_self _) _ _
  | fmin => rw [exec_fmin]; exact guarded_framed fun _ => fpPick_keeps rfl (List.mem_singleton_self _)
  | fmax => rw [exec_fmax]; exact guarded_framed fun _ => fpPick_keeps rfl (List.mem_singleton_self _)
  | fclass =>
    rw [exec_fclass]
    exact guarded_framed fun r => (r.known_checks _).bind fun _ => s.writeX_keeps (List.mem_singleton_self _) _
  | fcvt =>
    rw [exec_fcvt]
    exact guarded_framed fun r => (r.known_checks _).bind fun _ => (s.writeX_keeps (List.mem_singleton_self _) _).trans (State.raise_keeps rfl _ _)
  | br => rw [exec_br]; exact execB_framed
  | call => rw [exec_call]; exact execCall_framed
  | jr => rw [exec_jr]; exact execJr_framed
  | ret => rw [exec_ret]; exact execRet_framed
  | rep => rw [exec_rep]; exact execRep_framed
  | fin => rw [exec_fin]; exact execFin_framed
  | park => rw [exec_park]; exact execPark_framed
  | nop => rw [exec_nop]; exact guarded_framed fun _ => .refl s
  | brk => rw [exec_brk]; exact execBrk_framed
  | trap => rw [exec_trap]; exact guarded_framed fun _ => trivial
  | svc => rw [exec_svc]; exact guarded_framed fun _ => trivial
  | falloc => rw [exec_falloc]; exact execFalloc_framed
  | ffree => rw [exec_ffree]; exact execFfree_framed
  | sloti => rw [exec_sloti]; exact execSloti_framed
  | slotr => rw [exec_slotr]; exact execSlotr_framed
  | sig => rw [exec_sig]; exact execSig_framed
  | sigd => rw [exec_sigd]; exact execSigd_framed
  | sigv => rw [exec_sigv]; exact execSigv_framed
  | sref => rw [exec_sref]; exact execSref_framed
  | amsg => rw [exec_amsg]; exact execAmsg_framed
  | arm => rw [exec_arm]; exact execArm_framed
  | ld => rw [exec_ld]; exact execLd_framed
  | st => rw [exec_st]; exact execSt_framed
  | ldz => rw [exec_ldz]; exact execLdz_framed
  | stz => rw [exec_stz]; exact execStz_framed
  | gld => rw [exec_gld]; exact execGld_framed
  | ldl => rw [exec_ldl]; exact execLdl_framed
  | gst => rw [exec_gst]; exact execGst_framed
  | gstv => rw [exec_gstv]; exact execGstv_framed
  | pref => rw [exec_pref]; exact execPref_framed
  | xchg => rw [exec_xchg]; exact sizedAtomic_framed (List.mem_singleton_self _)
  | cas => rw [exec_cas]; exact sizedAtomic_framed (List.mem_singleton_self _)
  | cas2 =>
    rw [exec_cas2]
    exact guarded_framed fun _ => atomic_keeps (List.mem_cons_self ..) fun _ => List.mem_cons_of_mem _ (List.mem_singleton_self _)
  | faa => rw [exec_faa]; exact sizedAtomic_framed (List.mem_singleton_self _)
  | amax => rw [exec_amax]; exact sizedAtomic_framed (List.mem_singleton_self _)
  | amin => rw [exec_amin]; exact sizedAtomic_framed (List.mem_singleton_self _)
  | amaxU => rw [exec_amaxU]; exact sizedAtomic_framed (List.mem_singleton_self _)
  | aminU => rw [exec_aminU]; exact sizedAtomic_framed (List.mem_singleton_self _)
  | fence => rw [exec_fence]; exact execFence_framed
  | fenceqCt => rw [exec_fenceqCt]; exact guarded_framed fun _ => (s.issueCopy_quiet ..).keeps
  | fenceqTc => rw [exec_fenceqTc]; exact guarded_framed fun _ => (s.issueTile_quiet ..).keeps
  | iflush => rw [exec_iflush]; exact execIflush_framed
  | iflushAll => rw [exec_iflushAll]; exact guarded_framed fun _ => (s.issueFence_quiet ..).keeps
  | upd => rw [exec_upd]; exact execUpd_framed
  | updv => rw [exec_updv]; exact execUpdv_framed
  | uapply => rw [exec_uapply]; exact execUapply_framed
  | cpy => rw [exec_cpy]; exact copy_framed
  | cpy2 => rw [exec_cpy2]; exact copy_framed
  | cpym => rw [exec_cpym]; exact copy_framed
  | gthr => rw [exec_gthr]; exact copy_framed
  | rcfg => rw [exec_rcfg]; exact execRcfg_framed
  | radv => rw [exec_radv]; exact execRadv_framed
  | mma => rw [exec_mma]; exact tile_framed
  | mmas => rw [exec_mmas]; exact tile_framed
  | mmg => rw [exec_mmg]; exact tile_framed
  | accz => rw [exec_accz]; exact guarded_framed fun _ => (s.issueTile_quiet ..).keeps
  | accld => rw [exec_accld]; exact tile_framed
  | accst => rw [exec_accst]; exact tile_framed
  | sscfg => rw [exec_sscfg]; exact execSscfg_framed
  | vadd => rw [exec_vadd]; exact guarded_framed fun _ => varith_keeps rfl
  | vsub => rw [exec_vsub]; exact guarded_framed fun _ => varith_keeps rfl
  | vmul => rw [exec_vmul]; exact guarded_framed fun _ => varith_keeps rfl
  | vfma => rw [exec_vfma]; exact guarded_framed fun _ => varith_keeps rfl
  | vmin => rw [exec_vmin]; exact guarded_framed fun _ => varith_keeps rfl
  | vmax => rw [exec_vmax]; exact guarded_framed fun _ => varith_keeps rfl
  | vabs => rw [exec_vabs]; exact guarded_framed fun _ => varith_keeps rfl
  | vneg => rw [exec_vneg]; exact guarded_framed fun _ => varith_keeps rfl
  | vand => rw [exec_vand]; exact guarded_framed fun _ => vbits_keeps rfl
  | vor => rw [exec_vor]; exact guarded_framed fun _ => vbits_keeps rfl
  | vxor => rw [exec_vxor]; exact guarded_framed fun _ => vbits_keeps rfl
  | vselW => rw [exec_vselW]; exact guarded_framed fun _ => vselect_keeps rfl
  | vselH => rw [exec_vselH]; exact guarded_framed fun _ => vselect_keeps rfl
  | vselB => rw [exec_vselB]; exact guarded_framed fun _ => vselect_keeps rfl
  | vshlI32 => rw [exec_vshlI32]; exact guarded_framed fun _ => vshift_keeps rfl
  | vshrI32 => rw [exec_vshrI32]; exact guarded_framed fun _ => vshift_keeps rfl
  | vsarI32 => rw [exec_vsarI32]; exact guarded_framed fun _ => vshift_keeps rfl
  | vshlI16 => rw [exec_vshlI16]; exact guarded_framed fun _ => vshift_keeps rfl
  | vshrI16 => rw [exec_vshrI16]; exact guarded_framed fun _ => vshift_keeps rfl
  | vsarI16 => rw [exec_vsarI16]; exact guarded_framed fun _ => vshift_keeps rfl
  | vcmp => rw [exec_vcmp]; exact guarded_framed fun _ => (s.writeM_keeps rfl _ _).trans (State.raise_keeps rfl _ _)
  | vrcp => rw [exec_vrcp]; exact guarded_framed fun _ => vmath_keeps rfl
  | vrsq => rw [exec_vrsq]; exact guarded_framed fun _ => vmath_keeps rfl
  | vexp2 => rw [exec_vexp2]; exact guarded_framed fun _ => vmath_keeps rfl
  | vlog2 => rw [exec_vlog2]; exact guarded_framed fun _ => vmath_keeps rfl
  | viota => rw [exec_viota]; exact guarded_framed fun _ => s.writeLanes_keeps rfl _ _
  | vredAdd => rw [exec_vredAdd]; exact guarded_framed fun _ => vreduce_keeps rfl (List.mem_singleton_self _)
  | vredMin => rw [exec_vredMin]; exact guarded_framed fun _ => vreduce_keeps rfl (List.mem_singleton_self _)
  | vredMax => rw [exec_vredMax]; exact guarded_framed fun _ => vreduce_keeps rfl (List.mem_singleton_self _)
  | vdotF32 => rw [exec_vdotF32]; exact guarded_framed fun _ => vdot_keeps rfl (List.mem_singleton_self _)
  | vdotBf16 => rw [exec_vdotBf16]; exact guarded_framed fun _ => vdot_keeps rfl (List.mem_singleton_self _)
  | vdotF16 => rw [exec_vdotF16]; exact guarded_framed fun _ => vdot_keeps rfl (List.mem_singleton_self _)
  | vperm => rw [exec_vperm]; exact guarded_framed fun _ => s.writeV_keeps rfl _ _
  | vbcast => rw [exec_vbcast]; exact guarded_framed fun r => (r.known_checks _).bind fun _ => s.writeV_keeps rfl _ _
  | vext =>
    rw [exec_vext]
    exact guarded_framed fun r => (r.known_checks _).bind fun _ => s.writeX_keeps (List.mem_singleton_self _) _
  | vins => rw [exec_vins]; exact guarded_framed fun r => (r.known2_checks ..).bind fun _ => s.writeV_keeps rfl _ _
  | vcomp => rw [exec_vcomp]; exact guarded_framed fun _ => s.writeV_keeps rfl _ _
  | vexpd => rw [exec_vexpd]; exact guarded_framed fun _ => s.writeV_keeps rfl _ _
  | vld => rw [exec_vld]; exact execVld_framed
  | vst => rw [exec_vst]; exact execVst_framed
  | mlog => rw [exec_mlog]; exact guarded_framed fun _ => s.writeM_keeps rfl _ _
  | mcnt => rw [exec_mcnt]; exact guarded_framed fun _ => s.writeX_keeps (List.mem_singleton_self _) _
  | rdsr => rw [exec_rdsr]; exact execRdsr_framed
  | wrsr => rw [exec_wrsr]; exact execWrsr_framed
  | rgnctlAct => rw [exec_rgnctlAct]; exact rgnctl_framed
  | rgnctlCfg => rw [exec_rgnctlCfg]; exact rgnctl_framed
  | rgnctlSusp => rw [exec_rgnctlSusp]; exact rgnctl_framed
  | rgnctlRes => rw [exec_rgnctlRes]; exact rgnctl_framed
  | rgnctlDel => rw [exec_rgnctlDel]; exact rgnctl_framed
  | tlbinvPg => rw [exec_tlbinvPg]; exact execTlbinvPg_framed
  | tlbinvAs => rw [exec_tlbinvAs]; exact execTlbinvAs_framed
  | tlbinvAll => rw [exec_tlbinvAll]; exact execTlbinvAll_framed
  | waycfg => rw [exec_waycfg]; exact execWaycfg_framed
  | symq => rw [exec_symq]; exact guarded_framed fun _ => s.writeX_keeps (List.mem_singleton_self _) _
  | resume => rw [exec_resume]; exact resumeForm_framed
  | resumeAbt => rw [exec_resumeAbt]; exact resumeForm_framed
  | resumeRpl => rw [exec_resumeRpl]; exact resumeForm_framed
  | resumeDrp => rw [exec_resumeDrp]; exact resumeForm_framed
  | limm => rw [exec_limm]; exact guarded_framed fun _ => s.writeX_keeps (List.mem_singleton_self _) _
  | lui => rw [exec_lui]; exact guarded_framed fun _ => alu1_keeps (List.mem_singleton_self _)
  | bfx => rw [exec_bfx]; exact guarded_framed fun _ => alu1_keeps (List.mem_singleton_self _)
  | bfi => rw [exec_bfi]; exact guarded_framed fun _ => alu2_keeps (List.mem_singleton_self _)
  | vx => rw [exec_vx]; exact execVx_framed
  | vcvt => rw [exec_vcvt]; exact guarded_framed fun _ => s.writeLanes_keeps rfl _ _
    | readyEntrySelect | signalArrival | overflowEntryTake | activeMessageDelivery | spillWriteOutComplete |
    refillComplete | frameRelease | runleftExpiry | parkTimeExpiry | symbolValueArrival | deferredEffectPerform |
    lateLoadFail | writeAckArrival | updateAcceptanceArrival | gldLanding | barrierConditionMet | combinerTimeout |
    homeSliceRead | homeSliceWrite | homeSliceAtomic | homeSlicePref | backInvalidationAck | waycfgRequest |
    wayConversionComplete | translationWalkComplete | faultWaitPromote | pageZeroingComplete | updatePacketAccept |
    sortBatch | mergeApply | uapplyLineApply | copyCommandStart | copyPieceIssue | copyPieceComplete |
    multicastPieceArrival | gatherRequestArrival | gatherElementReturn | tileCommandStart | tilePairStart |
    tilePairRetire | mmgRowComplete | accumulatorTransferDone | faultRecordDelivery | resumeAct | tailNotification |
    queueEntryFetch | activeMessageEntry | triggerArmEntry | regionControlEntry | queueFence | triggerArming |
    triggerSignal | regionControlPerform | periodStart | entryAging | monitorWindowEnd | weirRateUpdate |
    tileIntervalEval | housekeepingWork | traceRecordWrite | traceRpRead | queueSet | queueState | traceBuf |
    brieloSet | powerState | lifecycle | fwUpdate | mailboxUnsupported | routeChangeDrain | brieloPortFailure |
    moduleReset | uncorrectableEcc | scratchZeroingComplete | spdmRequest | linkLevelConfirmation | eventLog |
    retentionExit | serviceCoreRestartComplete | modulePowerLoss => exact absurd hi nofun

/-- Settles O48: a threadlet that is still Running has completed its instruction, which kept to its frame; AMSG and the
transfers, which read memory, change bytes in bound lines alone. -/
theorem instructionFrame : Obligations.InstructionFrame := by
  unfold Obligations.InstructionFrame
  intro i s t r r' hi hr ht hr'
  have hleaves {P : State → Prop} (h : s.Completes P (exec i s)) : P t :=
    (h t ht).resolve_left fun hn => Option.some_ne_none r' (hr'.symm.trans hn)
  have hkeeps := hleaves (exec_framed hi s)
  obtain ⟨r0, hr0, hregs, hflags, htid, hfid, hslot, hregion, hlevel, hleft⟩ := hkeeps.run r' hr'
  obtain rfl : r0 = r := Option.some.inj (hr0.symm.trans hr)
  refine ⟨hregs, hflags, hkeeps.bytes, fun hreads hz => ?_, htid, hfid, hslot, hregion, hlevel, hleft, hkeeps.accs, hkeeps.accBad,
    hkeeps.taglast, hkeeps.hold, hkeeps.debug, hkeeps.cur, hkeeps.others⟩
  have hread := hleaves (exec_reads hreads s) hz
  exact ⟨fun _ => by rw [hread.hostMem], fun n _ => by rw [hread.lmem n], fun hwf => (hread.mem hwf).2⟩

end Sys2Proof.Machine
end

section
/-! SUPPORT. Transfers: where a branch or a code pointer leads, and what the instruction that follows it leaves (R92, R93). -/

namespace Sys2Proof.Machine

open Sys2Proof

/-! ## The wrapper of transfers -/

section Transfer

variable {s : State} {r : Run} {g : Guard} {reads : Run → Option (Nat × Nat)} {f : State → Run → Except Stop Run}

/-- A transfer whose guard holds is settled in the state that its read of code leaves (R198). -/
theorem guardedEntry_transfers (h : s.Issues r g) :
    guardedEntry g reads f s = .next ((s.entryRead r (reads r)).settle r 1
      ((f (s.entryRead r (reads r)) r).map ((s.entryRead r (reads r)).setRun s.cur))) := by
  obtain ⟨hr, hg⟩ := h
  rw [guardedEntry_eq, State.running, hr]
  dsimp only
  rw [if_pos hg]

variable {t : State}

theorem guardedEntry_ok {r' : Run} (h : s.Issues r g) (ht : s.entryRead r (reads r) = t) (hf : f t r = .ok r') :
    guardedEntry g reads f s = .next (t.setRun s.cur r') := by
  rw [guardedEntry_transfers h, ht, hf]
  rfl

theorem guardedEntry_faults {code addr : Nat} {detail : Word} (h : s.Issues r g) (ht : s.entryRead r (reads r) = t)
    (hc : code ≠ 0x12) (hf : f t r = .error (.fault code addr detail)) :
    guardedEntry g reads f s = .next (t.takeFault s.cur { r with bpSkip := 0 } r.origin 0 code addr detail) := by
  have hcur : t.cur = s.cur := ht ▸ (s.entryRead_sameButCode r (reads r)).cur
  rw [guardedEntry_transfers h, ht, hf, ← hcur]
  exact congrArg _ (by rw [Except.map, State.settle, if_neg hc])

theorem guardedEntry_parks {cause : Nat} {wait : Wait} (h : s.Issues r g) (ht : s.entryRead r (reads r) = t)
    (hf : f t r = .error (.park cause wait)) : guardedEntry g reads f s = .next (t.park s.cur r 0 cause wait) := by
  have hcur : t.cur = s.cur := ht ▸ (s.entryRead_sameButCode r (reads r)).cur
  rw [guardedEntry_transfers h, ht, hf, ← hcur]
  rfl

theorem guardedEntry_waits {z : Option Zeroing} (h : s.Issues r g) (ht : s.entryRead r (reads r) = t)
    (hf : f t r = .error (.page z)) : guardedEntry g reads f s = .next (t.awaitPage z) := by
  rw [guardedEntry_transfers h, ht, hf]
  rfl

end Transfer

/-! ## Where a branch leads -/

section Branch

variable {t : State} {r : Run} {off : Int}

theorem Run.branchVa_of {n : Nat} (h : (r.block : Int) + 16 + 4 * ((r.idx : Int) + off) = n) (hn : n < 2 ^ 64) : r.branchVa off = n := by
  unfold Run.branchVa vaOf
  omega

/-- An address names an instruction of the current block. -/
def Run.InBlock (r : Run) (target : Nat) : Prop :=
  0 ≤ (target : Int) - (r.block + 16) ∧ ((target : Int) - (r.block + 16)) % 4 = 0 ∧ ((target : Int) - (r.block + 16)) / 4 ≤ r.len

theorem Run.branchReads_of_in (h : r.InBlock (r.branchVa off)) :
    r.branchReads off = (r.block, (((r.branchVa off : Int) - (r.block + 16)) / 4).toNat) := if_pos h

theorem Run.branchReads_of_not_in (h : ¬ r.InBlock (r.branchVa off)) : r.branchReads off = (r.branchVa off, 0) := if_neg h

theorem State.branch_of_in (h : r.InBlock (r.branchVa off)) :
    t.branch r off = if t.secondWord r r.block (((r.branchVa off : Int) - (r.block + 16)) / 4).toNat then .error (.fault 0x01 0 0)
      else .ok (r.jump (((r.branchVa off : Int) - (r.block + 16)) / 4).toNat) := if_pos h

theorem State.branch_of_not_in (h : ¬ r.InBlock (r.branchVa off)) :
    t.branch r off = match t.checkEntry t.cur r.region (t.runWords r) (r.branchVa off) with
      | .error x => .error (x.stop (r.branchVa off))
      | .ok h => .ok (r.enter h (r.branchVa off) 0) := (if_neg h).trans (by rfl)

end Branch

/-- Reading code changes no frame. -/
theorem State.runWords_readEntry (s : State) (r : Run) (core asid va i : Nat) : (s.readEntry core asid va i).runWords r = s.runWords r := by
  rw [State.runWords, State.cur_readEntry, State.core_of_cores (s.cores_readEntry ..)]
  rfl

/-! ## B and CALL (R337) -/

section Calls

variable {s t : State} {r : Run} {g : Guard} {off : BitVec 21}

theorem branches_go {r' : Run} (h : s.Issues r g)
    (ht : s.readEntry s.cur (s.asid r.region) (r.branchReads off.toInt).1 (r.branchReads off.toInt).2 = t)
    (hb : t.branch r off.toInt = .ok r') :
    s.BecomesIn t (.br g off) r' ∧ s.BecomesIn t (.call g off) (r'.write 29 (.known (codePointer r.block (r.idx + 1)))) := by
  unfold State.BecomesIn
  rw [exec_br, exec_call]
  exact ⟨guardedEntry_ok h ht hb, guardedEntry_ok h ht (congrArg (Except.map _) hb)⟩

theorem branches_fault {code addr : Nat} (h : s.Issues r g)
    (ht : s.readEntry s.cur (s.asid r.region) (r.branchReads off.toInt).1 (r.branchReads off.toInt).2 = t) (hc : code ≠ 0x12)
    (hb : t.branch r off.toInt = .error (.fault code addr 0)) :
    s.FaultsIn t (.br g off) r code addr 0 ∧ s.FaultsIn t (.call g off) r code addr 0 := by
  unfold State.FaultsIn
  rw [exec_br, exec_call]
  exact ⟨guardedEntry_faults h ht hc hb, guardedEntry_faults h ht hc (congrArg (Except.map _) hb)⟩

theorem branches_wait {z : Option Zeroing} (h : s.Issues r g)
    (ht : s.readEntry s.cur (s.asid r.region) (r.branchReads off.toInt).1 (r.branchReads off.toInt).2 = t)
    (hb : t.branch r off.toInt = .error (.page z)) :
    exec (.br g off) s = .next (t.awaitPage z) ∧ exec (.call g off) s = .next (t.awaitPage z) := by
  rw [exec_br, exec_call]
  exact ⟨guardedEntry_waits h ht hb, guardedEntry_waits h ht (congrArg (Except.map _) hb)⟩

end Calls

end Sys2Proof.Machine
end

section
/-! PROOF. O23: B and CALL. -/

namespace Sys2Proof.Machine

open Sys2Proof

/-- Settles O23: the target lies in the block (an index, or the second word of a long form) or outside it, where the entry checks
answer. -/
theorem branches : Obligations.Branches := by
  unfold Obligations.Branches
  refine ⟨fun s asid va i => s.readEntry_sameButCode s.cur asid va i, fun s r g off h hblock hlen => ⟨fun k hk hle => ?_,
    fun target htarget hva hout => ?_⟩⟩
  · have hva : r.branchVa off.toInt = r.block + 16 + 4 * k := Run.branchVa_of (by push_cast; omega) (by omega)
    have hin : r.InBlock (r.branchVa off.toInt) := by unfold Run.InBlock; omega
    have hidx : (((r.branchVa off.toInt : Int) - (r.block + 16)) / 4).toNat = k := by omega
    have hreads := Run.branchReads_of_in hin
    have hbranch (t : State) := State.branch_of_in (t := t) hin
    simp only [hidx] at hreads hbranch
    have ht : s.readEntry s.cur (s.asid r.region) (r.branchReads off.toInt).1 (r.branchReads off.toInt).2 =
      s.readEntry s.cur (s.asid r.region) r.block k := by rw [hreads]
    exact ⟨fun hsecond => branches_go h ht (by rw [hbranch, hsecond]; rfl),
      fun hsecond => branches_fault h ht (by decide) (by rw [hbranch, hsecond]; rfl)⟩
  · have hvaeq : r.branchVa off.toInt = target := Run.branchVa_of hva htarget
    have hnin : ¬ r.InBlock (r.branchVa off.toInt) := by unfold Run.InBlock; omega
    have hreads := Run.branchReads_of_not_in hnin
    have hbranch (t : State) := State.branch_of_not_in (t := t) hnin
    rw [hvaeq] at hreads
    simp only [hvaeq] at hbranch
    have ht : s.readEntry s.cur (s.asid r.region) (r.branchReads off.toInt).1 (r.branchReads off.toInt).2 =
      s.readEntry s.cur (s.asid r.region) target 0 := by rw [hreads]
    have hcur := s.cur_readEntry s.cur (s.asid r.region) target 0
    have hwords := s.runWords_readEntry r s.cur (s.asid r.region) target 0
    have hentry := hbranch (s.readEntry s.cur (s.asid r.region) target 0)
    rw [hcur, hwords] at hentry
    exact ⟨fun hd hc => branches_go h ht (by rw [hentry, hc]), fun code hcode hc => branches_fault h ht hcode (by rw [hentry, hc]; rfl),
      fun z hc => branches_wait h ht (by rw [hentry, hc]; rfl)⟩

end Sys2Proof.Machine
end

section
/-! PROOF. O24: JR and RET. -/

namespace Sys2Proof.Machine

open Sys2Proof

/-! ## Code pointers (Table 4-2) -/

theorem field_codePointer {b i : Nat} (hb : b % 16 = 0) (hlt : b < 2 ^ 52) (hi : i < 256) {p : Word}
    (hp : p = BitVec.ofNat 64 (b / 16 * 2 ^ 12 + i)) :
    field p 59 12 * 16 = b ∧ field p 7 0 = i ∧ field p 63 60 = 0 ∧ field p 11 8 = 0 := by
  subst hp
  simp only [field, BitVec.toNat_ofNat, Nat.shiftRight_eq_div_pow]
  omega

/-- The reserved bits of a code pointer as a statement writes them. -/
theorem field_reserved {q : Word} (h : q.extractLsb' 60 4 ≠ 0 ∨ q.extractLsb' 8 4 ≠ 0) : field q 63 60 ≠ 0 ∨ field q 11 8 ≠ 0 :=
  h.imp (mt (field_eq_zero ..).1) (mt (field_eq_zero ..).1)

section Jump

variable {s t : State} {r : Run} {g : Guard} {p : Word} {a : XReg}

theorem Run.pointerIn_of_known (h : r.get a = .known p) :
    r.pointerIn a = if field p 63 60 ≠ 0 ∨ field p 11 8 ≠ 0 then none else some (pointerReads p) := by
  rw [Run.pointerIn, h]

theorem jump_of_known (h : r.get a = .known p) : (r.known a).bind (t.jumpTo r) = t.jumpTo r p := by
  rw [Run.known, h]
  rfl

/-- A legal pointer's block is read before the transfer. -/
theorem entryRead_pointerIn (hp : ¬ (field p 63 60 ≠ 0 ∨ field p 11 8 ≠ 0))
    (ht : s.readEntry s.cur (s.asid r.region) (pointerReads p).1 (pointerReads p).2 = t) (h : r.get a = .known p) :
    s.entryRead r (r.pointerIn a) = t := by
  rw [Run.pointerIn_of_known h, if_neg hp]
  exact ht

section Legal

variable (h : s.Issues r g) (hp : ¬ (field p 63 60 ≠ 0 ∨ field p 11 8 ≠ 0))
  (ht : s.readEntry s.cur (s.asid r.region) (pointerReads p).1 (pointerReads p).2 = t)
include h hp ht

theorem jumps_go {r' : Run} (hj : t.jumpTo r p = .ok r') :
    (r.get a = .known p → s.BecomesIn t (.jr g a) r') ∧ (r.get 29 = .known p → s.BecomesIn t (.ret g) r') := by
  unfold State.BecomesIn
  rw [exec_jr, exec_ret]
  exact ⟨fun hk => guardedEntry_ok h (entryRead_pointerIn hp ht hk) ((jump_of_known hk).trans hj),
    fun hk => guardedEntry_ok h (entryRead_pointerIn hp ht hk) ((jump_of_known hk).trans hj)⟩

theorem jumps_fault {code addr : Nat} (hc : code ≠ 0x12) (hj : t.jumpTo r p = .error (.fault code addr 0)) :
    (r.get a = .known p → s.FaultsIn t (.jr g a) r code addr 0) ∧ (r.get 29 = .known p → s.FaultsIn t (.ret g) r code addr 0) := by
  unfold State.FaultsIn
  rw [exec_jr, exec_ret]
  exact ⟨fun hk => guardedEntry_faults h (entryRead_pointerIn hp ht hk) hc ((jump_of_known hk).trans hj),
    fun hk => guardedEntry_faults h (entryRead_pointerIn hp ht hk) hc ((jump_of_known hk).trans hj)⟩

theorem jumps_wait {z : Option Zeroing} (hj : t.jumpTo r p = .error (.page z)) :
    (r.get a = .known p → exec (.jr g a) s = .next (t.awaitPage z)) ∧
      (r.get 29 = .known p → exec (.ret g) s = .next (t.awaitPage z)) := by
  rw [exec_jr, exec_ret]
  exact ⟨fun hk => guardedEntry_waits h (entryRead_pointerIn hp ht hk) ((jump_of_known hk).trans hj),
    fun hk => guardedEntry_waits h (entryRead_pointerIn hp ht hk) ((jump_of_known hk).trans hj)⟩

end Legal

/-- Within the block no header is checked (R93). -/
theorem State.jumpTo_same (hp : ¬ (field p 63 60 ≠ 0 ∨ field p 11 8 ≠ 0)) (hb : field p 59 12 * 16 = r.block) :
    t.jumpTo r p = if r.len < field p 7 0 ∨ t.secondWord r r.block (field p 7 0) = true then .error (.fault 0x01 0 0)
      else .ok (r.jump (field p 7 0)) := by
  rw [State.jumpTo, if_neg hp, if_pos hb]

theorem State.jumpTo_other (hp : ¬ (field p 63 60 ≠ 0 ∨ field p 11 8 ≠ 0)) (hb : field p 59 12 * 16 ≠ r.block) :
    t.jumpTo r p = match t.checkEntry t.cur r.region (t.runWords r) (field p 59 12 * 16) with
      | .error x => .error (x.stop (field p 59 12 * 16))
      | .ok h => if h.len < field p 7 0 ∨ t.secondWord r (field p 59 12 * 16) (field p 7 0) = true then
          .error (.fault 0x01 (field p 59 12 * 16) 0)
        else .ok (r.enter h (field p 59 12 * 16) (field p 7 0)) :=
  (if_neg hp).trans ((if_neg hb).trans (by rfl))

/-! ## Illegal pointers and forms -/

/-- A pointer with reserved bits is refused before any code is read. -/
theorem jump_refused (h : s.Issues r g) (hp : field p 63 60 ≠ 0 ∨ field p 11 8 ≠ 0) (hk : r.get a = .known p) :
    guardedEntry g (fun r => r.pointerIn a) (fun s r => (r.known a).bind (s.jumpTo r)) s =
      .next (s.takeFault s.cur { r with bpSkip := 0 } r.origin 0 0x01 0 0) :=
  guardedEntry_faults h (by rw [Run.pointerIn_of_known hk, if_pos hp]; rfl) (by decide)
    ((jump_of_known hk).trans (by rw [State.jumpTo, if_pos hp]))

/-- A form parks before any code is read. -/
theorem jump_parks (h : s.Issues r g) (hk : (r.get a).isLate) :
    guardedEntry g (fun r => r.pointerIn a) (fun s r => (r.known a).bind (s.jumpTo r)) s =
      .next (s.park s.cur r 0 0 (.syms (symbolsOf [r.get a]))) := by
  refine guardedEntry_parks h ?_ (by rw [Run.known_late hk]; rfl)
  unfold Run.pointerIn
  split
  · next hv => simp [hv] at hk
  · rfl

end Jump

/-- Settles O24: by where the pointer leads, and by what the entry checks answer. -/
theorem pointerJumps : Obligations.PointerJumps := by
  unfold Obligations.PointerJumps
  intro s r g a h
  refine ⟨fun b i hb hlt hi => ?_, fun q hq => ?_, fun hl => (exec_jr ..).trans (jump_parks h hl),
    fun hl => (exec_ret ..).trans (jump_parks h hl)⟩
  · intro p t goes faults
    obtain ⟨hblock, hidx, hhigh, hlow⟩ := field_codePointer hb hlt hi (rfl : p = _)
    have hp : ¬ (field p 63 60 ≠ 0 ∨ field p 11 8 ≠ 0) := by omega
    have ht : s.readEntry s.cur (s.asid r.region) (pointerReads p).1 (pointerReads p).2 = t := by
      rw [pointerReads, hblock, hidx]
    refine ⟨fun hown => ?_, fun hother => ?_⟩
    · have hjump := State.jumpTo_same (t := t) hp (hblock.trans hown)
      rw [hidx, ← hown] at hjump
      exact ⟨fun hle hsecond => jumps_go h hp ht (by rw [hjump, hsecond, if_neg (by simpa using hle)]),
        fun _ hsecond => jumps_fault h hp ht (by decide) (by rw [hjump, if_pos (.inr hsecond)]),
        fun hgt => jumps_fault h hp ht (by decide) (by rw [hjump, if_pos (.inl hgt)])⟩
    · have hjump := State.jumpTo_other (t := t) hp (hblock ▸ hother)
      rw [hidx, hblock, show t.cur = s.cur from s.cur_readEntry .., show t.runWords r = s.runWords r from s.runWords_readEntry ..] at hjump
      refine ⟨fun hd hc => ?_, fun code hcode hc => jumps_fault h hp ht hcode (by rw [hjump, hc]; rfl),
        fun z hc => jumps_wait h hp ht (by rw [hjump, hc]; rfl)⟩
      simp only [hc] at hjump
      exact ⟨fun hle hsecond => jumps_go h hp ht (by rw [hjump, hsecond, if_neg (by simpa using hle)]),
        fun _ hsecond => jumps_fault h hp ht (by decide) (by rw [hjump, if_pos (.inr hsecond)]),
        fun hgt => jumps_fault h hp ht (by decide) (by rw [hjump, if_pos (.inl hgt)])⟩
  · exact ⟨fun hk => (exec_jr ..).trans (jump_refused h (field_reserved hq) hk),
      fun hk => (exec_ret ..).trans (jump_refused h (field_reserved hq) hk)⟩

end Sys2Proof.Machine
end

section
/-! SUPPORT. What an instruction comes to under each wrapper, packets sent and releases handed over (R95, R96, R221, R223). -/

namespace Sys2Proof.Machine

open Sys2Proof

/-! ## What an instruction comes to -/

section Meets

variable {s : State} {r : Run} {i : Instr} {x : Except Stop State}

/-- Under a false guard an instruction with N = 1 comes to its null signal (R96). -/
theorem meets_null {g : Guard} {f nul : Meaning} (hr : (s.core s.cur).run = some r) (hg : r.holds g = false)
    (hi : exec i s = guardedN g true f nul s) : s.Meets r i (nul s r) := hi.trans (guardedN_null hr hg rfl)

theorem meets_guardedAfter {g : Guard} {check : State → Run → Except Stop Unit} {f : Meaning} (h : s.Issues r g)
    (hc : check s r = .ok ()) (hi : exec i s = guardedAfter g check f s) : s.Meets r i (f s r) := by
  refine hi.trans ?_
  simp only [guardedAfter, State.running, h.1, h.2, hc, if_true]

/-- What a check made before the guard refuses faults whatever the guard (R95). -/
theorem guardedAfter_refused {g : Guard} {check : State → Run → Except Stop Unit} {f : Meaning} {code addr : Nat} {detail : Word}
    (hr : (s.core s.cur).run = some r) (hcode : code ≠ 0x12) (hc : check s r = .error (.fault code addr detail))
    (hi : exec i s = guardedAfter g check f s) : s.Faults i r code addr detail := by
  refine hi.trans ?_
  simp only [guardedAfter, State.running, hr, hc, State.settle, if_neg hcode]

/-- The guard that always holds. -/
theorem Run.issues_always (hr : (s.core s.cur).run = some r) : s.Issues r ⟨0, false⟩ := ⟨hr, rfl⟩

/-- What an instruction comes to is what it would come to under a guard that always holds. -/
theorem State.Meets.guarded (hm : s.Meets r i x) (hr : (s.core s.cur).run = some r) :
    exec i s = guarded ⟨0, false⟩ 1 (fun _ _ => x) s := by
  obtain ⟨hrun, hholds⟩ := Run.issues_always hr
  refine Eq.trans hm ?_
  simp only [Machine.guarded, State.running, hrun, hholds, if_true]

theorem State.Meets.parks {vs : List RVal} (hm : s.Meets r i x) (hx : x = .error (waitFor vs)) : s.Parks i r vs := by
  subst hx
  exact hm

/-- Nothing but the threadlet moved on. -/
theorem State.Meets.becomes (hm : s.Meets r i x) (hr : (s.core s.cur).run = some r) (hx : x = .ok s) : s.Becomes i (r.past 1) := by
  subst hx
  exact Eq.trans hm (congrArg _ (State.next_eq hr 1))

/-- One packet is sent, its operation numbered. -/
theorem State.Meets.sends {cls : PClass} {dst : Agent} {b : PBody} (hm : s.Meets r i x) (hr : (s.core s.cur).run = some r)
    (hd : s.Reaches dst) (hx : x = .ok (s.numbered.inject s.cur r.region cls dst b)) : s.Sends i r cls dst b :=
  sends_of (Run.issues_always hr) (hm.guarded hr) hd hx

/-- The current core changed, and the threadlet moved on. -/
theorem State.Meets.leaves {c : Core} (hm : s.Meets r i x) (hx : x = .ok (s.setCore s.cur c)) (hc : c.run = some r) :
    exec i s = .next (s.setCore s.cur { c with run := some (r.past 1) }) := by
  subst hx
  exact Eq.trans hm (congrArg _ (State.next_setCore hc 1))

end Meets

/-! ## Releases (R221, R223) -/

section Release

variable {s : State} {r : Run} (body : OpBody)

/-- The barrier that a release of the Running threadlet is. -/
def State.releaseOf (s : State) (r : Run) (body : OpBody) : Barrier :=
  ⟨(s.core s.cur).nextSeq, r.origin, .release (s.opOf r body), []⟩

/-- A barrier whose condition holds waits behind none. -/
theorem Core.mustWait_of_barrierMet {c : Core} {b : Barrier} (h : c.barrierMet b = true) : c.mustWait b.org.tid b.seq = false := by
  simp only [Core.barrierMet, Bool.and_eq_true, Bool.not_eq_true'] at h
  exact h.1

theorem State.numbered_core (s : State) : s.numbered.core s.cur = { s.core s.cur with nextSeq := (s.core s.cur).nextSeq + 1 } :=
  (State.core_setCore ..).trans (if_pos rfl)

/-- A release whose condition holds leaves at once. -/
theorem State.issueRelease_met (ha : (s.core s.cur).acqPending r.tid = []) (he : s.effectsResolved r = .ok ())
    (hb : (s.core s.cur).barrierMet (s.releaseOf r body) = true) :
    s.issueRelease r body = .ok (s.numbered.launch s.cur (s.opOf r body)) := by
  have hwait : (s.core s.cur).mustWait r.tid (s.core s.cur).nextSeq = false := Core.mustWait_of_barrierMet hb
  have room : s.stageRoom r = .ok () := by simp [State.stageRoom, hwait]
  rw [State.issueRelease, State.acquired_ok ha, he, room]
  refine congrArg Except.ok (if_pos ?_)
  show (s.numbered.core s.cur).barrierMet _ = true
  rw [State.numbered_core]
  exact hb

/-- With no pair in the combiner, nothing is flushed. -/
theorem State.flushCombiner_empty {n : Nat} {c : Core} (h : c.comb = []) : (s.setCore n c).flushCombiner n = s.setCore n c := by
  have hc : { c with comb := [] } = c := by rw [← h]
  simp only [State.flushCombiner, State.core_setCore, if_true, h, State.setCore_setCore, List.foldl_nil, hc]

/-- A release whose condition does not hold becomes a barrier; with no pair in the combiner, nothing is flushed. -/
theorem State.issueRelease_waits (ha : (s.core s.cur).acqPending r.tid = []) (he : s.effectsResolved r = .ok ())
    (hb : (s.core s.cur).barrierMet (s.releaseOf r body) = false) (hroom : s.stageRoom r = .ok ()) (hcomb : (s.core s.cur).comb = []) :
    s.issueRelease r body = .ok (s.setCore s.cur { s.core s.cur with
      nextSeq := (s.core s.cur).nextSeq + 1, barriers := (s.core s.cur).barriers ++ [s.releaseOf r body] }) := by
  rw [State.issueRelease, State.acquired_ok ha, he, hroom]
  refine congrArg Except.ok ((if_neg ?_).trans ?_)
  · show ¬ (s.numbered.core s.cur).barrierMet _ = true
    rw [State.numbered_core]
    exact ne_true_of_eq_false hb
  · show (s.numbered.addBarrier s.cur (s.releaseOf r body)) = _
    rw [State.addBarrier, State.onCore_eq, State.numbered_core, State.numbered, State.setCore_setCore]
    exact (if_pos rfl).trans (State.flushCombiner_empty hcomb)

/-- A fence that is neither a FENCE nor an .ACQ is a barrier, and flushes nothing. -/
theorem State.issueFence_waits {kind : BarrierKind} (hk : ∀ w u e scope, kind ≠ .fence w u e scope) (hacq : ∀ op, kind ≠ .acq op)
    (hrel : ∀ o, kind ≠ .release o) : s.issueFence r kind [] = s.setCore s.cur { s.core s.cur with
      nextSeq := (s.core s.cur).nextSeq + 1
      barriers := (s.core s.cur).barriers ++ [⟨(s.core s.cur).nextSeq, r.origin, kind, []⟩] } := by
  have hadd : s.issueFence r kind [] = s.numbered.addBarrier s.cur ⟨(s.core s.cur).nextSeq, r.origin, kind, []⟩ := by
    cases kind with
    | fence w u e scope => exact absurd rfl (hk w u e scope)
    | acq op => exact absurd rfl (hacq op)
    | _ => rfl
  have hflush : Barrier.flushes ⟨(s.core s.cur).nextSeq, r.origin, kind, []⟩ = false := by
    cases kind with
    | fence w u e scope => exact absurd rfl (hk w u e scope)
    | release o => exact absurd rfl (hrel o)
    | _ => rfl
  rw [hadd, State.addBarrier, State.onCore_eq, State.numbered_core, State.numbered, State.setCore_setCore, hflush]
  rfl

end Release

end Sys2Proof.Machine
end

section
/-! PROOF. O34: the null signals of every form with N = 1. -/

namespace Sys2Proof.Machine

open Sys2Proof

/-! ## What a null signal comes to (R96, R73) -/

section Null

variable {s : State} {r : Run} {y : XReg} {rel : Bool} {dec : Nat} {ref : Word}

/-- In byte mode the signal counts the bytes, once the registers of the length are known; the reference is checked either way. -/
theorem nullBytes_eq (y : XReg) (byt : Bool) {len : List RVal} {ws : List Word} (hl : len = ws.map .known) :
    nullBytes y byt len s r = nullSignal y false (if byt then (ws.map (·.toNat)).foldl (· * ·) 1 else 1) s r := by
  subst hl
  by_cases hy : y = 0
  · exact (if_pos hy).trans (if_pos hy).symm
  cases byt with
  | false => rw [nullBytes, if_neg hy]; rfl
  | true =>
    simp only [nullBytes, nullSignal, if_neg hy, if_true, allKnown_known]
    cases r.get y with
    | known ref =>
      simp only [onKnown_known, State.issueSignal]
      cases (s.checkRef ref).stop <;> rfl
    | _ => rfl

theorem nullSignal_zero (hy : y = 0) : nullSignal y rel dec s r = .ok s := if_pos hy

theorem nullSignal_known (hy : y ≠ 0) (hk : r.get y = .known ref) :
    nullSignal y rel dec s r = s.issueSignal r ref dec .none rel := by
  rw [nullSignal, if_neg hy, hk]

theorem State.issueSignal_bad {data : SigData} (h : s.refOk ref = false) :
    s.issueSignal r ref dec data rel = .error (.fault 0x09 0 0) := by
  simp [State.issueSignal, State.checkRef, h, Check.stop, Except.mapError, bind, Except.bind]

theorem State.issueSignal_good {data : SigData} (h : s.refOk ref = true) : s.issueSignal r ref dec data rel =
    if rel then s.issueRelease r (.signal ref dec data true false) else s.issueOp r (.signal ref dec data false false) := by
  simp [State.issueSignal, State.checkRef, h, Check.stop, Except.mapError, bind, Except.bind]

/-- A signal to a good reference is injected. -/
theorem State.launch_signal {data : SigData} (h : s.refOk ref = true) :
    s.numbered.launch s.cur (s.opOf r (.signal ref dec data rel false)) =
      s.numbered.inject s.cur r.region .sig (s.refAgent (Ref.of ref)) (.signal ref dec data rel false) :=
  if_pos (Bool.and_eq_true_iff.1 h).2

theorem nullSignal_late {i : Nat} {u v : Word} (hy : y ≠ 0) (hk : r.get y = .form i u v) :
    nullSignal y rel dec s r = s.deferSignal r rel (.sig rel dec) (.form i u v) [.form i u v] := by
  rw [nullSignal, if_neg hy, hk]

end Null

/-- What O34 says of an instruction that comes to its null signal. -/
structure State.SendsNull (s : State) (r : Run) (y : XReg) (i : Instr) (dec : Nat) (rel : Bool) : Prop where
  none : y = 0 → s.Becomes i (r.past 1)
  bad : y ≠ 0 → ∀ ref, r.get y = .known ref → s.refOk ref = false → s.Faults i r 0x09 0 0
  relaxed : y ≠ 0 → ∀ ref, r.get y = .known ref → s.refOk ref = true → s.Reaches (s.refAgent (Ref.of ref)) →
    (s.core s.cur).acqPending r.tid = [] → rel = false → (s.core s.cur).mustWait r.tid (s.core s.cur).nextSeq = false →
    s.Sends i r .sig (s.refAgent (Ref.of ref)) (.signal ref dec .none rel false)
  release : y ≠ 0 → ∀ ref, r.get y = .known ref → s.refOk ref = true → s.Reaches (s.refAgent (Ref.of ref)) →
    (s.core s.cur).acqPending r.tid = [] → rel = true → s.effectsResolved r = .ok () →
    (s.core s.cur).barrierMet (s.releaseOf r (.signal ref dec .none rel false)) = true →
    s.Sends i r .sig (s.refAgent (Ref.of ref)) (.signal ref dec .none rel false)
  waits : y ≠ 0 → ∀ ref, r.get y = .known ref → s.refOk ref = true → (s.core s.cur).acqPending r.tid = [] → rel = true →
    s.effectsResolved r = .ok () → (s.core s.cur).barrierMet (s.releaseOf r (.signal ref dec .none rel false)) = false →
    s.stageRoom r = .ok () → (s.core s.cur).comb = [] → exec i s = .next (s.setCore s.cur { s.issued r 1 with
      barriers := (s.core s.cur).barriers ++ [s.releaseOf r (.signal ref dec .none rel false)] })
  late : ∀ (j k : Nat) (u v : Word), r.get y = .form j u v → (s.core s.cur).acqPending r.tid = [] →
    (rel = true → s.effectsResolved r = .ok ()) → s.supply r 0 1 = .ok () → SMap.firstFree (s.core s.cur).pool 0 256 = some k →
    s.Defers i r k (.sig rel dec) [.form j u v]

section SendsNull

variable {s : State} {r : Run} {y : XReg} {i : Instr} {dec : Nat} {rel : Bool}

/-- x0 holds no form. -/
theorem Run.ne_zero_of_form {j : Nat} {u v : Word} (h : r.get y = .form j u v) : y ≠ 0 := fun h0 => by
  simp [h0, Run.get, Run.reg] at h

theorem sendsNull_of_meets (hr : (s.core s.cur).run = some r) (hm : s.Meets r i (nullSignal y rel dec s r)) :
    s.SendsNull r y i dec rel where
  none hy := hm.becomes hr (nullSignal_zero hy)
  bad hy ref hk hbad := hm.faults ((nullSignal_known hy hk).trans (State.issueSignal_bad hbad)) (by decide)
  relaxed hy ref hk hok hreach ha hrel hw := by
    refine hm.sends hr hreach ?_
    rw [nullSignal_known hy hk, State.issueSignal_good hok, hrel]
    exact (State.issueOp_sent _ ⟨ha, hw⟩).trans (congrArg _ (State.launch_signal hok))
  release hy ref hk hok hreach ha hrel he hmet := by
    refine hm.sends hr hreach ?_
    subst hrel
    rw [nullSignal_known hy hk, State.issueSignal_good hok]
    exact (State.issueRelease_met _ ha he hmet).trans (congrArg _ (State.launch_signal hok))
  waits hy ref hk hok ha hrel he hmet hroom hcomb := by
    subst hrel
    rw [nullSignal_known hy hk, State.issueSignal_good hok] at hm
    exact (hm.leaves (State.issueRelease_waits _ ha he hmet hroom hcomb) hr :)
  late j k u v hk ha he hs hf := by
    have H : s.MayDefer r ⟨0, false⟩ k := ⟨Run.issues_always hr, ha, hs, hf⟩
    rw [nullSignal_late (Run.ne_zero_of_form hk) hk, State.deferSignal_defers (by nofun) he] at hm
    exact H.defers (rfl : deferrable [.form j u v] [.form j u v] = true) hm

end SendsNull

/-- Settles O34: each instruction comes to its null signal, with its decrement (`sendsNull_of_meets`). -/
theorem nullSignals : Obligations.NullSignals := by
  unfold Obligations.NullSignals
  intro s r g b y xg vb dw len cnt rows fn gf lu byt t sc sat rel evp sz ss acc qa qb val act rnd tag hr hg hcnt hlen hrows c p hp
  suffices h : s.SendsNull r y p.1 p.2.1 p.2.2 from
    ⟨h.none, fun hy ref hk => ⟨h.bad hy ref hk, fun hok hreach ha => ⟨h.relaxed hy ref hk hok hreach ha, fun hrel he =>
      ⟨h.release hy ref hk hok hreach ha hrel he, h.waits hy ref hk hok ha hrel he⟩⟩⟩, h.late⟩
  have hnull {i : Instr} {f nul : Meaning} (hi : exec i s = guardedN g true f nul s) := meets_null hr hg hi
  have hbytes {i : Instr} {f : Meaning} {fbyt : Bool} {l : Run → List RVal} (ws : List Word) (hl : l r = ws.map .known)
      (hi : exec i s = guardedN g true f (fun s r => nullBytes y fbyt (l r) s r) s) :
      s.Meets r i (nullSignal y false (if fbyt then (ws.map (·.toNat)).foldl (· * ·) 1 else 1) s r) :=
    nullBytes_eq y fbyt hl ▸ hnull (nul := fun s r => nullBytes y fbyt (l r) s r) hi
  simp only [List.mem_cons, List.not_mem_nil, or_false] at hp
  rcases hp with rfl | rfl | rfl | rfl | rfl | rfl | rfl | rfl | rfl | rfl | rfl | rfl | rfl
  · exact sendsNull_of_meets hr (hnull (exec_sig ..))
  · exact sendsNull_of_meets hr (hnull (exec_sigd ..))
  · exact sendsNull_of_meets hr (hnull (exec_sigv ..))
  · exact sendsNull_of_meets hr (hnull (exec_gld ..))
  · exact sendsNull_of_meets hr (by simpa using hbytes [len] (by simp [hlen]) (exec_cpy ..))
  · exact sendsNull_of_meets hr (by simpa using hbytes [len, rows] (by simp [hlen, hrows]) (exec_cpy2 ..))
  · exact sendsNull_of_meets hr (by simpa using hbytes [len] (by simp [hlen]) (exec_cpym ..))
  · exact sendsNull_of_meets hr (by simpa using hbytes [cnt, rows] (by simp [hcnt, hrows]) (exec_gthr ..))
  · exact sendsNull_of_meets hr (hnull (exec_mma ..))
  · exact sendsNull_of_meets hr (hnull (exec_mmas ..))
  · exact sendsNull_of_meets hr (hnull (exec_mmg ..))
  · exact sendsNull_of_meets hr (hnull (exec_accld ..))
  · exact sendsNull_of_meets hr (hnull (exec_accst ..))

end Sys2Proof.Machine
end

section
/-! PROOF. O49: RDSR and WRSR. -/

namespace Sys2Proof.Machine

open Sys2Proof

/-! ## What each number reads (Table 4-7) -/

/-- The numbers of the registers that are not in an array. -/
def singleSpecials : List Nat := [0x000, 0x001, 0x002, 0x003, 0x008, 0x009, 0x010, 0x011, 0x018, 0x019, 0x01A, 0x01B, 0x01C]

section Special

variable {s : State} {r : Run} {n k : Nat}

theorem State.special_of_notMem (hn : n ∉ singleSpecials) : s.special r n =
    if 0x040 ≤ n ∧ n ≤ 0x05F then some (SMap.get (s.core s.cur).land (n - 0x040) 0)
    else if 0x060 ≤ n ∧ n ≤ 0x063 then some (((SMap.find (s.core s.cur).bp (n - 0x060)).map (·.val)).getD 0)
    else if 0x068 ≤ n ∧ n ≤ 0x069 then some (((SMap.find (s.core s.cur).wp (n - 0x068)).map (·.val)).getD 0)
    else none := by
  unfold State.special
  dsimp only
  split
  case h_14 => rfl
  all_goals exact absurd hn (by decide)

theorem notMem_singleSpecials (h : 0x040 ≤ n) : n ∉ singleSpecials := fun hn => by
  simp only [singleSpecials, List.mem_cons, List.not_mem_nil, or_false] at hn
  omega

theorem State.special_land (hk : k < 32) : s.special r (0x040 + k) = some (SMap.get (s.core s.cur).land k 0) := by
  rw [State.special_of_notMem (notMem_singleSpecials (by omega)), if_pos (by omega), Nat.add_sub_cancel_left]

theorem State.special_bp (hk : k < 4) :
    s.special r (0x060 + k) = some (((SMap.find (s.core s.cur).bp k).map (·.val)).getD 0) := by
  rw [State.special_of_notMem (notMem_singleSpecials (by omega)), if_neg (by omega), if_pos (by omega), Nat.add_sub_cancel_left]

theorem State.special_wp (hk : k < 2) :
    s.special r (0x068 + k) = some (((SMap.find (s.core s.cur).wp k).map (·.val)).getD 0) := by
  rw [State.special_of_notMem (notMem_singleSpecials (by omega)), if_neg (by omega), if_neg (by omega), if_pos (by omega),
    Nat.add_sub_cancel_left]

theorem State.special_unassigned (hn : n ∉ singleSpecials) (hland : ¬ (0x040 ≤ n ∧ n ≤ 0x05F)) (hbp : ¬ (0x060 ≤ n ∧ n ≤ 0x063))
    (hwp : ¬ (0x068 ≤ n ∧ n ≤ 0x069)) : s.special r n = none := by
  rw [State.special_of_notMem hn, if_neg hland, if_neg hbp, if_neg hwp]

theorem State.special_single (hn : n ∈ singleSpecials) : (s.special r n).isSome = true := by
  simp only [singleSpecials, List.mem_cons, List.not_mem_nil, or_false] at hn
  rcases hn with rfl | rfl | rfl | rfl | rfl | rfl | rfl | rfl | rfl | rfl | rfl | rfl | rfl
  all_goals rfl

theorem State.special_frame : s.special r 0x003 = some (BitVec.ofNat 64 (4096 * r.fid)) := by
  show some (place r.fid 12) = _
  rw [place, Nat.shiftLeft_eq, Nat.mul_comm]

theorem State.special_rounding : s.special r 0x011 =
    some (match s.rmodeOf r.region with | .rne => 0 | .rtz => 1 | .rup => 2 | .rdn => 3 | .rna => 4) := by
  show some (BitVec.ofNat 64 (rmodeCode (s.rmodeOf r.region))) = _
  cases s.rmodeOf r.region <;> rfl

/-- The supplies, in one word. -/
theorem State.special_supplies : s.special r 0x01A =
    some (BitVec.ofNat 64 (65536 * (64 - (s.core s.cur).syms.length) + (256 - (s.core s.cur).pool.length))) := by
  show some (place _ 16 ||| place _ 0) = _
  rw [place_zero, place_or (by unfold Core.poolFree; omega), Nat.mul_comm]
  rfl

end Special

/-! ## RDSR (R375) -/

section Read

variable {s : State} {r : Run} {g : Guard} {d : XReg} {n : BitVec 11} {v : Word}

theorem rdsr_writes (h : s.Issues r g) (hv : s.special r n.toNat = some v) : s.Writes (.rdsr g d n) r d v 1 := by
  refine (exec_rdsr ..).trans ((guardedAfter_ok h (by rw [hv]; rfl) rfl).trans ?_)
  rw [hv, Option.getD_some, State.writeX_eq h.1, State.next_setRun]

end Read

/-! ## WRSR (R103, R417) -/

section Write

variable {s : State} {r : Run} {g : Guard} {a : XReg} {n : BitVec 11} {w : Word} {code : Nat}

theorem wrsr_meets (h : s.Issues r g) (hm : s.mayWrite r n.toNat = .ok ()) (hw : r.get a = .known w) :
    s.Meets r (.wrsr g a n) (.ok (s.writeSpecial r n.toNat w)) := by
  have hmeets := meets_guardedAfter h hm (exec_wrsr g a n s)
  rw [Run.known, hw] at hmeets
  exact hmeets

theorem wrsr_refused (hr : (s.core s.cur).run = some r) (hc : code ≠ 0x12) (hm : s.mayWrite r n.toNat = .error (.fault code 0 0)) :
    s.Faults (.wrsr g a n) r code 0 0 := guardedAfter_refused hr hc hm (exec_wrsr ..)

theorem State.mayWrite_unassigned {n : Nat} (h : s.special r n = none) : s.mayWrite r n = .error (.fault 0x01 0 0) := by
  simp [State.mayWrite, h]

theorem State.mayWrite_readOnly {n : Nat} (hn : n ∈ singleSpecials) (hx : n ≠ 0x010) : s.mayWrite r n = .error (.fault 0x02 0 0) := by
  have hsome := State.special_single (s := s) (r := r) hn
  have hlt : n < 0x040 := by
    simp only [singleSpecials, List.mem_cons, List.not_mem_nil, or_false] at hn
    omega
  rw [State.mayWrite, if_neg (by simpa using Option.isSome_iff_ne_none.1 hsome), if_neg (by omega), if_neg (by omega)]

theorem State.mayWrite_land {k : Nat} (hk : k < 32) : s.mayWrite r (0x040 + k) = .ok () := by
  rw [State.mayWrite, State.special_land hk, if_neg (by simp), if_pos (by omega)]

/-- A debug register may be written while DEBUG is 3 or 4, or by a block with PRIV = 1 (R312). -/
theorem State.mayWrite_debug {n : Nat} (hn : 0x060 ≤ n) (h : (s.special r n).isSome = true) : s.mayWrite r n =
    if s.debugOf r.region = 3 ∨ s.debugOf r.region = 4 ∨ r.priv = true then .ok () else .error (.fault 0x02 0 0) := by
  rw [State.mayWrite, if_neg (by simpa using Option.isSome_iff_ne_none.1 h), if_neg (by omega), if_pos hn]

theorem State.mayWrite_debug_of {n : Nat} (hd : s.debugOf r.region = 3 ∨ s.debugOf r.region = 4 ∨ r.priv = true) (hn : 0x060 ≤ n)
    (h : (s.special r n).isSome = true) : s.mayWrite r n = .ok () := (State.mayWrite_debug hn h).trans (if_pos hd)

theorem State.writeSpecial_land {k : Nat} (hk : k < 32) : s.writeSpecial r (0x040 + k) w =
    s.setCore s.cur { s.core s.cur with land := SMap.set (s.core s.cur).land k w } := by
  rw [State.writeSpecial, if_neg (by omega), State.onCore_eq, if_pos (by omega), Nat.add_sub_cancel_left]

theorem State.writeSpecial_bp {k : Nat} (hk : k < 4) : s.writeSpecial r (0x060 + k) w = s.setCore s.cur { s.core s.cur with
    bp := SMap.set (s.core s.cur).bp k ⟨w &&& ~~~ (0x3000000000000000 : Word), r.priv, r.region⟩ } := by
  rw [State.writeSpecial, if_neg (by omega), State.onCore_eq, if_neg (by omega), if_pos (by omega), Nat.add_sub_cancel_left]
  rfl

theorem State.writeSpecial_wp {k : Nat} (hk : k < 2) : s.writeSpecial r (0x068 + k) w = s.setCore s.cur { s.core s.cur with
    wp := SMap.set (s.core s.cur).wp k ⟨w &&& ~~~ (0x1C00000000000000 : Word), r.priv, r.region⟩ } := by
  rw [State.writeSpecial, if_neg (by omega), State.onCore_eq, if_neg (by omega), if_neg (by omega), Nat.add_sub_cancel_left]
  rfl

/-- A register of an array is written in the current core. -/
theorem wrsr_array {num : Nat} {c : Core} (h : s.Issues r g) (hw : r.get a = .known w) (hn : n.toNat = num)
    (hm : s.mayWrite r num = .ok ()) (hs : s.writeSpecial r num w = s.setCore s.cur c) (hc : c.run = some r) :
    exec (.wrsr g a n) s = .next (s.setCore s.cur { c with run := some (r.past 1) }) :=
  (wrsr_meets h (hn ▸ hm) hw).leaves (by rw [hn, hs]) hc

theorem wrsr_debug_refused {num : Nat} (hr : (s.core s.cur).run = some r) (hn : n.toNat = num) (h60 : 0x060 ≤ num)
    (hsome : (s.special r num).isSome = true) (h3 : s.debugOf r.region ≠ 3) (h4 : s.debugOf r.region ≠ 4) (hp : r.priv = false) :
    s.Faults (.wrsr g a n) r 0x02 0 0 :=
  wrsr_refused hr (by decide) (by rw [hn, State.mayWrite_debug h60 hsome, if_neg (by simp [h3, h4, hp])])

end Write

theorem toNat_ofNat_special {n : Nat} (h : n < 2 ^ 11) : (BitVec.ofNat 11 n).toNat = n := by
  rw [BitVec.toNat_ofNat, Nat.mod_eq_of_lt h]

/-- The numbers of a list of register numbers. -/
theorem toNat_mem_iff {n : BitVec 11} {l : List (BitVec 11)} : n.toNat ∈ l.map BitVec.toNat ↔ n ∈ l :=
  List.mem_map_of_injective fun _ _ => BitVec.eq_of_toNat_eq

theorem readOnly_numbers {n : BitVec 11}
    (hn : n ∈ ([0x000, 0x001, 0x002, 0x003, 0x008, 0x009, 0x011, 0x018, 0x019, 0x01A, 0x01B, 0x01C] : List (BitVec 11))) :
    n.toNat ∈ singleSpecials ∧ n.toNat ≠ 0x010 := by
  simp only [List.mem_cons, List.not_mem_nil, or_false] at hn
  rcases hn with rfl | rfl | rfl | rfl | rfl | rfl | rfl | rfl | rfl | rfl | rfl | rfl
  all_goals decide

/-- Settles O49: reads by number, writes by array, and the refusals of R103. -/
theorem specialRegisters : Obligations.SpecialRegisters := by
  unfold Obligations.SpecialRegisters
  refine ⟨fun s r g d a w h => ?_, fun s r g d a hr => ?_⟩
  · intro c
    refine ⟨fun p hp => rdsr_writes h ?_, fun k hk => rdsr_writes h ?_, fun k hk => rdsr_writes h ?_, fun k hk => rdsr_writes h ?_,
      fun hw => ⟨?_, fun k hk => ?_, fun hdebug => ⟨fun k hk => ?_, fun k hk => ?_⟩⟩, fun hl => ?_⟩
    · simp only [List.mem_cons, List.not_mem_nil, or_false] at hp
      rcases hp with rfl | rfl | rfl | rfl | rfl | rfl | rfl | rfl | rfl | rfl | rfl | rfl | rfl
      · rfl
      · rfl
      · rfl
      · exact State.special_frame
      · rfl
      · rfl
      · rfl
      · exact State.special_rounding
      · rfl
      · rfl
      · exact State.special_supplies
      · rfl
      · rfl
    · rw [toNat_ofNat_special (by omega)]; exact State.special_land hk
    · rw [toNat_ofNat_special (by omega)]; exact State.special_bp hk
    · rw [toNat_ofNat_special (by omega)]; exact State.special_wp hk
    · exact Eq.trans (wrsr_meets h rfl hw) (congrArg (fun t : State => Host.Outcome.next (t.next 1)) (State.onRun_eq h.1 _) |>.trans
        (congrArg _ (State.next_setRun ..)))
    · exact wrsr_array h hw (toNat_ofNat_special (by omega)) (State.mayWrite_land hk) (State.writeSpecial_land hk) h.1
    · exact wrsr_array h hw (toNat_ofNat_special (by omega)) (State.mayWrite_debug_of hdebug (by omega) (by rw [State.special_bp hk]; rfl))
        (State.writeSpecial_bp hk) h.1
    · exact wrsr_array h hw (toNat_ofNat_special (by omega)) (State.mayWrite_debug_of hdebug (by omega) (by rw [State.special_wp hk]; rfl))
        (State.writeSpecial_wp hk) h.1
    · refine (meets_guardedAfter h rfl (exec_wrsr g a 0x010 s)).parks ?_
      rw [Run.known_late hl]
      rfl
  · refine ⟨fun n hn hland hbp hwp => ?_, fun n hn => ?_, fun h3 h4 hp => ⟨fun k hk => ?_, fun k hk => ?_⟩⟩
    · have hnone : s.special r n.toNat = none := State.special_unassigned (fun hm => hn (toNat_mem_iff.1 hm)) hland hbp hwp
      exact ⟨guardedAfter_refused hr (by decide) (by rw [hnone]; rfl) (exec_rdsr ..),
        wrsr_refused hr (by decide) (State.mayWrite_unassigned hnone)⟩
    · obtain ⟨hmem, hne⟩ := readOnly_numbers hn
      exact wrsr_refused hr (by decide) (State.mayWrite_readOnly hmem hne)
    · exact wrsr_debug_refused hr (toNat_ofNat_special (by omega)) (by omega) (by rw [State.special_bp hk]; rfl) h3 h4 hp
    · exact wrsr_debug_refused hr (toNat_ofNat_special (by omega)) (by omega) (by rw [State.special_wp hk]; rfl) h3 h4 hp

end Sys2Proof.Machine
end

section
/-! SUPPORT. What SYMQ, RGNCTL and RESUME come to, and the privilege that the system instructions need (R104, R305, R377, R378, R394). -/

namespace Sys2Proof.Machine

open Sys2Proof

/-! ## Privilege (R104) -/

section Priv

variable {s : State} {r : Run} {i : Instr} {g : Guard} {f : Meaning}

theorem needPriv_ok (h : r.priv = true) : needPriv s r = .ok () := if_pos h

theorem needPriv_refused (hr : (s.core s.cur).run = some r) (hp : r.priv = false) (hi : exec i s = guardedAfter g needPriv f s) :
    s.Faults i r 0x02 0 0 := guardedAfter_refused hr (by decide) (if_neg (ne_true_of_eq_false hp)) hi

end Priv

/-! ## SYMQ (R394, Table 17-3) -/

section Symq

variable {s : State} {r : Run} {g : Guard} {d a : XReg} {c : Core}

theorem symq_writes {v : RVal} {w : Word} (h : s.Issues r g) (hv : r.get a = v) (hw : (s.core s.cur).descriptor v = w) :
    s.Writes (.symq g d a) r d w 1 :=
  (exec_symq ..).trans (guarded_run h (by rw [hv, hw]; exact congrArg _ (State.writeX_eq h.1 ..)))

/-- Does the symbol of a register await its address? -/
def Core.awaits (c : Core) (i : Nat) : Nat := if (SMap.find c.syms i).map (·.st) = some .awaiting then 1 else 0

theorem bitOf_awaits (c : Core) (i : Nat) : bitOf ((SMap.find c.syms i).any fun x => x.st == .awaiting) = c.awaits i := by
  unfold Core.awaits
  cases SMap.find c.syms i with
  | none => rfl
  | some x => by_cases hx : x.st = .awaiting <;> simp [hx, bitOf]

theorem Core.descriptor_form {i : Nat} {p q : Word} (hi : i < 64) : c.descriptor (.form i p q) =
    BitVec.ofNat 64 (2 ^ 62 + (if p = 1 ∧ q = 0 then 2 ^ 15 else 0) + 1024 * c.awaits i + i) := by
  have haw : c.awaits i ≤ 1 := by unfold Core.awaits; split <;> omega
  have hid : bitOf (p == 1 && q == 0) = if p = 1 ∧ q = 0 then 1 else 0 := by
    by_cases hp : p = 1 <;> by_cases hq : q = 0 <;> simp [hp, hq, bitOf]
  simp only [Core.descriptor, bitOf_awaits, hid]
  rw [BitVec.or_assoc, BitVec.or_assoc, place_zero, place_or (by omega), place_or (by omega), place_or (by split <;> omega)]
  congr 1
  split <;> omega

theorem Core.descriptor_chain {i : Nat} {l : List ChainStep} (hi : i < 64) (hl : l.length ≤ 4) : c.descriptor (.chain i l) =
    BitVec.ofNat 64 (2 ^ 63 + 4096 * l.length + 1024 * c.awaits i + i) := by
  have haw : c.awaits i ≤ 1 := by unfold Core.awaits; split <;> omega
  simp only [Core.descriptor, bitOf_awaits]
  rw [BitVec.or_assoc, BitVec.or_assoc, place_zero, place_or (by omega), place_or (by omega), place_or (by omega)]
  congr 1
  omega

end Symq

/-! ## RGNCTL (R378) and RESUME (R305, R377) -/

section Releases

variable {s : State} {r : Run} {g : Guard} {xg y a : XReg} {ws : List Word} {ref : Word} {op form : Nat} {i : Instr}

/-- A command's operands, every one known: a reference is checked unless it is x0 (R52). -/
theorem State.cmdOperands_ok {grp : List RVal} (hg : grp = ws.map .known) (hy : r.get y = .known ref)
    (hok : y ≠ 0 → s.refOk ref = true) (ha : (s.core s.cur).acqPending r.tid = []) : s.cmdOperands r grp y = .ok (ws, ref) := by
  have hall : allKnown (grp ++ [r.get y]) = .ok (ws ++ [ref]) := by
    rw [hg, hy, ← List.map_singleton, ← List.map_append, allKnown_known]
  have hlen : grp.length = ws.length := by rw [hg, List.length_map]
  have hrest : (do
      let vs ← allKnown (grp ++ [r.get y])
      s.acquired r
      Except.ok (vs.take grp.length, wordAt vs grp.length)) = .ok (ws, ref) := by
    rw [hall, State.acquired_ok ha, hlen]
    simp [bind, Except.bind, wordAt]
  by_cases hy0 : y = 0
  · simpa only [State.cmdOperands, hy0, ne_eq, not_true_eq_false, if_false] using hrest
  · have hcheck : (s.checkRef ref).stop = .ok () := by rw [State.checkRef, if_pos (hok hy0)]; rfl
    rw [State.cmdOperands]
    dsimp only
    rw [if_pos hy0, hy, onKnown_known, hcheck, ← hy]
    exact hrest

theorem State.cmdOperands_bad {grp : List RVal} (hy0 : y ≠ 0) (hy : r.get y = .known ref) (hbad : s.refOk ref = false) :
    s.cmdOperands r grp y = .error (.fault 0x09 0 0) := by
  have hcheck : (s.checkRef ref).stop = .error (.fault 0x09 0 0) := by
    rw [State.checkRef, if_neg (ne_true_of_eq_false hbad)]
    rfl
  rw [State.cmdOperands]
  dsimp only
  rw [if_pos hy0, hy, onKnown_known, hcheck]
  rfl

/-- A release that injects one packet, or becomes a barrier while its condition does not hold. -/
theorem State.Meets.releases {body : OpBody} {dst : Agent} {b : PBody} (hm : s.Meets r i (s.issueRelease r body))
    (hr : (s.core s.cur).run = some r) (ha : (s.core s.cur).acqPending r.tid = []) (he : s.effectsResolved r = .ok ())
    (hd : s.Reaches dst) (hl : s.numbered.launch s.cur (s.opOf r body) = s.numbered.inject s.cur r.region .req dst b) :
    ((s.core s.cur).barrierMet (s.releaseOf r body) = true → s.Sends i r .req dst b) ∧
    ((s.core s.cur).barrierMet (s.releaseOf r body) = false → s.stageRoom r = .ok () → (s.core s.cur).comb = [] →
      exec i s = .next (s.setCore s.cur { s.issued r 1 with barriers := (s.core s.cur).barriers ++ [s.releaseOf r body] })) :=
  ⟨fun hmet => hm.sends hr hd ((State.issueRelease_met _ ha he hmet).trans (congrArg _ hl)),
    fun hnot hroom hcomb => (hm.leaves (State.issueRelease_waits _ ha he hnot hroom hcomb) hr :)⟩

theorem rgnctl_refused (hr : (s.core s.cur).run = some r) (hp : r.priv = false) (hi : exec i s = rgnctl op g xg y s) :
    s.Faults i r 0x02 0 0 := needPriv_refused hr hp (hi.trans rfl)

theorem resume_refused (hr : (s.core s.cur).run = some r) (hp : r.priv = false) (hi : exec i s = resumeForm form g a s) :
    s.Faults i r 0x02 0 0 := needPriv_refused hr hp (hi.trans rfl)

section Priv

variable (h : s.Issues r g) (hp : r.priv = true)
include h hp

theorem rgnctl_meets {rcb arg : Word} (hi : exec i s = rgnctl op g xg y s) (hg : r.group xg 2 = [.known rcb, .known arg])
    (hy : r.get y = .known ref) (hok : y ≠ 0 → s.refOk ref = true) (ha : (s.core s.cur).acqPending r.tid = []) :
    s.Meets r i (s.issueRelease r (.rgnctl op rcb arg ref)) := by
  have hm := meets_guardedAfter h (needPriv_ok hp) hi
  rw [State.cmdOperands_ok (ws := [rcb, arg]) hg hy hok ha] at hm
  exact hm

theorem rgnctl_badRef (hi : exec i s = rgnctl op g xg y s) (hy0 : y ≠ 0) (hy : r.get y = .known ref) (hbad : s.refOk ref = false) :
    s.Faults i r 0x09 0 0 :=
  (meets_guardedAfter h (needPriv_ok hp) hi).faults (by rw [State.cmdOperands_bad hy0 hy hbad]; rfl) (by decide)

theorem resume_parks (hi : exec i s = resumeForm form g a s) (hl : (r.get a).isLate) : s.Parks i r [r.get a] :=
  (meets_guardedAfter h (needPriv_ok hp) hi).parks (by rw [Run.known_late hl]; rfl)

/-- A token's own bits: its reserved fields and its kind (Table 13-4). -/
theorem resume_meets {t : Word} (hi : exec i s = resumeForm form g a s) (ht : r.get a = .known t) :
    s.Meets r i (do
      need (field t 61 43 == 0 && field t 7 5 == 0 && field t 63 62 == (if form ≤ 1 then 1 else 2)) 0x09 0
      s.issueRelease r (.resume form t)) := by
  have hm := meets_guardedAfter h (needPriv_ok hp) hi
  rw [Run.known, ht] at hm
  exact hm

end Priv

end Releases

end Sys2Proof.Machine
end

section
/-! SUPPORT. What TLBINV and WAYCFG come to (R395, R415, R416). -/

namespace Sys2Proof.Machine

open Sys2Proof

/-! ## TLBINV (R395) -/

section Tlbinv

variable {s : State} {r : Run} {g : Guard} {a b : XReg} {va w : Word} {n : Nat}

theorem asidOk_bad (h : w.extractLsb' 16 48 ≠ 0 ∨ w.extractLsb' 0 16 = 0) : asidOk w = .error (.fault 0x07 0 0) := by
  have hbad : (field w 63 16 == 0 && field w 15 0 != 0) = false := by
    rcases h with h | h
    · simp [mt (field_eq_zero w 63 16).1 h]
    · simp [(field_eq_zero w 15 0).2 h]
  rw [asidOk, hbad]
  rfl

theorem field_asid (hn : n < 65536) : field (BitVec.ofNat 64 n) 63 16 = 0 ∧ field (BitVec.ofNat 64 n) 15 0 = n := by
  simp only [field, BitVec.toNat_ofNat, Nat.shiftRight_eq_div_pow]
  omega

theorem asidOk_good (h1 : 1 ≤ n) (hn : n < 65536) : asidOk (BitVec.ofNat 64 n) = .ok () := by
  obtain ⟨hhigh, hlow⟩ := field_asid hn
  have hpos : (n != 0) = true := bne_iff_ne.2 (by omega)
  simp [asidOk, hhigh, hlow, hpos]

theorem State.mayInvalidate_iff {region asid : Nat} : s.mayInvalidate region asid = true ↔
    region = 1 ∨ ∃ k x, (k, x) ∈ s.regions ∧ x.asid = asid ∧ s.domainOf k = some region := by
  simp [State.mayInvalidate, List.any_eq_true]

section Priv

variable (h : s.Issues r g) (hp : r.priv = true) (hb : r.get b = .known w)
include h hp hb

/-- TLBINV.PG on known operands, in the order of its checks. -/
theorem tlbinvPg_meets (ha : r.get a = .known va) : s.Meets r (.tlbinvPg g a b) (do
    asidOk w
    need (!highVa va) 0x05 va.toNat
    need (s.mayInvalidate r.region (field w 15 0)) 0x05 0
    .ok (s.issueFence r (.tlbinvPg (field w 15 0) va.toNat) [])) := by
  have hm := meets_guardedAfter h (needPriv_ok hp) (exec_tlbinvPg g a b s)
  rw [Run.known2, ha, hb] at hm
  exact hm

theorem tlbinvAs_meets : s.Meets r (.tlbinvAs g b) (do
    asidOk w
    need (s.mayInvalidate r.region (field w 15 0)) 0x05 0
    .ok (s.issueFence r (.tlbinvAs (field w 15 0)) [])) := by
  have hm := meets_guardedAfter h (needPriv_ok hp) (exec_tlbinvAs g b s)
  rw [Run.known, hb] at hm
  exact hm

end Priv

/-- A TLBINV leaves its barrier. -/
theorem State.Meets.leaves_barrier {i : Instr} {kind : BarrierKind} (hm : s.Meets r i (.ok (s.issueFence r kind [])))
    (hr : (s.core s.cur).run = some r) (hk : ∀ w u e scope, kind ≠ .fence w u e scope) (hacq : ∀ op, kind ≠ .acq op)
    (hrel : ∀ o, kind ≠ .release o) : exec i s = .next (s.setCore s.cur { s.issued r 1 with
      barriers := (s.core s.cur).barriers ++ [⟨(s.core s.cur).nextSeq, r.origin, kind, []⟩] }) :=
  (hm.leaves (congrArg _ (State.issueFence_waits hk hacq hrel)) hr :)

end Tlbinv

/-! ## WAYCFG (R415, R416) -/

section Waycfg

variable {s : State} {r : Run} {g : Guard} {a b : XReg} {x y w : Nat}

theorem field_node (hx : x < 32) (hy : y < 32) : field (BitVec.ofNat 64 (x + 32 * y)) 63 10 = 0 ∧
    field (BitVec.ofNat 64 (x + 32 * y)) 4 0 = x ∧ field (BitVec.ofNat 64 (x + 32 * y)) 9 5 = y := by
  simp only [field, BitVec.toNat_ofNat, Nat.shiftRight_eq_div_pow]
  omega

theorem field_ways (hw : w < 16) : field (BitVec.ofNat 64 w) 63 4 = 0 ∧ (BitVec.ofNat 64 w).toNat = w := by
  simp only [field, BitVec.toNat_ofNat, Nat.shiftRight_eq_div_pow]
  omega

theorem isSliceColumn_iff : isSliceColumn x = true ↔ x ∈ ([0, 9, 10, 19] : List Nat) := by
  simp [isSliceColumn, or_assoc]

/-- The slice of every node of a slice column (R7). -/
theorem sliceNode_sliceAt : ∀ x ∈ ([0, 9, 10, 19] : List Nat), ∀ y < 32, sliceAt x y < 128 ∧ sliceNode (sliceAt x y) = (x, y) := by
  decide

/-- WAYCFG of the device region on a node and a way count, in the order of its checks. -/
theorem waycfg_meets (h : s.Issues r g) (hp : r.priv = true) (hregion : r.region = 1) (ha : r.get a = .known (BitVec.ofNat 64 (x + 32 * y)))
    (hb : r.get b = .known (BitVec.ofNat 64 w)) (hx : x < 32) (hy : y < 32) (hw : w < 16) : s.Meets r (.waycfg g a b) (do
      need (isSliceColumn x) 0x09 0
      need (decide (w ≤ 12)) 0x07 0
      s.issueOp r (.waycfg (sliceAt x y) w)) := by
  obtain ⟨hn, hcol, hrow⟩ := field_node hx hy
  obtain ⟨hw4, hwn⟩ := field_ways hw
  have hm := meets_guardedAfter h (needPriv_ok hp) (exec_waycfg g a b s)
  simpa only [Run.known2, ha, hb, onKnown_known, hregion, hn, hcol, hrow, hw4, hwn, beq_self_eq_true, need_true, bind, Except.bind] using hm

/-- What a command to a slice leaves: it is outstanding, and its packet is sent (R416). -/
theorem waycfg_sent {i : Instr} {sl : Nat} (hr : (s.core s.cur).run = some r)
    (hm : s.Meets r i (.ok (s.numbered.launch s.cur (s.opOf r (.waycfg sl w))))) :
    ∃ t, exec i s = .next t ∧
      t.net = s.net ++ [⟨.req, .core s.cur, .slice sl, r.region, .waycfg (s.core s.cur).nextSeq w⟩] ∧
      t.core s.cur = { s.issued r 1 with outst := (s.core s.cur).outst ++ [s.opOf r (.waycfg sl w)] } ∧ s.SameBytes t := by
  let c : Core := { s.core s.cur with
    nextSeq := (s.core s.cur).nextSeq + 1, outst := (s.core s.cur).outst ++ [s.opOf r (.waycfg sl w)] }
  have hlaunch : s.numbered.launch s.cur (s.opOf r (.waycfg sl w)) =
      (s.setCore s.cur c).inject s.cur r.region .req (.slice sl) (.waycfg (s.core s.cur).nextSeq w) := by
    show (s.numbered.onCore s.cur _).inject _ _ _ _ _ = _
    rw [State.onCore_eq, State.numbered_core, State.numbered, State.setCore_setCore]
    rfl
  have hstores := (s.setCore s.cur c).inject_sameStores s.cur r.region .req (.slice sl) (.waycfg (s.core s.cur).nextSeq w)
  rw [hlaunch] at hm
  refine ⟨_, Eq.trans hm (congrArg Host.Outcome.next
    (State.next_of_core ((hstores.core _).trans ((State.core_setCore ..).trans (if_pos rfl))) hr hstores.cur 1)), ?_, ?_, ?_⟩
  · rw [State.net_setRun]
    exact State.net_inject (s := s.setCore s.cur c) (State.reaches_of_local nofun)
  · rw [State.core_setRun, if_pos rfl, hstores.core, State.core_setCore, if_pos rfl]
    rfl
  · exact ((State.sameBytes_setCore s (by rfl)).trans hstores.sameBytes).trans (State.sameBytes_setCore _ (by rfl))

end Waycfg

end Sys2Proof.Machine
end

section
/-! PROOF. O50: privilege, SYMQ, RGNCTL, RESUME, TLBINV and WAYCFG. -/

namespace Sys2Proof.Machine

open Sys2Proof

section Settle

variable {s : State} {r : Run} {g : Guard}

/-- R104: without privilege each of the instructions faults, whatever its guard. -/
theorem system_refused (hr : (s.core s.cur).run = some r) (hp : r.priv = false) (a b : XReg) :
    ∀ i ∈ ([.rgnctlAct g a b, .rgnctlCfg g a b, .rgnctlSusp g a b, .rgnctlRes g a b, .rgnctlDel g a b, .tlbinvPg g a b,
      .tlbinvAs g b, .tlbinvAll g, .waycfg g a b, .resume g a, .resumeAbt g a, .resumeRpl g a, .resumeDrp g a] : List Instr),
      s.Faults i r 0x02 0 0 := by
  intro i hi
  simp only [List.mem_cons, List.not_mem_nil, or_false] at hi
  rcases hi with rfl | rfl | rfl | rfl | rfl | rfl | rfl | rfl | rfl | rfl | rfl | rfl | rfl
  · exact rgnctl_refused hr hp (exec_rgnctlAct ..)
  · exact rgnctl_refused hr hp (exec_rgnctlCfg ..)
  · exact rgnctl_refused hr hp (exec_rgnctlSusp ..)
  · exact rgnctl_refused hr hp (exec_rgnctlRes ..)
  · exact rgnctl_refused hr hp (exec_rgnctlDel ..)
  · exact needPriv_refused hr hp (exec_tlbinvPg ..)
  · exact needPriv_refused hr hp (exec_tlbinvAs ..)
  · exact needPriv_refused hr hp (exec_tlbinvAll ..)
  · exact needPriv_refused hr hp (exec_waycfg ..)
  · exact resume_refused hr hp (exec_resume ..)
  · exact resume_refused hr hp (exec_resumeAbt ..)
  · exact resume_refused hr hp (exec_resumeRpl ..)
  · exact resume_refused hr hp (exec_resumeDrp ..)

theorem rgnctl_forms {xg y : XReg} {p : Instr × Nat}
    (hp : p ∈ ([(.rgnctlAct g xg y, 0), (.rgnctlCfg g xg y, 1), (.rgnctlSusp g xg y, 2), (.rgnctlRes g xg y, 3),
      (.rgnctlDel g xg y, 4)] : List (Instr × Nat))) : exec p.1 s = rgnctl p.2 g xg y s := by
  simp only [List.mem_cons, List.not_mem_nil, or_false] at hp
  rcases hp with rfl | rfl | rfl | rfl | rfl
  · exact exec_rgnctlAct ..
  · exact exec_rgnctlCfg ..
  · exact exec_rgnctlSusp ..
  · exact exec_rgnctlRes ..
  · exact exec_rgnctlDel ..

theorem resume_forms {a : XReg} {p : Instr × Nat}
    (hp : p ∈ ([(.resume g a, 0), (.resumeAbt g a, 1), (.resumeRpl g a, 2), (.resumeDrp g a, 3)] : List (Instr × Nat))) :
    exec p.1 s = resumeForm p.2 g a s := by
  simp only [List.mem_cons, List.not_mem_nil, or_false] at hp
  rcases hp with rfl | rfl | rfl | rfl
  · exact exec_resume ..
  · exact exec_resumeAbt ..
  · exact exec_resumeRpl ..
  · exact exec_resumeDrp ..

/-- The check of a token as a statement writes it. -/
theorem token_check (t : Word) (kind : Nat) : (field t 61 43 == 0 && field t 7 5 == 0 && field t 63 62 == kind) = true ↔
    t.extractLsb' 43 19 = 0 ∧ t.extractLsb' 5 3 = 0 ∧ (t.extractLsb' 62 2).toNat = kind := by
  rw [Bool.and_eq_true, Bool.and_eq_true, beq_iff_eq, beq_iff_eq, beq_iff_eq, field_eq_zero, field_eq_zero, field_eq, and_assoc]

end Settle

/-- Settles O50: the privilege check, then each instruction by what it comes to. -/
theorem systemInstructions : Obligations.SystemInstructions := by
  unfold Obligations.SystemInstructions
  refine ⟨fun s r g a b hr hp => system_refused hr hp a b, fun s r g d a b xg y h => ?_⟩
  intro c leaves awaiting
  have hawait (i : Nat) : 1024 * c.awaits i = awaiting i := by
    simp only [Core.awaits, awaiting]
    split <;> rfl
  refine ⟨fun w hw => symq_writes h hw rfl,
    fun i p q hi hf => symq_writes h hf (by rw [Core.descriptor_form hi, hawait]),
    fun i l hi hl hf => symq_writes h hf (by rw [Core.descriptor_chain hi hl, hawait]), fun hp => ?_⟩
  refine ⟨fun p hmem rcb arg ref hgroup hy => ?_, fun p hmem => ?_, fun va w ha hb => ?_, fun hregion => ?_, fun hregion => ?_,
    fun hregion x yy w ha hb hx hyy hw => ?_⟩
  · exact ⟨fun hy0 hbad => rgnctl_badRef h hp (rgnctl_forms hmem) hy0 hy hbad, fun hok hacq he =>
      (rgnctl_meets h hp (rgnctl_forms hmem) hgroup hy hok hacq).releases h.1 hacq he (State.reaches_of_local nofun) rfl⟩
  · refine ⟨resume_parks h hp (resume_forms hmem), fun t ht => ?_⟩
    have hm := resume_meets h hp (resume_forms hmem) ht
    have hcheck := token_check t (if p.2 ≤ 1 then 1 else 2)
    refine ⟨fun hbad => ?_, fun h1 h2 h3 hacq he hmet => ?_⟩
    · have hfalse := Bool.eq_false_iff.2 (mt hcheck.1 fun ⟨k1, k2, k3⟩ => hbad.elim (· k1) fun hbad => hbad.elim (· k2) (· k3))
      exact hm.faults (by rw [hfalse]; rfl) (by decide)
    · rw [hcheck.2 ⟨h1, h2, h3⟩, need_true] at hm
      refine (State.Meets.releases (dst := .core (t.extractLsb' 32 11).toNat) hm h.1 hacq he (State.reaches_of_local nofun) ?_).1 hmet
      exact congrArg (fun n => s.numbered.inject s.cur r.region .req (.core n) (.resume p.2 t r.origin)) (field_eq t 42 32)
  · have hpg := tlbinvPg_meets h hp hb ha
    have has := tlbinvAs_meets h hp hb
    refine ⟨fun hbad => ?_, fun n hn h1 hlt => ?_⟩
    · rw [asidOk_bad hbad] at hpg has
      exact ⟨hpg.faults rfl (by decide), has.faults rfl (by decide)⟩
    · subst hn
      rw [asidOk_good h1 hlt, (field_asid hlt).2] at hpg has
      refine ⟨fun hhigh => ?_, fun hlow hown => ?_, fun hlow hregion hother => ?_⟩
      · rw [highVa_of_le hhigh, Bool.not_true, need_false] at hpg
        exact hpg.faults rfl (by decide)
      · rw [highVa_of_lt hlow, State.mayInvalidate_iff.2 hown] at hpg
        rw [State.mayInvalidate_iff.2 hown] at has
        exact ⟨State.Meets.leaves_barrier (kind := .tlbinvPg n va.toNat) hpg h.1 (by simp) (by simp) (by simp),
          State.Meets.leaves_barrier (kind := .tlbinvAs n) has h.1 (by simp) (by simp) (by simp)⟩
      · have hnot := Bool.eq_false_iff.2 (mt (State.mayInvalidate_iff (s := s) (region := r.region) (asid := n)).1
          fun hown => hown.elim hregion fun ⟨k, x, hk, hx, hd⟩ => hother k x hk hx hd)
        rw [highVa_of_lt hlow, hnot, Bool.not_false, need_true, need_false] at hpg
        rw [hnot, need_false] at has
        exact ⟨hpg.faults rfl (by decide), has.faults rfl (by decide)⟩
  · have hm := meets_guardedAfter h (needPriv_ok hp) (exec_tlbinvAll g s)
    rw [hregion] at hm
    exact State.Meets.leaves_barrier (kind := .tlbinvAll) hm h.1 (by simp) (by simp) (by simp)
  · have hne : (r.region == 1) = false := beq_eq_false_iff_ne.2 hregion
    exact ⟨(meets_guardedAfter h (needPriv_ok hp) (exec_tlbinvAll g s)).faults (by rw [hne]; rfl) (by decide),
      (meets_guardedAfter h (needPriv_ok hp) (exec_waycfg g a b s)).faults (by rw [hne]; rfl) (by decide)⟩
  · have hm := waycfg_meets h hp hregion ha hb hx hyy hw
    refine ⟨fun hcol => ?_, fun hcol hbig => ?_, fun hcol hle hissue => ?_⟩
    · rw [Bool.eq_false_iff.2 (mt isSliceColumn_iff.1 hcol)] at hm
      exact hm.faults rfl (by decide)
    · rw [isSliceColumn_iff.2 hcol, decide_eq_false (by omega)] at hm
      exact hm.faults rfl (by decide)
    · rw [isSliceColumn_iff.2 hcol, decide_eq_true hle] at hm
      obtain ⟨hlt, hnode⟩ := sliceNode_sliceAt x hcol yy hyy
      obtain ⟨t, ht, hnet, hcore, hbytes⟩ := waycfg_sent h.1 (State.issueOp_sent (.waycfg (sliceAt x yy) w) hissue ▸ hm)
      exact ⟨t, _, ht, hlt, hnode, hnet, hcore, hbytes⟩

end Sys2Proof.Machine
end

section
/-! PROOF. O3: every well-formed instruction is what its own words decode to. -/

namespace Sys2Proof.Machine

open Sys2Proof

/-- Settles O3, instruction by instruction, by the laws of the encoding; an event has no words. -/
theorem encodeDecode : Obligations.EncodeDecode := by
  unfold Obligations.EncodeDecode
  intro i
  cases i with
  | add g d a b => exact Laws.EncodeDecode.add g d a b
  | sub g d a b => exact Laws.EncodeDecode.sub g d a b
  | and g d a b => exact Laws.EncodeDecode.and g d a b
  | or g d a b => exact Laws.EncodeDecode.or g d a b
  | xor g d a b => exact Laws.EncodeDecode.xor g d a b
  | shl g d a b => exact Laws.EncodeDecode.shl g d a b
  | shr g d a b => exact Laws.EncodeDecode.shr g d a b
  | sar g d a b => exact Laws.EncodeDecode.sar g d a b
  | min g d a b => exact Laws.EncodeDecode.min g d a b
  | max g d a b => exact Laws.EncodeDecode.max g d a b
  | minu g d a b => exact Laws.EncodeDecode.minu g d a b
  | maxu g d a b => exact Laws.EncodeDecode.maxu g d a b
  | mul g d a b => exact Laws.EncodeDecode.mul g d a b
  | mulh g d a b => exact Laws.EncodeDecode.mulh g d a b
  | mulhu g d a b => exact Laws.EncodeDecode.mulhu g d a b
  | div g d a b => exact Laws.EncodeDecode.div g d a b
  | divu g d a b => exact Laws.EncodeDecode.divu g d a b
  | rem g d a b => exact Laws.EncodeDecode.rem g d a b
  | remu g d a b => exact Laws.EncodeDecode.remu g d a b
  | clz g d a => exact Laws.EncodeDecode.clz g d a
  | ctz g d a => exact Laws.EncodeDecode.ctz g d a
  | popc g d a => exact Laws.EncodeDecode.popc g d a
  | addi g d a imm => exact Laws.EncodeDecode.addi g d a imm
  | andi g d a imm => exact Laws.EncodeDecode.andi g d a imm
  | ori g d a imm => exact Laws.EncodeDecode.ori g d a imm
  | xori g d a imm => exact Laws.EncodeDecode.xori g d a imm
  | shli g d a sh => exact Laws.EncodeDecode.shli g d a sh
  | shri g d a sh => exact Laws.EncodeDecode.shri g d a sh
  | sari g d a sh => exact Laws.EncodeDecode.sari g d a sh
  | sel g d a b k => exact Laws.EncodeDecode.sel g d a b k
  | setp g cond pd a b => exact Laws.EncodeDecode.setp g cond pd a b
  | setpiA g cond pd a imm => exact Laws.EncodeDecode.setpiA g cond pd a imm
  | setpiB g cond pd a imm => exact Laws.EncodeDecode.setpiB g cond pd a imm
  | fsetp g prec cond pd a b => exact Laws.EncodeDecode.fsetp g prec cond pd a b
  | plog g op pd pa pb => exact Laws.EncodeDecode.plog g op pd pa pb
  | fadd g prec sat rnd d a b => exact Laws.EncodeDecode.fadd g prec sat rnd d a b
  | fsub g prec sat rnd d a b => exact Laws.EncodeDecode.fsub g prec sat rnd d a b
  | fmul g prec sat rnd d a b => exact Laws.EncodeDecode.fmul g prec sat rnd d a b
  | ffma g prec sat rnd d a b => exact Laws.EncodeDecode.ffma g prec sat rnd d a b
  | fdiv g prec sat rnd d a b => exact Laws.EncodeDecode.fdiv g prec sat rnd d a b
  | fsqrt g prec sat rnd d a => exact Laws.EncodeDecode.fsqrt g prec sat rnd d a
  | fmin g prec d a b => exact Laws.EncodeDecode.fmin g prec d a b
  | fmax g prec d a b => exact Laws.EncodeDecode.fmax g prec d a b
  | fclass g prec d a => exact Laws.EncodeDecode.fclass g prec d a
  | fcvt g cv sat rnd d a => exact Laws.EncodeDecode.fcvt g cv sat rnd d a
  | br g off => exact Laws.EncodeDecode.br g off
  | call g off => exact Laws.EncodeDecode.call g off
  | jr g a => exact Laws.EncodeDecode.jr g a
  | ret g => exact Laws.EncodeDecode.ret g
  | rep g a n => exact Laws.EncodeDecode.rep g a n
  | fin g => exact Laws.EncodeDecode.fin g
  | park g a => exact Laws.EncodeDecode.park g a
  | nop g => exact Laws.EncodeDecode.nop g
  | brk g code => exact Laws.EncodeDecode.brk g code
  | trap g code => exact Laws.EncodeDecode.trap g code
  | svc g code => exact Laws.EncodeDecode.svc g code
  | falloc g d cls => exact Laws.EncodeDecode.falloc g d cls
  | ffree g a => exact Laws.EncodeDecode.ffree g a
  | sloti g a b => exact Laws.EncodeDecode.sloti g a b
  | slotr g d a => exact Laws.EncodeDecode.slotr g d a
  | sig g rel n a => exact Laws.EncodeDecode.sig g rel n a
  | sigd g rel n a b dw => exact Laws.EncodeDecode.sigd g rel n a b dw
  | sigv g rel n a vb dw => exact Laws.EncodeDecode.sigv g rel n a vb dw
  | sref g d a imm => exact Laws.EncodeDecode.sref g d a imm
  | amsg g xg => exact Laws.EncodeDecode.amsg g xg
  | arm g xg => exact Laws.EncodeDecode.arm g xg
  | ld g sz u d a off => exact Laws.EncodeDecode.ld g sz u d a off
  | st g sz c a off => exact Laws.EncodeDecode.st g sz c a off
  | ldz g vd a b => exact Laws.EncodeDecode.ldz g vd a b
  | stz g vc a b => exact Laws.EncodeDecode.stz g vc a b
  | gld g lu evp sz byt n xg y => exact Laws.EncodeDecode.gld g lu evp sz byt n xg y
  | ldl g sz u d a off => exact Laws.EncodeDecode.ldl g sz u d a off
  | gst g sz t c a off => exact Laws.EncodeDecode.gst g sz t c a off
  | gstv g vc a m off => exact Laws.EncodeDecode.gstv g vc a m off
  | pref g evp a off => exact Laws.EncodeDecode.pref g evp a off
  | xchg g ord sz d a b => exact Laws.EncodeDecode.xchg g ord sz d a b
  | cas g ord sz d a b => exact Laws.EncodeDecode.cas g ord sz d a b
  | cas2 g ord d a b => exact Laws.EncodeDecode.cas2 g ord d a b
  | faa g ord sz d a b => exact Laws.EncodeDecode.faa g ord sz d a b
  | amax g ord sz d a b => exact Laws.EncodeDecode.amax g ord sz d a b
  | amin g ord sz d a b => exact Laws.EncodeDecode.amin g ord sz d a b
  | amaxU g ord sz d a b => exact Laws.EncodeDecode.amaxU g ord sz d a b
  | aminU g ord sz d a b => exact Laws.EncodeDecode.aminU g ord sz d a b
  | fence g w u e scope => exact Laws.EncodeDecode.fence g w u e scope
  | fenceqCt g => exact Laws.EncodeDecode.fenceqCt g
  | fenceqTc g => exact Laws.EncodeDecode.fenceqTc g
  | iflush g a b => exact Laws.EncodeDecode.iflush g a b
  | iflushAll g => exact Laws.EncodeDecode.iflushAll g
  | upd g a b k => exact Laws.EncodeDecode.upd g a b k
  | updv g xd va vb m k => exact Laws.EncodeDecode.updv g xd va vb m k
  | uapply g a b => exact Laws.EncodeDecode.uapply g a b
  | cpy g fn xg y => exact Laws.EncodeDecode.cpy g fn xg y
  | cpy2 g fn xg y => exact Laws.EncodeDecode.cpy2 g fn xg y
  | cpym g byt n xg y => exact Laws.EncodeDecode.cpym g byt n xg y
  | gthr g fn xg y => exact Laws.EncodeDecode.gthr g fn xg y
  | rcfg g q xg => exact Laws.EncodeDecode.rcfg g q xg
  | radv g q xg => exact Laws.EncodeDecode.radv g q xg
  | mma g n t qb qa acc xg y => exact Laws.EncodeDecode.mma g n t qb qa acc xg y
  | mmas g ss n qb qa acc xg y => exact Laws.EncodeDecode.mmas g ss n qb qa acc xg y
  | mmg g val act n xg y => exact Laws.EncodeDecode.mmg g val act n xg y
  | accz g acc => exact Laws.EncodeDecode.accz g acc
  | accld g n acc xg y => exact Laws.EncodeDecode.accld g n acc xg y
  | accst g n sc sat rnd tag acc xg y => exact Laws.EncodeDecode.accst g n sc sat rnd tag acc xg y
  | sscfg g ss xg => exact Laws.EncodeDecode.sscfg g ss xg
  | vadd g t vd va vb m => exact Laws.EncodeDecode.vadd g t vd va vb m
  | vsub g t vd va vb m => exact Laws.EncodeDecode.vsub g t vd va vb m
  | vmul g t vd va vb m => exact Laws.EncodeDecode.vmul g t vd va vb m
  | vfma g t vd va vb m => exact Laws.EncodeDecode.vfma g t vd va vb m
  | vmin g t vd va vb m => exact Laws.EncodeDecode.vmin g t vd va vb m
  | vmax g t vd va vb m => exact Laws.EncodeDecode.vmax g t vd va vb m
  | vabs g t vd va m => exact Laws.EncodeDecode.vabs g t vd va m
  | vneg g t vd va m => exact Laws.EncodeDecode.vneg g t vd va m
  | vand g vd va vb m => exact Laws.EncodeDecode.vand g vd va vb m
  | vor g vd va vb m => exact Laws.EncodeDecode.vor g vd va vb m
  | vxor g vd va vb m => exact Laws.EncodeDecode.vxor g vd va vb m
  | vselW g vd va vb m => exact Laws.EncodeDecode.vselW g vd va vb m
  | vselH g vd va vb m => exact Laws.EncodeDecode.vselH g vd va vb m
  | vselB g vd va vb m => exact Laws.EncodeDecode.vselB g vd va vb m
  | vshlI32 g vd va vb m => exact Laws.EncodeDecode.vshlI32 g vd va vb m
  | vshrI32 g vd va vb m => exact Laws.EncodeDecode.vshrI32 g vd va vb m
  | vsarI32 g vd va vb m => exact Laws.EncodeDecode.vsarI32 g vd va vb m
  | vshlI16 g vd va vb m => exact Laws.EncodeDecode.vshlI16 g vd va vb m
  | vshrI16 g vd va vb m => exact Laws.EncodeDecode.vshrI16 g vd va vb m
  | vsarI16 g vd va vb m => exact Laws.EncodeDecode.vsarI16 g vd va vb m
  | vcmp g t cond md va vb => exact Laws.EncodeDecode.vcmp g t cond md va vb
  | vrcp g t vd va m => exact Laws.EncodeDecode.vrcp g t vd va m
  | vrsq g t vd va m => exact Laws.EncodeDecode.vrsq g t vd va m
  | vexp2 g t vd va m => exact Laws.EncodeDecode.vexp2 g t vd va m
  | vlog2 g t vd va m => exact Laws.EncodeDecode.vlog2 g t vd va m
  | viota g t vd m => exact Laws.EncodeDecode.viota g t vd m
  | vredAdd g t xd va m => exact Laws.EncodeDecode.vredAdd g t xd va m
  | vredMin g t xd va m => exact Laws.EncodeDecode.vredMin g t xd va m
  | vredMax g t xd va m => exact Laws.EncodeDecode.vredMax g t xd va m
  | vdotF32 g xd va vb m => exact Laws.EncodeDecode.vdotF32 g xd va vb m
  | vdotBf16 g xd va vb m => exact Laws.EncodeDecode.vdotBf16 g xd va vb m
  | vdotF16 g xd va vb m => exact Laws.EncodeDecode.vdotF16 g xd va vb m
  | vperm g lw vd va vb => exact Laws.EncodeDecode.vperm g lw vd va vb
  | vbcast g lw vd xa => exact Laws.EncodeDecode.vbcast g lw vd xa
  | vext g lw xd va xb => exact Laws.EncodeDecode.vext g lw xd va xb
  | vins g lw vd xa xb => exact Laws.EncodeDecode.vins g lw vd xa xb
  | vcomp g lw vd va mb => exact Laws.EncodeDecode.vcomp g lw vd va mb
  | vexpd g lw vd va mb => exact Laws.EncodeDecode.vexpd g lw vd va mb
  | vld g vd a imm => exact Laws.EncodeDecode.vld g vd a imm
  | vst g vc a imm => exact Laws.EncodeDecode.vst g vc a imm
  | mlog g op md ma mb => exact Laws.EncodeDecode.mlog g op md ma mb
  | mcnt g xd ma => exact Laws.EncodeDecode.mcnt g xd ma
  | rdsr g d num => exact Laws.EncodeDecode.rdsr g d num
  | wrsr g a num => exact Laws.EncodeDecode.wrsr g a num
  | rgnctlAct g xg y => exact Laws.EncodeDecode.rgnctlAct g xg y
  | rgnctlCfg g xg y => exact Laws.EncodeDecode.rgnctlCfg g xg y
  | rgnctlSusp g xg y => exact Laws.EncodeDecode.rgnctlSusp g xg y
  | rgnctlRes g xg y => exact Laws.EncodeDecode.rgnctlRes g xg y
  | rgnctlDel g xg y => exact Laws.EncodeDecode.rgnctlDel g xg y
  | tlbinvPg g a b => exact Laws.EncodeDecode.tlbinvPg g a b
  | tlbinvAs g b => exact Laws.EncodeDecode.tlbinvAs g b
  | tlbinvAll g => exact Laws.EncodeDecode.tlbinvAll g
  | waycfg g a b => exact Laws.EncodeDecode.waycfg g a b
  | symq g d a => exact Laws.EncodeDecode.symq g d a
  | resume g a => exact Laws.EncodeDecode.resume g a
  | resumeAbt g a => exact Laws.EncodeDecode.resumeAbt g a
  | resumeRpl g a => exact Laws.EncodeDecode.resumeRpl g a
  | resumeDrp g a => exact Laws.EncodeDecode.resumeDrp g a
  | limm g d imm => exact Laws.EncodeDecode.limm g d imm
  | lui g d imm => exact Laws.EncodeDecode.lui g d imm
  | bfx g d a pos len => exact Laws.EncodeDecode.bfx g d a pos len
  | bfi g d a pos len => exact Laws.EncodeDecode.bfi g d a pos len
  | vx g op sat rnd vd va vb m => exact Laws.EncodeDecode.vx g op sat rnd vd va vb m
  | vcvt g dst src sat rnd vd va m => exact Laws.EncodeDecode.vcvt g dst src sat rnd vd va m
  | _ => exact fun _ hevent => nomatch hevent

end Sys2Proof.Machine
end

section
/-! PROOF. O9: when a guard holds, and register x0. -/

namespace Sys2Proof.Machine

open Sys2Proof

/-- A guard on a predicate other than p0 holds where the predicate differs from its sense (Table 4-3). -/
theorem Run.holds_of_ne_zero {k : PReg} (hk : k ≠ 0) (r : Run) (pn : Bool) :
    r.holds ⟨k, pn⟩ = xor (r.p.getLsbD k.toNat) pn := by
  have hk0 : (k == 0) = false := beq_eq_false_iff_ne.2 hk
  rw [Run.holds, hk0, Bool.false_or]

/-- p0 reads true, so a guard on it holds just where its sense is positive (Table 4-3). -/
theorem Run.holds_p0 (r : Run) (pn : Bool) : r.holds ⟨0, pn⟩ = !pn := by
  cases pn <;> rfl

theorem Run.get_write_same {d : XReg} (hd : d ≠ 0) (r : Run) (v : RVal) : (r.write d v).get d = v := by
  rw [Run.get, Run.reg_write, if_pos ⟨hd, rfl⟩]

theorem Run.get_write_other {a d : XReg} (ha : a ≠ d) (r : Run) (v : RVal) : (r.write d v).get a = r.get a := by
  rw [Run.get, Run.reg_write, if_neg fun e => ha (BitVec.eq_of_toNat_eq e.2), Run.get]

/-- Settles O9: the guard by its predicate, and x0 by what a register reads after a write. -/
theorem guardsAndZeroRegister : Obligations.GuardsAndZeroRegister := by
  unfold Obligations.GuardsAndZeroRegister
  refine ⟨fun r k pn => ⟨fun hk => Run.holds_of_ne_zero hk r pn, Run.holds_p0 r false, Run.holds_p0 r true⟩,
    fun r d a v => ⟨rfl, if_pos rfl, fun hd => Run.get_write_same hd r v, fun ha => Run.get_write_other ha r v⟩⟩

end Sys2Proof.Machine
end

section
/-! PROOF. O8: a false guard only moves past the instruction's words. -/

namespace Sys2Proof.Machine

open Sys2Proof

/-- Settles O8, wrapper by wrapper: what is checked first is the hypothesis on `checkedFirst`, and the null signal is left out
by the one on the N bit. -/
theorem falseGuard : Obligations.FalseGuard := by
  unfold Obligations.FalseGuard
  intro i s r g hi hr hg hc hn
  replace hg : ∀ g', i.guard = some g' → r.holds g' = false := fun g' hi' => Option.some.inj (hi.symm.trans hi') ▸ hg
  cases i with
  | add => exact (exec_add ..).trans (guarded_skip hr (hg _ rfl))
  | sub => exact (exec_sub ..).trans (guarded_skip hr (hg _ rfl))
  | and => exact (exec_and ..).trans (guarded_skip hr (hg _ rfl))
  | or => exact (exec_or ..).trans (guarded_skip hr (hg _ rfl))
  | xor => exact (exec_xor ..).trans (guarded_skip hr (hg _ rfl))
  | shl => exact (exec_shl ..).trans (guarded_skip hr (hg _ rfl))
  | shr => exact (exec_shr ..).trans (guarded_skip hr (hg _ rfl))
  | sar => exact (exec_sar ..).trans (guarded_skip hr (hg _ rfl))
  | min => exact (exec_min ..).trans (guarded_skip hr (hg _ rfl))
  | max => exact (exec_max ..).trans (guarded_skip hr (hg _ rfl))
  | minu => exact (exec_minu ..).trans (guarded_skip hr (hg _ rfl))
  | maxu => exact (exec_maxu ..).trans (guarded_skip hr (hg _ rfl))
  | mul => exact (exec_mul ..).trans (guarded_skip hr (hg _ rfl))
  | mulh => exact (exec_mulh ..).trans (guarded_skip hr (hg _ rfl))
  | mulhu => exact (exec_mulhu ..).trans (guarded_skip hr (hg _ rfl))
  | div => exact (exec_div ..).trans (guarded_skip hr (hg _ rfl))
  | divu => exact (exec_divu ..).trans (guarded_skip hr (hg _ rfl))
  | rem => exact (exec_rem ..).trans (guarded_skip hr (hg _ rfl))
  | remu => exact (exec_remu ..).trans (guarded_skip hr (hg _ rfl))
  | clz => exact (exec_clz ..).trans (guarded_skip hr (hg _ rfl))
  | ctz => exact (exec_ctz ..).trans (guarded_skip hr (hg _ rfl))
  | popc => exact (exec_popc ..).trans (guarded_skip hr (hg _ rfl))
  | addi => exact (exec_addi ..).trans (guarded_skip hr (hg _ rfl))
  | andi => exact (exec_andi ..).trans (guarded_skip hr (hg _ rfl))
  | ori => exact (exec_ori ..).trans (guarded_skip hr (hg _ rfl))
  | xori => exact (exec_xori ..).trans (guarded_skip hr (hg _ rfl))
  | shli => exact (exec_shli ..).trans (guarded_skip hr (hg _ rfl))
  | shri => exact (exec_shri ..).trans (guarded_skip hr (hg _ rfl))
  | sari => exact (exec_sari ..).trans (guarded_skip hr (hg _ rfl))
  | sel => exact (exec_sel ..).trans (guarded_skip hr (hg _ rfl))
  | setp => exact (exec_setp ..).trans (guarded_skip hr (hg _ rfl))
  | setpiA => exact (exec_setpiA ..).trans (guarded_skip hr (hg _ rfl))
  | setpiB => exact (exec_setpiB ..).trans (guarded_skip hr (hg _ rfl))
  | fsetp => exact (exec_fsetp ..).trans (guarded_skip hr (hg _ rfl))
  | plog => exact (exec_plog ..).trans (guarded_skip hr (hg _ rfl))
  | fadd => exact (exec_fadd ..).trans (guarded_skip hr (hg _ rfl))
  | fsub => exact (exec_fsub ..).trans (guarded_skip hr (hg _ rfl))
  | fmul => exact (exec_fmul ..).trans (guarded_skip hr (hg _ rfl))
  | ffma => exact (exec_ffma ..).trans (guarded_skip hr (hg _ rfl))
  | fdiv => exact (exec_fdiv ..).trans (guarded_skip hr (hg _ rfl))
  | fsqrt => exact (exec_fsqrt ..).trans (guarded_skip hr (hg _ rfl))
  | fmin => exact (exec_fmin ..).trans (guarded_skip hr (hg _ rfl))
  | fmax => exact (exec_fmax ..).trans (guarded_skip hr (hg _ rfl))
  | fclass => exact (exec_fclass ..).trans (guarded_skip hr (hg _ rfl))
  | fcvt => exact (exec_fcvt ..).trans (guarded_skip hr (hg _ rfl))
  | br => exact (exec_br ..).trans (guardedEntry_skip hr (hg _ rfl))
  | call => exact (exec_call ..).trans (guardedEntry_skip hr (hg _ rfl))
  | jr => exact (exec_jr ..).trans (guardedEntry_skip hr (hg _ rfl))
  | ret => exact (exec_ret ..).trans (guardedEntry_skip hr (hg _ rfl))
  | rep => exact (exec_rep ..).trans (execRep_skip hr (hg _ rfl) hc)
  | fin => exact (exec_fin ..).trans (guardedJump_skip hr (hg _ rfl))
  | park => exact (exec_park ..).trans (guardedJump_skip hr (hg _ rfl))
  | nop => exact (exec_nop ..).trans (guarded_skip hr (hg _ rfl))
  | brk => exact (exec_brk ..).trans (guarded_skip hr (hg _ rfl))
  | trap => exact (exec_trap ..).trans (guarded_skip hr (hg _ rfl))
  | svc => exact (exec_svc ..).trans (guarded_skip hr (hg _ rfl))
  | falloc => exact (exec_falloc ..).trans (guarded_skip hr (hg _ rfl))
  | ffree => exact (exec_ffree ..).trans (guarded_skip hr (hg _ rfl))
  | sloti => exact (exec_sloti ..).trans (guarded_skip hr (hg _ rfl))
  | slotr => exact (exec_slotr ..).trans (guarded_skip hr (hg _ rfl))
  | sig => exact (exec_sig ..).trans (guardedN_skip hr (hg _ rfl) hn)
  | sigd => exact (exec_sigd ..).trans (guardedN_skip hr (hg _ rfl) hn)
  | sigv => exact (exec_sigv ..).trans (guardedN_skip hr (hg _ rfl) hn)
  | sref => exact (exec_sref ..).trans (guarded_skip hr (hg _ rfl))
  | amsg => exact (exec_amsg ..).trans (guarded_skip hr (hg _ rfl))
  | arm => exact (exec_arm ..).trans (guarded_skip hr (hg _ rfl))
  | ld => exact (exec_ld ..).trans (guarded_skip hr (hg _ rfl))
  | st => exact (exec_st ..).trans (guarded_skip hr (hg _ rfl))
  | ldz => exact (exec_ldz ..).trans (guarded_skip hr (hg _ rfl))
  | stz => exact (exec_stz ..).trans (guarded_skip hr (hg _ rfl))
  | gld => exact (exec_gld ..).trans (guardedN_skip hr (hg _ rfl) hn)
  | ldl => exact (exec_ldl ..).trans (guarded_skip hr (hg _ rfl))
  | gst => exact (exec_gst ..).trans (guarded_skip hr (hg _ rfl))
  | gstv => exact (exec_gstv ..).trans (guarded_skip hr (hg _ rfl))
  | pref => exact (exec_pref ..).trans (guarded_skip hr (hg _ rfl))
  | xchg => exact (exec_xchg ..).trans (guarded_skip hr (hg _ rfl))
  | cas => exact (exec_cas ..).trans (guarded_skip hr (hg _ rfl))
  | cas2 => exact (exec_cas2 ..).trans (guarded_skip hr (hg _ rfl))
  | faa => exact (exec_faa ..).trans (guarded_skip hr (hg _ rfl))
  | amax => exact (exec_amax ..).trans (guarded_skip hr (hg _ rfl))
  | amin => exact (exec_amin ..).trans (guarded_skip hr (hg _ rfl))
  | amaxU => exact (exec_amaxU ..).trans (guarded_skip hr (hg _ rfl))
  | aminU => exact (exec_aminU ..).trans (guarded_skip hr (hg _ rfl))
  | fence => exact (exec_fence ..).trans (guarded_skip hr (hg _ rfl))
  | fenceqCt => exact (exec_fenceqCt ..).trans (guarded_skip hr (hg _ rfl))
  | fenceqTc => exact (exec_fenceqTc ..).trans (guarded_skip hr (hg _ rfl))
  | iflush => exact (exec_iflush ..).trans (guarded_skip hr (hg _ rfl))
  | iflushAll => exact (exec_iflushAll ..).trans (guarded_skip hr (hg _ rfl))
  | upd => exact (exec_upd ..).trans (guarded_skip hr (hg _ rfl))
  | updv => exact (exec_updv ..).trans (guarded_skip hr (hg _ rfl))
  | uapply => exact (exec_uapply ..).trans (guarded_skip hr (hg _ rfl))
  | cpy => exact (exec_cpy ..).trans (guardedN_skip hr (hg _ rfl) hn)
  | cpy2 => exact (exec_cpy2 ..).trans (guardedN_skip hr (hg _ rfl) hn)
  | cpym => exact (exec_cpym ..).trans (guardedN_skip hr (hg _ rfl) hn)
  | gthr => exact (exec_gthr ..).trans (guardedN_skip hr (hg _ rfl) hn)
  | rcfg => exact (exec_rcfg ..).trans (guarded_skip hr (hg _ rfl))
  | radv => exact (exec_radv ..).trans (guarded_skip hr (hg _ rfl))
  | mma => exact (exec_mma ..).trans (guardedN_skip hr (hg _ rfl) hn)
  | mmas => exact (exec_mmas ..).trans (guardedN_skip hr (hg _ rfl) hn)
  | mmg => exact (exec_mmg ..).trans (guardedN_skip hr (hg _ rfl) hn)
  | accz => exact (exec_accz ..).trans (guarded_skip hr (hg _ rfl))
  | accld => exact (exec_accld ..).trans (guardedN_skip hr (hg _ rfl) hn)
  | accst => exact (exec_accst ..).trans (guardedN_skip hr (hg _ rfl) hn)
  | sscfg => exact (exec_sscfg ..).trans (guarded_skip hr (hg _ rfl))
  | vadd => exact (exec_vadd ..).trans (guarded_skip hr (hg _ rfl))
  | vsub => exact (exec_vsub ..).trans (guarded_skip hr (hg _ rfl))
  | vmul => exact (exec_vmul ..).trans (guarded_skip hr (hg _ rfl))
  | vfma => exact (exec_vfma ..).trans (guarded_skip hr (hg _ rfl))
  | vmin => exact (exec_vmin ..).trans (guarded_skip hr (hg _ rfl))
  | vmax => exact (exec_vmax ..).trans (guarded_skip hr (hg _ rfl))
  | vabs => exact (exec_vabs ..).trans (guarded_skip hr (hg _ rfl))
  | vneg => exact (exec_vneg ..).trans (guarded_skip hr (hg _ rfl))
  | vand => exact (exec_vand ..).trans (guarded_skip hr (hg _ rfl))
  | vor => exact (exec_vor ..).trans (guarded_skip hr (hg _ rfl))
  | vxor => exact (exec_vxor ..).trans (guarded_skip hr (hg _ rfl))
  | vselW => exact (exec_vselW ..).trans (guarded_skip hr (hg _ rfl))
  | vselH => exact (exec_vselH ..).trans (guarded_skip hr (hg _ rfl))
  | vselB => exact (exec_vselB ..).trans (guarded_skip hr (hg _ rfl))
  | vshlI32 => exact (exec_vshlI32 ..).trans (guarded_skip hr (hg _ rfl))
  | vshrI32 => exact (exec_vshrI32 ..).trans (guarded_skip hr (hg _ rfl))
  | vsarI32 => exact (exec_vsarI32 ..).trans (guarded_skip hr (hg _ rfl))
  | vshlI16 => exact (exec_vshlI16 ..).trans (guarded_skip hr (hg _ rfl))
  | vshrI16 => exact (exec_vshrI16 ..).trans (guarded_skip hr (hg _ rfl))
  | vsarI16 => exact (exec_vsarI16 ..).trans (guarded_skip hr (hg _ rfl))
  | vcmp => exact (exec_vcmp ..).trans (guarded_skip hr (hg _ rfl))
  | vrcp => exact (exec_vrcp ..).trans (guarded_skip hr (hg _ rfl))
  | vrsq => exact (exec_vrsq ..).trans (guarded_skip hr (hg _ rfl))
  | vexp2 => exact (exec_vexp2 ..).trans (guarded_skip hr (hg _ rfl))
  | vlog2 => exact (exec_vlog2 ..).trans (guarded_skip hr (hg _ rfl))
  | viota => exact (exec_viota ..).trans (guarded_skip hr (hg _ rfl))
  | vredAdd => exact (exec_vredAdd ..).trans (guarded_skip hr (hg _ rfl))
  | vredMin => exact (exec_vredMin ..).trans (guarded_skip hr (hg _ rfl))
  | vredMax => exact (exec_vredMax ..).trans (guarded_skip hr (hg _ rfl))
  | vdotF32 => exact (exec_vdotF32 ..).trans (guarded_skip hr (hg _ rfl))
  | vdotBf16 => exact (exec_vdotBf16 ..).trans (guarded_skip hr (hg _ rfl))
  | vdotF16 => exact (exec_vdotF16 ..).trans (guarded_skip hr (hg _ rfl))
  | vperm => exact (exec_vperm ..).trans (guarded_skip hr (hg _ rfl))
  | vbcast => exact (exec_vbcast ..).trans (guarded_skip hr (hg _ rfl))
  | vext => exact (exec_vext ..).trans (guarded_skip hr (hg _ rfl))
  | vins => exact (exec_vins ..).trans (guarded_skip hr (hg _ rfl))
  | vcomp => exact (exec_vcomp ..).trans (guarded_skip hr (hg _ rfl))
  | vexpd => exact (exec_vexpd ..).trans (guarded_skip hr (hg _ rfl))
  | vld => exact (exec_vld ..).trans (guarded_skip hr (hg _ rfl))
  | vst => exact (exec_vst ..).trans (guarded_skip hr (hg _ rfl))
  | mlog => exact (exec_mlog ..).trans (guarded_skip hr (hg _ rfl))
  | mcnt => exact (exec_mcnt ..).trans (guarded_skip hr (hg _ rfl))
  | rdsr => exact (exec_rdsr ..).trans (guardedAfter_skip hr (hg _ rfl) hc)
  | wrsr => exact (exec_wrsr ..).trans (guardedAfter_skip hr (hg _ rfl) hc)
  | rgnctlAct => exact (exec_rgnctlAct ..).trans (rgnctl_skip hr (hg _ rfl) hc)
  | rgnctlCfg => exact (exec_rgnctlCfg ..).trans (rgnctl_skip hr (hg _ rfl) hc)
  | rgnctlSusp => exact (exec_rgnctlSusp ..).trans (rgnctl_skip hr (hg _ rfl) hc)
  | rgnctlRes => exact (exec_rgnctlRes ..).trans (rgnctl_skip hr (hg _ rfl) hc)
  | rgnctlDel => exact (exec_rgnctlDel ..).trans (rgnctl_skip hr (hg _ rfl) hc)
  | tlbinvPg => exact (exec_tlbinvPg ..).trans (guardedAfter_skip hr (hg _ rfl) hc)
  | tlbinvAs => exact (exec_tlbinvAs ..).trans (guardedAfter_skip hr (hg _ rfl) hc)
  | tlbinvAll => exact (exec_tlbinvAll ..).trans (guardedAfter_skip hr (hg _ rfl) hc)
  | waycfg => exact (exec_waycfg ..).trans (guardedAfter_skip hr (hg _ rfl) hc)
  | symq => exact (exec_symq ..).trans (guarded_skip hr (hg _ rfl))
  | resume => exact (exec_resume ..).trans (resumeForm_skip hr (hg _ rfl) hc)
  | resumeAbt => exact (exec_resumeAbt ..).trans (resumeForm_skip hr (hg _ rfl) hc)
  | resumeRpl => exact (exec_resumeRpl ..).trans (resumeForm_skip hr (hg _ rfl) hc)
  | resumeDrp => exact (exec_resumeDrp ..).trans (resumeForm_skip hr (hg _ rfl) hc)
  | limm => exact (exec_limm ..).trans (guarded_skip hr (hg _ rfl))
  | lui => exact (exec_lui ..).trans (guarded_skip hr (hg _ rfl))
  | bfx => exact (exec_bfx ..).trans (guarded_skip hr (hg _ rfl))
  | bfi => exact (exec_bfi ..).trans (guarded_skip hr (hg _ rfl))
  | vx => exact (exec_vx ..).trans (guarded_skip hr (hg _ rfl))
  | vcvt => exact (exec_vcvt ..).trans (guarded_skip hr (hg _ rfl))
  | _ => exact nomatch hi

end Sys2Proof.Machine
end

section
/-! SUPPORT. Special values in floating-point arithmetic: NaNs, zeros, infinities and SAT (R132, R344, Table 5-4). -/

namespace Sys2Proof.Machine

open Sys2Proof

/-! ## Values -/

theorem FVal.isNan_iff {v : FVal} : v.isNan = true ↔ ∃ s, v = .nan s := by
  cases v <;> simp [FVal.isNan]

theorem FVal.isInf_iff {v : FVal} : v.isInf = true ↔ ∃ n, v = .inf n := by
  cases v <;> simp [FVal.isInf]

theorem FVal.isFinite_iff {v : FVal} : v.isFinite = true ↔ ∃ d, v = .num d := by
  cases v <;> simp [FVal.isFinite]

theorem FVal.isZero_iff {v : FVal} : v.isZero = true ↔ ∃ d, v = .num d ∧ d.m = 0 := by
  cases v <;> simp [FVal.isZero]

theorem FVal.isNan_of_isSnan {v : FVal} (h : v.isSnan = true) : v.isNan = true := by
  cases v with
  | nan s => rfl
  | inf n => exact nomatch h
  | num d => exact nomatch h

@[simp] theorem FVal.isNan_negate (v : FVal) : v.negate.isNan = v.isNan := by cases v <;> rfl

@[simp] theorem FVal.isSnan_negate (v : FVal) : v.negate.isSnan = v.isSnan := by cases v <;> rfl

/-- A finite value that is not zero has a mantissa. -/
theorem FVal.exists_nonzero {v : FVal} (hfin : v.isFinite = true) (hz : v.isZero = false) :
    ∃ d, v = .num d ∧ d.m ≠ 0 := by
  obtain ⟨d, rfl⟩ := FVal.isFinite_iff.1 hfin
  exact ⟨d, rfl, beq_eq_false_iff_ne.1 hz⟩

/-! ## Encodings of zeros, infinities and the default NaN (Table 5-2) -/

variable {f : Fmt} {rm : RMode} {sat : Bool} {a b c : Nat}

theorem Fmt.code_zero (f : Fmt) (n : Bool) : f.code n 0 = if n = true then f.signBit else 0 := rfl

theorem Fmt.decode_zero (f : Fmt) : f.decode 0 = .num ⟨false, 0, f.emin⟩ := by cases f <;> rfl

theorem Fmt.decode_signBit (f : Fmt) : f.decode f.signBit = .num ⟨true, 0, f.emin⟩ := by cases f <;> rfl

theorem Fmt.isInf_decode_code_zero (f : Fmt) (n : Bool) : (f.decode (f.code n 0)).isInf = false := by
  cases n with
  | false => exact congrArg FVal.isInf f.decode_zero
  | true => exact congrArg FVal.isInf f.decode_signBit

theorem Fmt.isInf_decode_nanCode (f : Fmt) : (f.decode f.nanCode).isInf = false := by cases f <;> rfl

theorem Fmt.decode_code_infCode (hf : f = .f32 ∨ f = .f64) (n : Bool) :
    f.decode (f.code n (f.infCode.getD 0)) = .inf n := by
  obtain rfl | rfl := hf <;> cases n <;> rfl

/-- Where the format has an infinity, the code that stands in for a missing one does not matter. -/
theorem Fmt.infCode_getD (hf : f = .f32 ∨ f = .f64) (m : Nat) : f.infCode.getD m = f.infCode.getD 0 := by
  obtain rfl | rfl := hf <;> rfl

/-! ## NaN results, SAT and zeros -/

/-- A NaN result is the default NaN, with IV where one of two conditions holds (R132). -/
theorem nanResult_or (f : Fmt) (p q : Bool) :
    nanResult f (p || q) = (f.nanCode, if p = true ∨ q = true then fIV else 0) := by
  simp [nanResult, flagIf]

theorem saturate_false (f : Fmt) (fin : Bool) (r : Nat × BitVec 8) : saturate f false fin r = r := rfl

theorem saturate_of_not_inf {r : Nat × BitVec 8} (h : (f.decode r.1).isInf = false) (fin : Bool) :
    saturate f sat fin r = r := by
  simp [saturate, h]

/-- SAT leaves a NaN result as it is (R344). -/
@[simp] theorem saturate_nanResult (f : Fmt) (sat fin iv : Bool) :
    saturate f sat fin (nanResult f iv) = nanResult f iv :=
  saturate_of_not_inf f.isInf_decode_nanCode fin

/-- SAT leaves a zero as it is (R344). -/
@[simp] theorem saturate_zero (f : Fmt) (sat fin n : Bool) (fl : BitVec 8) :
    saturate f sat fin (f.code n 0, fl) = (f.code n 0, fl) :=
  saturate_of_not_inf (f.isInf_decode_code_zero n) fin

/-- SAT turns an infinity of finite operands into the largest finite value of its sign, with SA (R344). -/
theorem saturate_infCode (hf : f = .f32 ∨ f = .f64) (n : Bool) (fl : BitVec 8) :
    saturate f true true (f.code n (f.infCode.getD 0), fl) = (f.code n f.maxCode, fl ||| fSA) := by
  simp [saturate, Fmt.decode_code_infCode hf, FVal.isInf, FVal.neg]

/-- An exact zero is delivered with its sign and without flags. -/
@[simp] theorem roundFp_zero (f : Fmt) (rm : RMode) (sat n : Bool) (e : Int) :
    roundFp f rm sat ⟨n, 0, e⟩ false = (f.code n 0, 0) := by
  simp [roundFp]

/-! ## Sums -/

theorem addVal_of_nan {x y : FVal} (h : x.isNan = true ∨ y.isNan = true) :
    addVal f rm x y = nanResult f (x.isSnan || y.isSnan) := by
  cases x with
  | nan s => rfl
  | inf n =>
    obtain ⟨t, rfl⟩ := FVal.isNan_iff.1 (h.resolve_left nofun)
    rfl
  | num d =>
    obtain ⟨t, rfl⟩ := FVal.isNan_iff.1 (h.resolve_left nofun)
    rfl

/-- ∞ − ∞ is invalid. -/
theorem addVal_inf_opposite {x y : FVal} (hx : x.isInf = true) (hy : y.isInf = true) (hne : x.neg ≠ y.neg) :
    addVal f rm x y = nanResult f true := by
  obtain ⟨n, rfl⟩ := FVal.isInf_iff.1 hx
  obtain ⟨k, rfl⟩ := FVal.isInf_iff.1 hy
  exact if_neg hne

/-- Two zeros of one sign keep it; two of opposite signs give +0, or −0 under RDN. -/
theorem Dyadic.add_zeros (rm : RMode) (n k : Bool) (e : Int) :
    Dyadic.add rm ⟨n, 0, e⟩ ⟨k, 0, e⟩ = ⟨if n = k then n else rm == .rdn, 0, e⟩ := by
  simp [Dyadic.add, Dyadic.at, Dyadic.ofInt, shiftUp]

/-- A nonzero number less itself is +0, or −0 under RDN. -/
theorem Dyadic.add_negate_self {d : Dyadic} (hm : d.m ≠ 0) (rm : RMode) :
    d.add rm d.negate = ⟨rm == .rdn, 0, d.e⟩ := by
  have hat : d.at d.e + d.negate.at d.e = 0 := by
    cases hn : d.neg <;> simp [Dyadic.at, Dyadic.negate, hn]
  have hmin : min d.e d.negate.e = d.e := min_self _
  simp [Dyadic.add, hmin, hat, Dyadic.ofInt, hm]

theorem fpAdd_of_nan (h : (f.decode a).isNan = true ∨ (f.decode b).isNan = true) :
    fpAdd f rm sat a b = nanResult f ((f.decode a).isSnan || (f.decode b).isSnan) := by
  simp only [fpAdd, addVal_of_nan h, saturate_nanResult]

theorem fpSub_of_nan (h : (f.decode a).isNan = true ∨ (f.decode b).isNan = true) :
    fpSub f rm sat a b = nanResult f ((f.decode a).isSnan || (f.decode b).isSnan) := by
  have h' : (f.decode a).isNan = true ∨ (f.decode b).negate.isNan = true := by rwa [FVal.isNan_negate]
  simp only [fpSub, addVal_of_nan h', FVal.isSnan_negate, saturate_nanResult]

theorem fpAdd_inf_opposite (ha : (f.decode a).isInf = true) (hb : (f.decode b).isInf = true)
    (hne : (f.decode a).neg ≠ (f.decode b).neg) : fpAdd f rm sat a b = nanResult f true := by
  simp only [fpAdd, addVal_inf_opposite ha hb hne, saturate_nanResult]

theorem fpSub_inf_same (ha : (f.decode a).isInf = true) (hb : (f.decode b).isInf = true)
    (heq : (f.decode a).neg = (f.decode b).neg) : fpSub f rm sat a b = nanResult f true := by
  obtain ⟨k, hk⟩ := FVal.isInf_iff.1 hb
  have hne : (f.decode a).neg ≠ (f.decode b).negate.neg := by
    rw [heq, hk]
    exact Bool.self_ne_not k
  have hinf : (f.decode b).negate.isInf = true := by rw [hk]; rfl
  simp only [fpSub, addVal_inf_opposite ha hinf hne, saturate_nanResult]

/-- The sum of two encoded zeros (R344). -/
theorem fpAdd_zeros {n k : Bool} {e : Int} (ha : f.decode a = .num ⟨n, 0, e⟩) (hb : f.decode b = .num ⟨k, 0, e⟩) :
    fpAdd f rm sat a b = (f.code (if n = k then n else rm == .rdn) 0, 0) := by
  simp only [fpAdd, ha, hb, addVal, Dyadic.add_zeros, roundFp_zero, saturate_zero]

/-- x − x for a finite nonzero x (R344). -/
theorem fpSub_self (hfin : (f.decode a).isFinite = true) (hz : (f.decode a).isZero = false) :
    fpSub f rm sat a a = (f.code (rm == .rdn) 0, 0) := by
  obtain ⟨d, hd, hm⟩ := FVal.exists_nonzero hfin hz
  simp only [fpSub, hd, FVal.negate, addVal, Dyadic.add_negate_self hm, roundFp_zero, saturate_zero]

/-! ## Products -/

theorem mulVal_of_nan {x y : FVal} (h : x.isNan = true ∨ y.isNan = true) :
    mulVal x y = .error (x.isSnan || y.isSnan) := by
  cases x with
  | nan s => rfl
  | inf n =>
    obtain ⟨t, rfl⟩ := FVal.isNan_iff.1 (h.resolve_left nofun)
    rfl
  | num d =>
    obtain ⟨t, rfl⟩ := FVal.isNan_iff.1 (h.resolve_left nofun)
    rfl

/-- 0 × ∞ is invalid. -/
theorem mulVal_zero_inf {x y : FVal}
    (h : (x.isZero = true ∧ y.isInf = true) ∨ (x.isInf = true ∧ y.isZero = true)) : mulVal x y = .error true := by
  obtain ⟨hz, hi⟩ | ⟨hi, hz⟩ := h
  · obtain ⟨d, rfl, -⟩ := FVal.isZero_iff.1 hz
    obtain ⟨k, rfl⟩ := FVal.isInf_iff.1 hi
    exact if_pos hz
  · obtain ⟨n, rfl⟩ := FVal.isInf_iff.1 hi
    obtain ⟨d, rfl, -⟩ := FVal.isZero_iff.1 hz
    exact if_pos hz

/-- An infinity times a value that is neither NaN nor zero is the infinity of the product's sign. -/
theorem mulVal_inf {x y : FVal}
    (h : (x.isInf = true ∧ y.isNan = false ∧ y.isZero = false) ∨ (y.isInf = true ∧ x.isNan = false ∧ x.isZero = false)) :
    mulVal x y = .ok (.inf (xor x.neg y.neg)) := by
  obtain ⟨hi, hn, hz⟩ | ⟨hi, hn, hz⟩ := h
  · obtain ⟨n, rfl⟩ := FVal.isInf_iff.1 hi
    cases y with
    | nan s => exact nomatch hn
    | inf k => rfl
    | num d => simp [mulVal, hz, FVal.neg]
  · obtain ⟨k, rfl⟩ := FVal.isInf_iff.1 hi
    cases x with
    | nan s => exact nomatch hn
    | inf n => rfl
    | num d => simp [mulVal, hz, FVal.neg]

theorem fpMul_of_error {iv : Bool} (h : mulVal (f.decode a) (f.decode b) = .error iv) :
    fpMul f rm sat a b = nanResult f iv := by
  simp only [fpMul, h, saturate_nanResult]

theorem fpFma_of_error {iv : Bool} (h : mulVal (f.decode a) (f.decode b) = .error iv) :
    fpFma f rm sat a b c = nanResult f (iv || (f.decode c).isSnan) := by
  simp only [fpFma, h, saturate_nanResult]

/-- A product that exists, added to a third operand with a NaN result. -/
theorem fpFma_of_sum_nan {p : FVal} {iv : Bool} (h : mulVal (f.decode a) (f.decode b) = .ok p)
    (hsum : addVal f rm p (f.decode c) = nanResult f iv) : fpFma f rm sat a b c = nanResult f iv := by
  simp only [fpFma, h, hsum, saturate_nanResult]

/-- A NaN operand gives FFMA's default NaN, and a signalling one is invalid. With a quiet NaN alone, a product that is
0 × ∞ may be invalid too. -/
theorem fpFma_of_nan
    (h : (f.decode a).isNan = true ∨ (f.decode b).isNan = true ∨ (f.decode c).isNan = true) :
    ∃ iv, fpFma f rm sat a b c = nanResult f iv ∧
      ((f.decode a).isSnan = true ∨ (f.decode b).isSnan = true ∨ (f.decode c).isSnan = true → iv = true) := by
  by_cases hab : (f.decode a).isNan = true ∨ (f.decode b).isNan = true
  · exact ⟨_, fpFma_of_error (mulVal_of_nan hab), by simp [or_assoc]⟩
  · have hc : (f.decode c).isNan = true := by tauto
    have third : (f.decode a).isSnan = true ∨ (f.decode b).isSnan = true ∨ (f.decode c).isSnan = true →
        (f.decode c).isSnan = true := by
      rintro (ha | hb | hc)
      · exact absurd (Or.inl (FVal.isNan_of_isSnan ha)) hab
      · exact absurd (Or.inr (FVal.isNan_of_isSnan hb)) hab
      · exact hc
    cases hp : mulVal (f.decode a) (f.decode b) with
    | error iv => exact ⟨_, fpFma_of_error hp, fun hs => by rw [third hs, Bool.or_true]⟩
    | ok p => exact ⟨_, fpFma_of_sum_nan hp (addVal_of_nan (.inr hc)), fun hs => by rw [third hs, Bool.or_true]⟩

/-! ## Quotients -/

theorem fpDiv_of_nan (h : (f.decode a).isNan = true ∨ (f.decode b).isNan = true) :
    fpDiv f rm sat a b = nanResult f ((f.decode a).isSnan || (f.decode b).isSnan) := by
  cases ha : f.decode a with
  | nan s => simp only [fpDiv, ha, saturate_nanResult, FVal.isSnan]
  | inf n =>
    obtain ⟨t, hb⟩ := FVal.isNan_iff.1 (h.resolve_left (by rw [ha]; nofun))
    simp only [fpDiv, ha, hb, saturate_nanResult, FVal.isSnan, Bool.false_or]
  | num d =>
    obtain ⟨t, hb⟩ := FVal.isNan_iff.1 (h.resolve_left (by rw [ha]; nofun))
    simp only [fpDiv, ha, hb, saturate_nanResult, FVal.isSnan, Bool.false_or]

/-- ∞ ÷ ∞ is invalid. -/
theorem fpDiv_inf_inf (ha : (f.decode a).isInf = true) (hb : (f.decode b).isInf = true) :
    fpDiv f rm sat a b = nanResult f true := by
  obtain ⟨n, hn⟩ := FVal.isInf_iff.1 ha
  obtain ⟨k, hk⟩ := FVal.isInf_iff.1 hb
  simp only [fpDiv, hn, hk, saturate_nanResult]

/-- 0 ÷ 0 is invalid. -/
theorem fpDiv_zero_zero (f : Fmt) (rm : RMode) (sat : Bool) : fpDiv f rm sat 0 0 = nanResult f true := by
  simp only [fpDiv, f.decode_zero, if_pos, saturate_nanResult]

/-- A finite nonzero number divided by +0 is an infinity of its sign with DZ, before SAT (R344). -/
theorem fpDiv_by_zero (hf : f = .f32 ∨ f = .f64) (hfin : (f.decode a).isFinite = true)
    (hz : (f.decode a).isZero = false) :
    fpDiv f rm sat a 0 = saturate f sat true (f.code (f.decode a).neg (f.infCode.getD 0), fDZ) := by
  obtain ⟨d, hd, hm⟩ := FVal.exists_nonzero hfin hz
  simp [fpDiv, f.decode_zero, hd, hm, FVal.isFinite, FVal.neg, Fmt.infCode_getD hf]

/-! ## Square roots -/

theorem fpSqrt_of_nan (h : (f.decode a).isNan = true) :
    fpSqrt f rm sat a = nanResult f (f.decode a).isSnan := by
  obtain ⟨s, hs⟩ := FVal.isNan_iff.1 h
  simp only [fpSqrt, hs, saturate_nanResult, FVal.isSnan]

/-- The square root of −0 is −0, with DZ (Table 5-4). -/
theorem fpSqrt_signBit (f : Fmt) (rm : RMode) (sat : Bool) : fpSqrt f rm sat f.signBit = (f.signBit, fDZ) := by
  simp only [fpSqrt, f.decode_signBit, if_pos, saturate_zero]
  rfl

theorem fpSqrt_negative (hfin : (f.decode a).isFinite = true) (hz : (f.decode a).isZero = false)
    (hneg : (f.decode a).neg = true) : fpSqrt f rm sat a = nanResult f true := by
  obtain ⟨d, hd, hm⟩ := FVal.exists_nonzero hfin hz
  have hsign : d.neg = true := by rwa [hd] at hneg
  simp only [fpSqrt, hd, hm, hsign, if_pos, if_false, saturate_nanResult]

end Sys2Proof.Machine
end

section
/-! PROOF. O21: NaNs, zeros, infinities and SAT in FP32 and FP64 arithmetic. -/

namespace Sys2Proof.Machine

open Sys2Proof

/-- A zero signed by RDN. -/
theorem Fmt.code_rdn (f : Fmt) (rm : RMode) : f.code (rm == .rdn) 0 = if rm = .rdn then f.signBit else 0 := by
  simp [Fmt.code_zero]

/-- Settles O21: each operation's special cases, from what its exact sum, product, quotient or root comes to. -/
theorem fpSpecialCases : Obligations.FpSpecialCases := by
  unfold Obligations.FpSpecialCases
  intro f hf rm sat x y z X Y Z signals
  refine ⟨fun hnan => ?nan, fun hnan => ?fmaNan, fun hnan => ?sqrtNan, fun hzi => ?zeroInf, fun hx hy => ?infInf,
    fun hp hz hne => ?fmaInf, ?posPos, ?negNeg, ?posNeg, fun hfin hnz => ?subSelf, fun hfin hnz => ?byZero,
    fpDiv_zero_zero f rm sat, fpDiv_inf_inf, fpSqrt_signBit f rm sat, fpSqrt_negative⟩
  case nan =>
    have hsig : nanResult f (X.isSnan || Y.isSnan) = (f.nanCode, signals) := nanResult_or f _ _
    exact ⟨(fpAdd_of_nan hnan).trans hsig, (fpSub_of_nan hnan).trans hsig,
      (fpMul_of_error (mulVal_of_nan hnan)).trans hsig, (fpDiv_of_nan hnan).trans hsig⟩
  case fmaNan =>
    obtain ⟨iv, hr, hiv⟩ := fpFma_of_nan (rm := rm) (sat := sat) hnan
    exact ⟨by rw [hr]; rfl, fun hs => by rw [hr, hiv hs]; rfl⟩
  case sqrtNan => exact fpSqrt_of_nan hnan
  case zeroInf => exact ⟨fpMul_of_error (mulVal_zero_inf hzi), fun _ => fpFma_of_error (mulVal_zero_inf hzi)⟩
  case infInf => exact ⟨fpAdd_inf_opposite hx hy, fpSub_inf_same hx hy⟩
  case fmaInf => exact fpFma_of_sum_nan (mulVal_inf hp) (addVal_inf_opposite rfl hz hne.symm)
  case posPos => exact fpAdd_zeros f.decode_zero f.decode_zero
  case negNeg => exact fpAdd_zeros f.decode_signBit f.decode_signBit
  case posNeg => rw [fpAdd_zeros f.decode_zero f.decode_signBit, if_neg nofun, f.code_rdn]
  case subSelf => rw [fpSub_self hfin hnz, f.code_rdn]
  case byZero =>
    exact ⟨(fpDiv_by_zero hf hfin hnz).trans (saturate_false ..),
      (fpDiv_by_zero hf hfin hnz).trans (saturate_infCode hf _ _)⟩

end Sys2Proof.Machine
end

section
/-! SUPPORT. Engine commands alone in the tile queue: what they read and write, how they end, and how they start (R155, R160,
R162, R164, R166, R169, R170). -/

namespace Sys2Proof.Machine

open Sys2Proof

/-! ## Reads and writes with nothing done ahead (R160, R216) -/

theorem Core.engineBytes_of_unread {c : Core} (h : c.seen = []) (cmd use a n : Nat) :
    c.engineBytes cmd use a n = Cells.read c.lmem a n := by
  simp [Core.engineBytes, Core.seenFor, h]

theorem Core.engineBad_of_clean {c : Core} (h : c.seen = []) (hp : c.lpoison = []) (cmd use a n : Nat) :
    c.engineBad cmd use a n = [] := by
  simp [Core.engineBad, Core.seenFor, h, hp, badOffsets]

theorem Core.forgetUse_of_unread {c : Core} (h : c.seen = []) (cmd : Nat) (p : Seen → Bool) : c.forgetUse cmd p = c := by
  cases c
  simp_all [Core.forgetUse]

theorem Core.layRest_of_unlaid {c : Core} (h : c.laid = []) (core cmd pos unit a : Nat) (bs : List Byte) (bad : List Nat) :
    c.layRest core cmd pos unit a bs bad = c.put a bs bad := by
  simp [Core.layRest, Core.laidFor, h]

/-- An accumulator that has been set (R163). -/
theorem Core.acc_of_set {c : Core} {m : SMap (List (BitVec 32))} {a : Nat} {elems : List (BitVec 32)}
    (h : c.accs = SMap.set m a elems) : c.acc a = elems := by
  simp only [Core.acc, h, SMap.get_set, if_true]

theorem State.core_setCore_self (s : State) (n : Nat) (c : Core) : (s.setCore n c).core n = c := by simp

theorem Core.lmem_put (c : Core) (a : Nat) (bs : List Byte) (bad : List Nat) :
    (c.put a bs bad).lmem = Cells.write c.lmem a bs := rfl

/-- A part of a range that is read is what a read of that part gives. -/
theorem Cells.take_drop_read (m : List Host.Cell) {a i k n : Nat} (h : i + k ≤ n) :
    ((Cells.read m a n).drop i).take k = Cells.read m (a + i) k := by
  induction n generalizing a i k with
  | zero =>
    obtain ⟨rfl, rfl⟩ : i = 0 ∧ k = 0 := by omega
    rfl
  | succ n ih =>
    cases i with
    | succ i =>
      rw [Cells.read, List.drop_succ_cons, ih (by omega), show a + 1 + i = a + (i + 1) by omega]
    | zero =>
      cases k with
      | zero => rfl
      | succ k =>
        have hrest := ih (a := a + 1) (i := 0) (k := k) (by omega)
        rw [List.drop_zero] at hrest
        rw [Cells.read, List.drop_zero, List.take_succ_cons, hrest, Cells.read]
        rfl

/-! ## The end of a command alone in its queue (R162, R164, R169) -/

/-- A core with another tile queue. -/
def Core.withTiles (c : Core) (q : List TileCmd) : Core := { c with tileq := q }

@[simp] theorem Core.tileq_withTiles (c : Core) (q : List TileCmd) : (c.withTiles q).tileq = q := rfl
@[simp] theorem Core.lmem_withTiles (c : Core) (q : List TileCmd) : (c.withTiles q).lmem = c.lmem := rfl
@[simp] theorem Core.rings_withTiles (c : Core) (q : List TileCmd) : (c.withTiles q).rings = c.rings := rfl
@[simp] theorem Core.skips_withTiles (c : Core) (q : List TileCmd) : (c.withTiles q).skips = c.skips := rfl
@[simp] theorem Core.accs_withTiles (c : Core) (q : List TileCmd) : (c.withTiles q).accs = c.accs := rfl
@[simp] theorem Core.owner_withTiles (c : Core) (q : List TileCmd) : (c.withTiles q).owner = c.owner := rfl
@[simp] theorem Core.acc_withTiles (c : Core) (q : List TileCmd) (a : Nat) : (c.withTiles q).acc a = c.acc a := rfl
@[simp] theorem Core.seen_withTiles (c : Core) (q : List TileCmd) : (c.withTiles q).seen = c.seen := rfl
@[simp] theorem Core.withTiles_withTiles (c : Core) (q q' : List TileCmd) : (c.withTiles q).withTiles q' = c.withTiles q' := rfl

theorem Core.onTile_alone {c : Core} {k : TileCmd} (hq : c.tileq = [k]) (f : TileCmd → TileCmd) :
    c.onTile k.id f = c.withTiles [f k] := by
  simp [Core.onTile, Core.withTiles, hq]

theorem State.settleTiles_alone {u : State} {n : Nat} {k : TileCmd} (hq : (u.core n).tileq = [k]) (hd : k.done = true) :
    u.settleTiles n = u.leaveTile n k := by
  simp [State.settleTiles, State.settleTile, hq, hd]

/-- The only command of a core's tile queue, for which nothing has been read ahead, and which so far ends without a fault and
tells nobody of its end. -/
structure State.Alone (u : State) (n : Nat) (k : TileCmd) : Prop where
  queue : (u.core n).tileq = [k]
  unread : (u.core n).seen = []
  silent : k.y = 0
  faultless : k.fault = none
  sound : k.bad = false

section End
variable {u : State} {n : Nat} {k : TileCmd}

/-- A command that leaves takes nothing with it but itself, and sends its record where it faulted. -/
theorem State.leaveTile_alone (hq : (u.core n).tileq = [k]) (hseen : (u.core n).seen = []) (hy : k.y = 0) (hbad : k.bad = false) :
    u.leaveTile n k = k.fault.elim (u.setCore n ((u.core n).withTiles [])) fun f =>
      (u.setCore n ((u.core n).withTiles [])).sendRecord k.org.region (Rec.of f.code 1 (.core n) k.org f.addr f.detail) := by
  simp only [State.leaveTile, Core.forget, State.onCore_eq, Core.forgetUse_of_unread hseen, hq, hy, hbad, if_true,
    List.filter_cons, bne_self_eq_false, Bool.false_eq_true, if_false, List.filter_nil]
  cases k.kind <;> cases k.fault <;> rfl

theorem State.endTile_eq {x : TileCmd} (h : u.Alone n k) (hid : x.id = k.id) (hy : x.y = k.y) (hbad : x.bad = k.bad) :
    u.endTile n x = x.fault.elim (u.setCore n ((u.core n).withTiles [])) fun f =>
      (u.setCore n ((u.core n).withTiles [])).sendRecord x.org.region (Rec.of f.code 1 (.core n) x.org f.addr f.detail) := by
  rw [State.endTile, State.onCore_eq, hid, Core.onTile_alone h.queue,
    State.settleTiles_alone (k := { x with done := true }) (by simp [hid]) rfl,
    State.leaveTile_alone (k := { x with done := true }) (by simp [hid]) (by simpa using h.unread) (hy.trans h.silent)
      (hbad.trans h.sound)]
  simp

/-- A command that ends without a fault leaves the queue empty. -/
theorem State.Alone.endTile {x : TileCmd} (h : u.Alone n k) (hid : x.id = k.id) (hy : x.y = k.y) (hbad : x.bad = k.bad)
    (hf : x.fault = k.fault) : u.endTile n x = u.setCore n ((u.core n).withTiles []) := by
  rw [State.endTile_eq h hid hy hbad, hf.trans h.faultless]
  rfl

/-- A command that ends in a fault leaves the queue empty, and its record is sent (R162). -/
theorem State.Alone.failTile (h : u.Alone n k) {code addr : Nat} (hd : u.domainOf k.org.region = some 1) :
    ((u.failTile n k code addr).core n).tileq = [] ∧ (u.failTile n k code addr).Reports code 1 (.core n) := by
  rw [State.failTile, State.endTile_eq (x := { k with err := true, fault := some ⟨code, addr, 0⟩ }) h rfl rfl rfl]
  exact ⟨by simp [State.core_of_cores (State.cores_sendRecord ..)],
    State.sendRecord_reports (by rwa [State.domainOf_of rfl]) rfl rfl rfl (by decide)⟩

/-- What keeps the queue and what was read ahead keeps the command alone. -/
theorem State.Alone.setCore (h : u.Alone n k) {c : Core} (hq : c.tileq = (u.core n).tileq) (hs : c.seen = (u.core n).seen) :
    (u.setCore n c).Alone n k :=
  ⟨by simp [hq, h.queue], by simp [hs, h.unread], h.silent, h.faultless, h.sound⟩

/-- A command that changes its core and is done leaves the core as changed, and the queue empty. -/
theorem State.Alone.endTile_onCore (h : u.Alone n k) {x : TileCmd} {f : Core → Core} {c : Core} (hc : f (u.core n) = c)
    (hq : c.tileq = (u.core n).tileq) (hs : c.seen = (u.core n).seen) (hid : x.id = k.id) (hy : x.y = k.y) (hbad : x.bad = k.bad)
    (hf : x.fault = k.fault) : (u.onCore n f).endTile n x = u.setCore n (c.withTiles []) := by
  rw [State.onCore_eq, hc, (h.setCore hq hs).endTile hid hy hbad hf]
  simp

end End

/-! ## The start of a command alone in its queue (R155, R164, R166, R169, R170) -/

/-- A tile command alone in its queue, on a core that its region owns and whose words and accumulators are sound; the region's
budget is not limited and its commands are not set aside (R165, R166, R170, R171). -/
structure State.Drives (s : State) (n : Nat) (k : TileCmd) (g : Region) : Prop extends s.Alone n k where
  owner : (s.core n).owner = k.org.region
  clean : (s.core n).lpoison = []
  sums : (s.core n).accBad = []
  unlaid : (s.core n).laid = []
  region : s.region k.org.region = some g
  unlimited : g.tilebud = 0xFFFF
  undone : k.done = false
  active : s.setAside k.org.region = false
  noErr : k.err = false

theorem State.chargeTile_unlimited {s : State} {r : Nat} {g : Region} (hg : s.region r = some g) (hb : g.tilebud = 0xFFFF)
    (n i : Nat) : s.chargeTile n r i = s := by
  simp [State.chargeTile, hg, hb]

theorem State.hasTile_unlimited {s : State} {r : Nat} {g : Region} (hg : s.region r = some g) (hb : g.tilebud = 0xFFFF)
    (n : Nat) : s.hasTile n r = true := by
  simp [State.hasTile, hg, hb]

theorem State.takeEngine_owner {s : State} {n r : Nat} (h : (s.core n).owner = r) : s.takeEngine n r = s := if_pos h

theorem State.nextTile_alone {s : State} {n : Nat} {k : TileCmd} (hq : (s.core n).tileq = [k]) (hz : (s.core n).zeroing = false)
    (hs : k.started = false) (hd : k.done = false) (ha : s.setAside k.org.region = false) : s.nextTile n = some k := by
  simp [State.nextTile, hq, hz, hs, hd, ha, TileCmd.busy]

theorem Core.tileWaits_alone {c : Core} (hb : c.barriers = []) (hc : c.copyq = []) (k : TileCmd) : c.tileWaits k = false := by
  cases hk : k.kind <;> simp [Core.tileWaits, Core.mustWait, hb, hc, hk]

/-- The command may start, and the engine, taken for its region, stands as in `u`, where the region is charged nothing. -/
structure State.Starts (s : State) (n : Nat) (k : TileCmd) (u : State) : Prop where
  next : s.nextTile n = some k
  ready : (s.core n).tileWaits k = false
  taken : s.takeEngine n k.org.region = u
  uncharged : ∀ i, u.chargeTile n k.org.region i = u

section Start
variable {s u : State} {n : Nat} {k : TileCmd} (h : s.Starts n k u)
include h

theorem State.Starts.fenceq (hk : k.kind = .fenceq) : exec (.tileCommandStart n) s = .next ((u.onCore n id).endTile n k) := by
  simp [exec_tileCommandStart, execTileCommandStart, h.next, h.ready, h.taken, h.uncharged, hk, State.onCore_eq]

theorem State.Starts.rcfg {q : Nat} (hk : k.kind = .rcfg q) :
    exec (.tileCommandStart n) s = .next ((u.onCore n fun c => { c with
      rings := SMap.set c.rings q ⟨k.arg 0, k.arg 1 % 128, bitAt (wordAt k.grp 1) 8, k.arg 2, 0, 0, 0⟩ }).endTile n k) := by
  simp [exec_tileCommandStart, execTileCommandStart, h.next, h.ready, h.taken, h.uncharged, hk]

theorem State.Starts.sscfg {q : Nat} (hk : k.kind = .sscfg q) :
    exec (.tileCommandStart n) s = .next ((u.onCore n fun c => { c with
      skips := SMap.set c.skips q ⟨k.arg 0, false, k.arg 0 + k.arg 1⟩ }).endTile n k) := by
  simp [exec_tileCommandStart, execTileCommandStart, h.next, h.ready, h.taken, h.uncharged, hk]

theorem State.Starts.accz {a : Nat} (hk : k.kind = .accz a) :
    exec (.tileCommandStart n) s = .next ((u.onCore n fun c => { c with
      accs := SMap.del c.accs a, accBad := eraseNat c.accBad a }).endTile n k) := by
  simp [exec_tileCommandStart, execTileCommandStart, h.next, h.ready, h.taken, h.uncharged, hk]

theorem State.Starts.accld {a : Nat} (hk : k.kind = .accld a) (h64 : k.arg 0 % 64 = 0) (hend : k.arg 0 + 1024 ≤ localEnd) :
    exec (.tileCommandStart n) s = .next (u.onCore n fun c => c.onTile k.id fun k => { k with started := true }) := by
  simp [exec_tileCommandStart, execTileCommandStart, h.next, h.ready, h.taken, h.uncharged, hk, h64, hend]

theorem State.Starts.mma {tr : Bool} {qa qb a : Nat} (hk : k.kind = .mma tr qb qa a) :
    exec (.tileCommandStart n) s = .next (if (u.core n).checkPairs k qa qb none = true then
      u.onCore n fun c => c.onTile k.id fun k => { k with left := if k.left = 0 then k.arg 0 else k.left, started := true }
      else u.failTile n k 0x0C 0) := by
  simp [exec_tileCommandStart, execTileCommandStart, h.next, h.ready, h.taken, h.uncharged, hk]

end Start

section Drives
variable {s : State} {n : Nat} {k : TileCmd} {g : Region} (h : s.Drives n k g)
include h

/-- The engine needs no other owner's clearing, and charges nothing. -/
theorem State.Drives.takeEngine : s.takeEngine n k.org.region = s := s.takeEngine_owner h.owner

theorem State.Drives.chargeTile (i : Nat) : s.chargeTile n k.org.region i = s :=
  State.chargeTile_unlimited h.region h.unlimited n i

theorem State.Drives.starts (hs : k.started = false) (hz : (s.core n).zeroing = false) (hb : (s.core n).barriers = [])
    (hc : (s.core n).copyq = []) : s.Starts n k s :=
  ⟨State.nextTile_alone h.queue hz hs h.undone h.active, Core.tileWaits_alone hb hc k, h.takeEngine, h.chargeTile⟩

theorem State.Drives.hasTile : s.hasTile n k.org.region = true := State.hasTile_unlimited h.region h.unlimited n

theorem State.Drives.busy (hs : k.started = true) : k.busy = true := by simp [TileCmd.busy, hs, h.undone]

theorem State.Drives.pairCmd (hs : k.started = true) (hk : k.kind.pairs.isSome = true) : (s.core n).pairCmd = some k := by
  simp [Core.pairCmd, h.queue, h.busy hs, hk]

theorem State.Drives.transferCmd (hs : k.started = true)
    (hk : (∃ a, k.kind = .accld a) ∨ ∃ sc sat rm tag a, k.kind = .accst sc sat rm tag a) :
    (s.core n).transferCmd = some k := by
  obtain ⟨a, hk⟩ | ⟨sc, sat, rm, tag, a, hk⟩ := hk <;> simp [Core.transferCmd, h.queue, h.busy hs, hk]

theorem State.Drives.mmgCmd {val : MmgVal} {act : MmgAct} (hs : k.started = true) (hk : k.kind = .mmg val act) :
    (s.core n).mmgCmd = some k := by
  simp [Core.mmgCmd, h.queue, h.busy hs, hk]

end Drives

end Sys2Proof.Machine
end

section
/-! SUPPORT. Integer elements: of tiles, of the k-step of the integer tags, and of accumulator images (R129, R145, R151, R161,
R168). -/

namespace Sys2Proof.Machine

open Sys2Proof

/-! ## Elements -/

theorem IntTy.decode_toNat {w : Nat} (hw : 0 < w) (v : BitVec w) : (IntTy.mk w true).decode v.toNat = v.toInt := by
  have hv := v.isLt
  have hp : 2 ^ w = 2 * 2 ^ (w - 1) := by rw [← pow_succ']; congr 1; omega
  simp only [IntTy.decode, Nat.mod_eq_of_lt hv, Bool.true_and, ge_iff_le, decide_eq_true_eq, BitVec.toInt_eq_toNat_cond]
  push_cast
  grind

theorem elemAt_byte (bs : List Byte) (e : Nat) : elemAt 8 bs.toArray e = (bs.getD e 0).toNat := by
  simp [elemAt]

theorem intElem_byte (b : Byte) : intElem .int8 b.toNat = b.toInt := IntTy.decode_toNat (by decide) b

theorem ofNat_emod_add (v : BitVec 32) (z : Int) :
    BitVec.ofNat 32 (((v.toNat : Int) + z) % 2 ^ 32).toNat = v + BitVec.ofInt 32 z := by
  apply BitVec.eq_of_toNat_eq
  rw [BitVec.toNat_add, BitVec.toNat_ofInt, BitVec.toNat_ofNat]
  omega

theorem foldl_add_eq_sum (l : List Nat) (f : Nat → Int) : l.foldl (fun v x => v + f x) 0 = (l.map f).sum := by
  simp [List.sum_eq_foldl, List.foldl_map]

/-- What element (i, j) of the product of two INT8 tiles adds to an accumulator, modulo 2^32 (R151, R161). -/
def int8Step (tr : Bool) (a b : List Byte) (i j : Nat) : BitVec 32 :=
  BitVec.ofInt 32 (((List.range 32).map fun x =>
    (a.getD (32 * i + x) 0).toInt * (b.getD (if tr then 32 * j + x else 16 * x + j) 0).toInt).sum)

theorem intStep_int8 {p : Pair} (hp : descTag p.da = .int8) (he : p.expA = none) (tr : Bool) (a b : List Byte) (i j : Nat)
    (v : BitVec 32) : BitVec.ofNat 32 (intStep p tr a.toArray b.toArray i j v.toNat) = v + int8Step tr a b i j := by
  have hk : tileK .int8 = 32 := rfl
  have hb : tagBits .int8 = 8 := rfl
  simp only [intStep, hp, he, hk, hb, elemAt_byte, intElem_byte, foldl_add_eq_sum]
  exact ofNat_emod_add v _

/-- The contribution of a pair of INT8 tiles (R151). -/
theorem State.contribute_int8 (s : State) {p : Pair} (hp : descTag p.da = .int8) (he : p.expA = none) (bsA bsB tr : Bool)
    (a b : List Byte) (acc : List (BitVec 32)) : s.contribute p bsA bsB tr a b acc =
      (acc.zipIdx.map fun x => x.1 + int8Step tr a b (x.2 / 16) (x.2 % 16), s) := by
  simp [State.contribute, hp, tagFmt, intStep_int8 hp he]

/-! ## Images (R129, R168) -/

theorem bytesOf_append (n m v w : Nat) (hv : v < 2 ^ (8 * n)) :
    bytesOf (n + m) (v + w * 2 ^ (8 * n)) = bytesOf n v ++ bytesOf m w := by
  induction n generalizing v with
  | zero =>
    obtain rfl : v = 0 := by simpa using hv
    simp [bytesOf]
  | succ n ih =>
    have hp : 2 ^ (8 * (n + 1)) = 2 ^ (8 * n) * 256 := by rw [Nat.mul_succ, pow_add]; rfl
    rw [hp, ← Nat.mul_assoc, Nat.succ_add, bytesOf, Nat.add_mul_div_right _ _ (by decide), ih _ (by omega)]
    have hbyte : BitVec.ofNat 8 (v + w * 2 ^ (8 * n) * 256) = BitVec.ofNat 8 v := by
      apply BitVec.eq_of_toNat_eq
      simp only [BitVec.toNat_ofNat]
      omega
    rw [hbyte]
    rfl

/-- Elements of whole bytes are packed one after the other. -/
theorem packElems_bytes (n : Nat) (vs : List Nat) : packElems (8 * n) vs = vs.flatMap fun v => bytesOf n (v % 2 ^ (8 * n)) := by
  induction vs using packElems.induct with
  | case1 => rfl
  | case2 v =>
    rw [packElems, show (8 * n + 7) / 8 = n by omega]
    simp
  | case3 v w vs ih =>
    rw [packElems, ih, show 8 * n / 4 = n + n by omega, bytesOf_append _ _ _ _ (Nat.mod_lt _ (by positivity))]
    simp

/-- An INT32 element narrowed to INT8 with SAT is clamped (R145). -/
theorem narrow_int8 (v : Int) :
    BitVec.ofNat 8 ((IntTy.mk 8 true).narrow true v).1 = BitVec.ofInt 8 (max (-128) (min 127 v)) := by
  have hofInt (z : Int) : BitVec.ofNat 8 ((IntTy.mk 8 true).encode z) = BitVec.ofInt 8 z := by
    apply BitVec.eq_of_toNat_eq
    simp only [IntTy.encode, BitVec.toNat_ofNat, BitVec.toNat_ofInt]
    omega
  have hlo : (IntTy.mk 8 true).lo = -128 := rfl
  have hhi : (IntTy.mk 8 true).hi = 127 := rfl
  simp only [IntTy.narrow, hlo, hhi, if_true]
  split
  · rw [hofInt, max_eq_left (by omega)]
  · split
    · rw [hofInt, min_eq_left (by omega)]; rfl
    · rw [hofInt, min_eq_right (by omega), max_eq_right (by omega)]

/-- The bytes of an accumulator element that ACCST writes in FP32, as it stands (Table 6-5). -/
theorem accElem_fp32_bytes (sat : Bool) (rm : RMode) (e : Nat) (v : BitVec 32) :
    bytesOf 4 (accElem .fp32 false sat rm e v.toNat % 2 ^ (8 * 4)) = bytesOf 4 v.toNat := by
  have hcopy : accElem .fp32 false sat rm e v.toNat = v.toNat := by simp [accElem, tagFmt]
  rw [hcopy, Nat.mod_eq_of_lt v.isLt]

/-- The byte of an accumulator element that ACCST writes in INT8 with SAT (Table 6-5). -/
theorem accElem_int8_bytes (rm : RMode) (e : Nat) (v : BitVec 32) :
    bytesOf 1 (accElem .int8 false true rm e v.toNat % 2 ^ (8 * 1)) = [BitVec.ofInt 8 (max (-128) (min 127 v.toInt))] := by
  have hnarrow : accElem .int8 false true rm e v.toNat =
      ((IntTy.mk 8 true).narrow true ((IntTy.mk 32 true).decode v.toNat)).1 := rfl
  rw [hnarrow, IntTy.decode_toNat (by decide), ← narrow_int8, bytesOf, bytesOf]
  congr 1
  apply BitVec.eq_of_toNat_eq
  simp

end Sys2Proof.Machine
end

section
/-! SUPPORT. Numbers that a format holds exactly: their rounding, their decoding, and what an XA320 makes of an FP32 number (R130,
R140, R147, R148). -/

namespace Sys2Proof.Machine

open Sys2Proof

theorem bitLen_mul_two_pow {m l : Nat} (n : Nat) (hl : 2 ^ l ≤ m) (hu : m < 2 ^ (l + 1)) : bitLen (m * 2 ^ n) = l + 1 + n := by
  have hm : m ≠ 0 := by have := Nat.two_pow_pos l; omega
  have hlog : Nat.log2 (m * 2 ^ n) = l + n := by
    rw [Nat.log2_eq_iff (by positivity), pow_add, Nat.add_right_comm, pow_add 2 (l + 1)]
    exact ⟨Nat.mul_le_mul_right _ hl, Nat.mul_lt_mul_of_pos_right hu (by positivity)⟩
  rw [bitLen, if_neg (by positivity), hlog]
  omega

/-- A number of a format's normal range, however its mantissa is scaled, is rounded to itself (R140). -/
theorem roundMag_normal (f : Fmt) (rm : RMode) (neg : Bool) {m : Nat} (n : Nat) (e : Int) (hl : 2 ^ f.frac ≤ m)
    (hu : m < 2 ^ (f.frac + 1)) (he : f.emin ≤ e + n) :
    roundMag f rm neg (m * 2 ^ n) e false = ((e + n - f.emin).toNat * 2 ^ f.frac + m, false) := by
  have hm : 2 * (m * 2 ^ n) + bitOf false = m * 2 ^ (n + 1) := by simp [bitOf]; ring
  have hq : max (e - 1 + (bitLen (m * 2 ^ (n + 1)) : Int) - ((f.frac : Int) + 1)) f.emin = e + n := by
    rw [bitLen_mul_two_pow _ hl hu]
    push_cast
    omega
  have hs : (e + n - (e - 1)).toNat = n + 1 := by omega
  have hp : 0 < 2 ^ (n + 1) := by positivity
  simp only [roundMag, hm, hq, hs]
  rw [if_neg (by omega), Nat.shiftRight_eq_div_pow, Nat.mul_div_cancel _ hp, Nat.mul_mod_left]
  have : roundAway rm neg (m % 2 == 1) false false = false := by cases rm <;> simp [roundAway]
  simp [this]

/-! ## Normal FP32 numbers -/

/-- The value of a normal FP32 number with sign, exponent field and fraction (R130). -/
theorem decode_f32_normal {v : Nat} (h1 : 1 ≤ v / 2 ^ 23 % 256) (h254 : v / 2 ^ 23 % 256 ≤ 254) :
    Fmt.f32.decode v = .num ⟨v / 2 ^ 31 % 2 == 1, 2 ^ 23 + v % 2 ^ 23, ((v / 2 ^ 23 % 256 : Nat) : Int) - 150⟩ := by
  have hfr : v % 2 ^ 31 % 2 ^ 23 = v % 2 ^ 23 := by omega
  have hex : v % 2 ^ 31 / 2 ^ 23 = v / 2 ^ 23 % 256 := by omega
  have hinf : (some 0x7F800000 == some (v % 2 ^ 31)) = false := by simp; omega
  have hmax : ¬ 0x7F7FFFFF < v % 2 ^ 31 := by omega
  have hzero : (v / 2 ^ 23 % 256 == 0) = false := by simp; omega
  simp only [Fmt.decode, Fmt.signBit, Fmt.width, Fmt.infCode, Fmt.maxCode, Fmt.frac, Fmt.emin, Fmt.bias, hfr, hex, hinf, hmax,
    hzero, if_false, Bool.false_eq_true]
  congr 2
  omega

/-- A normal FP32 number, however its mantissa is scaled, is delivered as its own code (R140). -/
theorem deliver_f32_normal {v : Nat} (rm : RMode) (sat : Bool) (n : Nat) {e : Int} (hv : v < 2 ^ 32) (h1 : 1 ≤ v / 2 ^ 23 % 256)
    (h254 : v / 2 ^ 23 % 256 ≤ 254) (he : e + n = ((v / 2 ^ 23 % 256 : Nat) : Int) - 150) :
    (deliver .f32 rm sat (.num ⟨v / 2 ^ 31 % 2 == 1, (2 ^ 23 + v % 2 ^ 23) * 2 ^ n, e⟩)).1 = v := by
  have hfrac : Fmt.f32.frac = 23 := rfl
  have hemin : Fmt.f32.emin = -149 := rfl
  have hround := roundMag_normal .f32 rm (v / 2 ^ 31 % 2 == 1) (m := 2 ^ 23 + v % 2 ^ 23) n e
    (by rw [hfrac]; omega) (by rw [hfrac]; omega) (by omega)
  have hmag : ((v / 2 ^ 23 % 256 : Nat) - 150 - (-149) : Int).toNat * 2 ^ 23 + (2 ^ 23 + v % 2 ^ 23) = v % 2 ^ 31 := by omega
  rw [hfrac, hemin, he, hmag] at hround
  have hmax : ¬ v % 2 ^ 31 > Fmt.f32.maxCode := by
    rw [show Fmt.f32.maxCode = 0x7F7FFFFF from rfl]
    omega
  have hne : (2 ^ 23 + v % 2 ^ 23) * 2 ^ n ≠ 0 := by positivity
  simp only [deliver, roundFp, hround, hne, hmax, false_and, if_false]
  have hsign : Fmt.f32.signBit = 2 ^ 31 := rfl
  by_cases hs : v / 2 ^ 31 % 2 = 1
  · simp only [Fmt.code, hsign, hs, beq_iff_eq, if_true]
    omega
  · simp only [Fmt.code, hsign, hs, beq_iff_eq, if_false]
    omega

/-- A dyadic number from its sign and magnitude. -/
theorem Dyadic.ofInt_signed (neg : Bool) {m : Nat} (hm : m ≠ 0) (e : Int) (z : Bool) :
    Dyadic.ofInt (if neg = true then -(m : Int) else m) e z = ⟨neg, m, e⟩ := by
  cases neg with
  | false => simp [Dyadic.ofInt, hm]
  | true => simp [Dyadic.ofInt, hm]; omega

/-- A cleared XA320 to which a number of at most 24 bits with an exponent of FP32 is added holds it exactly (R146, R147). -/
theorem XA.value_add_zero {neg : Bool} {m e : Nat} (hm : m ≠ 0) (hu : m < 2 ^ 24) (he : e ≤ 254) :
    (XA.zero.add (.num ⟨neg, m, (e : Int) - 150⟩)).value = .num ⟨neg, m * 2 ^ (e + 10), -160⟩ := by
  have hat : Dyadic.at ⟨neg, m, (e : Int) - 150⟩ (-160) =
      if neg = true then -((m * 2 ^ (e + 10) : Nat) : Int) else (m * 2 ^ (e + 10) : Nat) := by
    simp only [Dyadic.at, shiftUp, Nat.shiftLeft_eq]
    rw [show ((e : Int) - 150 - -160).toNat = e + 10 by omega]
  have hbound : m * 2 ^ (e + 10) < 2 ^ 319 := calc
    m * 2 ^ (e + 10) < 2 ^ 24 * 2 ^ (e + 10) := Nat.mul_lt_mul_of_pos_right hu (by positivity)
    _ = 2 ^ (24 + (e + 10)) := (pow_add ..).symm
    _ < 2 ^ 319 := pow_lt_pow_right₀ one_lt_two (by omega)
  have hadd : XA.zero.add (.num ⟨neg, m, (e : Int) - 150⟩) = ⟨Dyadic.at ⟨neg, m, (e : Int) - 150⟩ (-160), .fin⟩ := by
    have hup : ¬ (2 ^ 319 : Int) ≤ Dyadic.at ⟨neg, m, (e : Int) - 150⟩ (-160) := by rw [hat]; split <;> omega
    have hdown : ¬ Dyadic.at ⟨neg, m, (e : Int) - 150⟩ (-160) < -(2 ^ 319 : Int) := by rw [hat]; split <;> omega
    simp only [XA.add, XA.zero, zero_add, ge_iff_le, if_neg hup, if_neg hdown]
  rw [hadd, XA.value, hat, Dyadic.ofInt_signed neg (by positivity)]

/-- The exact sum of one number that is not zero (R150). -/
theorem exactSum_one {neg : Bool} {m : Nat} (hm : m ≠ 0) {e : Int} (he : e ≤ 0) :
    exactSum [⟨neg, m, e⟩] = ⟨neg, m, e⟩ := by
  have hat : Dyadic.at ⟨neg, m, e⟩ e = if neg = true then -(m : Int) else m := by simp [Dyadic.at, shiftUp]
  simp only [exactSum, List.foldl_cons, List.foldl_nil, min_eq_right he, zero_add, hat, Dyadic.ofInt_signed neg hm]

/-- A row of one group whose weight and sum are finite is their product, rounded once (R189). -/
theorem rowTotal_single {val : Nat → FVal} {w m : Nat} {x : XA} {p d : Dyadic} {neg : Bool} {e : Int} (hw : val w = .num p)
    (hx : x.value = .num d) (hmul : p.mul d = ⟨neg, m, e⟩) (hm : m ≠ 0) (he : e ≤ 0) :
    rowTotal val [(w, x)] = (deliver .f32 .rne false (.num ⟨neg, m, e⟩)).1 := by
  simp [rowTotal, hw, hx, FVal.isNan, FVal.isInf, hmul, exactSum_one hm he, hm]

/-- A row with one group of weight one and one activation, a normal FP32 number, gives that activation (R189). -/
theorem rowTotal_one {v : Nat} (hv : v < 2 ^ 32) (h1 : 1 ≤ v / 2 ^ 23 % 256) (h254 : v / 2 ^ 23 % 256 ≤ 254) :
    rowTotal Fmt.bf16.decode [(0x3F80, XA.zero.add (Fmt.f32.decode v))] = v := by
  have hone : Fmt.bf16.decode 0x3F80 = .num ⟨false, 2 ^ 7, -7⟩ := by decide
  have hmul (neg : Bool) (m n : Nat) : Dyadic.mul ⟨false, 2 ^ 7, -7⟩ ⟨neg, m * 2 ^ (n + 10), -160⟩
      = ⟨neg, m * 2 ^ (n + 17), -167⟩ := by
    rw [Dyadic.mul, Bool.false_bne, show 2 ^ 7 * (m * 2 ^ (n + 10)) = m * 2 ^ (n + 17) by ring]
    rfl
  rw [decode_f32_normal h1 h254,
    rowTotal_single hone (XA.value_add_zero (by omega) (by omega) h254) (hmul ..) (by positivity) (by decide)]
  exact deliver_f32_normal _ _ _ hv h1 h254 (by omega)

end Sys2Proof.Machine
end

section
/-! PROOF. O57, support: commands of the tile engine start, and so do their pairs (R155-R169, R176, R229). -/

namespace Sys2Proof.Machine

open Sys2Proof

variable {s : State} {n : Nat} {k : TileCmd} {g : Region}

/-! ## Starts (R155, R164, R166, R167, R176, R229) -/

/-- A FENCEQ of a region that is not the owner clears the engine (R166). -/
theorem fenceq_takes_engine (h : s.Alone n k) (hg : s.region k.org.region = some g) (hu : g.tilebud = 0xFFFF)
    (hd : k.done = false) (ha : s.setAside k.org.region = false) (hs : k.started = false) (hz : (s.core n).zeroing = false)
    (hb : (s.core n).barriers = []) (hc : (s.core n).copyq = []) (ho : (s.core n).owner ≠ k.org.region)
    (hk : k.kind = .fenceq) :
    exec (.tileCommandStart n) s = .next (s.setCore n (((s.core n).clearEngine k.org.region).withTiles [])) := by
  have htake : s.takeEngine n k.org.region = s.setCore n ((s.core n).clearEngine k.org.region) := by
    simp [State.takeEngine, ho, State.onCore_eq, State.settleCopies, Core.clearEngine, hc]
  have hregion : (s.setCore n ((s.core n).clearEngine k.org.region)).region k.org.region = some g := hg
  have hstart : s.Starts n k (s.setCore n ((s.core n).clearEngine k.org.region)) :=
    ⟨State.nextTile_alone h.queue hz hs hd ha, Core.tileWaits_alone hb hc k, htake, State.chargeTile_unlimited hregion hu n⟩
  have halone : (s.setCore n ((s.core n).clearEngine k.org.region)).Alone n k := h.setCore rfl rfl
  rw [hstart.fenceq hk, halone.endTile_onCore rfl rfl rfl rfl rfl rfl rfl]
  simp

section Start
variable (h : s.Drives n k g) (hst : s.Starts n k s)
include h hst

theorem starts_fenceq (hk : k.kind = .fenceq) :
    exec (.tileCommandStart n) s = .next (s.setCore n { s.core n with tileq := [] }) := by
  rw [hst.fenceq hk, h.endTile_onCore rfl rfl rfl rfl rfl rfl rfl]
  rfl

theorem starts_rcfg {q : Nat} {b d c : Word} (hk : k.kind = .rcfg q) (hg : k.grp = [b, d, c]) :
    ∃ t, exec (.tileCommandStart n) s = .next t ∧ (t.core n).tileq = [] ∧
      SMap.find (t.core n).rings q = some ⟨b.toNat, d.toNat % 128, d.getLsbD 8, c.toNat, 0, 0, 0⟩ := by
  rw [hst.rcfg hk, h.endTile_onCore rfl rfl rfl rfl rfl rfl rfl]
  refine ⟨_, rfl, by simp, ?_⟩
  simp [TileCmd.arg, hg, wordAt, bitAt]

theorem starts_sscfg {q : Nat} {a l : Word} (hk : k.kind = .sscfg q) (hg : k.grp = [a, l]) :
    ∃ t, exec (.tileCommandStart n) s = .next t ∧ (t.core n).tileq = [] ∧
      SMap.find (t.core n).skips q = some ⟨a.toNat, false, a.toNat + l.toNat⟩ := by
  rw [hst.sscfg hk, h.endTile_onCore rfl rfl rfl rfl rfl rfl rfl]
  refine ⟨_, rfl, by simp, ?_⟩
  simp [TileCmd.arg, hg, wordAt]

theorem starts_accz {a : Nat} (hk : k.kind = .accz a) (hr : SMap.Rising (s.core n).accs) :
    ∃ t, exec (.tileCommandStart n) s = .next t ∧ (t.core n).tileq = [] ∧ (t.core n).acc a = List.replicate 256 0 ∧
      ∀ b, b ≠ a → (t.core n).acc b = (s.core n).acc b := by
  rw [hst.accz hk, h.endTile_onCore rfl rfl rfl rfl rfl rfl rfl]
  refine ⟨_, rfl, by simp, ?_, fun b hne => ?_⟩
  · simp only [State.core_setCore, if_true, Core.acc, SMap.get, Core.accs_withTiles, SMap.find_del hr, Option.getD_none]
  · simp only [State.core_setCore, if_true, Core.acc, SMap.get, Core.accs_withTiles, SMap.find_del hr, if_neg hne]

theorem starts_accld {a : Nat} {x : Word} (hk : k.kind = .accld a) (hg : k.grp = [x]) (h64 : x.toNat % 64 = 0)
    (hx : x.toNat + 1024 ≤ 0x180000) :
    ∃ t, exec (.tileCommandStart n) s = .next t ∧ (t.core n).tileq = [{ k with started := true }] := by
  have harg : k.arg 0 = x.toNat := by simp [TileCmd.arg, hg, wordAt]
  rw [hst.accld hk (by rwa [harg]) (by rwa [harg])]
  exact ⟨_, rfl, by simp [Core.onTile_alone h.queue]⟩

section Mma
variable {tr : Bool} {qa qb a : Nat} {x : Word} (hk : k.kind = .mma tr qb qa a)
include hk

theorem starts_mma (hg : k.grp = [x]) (hleft : k.left = 0) (h1 : 1 ≤ x.toNat) (h2 : x.toNat ≤ 65535)
    (ha : (SMap.find (s.core n).rings qa).isSome) (hbr : (SMap.find (s.core n).rings qb).isSome) :
    ∃ t, exec (.tileCommandStart n) s = .next t ∧ (t.core n).tileq = [{ k with started := true, left := x.toNat }] := by
  have harg : k.arg 0 = x.toNat := by simp [TileCmd.arg, hg, wordAt]
  have hcheck : (s.core n).checkPairs k qa qb none = true := by simp [Core.checkPairs, harg, h1, h2, SMap.has, ha, hbr]
  rw [hst.mma hk, if_pos hcheck]
  exact ⟨_, rfl, by simp [Core.onTile_alone h.queue, hleft, harg]⟩

theorem starts_mma_unconfigured (ha : SMap.find (s.core n).rings qa = none) (hd : s.domainOf k.org.region = some 1) :
    ∃ t, exec (.tileCommandStart n) s = .next t ∧ (t.core n).tileq = [] ∧ t.Reports 0x0C 1 (.core n) := by
  have hcheck : (s.core n).checkPairs k qa qb none = false := by simp [Core.checkPairs, SMap.has, ha]
  rw [hst.mma hk, if_neg (by simp [hcheck])]
  exact ⟨_, rfl, h.toAlone.failTile hd⟩

end Mma

end Start

/-- A command of a region that is not the owner clears the engine first (R166). -/
theorem starts_other_owner (h : s.Drives n k g) (hs : k.started = false) (hz : (s.core n).zeroing = false)
    (hb : (s.core n).barriers = []) (hc : (s.core n).copyq = []) {r : Nat} (hr : r ≠ k.org.region) (hk : k.kind = .fenceq) :
    ∃ t, exec (.tileCommandStart n) (s.setCore n { s.core n with owner := r }) = .next t ∧ (t.core n).owner = k.org.region ∧
      (t.core n).rings = [] ∧ (t.core n).skips = [] ∧ (t.core n).accs = [] ∧ (t.core n).tileq = [] := by
  obtain ⟨c, hcore⟩ : ∃ c : Core, c = { s.core n with owner := r } := ⟨_, rfl⟩
  rw [← hcore]
  rw [fenceq_takes_engine (s := s.setCore n c) (by rw [hcore]; exact h.toAlone.setCore rfl rfl) h.region h.unlimited h.undone
    h.active hs (by simp [hcore, hz]) (by simp [hcore, hb]) (by simp [hcore, hc]) (by simp [hcore, hr]) hk]
  exact ⟨_, rfl, by simp [Core.clearEngine]⟩

/-! ## Pairs start (R159, R160, R162, R164) -/

/-- A pair of tiles that are not compressed, with sound descriptors, started at a cycle (R159). -/
def Pair.started (da db : Word) (cycle : Nat) : Pair :=
  { da := da, db := db, expA := none, poison := false, dense := (tagFmt (descTag da)).isSome && (bitAt da 3 || bitAt db 3),
    due := cycle + 4, skip := none }

@[simp] theorem State.core_pairStarted (s : State) (n m : Nat) : (s.pairStarted n).core m = s.core m := rfl

theorem State.sameBytes_pairStarted (s : State) (n : Nat) : s.SameBytes (s.pairStarted n) :=
  ⟨fun _ => rfl, fun _ => rfl, fun _ _ => rfl⟩

/-- The start of a pair is counted in its microsecond (R294). -/
theorem State.find_pairStarted (s : State) (n : Nat) :
    ∃ l, SMap.find (s.pairStarted n).pairCores n = some (s.time / 1000 :: l) :=
  ⟨_, (SMap.find_set ..).trans (if_pos rfl)⟩

/-- An MMA with a pair to do whose tiles are present, in two rings (R159). -/
structure State.HasPair (s : State) (n : Nat) (k : TileCmd) (tr : Bool) (qa qb a : Nat) (ra rb : Ring) : Prop where
  started : k.started = true
  kind : k.kind = .mma tr qb qa a
  apart : qa ≠ qb
  ringA : SMap.find (s.core n).rings qa = some ra
  ringB : SMap.find (s.core n).rings qb = some rb
  tileA : 1 ≤ ra.count
  tileB : 1 ≤ rb.count
  headA : ra.head < ra.depth
  headB : rb.head < rb.depth

section Pairs
variable {tr : Bool} {qa qb a : Nat} {ra rb : Ring} (h : s.Drives n k g) (hp : s.HasPair n k tr qa qb a ra rb)
include hp

theorem State.HasPair.pairs : k.kind.pairs = some (qa, qb, a, none) := by rw [hp.kind]; rfl

theorem State.HasPair.pairPresent : (s.core n).pairPresent qa qb = true := by
  simp [Core.pairPresent, hp.ringA, hp.ringB, hp.apart, hp.tileA, hp.tileB]

theorem State.HasPair.pairAt : (s.core n).pairAt qa qb =
    (ra.base + 512 * ra.head, rb.base + 512 * rb.head, ra.desc + 8 * ra.head, rb.desc + 8 * rb.head) := by
  simp [Core.pairAt, SMap.get, hp.ringA, hp.ringB, hp.apart, Ring.slot, Nat.mod_eq_of_lt hp.headA, Nat.mod_eq_of_lt hp.headB]

include h

theorem State.Drives.pairCmd_mma : (s.core n).pairCmd = some k := h.pairCmd hp.started (by rw [hp.pairs]; rfl)

variable {da db : Word} (hnone : k.pair = none) (hda : (s.core n).word (ra.desc + 8 * ra.head) = da)
  (hdb : (s.core n).word (rb.desc + 8 * rb.head) = db)
include hnone hda hdb

/-- A pair whose descriptors fit each other starts (R159). -/
theorem pair_starts (hok : tagPairOk (descTag da) (descTag db) = true) (ha : field da 31 4 = 0) (hb : field db 31 4 = 0) :
    exec (.tilePairStart n) s =
      .next ((s.setCore n ((s.core n).withTiles [{ k with pair := some (.started da db s.cycle) }])).pairStarted n) := by
  simp [exec_tilePairStart, execTilePairStart, h.pairCmd_mma hp, hp.pairs, hp.pairPresent, hp.pairAt, hnone, hda, hdb,
    Core.skipAwaits, h.hasTile, h.clean, touches, hok, ha, hb, h.chargeTile, State.onCore_eq, Core.forgetNibbles,
    Core.forgetUse_of_unread h.unread, Core.onTile_alone h.queue, Pair.started, h.sound]

/-- A pair whose tags do not fit each other is the format fault (R162). -/
theorem pair_refused (hok : tagPairOk (descTag da) (descTag db) = false) :
    exec (.tilePairStart n) s = .next (s.failTile n k 0x07
      (if field da 31 4 == 0 then rb.desc + 8 * rb.head else ra.desc + 8 * ra.head)) := by
  simp [exec_tilePairStart, execTilePairStart, h.pairCmd_mma hp, hp.pairs, hp.pairPresent, hp.pairAt, hnone, hda, hdb,
    Core.skipAwaits, h.hasTile, h.clean, touches, hok, h.sound]

theorem pair_started (hok : tagPairOk (descTag da) (descTag db) = true) (ha : da.extractLsb' 4 28 = 0)
    (hb : db.extractLsb' 4 28 = 0) :
    ∃ t p, exec (.tilePairStart n) s = .next t ∧ (t.core n).tileq = [{ k with pair := some p }] ∧ p.da = da ∧
      p.db = db ∧ p.expA = none ∧ p.poison = false ∧ p.due = s.cycle + 4 ∧ p.skip = none ∧ s.SameBytes t ∧
      ∃ l, SMap.find t.pairCores n = some (s.time / 1000 :: l) := by
  have hstart := pair_starts h hp hnone hda hdb hok ((field_eq_zero ..).2 ha) ((field_eq_zero ..).2 hb)
  refine ⟨_, .started da db s.cycle, hstart, ?_, rfl, rfl, rfl, rfl, rfl, rfl, ?_, ?_⟩
  · rw [State.core_pairStarted, State.core_setCore_self, Core.tileq_withTiles]
  · exact (s.sameBytes_setCore (Core.lmem_withTiles ..)).trans (State.sameBytes_pairStarted ..)
  · exact State.find_pairStarted ..

theorem pair_faults (hok : tagPairOk (descTag da) (descTag db) = false) (hd : s.domainOf k.org.region = some 1) :
    ∃ t, exec (.tilePairStart n) s = .next t ∧ (t.core n).tileq = [] ∧ t.Reports 0x07 1 (.core n) :=
  ⟨_, pair_refused h hp hnone hda hdb hok, h.failTile hd⟩

end Pairs

end Sys2Proof.Machine
end

section
/-! PROOF. O57: pairs retire, a row of MMG ends, accumulators are transferred; and the obligation from its parts. -/

namespace Sys2Proof.Machine

open Sys2Proof

variable {s : State} {n : Nat} {k : TileCmd} {g : Region}

/-! ## Pairs retire (R151, R159, R161) -/

/-- Popping a pair changes the rings of the core alone. -/
theorem Core.popPair_eq (c : Core) (qa qb : Nat) : c.popPair qa qb = { c with rings := (c.popPair qa qb).rings } := by
  simp only [Core.popPair]
  split <;> split <;> rfl

/-- A core whose tiles of a pair are popped and whose accumulator `acc` holds other elements. -/
def Core.retired (c : Core) (qa qb acc : Nat) (elems : List (BitVec 32)) : Core :=
  { c.popPair qa qb with accs := SMap.set (c.popPair qa qb).accs acc elems }

theorem Core.retired_eq (c : Core) (qa qb acc : Nat) (elems : List (BitVec 32)) : c.retired qa qb acc elems =
    { c with rings := (c.popPair qa qb).rings, accs := SMap.set c.accs acc elems } := by
  rw [Core.retired, Core.popPair_eq]

section Retire
variable {tr : Bool} {qa qb a : Nat} {ra rb : Ring} (h : s.Drives n k g) (hp : s.HasPair n k tr qa qb a ra rb)
include hp

/-- The tiles of the pair are popped from their rings (R159). -/
theorem State.HasPair.rings_popPair : ((s.core n).popPair qa qb).rings =
    SMap.set (SMap.set (s.core n).rings qa { ra with head := (ra.head + 1) % ra.depth, count := ra.count - 1 }) qb
      { rb with head := (rb.head + 1) % rb.depth, count := rb.count - 1 } := by
  simp [Core.popPair, hp.ringA, hp.ringB, hp.apart.symm]

include h

/-- The last pair of a command, of two INT8 tiles, adds its contribution and pops the tiles, and the command ends (R151, R159). -/
theorem last_pair_retires {p : Pair} (hpair : k.pair = some p) (ha : p.da = 6) (he : p.expA = none)
    (hsound : p.poison = false) (hdue : p.due ≤ s.cycle) (hleft : k.left = 1) :
    exec (.tilePairRetire n) s = .next (s.setCore n (((s.core n).retired qa qb a
      (((s.core n).acc a).zipIdx.map fun x => x.1 + int8Step tr
        (Cells.read (s.core n).lmem (ra.base + 512 * ra.head) 512) (Cells.read (s.core n).lmem (rb.base + 512 * rb.head) 512)
        (x.2 / 16) (x.2 % 16))).withTiles [])) := by
  have htag : descTag p.da = .int8 := by rw [ha]; rfl
  have hseen : ((s.core n).popPair qa qb).seen = [] := by rw [Core.popPair_eq]; exact h.unread
  have hend (elems) : (s.setCore n ((s.core n).retired qa qb a elems)).endTile n { k with pair := none, left := 0, err := false }
      = s.setCore n (((s.core n).retired qa qb a elems).withTiles []) :=
    h.endTile_onCore (f := fun c => c.retired qa qb a elems) rfl (by rw [Core.retired_eq]) (by rw [Core.retired_eq])
      rfl rfl rfl rfl
  rw [← hend]
  simp only [exec_tilePairRetire, execTilePairRetire, h.pairCmd_mma hp, hp.pairs, hpair]
  simp [hp.pairAt, hdue.not_gt, hleft, hsound, h.sums, Core.engineBad_of_clean h.unread h.clean,
    Core.engineBytes_of_unread h.unread, State.contribute_int8 _ htag he, hp.kind, State.onCore_eq,
    Core.forgetUse_of_unread hseen, h.noErr, Core.retired]

/-- The retirement of the last pair of a command, of two INT8 tiles (R151, R159, R160, R161). -/
theorem pair_retired {p : Pair} (hpair : k.pair = some p) (ha : p.da = 6) (he : p.expA = none) (hsound : p.poison = false)
    (hdue : p.due ≤ s.cycle) (hleft : k.left = 1) (hlen : ((s.core n).acc a).length = 256) :
    ∃ t, exec (.tilePairRetire n) s = .next t ∧ (t.core n).tileq = [] ∧ s.SameBytes t ∧
      SMap.find (t.core n).rings qa = some { ra with head := (ra.head + 1) % ra.depth, count := ra.count - 1 } ∧
      SMap.find (t.core n).rings qb = some { rb with head := (rb.head + 1) % rb.depth, count := rb.count - 1 } ∧
      ∀ i < 16, ∀ j < 16, ((t.core n).acc a)[16 * i + j]? = some (((s.core n).acc a).getD (16 * i + j) 0 + int8Step tr
        (Cells.read (s.core n).lmem (ra.base + 512 * ra.head) 512)
        (Cells.read (s.core n).lmem (rb.base + 512 * rb.head) 512) i j) := by
  refine ⟨_, last_pair_retires h hp hpair ha he hsound hdue hleft, by simp,
    State.sameBytes_setCore _ (by simp [Core.retired_eq]), ?_, ?_, fun i hi j hj => ?_⟩
  · simp [Core.retired_eq, hp.rings_popPair, hp.apart]
  · simp [Core.retired_eq, hp.rings_popPair]
  · have hlt : 16 * i + j < ((s.core n).acc a).length := by omega
    have hrow : (16 * i + j) / 16 = i := by omega
    have hcol : (16 * i + j) % 16 = j := by omega
    rw [State.core_setCore_self, Core.acc_withTiles, Core.acc_of_set rfl, List.getElem?_map, List.getElem?_zipIdx,
      List.getElem?_eq_getElem hlt, List.getD_eq_getElem _ _ hlt]
    simp only [Option.map_some, Nat.zero_add, hrow, hcol]

end Retire

/-! ## Grouped rows (R189) -/

/-- A command whose only row left has one group of weight one with one activation, and which writes its sum (R187, R189). -/
theorem mmgRow_one (h : s.Drives n k g) {rec_ a l idx v : Nat} (hrec : k.recAt = rec_) (ha : k.arg 2 = a) (hl : k.arg 3 = l)
    (hle : l ≤ 8192) (hidx : idx < l) (hlo : s.fstore ≤ rec_) (hhi : rec_ + 10 ≤ 0x180000)
    (hrecord : ((List.range 5).map fun j => natOf (Cells.read (s.core n).lmem (rec_ + 2 * j) 2)) = [5, 1, 0x3F80, idx, 0xFFFF])
    (hv : natOf (Cells.read (s.core n).lmem (a + 4 * idx) 4) = v) (h1 : 1 ≤ v / 2 ^ 23 % 256)
    (h254 : v / 2 ^ 23 % 256 ≤ 254) :
    s.mmgRow n k .bf16 .f32 = .done v 5 := by
  have hscratch (m : Nat) (hm : m ≤ 10) : s.inScratch rec_ m = true := by
    simp [State.inScratch, localEnd, hlo]; omega
  obtain ⟨h0, h2, h4, h6, h8⟩ : natOf (Cells.read (s.core n).lmem rec_ 2) = 5 ∧
      natOf (Cells.read (s.core n).lmem (rec_ + 2) 2) = 1 ∧
      natOf (Cells.read (s.core n).lmem (rec_ + 4) 2) = 0x3F80 ∧ natOf (Cells.read (s.core n).lmem (rec_ + 6) 2) = idx ∧
      natOf (Cells.read (s.core n).lmem (rec_ + 8) 2) = 0xFFFF := by simpa [List.range_succ] using hrecord
  have hgroups : (s.core n).rowGroups k.id rec_ 5 l a .f32 4 .bf16 6 2 1 none []
      = .ok [(0x3F80, XA.zero.add (Fmt.f32.decode v))] := by
    have hact : natOf (Cells.read (s.core n).lmem (a + idx * 4) 4) = v := by rwa [Nat.mul_comm]
    have hmark : idx ≠ 0xFFFF := by omega
    simp [Core.rowGroups, Core.engineBytes_of_unread h.unread, Core.engineBad_of_clean h.unread h.clean, h4, h6, h8, hmark,
      hidx.not_ge, hact]
  have hlt : v < 2 ^ 32 := by rw [← hv]; exact (natOf_lt _).trans_eq (by rw [Cells.read_length])
  simp only [State.mmgRow, hrec]
  simp [hscratch, Core.engineBytes_of_unread h.unread, Core.engineBad_of_clean h.unread h.clean, h0, h2, ha, hl,
    actFmt, actBytes, hgroups, rowTotal_one hlt h1 h254]

/-- The last row of an MMG writes its result, and the command ends (R189). -/
theorem last_row_completes (h : s.Drives n k g) {v words d : Nat} (hs : k.started = true) (hk : k.kind = .mmg .bf16 .f32)
    (hleft : k.left = 1) (hrow : k.row = 0) (hd : k.arg 4 = d) (hdone : s.mmgRow n k .bf16 .f32 = .done v words) :
    exec (.mmgRowComplete n) s = .next (s.setCore n (((s.core n).put d (bytesOf 4 v) []).withTiles [])) := by
  simp only [exec_mmgRowComplete, execMmgRowComplete, h.mmgCmd hs hk, hk, hdone]
  simp only [hleft, hrow, hd, Nat.sub_self, Nat.mul_zero, Nat.add_zero, if_true]
  have hread : ((s.core n).put d (bytesOf 4 v) []).seen = [] := h.unread
  exact congrArg _ (h.endTile_onCore (Core.forgetUse_of_unread hread _ _) rfl rfl rfl rfl rfl rfl)

theorem row_completes (h : s.Drives n k g) {v words d : Nat} (hs : k.started = true) (hk : k.kind = .mmg .bf16 .f32)
    (hleft : k.left = 1) (hrow : k.row = 0) (hd : k.arg 4 = d) (hdone : s.mmgRow n k .bf16 .f32 = .done v words)
    (hm : Memory.wf (s.core n).lmem = true) :
    ∃ t, exec (.mmgRowComplete n) s = .next t ∧ (t.core n).tileq = [] ∧ Cells.read (t.core n).lmem d 4 = bytesOf 4 v ∧
      ∀ b, b < d ∨ d + 4 ≤ b → Cells.get (t.core n).lmem b = Cells.get (s.core n).lmem b := by
  refine ⟨_, last_row_completes h hs hk hleft hrow hd hdone, by simp, ?_, fun b hb => ?_⟩
  · have hread := Cells.read_write d (bytesOf 4 v) hm
    rw [bytesOf_length] at hread
    rw [State.core_setCore_self, Core.lmem_withTiles, Core.lmem_put, hread]
  · rw [State.core_setCore_self, Core.lmem_withTiles, Core.lmem_put, Cells.get_write_outside _ _ _ hm (by rwa [bytesOf_length])]

/-! ## Accumulator transfers (R167, R168) -/

theorem accld_done (h : s.Drives n k g) {a : Nat} {x : Word} (hs : k.started = true) (hk : k.kind = .accld a) (hg : k.grp = [x]) :
    ∃ t, exec (.accumulatorTransferDone n) s = .next t ∧ (t.core n).tileq = [] ∧ s.SameBytes t ∧ (t.core n).acc a =
      (List.range 256).map fun i => BitVec.ofNat 32 (natOf (Cells.read (s.core n).lmem (x.toNat + 4 * i) 4)) := by
  have harg : k.arg 0 = x.toNat := by simp [TileCmd.arg, hg, wordAt]
  simp only [exec_accumulatorTransferDone, execAccumulatorTransferDone, h.transferCmd hs (.inl ⟨a, hk⟩), hk]
  simp only [harg, Core.engineBad_of_clean h.unread h.clean, Core.engineBytes_of_unread h.unread, List.isEmpty_nil, Bool.not_true,
    Bool.false_eq_true, if_false]
  rw [h.endTile_onCore rfl rfl rfl rfl rfl rfl rfl]
  refine ⟨_, rfl, by simp, State.sameBytes_setCore _ rfl, ?_⟩
  rw [State.core_setCore_self, Core.acc_withTiles, Core.acc_of_set rfl]
  refine List.map_congr_left fun i hi => ?_
  have : i < 256 := List.mem_range.1 hi
  rw [Cells.take_drop_read _ (by omega)]

/-- An ACCST of a sound accumulator writes its elements as its tag holds them (R168). -/
theorem accst_done (h : s.Drives n k g) {sat : Bool} {rm : RMode} {tag : Tag} {a : Nat} (hs : k.started = true)
    (hk : k.kind = .accst false sat rm tag a) : exec (.accumulatorTransferDone n) s =
      .next (s.setCore n (((s.core n).put (k.arg 0) (packElems (tagBits tag) (((s.core n).acc a).map fun v =>
        accElem tag false sat rm (k.arg 1 % 256) v.toNat)) []).withTiles [])) := by
  simp only [exec_accumulatorTransferDone, execAccumulatorTransferDone, h.transferCmd hs (.inr ⟨_, _, _, _, _, hk⟩), hk]
  simp only [State.accImage, h.sums, List.contains_nil, Bool.false_eq_true, if_false]
  exact congrArg _ (h.endTile_onCore (Core.layRest_of_unlaid h.unlaid ..) rfl rfl rfl rfl rfl rfl)

section Accst
variable (h : s.Drives n k g) {sat : Bool} {rm : RMode} {a : Nat} {x : Word} (hs : k.started = true) (hx : k.arg 0 = x.toNat)
  (hlen : ((s.core n).acc a).length = 256) (hm : Memory.wf (s.core n).lmem = true)
include h hs hx hlen hm

theorem accst_fp32 (hk : k.kind = .accst false sat rm .fp32 a) : ∃ t, exec (.accumulatorTransferDone n) s = .next t ∧
    (t.core n).tileq = [] ∧
    Cells.read (t.core n).lmem x.toNat 1024 = ((s.core n).acc a).flatMap (fun v => bytesOf 4 v.toNat) ∧
    ∀ b, b < x.toNat ∨ x.toNat + 1024 ≤ b → Cells.get (t.core n).lmem b = Cells.get (s.core n).lmem b := by
  have himage : packElems (tagBits .fp32) (((s.core n).acc a).map fun v => accElem .fp32 false sat rm (k.arg 1 % 256) v.toNat)
      = ((s.core n).acc a).flatMap fun v => bytesOf 4 v.toNat := by
    rw [show tagBits .fp32 = 8 * 4 from rfl, packElems_bytes, List.flatMap_map]
    exact List.flatMap_congr fun v _ => accElem_fp32_bytes ..
  have hlength : (((s.core n).acc a).flatMap fun v => bytesOf 4 v.toNat).length = 1024 := by
    simp only [List.length_flatMap, bytesOf_length, List.map_const', List.sum_replicate, hlen]; rfl
  rw [accst_done h hs hk, himage, hx]
  refine ⟨_, rfl, by simp, ?_, fun b hb => ?_⟩
  · rw [State.core_setCore_self, Core.lmem_withTiles, Core.lmem_put, ← hlength, Cells.read_write _ _ hm]
  · rw [State.core_setCore_self, Core.lmem_withTiles, Core.lmem_put, Cells.get_write_outside _ _ _ hm (by rwa [hlength])]

theorem accst_int8 (hk : k.kind = .accst false true rm .int8 a) : ∃ t, exec (.accumulatorTransferDone n) s = .next t ∧
    (t.core n).tileq = [] ∧ (∀ j < 256, Cells.get (t.core n).lmem (x.toNat + j) =
      BitVec.ofInt 8 (max (-128) (min 127 (((s.core n).acc a).getD j 0).toInt))) ∧
    ∀ b, b < x.toNat ∨ x.toNat + 256 ≤ b → Cells.get (t.core n).lmem b = Cells.get (s.core n).lmem b := by
  have himage : packElems (tagBits .int8) (((s.core n).acc a).map fun v => accElem .int8 false true rm (k.arg 1 % 256) v.toNat)
      = ((s.core n).acc a).map fun v => BitVec.ofInt 8 (max (-128) (min 127 v.toInt)) := by
    rw [show tagBits .int8 = 8 * 1 from rfl, packElems_bytes, List.flatMap_map, List.map_eq_flatMap]
    exact List.flatMap_congr fun v _ => accElem_int8_bytes ..
  have hlength : (((s.core n).acc a).map fun v => BitVec.ofInt 8 (max (-128) (min 127 v.toInt))).length = 256 := by
    rw [List.length_map, hlen]
  rw [accst_done h hs hk, himage, hx]
  refine ⟨_, rfl, by simp, fun j hj => ?_, fun b hb => ?_⟩
  · rw [State.core_setCore_self, Core.lmem_withTiles, Core.lmem_put, Cells.get_write_inside _ _ _ hm (by rwa [hlength]),
      List.getElem_map, List.getD_eq_getElem _ _ (by rwa [hlen])]
  · rw [State.core_setCore_self, Core.lmem_withTiles, Core.lmem_put, Cells.get_write_outside _ _ _ hm (by rwa [hlength])]

end Accst

theorem State.setAside_active {r : Nat} (h : s.suspended r = false) : s.setAside r = false := by
  simp [State.setAside, h]

/-- Settles O57: each event of a command alone in its queue, by what starts it and what its end leaves. -/
theorem tileEvents : Obligations.TileEvents := by
  unfold Obligations.TileEvents
  intro s n k g hq howner hclean hsums hregion hbud hseen hlaid hdone hsusp hy hfault herr hbad
  have h : s.Drives n k g := ⟨⟨hq, hseen, hy, hfault, hbad⟩, howner, hclean, hsums, hlaid, hregion, hbud, hdone,
    State.setAside_active hsusp, herr⟩
  refine ⟨fun hs hleft hz hb hc => ?start, fun tr qa qb a ra rb hs hk hne hra hrb hca hcb hha hhb => ?pair,
    fun a l d rec_ idx v c hs hk hg hleft hrow hrec ha hd hle hidx hlo hhi hm hrecord hv h1 h254 => ?row,
    fun a x hs hk hg => accld_done h hs hk hg, fun a sat rm x e hs hg hlen hm => ?accst⟩
  case start =>
    have hst := h.starts hs hz hb hc
    exact ⟨starts_fenceq h hst, fun q b d c hk hg => starts_rcfg h hst hk hg,
      fun q a l hk hg => starts_sscfg h hst hk hg, fun a hk hr => starts_accz h hst hk hr,
      fun a x hk hg h64 hx => starts_accld h hst hk hg h64 hx,
      fun tr qa qb a x hk hg => ⟨fun h1 h2 ha hbr => starts_mma h hst hk hg hleft h1 h2 ha hbr,
        fun ha hd => starts_mma_unconfigured h hst hk ha hd⟩,
      fun r hr hk => starts_other_owner h hs hz hb hc hr hk⟩
  case pair =>
    have hp : s.HasPair n k tr qa qb a ra rb := ⟨hs, hk, hne, hra, hrb, hca, hcb, hha, hhb⟩
    exact ⟨fun hnone => ⟨fun hok hza hzb => pair_started h hp hnone rfl rfl hok hza hzb,
        fun hok hd => pair_faults h hp hnone rfl rfl hok hd⟩,
      fun p hpair hda hdb he hsound hdue hleft hlen => pair_retired h hp hpair hda he hsound hdue hleft hlen⟩
  case row =>
    have harg {i w : Nat} (hw : w < 2 ^ 64) (hi : wordAt k.grp i = BitVec.ofNat 64 w) : k.arg i = w := by
      rw [TileCmd.arg, hi, BitVec.toNat_ofNat, Nat.mod_eq_of_lt hw]
    have hdone := mmgRow_one h hrec (harg (by omega) (by rw [hg]; rfl)) (harg (by omega) (by rw [hg]; rfl)) hle hidx hlo hhi
      hrecord hv h1 h254
    exact row_completes h hs hk hleft hrow (harg (by omega) (by rw [hg]; rfl)) hdone hm
  case accst =>
    have harg : k.arg 0 = x.toNat := by rw [TileCmd.arg, hg]; rfl
    exact ⟨accst_fp32 h hs harg hlen hm, accst_int8 h hs harg hlen hm⟩

end Sys2Proof.Machine
end

section
/-! PROOF. O4 and O5: the memories are canonical at reset, and every step keeps them so (R193). -/

namespace Sys2Proof.Machine

open Sys2Proof

/-- Every instruction and every event leaves the memories canonical, constructor by constructor. -/
theorem exec_sound (i : Instr) {s : State} (hs : s.Sound) : OutSound (exec i s) := by
  cases i with
  | add g d a b => rw [exec_add]; exact execAdd_sound g d a b s hs
  | sub g d a b => rw [exec_sub]; exact execSub_sound g d a b s hs
  | and g d a b => rw [exec_and]; exact execAnd_sound g d a b s hs
  | or g d a b => rw [exec_or]; exact execOr_sound g d a b s hs
  | xor g d a b => rw [exec_xor]; exact execXor_sound g d a b s hs
  | shl g d a b => rw [exec_shl]; exact execShl_sound g d a b s hs
  | shr g d a b => rw [exec_shr]; exact execShr_sound g d a b s hs
  | sar g d a b => rw [exec_sar]; exact execSar_sound g d a b s hs
  | min g d a b => rw [exec_min]; exact execMin_sound g d a b s hs
  | max g d a b => rw [exec_max]; exact execMax_sound g d a b s hs
  | minu g d a b => rw [exec_minu]; exact execMinu_sound g d a b s hs
  | maxu g d a b => rw [exec_maxu]; exact execMaxu_sound g d a b s hs
  | mul g d a b => rw [exec_mul]; exact execMul_sound g d a b s hs
  | mulh g d a b => rw [exec_mulh]; exact execMulh_sound g d a b s hs
  | mulhu g d a b => rw [exec_mulhu]; exact execMulhu_sound g d a b s hs
  | div g d a b => rw [exec_div]; exact execDiv_sound g d a b s hs
  | divu g d a b => rw [exec_divu]; exact execDivu_sound g d a b s hs
  | rem g d a b => rw [exec_rem]; exact execRem_sound g d a b s hs
  | remu g d a b => rw [exec_remu]; exact execRemu_sound g d a b s hs
  | clz g d a => rw [exec_clz]; exact execClz_sound g d a s hs
  | ctz g d a => rw [exec_ctz]; exact execCtz_sound g d a s hs
  | popc g d a => rw [exec_popc]; exact execPopc_sound g d a s hs
  | addi g d a imm => rw [exec_addi]; exact execAddi_sound g d a imm s hs
  | andi g d a imm => rw [exec_andi]; exact execAndi_sound g d a imm s hs
  | ori g d a imm => rw [exec_ori]; exact execOri_sound g d a imm s hs
  | xori g d a imm => rw [exec_xori]; exact execXori_sound g d a imm s hs
  | shli g d a sh => rw [exec_shli]; exact execShli_sound g d a sh s hs
  | shri g d a sh => rw [exec_shri]; exact execShri_sound g d a sh s hs
  | sari g d a sh => rw [exec_sari]; exact execSari_sound g d a sh s hs
  | sel g d a b k => rw [exec_sel]; exact execSel_sound g d a b k s hs
  | setp g cond pd a b => rw [exec_setp]; exact execSetp_sound g cond pd a b s hs
  | setpiA g cond pd a imm => rw [exec_setpiA]; exact execSetpiA_sound g cond pd a imm s hs
  | setpiB g cond pd a imm => rw [exec_setpiB]; exact execSetpiB_sound g cond pd a imm s hs
  | fsetp g prec cond pd a b => rw [exec_fsetp]; exact execFsetp_sound g prec cond pd a b s hs
  | plog g op pd pa pb => rw [exec_plog]; exact execPlog_sound g op pd pa pb s hs
  | fadd g prec sat rnd d a b => rw [exec_fadd]; exact execFadd_sound g prec sat rnd d a b s hs
  | fsub g prec sat rnd d a b => rw [exec_fsub]; exact execFsub_sound g prec sat rnd d a b s hs
  | fmul g prec sat rnd d a b => rw [exec_fmul]; exact execFmul_sound g prec sat rnd d a b s hs
  | ffma g prec sat rnd d a b => rw [exec_ffma]; exact execFfma_sound g prec sat rnd d a b s hs
  | fdiv g prec sat rnd d a b => rw [exec_fdiv]; exact execFdiv_sound g prec sat rnd d a b s hs
  | fsqrt g prec sat rnd d a => rw [exec_fsqrt]; exact execFsqrt_sound g prec sat rnd d a s hs
  | fmin g prec d a b => rw [exec_fmin]; exact execFmin_sound g prec d a b s hs
  | fmax g prec d a b => rw [exec_fmax]; exact execFmax_sound g prec d a b s hs
  | fclass g prec d a => rw [exec_fclass]; exact execFclass_sound g prec d a s hs
  | fcvt g cv sat rnd d a => rw [exec_fcvt]; exact execFcvt_sound g cv sat rnd d a s hs
  | br g off => rw [exec_br]; exact execB_sound g off s hs
  | call g off => rw [exec_call]; exact execCall_sound g off s hs
  | jr g a => rw [exec_jr]; exact execJr_sound g a s hs
  | ret g => rw [exec_ret]; exact execRet_sound g s hs
  | rep g a n => rw [exec_rep]; exact execRep_sound g a n s hs
  | fin g => rw [exec_fin]; exact execFin_sound g s hs
  | park g a => rw [exec_park]; exact execPark_sound g a s hs
  | nop g => rw [exec_nop]; exact execNop_sound g s hs
  | brk g code => rw [exec_brk]; exact execBrk_sound g code s hs
  | trap g code => rw [exec_trap]; exact execTrap_sound g code s hs
  | svc g code => rw [exec_svc]; exact execSvc_sound g code s hs
  | falloc g d cls => rw [exec_falloc]; exact execFalloc_sound g d cls s hs
  | ffree g a => rw [exec_ffree]; exact execFfree_sound g a s hs
  | sloti g a b => rw [exec_sloti]; exact execSloti_sound g a b s hs
  | slotr g d a => rw [exec_slotr]; exact execSlotr_sound g d a s hs
  | sig g rel n a => rw [exec_sig]; exact execSig_sound g rel n a s hs
  | sigd g rel n a b dw => rw [exec_sigd]; exact execSigd_sound g rel n a b dw s hs
  | sigv g rel n a vb dw => rw [exec_sigv]; exact execSigv_sound g rel n a vb dw s hs
  | sref g d a imm => rw [exec_sref]; exact execSref_sound g d a imm s hs
  | amsg g xg => rw [exec_amsg]; exact execAmsg_sound g xg s hs
  | arm g xg => rw [exec_arm]; exact execArm_sound g xg s hs
  | ld g sz u d a off => rw [exec_ld]; exact execLd_sound g sz u d a off s hs
  | st g sz c a off => rw [exec_st]; exact execSt_sound g sz c a off s hs
  | ldz g vd a b => rw [exec_ldz]; exact execLdz_sound g vd a b s hs
  | stz g vc a b => rw [exec_stz]; exact execStz_sound g vc a b s hs
  | gld g lu evp sz byt n xg y => rw [exec_gld]; exact execGld_sound g lu evp sz byt n xg y s hs
  | ldl g sz u d a off => rw [exec_ldl]; exact execLdl_sound g sz u d a off s hs
  | gst g sz t c a off => rw [exec_gst]; exact execGst_sound g sz t c a off s hs
  | gstv g vc a m off => rw [exec_gstv]; exact execGstv_sound g vc a m off s hs
  | pref g evp a off => rw [exec_pref]; exact execPref_sound g evp a off s hs
  | xchg g ord sz d a b => rw [exec_xchg]; exact execXchg_sound g ord sz d a b s hs
  | cas g ord sz d a b => rw [exec_cas]; exact execCas_sound g ord sz d a b s hs
  | cas2 g ord d a b => rw [exec_cas2]; exact execCas2_sound g ord d a b s hs
  | faa g ord sz d a b => rw [exec_faa]; exact execFaa_sound g ord sz d a b s hs
  | amax g ord sz d a b => rw [exec_amax]; exact execAmax_sound g ord sz d a b s hs
  | amin g ord sz d a b => rw [exec_amin]; exact execAmin_sound g ord sz d a b s hs
  | amaxU g ord sz d a b => rw [exec_amaxU]; exact execAmaxU_sound g ord sz d a b s hs
  | aminU g ord sz d a b => rw [exec_aminU]; exact execAminU_sound g ord sz d a b s hs
  | fence g w u e scope => rw [exec_fence]; exact execFence_sound g w u e scope s hs
  | fenceqCt g => rw [exec_fenceqCt]; exact execFenceqCt_sound g s hs
  | fenceqTc g => rw [exec_fenceqTc]; exact execFenceqTc_sound g s hs
  | iflush g a b => rw [exec_iflush]; exact execIflush_sound g a b s hs
  | iflushAll g => rw [exec_iflushAll]; exact execIflushAll_sound g s hs
  | upd g a b k => rw [exec_upd]; exact execUpd_sound g a b k s hs
  | updv g xd va vb m k => rw [exec_updv]; exact execUpdv_sound g xd va vb m k s hs
  | uapply g a b => rw [exec_uapply]; exact execUapply_sound g a b s hs
  | cpy g fn xg y => rw [exec_cpy]; exact execCpy_sound g fn xg y s hs
  | cpy2 g fn xg y => rw [exec_cpy2]; exact execCpy2_sound g fn xg y s hs
  | cpym g byt n xg y => rw [exec_cpym]; exact execCpym_sound g byt n xg y s hs
  | gthr g fn xg y => rw [exec_gthr]; exact execGthr_sound g fn xg y s hs
  | rcfg g q xg => rw [exec_rcfg]; exact execRcfg_sound g q xg s hs
  | radv g q xg => rw [exec_radv]; exact execRadv_sound g q xg s hs
  | mma g n t qb qa acc xg y => rw [exec_mma]; exact execMma_sound g n t qb qa acc xg y s hs
  | mmas g ss n qb qa acc xg y => rw [exec_mmas]; exact execMmas_sound g ss n qb qa acc xg y s hs
  | mmg g val act n xg y => rw [exec_mmg]; exact execMmg_sound g val act n xg y s hs
  | accz g acc => rw [exec_accz]; exact execAccz_sound g acc s hs
  | accld g n acc xg y => rw [exec_accld]; exact execAccld_sound g n acc xg y s hs
  | accst g n sc sat rnd tag acc xg y => rw [exec_accst]; exact execAccst_sound g n sc sat rnd tag acc xg y s hs
  | sscfg g ss xg => rw [exec_sscfg]; exact execSscfg_sound g ss xg s hs
  | vadd g t vd va vb m => rw [exec_vadd]; exact execVadd_sound g t vd va vb m s hs
  | vsub g t vd va vb m => rw [exec_vsub]; exact execVsub_sound g t vd va vb m s hs
  | vmul g t vd va vb m => rw [exec_vmul]; exact execVmul_sound g t vd va vb m s hs
  | vfma g t vd va vb m => rw [exec_vfma]; exact execVfma_sound g t vd va vb m s hs
  | vmin g t vd va vb m => rw [exec_vmin]; exact execVmin_sound g t vd va vb m s hs
  | vmax g t vd va vb m => rw [exec_vmax]; exact execVmax_sound g t vd va vb m s hs
  | vabs g t vd va m => rw [exec_vabs]; exact execVabs_sound g t vd va m s hs
  | vneg g t vd va m => rw [exec_vneg]; exact execVneg_sound g t vd va m s hs
  | vand g vd va vb m => rw [exec_vand]; exact execVand_sound g vd va vb m s hs
  | vor g vd va vb m => rw [exec_vor]; exact execVor_sound g vd va vb m s hs
  | vxor g vd va vb m => rw [exec_vxor]; exact execVxor_sound g vd va vb m s hs
  | vselW g vd va vb m => rw [exec_vselW]; exact execVselW_sound g vd va vb m s hs
  | vselH g vd va vb m => rw [exec_vselH]; exact execVselH_sound g vd va vb m s hs
  | vselB g vd va vb m => rw [exec_vselB]; exact execVselB_sound g vd va vb m s hs
  | vshlI32 g vd va vb m => rw [exec_vshlI32]; exact execVshlI32_sound g vd va vb m s hs
  | vshrI32 g vd va vb m => rw [exec_vshrI32]; exact execVshrI32_sound g vd va vb m s hs
  | vsarI32 g vd va vb m => rw [exec_vsarI32]; exact execVsarI32_sound g vd va vb m s hs
  | vshlI16 g vd va vb m => rw [exec_vshlI16]; exact execVshlI16_sound g vd va vb m s hs
  | vshrI16 g vd va vb m => rw [exec_vshrI16]; exact execVshrI16_sound g vd va vb m s hs
  | vsarI16 g vd va vb m => rw [exec_vsarI16]; exact execVsarI16_sound g vd va vb m s hs
  | vcmp g t cond md va vb => rw [exec_vcmp]; exact execVcmp_sound g t cond md va vb s hs
  | vrcp g t vd va m => rw [exec_vrcp]; exact execVrcp_sound g t vd va m s hs
  | vrsq g t vd va m => rw [exec_vrsq]; exact execVrsq_sound g t vd va m s hs
  | vexp2 g t vd va m => rw [exec_vexp2]; exact execVexp2_sound g t vd va m s hs
  | vlog2 g t vd va m => rw [exec_vlog2]; exact execVlog2_sound g t vd va m s hs
  | viota g t vd m => rw [exec_viota]; exact execViota_sound g t vd m s hs
  | vredAdd g t xd va m => rw [exec_vredAdd]; exact execVredAdd_sound g t xd va m s hs
  | vredMin g t xd va m => rw [exec_vredMin]; exact execVredMin_sound g t xd va m s hs
  | vredMax g t xd va m => rw [exec_vredMax]; exact execVredMax_sound g t xd va m s hs
  | vdotF32 g xd va vb m => rw [exec_vdotF32]; exact execVdotF32_sound g xd va vb m s hs
  | vdotBf16 g xd va vb m => rw [exec_vdotBf16]; exact execVdotBf16_sound g xd va vb m s hs
  | vdotF16 g xd va vb m => rw [exec_vdotF16]; exact execVdotF16_sound g xd va vb m s hs
  | vperm g lw vd va vb => rw [exec_vperm]; exact execVperm_sound g lw vd va vb s hs
  | vbcast g lw vd xa => rw [exec_vbcast]; exact execVbcast_sound g lw vd xa s hs
  | vext g lw xd va xb => rw [exec_vext]; exact execVext_sound g lw xd va xb s hs
  | vins g lw vd xa xb => rw [exec_vins]; exact execVins_sound g lw vd xa xb s hs
  | vcomp g lw vd va mb => rw [exec_vcomp]; exact execVcomp_sound g lw vd va mb s hs
  | vexpd g lw vd va mb => rw [exec_vexpd]; exact execVexpd_sound g lw vd va mb s hs
  | vld g vd a imm => rw [exec_vld]; exact execVld_sound g vd a imm s hs
  | vst g vc a imm => rw [exec_vst]; exact execVst_sound g vc a imm s hs
  | mlog g op md ma mb => rw [exec_mlog]; exact execMlog_sound g op md ma mb s hs
  | mcnt g xd ma => rw [exec_mcnt]; exact execMcnt_sound g xd ma s hs
  | rdsr g d num => rw [exec_rdsr]; exact execRdsr_sound g d num s hs
  | wrsr g a num => rw [exec_wrsr]; exact execWrsr_sound g a num s hs
  | rgnctlAct g xg y => rw [exec_rgnctlAct]; exact execRgnctlAct_sound g xg y s hs
  | rgnctlCfg g xg y => rw [exec_rgnctlCfg]; exact execRgnctlCfg_sound g xg y s hs
  | rgnctlSusp g xg y => rw [exec_rgnctlSusp]; exact execRgnctlSusp_sound g xg y s hs
  | rgnctlRes g xg y => rw [exec_rgnctlRes]; exact execRgnctlRes_sound g xg y s hs
  | rgnctlDel g xg y => rw [exec_rgnctlDel]; exact execRgnctlDel_sound g xg y s hs
  | tlbinvPg g a b => rw [exec_tlbinvPg]; exact execTlbinvPg_sound g a b s hs
  | tlbinvAs g b => rw [exec_tlbinvAs]; exact execTlbinvAs_sound g b s hs
  | tlbinvAll g => rw [exec_tlbinvAll]; exact execTlbinvAll_sound g s hs
  | waycfg g a b => rw [exec_waycfg]; exact execWaycfg_sound g a b s hs
  | symq g d a => rw [exec_symq]; exact execSymq_sound g d a s hs
  | resume g a => rw [exec_resume]; exact execResume_sound g a s hs
  | resumeAbt g a => rw [exec_resumeAbt]; exact execResumeAbt_sound g a s hs
  | resumeRpl g a => rw [exec_resumeRpl]; exact execResumeRpl_sound g a s hs
  | resumeDrp g a => rw [exec_resumeDrp]; exact execResumeDrp_sound g a s hs
  | limm g d imm => rw [exec_limm]; exact execLimm_sound g d imm s hs
  | lui g d imm => rw [exec_lui]; exact execLui_sound g d imm s hs
  | bfx g d a pos len => rw [exec_bfx]; exact execBfx_sound g d a pos len s hs
  | bfi g d a pos len => rw [exec_bfi]; exact execBfi_sound g d a pos len s hs
  | vx g op sat rnd vd va vb m => rw [exec_vx]; exact execVx_sound g op sat rnd vd va vb m s hs
  | vcvt g dst src sat rnd vd va m => rw [exec_vcvt]; exact execVcvt_sound g dst src sat rnd vd va m s hs
  | readyEntrySelect core => rw [exec_readyEntrySelect]; exact execReadyEntrySelect_sound core s hs
  | signalArrival pkt => rw [exec_signalArrival]; exact execSignalArrival_sound pkt s hs
  | overflowEntryTake core region idx => rw [exec_overflowEntryTake]; exact execOverflowEntryTake_sound core region idx s hs
  | activeMessageDelivery pkt => rw [exec_activeMessageDelivery]; exact execActiveMessageDelivery_sound pkt s hs
  | spillWriteOutComplete core fid => rw [exec_spillWriteOutComplete]; exact execSpillWriteOutComplete_sound core fid s hs
  | refillComplete core fid => rw [exec_refillComplete]; exact execRefillComplete_sound core fid s hs
  | frameRelease core fid => rw [exec_frameRelease]; exact execFrameRelease_sound core fid s hs
  | runleftExpiry core => rw [exec_runleftExpiry]; exact execRunleftExpiry_sound core s hs
  | parkTimeExpiry core fid => rw [exec_parkTimeExpiry]; exact execParkTimeExpiry_sound core fid s hs
  | symbolValueArrival pkt => rw [exec_symbolValueArrival]; exact execSymbolValueArrival_sound pkt s hs
  | deferredEffectPerform core => rw [exec_deferredEffectPerform]; exact execDeferredEffectPerform_sound core s hs
  | lateLoadFail core sym => rw [exec_lateLoadFail]; exact execLateLoadFail_sound core sym s hs
  | writeAckArrival pkt => rw [exec_writeAckArrival]; exact execWriteAckArrival_sound pkt s hs
  | updateAcceptanceArrival pkt => rw [exec_updateAcceptanceArrival]; exact execUpdateAcceptanceArrival_sound pkt s hs
  | gldLanding pkt => rw [exec_gldLanding]; exact execGldLanding_sound pkt s hs
  | barrierConditionMet core idx => rw [exec_barrierConditionMet]; exact execBarrierConditionMet_sound core idx s hs
  | combinerTimeout core chiplet => rw [exec_combinerTimeout]; exact execCombinerTimeout_sound core chiplet s hs
  | homeSliceRead pkt => rw [exec_homeSliceRead]; exact execHomeSliceRead_sound pkt s hs
  | homeSliceWrite pkt => rw [exec_homeSliceWrite]; exact execHomeSliceWrite_sound pkt s hs
  | homeSliceAtomic pkt => rw [exec_homeSliceAtomic]; exact execHomeSliceAtomic_sound pkt s hs
  | homeSlicePref pkt => rw [exec_homeSlicePref]; exact execHomeSlicePref_sound pkt s hs
  | backInvalidationAck line => rw [exec_backInvalidationAck]; exact execBackInvalidationAck_sound line s hs
  | waycfgRequest pkt => rw [exec_waycfgRequest]; exact execWaycfgRequest_sound pkt s hs
  | wayConversionComplete slice => rw [exec_wayConversionComplete]; exact execWayConversionComplete_sound slice s hs
  | translationWalkComplete core idx => rw [exec_translationWalkComplete]; exact execTranslationWalkComplete_sound core idx s hs
  | faultWaitPromote core => rw [exec_faultWaitPromote]; exact execFaultWaitPromote_sound core s hs
  | pageZeroingComplete entry => rw [exec_pageZeroingComplete]; exact execPageZeroingComplete_sound entry s hs
  | updatePacketAccept pkt => rw [exec_updatePacketAccept]; exact execUpdatePacketAccept_sound pkt s hs
  | sortBatch unit => rw [exec_sortBatch]; exact execSortBatch_sound unit s hs
  | mergeApply unit bid => rw [exec_mergeApply]; exact execMergeApply_sound unit bid s hs
  | uapplyLineApply core idx => rw [exec_uapplyLineApply]; exact execUapplyLineApply_sound core idx s hs
  | copyCommandStart core => rw [exec_copyCommandStart]; exact execCopyCommandStart_sound core s hs
  | copyPieceIssue core => rw [exec_copyPieceIssue]; exact execCopyPieceIssue_sound core s hs
  | copyPieceComplete pkt => rw [exec_copyPieceComplete]; exact execCopyPieceComplete_sound pkt s hs
  | multicastPieceArrival pkt => rw [exec_multicastPieceArrival]; exact execMulticastPieceArrival_sound pkt s hs
  | gatherRequestArrival pkt => rw [exec_gatherRequestArrival]; exact execGatherRequestArrival_sound pkt s hs
  | gatherElementReturn pkt => rw [exec_gatherElementReturn]; exact execGatherElementReturn_sound pkt s hs
  | tileCommandStart core => rw [exec_tileCommandStart]; exact execTileCommandStart_sound core s hs
  | tilePairStart core => rw [exec_tilePairStart]; exact execTilePairStart_sound core s hs
  | tilePairRetire core => rw [exec_tilePairRetire]; exact execTilePairRetire_sound core s hs
  | mmgRowComplete core => rw [exec_mmgRowComplete]; exact execMmgRowComplete_sound core s hs
  | accumulatorTransferDone core => rw [exec_accumulatorTransferDone]; exact execAccumulatorTransferDone_sound core s hs
  | faultRecordDelivery pkt => rw [exec_faultRecordDelivery]; exact execFaultRecordDelivery_sound pkt s hs
  | resumeAct pkt => rw [exec_resumeAct]; exact execResumeAct_sound pkt s hs
  | tailNotification q => rw [exec_tailNotification]; exact execTailNotification_sound q s hs
  | queueEntryFetch q => rw [exec_queueEntryFetch]; exact execQueueEntryFetch_sound q s hs
  | activeMessageEntry fe idx => rw [exec_activeMessageEntry]; exact execActiveMessageEntry_sound fe idx s hs
  | triggerArmEntry fe idx => rw [exec_triggerArmEntry]; exact execTriggerArmEntry_sound fe idx s hs
  | regionControlEntry fe idx => rw [exec_regionControlEntry]; exact execRegionControlEntry_sound fe idx s hs
  | queueFence fe idx => rw [exec_queueFence]; exact execQueueFence_sound fe idx s hs
  | triggerArming pkt => rw [exec_triggerArming]; exact execTriggerArming_sound pkt s hs
  | triggerSignal pkt => rw [exec_triggerSignal]; exact execTriggerSignal_sound pkt s hs
  | regionControlPerform => rw [exec_regionControlPerform]; exact execRegionControlPerform_sound s hs
  | periodStart => rw [exec_periodStart]; exact execPeriodStart_sound s hs
  | entryAging core => rw [exec_entryAging]; exact execEntryAging_sound core s hs
  | monitorWindowEnd region => rw [exec_monitorWindowEnd]; exact execMonitorWindowEnd_sound region s hs
  | weirRateUpdate port rate => rw [exec_weirRateUpdate]; exact execWeirRateUpdate_sound port rate s hs
  | tileIntervalEval basin => rw [exec_tileIntervalEval]; exact execTileIntervalEval_sound basin s hs
  | housekeepingWork ctl kind busy => rw [exec_housekeepingWork]; exact execHousekeepingWork_sound ctl kind busy s hs
  | traceRecordWrite pkt => rw [exec_traceRecordWrite]; exact execTraceRecordWrite_sound pkt s hs
  | traceRpRead => rw [exec_traceRpRead]; exact execTraceRpRead_sound s hs
  | queueSet q entry => rw [exec_queueSet]; exact execQueueSet_sound q entry s hs
  | queueState q enable => rw [exec_queueState]; exact execQueueState_sound q enable s hs
  | traceBuf base size ctl => rw [exec_traceBuf]; exact execTraceBuf_sound base size ctl s hs
  | brieloSet number table => rw [exec_brieloSet]; exact execBrieloSet_sound number table s hs
  | powerState retention => rw [exec_powerState]; exact execPowerState_sound retention s hs
  | lifecycle target tokenOk => rw [exec_lifecycle]; exact execLifecycle_sound target tokenOk s hs
  | fwUpdate version signatureOk => rw [exec_fwUpdate]; exact execFwUpdate_sound version signatureOk s hs
  | mailboxUnsupported code => rw [exec_mailboxUnsupported]; exact execMailboxUnsupported_sound code s hs
  | routeChangeDrain module => rw [exec_routeChangeDrain]; exact execRouteChangeDrain_sound module s hs
  | brieloPortFailure port => rw [exec_brieloPortFailure]; exact execBrieloPortFailure_sound port s hs
  | moduleReset failStep => rw [exec_moduleReset]; exact execModuleReset_sound failStep s hs
  | uncorrectableEcc target => rw [exec_uncorrectableEcc]; exact execUncorrectableEcc_sound target s hs
  | scratchZeroingComplete core => rw [exec_scratchZeroingComplete]; exact execScratchZeroingComplete_sound core s hs
  | spdmRequest req => rw [exec_spdmRequest]; exact execSpdmRequest_sound req s hs
  | linkLevelConfirmation port module => rw [exec_linkLevelConfirmation]; exact execLinkLevelConfirmation_sound port module s hs
  | eventLog => rw [exec_eventLog]; exact execEventLog_sound s hs
  | retentionExit => rw [exec_retentionExit]; exact execRetentionExit_sound s hs
  | serviceCoreRestartComplete => rw [exec_serviceCoreRestartComplete]; exact execServiceCoreRestartComplete_sound s hs
  | modulePowerLoss => rw [exec_modulePowerLoss]; exact execModulePowerLoss_sound s hs

/-- The end of the step after an instruction or event: time passes over the state that it leaves. -/
theorem step_sound_of_run {s t : State} {i : Instr} (hp : s.plan = .run t i) (h : OutSound (exec i t)) : OutSound (step s) := by
  unfold step
  simp only [hp]
  cases he : exec i t with
  | next u => exact (OutSound.next _).2 (State.after_sound u (h u he))
  | fault e => exact (OutSound.fault e).2 trivial
  | refused e => exact (OutSound.refused e).2 trivial

/-- The turn that is planned, what it runs, and the time that passes after it each keep the memories canonical. -/
theorem step_sound {s : State} (hs : s.Sound) : OutSound (step s) := by
  have hplan := State.plan_sound s hs
  cases hp : s.plan with
  | done t =>
    rw [hp] at hplan
    unfold step
    simp only [hp]
    exact (OutSound.next _).2 (State.after_sound t hplan)
  | run t i =>
    rw [hp] at hplan
    exact step_sound_of_run hp (exec_sound i hplan)

/-- Settles O4: what a step keeps of every sound state (`step_sound`). -/
theorem stepKeepsMemoryForm : Obligations.StepKeepsMemoryForm := by
  unfold Obligations.StepKeepsMemoryForm
  exact fun _ t hs ht => step_sound hs t ht

/-- Settles O5: at reset no byte of any memory is listed, and no core. -/
theorem resetMemoryForm : Obligations.ResetMemoryForm := by
  unfold Obligations.ResetMemoryForm
  exact State.sound_of Memory.wf_nil Memory.wf_nil CoresOk.nil

end Sys2Proof.Machine
end

section
/-! PROOF. O54: a read of host memory carries the poison of its words (R310). -/

namespace Sys2Proof.Machine

open Sys2Proof

/-- A read performed in host memory is answered with the bytes as they stand and the offsets of the poisoned ones among them. -/
theorem homeSliceRead_host {s : State} {k op pa size : Nat} {lu : Bool} {evp : Evp} {sp : Space} {p : Packet}
    (hp : s.packet k = some p) (hd : p.dst = .host) (hb : p.body = .read op pa size lu evp sp) :
    exec (.homeSliceRead k) s
      = .next ((s.drop k).reply p (.readRsp op (Cells.read s.hostMem pa size) (s.hostBad pa size) 0)) := by
  rw [exec_homeSliceRead]
  simp only [execHomeSliceRead, hp, hd, hb]

/-- Core 0's request for the first byte of host memory. -/
def hostReadRequest : Packet := ⟨.req, .core 0, .host, 1, .read 0 0 1 false .normal .wb⟩

/-- The module at reset but for that request, in a network of its own, and a poisoned first word of host memory. -/
def poisonedHostRead : State := { State.reset with net := [hostReadRequest], hostPoison := [0] }

/-- The one byte asked for comes back as poisoned. -/
theorem poisonedHostRead_answer :
    ∃ t, exec (.homeSliceRead 0) poisonedHostRead = .next t ∧
      t.net = [⟨.rsp, .host, .core 0, 1, .readRsp 0 [0] [0] 0⟩] := by
  have hp : poisonedHostRead.packet 0 = some hostReadRequest := by decide
  exact ⟨_, homeSliceRead_host hp rfl rfl, by decide⟩

/-- Refutes O54: its clause for a read of host memory promises an answer with no poisoned offset and asks nothing of the poison
there, but the answer carries the poison of the words read (R310), and in `poisonedHostRead` that is the byte's own. -/
theorem not_memoryEvents : ¬ Obligations.MemoryEvents := by
  unfold Obligations.MemoryEvents
  rintro ⟨hslice, -⟩
  obtain ⟨-, hhost, -⟩ := hslice poisonedHostRead 0 0 0 1 0 0 1 .normal rfl rfl (by decide)
  obtain ⟨t, ht, -, hnet⟩ := hhost (by decide)
  obtain ⟨u, hu, hanswer⟩ := poisonedHostRead_answer
  obtain rfl : t = u := Host.Outcome.next.inj (ht.symm.trans hu)
  exact absurd (hnet.symm.trans hanswer) (by decide)

end Sys2Proof.Machine
end

section
/-! PROOF. O42: FENCE, IFLUSH and IFLUSH.ALL. -/

namespace Sys2Proof.Machine

open Sys2Proof

section Fences

variable {s : State} {r : Run} {g : Guard} {w u e : Bool} {sc : Scope}

/-! ## Barriers left and not left (R221, R222) -/

/-- A barrier joins the core's barriers, and that is all where the combiner it would flush is empty (R244). -/
theorem State.numbered_addBarrier {b : Barrier} (hcomb : b.flushes = true → (s.core s.cur).comb = []) :
    s.numbered.addBarrier s.cur b = s.setCore s.cur { s.core s.cur with
      nextSeq := (s.core s.cur).nextSeq + 1, barriers := (s.core s.cur).barriers ++ [b] } := by
  rw [State.addBarrier, State.onCore_eq, State.numbered_core, State.numbered, State.setCore_setCore]
  cases hf : b.flushes with
  | false => rfl
  | true => exact State.flushCombiner_empty (hcomb hf)

/-- A FENCE takes its place in the issue order, and leaves a barrier unless its condition holds already. -/
theorem State.issueFence_fence (cmds : List Nat) : s.issueFence r (.fence w u e sc) cmds =
    if (s.core s.cur).barrierMet ⟨(s.core s.cur).nextSeq, r.origin, .fence w u e sc, cmds⟩ then s.numbered
    else s.numbered.addBarrier s.cur ⟨(s.core s.cur).nextSeq, r.origin, .fence w u e sc, cmds⟩ := by
  have hcond : (s.numbered.core s.cur).barrierMet ⟨(s.core s.cur).nextSeq, r.origin, .fence w u e sc, cmds⟩ =
      (s.core s.cur).barrierMet ⟨(s.core s.cur).nextSeq, r.origin, .fence w u e sc, cmds⟩ := by
    rw [State.numbered_core]
    rfl
  rw [← hcond]
  rfl

/-! ## Earlier deferred effects (R82) -/

theorem Core.effectsOpen_iff {c : Core} {tid seq : Nat} : c.effectsOpen tid seq = true ↔
    ∃ k p i, (k, p) ∈ c.pool ∧ p.org.tid = tid ∧ p.isEffect = true ∧ p.seq < seq ∧ i ∈ p.symbols ∧ c.symOpen i = true := by
  simp only [Core.effectsOpen, List.any_eq_true, Bool.and_eq_true, beq_iff_eq, decide_eq_true_eq, Prod.exists]
  constructor
  · rintro ⟨k, p, hp, ⟨⟨ht, he⟩, hs⟩, i, hi, ho⟩
    exact ⟨k, p, i, hp, ht, he, hs, hi, ho⟩
  · rintro ⟨k, p, i, hp, ht, he, hs, hi, ho⟩
    exact ⟨k, p, hp, ⟨⟨ht, he⟩, hs⟩, i, hi, ho⟩

theorem State.effectsResolved_open (h : (s.core s.cur).effectsOpen r.tid (s.core s.cur).nextSeq = true) :
    s.effectsResolved r = .error (.park 0 (.deferred (s.core s.cur).nextSeq)) := if_pos h

/-! ## FENCE (R222, R348) -/

/-- A FENCE that no earlier deferred effect keeps back is issued, over the region's commands for .E. -/
theorem fence_meets (h : s.Issues r g) (hw : w = true → s.effectsResolved r = .ok ()) : s.Meets r (.fence g w u e sc)
    (.ok (s.issueFence r (.fence w u e sc) (if e then (s.core s.cur).regionCmds r.region else []))) := by
  have hm := meets_guarded h (exec_fence g w u e sc s)
  cases w with
  | false => exact hm
  | true =>
    rw [if_pos rfl, hw rfl] at hm
    exact hm

/-- An unresolved deferred effect parks FENCE.W with cause 0 (R82). -/
theorem fence_parks (h : s.Issues r g) (ho : (s.core s.cur).effectsOpen r.tid (s.core s.cur).nextSeq = true) :
    exec (.fence g true u e sc) s = .next (s.park s.cur r 0 0 (.deferred (s.core s.cur).nextSeq)) := by
  have hm := meets_guarded h (exec_fence g true u e sc s)
  rw [if_pos rfl, State.effectsResolved_open ho] at hm
  exact hm

/-! ## IFLUSH (R358) -/

/-- IFLUSH of a known range checks that it stays within the 52 bits, and is issued. -/
theorem iflush_meets {a b : XReg} {va n : Word} (h : s.Issues r g) (ha : r.get a = .known va) (hb : r.get b = .known n) :
    s.Meets r (.iflush g a b) (if 2 ^ 52 < va.toNat + n.toNat then .error (.fault 0x05 va.toNat 0)
      else .ok (s.issueFence r (.iflush (s.asid r.region) va.toNat n.toNat) [])) := by
  have hm := meets_guarded h (exec_iflush g a b s)
  rw [Run.known2_eq ha hb] at hm
  exact hm

/-- A late operand parks IFLUSH (R68). -/
theorem iflush_parks {a b : XReg} (h : s.Issues r g) (hl : (r.get a).isLate ∨ (r.get b).isLate) :
    s.Parks (.iflush g a b) r [r.get a, r.get b] := by
  refine (meets_guarded h (exec_iflush g a b s)).parks ?_
  rw [Run.known2_late hl]
  rfl

end Fences

/-- Settles O42: a fence's condition decides between no barrier and one (`State.issueFence_fence`), an open effect parks it
(`fence_parks`), and a flush leaves its barrier in any case (`State.Meets.leaves_barrier`). -/
theorem fences : Obligations.Fences := by
  unfold Obligations.Fences
  intro s r g a b h bar leaves
  refine ⟨fun w u e sc hw => ?_, fun hopen u e sc => fence_parks h (Core.effectsOpen_iff.2 hopen), fun va n ha hb => ?_,
    iflush_parks h, ?_⟩
  · have hm := fence_meets (u := u) (e := e) (sc := sc) h hw
    rw [State.issueFence_fence] at hm
    refine ⟨fun hmet => ?_, fun hunmet hcomb => ?_⟩
    · rw [if_pos hmet] at hm
      exact (hm.leaves rfl h.1 :)
    · rw [if_neg (ne_true_of_eq_false hunmet), State.numbered_addBarrier] at hm
      exacts [(hm.leaves rfl h.1 :), hcomb]
  · have hm := iflush_meets h ha hb
    refine ⟨fun hin => ?_, fun hout => ?_⟩
    · rw [if_neg (not_lt.2 hin)] at hm
      exact hm.leaves_barrier h.1 (by simp) (by simp) (by simp)
    · exact hm.faults (if_pos hout) (by decide)
  · exact State.Meets.leaves_barrier (meets_guarded h (exec_iflushAll g s)) h.1 (by simp) (by simp) (by simp)

end Sys2Proof.Machine
end

section
/-! PROOF. O43: UPD, UPDV and UAPPLY on known operands. -/

namespace Sys2Proof.Machine

open Sys2Proof

/-! ## Pairs handed over (R217, R242, R244) -/

/-- A pair of an update as an operation of the source interface, at place `q` of its core's issue order. -/
def pairOp (org : Origin) (u k q : Nat) (p : Word × Word) : Op :=
  { id := q, seq := q, org := org, deferred := false, far := false, body := .pair u p.1.toNat p.2 k }

/-- The pairs of an update of the Running threadlet as the core will number them. -/
def State.pairOps (s : State) (r : Run) (k : Nat) (ps : List (Word × Word)) : List Op :=
  ps.zipIdx.map fun q => { s.opOf r (.pair (s.core s.cur).nextUpd q.1.1.toNat q.1.2 k) with
    id := (s.core s.cur).nextSeq + q.2, seq := (s.core s.cur).nextSeq + q.2 }

theorem State.pairOps_eq (s : State) (r : Run) (k : Nat) (ps : List (Word × Word)) : s.pairOps r k ps =
    (ps.zipIdx (s.core s.cur).nextSeq).map fun q => pairOp r.origin (s.core s.cur).nextUpd k q.2 q.1 := by
  rw [List.zipIdx_eq_map_add (i := (s.core s.cur).nextSeq), List.map_map]
  refine List.map_congr_left fun q _ => ?_
  simp [pairOp, State.opOf, Nat.add_comm]

/-- A pair that no barrier keeps back is numbered and enters the source interface. -/
theorem State.submit_pair {s : State} {n u k : Nat} {c : Core} {org : Origin} {p : Word × Word}
    (hw : c.mustWait org.tid c.nextSeq = false) :
    ((s.setCore n c).newSeq n).2.submit n (pairOp org u k c.nextSeq p) = s.setCore n { c with
      nextSeq := c.nextSeq + 1, src := c.src ++ [pairOp org u k c.nextSeq p] } := by
  have hwait : ({ c with nextSeq := c.nextSeq + 1 } : Core).mustWait org.tid c.nextSeq = false := hw
  simp [State.newSeq, State.submit, State.onCore_eq, State.launch, pairOp, hwait]

/-- Pairs that no barrier keeps back enter the source interface in their order. -/
theorem State.submit_pairs {s : State} {n u k : Nat} {org : Origin} (ps : List (Word × Word)) (c : Core)
    (hw : ∀ i < ps.length, c.mustWait org.tid (c.nextSeq + i) = false) :
    ps.foldl (fun t p => (t.newSeq n).2.submit n (pairOp org u k (t.newSeq n).1 p)) (s.setCore n c) = s.setCore n { c with
      nextSeq := c.nextSeq + ps.length
      src := c.src ++ (ps.zipIdx c.nextSeq).map fun q => pairOp org u k q.2 q.1 } := by
  induction ps generalizing c with
  | nil => simp
  | cons p ps ih =>
    have hseq : ((s.setCore n c).newSeq n).1 = c.nextSeq := by simp [State.newSeq]
    rw [List.foldl_cons, hseq, State.submit_pair (hw 0 (by simp)), ih]
    · simp [List.zipIdx_cons, Nat.add_comm 1, Nat.add_assoc]
    · intro i hi
      have := hw (i + 1) (by simpa using hi)
      rwa [show c.nextSeq + (i + 1) = c.nextSeq + 1 + i by omega] at this

section Issue

variable {s : State} {r : Run} {k bid : Nat} {x : Binding} {ps : List (Word × Word)} {pairs : Nat → List (Word × Word)}

/-- An update is counted once, and its pairs enter the source interface. -/
theorem State.submitPairs_issued (hps : ps ≠ [])
    (hw : ∀ i < ps.length, (s.core s.cur).mustWait r.tid ((s.core s.cur).nextSeq + i) = false) :
    s.submitPairs s.cur r.origin none k ps = s.setCore s.cur { s.core s.cur with
      nextSeq := (s.core s.cur).nextSeq + ps.length
      nextUpd := (s.core s.cur).nextUpd + 1
      upds := SMap.set (s.core s.cur).upds (s.core s.cur).nextUpd ⟨(s.core s.cur).nextSeq, r.tid, ps.length⟩
      src := (s.core s.cur).src ++ s.pairOps r k ps } := by
  rw [State.pairOps_eq, State.submitPairs, if_neg (by simpa using hps)]
  exact State.submit_pairs ps _ hw

/-- A region's stream is one of the module's bindings. -/
theorem State.find_of_streamOf {region : Nat} (h : s.streamOf region k = some (bid, x)) : SMap.find s.bindings bid = some x := by
  obtain ⟨b, -, hb⟩ := List.exists_of_findSome?_eq_some h
  obtain ⟨i, -, hi⟩ := Option.bind_eq_some_iff.1 hb
  obtain ⟨y, hy, hs⟩ := Option.bind_eq_some_iff.1 hi
  split at hs
  · cases hs; exact hy
  · cases hs

/-! ## Checks (R242, R243) -/

theorem State.checkPairs_empty (h : pairs 4 = []) : s.checkPairs r.region k pairs = .ok (0, []) := by
  simp [State.checkPairs, h]

theorem State.checkPairs_miss (h : pairs 4 ≠ []) (hs : s.streamOf r.region k = none) :
    s.checkPairs r.region k pairs = .error (0x10, 0) := by
  simp [State.checkPairs, h, hs]

/-- Pairs of a bound stream that are aligned and within the 52 bits pass. -/
theorem State.checkPairs_fine (h : pairs 4 ≠ []) (hs : s.streamOf r.region k = some (bid, x))
    (hf : ∀ q ∈ pairs (operSize x.oper), q.1.toNat % operSize x.oper = 0 ∧ q.1.toNat < 2 ^ 52) :
    s.checkPairs r.region k pairs = .ok (bid, pairs (operSize x.oper)) := by
  have hnone : ((pairs (operSize x.oper)).find? fun p => p.1.toNat % operSize x.oper != 0 || highVa p.1) = none := by
    rw [List.find?_eq_none]
    intro q hq
    obtain ⟨hal, hlt⟩ := hf q hq
    simp [hal, highVa_of_lt hlt]
  simp only [State.checkPairs, List.isEmpty_iff, if_neg h, hs, hnone]

theorem State.issuePairs_fault {code addr : Nat} (h : s.checkPairs r.region k pairs = .error (code, addr)) :
    s.issuePairs r k pairs = .error (.fault code addr 0) := by
  simp [State.issuePairs, h, Check.stop, Except.mapError, bind, Except.bind]

/-- An update without a pair has no effect. -/
theorem State.issuePairs_nothing (h : s.checkPairs r.region k pairs = .ok (bid, [])) : s.issuePairs r k pairs = .ok s := by
  simp [State.issuePairs, h, Check.stop, Except.mapError, bind, Except.bind, pure, Except.pure]

/-- An update whose pairs pass, and that nothing keeps back, is handed over. -/
theorem State.issuePairs_issued (hc : s.checkPairs r.region k pairs = .ok (bid, ps)) (hx : SMap.find s.bindings bid = some x)
    (hps : ps ≠ []) (hwatch : s.watch r true (ps.map fun q => (q.1.toNat, operSize x.oper)) = .ok ())
    (ha : (s.core s.cur).acqPending r.tid = [])
    (hw : ∀ i < ps.length, (s.core s.cur).mustWait r.tid ((s.core s.cur).nextSeq + i) = false) :
    s.issuePairs r k pairs = .ok (s.submitPairs s.cur r.origin none k ps) := by
  have hroom : s.stageRoom r = .ok () := by
    have := hw 0 (List.length_pos_iff.2 hps)
    simp_all [State.stageRoom]
  simp [State.issuePairs, hc, Check.stop, Except.mapError, bind, Except.bind, hps, hx, hwatch, State.acquired_ok ha, hroom]

end Issue

/-! ## The pairs of UPDV (Table 10-3) -/

section Lanes

variable {base m : Word} {va vb : VWord}

theorem updPairs_four_eq_nil_iff : updPairs 4 base va vb m = [] ↔ ∀ i < 16, m.getLsbD i = false := by
  simp [updPairs]

/-- Lanes that the mask does not select for 16 lanes it does not select for eight. -/
theorem updPairs_eq_nil (h : updPairs 4 base va vb m = []) (es : Nat) : updPairs es base va vb m = [] := by
  rw [updPairs_four_eq_nil_iff] at h
  simp only [updPairs, List.map_eq_nil_iff, List.filter_eq_nil_iff, List.mem_range]
  intro i hi
  rw [h i (by split at hi <;> omega)]
  simp

/-- A mask of one bit selects one lane. -/
theorem lanes_of_one_bit {i n : Nat} (hi : i < n) (hn : n ≤ 64) :
    ((List.range n).filter fun j => (BitVec.ofNat 64 (2 ^ i)).getLsbD j) = [i] := by
  have hbit : ∀ j ∈ List.range n, (BitVec.ofNat 64 (2 ^ i)).getLsbD j = (j == i) := fun j hj => by
    have := List.mem_range.1 hj
    rw [BitVec.getLsbD_ofNat, Nat.testBit_two_pow, decide_eq_true (by omega : j < 64), Bool.true_and, beq_eq_decide,
      decide_eq_decide]
    exact eq_comm
  rw [List.filter_congr hbit, List.filter_beq, List.count_eq_one_of_mem List.nodup_range (List.mem_range.2 hi)]
  rfl

/-- A field of a vector as a number. -/
theorem shiftRight_mod_eq (v : VWord) (a w : Nat) : v.toNat >>> a % 2 ^ w = (v.extractLsb' a w).toNat := rfl

theorem updPairs_eight {i : Nat} (hi : i < 8) : updPairs 8 base va vb (BitVec.ofNat 64 (2 ^ i)) =
    [(base + BitVec.ofNat 64 (8 * (va.extractLsb' (32 * i) 32).toNat), vb.extractLsb' (64 * i) 64)] := by
  simp only [updPairs, if_pos, lanes_of_one_bit hi (by decide), List.map_cons, List.map_nil, shiftRight_mod_eq, Nat.mul_comm 8,
    BitVec.ofNat_toNat, BitVec.setWidth_eq]

theorem updPairs_four {i : Nat} (hi : i < 16) : updPairs 4 base va vb (BitVec.ofNat 64 (2 ^ i)) =
    [(base + BitVec.ofNat 64 (4 * (va.extractLsb' (32 * i) 32).toNat), (vb.extractLsb' (32 * i) 32).setWidth 64)] := by
  simp only [updPairs, if_neg (show ¬ 4 = 8 by decide), lanes_of_one_bit hi (by decide), List.map_cons, List.map_nil,
    shiftRight_mod_eq, Nat.mul_comm 4, BitVec.ofNat_toNat]

end Lanes

/-! ## The instructions on known operands -/

section Known

variable {s : State} {r : Run} {g : Guard} {a b : XReg} {va vb : VReg} {m : MReg} {k : BitVec 3} {p v n : Word}
variable (h : s.Issues r g)
include h

theorem upd_meets (ha : r.get a = .known p) (hb : r.get b = .known v) :
    s.Meets r (.upd g a b k) (s.issuePairs r k.toNat (updPair p v)) := by
  have hm := meets_guarded h (exec_upd g a b k s)
  rwa [ha, hb] at hm

theorem updv_meets (ha : r.get a = .known p) : s.Meets r (.updv g a va vb m k)
    (s.issuePairs r k.toNat fun es => updPairs es p (r.vec va) (r.vec vb) (r.mask m)) := by
  have hm := meets_guarded h (exec_updv g a va vb m k s)
  rwa [ha] at hm

/-- UAPPLY of a known range checks that it stays within the 52 bits, and is issued; an empty range is not (R397). -/
theorem uapply_meets (ha : r.get a = .known p) (hb : r.get b = .known n) : s.Meets r (.uapply g a b)
    (if n = 0 then .ok s
      else if 2 ^ 52 < p.toNat + n.toNat then .error (.fault 0x05 p.toNat 0)
      else s.issueOp r (.uapply p.toNat n.toNat none)) := by
  have hm := meets_guarded h (exec_uapply g a b s)
  have hhigh : n ≠ 0 → (highVa (p + n - 1) || decide (2 ^ 64 < p.toNat + n.toNat)) = decide (2 ^ 52 < p.toNat + n.toNat) := by
    intro hn
    rw [highVa_eq, ← Bool.decide_or, decide_eq_decide]
    bv_omega
  rw [Run.known2_eq ha hb] at hm
  simp only [bind, Except.bind] at hm
  by_cases hn : n = 0
  · rwa [if_pos hn] at hm ⊢
  · simp only [if_neg hn, hhigh hn, decide_eq_true_eq] at hm ⊢
    exact hm

end Known

/-- An operation that the source interface takes as it stands, and that nothing keeps back, enters it. -/
theorem State.Meets.enters {s : State} {r : Run} {i : Instr} {body : OpBody} (hm : s.Meets r i (s.issueOp r body))
    (hr : (s.core s.cur).run = some r) (hi : s.MayIssue r)
    (hl : s.numbered.launch s.cur (s.opOf r body) =
      s.numbered.onCore s.cur fun c => { c with src := c.src ++ [s.opOf r body] }) : s.Enters i r body := by
  rw [State.issueOp_sent body hi, hl, State.onCore_eq, State.numbered_core, State.numbered, State.setCore_setCore] at hm
  exact hm.leaves rfl hr

/-! ## The obligation from its parts -/

section Settle

variable {s : State} {r : Run} {g : Guard} {a b : XReg} {va vb : VReg} {m : MReg} {k : BitVec 3} {p v : Word}
variable {bid : Nat} {x : Binding} (h : s.Issues r g) (hs : s.streamOf r.region k.toNat = some (bid, x))
include h hs

/-- UPD hands over its one pair (R398). -/
theorem upd_issues (hi : s.MayIssue r) (ha : r.get a = .known p) (hb : r.get b = .known v)
    (hal : p.toNat % operSize x.oper = 0) (hlt : p.toNat < 2 ^ 52)
    (hwatch : s.watch r true [(p.toNat, operSize x.oper)] = .ok ()) :
    exec (.upd g a b k) s = .next (s.setCore s.cur { s.issued r 1 with
      nextUpd := (s.core s.cur).nextUpd + 1
      upds := SMap.set (s.core s.cur).upds (s.core s.cur).nextUpd ⟨(s.core s.cur).nextSeq, r.tid, 1⟩
      src := (s.core s.cur).src ++ [s.opOf r (.pair (s.core s.cur).nextUpd p.toNat
        (BitVec.ofNat 64 (v.toNat % 2 ^ (8 * operSize x.oper))) k.toNat)] }) := by
  have hm := upd_meets (k := k) h ha hb
  have hw : ∀ i < (updPair p v (operSize x.oper)).length,
      (s.core s.cur).mustWait r.tid ((s.core s.cur).nextSeq + i) = false := fun i hlen => by
    obtain rfl : i = 0 := Nat.lt_one_iff.1 hlen
    exact hi.2
  rw [State.issuePairs_issued (ps := updPair p v (operSize x.oper)) (State.checkPairs_fine (by simp [updPair]) hs
    (by simpa [updPair, hal] using hlt)) (State.find_of_streamOf hs) (by simp [updPair]) hwatch hi.1 hw,
    State.submitPairs_issued (by simp [updPair]) hw] at hm
  exact hm.leaves rfl h.1

/-- UPDV hands over the pairs of the lanes it selects, each numbered in its turn (R399). -/
theorem updv_issues (hi : s.MayIssue r) (ha : r.get a = .known p) {ps : List (Word × Word)}
    (hps : updPairs (operSize x.oper) p (r.vec va) (r.vec vb) (r.mask m) = ps) (hne : ps ≠ [])
    (hf : ∀ q ∈ ps, q.1.toNat % operSize x.oper = 0 ∧ q.1.toNat < 2 ^ 52)
    (hwatch : s.watch r true (ps.map fun q => (q.1.toNat, operSize x.oper)) = .ok ())
    (hbar : ∀ y ∈ (s.core s.cur).barriers, y.org.tid ≠ r.tid) :
    exec (.updv g a va vb m k) s = .next (s.setCore s.cur { s.core s.cur with
      run := some (r.past 1)
      nextSeq := (s.core s.cur).nextSeq + ps.length
      nextUpd := (s.core s.cur).nextUpd + 1
      upds := SMap.set (s.core s.cur).upds (s.core s.cur).nextUpd ⟨(s.core s.cur).nextSeq, r.tid, ps.length⟩
      src := (s.core s.cur).src ++ s.pairOps r k.toNat ps }) := by
  subst hps
  have hm := updv_meets (va := va) (vb := vb) (m := m) (k := k) h ha
  have hw : ∀ i < (updPairs (operSize x.oper) p (r.vec va) (r.vec vb) (r.mask m)).length,
      (s.core s.cur).mustWait r.tid ((s.core s.cur).nextSeq + i) = false := fun i _ =>
    List.any_eq_false.2 fun y hy => by simp [hbar y hy]
  rw [State.issuePairs_issued (State.checkPairs_fine (fun e => hne (updPairs_eq_nil e _)) hs hf) (State.find_of_streamOf hs) hne
    hwatch hi.1 hw, State.submitPairs_issued hne hw] at hm
  exact hm.leaves rfl h.1

/-- Without a selected lane of its operator, UPDV has no effect (R242). -/
theorem updv_nothing (ha : r.get a = .known p) (hps : updPairs (operSize x.oper) p (r.vec va) (r.vec vb) (r.mask m) = []) :
    s.Becomes (.updv g a va vb m k) (r.past 1) := by
  refine (updv_meets (va := va) (vb := vb) (m := m) (k := k) h ha).becomes h.1 ?_
  by_cases h4 : updPairs 4 p (r.vec va) (r.vec vb) (r.mask m) = []
  · exact State.issuePairs_nothing (State.checkPairs_empty h4)
  · refine State.issuePairs_nothing (bid := bid) ((State.checkPairs_fine h4 hs ?_).trans ?_)
    · simp [hps]
    · rw [hps]

end Settle

/-- Settles O43: an update whose pairs pass R243's checks is handed over (`upd_issues`, `updv_issues`), and UAPPLY enters the
source interface after the check of its range (`uapply_meets`). -/
theorem updates : Obligations.Updates := by
  unfold Obligations.Updates
  refine ⟨fun s r g a b va vb m k p v bid x h hi ha hb hs => ?_, fun base va vb i => ⟨updPairs_eight, updPairs_four⟩,
    fun s r g a b va vb m k p v n h => ⟨fun ha hb hs => ?_, fun ha hm => ?_, fun ha hb hi => ?_, fun hl => ?_⟩⟩
  · have hm := upd_meets (k := k) h ha hb
    refine ⟨upd_issues h hs hi ha hb, fun h3 => ?_, fun h3 h5 => ?_, fun hf hwatch => ⟨updv_nothing h hs ha, fun hne hbar =>
      updv_issues h hs hi ha rfl hne hf hwatch hbar⟩⟩
    · exact hm.faults (State.issuePairs_fault ((State.checkPairs_bound hs).trans (if_pos h3))) (by decide)
    · refine hm.faults (State.issuePairs_fault ((State.checkPairs_bound hs).trans ?_)) (by decide)
      rw [if_neg (not_not.2 h3), if_pos (highVa_of_le h5)]
  · refine ⟨(upd_meets h ha hb).faults (State.issuePairs_fault (State.checkPairs_unbound hs)) (by decide), fun ⟨i, hi, hsel⟩ => ?_⟩
    refine (updv_meets h ha).faults (State.issuePairs_fault (State.checkPairs_miss (fun e => ?_) hs)) (by decide)
    rw [updPairs_four_eq_nil_iff.1 e i hi] at hsel
    cases hsel
  · exact (updv_meets h ha).becomes h.1
      (State.issuePairs_nothing (State.checkPairs_empty (updPairs_four_eq_nil_iff.2 hm)))
  · have hm := uapply_meets h ha hb
    refine ⟨fun h0 => hm.becomes h.1 (if_pos h0), fun h0 hin => ?_, fun h0 hout => ?_⟩
    · rw [if_neg h0, if_neg (not_lt.2 hin)] at hm
      exact hm.enters h.1 hi rfl
    · exact hm.faults ((if_neg h0).trans (if_pos hout)) (by decide)
  · refine (meets_guarded h (exec_uapply g a b s)).parks ?_
    rw [Run.known2_late hl]
    rfl

end Sys2Proof.Machine
end

section
/-! SUPPORT. Eddy units: bins, the operators' folds, and what an apply of a line with one part leaves (R246, R253, Table 10-2). -/

namespace Sys2Proof.Machine

open Sys2Proof

/-! ## A unit's state -/

@[simp] theorem State.eddy_setEddy (s : State) (m k : Nat) (e : Eddy) :
    (s.setEddy m e).eddy k = if k = m then e else s.eddy k := by simp [State.eddy, State.setEddy]

@[simp] theorem State.setEddy_setEddy (s : State) (m : Nat) (e e' : Eddy) : (s.setEddy m e).setEddy m e' = s.setEddy m e' := by
  simp [State.setEddy]

@[simp] theorem State.bindings_setEddy (s : State) (m : Nat) (e : Eddy) : (s.setEddy m e).bindings = s.bindings := rfl

@[simp] theorem State.eddy_send (s : State) (p : Packet) (m : Nat) : (s.send p).eddy m = s.eddy m := by
  unfold State.send
  split
  · dsimp only
    split <;> rfl
  · rfl

theorem State.setEddy_sameStores (s : State) (m : Nat) (e : Eddy) : s.SameStores (s.setEddy m e) := ⟨rfl, rfl, rfl, rfl⟩

/-! ## Operators (Table 10-2) -/

/-- A 32-bit element as a signed number. -/
theorem decode_signed32 (v : Word) : (IntTy.mk 32 true).decode v.toNat = (v.setWidth 32).toInt := by
  rw [← IntTy.decode_toNat (by decide), BitVec.toNat_setWidth, IntTy.decode, IntTy.decode, Nat.mod_mod]

/-- A word of 32 bits is kept by its truncation to them. -/
theorem ofNat_mod_of_lt {v : Word} (h : v.toNat < 2 ^ 32) : BitVec.ofNat 64 (v.toNat % 2 ^ 32) = v := by
  rw [Nat.mod_eq_of_lt h, BitVec.ofNat_toNat, BitVec.setWidth_eq]

theorem operFold_iadd32 (m p : Word) : operFold 0 m p = BitVec.ofNat 64 ((m.toNat + p.toNat) % 2 ^ 32) := rfl

section Folds

variable {m p : Word} (hm : m.toNat < 2 ^ 32) (hp : p.toNat < 2 ^ 32)
include hm hp

theorem operFold_imax32 : operFold 5 m p = if (m.setWidth 32).toInt < (p.setWidth 32).toInt then p else m := by
  simp only [operFold, decode_signed32, ofNat_mod_of_lt hm, ofNat_mod_of_lt hp]

theorem operFold_imin32 : operFold 6 m p = if (p.setWidth 32).toInt < (m.setWidth 32).toInt then p else m := by
  simp only [operFold, decode_signed32, ofNat_mod_of_lt hm, ofNat_mod_of_lt hp]

theorem operFold_umax32 : operFold 7 m p = if m.toNat < p.toNat then p else m := by
  simp only [operFold, Nat.mod_eq_of_lt hm, Nat.mod_eq_of_lt hp, BitVec.ofNat_toNat, BitVec.setWidth_eq]

end Folds

/-- A word added to a sum modulo 2^32 is added to what was summed. -/
theorem operFold_iadd32_mod (x : Nat) (p : Word) :
    operFold 0 (BitVec.ofNat 64 (x % 2 ^ 32)) p = BitVec.ofNat 64 ((x + p.toNat) % 2 ^ 32) := by
  rw [operFold_iadd32, BitVec.toNat_ofNat, Nat.mod_eq_of_lt (a := x % 2 ^ 32) (by omega), Nat.mod_add_mod]

/-! ## Bins (R246, R247) -/

section Batch

variable {s : State} {m : Nat} {p : UPair} {b : Binding}

theorem State.operOf_eq (hb : SMap.find s.bindings p.bid = some b) : s.operOf p.bid = b.oper := by simp [State.operOf, hb]

/-- A unit whose one bin is `x`, one pair reduced since. -/
def State.binned (s : State) (m : Nat) (x : Bin) : State :=
  s.setEddy m { s.eddy m with bins := [x], stamp := (s.eddy m).stamp + 1 }

@[simp] theorem State.eddy_binned (x : Bin) :
    (s.binned m x).eddy m = { s.eddy m with bins := [x], stamp := (s.eddy m).stamp + 1 } := by simp [State.binned]

theorem State.binned_sameStores (s : State) (m : Nat) (x : Bin) : s.SameStores (s.binned m x) := s.setEddy_sameStores ..

/-- A bin with one more pair reduced into it, used now. -/
def State.reduced (s : State) (m oper : Nat) (p : UPair) (x : Bin) : Bin :=
  { x.reduce oper p.pa p.value with used := (s.eddy m).stamp + 1 }

/-- The bin that a pair takes, before it is reduced into it. -/
def State.freshBin (s : State) (m : Nat) (p : UPair) : Bin := ⟨p.bid, lineOf p.pa, [], 0, (s.eddy m).stamp, false⟩

/-- A pair is reduced into the bin of its line, here the only one of its unit. -/
theorem State.sortPair_reduces {x : Bin} (hbins : (s.eddy m).bins = [x]) (hbid : x.bid = p.bid) (hline : x.line = lineOf p.pa)
    (hfew : x.pairs < 2 ^ 31 - 1) (hb : SMap.find s.bindings p.bid = some b) :
    s.sortPair m p = s.binned m (s.reduced m b.oper p x) := by
  have hless : ¬ 2147483647 ≤ x.pairs := by omega
  simp [State.sortPair, State.binned, State.reduced, hbins, State.operOf_eq hb, Bin.reduce, hless, hbid, hline]

/-- An empty unit with an allotment has room for a bin of one cell. -/
theorem State.makeRoom_empty (hbins : (s.eddy m).bins = []) (hb : SMap.find s.bindings p.bid = some b) (hlim : b.binLim = 0)
    (hoper : b.oper = 0) (ha : 1 ≤ s.allot) (n : Nat) : s.makeRoom m p.bid n = s := by
  have hlimited : s.binLimited m p.bid = false := by simp [State.binLimited, hb, hlim]
  have hfree : s.binFree m p.bid = true := by
    simp only [State.binFree, State.usedCells, hbins, State.operOf_eq hb, hoper, binCells, decide_eq_true_eq]
    simp
    omega
  cases n with
  | zero => rfl
  | succ n => simp [State.makeRoom, hlimited, hfree]

/-- A pair that finds no bin in an empty unit takes one, and is reduced into it. -/
theorem State.sortPair_takes (hbins : (s.eddy m).bins = []) (hb : SMap.find s.bindings p.bid = some b) (hlim : b.binLim = 0)
    (hoper : b.oper = 0) (ha : 1 ≤ s.allot) : s.sortPair m p = s.binned m (s.reduced m b.oper p (s.freshBin m p)) := by
  have hroom := State.makeRoom_empty hbins hb hlim hoper ha
  have htakes : s.sortPair m p = (s.setEddy m { s.eddy m with bins := [s.freshBin m p] }).sortPair m p := by
    simp [State.sortPair, hbins, hroom, State.freshBin, State.operOf]
  refine htakes.trans ((State.sortPair_reduces (s := s.setEddy m _) (x := s.freshBin m p) (by simp) rfl rfl
    (show 0 < 2 ^ 31 - 1 by decide) hb).trans ?_)
  simp [State.binned, State.reduced]

end Batch

/-! ## An apply of one part (R253) -/

/-- A fold in which only one entry of the list, listed once, makes a change. -/
theorem foldl_only {α β : Type} {f : α → β → α} {i : β} (h : ∀ a, ∀ j, j ≠ i → f a j = a) (l : List β) (a : α)
    (hn : l.Nodup) (hi : i ∈ l) : l.foldl f a = f a i := by
  have skip : ∀ (l : List β) (a : α), i ∉ l → l.foldl f a = a := fun l => by
    induction l with
    | nil => exact fun _ _ => rfl
    | cons j l ih =>
      intro a hl
      rw [List.mem_cons, not_or] at hl
      rw [List.foldl_cons, h a j (Ne.symm hl.1), ih a hl.2]
  induction l generalizing a with
  | nil => cases hi
  | cons j l ih =>
    rw [List.nodup_cons] at hn
    rw [List.foldl_cons]
    rcases List.mem_cons.1 hi with rfl | hi
    · exact skip l _ hn.1
    · rw [h a j fun e => hn.1 (e ▸ hi)]
      exact ih a hn.2 hi

/-- The bytes of a 32-bit element after a value is added to it. -/
def State.added (s : State) (a : Nat) (v : Word) : List Byte := bytesOf 4 ((natOf (Cells.read s.mem a 4) + v.toNat) % 2 ^ 32)

section Apply

variable {s : State} {line i m bid : Nat} {x : Bin} {v : Word} {b : Binding}

/-- An element that no part holds stands as it stood. -/
theorem State.applyOne_untouched {parts : List Bin} {oper j : Nat} (h : ∀ x ∈ parts, SMap.find x.accs j = none) :
    s.applyOne oper line j parts = s := by
  have : parts.filterMap (fun x => SMap.find x.accs j) = [] := List.filterMap_eq_nil_iff.2 h
  simp [State.applyOne, this]

/-- The element that one part of IADD32 holds takes the sum; what waits in the units is not changed by that. -/
theorem State.applyOne_adds (hx : SMap.find x.accs i = some (.word v)) (hlost : s.lost = []) :
    (s.applyOne 0 line i [x]).mem = Cells.write s.mem (line * 128 + 4 * i) (s.added (line * 128 + 4 * i) v) ∧
      (s.applyOne 0 line i [x]).eddies = s.eddies := by
  have hread : ∀ a, s.readRaw a 4 = (Cells.read s.mem a 4, s) := fun a => by simp [State.readRaw, State.anyLost, hlost]
  have hsum : ∀ a, applyElem 0 (wordOf (Cells.read s.mem a 4)) [.word v] =
      BitVec.ofNat 64 ((natOf (Cells.read s.mem a 4) + v.toNat) % 2 ^ 32) := fun a => by
    have hlt := natOf_lt (Cells.read s.mem a 4)
    rw [Cells.read_length] at hlt
    show operFold 0 _ v = _
    rw [operFold_iadd32, wordOf, BitVec.toNat_ofNat, Nat.mod_eq_of_lt (a := natOf _) (by omega)]
  have hnat : ∀ n : Nat, (BitVec.ofNat 64 (n % 2 ^ 32)).toNat = n % 2 ^ 32 := fun n => by
    rw [BitVec.toNat_ofNat, Nat.mod_eq_of_lt (by omega)]
  have hsize : operSize 0 = 4 := rfl
  simp only [State.applyOne, hsize, List.filterMap_cons, hx, List.filterMap_nil, List.isEmpty_cons, Bool.false_eq_true, if_false,
    hread, hsum, hnat, Nat.mul_comm i 4]
  split <;> exact ⟨Cells.writeSome_some .., rfl⟩

/-- Of a line's elements, a part with one accumulator changes only that one. -/
theorem State.applyAll_one (hx : x.accs = [(i, .word v)]) (hi : i < 32) :
    (List.range 32).foldl (fun t j => t.applyOne 0 line j [x]) s = s.applyOne 0 line i [x] := by
  refine foldl_only (fun t j hj => State.applyOne_untouched fun y hy => ?_) _ _ List.nodup_range (List.mem_range.2 hi)
  rw [List.mem_singleton.1 hy, hx]
  simp [SMap.find, Ne.symm hj]

/-- A line's apply of one part with one element of IADD32 adds it to that element. -/
theorem State.applyParts_adds (hx : x.accs = [(i, .word v)]) (hi : i < 32) (hlost : s.lost = []) :
    (s.applyParts 0 line [x]).mem = Cells.write s.mem (line * 128 + 4 * i) (s.added (line * 128 + 4 * i) v) ∧
      (s.applyParts 0 line [x]).eddies = s.eddies := by
  obtain ⟨sl, hsl⟩ := State.touchLines_eq (s.invalidateHost (line * 128) 128) (line * 128) 128 true
  rw [State.applyParts, show 128 / operSize 0 = 32 from rfl, State.applyAll_one hx hi, hsl]
  exact State.applyOne_adds (by simp [hx, SMap.find]) hlost

/-- A line whose one part, in its unit, holds one element of IADD32: the apply adds it in memory, and the unit keeps nothing
of the line (R253). -/
theorem State.applyLine_adds (hb : s.bindingAt (line * 128) = some (bid, b)) (hoper : b.oper = 0)
    (hm : s.homeChiplet (line * 128) = m) (hparts : (s.eddy m).partsOf bid line 0 = [x])
    (hx : x.accs = [(i, .word v)]) (hi : i < 32) (hlost : s.lost = []) :
    (s.applyLine line).mem = Cells.write s.mem (line * 128 + 4 * i) (s.added (line * 128 + 4 * i) v) ∧
      (s.applyLine line).eddy m = (s.eddy m).without bid line := by
  obtain ⟨hmem, hed⟩ := State.applyParts_adds (line := line) hx hi hlost
  have happly : s.applyLine line = (s.applyParts 0 line [x]).setEddy m (((s.applyParts 0 line [x]).eddy m).without bid line) := by
    simp [State.applyLine, hb, hoper, hm, hparts]
  have heddy : (s.applyParts 0 line [x]).eddy m = s.eddy m := by rw [State.eddy, hed]; rfl
  rw [happly, State.eddy_setEddy, if_pos rfl, heddy]
  exact ⟨hmem, rfl⟩

/-- What memory reads after the sum is written. -/
theorem State.added_reads (h : Memory.wf s.mem = true) {n : List Host.Cell} {a : Nat} (hn : n = Cells.write s.mem a (s.added a v)) :
    Cells.read n a 4 = s.added a v ∧ ∀ c, c < a ∨ a + 4 ≤ c → Cells.get n c = Cells.get s.mem c := by
  have hlen : (s.added a v).length = 4 := bytesOf_length ..
  subst hn
  refine ⟨?_, fun c hc => Cells.get_write_outside _ _ _ h (by rwa [hlen])⟩
  have hr := Cells.read_write a (s.added a v) h
  rwa [hlen] at hr

end Apply

end Sys2Proof.Machine
end

section
/-! PROOF. O55: the Eddy units, merge-apply and UAPPLY. -/

namespace Sys2Proof.Machine

open Sys2Proof

/-! ## Acceptance (R245) -/

/-- A packet's pairs wait in its unit, and its issuer is told. -/
theorem updatePacket_accepted {s : State} {k m rgn : Nat} {src : Agent} {ps : List UPair}
    (hp : s.packet k = some ⟨.upd, src, .eddy m, rgn, .updates ps⟩) (hr : s.Reaches src) :
    ∃ t, exec (.updatePacketAccept k) s = .next t ∧ (t.eddy m).waiting = (s.eddy m).waiting ++ [ps] ∧ s.SameBytes t ∧
      t.SameCores s ∧ t.net = s.net.eraseIdx k ++ [⟨.rsp, .eddy m, src, rgn, .accepted (ps.map (·.upd))⟩] := by
  have hkeep : (s.drop k).SameStores (((s.drop k).setEddy m { s.eddy m with waiting := (s.eddy m).waiting ++ [ps] }).send
      ⟨.rsp, .eddy m, src, rgn, .accepted (ps.map (·.upd))⟩) := (State.setEddy_sameStores ..).trans (State.send_sameStores ..)
  rw [exec_updatePacketAccept, execUpdatePacketAccept, hp]
  refine ⟨_, rfl, ?_, State.sameBytes_drop hkeep.sameBytes, fun n => (hkeep.core n).symm, ?_⟩
  · simp
  · rw [State.net_send hr]
    rfl

/-! ## A batch (R246) -/

/-- Two that stand in order stay as they stand. -/
theorem sortBy_pair {α : Type} {le : α → α → Bool} {a b : α} (h : le a b = true) : sortBy le [a, b] = [a, b] := by
  simp [sortBy, insertBy, h]

section Batch

variable {s : State} {m : Nat} {p q : UPair} {b : Binding} (hbid : q.bid = p.bid) (hpa : q.pa = p.pa)
include hbid hpa

/-- Two pairs of one element are sorted in their order of acceptance. -/
theorem execSortBatch_two (hw : (s.eddy m).waiting = [[p, q]]) : exec (.sortBatch m) s =
    .next (((s.setEddy m { s.eddy m with waiting := [] }).sortPair m p).sortPair m q) := by
  rw [exec_sortBatch, execSortBatch, hw]
  show Host.Outcome.next ((sortBy _ [p, q]).foldl _ (s.setEddy m { s.eddy m with waiting := [] })) = _
  rw [sortBy_pair (decide_eq_true (Nat.le_of_eq (by beta_reduce; rw [hbid, hpa]))), List.foldl_cons, List.foldl_cons,
    List.foldl_nil]

/-- The first of them takes a bin, and both are reduced into it. -/
theorem State.sortPairs_two (hbins : (s.eddy m).bins = []) (hb : SMap.find s.bindings p.bid = some b) (hlim : b.binLim = 0)
    (hoper : b.oper = 0) (ha : 1 ≤ s.allot) : ∃ x, (s.sortPair m p).sortPair m q =
      (s.binned m (s.reduced m b.oper p (s.freshBin m p))).binned m x ∧ x.bid = p.bid ∧ x.line = p.pa / 128 ∧ x.pairs = 2 ∧
      x.accs = [(p.pa % 128 / 4, .word (BitVec.ofNat 64 ((p.value.toNat + q.value.toNat) % 2 ^ 32)))] := by
  rw [State.sortPair_takes hbins hb hlim hoper ha]
  refine ⟨_, State.sortPair_reduces (b := b) (x := s.reduced m b.oper p (s.freshBin m p)) (by simp) hbid.symm
    (congrArg lineOf hpa.symm) (show 1 < 2 ^ 31 - 1 by decide) (by rw [hbid]; exact hb), rfl, rfl, rfl, ?_⟩
  simp [State.reduced, Bin.reduce, State.freshBin, hoper, hpa, operSize, SMap.set, SMap.find, accFirst, accAdd, operExact]
  exact operFold_iadd32_mod ..

/-- Two pairs of one element of a line, under IADD32: a bin of their sum. -/
theorem sortBatch_folds (hw : (s.eddy m).waiting = [[p, q]]) (hbins : (s.eddy m).bins = [])
    (hb : SMap.find s.bindings p.bid = some b) (hoper : b.oper = 0) (hlim : b.binLim = 0) (ha : 1 ≤ s.allot) :
    ∃ t x, exec (.sortBatch m) s = .next t ∧ (t.eddy m).waiting = [] ∧ (t.eddy m).bins = [x] ∧ x.bid = p.bid ∧
      x.line = p.pa / 128 ∧ x.pairs = 2 ∧ s.SameBytes t ∧
      x.accs = [(p.pa % 128 / 4, .word (BitVec.ofNat 64 ((p.value.toNat + q.value.toNat) % 2 ^ 32)))] := by
  obtain ⟨x, hsort, hxbid, hxline, hxpairs, hxaccs⟩ := State.sortPairs_two (m := m)
    (s := s.setEddy m { s.eddy m with waiting := [] }) hbid hpa (by simp [hbins]) hb hlim hoper ha
  refine ⟨_, x, (execSortBatch_two hbid hpa hw).trans (congrArg _ hsort), by simp, by simp, hxbid, hxline, hxpairs, ?_, hxaccs⟩
  exact (((State.setEddy_sameStores ..).trans (State.binned_sameStores ..)).trans (State.binned_sameStores ..)).sameBytes

end Batch

/-! ## Merge-apply (R249) -/

/-- With no run of the binding left its log part is empty. -/
theorem mergeApply_ends {s : State} {m bid : Nat} (hm : (s.eddy m).merging.contains bid = true)
    (hruns : ∀ r ∈ (s.eddy m).runs, r.bid ≠ bid) :
    ∃ t, exec (.mergeApply m bid) s = .next t ∧ (t.eddy m).merging.contains bid = false ∧ s.SameBytes t ∧
      ∃ l, SMap.find (t.eddy m).logs bid = some l ∧ l.used = 0 := by
  have hnone : (s.eddy m).runs.filter (·.bid == bid) = [] := List.filter_eq_nil_iff.2 fun r hr => by simp [hruns r hr]
  have hline : (s.eddy m).mergeLine bid = none := by simp [Eddy.mergeLine, hnone]
  rw [exec_mergeApply, execMergeApply]
  simp only [hm, if_true, hline]
  refine ⟨_, rfl, by simp [eraseNat], (State.setEddy_sameStores ..).sameBytes,
    ⟨0, (SMap.get (s.eddy m).logs bid ⟨0, 0⟩).num⟩, ?_, rfl⟩
  simp

/-- The housekeeping budget charged, and the draws of free values: nothing else changes. -/
theorem State.hkCharge_eq (s : State) (ctls : List Nat) : ∃ h f, s.hkCharge ctls = { s with hkBud := h, free := f } := by
  refine foldl_keeps (fun t => ∃ h f, t = { s with hkBud := h, free := f }) _ (fun t c h => ?_) _ _ ⟨s.hkBud, s.free, rfl⟩
  obtain ⟨h, f, rfl⟩ := h
  exact ⟨_, _, rfl⟩

/-- The one run of a unit, of one record: its line is applied, and the run is gone. -/
theorem mergeApply_applies {s : State} {m bid num addr i : Nat} {x : Bin} {b : Binding} {v : Word}
    (hm : (s.eddy m).merging.contains bid = true) (hruns : (s.eddy m).runs = [⟨bid, num, addr, [x]⟩])
    (hbins : (s.eddy m).bins = []) (hwait : (s.eddy m).waiting = []) (hx : x.accs = [(i, .word v)]) (hi : i < 32)
    (hb : s.bindingAt (x.line * 128) = some (bid, b)) (hoper : b.oper = 0) (hhome : s.homeChiplet (x.line * 128) = m)
    (hlost : s.lost = []) (hmay : s.mergeMay m = true) :
    ∃ t, exec (.mergeApply m bid) s = .next t ∧ (t.eddy m).runs = [] ∧ t.SameCores s ∧
      t.mem = Cells.write s.mem (x.line * 128 + 4 * i) (s.added (x.line * 128 + 4 * i) v) := by
  have hline : (s.eddy m).mergeLine bid = some x.line := by simp [Eddy.mergeLine, hruns]
  have hparts : (s.eddy m).partsOf bid x.line 0 = [x] := by
    simp [Eddy.partsOf, Eddy.unsorted, Eddy.parts, hwait, hbins, hruns]
  obtain ⟨hmem, hed⟩ := State.applyLine_adds hb hoper hhome hparts hx hi hlost
  obtain ⟨h, f, hcharge⟩ := (s.applyLine x.line).hkCharge_eq (chipletCtls m)
  rw [exec_mergeApply, execMergeApply]
  simp only [hm, if_true, hline, hmay]
  refine ⟨_, rfl, ?_, fun n => ?_, ?_⟩ <;> rw [hcharge]
  · show ((s.applyLine x.line).eddy m).runs = []
    simp [hed, Eddy.without, Eddy.cleared, hruns]
  · exact (State.core_of_cores (s.applyLine_only x.line).cores n).symm
  · exact hmem

/-! ## UAPPLY (R254, R397) -/

/-- What a UAPPLY alone at its source interface leaves there when it moves on past `d` bytes of a page. -/
def uapplyRest (o : Op) (va left d : Nat) (l : Tlb) : List Op :=
  if left ≤ d then []
  else [{ o with body := .uapply (va + d) (left - d) (if va + d < l.va + l.size then some l else none) }]

/-- What a walk and its translation cached change: the lines that the slices hold and cached translations. -/
theorem State.touchWalk_eq (s : State) (asid va : Nat) : ∃ sl, s.touchWalk asid va = { s with slices := sl } := by
  refine foldl_keeps (fun t => ∃ sl, t = { s with slices := sl }) _ (fun t a h => ?_) _ _ ⟨s.slices, rfl⟩
  obtain ⟨sl, rfl⟩ := h
  exact State.touchLines_eq ..

section Uapply

variable {s : State} {n va left pa : Nat} {o : Op} {rg : Region} {l : Tlb}

theorem State.uapplyOn_src (hsrc : (s.core n).src = [o]) (d : Nat) :
    ((s.uapplyOn n 0 o va left d l).core n).src = uapplyRest o va left d l := by
  rw [State.uapplyOn, State.core_onCore, if_pos rfl, hsrc, uapplyRest]
  split <;> rfl

theorem State.uapplyOn_sameBytes (d : Nat) : s.SameBytes (s.uapplyOn n 0 o va left d l) :=
  State.sameBytes_setCore s (by split <;> rfl)

/-- A UAPPLY that stands alone, with nothing held, waits for nothing. -/
theorem State.mustFollow_alone (hreplay : (s.core n).replay = []) (hfwait : (s.core n).fwait = [])
    (hbody : o.body = .uapply va left none) : s.mustFollow n 0 o = false := by
  simp [State.mustFollow, Core.behindHeld, Core.heldOps, Core.awaitsRead, hreplay, hfwait, hbody]

/-- The leaf leads to an address of this module's own memory outside the windows of slice-scratch: by TYPE 0, or by TYPE 3 and this
module's number (R196). -/
def State.LeadsHome (s : State) (l : Tlb) (va pa : Nat) : Prop :=
  (l.type = 0 ∧ pa = l.phys va ∨
    l.type = 3 ∧ l.host = false ∧ l.phys va / 2 ^ 48 % 256 = s.brielo.number ∧ pa = l.phys va % 2 ^ 48) ∧
  s.inDram pa 1 = true ∧ (pa < winBase ∨ winEnd ≤ pa)

theorem State.routeOf_home (h : s.LeadsHome l va pa) : s.routeOf n l va false = .to (.slice (s.homeSlice pa)) pa .wb := by
  obtain ⟨hleaf, hdram, hwin⟩ := h
  have hlocal : s.localRoute pa .wb = .to (.slice (s.homeSlice pa)) pa .wb := by
    rw [State.localRoute, if_neg (by omega), if_pos hdram]
  rcases hleaf with ⟨ht, hpa⟩ | ⟨ht, hhost, hnum, hpa⟩
  · simp [State.routeOf, ht, ← hpa, hlocal]
  · simp only [State.routeOf, ht, hhost, hnum, ← hpa, hlocal, if_true, Bool.false_eq_true, if_false]

/-- At an address that leads home, a line of one of the region's bindings is applied. -/
theorem State.uapplyAt_bound (h : s.LeadsHome l va pa) (hrg : s.region o.org.region = some rg) {bid : Nat} {b : Binding}
    (hb : s.bindingAt pa = some (bid, b)) (hin : some bid ∈ rg.ubind) :
    s.uapplyAt n 0 o va left l = (s.applyLine (lineOf pa)).uapplyOn n 0 o va left (128 - va % 128) l := by
  simp [State.uapplyAt, State.routeOf_home h, State.boundIn, hrg, hb, hin]

/-- The rest of 64 KiB that no binding of the region holds is passed over. -/
theorem State.uapplyAt_unbound (h : s.LeadsHome l va pa) (hrg : s.region o.org.region = some rg)
    (hno : ∀ bid b, s.bindingAt pa = some (bid, b) → some bid ∉ rg.ubind) :
    s.uapplyAt n 0 o va left l = s.uapplyOn n 0 o va left (65536 - va % 65536) l := by
  have hnone : ((s.bindingAt pa).any fun b => (s.boundIn o.org.region).contains b.1) = false := by
    cases hb : s.bindingAt pa with
    | none => rfl
    | some e => simp [State.boundIn, hrg, hno e.1 e.2 hb]
  simp only [State.uapplyAt, State.routeOf_home h, hnone, Bool.false_eq_true, if_false]

/-- The state with other cached translations, and other lines in the slices. -/
def State.walked (s : State) (n : Nat) (tl : List Tlb) (ch : SMap Chip) (sl : SMap Slice) : State :=
  { s.setCore n { s.core n with tlb := tl } with chips := ch, slices := sl }

theorem State.walked_sameBytes (s : State) (n : Nat) (tl : List Tlb) (ch : SMap Chip) (sl : SMap Slice) :
    s.SameBytes (s.walked n tl ch sl) := State.sameBytes_setCore s (c := { s.core n with tlb := tl }) rfl

theorem State.walked_src (s : State) (n : Nat) (tl : List Tlb) (ch : SMap Chip) (sl : SMap Slice) :
    ((s.walked n tl ch sl).core n).src = (s.core n).src := by
  show ((s.setCore n { s.core n with tlb := tl }).core n).src = (s.core n).src
  simp

/-- A UAPPLY alone at its source interface walks for the page it comes to, and goes on with the translation it has made. -/
theorem uapply_walks (hsrc : (s.core n).src = [o]) (hreplay : (s.core n).replay = []) (hfwait : (s.core n).fwait = [])
    (hbody : o.body = .uapply va left none) (hcached : s.cached n (s.asid o.org.region) va = none)
    (hwalk : s.walk (s.asid o.org.region) va = .leaf l) (hsup : l.sup = false) :
    ∃ tl ch sl, exec (.uapplyLineApply n 0) s = .next ((s.walked n tl ch sl).uapplyAt n 0 o va left l) := by
  obtain ⟨sl, hsl⟩ := s.touchWalk_eq (s.asid o.org.region) va
  have hstall : s.stalled n o = false := by simp [State.stalled, hreplay]
  have htrans : s.translate n (s.asid o.org.region) va = (.leaf l, s) := by simp [State.translate, hcached, hwalk]
  rw [exec_uapplyLineApply, execUapplyLineApply]
  simp only [hsrc, List.getElem?_cons_zero, hbody, State.mustFollow_alone hreplay hfwait hbody, hstall, htrans, hcached, hsup, hsl,
    Option.isNone_none, Bool.or_self, Bool.false_and, Bool.false_eq_true, if_false, if_true]
  exact ⟨_, _, _, rfl⟩

/-- 64 KiB that no active binding of the region holds are passed over. -/
theorem uapply_passes (tl : List Tlb) (ch : SMap Chip) (sl : SMap Slice) (hsrc : (s.core n).src = [o]) (h : s.LeadsHome l va pa)
    (hrg : s.region o.org.region = some rg) (hno : ∀ bid b, s.bindingAt pa = some (bid, b) → some bid ∉ rg.ubind) :
    (((s.walked n tl ch sl).uapplyAt n 0 o va left l).core n).src = uapplyRest o va left (65536 - va % 65536) l ∧
      s.SameBytes ((s.walked n tl ch sl).uapplyAt n 0 o va left l) := by
  rw [State.uapplyAt_unbound (s := s.walked n tl ch sl) (pa := pa) h hrg hno]
  exact ⟨State.uapplyOn_src ((s.walked_src n tl ch sl).trans hsrc) _,
    (s.walked_sameBytes n tl ch sl).trans (State.uapplyOn_sameBytes _)⟩

/-- A line of an active binding of the region is applied: its one part, a bin, is added to memory and leaves its unit. -/
theorem uapply_applies (tl : List Tlb) (ch : SMap Chip) (sl : SMap Slice) (hsrc : (s.core n).src = [o]) (h : s.LeadsHome l va pa)
    (hrg : s.region o.org.region = some rg) {m bid i : Nat} {x : Bin} {b : Binding} {v : Word}
    (hpa : s.bindingAt pa = some (bid, b)) (hin : some bid ∈ rg.ubind) (hline : x.line = pa / 128)
    (hb : s.bindingAt (x.line * 128) = some (bid, b)) (hoper : b.oper = 0) (hhome : s.homeChiplet (x.line * 128) = m)
    (hbins : (s.eddy m).bins = [x]) (hbid : x.bid = bid) (hx : x.accs = [(i, .word v)]) (hi : i < 32)
    (hruns : (s.eddy m).runs = []) (hwait : (s.eddy m).waiting = []) (hlost : s.lost = []) :
    let t := (s.walked n tl ch sl).uapplyAt n 0 o va left l
    (t.core n).src = uapplyRest o va left (128 - va % 128) l ∧ (t.eddy m).bins = [] ∧
      t.mem = Cells.write s.mem (x.line * 128 + 4 * i) (s.added (x.line * 128 + 4 * i) v) := by
  have hparts : (s.eddy m).partsOf bid x.line 0 = [x] := by
    simp [Eddy.partsOf, Eddy.unsorted, Eddy.parts, hwait, hbins, hruns, hbid]
  obtain ⟨hmem, hed⟩ := State.applyLine_adds (s := s.walked n tl ch sl) hb hoper hhome hparts hx hi hlost
  intro t
  have ht : t = ((s.walked n tl ch sl).applyLine x.line).uapplyOn n 0 o va left (128 - va % 128) l := by
    rw [hline]
    exact State.uapplyAt_bound (s := s.walked n tl ch sl) (pa := pa) h hrg hpa hin
  rw [ht]
  refine ⟨State.uapplyOn_src ?_ _, ?_, hmem⟩
  · rw [State.core_of_cores (State.applyLine_only ..).cores, State.walked_src, hsrc]
  · show (((s.walked n tl ch sl).applyLine x.line).eddy m).bins = []
    rw [hed]
    show (Eddy.without (s.eddy m) bid x.line).bins = []
    simp [Eddy.without, Eddy.cleared, hbins, hbid]

end Uapply

/-- Settles O55, event by event: acceptance (`updatePacket_accepted`), a batch (`sortBatch_folds`), the operators' folds,
merge-apply (`mergeApply_ends`, `mergeApply_applies`) and UAPPLY (`uapply_passes`, `uapply_applies`). -/
theorem updateEvents : Obligations.UpdateEvents := by
  unfold Obligations.UpdateEvents
  refine ⟨fun s k m rgn src ps hp hr => updatePacket_accepted hp hr,
    fun s m p q b hw hbins hbid hpa hb hoper hlim ha => sortBatch_folds hbid hpa hw hbins hb hoper hlim ha,
    fun m p hm hp => ⟨operFold_iadd32 m p, rfl, operFold_imax32 hm hp, operFold_imin32 hm hp, operFold_umax32 hm hp, rfl, rfl,
      rfl⟩,
    fun s m bid hm hruns => mergeApply_ends hm hruns, ?_, ?_⟩
  · intro s m bid num addr i x b v hm hruns hbins hwait hx _ hi hb hoper hhome hlost hwf hmay
    obtain ⟨t, hstep, hgone, hcores, hmem⟩ := mergeApply_applies hm hruns hbins hwait hx hi hb hoper hhome hlost hmay
    exact ⟨t, hstep, hgone, hcores, State.added_reads hwf hmem⟩
  · intro s n va left pa o rg l hsrc hreplay hfwait hbody hrg hcached hwalk hsup hleaf hdram hwin rest
    obtain ⟨tl, ch, sl, hstep⟩ := uapply_walks hsrc hreplay hfwait hbody hcached hwalk hsup
    have hhome : s.LeadsHome l va pa := ⟨hleaf, hdram, hwin⟩
    refine ⟨fun hno => ⟨_, hstep, uapply_passes tl ch sl hsrc hhome hrg hno⟩, ?_⟩
    intro m bid i x b v hpa hin hline hb hoper hm hbins hbid hx _ hi hruns hwait hlost hwf
    obtain ⟨hrest, hgone, hmem⟩ := uapply_applies (left := left) tl ch sl hsrc hhome hrg hpa hin hline hb hoper hm hbins hbid
      hx hi hruns hwait hlost
    exact ⟨_, hstep, hrest, hgone, State.added_reads hwf hmem⟩

end Sys2Proof.Machine
end

section
/-! PROOF. O44: commands enter the copy queue and the tile queue, and RADV adds tiles to a ring (R52, R155, R158, R169, R176,
R258, R298). -/

namespace Sys2Proof.Machine

open Sys2Proof

section Commands

variable {s : State} {r : Run} {g : Guard} {i : Instr} {y : XReg} {ref : Word} {ws : List Word} {grp : List RVal}

/-! ## Entering a queue (R169, R258) -/

/-- A command without a reference parks while an operand of its group is late (R68). -/
theorem State.cmdOperands_late (hl : ∃ v ∈ grp, v.isLate) : s.cmdOperands r grp 0 = .error (waitFor (grp ++ [.known 0])) := by
  have hall : allKnown (grp ++ [.known 0]) = .error (waitFor (grp ++ [.known 0])) := by
    obtain ⟨v, hv, hlate⟩ := hl
    exact allKnown_late ⟨v, by simp [hv], hlate⟩
  have hget : r.get 0 = .known 0 := rfl
  simp only [State.cmdOperands, ne_eq, not_true_eq_false, if_false, hget, hall]
  rfl

/-- The instruction puts a copy command at the end of its core's copy queue while that holds fewer than 32, and parks with cause 1
while it does not; nothing else changes (R258). -/
def State.EntersCopy (s : State) (i : Instr) (r : Run) (kind : CopyKind) (ws : List Word) (ref : Word) : Prop :=
  ((s.core s.cur).copyq.length < 32 → exec i s = .next (s.setCore s.cur { s.issued r 1 with
    copyq := (s.core s.cur).copyq ++ [copyCmd (s.core s.cur).nextSeq r.origin kind ws ref] })) ∧
  (32 ≤ (s.core s.cur).copyq.length → exec i s = .next (s.park s.cur r 0 1 .copyQueue))

/-- The instruction puts a tile command at the end of its core's tile queue while that holds fewer than 32, and parks with cause 1
while it does not; nothing else changes (R169). -/
def State.EntersTile (s : State) (i : Instr) (r : Run) (kind : TileKind) (ws : List Word) (ref : Word) : Prop :=
  ((s.core s.cur).tileq.length < 32 → exec i s = .next (s.setCore s.cur { s.issued r 1 with
    tileq := (s.core s.cur).tileq ++ [tileCmd (s.core s.cur).nextSeq r.origin kind ws ref] })) ∧
  (32 ≤ (s.core s.cur).tileq.length → exec i s = .next (s.park s.cur r 0 1 .tileQueue))

theorem State.Meets.entersCopy {kind : CopyKind} (hm : s.Meets r i (s.issueCopy r kind grp y)) (hr : (s.core s.cur).run = some r)
    (hops : s.cmdOperands r grp y = .ok (ws, ref)) : s.EntersCopy i r kind ws ref := by
  rw [State.issueCopy, hops] at hm
  refine ⟨fun hroom => ?_, fun hfull => ?_⟩
  · refine (hm.leaves (c := { s.core s.cur with
      nextSeq := (s.core s.cur).nextSeq + 1
      copyq := (s.core s.cur).copyq ++ [copyCmd (s.core s.cur).nextSeq r.origin kind ws ref] }) ?_ hr :)
    simp [bind, Except.bind, not_le.2 hroom, State.newSeq, State.onCore_eq]
  · simp only [bind, Except.bind, hfull, if_true] at hm
    exact hm

theorem State.Meets.entersTile {kind : TileKind} (hm : s.Meets r i (s.issueTile r kind grp y)) (hr : (s.core s.cur).run = some r)
    (hops : s.cmdOperands r grp y = .ok (ws, ref)) : s.EntersTile i r kind ws ref := by
  rw [State.issueTile, hops] at hm
  refine ⟨fun hroom => ?_, fun hfull => ?_⟩
  · refine (hm.leaves (c := { s.core s.cur with
      nextSeq := (s.core s.cur).nextSeq + 1
      tileq := (s.core s.cur).tileq ++ [tileCmd (s.core s.cur).nextSeq r.origin kind ws ref] }) ?_ hr :)
    simp [bind, Except.bind, not_le.2 hroom, State.newSeq, State.onCore_eq]
  · simp only [bind, Except.bind, hfull, if_true] at hm
    exact hm

/-- What stops a command at its operands stops it before it enters a queue. -/
theorem State.issueCopy_stops {e : Stop} (hops : s.cmdOperands r grp y = .error e) (kind : CopyKind) :
    s.issueCopy r kind grp y = .error e := by
  rw [State.issueCopy, hops]
  rfl

theorem State.issueTile_stops {e : Stop} (hops : s.cmdOperands r grp y = .error e) (kind : TileKind) :
    s.issueTile r kind grp y = .error e := by
  rw [State.issueTile, hops]
  rfl

/-- A command without operands waits for none. -/
theorem State.cmdOperands_none (ha : (s.core s.cur).acqPending r.tid = []) : s.cmdOperands r [] 0 = .ok ([], 0) :=
  State.cmdOperands_ok (ws := []) rfl rfl (absurd rfl) ha

/-! ## Ranges of scratch (R155, R176) -/

theorem State.inScratch_iff {a n : Nat} : s.inScratch a n = true ↔ s.fstore ≤ a ∧ a + n ≤ localEnd := by
  simp [State.inScratch]

/-- A check whose failure is the fault that follows it in any case decides nothing. -/
theorem need_then_fault {α : Type} {x : Except Stop α} {code addr : Nat} (c : Bool) (hx : x = .error (.fault code addr 0)) :
    (do need c code addr; x) = .error (.fault code addr 0) := by
  cases c with
  | false => rfl
  | true => exact hx

/-- The second operand of RCFG: a depth, and a flag above it (R155, R374). -/
theorem ringDepth_fields {depth : Nat} (hd : depth < 128) (bs : Bool) :
    let w : Word := BitVec.ofNat 64 (depth + if bs then 256 else 0)
    field w 63 9 = 0 ∧ field w 7 7 = 0 ∧ field w 6 0 = depth := by
  cases bs <;>
  · simp only [field, BitVec.toNat_ofNat, Nat.shiftRight_eq_div_pow, if_true, Bool.false_eq_true, if_false]
    omega

end Commands

section Rings

variable {s : State} {r : Run} {g : Guard} {xg : XReg}

/-- RCFG of a ring whose tiles and descriptors lie in scratch, apart from each other, enters the tile queue (R155). -/
theorem rcfg_meets (h : s.Issues r g) {q : BitVec 3} {base depthw desc : Word} {depth : Nat}
    (hg : r.group xg 3 = [.known base, .known depthw, .known desc]) (hbase : r.reg xg.toNat = .known base)
    (hdepth : r.reg (xg.toNat + 1) = .known depthw) (hdesc : r.reg (xg.toNat + 2) = .known desc)
    (hhigh : field depthw 63 9 = 0) (hbit : field depthw 7 7 = 0) (hd : field depthw 6 0 = depth)
    (hb : base.toNat % 512 = 0) (h2 : 2 ≤ depth) (h64 : depth ≤ 64) (hal : desc.toNat % 8 = 0)
    (htiles : s.inScratch base.toNat (512 * depth) = true) (hdescs : s.inScratch desc.toNat (8 * depth) = true)
    (hapart : base.toNat + 512 * depth ≤ desc.toNat ∨ desc.toNat + 8 * depth ≤ base.toNat) :
    s.Meets r (.rcfg g q xg) (s.issueTile r (.rcfg q.toNat) (r.group xg 3) 0) := by
  have hm := meets_guarded h (exec_rcfg g q xg s)
  have htwo : s.inScratch base.toNat 1024 = true := by
    obtain ⟨hlo, hhi⟩ := State.inScratch_iff.1 htiles
    exact State.inScratch_iff.2 ⟨hlo, by omega⟩
  have hpair : s.inScratch desc.toNat 16 = true := by
    obtain ⟨hlo, hhi⟩ := State.inScratch_iff.1 hdescs
    exact State.inScratch_iff.2 ⟨hlo, by omega⟩
  have hall : allKnown (r.group xg 3) = .ok [base, depthw, desc] := by rw [hg]; exact allKnown_known [base, depthw, desc]
  have hdisjoint : (decide (base.toNat + 512 * depth ≤ desc.toNat) || decide (desc.toNat + 8 * depth ≤ base.toNat)) = true := by
    simpa using hapart
  simpa [hbase, hdepth, hdesc, hhigh, hbit, hd, hb, h2, h64, hal, htiles, hdescs, htwo, hpair, hall, hdisjoint, wordAt, bind,
    Except.bind] using hm

/-- RCFG of a depth out of range is the ring fault, whatever its other operands (R155, R374). -/
theorem rcfg_faults (h : s.Issues r g) {q : BitVec 3} {base depthw : Word} (hbase : r.reg xg.toNat = .known base)
    (hdepth : r.reg (xg.toNat + 1) = .known depthw) (hd : field depthw 6 0 < 2 ∨ 64 < field depthw 6 0) :
    s.Faults (.rcfg g q xg) r 0x0C 0 0 := by
  have hbad : decide (2 ≤ field depthw 6 0 ∧ field depthw 6 0 ≤ 64) = false := decide_eq_false (by omega)
  refine (meets_guarded h (exec_rcfg g q xg s)).faults ?_ (by decide)
  rw [hbase, hdepth]
  exact need_then_fault _ (by rw [onKnown_known, hbad, Bool.and_false]; rfl)

/-- SSCFG of a stream in scratch enters the tile queue (R176). -/
theorem sscfg_meets (h : s.Issues r g) {ss : BitVec 2} {base len : Word} (hg : r.group xg 2 = [.known base, .known len])
    (hbase : r.reg xg.toNat = .known base) (hlen : r.reg (xg.toNat + 1) = .known len) (h0 : len ≠ 0)
    (hrange : s.inScratch base.toNat len.toNat = true) :
    s.Meets r (.sscfg g ss xg) (s.issueTile r (.sscfg ss.toNat) (r.group xg 2) 0) := by
  have hm := meets_guarded h (exec_sscfg g ss xg s)
  have hone : s.inScratch base.toNat 1 = true := by
    obtain ⟨hlo, hhi⟩ := State.inScratch_iff.1 hrange
    have : len.toNat ≠ 0 := fun e => h0 (BitVec.eq_of_toNat_eq e)
    exact State.inScratch_iff.2 ⟨hlo, by omega⟩
  have hall : allKnown (r.group xg 2) = .ok [base, len] := by rw [hg]; exact allKnown_known [base, len]
  have hsome : (len != 0) = true := bne_iff_ne.2 h0
  simp only [hbase, hlen, onKnown_known, hone, hsome, need_true, hall, wordAt, List.getD_cons_zero, List.getD_cons_succ, hrange, bind,
    Except.bind] at hm
  exact hm

/-- SSCFG of an empty stream is the ring fault (R176). -/
theorem sscfg_faults (h : s.Issues r g) {ss : BitVec 2} {base : Word} (hbase : r.reg xg.toNat = .known base)
    (hlen : r.reg (xg.toNat + 1) = .known 0) : s.Faults (.sscfg g ss xg) r 0x0C 0 0 := by
  refine (meets_guarded h (exec_sscfg g ss xg s)).faults ?_ (by decide)
  rw [hbase, hlen]
  exact need_then_fault _ rfl

/-! ## RADV (R158, R374) -/

/-- RADV of a ring that is not configured is the ring fault. -/
theorem radv_unconfigured (h : s.Issues r g) {q : BitVec 3} (hq : SMap.find (s.core s.cur).rings q.toNat = none) :
    s.Faults (.radv g q xg) r 0x0C 0 0 := by
  refine (meets_guarded h (exec_radv g q xg s)).faults ?_ (by decide)
  simp only [hq]

/-- RADV of a configured ring: its reservations are checked, then the number of tiles. -/
theorem radv_meets (h : s.Issues r g) {q : BitVec 3} {x : Ring} (hq : SMap.find (s.core s.cur).rings q.toNat = some x) :
    s.Meets r (.radv g q xg) (do
      need (x.res == 0) 0x0C 0
      let n ← r.known xg
      need (decide (1 ≤ n.toNat ∧ n.toNat ≤ x.depth - x.count)) 0x0C 0
      .ok (s.setCore s.cur { s.core s.cur with
        rings := SMap.set (s.core s.cur).rings q.toNat { x with count := x.count + n.toNat } })) := by
  have hm := meets_guarded h (exec_radv g q xg s)
  simp only [hq] at hm
  exact hm

/-- RADV of a ring without reservations adds the tiles that there is room for. -/
theorem radv_counts (h : s.Issues r g) {q : BitVec 3} {x : Ring} {w : Word} (hq : SMap.find (s.core s.cur).rings q.toNat = some x)
    (hres : x.res = 0) (hw : r.get xg = .known w) : s.Meets r (.radv g q xg) (do
      need (decide (1 ≤ w.toNat ∧ w.toNat ≤ x.depth - x.count)) 0x0C 0
      .ok (s.setCore s.cur { s.core s.cur with
        rings := SMap.set (s.core s.cur).rings q.toNat { x with count := x.count + w.toNat } })) := by
  have hm := radv_meets (xg := xg) h hq
  rw [beq_iff_eq.2 hres, Run.known_eq hw] at hm
  exact hm

end Rings

/-- Settles O44: with operands that are known a command enters its queue (`State.Meets.entersCopy`, `State.Meets.entersTile`), a
bad reference and a late operand stop it before (`State.cmdOperands_bad`, `State.cmdOperands_late`), and RCFG, SSCFG and RADV check
their ranges first. -/
theorem engineCommands : Obligations.EngineCommands := by
  unfold Obligations.EngineCommands
  refine ⟨fun s r g fn gf byt n xg y ref h => ?copy, fun s r g n t sc sat q qa qb ss acc val act rnd tag xg y ref h ha => ?tile⟩
  case copy =>
    intro queued
    refine ⟨fun p hp => ?_, fun ha => ?_⟩
    · have hm : s.Meets r p.1 (s.issueCopy r p.2.1 (r.group xg p.2.2) y) := by
        simp only [List.mem_cons, List.not_mem_nil, or_false] at hp
        obtain rfl | rfl | rfl | rfl := hp
        · exact meets_guardedN h (exec_cpy ..)
        · exact meets_guardedN h (exec_cpy2 ..)
        · exact meets_guardedN h (exec_cpym ..)
        · exact meets_guardedN h (exec_gthr ..)
      exact ⟨fun ws _ hg hy hok ha => hm.entersCopy h.1 (State.cmdOperands_ok hg hy hok ha),
        fun hy0 hy hbad => hm.faults (State.issueCopy_stops (State.cmdOperands_bad hy0 hy hbad) _) (by decide),
        fun hy0 hl => hm.parks (State.issueCopy_stops (hy0 ▸ State.cmdOperands_late hl) _)⟩
    · exact State.Meets.entersCopy (meets_guarded h (exec_fenceqCt g s)) h.1 (State.cmdOperands_none ha)
  case tile =>
    intro queued enters
    refine ⟨fun p hp => ?_, ?_, ?_, fun base desc depth bs hg hbase hdepth hdesc hb hd => ?_,
      fun base len hg hbase hlen => ⟨fun h0 hlo hhi => ?_, fun h0 => sscfg_faults h hbase (h0 ▸ hlen)⟩,
      radv_unconfigured h, fun x w hq => ?_⟩
    · have hm : s.Meets r p.1 (s.issueTile r p.2.1 (r.group xg p.2.2) y) := by
        simp only [List.mem_cons, List.not_mem_nil, or_false] at hp
        obtain rfl | rfl | rfl | rfl | rfl := hp
        · exact meets_guardedN h (exec_mma ..)
        · exact meets_guardedN h (exec_mmas ..)
        · exact meets_guardedN h (exec_mmg ..)
        · exact meets_guardedN h (exec_accld ..)
        · exact meets_guardedN h (exec_accst ..)
      exact ⟨fun ws _ hg hy hok => hm.entersTile h.1 (State.cmdOperands_ok hg hy hok ha),
        fun hy0 hy hbad => hm.faults (State.issueTile_stops (State.cmdOperands_bad hy0 hy hbad) _) (by decide),
        fun hy0 hl => hm.parks (State.issueTile_stops (hy0 ▸ State.cmdOperands_late hl) _)⟩
    · exact State.Meets.entersTile (meets_guarded h (exec_accz g acc s)) h.1 (State.cmdOperands_none ha)
    · exact State.Meets.entersTile (meets_guarded h (exec_fenceqTc g s)) h.1 (State.cmdOperands_none ha)
    · obtain ⟨hhigh, hbit, hfield⟩ := ringDepth_fields hd bs
      refine ⟨fun h2 h64 hal hlo hhi hdlo hdhi hapart => ?_, fun hbad => ?_⟩
      · have hm := rcfg_meets (q := q) h hg hbase hdepth hdesc hhigh hbit hfield hb h2 h64 hal (State.inScratch_iff.2 ⟨hlo, hhi⟩)
          (State.inScratch_iff.2 ⟨hdlo, hdhi⟩) hapart
        exact hm.entersTile h.1 (State.cmdOperands_ok hg rfl (absurd rfl) ha)
      · exact rcfg_faults h hbase hdepth (hfield.symm ▸ hbad)
    · have hm := sscfg_meets (ss := ss) h hg hbase hlen h0 (State.inScratch_iff.2 ⟨hlo, hhi⟩)
      exact hm.entersTile h.1 (State.cmdOperands_ok (ws := [base, len]) hg rfl (absurd rfl) ha)
    · have hm := radv_meets (xg := xg) h hq
      refine ⟨fun hres => ?_, fun hres hl => ?_, fun hres hw h1 hroom => ?_, fun hres hw hout => ?_⟩
      · exact hm.faults (by rw [beq_eq_false_iff_ne.2 hres]; rfl) (by decide)
      · exact hm.parks (by rw [hres, Run.known_late hl]; rfl)
      · have hm := radv_counts h hq hres hw
        rw [decide_eq_true ⟨h1, hroom⟩] at hm
        exact hm.leaves rfl h.1
      · have hm := radv_counts h hq hres hw
        have hbad : ¬ (1 ≤ w.toNat ∧ w.toNat ≤ x.depth - x.count) := by
          rcases hout with rfl | hlt
          · simp
          · omega
        rw [decide_eq_false hbad] at hm
        exact hm.faults rfl (by decide)

end Sys2Proof.Machine
end

section
/-! SUPPORT. A command alone in its copy queue: what its pieces, its completion and its signal make of its core (R228, R258-R260,
R306). -/

namespace Sys2Proof.Machine

open Sys2Proof

/-! ## The queue of one command -/

/-- A core with another copy queue. -/
def Core.withCopies (c : Core) (q : List CopyCmd) : Core := { c with copyq := q }

@[simp] theorem Core.copyq_withCopies (c : Core) (q : List CopyCmd) : (c.withCopies q).copyq = q := rfl
@[simp] theorem Core.lmem_withCopies (c : Core) (q : List CopyCmd) : (c.withCopies q).lmem = c.lmem := rfl
@[simp] theorem Core.withCopies_withCopies (c : Core) (q q' : List CopyCmd) : (c.withCopies q).withCopies q' = c.withCopies q' := rfl

theorem Core.lmem_forget (c : Core) (id : Nat) : (c.forget id).lmem = c.lmem := rfl

theorem Core.onCopy_alone {c : Core} {k : CopyCmd} (hq : c.copyq = [k]) (f : CopyCmd → CopyCmd) :
    c.onCopy k.id f = c.withCopies [f k] := by
  simp [Core.onCopy, Core.withCopies, hq]

theorem Core.engineBad_of_unread {c : Core} (h : c.seen = []) (cmd use a n : Nat) :
    c.engineBad cmd use a n = badOffsets c.lpoison a n := by
  simp [Core.engineBad, Core.seenFor, h]

theorem Core.localSource_of_unread {c : Core} (h : c.seen = []) (cmd a n : Nat) :
    c.localSource cmd a n = (Cells.read c.lmem a n, badOffsets c.lpoison a n) := by
  rw [Core.localSource, Core.engineBytes_of_unread h, Core.engineBad_of_unread h]

section Alone

variable {u : State} {n : Nat} {k : CopyCmd}

theorem State.settleCopies_running (hq : (u.core n).copyq = [k]) (he : k.ended = false) : u.settleCopies n = u := by
  simp [State.settleCopies, State.settleCopy, hq, he]

/-- A command that has ended and fills no ring leaves the queue: none stands before it (R228, R258). -/
theorem State.settleCopies_ended (hq : (u.core n).copyq = [k]) (he : k.ended = true) (hr : k.resv = none) :
    u.settleCopies n = u.endCopy n k := by
  have hslots : k.holdsSlots = false := by simp [CopyCmd.holdsSlots, hr]
  have hsame : (u.setCore n (u.core n)).endCopy n k = u.endCopy n k := by simp [State.endCopy, State.onCore_eq]
  simp [State.settleCopies, State.settleCopy, hq, he, Core.publishEnded, hslots, State.onCore_eq, hsame]

/-- The core that the only command of its copy queue has left. -/
def Core.copyLeft (c : Core) (k : CopyCmd) : Core := (c.forget k.id).withCopies []

@[simp] theorem Core.copyq_copyLeft (c : Core) (k : CopyCmd) : (c.copyLeft k).copyq = [] := rfl
@[simp] theorem Core.lmem_copyLeft (c : Core) (k : CopyCmd) : (c.copyLeft k).lmem = c.lmem := rfl

theorem State.leaves_queue (hq : (u.core n).copyq = [k]) :
    (u.onCore n fun c => { c.forget k.id with copyq := c.copyq.filter (·.id != k.id) }) = u.setCore n ((u.core n).copyLeft k) := by
  simp [State.onCore_eq, hq, Core.copyLeft, Core.withCopies]

/-- A command without a reference that has faulted leaves with its record (R306). -/
theorem State.endCopy_faulted {code addr : Nat} {detail : Word} (hq : (u.core n).copyq = [k]) (hf : k.fault = some ⟨code, addr, detail⟩)
    (ht : k.told = false) (hy : k.y = 0) : u.endCopy n k = (u.setCore n ((u.core n).copyLeft k)).sendRecord k.org.region
      (Rec.of code 1 (.core n) k.org addr detail) := by
  simp [State.endCopy, State.leaves_queue hq, hf, ht, hy]

/-- A command in event mode that has met no error leaves with its signal (R260). -/
theorem State.endCopy_done (hq : (u.core n).copyq = [k]) (hf : k.fault = none) (he : k.err = false) (hb : k.byt = false) :
    u.endCopy n k = if k.y = 0 then u.setCore n ((u.core n).copyLeft k)
      else (u.setCore n ((u.core n).copyLeft k)).sendCompletion n k.org k.y 1 false := by
  simp [State.endCopy, State.leaves_queue hq, hf, he, hb]

end Alone

/-- A completion with a valid route is one packet more; no memory and no core changes (Table 1-2). -/
theorem State.sendCompletion_sends {s : State} {n : Nat} {o : Origin} {y : Word} (dec : Nat) (err : Bool)
    (hroute : s.routeOk (Ref.of y).module = true) (hreach : s.Reaches (s.refAgent (Ref.of y))) :
    s.SameStores (s.sendCompletion n o y dec err) ∧ (s.sendCompletion n o y dec err).net =
      s.net ++ [⟨if s.refAgent (Ref.of y) = .core n then .rsp else .sig, .core n, s.refAgent (Ref.of y), o.region,
        .signal y dec .none false err⟩] := by
  rw [State.sendCompletion, if_pos hroute]
  exact ⟨State.inject_sameStores .., State.net_inject hreach⟩

/-! ## Landing (R194, R228, R260) -/

/-- A command in event mode whose last piece is in flight, alone in its queue; it has met no error and fills no ring. -/
structure State.LastPiece (u : State) (n : Nat) (k : CopyCmd) (pos len : Nat) : Prop where
  queue : (u.core n).copyq = [k]
  unlaid : (u.core n).laid = []
  started : k.started = true
  free : k.held = false
  faultless : k.fault = none
  sound : k.err = false
  event : k.byt = false
  noRing : k.resv = none
  issued : k.pos = k.total
  pieces : k.pieces = [⟨pos, len, 1⟩]

section Landing

variable {u : State} {n : Nat} {k : CopyCmd} {pos len at_ : Nat} {bs : List Byte}

/-- The core with the bytes of the last piece landed, and its command gone. -/
def Core.landed (c : Core) (k : CopyCmd) (at_ : Nat) (bs : List Byte) : Core := (c.put at_ bs []).copyLeft k

/-- The last piece lands, and its command ends (R260). -/
theorem State.LastPiece.lands (h : u.LastPiece n k pos len) (hok : u.localOk n k.org.fid at_ bs.length true = true) (src : Nat) :
    (u.landPiece n k pos at_ src bs []).settleCopies n = if k.y = 0 then u.setCore n ((u.core n).landed k at_ bs)
      else (u.setCore n ((u.core n).landed k at_ bs)).sendCompletion n k.org k.y 1 false := by
  have hland : u.landPiece n k pos at_ src bs [] =
      u.setCore n (((u.core n).put at_ bs []).withCopies [{ k with pieces := [] }]) := by
    have hq : ((u.core n).put at_ bs []).copyq = [k] := h.queue
    simp [State.landPiece, hok, Core.layRest_of_unlaid h.unlaid, State.pieceDone, State.onCore_eq, hq, Core.onCopy_alone hq,
      h.event, h.pieces]
  have hended : CopyCmd.ended { k with pieces := [] } = true := by
    show (k.started && ([] : List Piece).isEmpty && !k.held && (k.fault.isSome || decide (k.total ≤ k.pos))) = true
    simp [h.started, h.free, h.issued]
  rw [hland, State.settleCopies_ended (k := { k with pieces := [] }) (by simp) hended h.noRing,
    State.endCopy_done (k := { k with pieces := [] }) (by simp) h.faultless h.sound h.event]
  simp only [State.core_setCore, if_true, State.setCore_setCore]
  rfl

/-- What the landing of the last piece leaves: the bytes where they belong and no others, the queue empty, and the command's
signal (R194, R228, R260). -/
theorem State.LastPiece.leaves (h : u.LastPiece n k pos len) (hok : u.localOk n k.org.fid at_ bs.length true = true) (src : Nat)
    (hm : Memory.wf (u.core n).lmem = true)
    (hy : k.y ≠ 0 → u.routeOk (Ref.of k.y).module = true ∧ u.Reaches (u.refAgent (Ref.of k.y))) :
    let t := (u.landPiece n k pos at_ src bs []).settleCopies n
    (t.core n).copyq = [] ∧ t.mem = u.mem ∧ Cells.read (t.core n).lmem at_ bs.length = bs ∧
      (∀ b, b < at_ ∨ at_ + bs.length ≤ b → Cells.get (t.core n).lmem b = Cells.get (u.core n).lmem b) ∧
      t.net = u.net ++ (if k.y = 0 then [] else [⟨if u.refAgent (Ref.of k.y) = .core n then .rsp else .sig, .core n,
        u.refAgent (Ref.of k.y), k.org.region, .signal k.y 1 .none false false⟩]) := by
  intro t
  obtain ⟨hread, hkeep⟩ := Core.put_reads hm at_ bs []
  obtain ⟨hstores, hnet⟩ : (u.setCore n ((u.core n).landed k at_ bs)).SameStores t ∧
      t.net = u.net ++ (if k.y = 0 then [] else [⟨if u.refAgent (Ref.of k.y) = .core n then .rsp else .sig, .core n,
        u.refAgent (Ref.of k.y), k.org.region, .signal k.y 1 .none false false⟩]) := by
    by_cases h0 : k.y = 0
    · have ht : t = u.setCore n ((u.core n).landed k at_ bs) := (h.lands hok src).trans (if_pos h0)
      rw [ht, if_pos h0]
      exact ⟨.refl _, by simp⟩
    · obtain ⟨hroute, hreach⟩ := hy h0
      have ht : t = (u.setCore n ((u.core n).landed k at_ bs)).sendCompletion n k.org k.y 1 false :=
        (h.lands hok src).trans (if_neg h0)
      rw [ht, if_neg h0]
      exact State.sendCompletion_sends (s := u.setCore n ((u.core n).landed k at_ bs)) 1 false hroute hreach
  rw [hstores.core, hstores.mem, State.core_setCore_self]
  exact ⟨rfl, rfl, hread, hkeep, hnet⟩

end Landing

/-! ## A CPY's operands (R259, R260, R263) -/

/-- A CPY that fills no ring, from `a` to `d`, of `l` bytes. -/
structure CopyCmd.Copies (k : CopyCmd) (f : CopyFn) (d a l : Word) : Prop where
  kind : k.kind = .cpy f
  noRing : f.r = false
  operands : k.grp = [d, a, l]
  unreserved : k.resv = none

/-- A range of one side of a copy that lies in its address range passes (R263). -/
theorem copySide_passes {global : Bool} {x n : Nat} (hn : 0 < n) (hx : x + n ≤ if global = true then 2 ^ 52 else 0x180000) :
    (if global = true then decide (x < 2 ^ 52) && globalRange x n else n == 0 || localRange x n) = true := by
  cases global with
  | true => exact Bool.and_eq_true_iff.2 ⟨decide_eq_true (by rw [if_pos rfl] at hx; omega), decide_eq_true hx⟩
  | false => exact Bool.or_eq_true_iff.2 (.inr (decide_eq_true hx))

section Copies

variable {k : CopyCmd} {f : CopyFn} {d a l : Word} (h : k.Copies f d a l)
include h

theorem CopyCmd.Copies.args : k.arg 0 = d.toNat ∧ k.arg 1 = a.toNat ∧ k.arg 2 = l.toNat := by
  simp [CopyCmd.arg, h.operands, wordAt]

theorem CopyCmd.Copies.byteLen : k.byteLen = l.toNat := by simp [CopyCmd.byteLen, h.kind, h.args]
theorem CopyCmd.Copies.total : k.total = l.toNat := by simp [CopyCmd.total, h.kind, h.byteLen]
theorem CopyCmd.Copies.rows : k.rows = (l.toNat, 1, 0, 0) := by simp [CopyCmd.rows, h.kind, h.args]
theorem CopyCmd.Copies.dir : k.dir = f.dir := by simp [CopyCmd.dir, h.kind]
theorem CopyCmd.Copies.byt : k.byt = f.byt := by simp [CopyCmd.byt, h.kind]
theorem CopyCmd.Copies.ring : k.ring = none := by simp [CopyCmd.ring, h.kind, h.noRing]
theorem CopyCmd.Copies.hints : k.hints = (f.lu, f.evp) := by simp [CopyCmd.hints, h.kind]

/-- A byte of a CPY stands as far behind its source as behind its destination. -/
theorem CopyCmd.Copies.addrs_wrapped {pos : Nat} (hp : pos < l.toNat) :
    k.addrs pos = ((a.toNat + pos) % 2 ^ 64, (d.toNat + pos) % 2 ^ 64) := by
  simp only [CopyCmd.addrs, h.rows, h.unreserved, h.args, Nat.div_eq_of_lt hp, Nat.mod_eq_of_lt hp, Nat.zero_mul, Nat.add_zero]

theorem CopyCmd.Copies.addrs {pos : Nat} (hp : pos < l.toNat) (ha : a.toNat + l.toNat ≤ 2 ^ 52) (hd : d.toNat + l.toNat ≤ 2 ^ 52) :
    k.addrs pos = (a.toNat + pos, d.toNat + pos) := by
  rw [h.addrs_wrapped hp, Nat.mod_eq_of_lt (by omega), Nat.mod_eq_of_lt (by omega)]

theorem CopyCmd.Copies.pieceLen {pos : Nat} (hp : pos < l.toNat) (ha : a.toNat + l.toNat ≤ 2 ^ 52)
    (hd : d.toNat + l.toNat ≤ 2 ^ 52) : k.pieceLen pos =
      min (l.toNat - pos) (min (128 - (a.toNat + pos) % 128) (128 - (d.toNat + pos) % 128)) := by
  simp only [CopyCmd.pieceLen, h.kind, h.rows, h.addrs hp ha hd, Nat.mod_eq_of_lt hp]

/-- A CPY of no more than its limit whose source and destination lie in their address ranges passes its checks (R260, R263). -/
theorem CopyCmd.Copies.check_passes (c : Core) (h0 : 0 < l.toNat) (hl : l.toNat < 2 ^ 24)
    (ha : a.toNat + l.toNat ≤ if f.dir = .gl ∨ f.dir = .gg then 2 ^ 52 else 0x180000)
    (hd : d.toNat + l.toNat ≤ if f.dir = .lg ∨ f.dir = .gg then 2 ^ 52 else 0x180000) : c.checkCopy k = .ok () := by
  have hlen : ¬ (if k.byt then 2 ^ 24 - 1 else 2 ^ 24) < k.byteLen := by rw [h.byteLen]; split <;> omega
  have hring : c.ringCheck k = .ok () := by simp [Core.ringCheck, h.ring]
  have hsrc := copySide_passes (global := f.dir == .gl || f.dir == .gg) h0 (by simpa using ha)
  have hdst := copySide_passes (global := f.dir == .lg || f.dir == .gg) h0 (by simpa using hd)
  simp only [Core.checkCopy, h.rows, h.kind, h.args, h.dir, h.ring, hring, List.range_one, List.map_cons, List.map_nil, Nat.zero_mul,
    Nat.add_zero, Nat.mod_eq_of_lt (BitVec.isLt _), List.find?, hsrc, hdst, hlen, Bool.not_true, Bool.false_eq_true, false_and, false_or,
    if_false]
  rfl

/-- A longer one has the format fault (R260). -/
theorem CopyCmd.Copies.check_fails (c : Core) (hl : 2 ^ 24 < l.toNat) : c.checkCopy k = .error (0x07, 0) := by
  have hlen : (if k.byt then 2 ^ 24 - 1 else 2 ^ 24) < k.byteLen := by rw [h.byteLen]; split <;> omega
  simp only [Core.checkCopy, h.rows, h.kind]
  rw [if_pos (.inl hlen)]
  rfl

end Copies

end Sys2Proof.Machine
end

section
/-! PROOF. O56: a command starts, its pieces are issued and land, and what arrives from other cores and for gather units (R258-R260,
R267, R270, R306). -/

namespace Sys2Proof.Machine

open Sys2Proof

/-! ## Start (R258, R260, R306) -/

/-- A command that has started with a fault of its checks. -/
def CopyCmd.refused (k : CopyCmd) (code addr : Nat) : CopyCmd := CopyCmd.fail { k with started := true } code addr 0

/-- A command that starts as its checks have come out: with its work before it, or with their fault. -/
def CopyCmd.begun (k : CopyCmd) : Except (Nat × Nat) Unit → CopyCmd
  | .ok _ => { k with started := true, recv := [] }
  | .error e => k.refused e.1 e.2

theorem CopyCmd.fault_refused {k : CopyCmd} (hf : k.fault = none) (code addr : Nat) :
    (k.refused code addr).fault = some ⟨code, addr, 0⟩ := by
  simp [CopyCmd.refused, CopyCmd.fail, hf]

/-- It has no piece to wait for. -/
theorem CopyCmd.ended_refused {k : CopyCmd} (hf : k.fault = none) (hp : k.pieces = []) (code addr : Nat) :
    (k.refused code addr).ended = true := by
  have hpieces : (k.refused code addr).pieces = [] := hp
  have hstarted : (k.refused code addr).started = true := rfl
  have hheld : (k.refused code addr).held = false := rfl
  simp [CopyCmd.ended, CopyCmd.fault_refused hf, hpieces, hstarted, hheld]

section Start

variable {s : State} {n : Nat} {k : CopyCmd} {f : CopyFn} {d a l : Word}

/-- A CPY that nothing holds back, alone in its queue and not started, is the next to start (R258). -/
theorem State.nextCopy_alone (hq : (s.core n).copyq = [k]) (hz : (s.core n).zeroing = false) (hb : (s.core n).barriers = [])
    (ha : s.setAside k.org.region = false) (hs : k.started = false) (hh : k.held = false) (hk : k.kind = .cpy f) :
    s.nextCopy n = some k := by
  simp [State.nextCopy, hq, hz, hs, hh, ha, hk, Core.mustWait, hb]

/-- A CPY that fills no ring starts, or takes the fault of its checks (R258, R306). -/
theorem copyStart_begins (hn : s.nextCopy n = some k) (hq : (s.core n).copyq = [k]) (h : k.Copies f d a l) :
    exec (.copyCommandStart n) s = .next ((s.setCore n (((s.core n).forget k.id).withCopies
      [k.begun ((s.core n).checkCopy k)])).settleCopies n) := by
  have hq' : ((s.core n).forget k.id).copyq = [k] := hq
  rw [exec_copyCommandStart, execCopyCommandStart]
  simp only [hn, h.kind, h.ring, State.onCore_eq, Core.onCopy_alone hq']
  cases (s.core n).checkCopy k <;> rw [← h.kind] <;> rfl

theorem copy_starts (hn : s.nextCopy n = some k) (hq : (s.core n).copyq = [k]) (h : k.Copies f d a l) (hpos : k.pos = 0)
    (hf : k.fault = none) (h0 : 0 < l.toNat) (hc : (s.core n).checkCopy k = .ok ()) :
    ∃ t, exec (.copyCommandStart n) s = .next t ∧ (t.core n).copyq = [{ k with started := true, recv := [] }] ∧
      t.net = s.net ∧ s.SameBytes t := by
  have hbegun : k.begun ((s.core n).checkCopy k) = { k with started := true, recv := [] } := by rw [hc]; rfl
  have hrunning : CopyCmd.ended { k with started := true, recv := [] } = false := by
    show (true && k.pieces.isEmpty && !k.held && (k.fault.isSome || decide (k.total ≤ k.pos))) = false
    have : ¬ l.toNat ≤ 0 := by omega
    simp [hf, hpos, h.total, this]
  rw [copyStart_begins hn hq h, hbegun, State.settleCopies_running (k := { k with started := true, recv := [] }) (by simp) hrunning]
  exact ⟨_, rfl, by simp, rfl, State.sameBytes_setCore s (by simp [Core.lmem_forget])⟩

theorem copy_start_fails (hn : s.nextCopy n = some k) (hq : (s.core n).copyq = [k]) (h : k.Copies f d a l) (hp : k.pieces = [])
    (hf : k.fault = none) (ht : k.told = false) (hy : k.y = 0) (hd : s.domainOf k.org.region = some 1) {code addr : Nat}
    (hc : (s.core n).checkCopy k = .error (code, addr)) :
    ∃ t, exec (.copyCommandStart n) s = .next t ∧ (t.core n).copyq = [] ∧ s.SameBytes t ∧ t.Reports code 1 (.core n) := by
  have hbegun : k.begun ((s.core n).checkCopy k) = k.refused code addr := by rw [hc]; rfl
  have hdomain (c : Core) : (s.setCore n c).domainOf k.org.region = some 1 :=
    (State.domainOf_of (State.regions_setCore ..) _).trans hd
  rw [copyStart_begins hn hq h, hbegun,
    State.settleCopies_ended (k := k.refused code addr) (by simp) (CopyCmd.ended_refused hf hp code addr) h.unreserved,
    State.endCopy_faulted (k := k.refused code addr) (by simp) (CopyCmd.fault_refused hf code addr) ht hy, State.setCore_setCore,
    State.core_setCore_self]
  refine ⟨_, rfl, ?_, ?_, State.sendRecord_reports (hdomain _) rfl rfl rfl (by decide)⟩
  · rw [State.core_sendRecord, State.core_setCore_self, Core.copyq_copyLeft]
  · exact (State.sameBytes_setCore s (by simp [Core.lmem_forget])).trans (State.sendRecord_sameStores ..).sameBytes

end Start

/-! ## Pieces (R259, R261) -/

/-- A CPY with pieces to issue, alone in its queue, of a region whose copy bytes are not limited; nothing has been read ahead. -/
structure State.HasPiece (s : State) (n : Nat) (k : CopyCmd) (f : CopyFn) (d a l : Word) (g : Region) : Prop
    extends k.Copies f d a l where
  queue : (s.core n).copyq = [k]
  started : k.started = true
  faultless : k.fault = none
  free : k.held = false
  unread : (s.core n).seen = []
  left : k.pos < l.toNat
  source : a.toNat + l.toNat ≤ 2 ^ 52
  target : d.toNat + l.toNat ≤ 2 ^ 52
  region : s.region k.org.region = some g
  unlimited : g.copybud = 0xFFFFFFFF

/-- The length of the next piece of a CPY: the longest within 128-byte lines of both sides (R259). -/
def cpyPiece (d a l : Word) (pos : Nat) : Nat :=
  min (l.toNat - pos) (min (128 - (a.toNat + pos) % 128) (128 - (d.toNat + pos) % 128))

/-- A command with one more piece issued. -/
def CopyCmd.withPiece (k : CopyCmd) (len : Nat) : CopyCmd :=
  { k with pos := k.pos + len, pieces := k.pieces ++ [⟨k.pos, len, 1⟩] }

/-- An engine's operation for a command, as its core numbers it. -/
def Core.engineOp (c : Core) (k : CopyCmd) (b : OpBody) : Op :=
  { id := c.nextSeq, seq := k.seq, org := k.org, deferred := false, far := false, body := b }

theorem State.engineOp_eq (s : State) (n : Nat) (k : CopyCmd) (b : OpBody) : s.engineOp n k b = s.setCore n { s.core n with
    nextSeq := (s.core n).nextSeq + 1, src := (s.core n).src ++ [(s.core n).engineOp k b] } := by
  simp [State.engineOp, State.newSeq, State.onCore_eq, Core.engineOp]

/-- An engine's operation at the source interface: no byte and no command changes. -/
theorem State.engineOp_enters (s : State) (n : Nat) (k : CopyCmd) (b : OpBody) (q : List CopyCmd) :
    let t := (s.setCore n ((s.core n).withCopies q)).engineOp n k b
    (t.core n).copyq = q ∧ s.SameBytes t ∧ (t.core n).src = (s.core n).src ++ [(s.core n).engineOp k b] := by
  rw [State.engineOp_eq, State.setCore_setCore, State.core_setCore_self]
  refine ⟨by simp, State.sameBytes_setCore s (by simp), ?_⟩
  rw [State.core_setCore_self]
  rfl

section Pieces

variable {s : State} {n : Nat} {k : CopyCmd} {f : CopyFn} {d a l : Word} {g : Region} (h : s.HasPiece n k f d a l g)
include h

theorem State.HasPiece.issuing : s.issuing n = some k := by
  have hissues : k.issues = true := by simp [CopyCmd.issues, h.started, h.faultless, h.total, h.left]
  simp [State.issuing, h.queue, hissues, h.free]

theorem State.HasPiece.hasCopy : s.hasCopy n k.org.region = true := by simp [State.hasCopy, h.region, h.unlimited]

theorem State.HasPiece.addPiece (len : Nat) :
    s.addPiece n k len len 1 = s.setCore n ((s.core n).withCopies [k.withPiece len]) := by
  have hforget : (s.core n).forget k.id = s.core n := Core.forgetUse_of_unread h.unread ..
  have hregion : (s.setCore n ((s.core n).withCopies [k.withPiece len])).region k.org.region = some g := h.region
  have hadd : (s.onCore n fun c => (c.forget k.id).onCopy k.id fun x =>
      { x with pos := x.pos + len, pieces := x.pieces ++ [⟨k.pos, len, 1⟩] }) =
      s.setCore n ((s.core n).withCopies [k.withPiece len]) := by
    rw [State.onCore_eq, hforget, Core.onCopy_alone h.queue]
    rfl
  rw [State.addPiece, hadd, State.chargeCopy, hregion]
  exact if_pos h.unlimited

theorem State.HasPiece.len : k.pieceLen k.pos = cpyPiece d a l k.pos := h.pieceLen h.left h.source h.target

theorem State.HasPiece.addrs_pos : k.addrs k.pos = (a.toNat + k.pos, d.toNat + k.pos) := h.addrs h.left h.source h.target

/-- The next piece of a CPY from global memory to local memory is a read at the source interface (R259). -/
theorem State.HasPiece.exec_gl (hf : f.dir = .gl) : exec (.copyPieceIssue n) s = .next
    ((s.setCore n ((s.core n).withCopies [k.withPiece (cpyPiece d a l k.pos)])).engineOp n k
      (.pieceRead k.id k.pos (cpyPiece d a l k.pos) (a.toNat + k.pos) f.lu f.evp)) := by
  simp only [exec_copyPieceIssue, execCopyPieceIssue, h.issuing, h.hasCopy, h.kind, h.len, h.addrs_pos, h.hints, h.dir, hf, h.addPiece]
  rfl

/-- The next piece of a CPY from local memory to global memory is a write at the source interface, of the bytes as they are then
(R259). -/
theorem State.HasPiece.exec_lg (hf : f.dir = .lg) : exec (.copyPieceIssue n) s = .next
    ((s.setCore n ((s.core n).withCopies [k.withPiece (cpyPiece d a l k.pos)])).engineOp n k
      (.pieceWrite k.id k.pos (d.toNat + k.pos) (Cells.read (s.core n).lmem (a.toNat + k.pos) (cpyPiece d a l k.pos))
        (badOffsets (s.core n).lpoison (a.toNat + k.pos) (cpyPiece d a l k.pos)) f.evp)) := by
  simp only [exec_copyPieceIssue, execCopyPieceIssue, h.issuing, h.hasCopy, h.kind, h.len, h.addrs_pos, h.hints, h.dir, hf, h.addPiece,
    Core.localSource_of_unread h.unread]
  rfl

/-- The core with the next piece of a command in its own network interface: an operation that its reply ends. -/
def Core.localPiece (c : Core) (k : CopyCmd) (len src : Nat) : Core :=
  { c.withCopies [k.withPiece len] with
    nextSeq := c.nextSeq + 1
    outst := c.outst ++ [c.engineOp k (.pieceRead k.id k.pos len src false .normal)] }

/-- The next piece of a CPY within local memory is read at once, and its data comes back as a packet (R259). -/
theorem State.HasPiece.exec_ll (hf : f.dir = .ll) : exec (.copyPieceIssue n) s = .next
    ((s.setCore n ((s.core n).localPiece k (cpyPiece d a l k.pos) (a.toNat + k.pos))).send
      ⟨.rsp, .core n, .core n, k.org.region, .readRsp (s.core n).nextSeq
        (Cells.read (s.core n).lmem (a.toNat + k.pos) (cpyPiece d a l k.pos))
        (badOffsets (s.core n).lpoison (a.toNat + k.pos) (cpyPiece d a l k.pos)) 0⟩) := by
  simp only [exec_copyPieceIssue, execCopyPieceIssue, h.issuing, h.hasCopy, h.kind, h.len, h.addrs_pos, h.dir, hf, h.addPiece,
    Core.localSource_of_unread h.unread, State.newSeq, State.onCore_eq, State.setCore_setCore, State.core_setCore_self]
  rfl

theorem State.HasPiece.issues_ll (hf : f.dir = .ll) :
    let len := cpyPiece d a l k.pos
    ∃ t, exec (.copyPieceIssue n) s = .next t ∧ (t.core n).copyq = [k.withPiece len] ∧ s.SameBytes t ∧
      (t.core n).outst = (s.core n).outst ++ [(s.core n).engineOp k (.pieceRead k.id k.pos len (a.toNat + k.pos) false .normal)] ∧
      t.net = s.net ++ [⟨.rsp, .core n, .core n, k.org.region, .readRsp (s.core n).nextSeq
        (Cells.read (s.core n).lmem (a.toNat + k.pos) len) (badOffsets (s.core n).lpoison (a.toNat + k.pos) len) 0⟩] := by
  intro len
  have hcore (c : Core) (p : Packet) : ((s.setCore n c).send p).core n = c := by simp
  refine ⟨_, h.exec_ll hf, ?_, ?_, ?_, State.net_send (State.reaches_of_local nofun)⟩
  · rw [hcore]; rfl
  · exact (State.sameBytes_setCore s (by rfl)).trans (State.send_sameStores ..).sameBytes
  · rw [hcore]; rfl

end Pieces

/-! ## The last piece comes back (R228, R260, R270) -/

section LastPiece

variable {s : State} {i n rgn pos len : Nat} {src : Agent} {o : Op} {k : CopyCmd} {bs : List Byte}

/-- The core that a reply's operation has left: its commands stand as they did. -/
theorem State.LastPiece.ended (h : s.LastPiece n k pos len) (i : Nat) (o : Op) : ((s.drop i).endOp n o none).LastPiece n k pos len := by
  have hcore : ((s.drop i).endOp n o none).core n = (s.core n).ended o none := by
    rw [State.endOp_eq, State.core_setCore_self, State.core_drop]
  exact ⟨by rw [hcore]; exact h.queue, by rw [hcore]; exact h.unlaid, h.started, h.free, h.faultless, h.sound, h.event, h.noRing,
    h.issued, h.pieces⟩

/-- The frames stand as they did, and so does what may be written. -/
theorem State.localOk_ended (i : Nat) (o : Op) (fid a m : Nat) :
    ((s.drop i).endOp n o none).localOk n fid a m true = s.localOk n fid a m true := by
  have hframe : (((s.drop i).endOp n o none).core n).frame fid = (s.core n).frame fid := by
    rw [State.endOp_eq, State.core_setCore_self]
    rfl
  simp only [State.localOk, hframe]
  rfl

/-- The last piece lands once its reply has ended its operation. -/
theorem State.LastPiece.leaves_ended (h : s.LastPiece n k pos len) (i va : Nat) (o : Op) {at_ : Nat}
    (hok : s.localOk n k.org.fid at_ bs.length true = true) (hm : Memory.wf (s.core n).lmem = true)
    (hy : k.y ≠ 0 → s.routeOk (Ref.of k.y).module = true ∧ s.Reaches (s.refAgent (Ref.of k.y))) :
    let t := (((s.drop i).endOp n o none).landPiece n k pos at_ va bs []).settleCopies n
    (t.core n).copyq = [] ∧ t.mem = s.mem ∧ Cells.read (t.core n).lmem at_ bs.length = bs ∧
      (∀ b, b < at_ ∨ at_ + bs.length ≤ b → Cells.get (t.core n).lmem b = Cells.get (s.core n).lmem b) ∧
      t.net = s.net.eraseIdx i ++ (if k.y = 0 then [] else [⟨if s.refAgent (Ref.of k.y) = .core n then .rsp else .sig, .core n,
        s.refAgent (Ref.of k.y), k.org.region, .signal k.y 1 .none false false⟩]) := by
  have hlmem : (((s.drop i).endOp n o none).core n).lmem = (s.core n).lmem := by
    rw [State.endOp_eq, State.core_setCore_self]
    rfl
  have hleaves := (h.ended i o).leaves ((State.localOk_ended ..).trans hok) va (by rw [hlmem]; exact hm) hy
  rw [hlmem] at hleaves
  exact hleaves

/-- The data of a piece for local memory lands (R259). -/
theorem exec_copyPieceComplete_lands (h : s.LastPiece n k pos len) {id va : Nat} {lu : Bool} {evp : Evp}
    (hp : s.packet i = some ⟨.rsp, src, .core n, rgn, .readRsp id bs [] 0⟩) (ho : (s.core n).outstanding id = some o)
    (hb : o.body = .pieceRead k.id pos len va lu evp) {to_ : Nat} (hd : k.dir ≠ .gg) (ha : (k.addrs pos).2 = to_) :
    exec (.copyPieceComplete i) s
      = .next ((((s.drop i).endOp n o none).landPiece n k pos to_ (k.addrs pos).1 bs []).settleCopies n) := by
  rw [exec_copyPieceComplete, execCopyPieceComplete, hp]
  simp only [ho, hb, (h.ended i o).queue]
  simp [State.pieceRead, ← ha, hd]

/-- The data of an element of a gather lands (R270). -/
theorem exec_gatherElementReturn_lands (h : s.LastPiece n k pos len) {size va : Nat} {lu : Bool} {evp : Evp}
    (hp : s.packet i = some ⟨.rsp, src, .core n, rgn, .element k.id pos bs [] 0⟩) (ho : (s.core n).outst = [o])
    (hb : o.body = .element k.id pos size va lu evp) :
    exec (.gatherElementReturn i) s = .next
      ((((s.drop i).endOp n o none).landPiece n k pos (k.elementAt (pos * size)) va bs []).settleCopies n) := by
  rw [exec_gatherElementReturn, execGatherElementReturn, hp]
  simp [ho, hb, State.landElement, (h.ended i o).queue]

end LastPiece

/-! ## Multicast pieces (R265, R267) -/

/-- The first byte of a record is its code (Table 13-2). -/
theorem State.recordWords_firstByte (s : State) {r : Rec} (hs : r.src < 16) (hc : r.code < 256) :
    (wordAt (s.recordWords r) 0).toNat / 2 ^ 56 = r.code := by
  have hcode := congrArg BitVec.toNat (s.recordWords_code r hs)
  rw [BitVec.extractLsb'_toNat, BitVec.toNat_ofNat, Nat.shiftRight_eq_div_pow] at hcode
  have := (wordAt (s.recordWords r) 0).isLt
  omega

/-- The record of a core that refuses a multicast piece for a closed channel. -/
def closedChannel (n rgn : Nat) : Rec := Rec.plain 0x09 3 rgn (.core n)

section Multicast

variable {s : State} {i n m cmd pos off tag rgn : Nat} {bs : List Byte} {ref buf : Word}
  (hp : s.packet i = some ⟨.req, .core m, .core n, rgn, .mcast cmd pos off tag bs []⟩) (hl : (s.core n).laid = [])
  (href : SMap.get (s.core n).land (2 * tag) 0 = ref) (hbuf : SMap.get (s.core n).land (2 * tag + 1) 0 = buf)
include hl href hbuf

theorem State.mcastPlace_unlaid (len : Nat) : s.mcastPlace n m cmd pos off tag len =
    if s.onCoreRef n ref && field buf 63 21 == 0 && s.inScratch (buf.toNat + off + pos) len then
      some (buf.toNat + off + pos, ref) else none := by
  simp only [State.mcastPlace, Core.laidFor, hl, List.filter_nil, Core.landing, href, hbuf]

include hp

/-- A piece for an open channel lands, and its count goes to the slot unit (R267). -/
theorem multicast_lands (hon : s.onCoreRef n ref = true) (hb : buf.toNat < 2 ^ 21) (hlo : s.fstore ≤ buf.toNat + off + pos)
    (hhi : buf.toNat + off + pos + bs.length ≤ 0x180000) (hm : Memory.wf (s.core n).lmem = true) :
    ∃ t, exec (.multicastPieceArrival i) s = .next t ∧ t.mem = s.mem ∧
      Cells.read (t.core n).lmem (buf.toNat + off + pos) bs.length = bs ∧
      (∀ b, b < buf.toNat + off + pos ∨ buf.toNat + off + pos + bs.length ≤ b →
        Cells.get (t.core n).lmem b = Cells.get (s.core n).lmem b) ∧
      t.net = s.net.eraseIdx i ++ [⟨.sig, .core n, .core n, rgn, .count ref bs.length false m cmd pos⟩] := by
  have hfield : field buf 63 21 = 0 := by
    simp only [field, Nat.shiftRight_eq_div_pow]
    omega
  have hplace : s.mcastPlace n m cmd pos off tag bs.length = some (buf.toNat + off + pos, ref) := by
    rw [State.mcastPlace_unlaid hl href hbuf, if_pos]
    simp [hon, hfield, State.inScratch_iff.2 ⟨hlo, hhi⟩]
  have hstep : exec (.multicastPieceArrival i) s = .next (((s.drop i).setCore n ((s.core n).put (buf.toNat + off + pos) bs [])).send
      ⟨.sig, .core n, .core n, rgn, .count ref bs.length false m cmd pos⟩) := by
    rw [exec_multicastPieceArrival, execMulticastPieceArrival, hp]
    simp only [hplace, State.onCore_eq, State.core_drop, Core.layRest_of_unlaid hl]
  obtain ⟨hread, hkeep⟩ := Core.put_reads hm (buf.toNat + off + pos) bs []
  refine ⟨_, hstep, (State.send_sameStores ..).mem, ?_, ?_, State.net_send (State.reaches_of_local nofun)⟩ <;>
    rw [State.core_send, State.core_setCore_self]
  exacts [hread, hkeep]

/-- A piece for a closed channel is refused: a record of the bad reference, and an acknowledgement that says so (R267). -/
theorem multicast_refused (h0 : ref = 0) (hd : s.domainOf rgn = some 1)
    (hfind : (s.core m).copyq.find? (·.id == cmd) = none) :
    ∃ t ws, exec (.multicastPieceArrival i) s = .next t ∧ s.SameBytes t ∧ t.net = s.net.eraseIdx i ++
      [⟨.sig, .core n, .service, 1, .record 1 0 ws⟩, ⟨.rsp, .core n, .core m, rgn, .mcastAck cmd pos false⟩] ∧
      (wordAt ws 0).toNat / 2 ^ 56 = 0x09 := by
  have hclosed : s.onCoreRef n ref = false := by simp [State.onCoreRef, h0]
  have hplace : s.mcastPlace n m cmd pos off tag bs.length = none := by
    rw [State.mcastPlace_unlaid hl href hbuf, hclosed]
    rfl
  have hstep : exec (.multicastPieceArrival i) s = .next (((s.drop i).sendRecord rgn (closedChannel n rgn)).inject n rgn .rsp
      (.core m) (.mcastAck cmd pos false)) := by
    rw [exec_multicastPieceArrival, execMulticastPieceArrival, hp]
    simp only [hplace, Core.landing, href, hclosed, true_or, if_true, State.receiverFault, State.core_drop, hfind]
    rfl
  have hnet : ((s.drop i).sendRecord rgn (closedChannel n rgn)).net = s.net.eraseIdx i ++
      [⟨.sig, .core n, .service, 1, .record 1 0 ((s.drop i).recordWords (closedChannel n rgn))⟩] := by
    rw [State.sendRecord_device (s := s.drop i) hd]
    rfl
  refine ⟨_, (s.drop i).recordWords (closedChannel n rgn), hstep, State.sameBytes_drop (k := i)
    ((State.sendRecord_sameStores ..).trans (State.inject_sameStores ..)).sameBytes, ?_,
    State.recordWords_firstByte _ (show 3 < 16 by decide) (show 0x09 < 256 by decide)⟩
  rw [State.net_inject (dst := .core m) (State.reaches_of_local nofun), hnet, List.append_assoc]
  rfl

end Multicast

/-- A gather unit's window with one more request (R270). -/
def State.withGather (s : State) (g : Nat) (req : GatherReq) : State :=
  { s with gathers := SMap.set s.gathers g (SMap.get s.gathers g [] ++ [req]) }

theorem State.withGather_sameStores (s : State) (g : Nat) (req : GatherReq) : s.SameStores (s.withGather g req) := ⟨rfl, rfl, rfl, rfl⟩

theorem State.gathers_send (s : State) (p : Packet) : (s.send p).gathers = s.gathers := by
  unfold State.send
  split <;> [skip; rfl]
  dsimp only
  split <;> rfl

/-- A gather request enters its unit's window and goes on to its home slice (R270). -/
theorem gatherRequest_enters {s : State} {i g cmd x pa size core rgn : Nat} {cls : PClass} {src : Agent} {lu : Bool} {evp : Evp}
    {sp : Space} (hp : s.packet i = some ⟨cls, src, .gather g, rgn, .gather cmd x pa size lu evp core sp⟩)
    (hroom : (SMap.get s.gathers g []).length < 64) : ∃ t, exec (.gatherRequestArrival i) s = .next t ∧ t.SameCores s ∧
      s.SameBytes t ∧ SMap.get t.gathers g [] = SMap.get s.gathers g [] ++ [⟨cmd, x, core⟩] ∧
      t.net = s.net.eraseIdx i ++ [⟨cls, .gather g, .slice (s.homeSlice pa), rgn,
        .gather cmd x pa size lu evp core sp⟩] := by
  have hstep : exec (.gatherRequestArrival i) s = .next (((s.drop i).withGather g ⟨cmd, x, core⟩).send
      ⟨cls, .gather g, .slice (s.homeSlice pa), rgn, .gather cmd x pa size lu evp core sp⟩) := by
    rw [exec_gatherRequestArrival, execGatherRequestArrival, hp]
    simp only [not_le.2 hroom, if_false]
    rfl
  have hstores := ((s.drop i).withGather_sameStores g ⟨cmd, x, core⟩).trans (State.send_sameStores _
    ⟨cls, .gather g, .slice (s.homeSlice pa), rgn, .gather cmd x pa size lu evp core sp⟩)
  refine ⟨_, hstep, hstores.core, State.sameBytes_drop hstores.sameBytes, ?_, State.net_send (State.reaches_of_local nofun)⟩
  rw [State.gathers_send]
  exact (SMap.get_set ..).trans (if_pos rfl)

/-- Settles O56, event by event: starts (`copy_starts`, `copy_start_fails`), pieces issued (`State.HasPiece`), the last piece landed
(`State.LastPiece`), multicast pieces and gather requests. -/
theorem copyEvents : Obligations.CopyEvents := by
  unfold Obligations.CopyEvents
  refine ⟨fun s n k f d a l hq hz hb hsusp hk hr hg hs hp hh hpos hresv hf ht => ?start,
    fun s n k f d a l g hq hk hr hg hs hf hh hresv hseen hpos ha hd hreg hbud => ?issue,
    fun s i n id pos va rgn len at_ src o k lu evp bs hq hs hf he hh hresv hpos _ hpieces hlaid hm hok hy => ?land,
    fun s i n m cmd pos off tag rgn bs ref buf hp hl href hbuf => ⟨multicast_lands hp hl href hbuf,
      multicast_refused hp hl href hbuf⟩,
    fun s i g cmd x pa size core rgn cls src lu evp sp hp hroom => gatherRequest_enters hp hroom⟩
  case start =>
    have h : k.Copies f d a l := ⟨hk, hr, hg, hresv⟩
    have hn := State.nextCopy_alone hq hz hb (State.setAside_active hsusp) hs hh hk
    exact ⟨fun h0 hl ha hd => copy_starts hn hq h hpos hf h0 (h.check_passes _ h0 hl ha hd),
      fun hl hy hd => copy_start_fails hn hq h hp hf ht hy hd (h.check_fails _ hl)⟩
  case issue =>
    have h : s.HasPiece n k f d a l g := ⟨⟨hk, hr, hg, hresv⟩, hq, hs, hf, hh, hseen, hpos, ha, hd, hreg, hbud⟩
    exact ⟨fun hdir => ⟨_, h.exec_gl hdir, State.engineOp_enters ..⟩, fun hdir => ⟨_, h.exec_lg hdir, State.engineOp_enters ..⟩,
      h.issues_ll⟩
  case land =>
    intro lands
    have last (hbyt : k.byt = false) : s.LastPiece n k pos len := ⟨hq, hlaid, hs, hh, hf, he, hbyt, hresv, hpos, hpieces⟩
    refine ⟨fun f d a l hp ho hb hk hr hbyt hdir hg hlt hd hat => ?_, fun f ix cnt b e d hp ho hb hk hr hbyt hg hat => ?_⟩
    · have hc : k.Copies f d a l := ⟨hk, hr, hg, hresv⟩
      have h := last (hc.byt.trans hbyt)
      have hto : (k.addrs pos).2 = at_ := by
        rw [hc.addrs_wrapped hlt, hat]
        exact Nat.mod_eq_of_lt (by omega)
      have hlocal : k.dir ≠ .gg := by
        rw [hc.dir]
        rcases hdir with hdir | hdir <;> simp [hdir]
      exact ⟨_, exec_copyPieceComplete_lands h hp ho hb hlocal hto, h.leaves_ended i _ o hok hm hy⟩
    · have h := last (by simp [CopyCmd.byt, hk, hbyt])
      have hto : k.elementAt (pos * e.toNat) = at_ := by simp [CopyCmd.elementAt, hresv, CopyCmd.arg, hg, wordAt, hat]
      have hstep := exec_gatherElementReturn_lands h hp ho hb
      rw [hto] at hstep
      exact ⟨_, hstep, h.leaves_ended i va o hok hm hy⟩

end Sys2Proof.Machine
end

section
/-! PROOF. O59, support: budget periods, the progress monitor and the housekeeping of the memory controllers (R291-R296). -/

namespace Sys2Proof.Machine

open Sys2Proof

/-! ## Budget periods (R291, R292) -/

/-- A map that keeps the keys maps what stands at each. -/
theorem SMap.find_map_keyed {α β : Type} {f : Nat × α → Nat × β} (hf : ∀ e, (f e).1 = e.1) (m : SMap α) (k : Nat) :
    SMap.find (m.map f) k = (SMap.find m k).map fun x => (f (k, x)).2 := by
  induction m with
  | nil => rfl
  | cons e m ih =>
    obtain ⟨i, x⟩ := e
    simp only [List.map_cons, SMap.find, hf]
    split
    · next h => subst h; rfl
    · split
      · rfl
      · exact ih

/-- A counter of a region granted afresh for a period, its debt carried over (R291). -/
def Budget.granted (b : Budget) (g : Region) : Budget :=
  ⟨refill (16 * g.cycbud) b.cyc, refill (16 * g.tilebud) b.tile, refill g.copybud b.copy⟩

/-- A core with its counters granted afresh. -/
def Core.granted (c : Core) (rs : SMap Region) : Core :=
  { c with budgets := c.budgets.map fun b => match SMap.find rs b.1 with
      | some g => (b.1, b.2.granted g)
      | none => b }

/-- The module with its next budget period begun: changed budgets in force, every counter granted (R291, R292). -/
def State.periodBegun (s : State) : State :=
  let rs := s.regions.map fun e => (e.1, e.2.ahead)
  { s with
    regions := rs, cores := s.cores.map fun c => (c.1, c.2.granted rs)
    hkBud := s.hkBud.map fun e => (e.1, refill s.hkbud e.2), period := s.period + 1 }

theorem periodStart_waits {s : State} (h : s.cycle / 3 / 10000 ≤ s.period) : exec .periodStart s = .next s :=
  congrArg Host.Outcome.next (if_pos h)

theorem periodStart_begins {s : State} (h : s.period < s.cycle / 3 / 10000) : exec .periodStart s = .next s.periodBegun :=
  congrArg Host.Outcome.next (if_neg (Nat.not_le.2 h))

theorem State.region_periodBegun (s : State) (r : Nat) : s.periodBegun.region r = (s.region r).map Region.ahead :=
  SMap.find_map_keyed (f := fun e : Nat × Region => (e.1, e.2.ahead)) (fun _ => rfl) s.regions r

theorem State.core_periodBegun (s : State) (n : Nat) : s.periodBegun.core n = (s.core n).granted s.periodBegun.regions :=
  SMap.get_map s.cores (fun c => c.granted s.periodBegun.regions) n Core.init

theorem State.sameBytes_periodBegun (s : State) : s.SameBytes s.periodBegun :=
  ⟨fun _ => rfl, fun _ => rfl, fun n _ => by rw [State.core_periodBegun]; rfl⟩

theorem Region.ahead_unchanged {g : Region} (h : g.nextBud = none) : g.ahead = g := by simp [Region.ahead, h]

theorem Core.budget_granted (c : Core) {rs : SMap Region} {r : Nat} {g : Region} (h : SMap.find rs r = some g) :
    SMap.find (c.granted rs).budgets r = (SMap.find c.budgets r).map (·.granted g) := by
  have keyed (b : Nat × Budget) :
      (match SMap.find rs b.1 with | some g => (b.1, b.2.granted g) | none => b).1 = b.1 := by split <;> rfl
  refine (SMap.find_map_keyed keyed c.budgets r).trans ?_
  simp only [h]

/-! ## The progress monitor (R296) -/

/-- A region's next window: it starts where the last one ended, with no progress yet. -/
def State.windowBegun (s : State) (r : Nat) : State :=
  s.onRegion r fun g => { g with winStart := g.winStart + g.window, winSusp := s.suspended r, progress := 0 }

section Monitor

variable {s : State} {r : Nat} {g : Region} (hr : s.region r = some g)

include hr

theorem monitorWindowEnd_early (h : s.time < g.winStart + g.window) : exec (.monitorWindowEnd r) s = .next s := by
  rw [exec_monitorWindowEnd, execMonitorWindowEnd, hr]
  exact congrArg Host.Outcome.next (if_pos h)

theorem monitorWindowEnd_progress (h : g.winStart + g.window ≤ s.time) (hp : g.progress ≠ 0) :
    exec (.monitorWindowEnd r) s = .next (s.windowBegun r) := by
  rw [exec_monitorWindowEnd, execMonitorWindowEnd, hr]
  simp only [Nat.not_lt.2 h, if_false]
  exact congrArg Host.Outcome.next (if_pos (by simp [hp]))

theorem State.region_windowBegun : (s.windowBegun r).region r =
    some { g with winStart := g.winStart + g.window, winSusp := s.suspended r, progress := 0 } := by
  rw [State.windowBegun, State.region_onRegion, if_pos rfl, hr]
  rfl

/-- A window without progress, while a slot of the region is armed, freezes the region with the stall record. -/
theorem monitorWindowEnd_stalls (h : g.winStart + g.window ≤ s.time) (hp : g.progress = 0) (hw : g.winSusp = false)
    (hs : s.suspended r = false) (hslots : (s.cores.map fun c => c.2.armedSlots r).foldl (· + ·) 0 ≠ 0) :
    ∃ d, exec (.monitorWindowEnd r) s = .next (((s.windowBegun r).suspend r).sendRecord r
      { Rec.plain 0x11 6 r .service with detail := d }) := by
  rw [exec_monitorWindowEnd, execMonitorWindowEnd, hr]
  simp only [Nat.not_lt.2 h, if_false]
  exact ⟨_, congrArg Host.Outcome.next (if_neg (by simp [hw, hs, hp, hslots]))⟩

end Monitor

theorem State.domainOf_suspend (s : State) (r k : Nat) : (s.suspend r).domainOf k = s.domainOf k :=
  s.domainOf_onRegion r _ (by exact fun _ => ⟨rfl, rfl⟩) k

theorem State.domainOf_windowBegun (s : State) (r k : Nat) : (s.windowBegun r).domainOf k = s.domainOf k :=
  s.domainOf_onRegion r _ (by exact fun _ => ⟨rfl, rfl⟩) k

/-- The record of a stall reaches the device region's handler, and the region is suspended. -/
theorem State.stall_reports {s : State} {r : Nat} {g : Region} (hr : s.region r = some g) (hd : s.domainOf r = some 1)
    (d : Word) :
    let t := ((s.windowBegun r).suspend r).sendRecord r { Rec.plain 0x11 6 r .service with detail := d }
    (t.region r).map (·.susp) = some true ∧ t.Reports 0x11 6 .service := by
  have hd' : ((s.windowBegun r).suspend r).domainOf r = some 1 := by
    rw [State.domainOf_suspend, State.domainOf_windowBegun, hd]
  refine ⟨?_, State.sendRecord_reports hd' rfl rfl rfl (by decide)⟩
  rw [State.sendRecord_device hd']
  show (((s.windowBegun r).suspend r).region r).map (·.susp) = some true
  rw [State.suspend, State.region_onRegion, if_pos rfl, State.region_windowBegun hr]
  rfl

/-- A core whose only frame is a region's counts that frame's armed slots. -/
theorem Core.armedSlots_single {c : Core} {fid : Nat} {f : Frame} (h : c.frames = [(fid, f)]) :
    c.armedSlots f.region = f.armed.length := by
  simp [Core.armedSlots, h]

/-! ## Port rates (R295) -/

theorem weirRateUpdate_sets {s : State} {p e : Nat} (h1 : 1 ≤ e) (h32 : e ≤ 32) : exec (.weirRateUpdate p e) s =
    .next { s with
      weir := SMap.set s.weir p e
      bucket := SMap.set s.bucket p (s.tokens p (SMap.get s.weir p 32), s.cycle) } :=
  congrArg Host.Outcome.next (if_pos ⟨h1, h32⟩)

theorem weirRateUpdate_refused {s : State} {p e : Nat} (h : e = 0 ∨ 32 < e) : exec (.weirRateUpdate p e) s = .next s :=
  congrArg Host.Outcome.next (if_neg (by omega))

/-! ## Tile intervals and housekeeping (R293, R294) -/

/-- The present microsecond is a tile interval of a basin, as its engines' starts in the one before say (R294). -/
def State.startsMany (s : State) (b : Nat) : Prop :=
  1 ≤ s.cycle / 3 / 1000 ∧
    256 ≤ (s.pairCores.filter fun c => c.1 / 512 == b && c.2.contains (s.cycle / 3 / 1000 - 1)).length

theorem State.evalInterval_many {s : State} {b : Nat} (h : s.startsMany b) :
    s.evalInterval b = { s with tileIv := SMap.set s.tileIv b (s.cycle / 3 / 1000) } := if_pos h

theorem State.evalInterval_few {s : State} {b : Nat} (h : ¬ s.startsMany b) : s.evalInterval b = s := if_neg h

theorem tileIntervalEval_many {s : State} {b : Nat} (h : s.startsMany b) : exec (.tileIntervalEval b) s =
    .next { s with tileIv := SMap.set s.tileIv b (s.cycle / 3 / 1000) } :=
  congrArg Host.Outcome.next (State.evalInterval_many h)

theorem tileIntervalEval_few {s : State} {b : Nat} (h : ¬ s.startsMany b) : exec (.tileIntervalEval b) s = .next s :=
  congrArg Host.Outcome.next (State.evalInterval_few h)

/-- Work charged to a controller's counter. -/
def State.hkPaid (s : State) (m busy : Nat) : State := { s with hkBud := SMap.set s.hkBud m (s.hkLeft m - busy) }

/-- A controller with `k` refreshes banked. -/
def State.hkBank (s : State) (m k : Nat) : State := { s with banked := SMap.set s.banked m k }

section Housekeeping

variable {s : State} {m busy : Nat} {kd : HkKind} (hm : m < 16)

include hm

/-- Work that is not refresh is charged where it may be done, and else deferred (R293). -/
theorem housekeepingWork_other (hk : kd ≠ .refresh) : exec (.housekeepingWork m kd busy) s =
    .next (if (s.evalInterval (m / 4)).hkMay (hkRank kd) [m] then (s.evalInterval (m / 4)).hkPaid m busy
      else s.evalInterval (m / 4)) := by
  have hb : chipletOfStack m / 2 = m / 4 := Nat.div_div_eq_div_mul m 2 2
  rw [exec_housekeepingWork, execHousekeepingWork, if_neg (show ¬ stackCount ≤ m from Nat.not_le.2 hm), if_neg hk, hb]
  rfl

/-- A refresh is issued ahead in a tile interval, up to eight; outside one a banked refresh is spent first (R294). -/
theorem housekeepingWork_refresh : exec (.housekeepingWork m .refresh busy) s =
    .next (let u := s.evalInterval (m / 4)
      let a := SMap.get u.banked m 0
      if u.inInterval (m / 4) then if a < 8 then (u.hkPaid m busy).hkBank m (a + 1) else u.hkPaid m busy
      else if 0 < a then u.hkBank m (a - 1) else u.hkPaid m busy) := by
  have hb : chipletOfStack m / 2 = m / 4 := Nat.div_div_eq_div_mul m 2 2
  rw [exec_housekeepingWork, execHousekeepingWork, if_neg (show ¬ stackCount ≤ m from Nat.not_le.2 hm), if_pos rfl, hb]
  rfl

theorem housekeepingWork_refresh_outside (hfew : ¬ s.startsMany (m / 4)) (hin : s.inInterval (m / 4) = false) :
    exec (.housekeepingWork m .refresh busy) s = .next (if 0 < SMap.get s.banked m 0
      then s.hkBank m (SMap.get s.banked m 0 - 1) else s.hkPaid m busy) := by
  rw [housekeepingWork_refresh hm, State.evalInterval_few hfew]
  simp only [hin, Bool.false_eq_true, if_false]

theorem housekeepingWork_refresh_ahead (hmany : s.startsMany (m / 4)) :
    exec (.housekeepingWork m .refresh busy) s = .next (
      let on : State := { s with tileIv := SMap.set s.tileIv (m / 4) (s.cycle / 3 / 1000) }
      if SMap.get s.banked m 0 < 8 then (on.hkPaid m busy).hkBank m (SMap.get s.banked m 0 + 1) else on.hkPaid m busy) := by
  have hin : ({ s with tileIv := SMap.set s.tileIv (m / 4) (s.cycle / 3 / 1000) } : State).inInterval (m / 4) = true := by
    simp [State.inInterval, State.time]
  rw [housekeepingWork_refresh hm, State.evalInterval_many hmany]
  simp only [hin, if_true]

end Housekeeping

/-- A counter that is exhausted defers work while a demand request waits. -/
theorem State.hkMay_exhausted {s : State} {m : Nat} (hl : s.hkLeft m ≤ 0) (hw : s.demandWaits m = true) (rank : Nat) :
    s.hkMay rank [m] = false := by
  simp [State.hkMay, Int.not_lt.2 hl, hw]

end Sys2Proof.Machine
end

section
/-! PROOF. O59: the trace writer, the zeroing of a core's scratch, and the obligation from its parts (R166, R195, R204, R265,
R315). -/

namespace Sys2Proof.Machine

open Sys2Proof

/-! ## Memory -/

/-- A range whose bytes are the same reads the same. -/
theorem Cells.read_congr {m m' : List Host.Cell} {a n : Nat}
    (h : ∀ i, a ≤ i → i < a + n → Cells.get m' i = Cells.get m i) :
    Cells.read m' a n = Cells.read m a n := by
  induction n generalizing a with
  | zero => rfl
  | succ n ih =>
    rw [Cells.read, Cells.read, h a le_rfl (by omega), ih fun i hi hlt => h i (by omega) (by omega)]

/-- A memory of which only the addresses of some kind are kept reads zero at the others. -/
theorem Cells.get_filter {m : List Host.Cell} (p : Nat → Bool) (a : Nat) (h : Memory.wf m = true) :
    Cells.get (m.filter fun x => p x.1) a = if p a then Cells.get m a else 0 := by
  suffices ∀ lo, Cells.wfFrom lo m = true →
      Cells.get (m.filter fun x => p x.1) a = if p a then Cells.get m a else 0 from this 0 h
  clear h
  induction m with
  | nil => simp [Cells.get]
  | cons e m ih =>
    intro lo h
    obtain ⟨k, v⟩ := e
    obtain ⟨-, -, hm⟩ := (Cells.wfFrom_cons ..).1 h
    have ih := ih _ hm
    have low (ha : a ≤ k) : Cells.get (m.filter fun x => p x.1) a = 0 := Cells.get_below (Cells.wfFrom_filter _ hm) (by omega)
    rw [List.filter_cons]
    by_cases hk : p k = true
    · simp only [hk, if_true, Cells.get]
      grind
    · simp only [hk, Cells.get]
      grind

section Plain

variable {u : State} (hb : u.bindings = [])

include hb

theorem State.feWrite_plain (a : Nat) (bs : List Byte) : (u.feWrite false a bs).mem = Cells.write u.mem a bs :=
  (State.store_mem hb a bs).trans (Cells.writeSome_some ..)

/-- The writer's copy of RP after it is read again: what the control line says (R315). -/
theorem State.readRp_plain (hl : u.lost = []) : u.readRp =
    { u.touchLines (u.tracer.ctl + 16) 8 false with
      tracer := { u.tracer with rp := natOf (Cells.read u.mem (u.tracer.ctl + 16) 8) } } := by
  have hfetch := State.fetch_plain (a := u.tracer.ctl + 16) (n := 8) (State.anyLost_nil hl _ _)
    fun l _ => by simp [State.bindingAt, hb]
  have htracer := (u.touchLines_only (u.tracer.ctl + 16) 8 false).tracer
  simp [State.readRp, State.feRead, hfetch, htracer]

end Plain

theorem State.feWrite_tracer (u : State) (a : Nat) (bs : List Byte) : (u.feWrite false a bs).tracer = u.tracer :=
  (u.store_only a bs).tracer

theorem State.feWrite_bindings (u : State) (a : Nat) (bs : List Byte) : (u.feWrite false a bs).bindings = u.bindings :=
  (u.store_only a bs).bindings

/-! ## The trace writer (R315) -/

/-- Where the next record goes. -/
def Tracer.next (x : Tracer) : Nat := x.base + x.wp % x.size

theorem Tracer.full_iff (x : Tracer) : x.full = true ↔ x.size - 16 < (x.wp + (2 ^ 64 - x.rp)) % 2 ^ 64 := decide_eq_true_iff

theorem Tracer.full_eq_false_iff (x : Tracer) : x.full = false ↔ (x.wp + (2 ^ 64 - x.rp)) % 2 ^ 64 ≤ x.size - 16 :=
  decide_eq_false_iff_not.trans Nat.not_lt

section Writer

variable {u : State} {w0 w1 : Word} (hb : u.bindings = [])

include hb

/-- With room in the buffer the record is written at WP, which moves on. -/
theorem State.writeTrace_room (h : u.tracer.full = false) :
    (u.writeTrace w0 w1).tracer = { u.tracer with wp := (u.tracer.wp + 16) % 2 ^ 64 } ∧
    (u.writeTrace w0 w1).mem = Cells.write (Cells.write u.mem u.tracer.next (bytesOf 8 w0.toNat ++ bytesOf 8 w1.toNat))
      (u.tracer.ctl + 8) (bytesOf 8 ((u.tracer.wp + 16) % 2 ^ 64)) := by
  have hwords : bytesOfWords [w0, w1] = bytesOf 8 w0.toNat ++ bytesOf 8 w1.toNat := by
    simp [bytesOfWords]
  simp only [State.writeTrace, h, Bool.false_eq_true, if_false]
  refine ⟨State.feWrite_tracer .., (State.feWrite_plain ?_ ..).trans ?_⟩
  · exact (State.feWrite_bindings ..).trans hb
  · rw [← hwords]
    exact congrArg (Cells.write · _ _) (State.feWrite_plain hb ..)

/-- With the buffer full, after RP is read again too, the record is counted in DROP. -/
theorem State.writeTrace_full (hl : u.lost = []) (h : u.tracer.full = true)
    (h' : ({ u.tracer with rp := natOf (Cells.read u.mem (u.tracer.ctl + 16) 8) } : Tracer).full = true) :
    (u.writeTrace w0 w1).tracer = { u.tracer with
      rp := natOf (Cells.read u.mem (u.tracer.ctl + 16) 8), drop := (u.tracer.drop + 1) % 2 ^ 64 } ∧
    (u.writeTrace w0 w1).mem = Cells.write u.mem u.tracer.ctl (bytesOf 8 ((u.tracer.drop + 1) % 2 ^ 64)) := by
  simp only [State.writeTrace, h, if_true, State.readRp_plain hb hl, h']
  refine ⟨State.feWrite_tracer .., (State.feWrite_plain ?_ ..).trans ?_⟩
  · exact (u.touchLines_only ..).bindings.trans hb
  · exact congrArg (Cells.write · _ _) (u.touchLines_mem ..)

end Writer

/-- A packet that may be delivered stands in the network. -/
theorem State.packet_stands {s : State} {k : Nat} {p : Packet} (h : s.packet k = some p) : s.net[k]? = some p := by
  unfold State.packet at h
  split at h
  · cases h
  · next q hq =>
    split at h
    · rwa [← h]
    · cases h

section Record

variable {s : State} {k rgn : Nat} {src : Agent} {w0 w1 : Word}
  (hp : s.packet k = some ⟨.sig, src, .tracer, rgn, .trace w0 w1⟩)

include hp

/-- A record meets no weir: it leaves the network and nothing else. -/
theorem traceRecordWrite_off (h : s.tracer.size = 0) :
    exec (.traceRecordWrite k) s = .next { s with net := s.net.eraseIdx k } := by
  have hk : s.net[k]? = some ⟨.sig, src, .tracer, rgn, .trace w0 w1⟩ := State.packet_stands hp
  rw [exec_traceRecordWrite, execTraceRecordWrite, hp]
  simp [h, State.drop, hk, State.spend, State.weirOf, dropAt]

theorem traceRecordWrite_on (h : s.tracer.size ≠ 0) : exec (.traceRecordWrite k) s = .next ((s.drop k).writeTrace w0 w1) := by
  rw [exec_traceRecordWrite, execTraceRecordWrite, hp]
  simp [h]

end Record

/-- A record written beside its control block: both read back, and no other byte changes. -/
theorem Cells.record_written {m : List Host.Cell} (hm : Memory.wf m = true) {a c : Nat} {bs ps : List Byte}
    (hbs : bs.length = 16) (hps : ps.length = 8) (ha : a + 16 ≤ c ∨ c + 64 ≤ a) :
    let m' := Cells.write (Cells.write m a bs) (c + 8) ps
    Cells.read m' a 16 = bs ∧ Cells.read m' (c + 8) 8 = ps ∧
      ∀ b, b < a ∨ a + 16 ≤ b → b < c + 8 ∨ c + 16 ≤ b → Cells.get m' b = Cells.get m b := by
  intro m'
  have hm1 := Memory.wf_write a bs hm
  have outside (b : Nat) (hb : b < c + 8 ∨ c + 16 ≤ b) : Cells.get m' b = Cells.get (Cells.write m a bs) b :=
    Cells.get_write_outside _ _ _ hm1 (by omega)
  refine ⟨?_, ?_, fun b h1 h2 => (outside b h2).trans (Cells.get_write_outside _ _ _ hm (by omega))⟩
  · rw [Cells.read_congr fun i hi hlt => outside i (by omega), ← hbs]
    exact Cells.read_write a bs hm
  · have h := Cells.read_write (c + 8) ps hm1
    rwa [hps] at h

theorem traceRpRead_reads {s : State} (hsize : s.tracer.size ≠ 0) (hb : s.bindings = []) (hl : s.lost = []) :
    ∃ t, exec .traceRpRead s = .next t ∧ s.SameBytes t ∧
      t.tracer = { s.tracer with rp := natOf (Cells.read s.mem (s.tracer.ctl + 16) 8) } := by
  refine ⟨_, congrArg Host.Outcome.next ((if_neg hsize).trans (State.readRp_plain hb hl)), ?_, rfl⟩
  have h := s.touchLines_only (s.tracer.ctl + 16) 8 false
  refine ⟨fun a => ?_, fun a => ?_, fun n a => ?_⟩
  · exact congrArg (Cells.get · a) (s.touchLines_mem ..)
  · exact congrArg (Cells.get · a) h.hostMem
  · exact congrArg (fun c => Cells.get c.lmem a) (State.core_of_cores h.cores n)

/-! ## The zeroing of a core's scratch (R166, R195, R204, R265) -/

/-- The core of a new tenant, as its zeroing leaves it. -/
def Core.zeroed (c : Core) (fstore tenant : Nat) : Core :=
  { c.clearEngine 0 with
    lmem := (Cells.clear c.lmem fstore localEnd).filter fun x => c.inFrame x.1
    lpoison := c.lpoison.filter fun p => decide (p * 8 < fstore) && c.inFrame (p * 8)
    land := [], zeroing := false, tenant := tenant }

theorem scratchZeroingComplete_zeroes {s : State} {n : Nat} (hz : (s.core n).zeroing = true) (hq : (s.core n).copyq = []) :
    ∃ tenant, exec (.scratchZeroingComplete n) s = .next (s.setCore n ((s.core n).zeroed s.fstore tenant)) := by
  have settled (tenant : Nat) : (s.setCore n ((s.core n).zeroed s.fstore tenant)).settleCopies n =
      s.setCore n ((s.core n).zeroed s.fstore tenant) := by
    simp [State.settleCopies, Core.zeroed, Core.clearEngine, hq]
  exact ⟨_, congrArg Host.Outcome.next ((if_neg (by simp [hz])).trans (settled _))⟩

theorem Core.inFrame_iff (c : Core) (a : Nat) :
    c.inFrame a = true ↔ ∃ e ∈ c.frames, e.2.occupies = true ∧ e.2.base ≤ a ∧ a < e.2.base + e.2.bytes := by
  simp [Core.inFrame, Frame.inRun, runsMeet]

/-- What is left of a core's local memory: its frames' bytes in the frame store. -/
theorem Core.get_zeroed (c : Core) (hm : Memory.wf c.lmem = true) (fstore tenant a : Nat) :
    Cells.get (c.zeroed fstore tenant).lmem a =
      if (∃ e ∈ c.frames, e.2.occupies = true ∧ e.2.base ≤ a ∧ a < e.2.base + e.2.bytes) ∧ ¬ (fstore ≤ a ∧ a < 0x180000)
      then Cells.get c.lmem a else 0 := by
  simp only [← Core.inFrame_iff]
  refine (Cells.get_filter c.inFrame a (Memory.wf_clear fstore localEnd hm)).trans ?_
  rw [Cells.get_clear _ _ _ hm, show localEnd = 0x180000 from rfl]
  by_cases hf : c.inFrame a = true <;> by_cases ha : fstore ≤ a ∧ a < 0x180000 <;> simp [hf, ha]

/-! ## The obligation -/

/-- Settles O59, event by event: the budget period (`periodStart_begins`), the monitor (`monitorWindowEnd_stalls`), rates, tile
intervals, housekeeping, the trace writer (`State.writeTrace_room`, `State.writeTrace_full`) and zeroing (`Core.get_zeroed`). -/
theorem periodEvents : Obligations.PeriodEvents := by
  unfold Obligations.PeriodEvents
  refine ⟨fun s => periodStart_waits,
    fun s h => ⟨_, periodStart_begins h, rfl, s.sameBytes_periodBegun, fun r g hr => ?ahead, fun n r g b hr hg hbud => ?grant⟩,
    fun s r g hr => ⟨monitorWindowEnd_early hr, fun hw hp => ⟨_, monitorWindowEnd_progress hr hw hp, State.net_onRegion ..,
      State.region_windowBegun hr⟩, fun n fid c f hw hp hsusp hs hcores hframes hf harmed hd => ?stall⟩,
    fun s p e => ⟨weirRateUpdate_sets, weirRateUpdate_refused⟩,
    fun s b => ⟨tileIntervalEval_many, tileIntervalEval_few⟩,
    fun s m busy kd left hleft hm => ?housekeeping,
    fun s k rgn src w0 w1 hp => ⟨traceRecordWrite_off hp, fun hsize hb hl hwf _ =>
      ⟨fun hroom ha => ?record, fun hfull hfull' => ?drop⟩⟩,
    fun s => ⟨fun h => congrArg Host.Outcome.next (if_pos h), traceRpRead_reads⟩,
    fun s n => ⟨fun h => congrArg Host.Outcome.next (if_pos h), fun hz hq hm => ?zeroing⟩⟩
  case ahead =>
    rw [State.region_periodBegun, hr]
    exact ⟨fun hn => congrArg some (Region.ahead_unchanged hn), fun a b c hn => by simp [Region.ahead, hn]⟩
  case grant =>
    have hr' : s.periodBegun.region r = some g := by
      rw [State.region_periodBegun, hr, Option.map_some, Region.ahead_unchanged hg]
    rw [State.core_periodBegun, Core.budget_granted _ hr', hbud]
    simp [Budget.granted, refill]
  case stall =>
    subst hf
    have hslots : (s.cores.map fun c => c.2.armedSlots f.region).foldl (· + ·) 0 ≠ 0 := by
      simp [hcores, Core.armedSlots_single hframes, harmed]
    obtain ⟨d, hstep⟩ := monitorWindowEnd_stalls hr hw hp hsusp hs hslots
    exact ⟨_, hstep, State.stall_reports hr hd d⟩
  case housekeeping =>
    subst hleft
    intro b now many on paid a bank
    refine ⟨fun hfew => ⟨fun hk hmay => ?_, fun hk hl hw => ?_, fun hiv => ?_⟩, fun hmany => ?_⟩
    · rw [housekeepingWork_other hm hk, State.evalInterval_few hfew, if_pos hmay]
      rfl
    · rw [housekeepingWork_other hm hk, State.evalInterval_few hfew, if_neg (by simp [State.hkMay_exhausted hl hw])]
    · have hin : s.inInterval (m / 4) = false := beq_eq_false_iff_ne.2 hiv
      rw [housekeepingWork_refresh_outside hm hfew hin]
      exact ⟨fun ha => congrArg Host.Outcome.next (if_neg (Nat.not_lt.2 ha.le)),
        fun ha => congrArg Host.Outcome.next (if_pos ha)⟩
    · rw [housekeepingWork_refresh_ahead hm hmany]
      exact ⟨fun ha => congrArg Host.Outcome.next (if_pos ha),
        fun ha => congrArg Host.Outcome.next (if_neg (Nat.not_lt.2 ha))⟩
  case record =>
    obtain ⟨htracer, hmem⟩ := State.writeTrace_room (u := s.drop k) (w0 := w0) (w1 := w1) hb
      ((Tracer.full_eq_false_iff _).2 hroom)
    obtain ⟨hrec, hptr, hkeep⟩ := Cells.record_written hwf
      (bs := bytesOf 8 w0.toNat ++ bytesOf 8 w1.toNat) (ps := bytesOf 8 ((s.tracer.wp + 16) % 2 ^ 64))
      (by simp [bytesOf_length]) (bytesOf_length ..) ha
    refine ⟨_, traceRecordWrite_on hp hsize, ?_⟩
    rw [hmem]
    exact ⟨hrec, hptr, htracer, hkeep⟩
  case drop =>
    obtain ⟨htracer, hmem⟩ := State.writeTrace_full (u := s.drop k) (w0 := w0) (w1 := w1) hb hl ((Tracer.full_iff _).2 hfull)
      ((Tracer.full_iff _).2 hfull')
    refine ⟨_, traceRecordWrite_on hp hsize, htracer, ?_⟩
    rw [hmem]
    have hread := Cells.read_write s.tracer.ctl (bytesOf 8 ((s.tracer.drop + 1) % 2 ^ 64)) hwf
    rw [bytesOf_length] at hread
    exact ⟨hread, fun b hb => Cells.get_write_outside _ _ _ hwf (by rwa [bytesOf_length])⟩
  case zeroing =>
    obtain ⟨tenant, hstep⟩ := scratchZeroingComplete_zeroes hz hq
    refine ⟨_, hstep, ?_⟩
    rw [State.core_setCore, if_pos rfl]
    exact ⟨rfl, rfl, rfl, rfl, rfl, Core.get_zeroed _ hm s.fstore tenant⟩

end Sys2Proof.Machine
end

section
/-! PROOF. O6: every turn that a step plans can run, so no step stops (R53, R297, R303). -/

namespace Sys2Proof.Machine

open Sys2Proof

/-! ## Outcomes -/

/-- An event has a next state. -/
theorem exec_event {i : Instr} (h : i.isEvent = true) (s : State) : ∃ t, exec i s = .next t := by
  cases i <;> cases h <;> exact ⟨_, rfl⟩

/-- An instruction acts on the Running threadlet of the current core. -/
theorem exec_instruction {i : Instr} (h : i.isEvent = false) (s : State) : ∃ f : Run → State, exec i s = s.running f := by
  cases i <;> cases h <;> exact ⟨_, rfl⟩

/-- Whatever runs on a core with a Running threadlet has a next state. -/
theorem exec_running {s : State} {r : Run} (i : Instr) (hr : (s.core s.cur).run = some r) : ∃ t, exec i s = .next t := by
  cases hi : i.isEvent with
  | true => exact exec_event hi s
  | false =>
    obtain ⟨f, hf⟩ := exec_instruction hi s
    exact ⟨f r, by rw [hf, State.running, hr]⟩

/-! ## Turns -/

/-- A turn can run: it runs nothing, an event, or an instruction where a threadlet is Running (R53). -/
def Act.CanRun : Act → Prop
  | .done _ => True
  | .run t i => i.isEvent = true ∨ ∃ r, (t.core t.cur).run = some r

theorem Act.CanRun.exec {t : State} {i : Instr} (h : (Act.run t i).CanRun) : ∃ u, exec i t = .next u := by
  rcases h with hi | ⟨r, hr⟩
  · exact exec_event hi t
  · exact exec_running i hr

theorem State.fetchWord_sameButCode (s : State) (n asid va : Nat) : s.SameButCode (s.fetchWord n asid va).2 := by
  unfold State.fetchWord
  split
  · exact .refl s
  · exact .refl s
  · exact .refl s
  · have hcache := s.cacheCode_sameButCode n asid va
    dsimp only
    split
    · exact hcache
    · exact hcache.trans (State.freeBytes_sameButCode _ 1)

/-- The fetch of an instruction reads code and no more (R198). -/
theorem State.nextInstr_sameButCode (s : State) (n : Nat) (r : Run) : s.SameButCode (s.nextInstr n r).2 := by
  have hfirst := s.fetchWord_sameButCode n (s.asid r.region) (r.wordVa 0)
  unfold State.nextInstr
  split
  · exact .refl s
  · split
    · next h => rwa [h] at hfirst
    · next w0 s1 h =>
      have h1 : s.SameButCode s1 := by rwa [h] at hfirst
      have h2 : s.SameButCode (if isLongOp (w0.extractLsb' 21 7) then s1.fetchWord n (s.asid r.region) (r.wordVa 1)
          else (.ok 0, s1)).2 := by
        split
        · exact h1.trans (s1.fetchWord_sameButCode ..)
        · exact h1
      split
      · exact h1
      · dsimp only
        split
        · exact h2
        · split <;> exact h2

/-- What an issue runs, it runs where the core's threadlet is Running; a fetch has left it so. -/
theorem State.issueTurn_canRun (s : State) (n : Nat) : (s.issueTurn n).CanRun := by
  unfold State.issueTurn
  split
  · trivial
  · next r hr =>
    dsimp only
    split
    · trivial
    · split
      · exact .inl rfl
      · split
        · trivial
        · split
          · next i s2 hi =>
            have hcode := State.nextInstr_sameButCode { s with cur := n } n r
            rw [hi] at hcode
            refine .inr ⟨r, ?_⟩
            rw [hcode.cur, State.core_of_cores hcode.cores]
            exact hr
          · trivial
          · trivial

theorem State.mayHappen_isEvent {s : State} {e : Instr} (h : s.mayHappen e = true) : e.isEvent = true := by
  unfold State.mayHappen at h
  split at h
  · rfl
  · rfl
  · exact (Bool.and_eq_true_iff.1 h).1

theorem State.takeTurn_canRun (s : State) (t : Turn) : (s.takeTurn t).CanRun := by
  cases t with
  | issue n =>
    unfold State.takeTurn
    dsimp only
    split
    · exact s.issueTurn_canRun n
    · trivial
  | event e =>
    unfold State.takeTurn
    dsimp only
    split
    · next h => exact .inl (State.mayHappen_isEvent h)
    · trivial
  | arrive | hostStore | engineRead | landWord | storeWord | corrected | recordWrite => trivial

/-- What an active module does before any other turn is an event. -/
theorem State.forcedActive_isEvent {s : State} {i : Instr} (h : s.forcedActive = some i) : i.isEvent = true := by
  unfold State.forcedActive at h
  dsimp only at h
  split at h
  · cases h; rfl
  · split at h
    · cases h; rfl
    · split at h
      · cases h; rfl
      · obtain ⟨g, -, rfl⟩ := Option.map_eq_some_iff.1 h
        rfl

/-- What comes before any other turn is an event. -/
theorem State.forced_isEvent {s t : State} {i : Instr} (h : s.forced = some (t, i)) : i.isEvent = true := by
  unfold State.forced at h
  split at h
  · next j hj =>
    cases h
    split at hj
    · exact State.forcedActive_isEvent hj
    · cases hj
  · split at h
    · split at h
      · next hi =>
        cases h
        simp only [Bool.and_eq_true] at hi
        exact hi.1.1
      · cases h
    · cases h

theorem State.ownTurn_canRun (s : State) : s.ownTurn.CanRun := by
  unfold State.ownTurn
  split
  · exact .inl rfl
  · exact .inl rfl
  · dsimp only
    split
    · exact s.takeTurn_canRun _
    · trivial
  · trivial
  · trivial
  · trivial

theorem State.plan_canRun (s : State) : s.plan.CanRun := by
  unfold State.plan
  split
  · next h => exact .inl (State.forced_isEvent h)
  · split
    · exact State.takeTurn_canRun _ _
    · exact s.ownTurn_canRun

/-! ## Steps and runs -/

/-- No step stops: what the spec calls a fault is a next state. -/
theorem step_next (s : State) : ∃ t, step s = .next t := by
  have hplan := s.plan_canRun
  unfold step
  cases hp : s.plan with
  | done t => exact ⟨t.after, rfl⟩
  | run t i =>
    obtain ⟨u, hu⟩ := (hp ▸ hplan : (Act.run t i).CanRun).exec
    exact ⟨u.after, by simp only [hu]⟩

theorem run_succ {M : Host.Core} {s t : M.State} (h : M.step s = .next t) (k : Nat) : M.run (k + 1) s = M.run k t := by
  rw [Host.Core.run, h]

/-- Settles O6, by induction on the length of the run: each step has a next state (`step_next`), from which the rest goes on. -/
theorem stepNeverStops : Obligations.StepNeverStops := by
  unfold Obligations.StepNeverStops
  intro s k
  induction k generalizing s with
  | zero => exact ⟨s, rfl⟩
  | succ k ih =>
    obtain ⟨t, ht⟩ := step_next s
    obtain ⟨u, hu⟩ := ih t
    exact ⟨u, (run_succ ht k).trans hu⟩

end Sys2Proof.Machine
end

section
/-! PROOF. O28: BRK, TRAP, SVC and NOP (R314, R370). -/

namespace Sys2Proof.Machine

open Sys2Proof

/-- An instruction that traps takes the exception of its code after itself (R303). -/
theorem guarded_trap {g : Guard} {n code : Nat} {detail : Word} {f : Meaning} {s : State} {r : Run} (h : s.Issues r g)
    (hf : f s r = .error (.trap code detail)) :
    guarded g n f s = .next (s.takeFault s.cur (r.past n) r.origin 0 code 0 detail) := guarded_error h hf

/-- An instruction without an effect changes nothing but the place in the block. -/
theorem guarded_unchanged {g : Guard} {n : Nat} {f : Meaning} {s : State} {r : Run} (h : s.Issues r g) (hf : f s r = .ok s) :
    guarded g n f s = .next (s.setRun s.cur (r.past n)) :=
  (guarded_ok h hf).trans (congrArg Host.Outcome.next (State.next_eq h.1 n))

/-- NOP's CODE is reserved and zero (R370). -/
theorem decode_nop_reserved (g : Guard) {c : BitVec 15} (hc : c ≠ 0) :
    decode (bytesOfWord (wordCode g 2 c)) = .error .reservedBits := by
  have hshort : decode (bytesOfWord (wordCode g 2 c))
      = decShort (xrFields g 0x24 (c.extractLsb' 10 5) (c.extractLsb' 5 5) (c.extractLsb' 0 5) 2) := by
    simpa [wordCode] using decode_short_eq (g := g) (op := 0x24) (fn := 2) rfl (by decide)
  have hne : ¬ c = 0#15 := hc
  rw [hshort, decShort_24 _ rfl]
  simp [decControl, check, hne, bind, Except.bind]

/-- Settles O28: the traps stop with their code (`guarded_trap`), and NOP and a BRK that does not trap have no effect
(`guarded_unchanged`). -/
theorem softwareTrapsAndNop : Obligations.SoftwareTrapsAndNop := by
  unfold Obligations.SoftwareTrapsAndNop
  refine ⟨fun s r g code h => ⟨fun hd => ?brk, fun h3 h4 => ?skip, ?trap, ?svc⟩, fun s r g h => ?nop, by decide, by decide,
    fun g c hc => ⟨_, decode_nop_reserved g hc⟩⟩
  case brk =>
    rw [exec_brk, BitVec.ofNat_toNat]
    exact guarded_trap h (if_pos hd)
  case skip =>
    rw [State.Becomes, exec_brk]
    exact guarded_unchanged h (if_neg (not_or_intro h3 h4))
  case trap =>
    rw [exec_trap, BitVec.ofNat_toNat]
    exact guarded_trap h rfl
  case svc =>
    rw [exec_svc, BitVec.ofNat_toNat]
    exact guarded_trap h rfl
  case nop => exact (exec_nop ..).trans (guarded_unchanged h rfl)

end Sys2Proof.Machine
end

section
/-! SUPPORT. What a fault record reads of the state: the fault domains, the code bases, the module's number and the time; and
what leaves them as they are (R299-R302, Table 13-2). -/

namespace Sys2Proof.Machine

open Sys2Proof

/-- A record says the same in both states, and goes to the same domain. -/
structure State.SameRecords (s t : State) : Prop where
  domain : ∀ r, t.domainOf r = s.domainOf r
  codebase : ∀ r, t.codebase r = s.codebase r
  number : t.brielo.number = s.brielo.number
  cycle : t.cycle = s.cycle

theorem State.SameRecords.refl (s : State) : s.SameRecords s := ⟨fun _ => rfl, fun _ => rfl, rfl, rfl⟩

theorem State.SameRecords.trans {s t u : State} (h : s.SameRecords t) (k : t.SameRecords u) : s.SameRecords u :=
  ⟨fun r => (k.domain r).trans (h.domain r), fun r => (k.codebase r).trans (h.codebase r), k.number.trans h.number,
    k.cycle.trans h.cycle⟩

theorem State.SameRecords.recordWords {s t : State} (h : s.SameRecords t) (x : Rec) : t.recordWords x = s.recordWords x := by
  simp only [State.recordWords, State.blockField, State.time, h.codebase, h.number, h.cycle]

/-- A record for the device region's domain is the last packet of the network (R300). -/
theorem State.SameRecords.sendRecord_last {s t : State} (h : s.SameRecords t) {region : Nat} (hd : s.domainOf region = some 1)
    (x : Rec) : (t.sendRecord region x).net.getLast? = some ⟨.sig, x.loc, .service, 1, .record 1 0 (s.recordWords x)⟩ := by
  rw [State.sendRecord_device ((h.domain region).trans hd), h.recordWords]
  exact List.getLast?_concat ..

theorem State.setCore_sameRecords (s : State) (n : Nat) (c : Core) : s.SameRecords (s.setCore n c) :=
  ⟨fun _ => rfl, fun _ => rfl, rfl, rfl⟩

theorem State.send_sameRecords (s : State) (p : Packet) : s.SameRecords (s.send p) := by
  unfold State.send
  split
  · dsimp only
    split <;> exact ⟨fun _ => rfl, fun _ => rfl, rfl, rfl⟩
  · exact ⟨fun _ => rfl, fun _ => rfl, rfl, rfl⟩

/-- What keeps a region's RCB, its handler's RCB and its code base keeps what records say. -/
theorem State.onRegion_sameRecords (s : State) (r : Nat) (f : Region → Region)
    (hf : ∀ g, (f g).faultrcb = g.faultrcb ∧ (f g).rcb = g.rcb) (hb : ∀ g, (f g).codebase = g.codebase) :
    s.SameRecords (s.onRegion r f) where
  domain := s.domainOf_onRegion r f hf
  codebase k := by
    unfold State.onRegion
    split
    · rfl
    · next g hg =>
      simp only [State.codebase, State.region, SMap.find_set]
      split
      · next h =>
        rw [h, show SMap.find s.regions r = some g from hg]
        exact hb g
      · rfl
  number := by unfold State.onRegion; split <;> rfl
  cycle := by unfold State.onRegion; split <;> rfl

theorem State.progress_sameRecords (s : State) (r : Nat) : s.SameRecords (s.progress r) :=
  s.onRegion_sameRecords r _ (by exact fun _ => ⟨rfl, rfl⟩) (by exact fun _ => rfl)

theorem State.suspend_sameRecords (s : State) (r : Nat) : s.SameRecords (s.suspend r) :=
  s.onRegion_sameRecords r _ (by exact fun _ => ⟨rfl, rfl⟩) (by exact fun _ => rfl)

theorem State.inject_sameRecords (s : State) (n region : Nat) (cls : PClass) (dst : Agent) (b : PBody) :
    s.SameRecords (s.inject n region cls dst b) := (s.send_sameRecords _).trans (State.progress_sameRecords ..)

theorem State.trace_sameRecords (s : State) (n region fid ev : Nat) : s.SameRecords (s.trace n region fid ev) := by
  unfold State.trace
  split
  · exact s.inject_sameRecords ..
  · exact .refl s

theorem State.undeliverable_sameRecords (s : State) (region : Nat) (loc : Agent) (ws : List Word) :
    s.SameRecords (s.undeliverable region loc ws) := (s.send_sameRecords _).trans (State.suspend_sameRecords ..)

theorem State.sendRecord_sameRecords (s : State) (region : Nat) (x : Rec) : s.SameRecords (s.sendRecord region x) := by
  unfold State.sendRecord
  dsimp only
  split
  · exact s.undeliverable_sameRecords ..
  · split
    · exact s.send_sameRecords _
    · split
      · exact s.undeliverable_sameRecords ..
      · split
        · exact s.undeliverable_sameRecords ..
        · exact s.send_sameRecords _

theorem State.acknowledge_sameRecords (s : State) (n : Nat) (a : Arrival) : s.SameRecords (s.acknowledge n a) := by
  unfold State.acknowledge
  split
  · exact .refl s
  · exact s.inject_sameRecords ..

/-- The arrivals that a released frame discards are reported one by one, each by what it says (R46). -/
theorem State.releaseFrame_sameRecords (s : State) (n fid : Nat) : s.SameRecords (s.releaseFrame n fid) := by
  unfold State.releaseFrame
  exact foldl_keeps (fun t => s.SameRecords t) _ (fun t a h => (h.trans (t.sendRecord_sameRecords ..)).trans
    (State.acknowledge_sameRecords ..)) _ _ ((s.setCore_sameRecords n _).trans (State.setCore_sameRecords ..))

theorem State.retire_sameRecords (s : State) (n fid region : Nat) (tid : Option Nat) :
    s.SameRecords (s.retire n fid region tid) := by
  have hleft : s.SameRecords ((s.trace n region fid 4).progress region) :=
    (s.trace_sameRecords ..).trans (State.progress_sameRecords ..)
  unfold State.retire
  dsimp only
  split
  · exact hleft
  · split
    · exact hleft.trans (State.releaseFrame_sameRecords ..)
    · exact hleft

theorem State.abortRun_sameRecords (s : State) (n : Nat) (r : Run) : s.SameRecords (s.abortRun n r) :=
  ((s.setCore_sameRecords n _).trans (State.setCore_sameRecords ..)).trans (State.retire_sameRecords ..)

theorem State.saveRun_sameRecords (s : State) (n : Nat) (r : Run) (cause : Nat) (wait : Wait) (hold : Option Nat) :
    s.SameRecords (s.saveRun n r cause wait hold) := s.setCore_sameRecords ..

end Sys2Proof.Machine
end

section
/-! PROOF. O10: where a precise fault keeps its threadlet, and the record it sends (R299, R303). -/

namespace Sys2Proof.Machine

open Sys2Proof

section Held

variable {s : State} {n : Nat} {r : Run} {f : Frame}

/-! ## A threadlet saved, or aborted -/

/-- The frame of a saved threadlet names it, and says why and where it was saved. -/
theorem State.parked_saveRun {cause : Nat} {wait : Wait} {hold : Option Nat} {f' : Frame}
    (h : ((s.saveRun n r cause wait hold).core n).frame r.fid = some f') :
    ∃ p, f'.parked = some p ∧ p.cause = cause ∧ p.hold = hold ∧ p.tid = r.tid ∧ p.slot = r.slot := by
  unfold State.saveRun at h
  dsimp only at h
  rw [State.core_setCore, if_pos rfl, Core.frame_onFrame, if_pos rfl] at h
  obtain ⟨g, -, rfl⟩ := Option.map_eq_some_iff.1 h
  exact ⟨_, rfl, rfl, rfl, rfl, rfl⟩

/-- A threadlet saved in a hold entry still has its frame. -/
theorem State.frame_saveRun_hold (hf : (s.core n).frame r.fid = some f) (cause : Nat) (wait : Wait) (k : Nat) :
    ∃ f', ((s.saveRun n r cause wait (some k)).core n).frame r.fid = some f' := by
  have hframes : (((s.endRun n r).core n).saveForms r).1.frames = (s.core n).frames := by
    rw [(Core.saveForms_keeps ..).2.1, State.endRun, State.core_onCore, if_pos rfl]
    exact State.chargeRun_frames ..
  unfold State.saveRun
  dsimp only
  rw [State.core_setCore, if_pos rfl, Core.frame_onFrame, if_pos rfl]
  exact ⟨_, congrArg (Option.map _) ((congrArg (SMap.find · r.fid) hframes).trans hf)⟩

/-- The hold entry that a threadlet is saved in holds its frame's identifier. -/
theorem State.hold_saveRun (cause : Nat) (wait : Wait) (k : Nat) :
    (SMap.find ((s.saveRun n r cause wait (some k)).core n).hold k).map (·.fid) = some r.fid := by
  unfold State.saveRun
  dsimp only
  rw [State.core_setCore, if_pos rfl, Core.hold_onFrame, SMap.find_set, if_pos rfl]
  rfl

/-- An aborted threadlet that has not freed its frame leaves it as it is. -/
theorem State.frame_abortRun (hf : (s.core n).frame r.fid = some f) (ho : r.tid ∉ f.ownFree) :
    ((s.abortRun n r).core n).frame r.fid = some f := by
  have hdiscarded : (((s.endRun n r).onCore n (·.discard r.tid)).core n).frame r.fid = some f := by
    rw [State.core_onCore, if_pos rfl, State.endRun, State.core_onCore, if_pos rfl]
    exact (congrArg (SMap.find · r.fid) (State.chargeRun_frames ..)).trans hf
  rw [State.abortRun, State.core_retire _ hdiscarded ho]
  exact hdiscarded

/-! ## Where a precise fault keeps its threadlet (R303) -/

/-- The hold entry that a precise fault takes: the lowest free one, where the frame has no park area. -/
def State.holdFor (s : State) (n : Nat) (r : Run) : Option Nat :=
  if r.parkw ≠ 0 then none else (List.range 4).find? fun i => !(SMap.has (s.core n).hold i)

theorem State.holdFor_parkArea (hp : r.parkw ≠ 0) : s.holdFor n r = none := if_pos hp

theorem State.holdFor_lowest {k : Nat} (hp : r.parkw = 0) (hk : k < 4) (hfree : SMap.has (s.core n).hold k = false)
    (hlow : ∀ j < k, SMap.has (s.core n).hold j = true) : s.holdFor n r = some k := by
  rw [State.holdFor, if_neg (not_not_intro hp), List.find?_range_eq_some]
  exact ⟨by simp [hfree], List.mem_range.2 hk, fun j hj => by simp [hlow j hj]⟩

/-- A precise fault makes its threadlet Held: a park area or a free hold entry keeps it. -/
def State.Holds (s : State) (n : Nat) (r : Run) : Prop := r.parkw ≠ 0 ∨ (s.holdFor n r).isSome = true

theorem State.not_holds_iff : ¬ s.Holds n r ↔ r.parkw = 0 ∧ ∀ j < 4, SMap.has (s.core n).hold j = true := by
  rw [State.Holds, not_or, not_not]
  refine and_congr_right fun hp => ?_
  rw [State.holdFor, if_neg (not_not_intro hp), Bool.not_eq_true, Option.isSome_eq_false_iff, Option.isNone_iff_eq_none,
    List.find?_range_eq_none]
  simp

theorem State.takeFault_holds (h : s.Holds n r) (o : Origin) (src code addr : Nat) (detail : Word) :
    s.takeFault n r o src code addr detail = ((s.saveRun n r 6 .faultDomain (s.holdFor n r)).trace n r.region r.fid 3).sendRecord
      r.region { Rec.of code src (.core n) o addr detail with token := heldToken n r.fid } := if_pos h

theorem State.takeFault_aborts (h : ¬ s.Holds n r) (o : Origin) (src code addr : Nat) (detail : Word) :
    s.takeFault n r o src code addr detail
      = (s.abortRun n r).sendRecord r.region (Rec.of code src (.core n) o addr detail) := if_neg h

theorem State.core_takeFault_holds (h : s.Holds n r) (o : Origin) (src code addr : Nat) (detail : Word) :
    (s.takeFault n r o src code addr detail).core n = (s.saveRun n r 6 .faultDomain (s.holdFor n r)).core n := by
  rw [State.takeFault_holds h, State.core_sendRecord, State.core_trace]

/-! ## The record (Table 13-2, Table 13-4) -/

theorem heldToken_eq {fid : Nat} (hn : n < 2048) (hf : fid < 65536) :
    heldToken n fid = BitVec.ofNat 64 (2 ^ 62 + n * 2 ^ 32 + fid * 2 ^ 16) := by
  have hfid : place fid 16 = BitVec.ofNat 64 (fid * 2 ^ 16) := by rw [place, Nat.shiftLeft_eq]
  rw [heldToken, BitVec.or_assoc, hfid, place_or (by omega), place_or (by omega), Nat.one_mul, Nat.add_assoc]

theorem heldRecord_of_holds (h : s.Holds n r) (hn : n < 2048) (hf : r.fid < 65536) (code addr : Nat) (detail : Word) :
    heldRecord s n r code addr detail
      = { Rec.of code 0 (.core n) r.origin addr detail with token := heldToken n r.fid } := by
  rw [heldRecord, if_neg fun hk => State.not_holds_iff.2 hk h, heldToken_eq hn hf]
  rfl

theorem heldRecord_of_aborts (h : ¬ s.Holds n r) (code addr : Nat) (detail : Word) :
    heldRecord s n r code addr detail = Rec.of code 0 (.core n) r.origin addr detail := by
  rw [heldRecord, if_pos (State.not_holds_iff.1 h)]
  rfl

/-- The last packet of a precise fault is its record, with the token of a Held threadlet or zero (R299). -/
theorem State.takeFault_record (hn : n < 2048) (hf : r.fid < 65536) (hd : s.domainOf r.region = some 1) (code addr : Nat)
    (detail : Word) : (s.takeFault n r r.origin 0 code addr detail).net.getLast? = some ⟨.sig, .core n, .service, 1, .record 1 0
      (s.recordWords (heldRecord s n r code addr detail))⟩ := by
  by_cases h : s.Holds n r
  · rw [State.takeFault_holds h, heldRecord_of_holds h hn hf]
    exact ((s.saveRun_sameRecords ..).trans (State.trace_sameRecords ..)).sendRecord_last hd _
  · rw [State.takeFault_aborts h, heldRecord_of_aborts h]
    exact (s.abortRun_sameRecords n r).sendRecord_last hd _

end Held

/-- Settles O10: a threadlet with a park area or a free hold entry is saved there (`State.core_takeFault_holds`), another is aborted
(`State.takeFault_aborts`), and the record goes last (`State.takeFault_record`). -/
theorem preciseFault : Obligations.PreciseFault := by
  unfold Obligations.PreciseFault
  intro s n r f code addr detail hn hfid hr hf hd
  refine ⟨State.run_takeFault .., fun hp => ?parkArea, fun k hk hp hfree hlow => ?holdEntry, fun hp hfull ho => ?aborted,
    State.takeFault_record hn hfid hd code addr detail⟩
  case parkArea =>
    obtain ⟨-, f', -, hf', -⟩ := State.saveRun_parked hf 6 .faultDomain
    obtain ⟨p, hparked, hcause, hhold, htid, hslot⟩ := State.parked_saveRun hf'
    rw [State.core_takeFault_holds (.inl hp), State.holdFor_parkArea hp]
    exact ⟨f', p, hf', hparked, hcause, hhold, htid, hslot⟩
  case holdEntry =>
    have hentry := State.holdFor_lowest hp hk hfree hlow
    obtain ⟨f', hf'⟩ := State.frame_saveRun_hold hf 6 .faultDomain k
    obtain ⟨p, hparked, hcause, hhold, htid, hslot⟩ := State.parked_saveRun hf'
    rw [State.core_takeFault_holds (.inr (by rw [hentry]; rfl)), hentry]
    exact ⟨f', p, hf', hparked, hcause, hhold, htid, hslot, State.hold_saveRun ..⟩
  case aborted =>
    rw [State.takeFault_aborts (State.not_holds_iff.2 ⟨hp, hfull⟩), State.core_sendRecord]
    exact ⟨f, State.frame_abortRun hf ho, rfl⟩

end Sys2Proof.Machine
end
